-- ==== Sys2Proof/Word.lean ====
section
/-! DEFINITION. The machine's words and the one shape of sparse table every numbered collection has. -/

namespace Sys2Proof

/-- A 64-bit register value, address or memory word. -/
abbrev Word := BitVec 64

/-- One byte of memory. -/
abbrev Byte := BitVec 8

/-- A sparse table by number: ascending keys, an unlisted number has the table's own default. -/
abbrev FMap (β : Type) := List (Nat × β)

/-- A vector register of a core (05 R135); an update core uses its low 1024 bits. -/
abbrev VecReg := BitVec 2048

/-- The image of a tile register: a wide tile's 24,576 bytes; a narrow tile is its low 8,192 bytes and
a halo tile its low 16,384 bytes (02 R76 to R78). -/
abbrev TileImage := BitVec 196608

end Sys2Proof
end

