-- ==== Sys2Proof/Syntax.lean ====
section
/-! DEFINITION. The instruction set: ONE inductive, one constructor per row of the opcode table. The
rows are the RISC-V base groups, the Xhexaloth words, the tile command words, and the device's own
indivisible steps (95_what_each_step_holds), whose arguments say which unit takes the step. -/

namespace Sys2Proof

/-- Register-register operations of RV64IM, Zba, Zbb and Zicond (03 R91). -/
inductive AluOp where
  | add | sub | sll | slt | sltu | xor | srl | sra | or | and
  | mul | mulh | mulhsu | mulhu | div | divu | rem | remu
  | sh1add | sh2add | sh3add | andn | orn | xnor | min | minu | max | maxu | rol | ror
  | czeroEqz | czeroNez
  deriving DecidableEq, Repr

/-- Register-register operations of the 32-bit (OP-32) group. -/
inductive AluWOp where
  | addw | subw | sllw | srlw | sraw | mulw | divw | divuw | remw | remuw
  | rolw | rorw | addUw | sh1addUw | sh2addUw | sh3addUw
  deriving DecidableEq, Repr

/-- Operations with a 12-bit signed immediate. -/
inductive AluIOp where
  | addi | slti | sltiu | xori | ori | andi | addiw
  deriving DecidableEq, Repr

/-- Shifts by an immediate; the W forms take amounts below 32. -/
inductive ShiftOp where
  | slli | srli | srai | rori | slliUw | slliw | srliw | sraiw | roriw
  deriving DecidableEq, Repr

/-- One-source operations of Zbb. -/
inductive UnaryOp where
  | clz | ctz | cpop | clzw | ctzw | cpopw | sextb | sexth | zexth | orcb | rev8
  deriving DecidableEq, Repr

/-- Branch conditions. -/
inductive BrCond where
  | eq | ne | lt | ge | ltu | geu
  deriving DecidableEq, Repr

/-- A computational, branch or jump instruction of the RISC-V base (03 R91). Offsets are in units of 2 bytes. -/
inductive RvOp where
  | lui (rd : BitVec 5) (imm : BitVec 20)
  | auipc (rd : BitVec 5) (imm : BitVec 20)
  | jal (rd : BitVec 5) (off : BitVec 20)
  | jalr (rd rs1 : BitVec 5) (imm : BitVec 12)
  | branch (c : BrCond) (rs1 rs2 : BitVec 5) (off : BitVec 12)
  | alu (op : AluOp) (rd rs1 rs2 : BitVec 5)
  | aluW (op : AluWOp) (rd rs1 rs2 : BitVec 5)
  | aluI (op : AluIOp) (rd rs1 : BitVec 5) (imm : BitVec 12)
  | shift (op : ShiftOp) (rd rs1 : BitVec 5) (amt : BitVec 6)
  | unary (op : UnaryOp) (rd rs1 : BitVec 5)
  deriving DecidableEq, Repr

/-- Base loads. -/
inductive LoadOp where
  | lb | lh | lw | ld | lbu | lhu | lwu
  deriving DecidableEq, Repr

/-- Base stores. -/
inductive StoreOp where
  | sb | sh | sw | sd
  deriving DecidableEq, Repr

/-- Base atomic read-modify-write operations. -/
inductive AmoOp where
  | swap | add | xor | and | or | min | max | minu | maxu
  deriving DecidableEq, Repr

/-- Zicsr operations; `imm` says that the rs1 field is a 5-bit immediate. -/
inductive CsrOp where
  | rw | rs | rc
  deriving DecidableEq, Repr

/-- A 256-bit tile command word as its eight words hold it; the fields are read by accessors (03 Table 3.12). -/
structure Tcw where
  raw : BitVec 256
  deriving DecidableEq, Repr

/-- The scope of a release, an acquire or a fence, with its code (03 R96). -/
inductive Scope where
  | slot | core | quad | cluster | die | package | system
  deriving DecidableEq, Repr

/-- The operations of AMOSC (03 R96). -/
inductive ScOp where
  | add | swap | cas | min | max
  deriving DecidableEq, Repr

/-- Element widths (01 Table 1.10). -/
inductive EWidth where
  | w8 | w16 | w32
  deriving DecidableEq, Repr

/-- The predicates of VCMP (03 Table 3.8). -/
inductive Pred where
  | eq | ne | lt | le | gt | ge | uo
  deriving DecidableEq, Repr

/-- The mask operand of a vector word: MEN and MSEL (03 Table 3.3). -/
structure VMask where
  en : Bool
  sel : BitVec 2
  deriving DecidableEq, Repr

/-- Where an uncorrectable soft error strikes (20 Table 20.7). -/
inductive ErrSite where
  /-- A 64-byte flit of memory, a cache, a store or a mesh transfer. -/
  | flit (pa : Nat)
  /-- A flit of the copy that a core's L1 holds, and of the one that a die's remote-data cache holds. -/
  | l1 (u pa : Nat)
  | rdc (d pa : Nat)
  /-- A store whose clean copy is fetched again (instruction cache, range and rank tables, bazaar, mailbox). -/
  | clean
  /-- Register n of a slot, numbered as R457 numbers them. -/
  | reg (u k n : Nat)
  /-- The physical slots of an architectural tile, at the row found. -/
  | tile (u t row : Nat)
  /-- The slots that hold the result of reorder-buffer entry r, at the row found. -/
  | result (u r row : Nat)
  /-- The accumulator in transit to entry r, at the row found. -/
  | transit (u r row : Nat)
  deriving DecidableEq, Repr

/-- One step of the machine: an instruction of a hart, or an indivisible step of a device. -/
inductive Instr where
  /-- VACANT_ENCODING: A fetched word whose encoding is vacant or compressed raises ILLEGAL at decode and touches no other state. (R90) -/
  | vacantEncoding (w : BitVec 256) (tcw : Bool)
  /-- RV_ALU_OR_BRANCH: An RV64IMA, Zba, Zbb or Zicond computational, branch or jump instruction executes as the RISC-V specification states; a misaligned target raises MISALIGNED. (R91) -/
  | rvAluOrBranch (op : RvOp)
  /-- RV_LOAD: A base scalar load is translated, checked and served from a window, L1 or beyond, and performs under the consistency model. (R232) -/
  | rvLoad (op : LoadOp) (d a : BitVec 5) (i : BitVec 12)
  /-- RV_STORE: A base scalar store is translated and checked, and then performs in an owned L1 line or by write-through to the home slice. (R232) -/
  | rvStore (op : StoreOp) (a b : BitVec 5) (i : BitVec 12)
  /-- RV_AMO: A base AMO performs at the home slice after any recall, with aq and rl acting at system scope. (R235) -/
  | rvAmo (op : AmoOp) (dbl aq rl : Bool) (d a b : BitVec 5)
  /-- LR: LR loads a word and sets a reservation on its 256-byte line. (R91) -/
  | lr (dbl aq rl : Bool) (d a : BitVec 5)
  /-- SC: SC stores only if the line reservation still holds, and reports success or failure. (R91) -/
  | sc (dbl aq rl : Bool) (d a b : BitVec 5)
  /-- CSR_ACCESS: A Zicsr instruction reads or writes a Hexaloth or standard CSR under the scope and access rules, raising ILLEGAL on forbidden numbers and writes. (R23) -/
  | csrAccess (op : CsrOp) (imm : Bool) (d a : BitVec 5) (csr : BitVec 12)
  /-- FENCE: A base FENCE or FENCE.TSO acts as FENCE.S at system scope, and has no effect when its predecessor or successor set is empty. (R91) -/
  | fence (fm pred succ : BitVec 4) (d a : BitVec 5)
  /-- FENCE_I: FENCE.I makes earlier stores visible to later fetches, invalidates unlocked I-cache lines and refetches locked lines. (R91) -/
  | fenceI (d a : BitVec 5) (i : BitVec 12)
  /-- ECALL: ecall raises the management trap ECALL on slots 0-6 and ILLEGAL on slot 7. (R91) -/
  | ecall
  /-- EBREAK: ebreak raises the management trap BREAK. (R91) -/
  | ebreak
  /-- WFI: wfi parks the slot with PARK 4 on no address until an inbox delivery, a queue entry or a pending event wakes and completes it. (R323) -/
  | wfi
  /-- MRET: mret on slot 7 restarts the trapped slot at hxepc, and either idles slot 7 or re-enters the resident handler for the next pending event. (R53) -/
  | mret
  /-- FMT: FMT sets a pending format prefix PP and PFX for the slot's next instruction. (R113) -/
  | fmt (p : BitVec 12)
  /-- SBIND: SBIND binds x28-x31 to a stream generator with an address and a configuration. (R116) -/
  | sbind (g : BitVec 2) (a b : BitVec 5)
  /-- SUNBIND: SUNBIND unbinds a stream register and discards the elements fetched ahead. (R120) -/
  | sunbind (g : BitVec 2)
  /-- SGSTAT: SGSTAT returns a stream generator's next address. (R120) -/
  | sgstat (d : BitVec 5) (g : BitVec 2)
  /-- STREAM_FETCH: A read stream fetches an element ahead as a load of its slot, recording any fault against that element. (R117) -/
  | streamFetch (u k i : Nat)
  /-- STREAM_STORE_ACCEPT: L1 accepts an appended stream element, which frees a generator entry. (R119) -/
  | streamStoreAccept (u k i : Nat)
  /-- QBIND: QBIND binds or unbinds a queue register to an engine port and discards its entries. (R122) -/
  | qbind (n : BitVec 3) (a : BitVec 5)
  /-- QPUSH: QPUSH appends a value to a LOCAL-bound queue, parking when the queue is full. (R123) -/
  | qpush (n : BitVec 3) (a : BitVec 5)
  /-- QPOP: QPOP removes the head of a queue into xd, parking when the queue is empty. (R123) -/
  | qpop (d : BitVec 5) (n : BitVec 3)
  /-- QPOLL: QPOLL removes the head of a queue if there is one and never parks. (R123) -/
  | qpoll (d : BitVec 5) (n : BitVec 3)
  /-- QCNT: QCNT returns the number of entries in a queue. (R123) -/
  | qcnt (d : BitVec 5) (n : BitVec 3)
  /-- QUEUE_HELD_DELIVERY: An engine value held for a full or unbound queue port is delivered once an entry frees or a queue binds the port. (R124) -/
  | queueHeldDelivery (u k port : Nat)
  /-- BMOVE: BMOVE copies a block in restartable steps of at most 256 bytes, forward or backward, updating its registers step by step. (R127) -/
  | bmove (d a b : BitVec 5)
  /-- BFILLW: BFILLW fills a block with a 64-bit pattern in restartable steps. (R126) -/
  | bfillw (d a b : BitVec 5)
  /-- REPB: REPB fills a block with one byte in restartable steps. (R126) -/
  | repb (d a b : BitVec 5)
  /-- ICLOCK: ICLOCK fetches and locks the instruction-cache lines of a span within the way and line limits, and returns the count locked. (R130) -/
  | iclock (d a b : BitVec 5)
  /-- ICUNLK: ICUNLK unlocks the instruction-cache lines of a span. (R131) -/
  | icunlk (a b : BitVec 5)
  /-- LDNA: LDNA is a 64-bit load that allocates nothing in L1. (R133) -/
  | ldna (d a : BitVec 5) (i : BitVec 12)
  /-- STBY: STBY is a 64-bit store that bypasses L1 or writes back and invalidates the line. (R133) -/
  | stby (a b : BitVec 5) (i : BitVec 12)
  /-- PREF: PREF hints that a line should be brought into L1, and never traps. (R134) -/
  | pref (a : BitVec 5) (i : BitVec 12)
  /-- LDAQ: LDAQ is a 64-bit load and an acquire at the encoded scope. (R270) -/
  | ldaq (d a : BitVec 5) (sc : Scope)
  /-- STRL: STRL is a 64-bit store and a release at the encoded scope. (R271) -/
  | strl (a b : BitVec 5) (sc : Scope)
  /-- FENCE_RG: FENCE.RG orders the slot's accesses to one range as a scoped fence. (R272) -/
  | fenceRg (a : BitVec 5) (sc : Scope)
  /-- FENCE_S: FENCE.S orders all earlier before all later accesses, and acts as a release and an acquire at its scope. (R273) -/
  | fenceS (sc : Scope)
  /-- FENCE_E: FENCE.E waits for the core's earlier engine operations to complete or be cancelled, and acquires their payloads. (R274) -/
  | fenceE
  /-- AMOSC: AMOSC announces itself in the SC order and performs add, swap, cas, min or max at the home slice. (R275) -/
  | amosc (op : ScOp) (d a b : BitVec 5)
  /-- BCOPY: BCOPY reads a descriptor, checks and locks its spans, and sends a waybill for a bulk copy, returning a handle. (R279) -/
  | bcopy (d a : BitVec 5)
  /-- BCOPYC: BCOPYC issues a copy clipped to a tensor and posts a box message to its own inbox. (R291) -/
  | bcopyc (d a : BitVec 5)
  /-- BGATH: BGATH issues an indexed gather into memory or into a GATH queue port. (R293) -/
  | bgath (d a : BitVec 5)
  /-- BSCAT: BSCAT issues an indexed scatter. (R293) -/
  | bscat (d a : BitVec 5)
  /-- BCANCEL: BCANCEL asks the engine to withdraw an operation by handle, and returns 0, 1 or 2. (R290) -/
  | bcancel (d a : BitVec 5)
  /-- CTEST: CTEST tests a core-store word against a mask, and is an acquire when it succeeds. (R288) -/
  | ctest (d a b : BitVec 5)
  /-- CWAITM: CWAITM parks until a core-store word satisfies a mask, and then acquires. (R289) -/
  | cwaitm (a b : BitVec 5)
  /-- WAYBILL_ARRIVAL: A waybill reaches its streamer, gather pool or copy engine and is queued in arrival order. (R283) -/
  | waybillArrival (u n : Nat)
  /-- ENGINE_START: An engine starts a queued operation by issuing its first source read. (R284) -/
  | engineStart (u n : Nat)
  /-- ENGINE_CHUNK_LANDED: All bytes of a 512-byte chunk have performed, and its bitmap bit is set as a release. (R286) -/
  | engineChunkLanded (u n chunk : Nat)
  /-- ENGINE_COMPLETE: The engine writes the completion word and delivers the COMPL event, and the operation's range locks are released. (R286) -/
  | engineComplete (u n : Nat)
  /-- GATHER_ROW_DELIVERY: A queue-mode BGATH delivers one row as entries to its GATH port. (R295) -/
  | gatherRowDelivery (u n : Nat)
  /-- CANCEL_REQUEST: A BCANCEL request reaches the engine, which withdraws the operation or reports that it has started. (R290) -/
  | cancelRequest (u k : Nat)
  /-- SEND: SEND queues a message to a rank on the request network. (R310) -/
  | send (a b : BitVec 5)
  /-- SENDR: SENDR queues a message to a rank on the reply network. (R310) -/
  | sendr (a b : BitVec 5)
  /-- AMSG: AMSG queues an active message that will start a handler at the destination core. (R310) -/
  | amsg (a b : BitVec 5)
  /-- RECV: RECV takes the first takeable inbox message into memory, parking when none can be taken. (R315) -/
  | recv (d a : BitVec 5)
  /-- RECVP: RECVP takes a message if one can be taken, and otherwise returns all ones. (R315) -/
  | recvp (d a : BitVec 5)
  /-- LOOPBK: LOOPBK on slot 7 replays up to 8 saved records into the inbox, or re-arms the replay wake. (R317) -/
  | loopbk (a b : BitVec 5)
  /-- HRET: HRET ends the active-message handler and frees slot 6. (R320) -/
  | hret
  /-- RANKGET: RANKGET returns a rank-table entry or the NI status word. (R305) -/
  | rankget (d a : BitVec 5)
  /-- RANKSET: RANKSET writes a rank-table entry or MYRANK, releasing held messages when INTRANSIT clears. (R304) -/
  | rankset (a b : BitVec 5)
  /-- BARR: BARR arrives at a named barrier for the core's next phase without waiting. (R326) -/
  | barr (d a : BitVec 5)
  /-- BWAIT: BWAIT parks until a barrier's phase differs from the given phase. (R328) -/
  | bwait (a b : BitVec 5)
  /-- BARW: BARW arrives at a barrier and then waits for the phase to end. (R326) -/
  | barw (d a : BitVec 5)
  /-- BCFG: BCFG configures a barrier record's mask and resets its counts. (R325) -/
  | bcfg (a b : BitVec 5)
  /-- BSTAT: BSTAT returns a barrier record. (R329) -/
  | bstat (d a : BitVec 5)
  /-- WAITA: WAITA completes or parks on the slot's watched line until a write hits it. (R323) -/
  | waita (a : BitVec 5)
  /-- BARRIER_RELEASE: Eight cycles after ARR equals MASK, every member record flips PHASE and moves NARR into ARR. (R327) -/
  | barrierRelease (c b : Nat)
  /-- MESSAGE_INJECT: A send queue injects its head message into the mesh once the sender's earlier accesses have performed. (R312) -/
  | messageInject (u : Nat) (reply : Bool)
  /-- MESSAGE_ARRIVAL: A message arrives at the destination NI and enters the inbox in stamp order, or is held at the input buffer. (R316) -/
  | messageArrival (src dst vn : Nat)
  /-- INBOX_HELD_ENTRY: A held arrival enters the inbox when entries free, VN1 first, then VN2, then VN0. (R316) -/
  | inboxHeldEntry (u : Nat)
  /-- HANDLER_START: When slot 6 is idle, the first AMSG record in the inbox is moved to the handler record and starts a handler on slot 6. (R319) -/
  | handlerStart (u : Nat)
  /-- MAILBOX_RECORD_ARRIVAL: A trap or notice record lands in a reserved or shared mailbox slot, which becomes FULL and wakes the CMC. (R414) -/
  | mailboxRecordArrival (c src : Nat)
  /-- MBXRD: MBXRD copies the oldest FULL mailbox record to private memory and marks it READ. (R416) -/
  | mbxrd (d a : BitVec 5)
  /-- MBXACK: MBXACK frees a READ slot with no reply needed, or a WITHDRAWN slot. (R417) -/
  | mbxack (a : BitVec 5)
  /-- MBXPOST: MBXPOST captures a reply block for a READ slot, which becomes REPLIED. (R418) -/
  | mbxpost (a b : BitVec 5)
  /-- RESUME: RESUME sends a slot's reply to its source, waits for the acknowledgement and empties the slot. (R419) -/
  | resume (a : BitVec 5)
  /-- RESUME_REPLY_APPLY: The source applies a reply with RETRY, SKIP, REDIRECT or REMOVE, writes REG and clears PARK. (R419) -/
  | resumeReplyApply (c i : Nat)
  /-- SLOTSAVE: SLOTSAVE writes a slot image, a tile part or the core block, withdrawing mailbox records and optionally vacating the core. (R425) -/
  | slotsave (a b : BitVec 5)
  /-- SLOTREST: SLOTREST restores a checked core block, slot image or tile part, re-arming waits and re-posting trap records. (R426) -/
  | slotrest (a b : BitVec 5)
  /-- NISPILL: NISPILL spills the inbox, held buffer and send queues to a buffer, and may arm late capture. (R428) -/
  | nispill (d a : BitVec 5)
  /-- CUTREQ: CUTREQ starts a consistent cut of a job, or signals PREEMPT to chosen cores. (R433) -/
  | cutreq (d a : BitVec 5)
  /-- CUTSTAT: CUTSTAT returns a job's cut colour, D, stop count and state. (R434) -/
  | cutstat (d a : BitVec 5)
  /-- CUT_ANNOUNCE: Forty cycles after CUTREQ, the job's NIs zero the new-colour counts, the CMCs and update cores flip colour, and the job's cores receive PREEMPT. (R432) -/
  | cutAnnounce
  /-- PREEMPT_STOP: A core takes PREEMPT: it stops slots 0-6, drains the pipe, tile stream, vector unit and AMOSCs, and enters the resident handler. (R420) -/
  | preemptStop (u : Nat)
  /-- DUMPSEAL: DUMPSEAL waits for every context of a removed job, seals its dump and releases its resources. (R435) -/
  | dumpseal (a : BitVec 5)
  /-- TSPAWN: TSPAWN checks a continuation, reserves a bazaar entry and releases it, or returns ENQUEUE_FULL. (R377) -/
  | tspawn (d a : BitVec 5)
  /-- TDEP: TDEP decrements a dependency counter at its home slice and releases the wait list when the count reaches zero. (R378) -/
  | tdep (a : BitVec 5)
  /-- TWAIT: TWAIT drains, then either continues on a zero count or saves the task and pushes it onto the counter's wait list. (R380) -/
  | twait (a : BitVec 5)
  /-- TSUSP: TSUSP drains, saves the task and re-releases it to the return list, optionally with a new placement. (R381) -/
  | tsusp (a : BitVec 5)
  /-- TEXIT: TEXIT drains, decrements CTR if it is set, and frees the slot. (R382) -/
  | texit
  /-- PHASE: PHASE sends an operating-point table entry to the quad controller as the core's request. (R383) -/
  | phase (a : BitVec 5)
  /-- TASK_WALK_OFFER: A released task walks one hop toward its hint and is offered to the cores of a station within RADIUS. (R372) -/
  | taskWalkOffer (i : Nat)
  /-- QUEUE_TAKE: A core with an allowed idle slot takes the oldest runnable entry of the highest priority from its cluster queues. (R373) -/
  | queueTake (u k : Nat)
  /-- STEPINC: STEPINC advances hxstep, parking when the lead bound would break. (R399) -/
  | stepinc (a : BitVec 5)
  /-- GSWAIT: GSWAIT parks until hxgstep exceeds the bound, and then acquires. (R400) -/
  | gswait (a : BitVec 5)
  /-- SLD: SLD reads a stamped word decayed to the issue step. (R402) -/
  | sld (d a : BitVec 5)
  /-- SST: SST writes a stamped word with the issue step as its stamp. (R402) -/
  | sst (a b : BitVec 5)
  /-- SADD: SADD decays and adds into a stamped word at the home slice. (R402) -/
  | sadd (a b : BitVec 5)
  /-- SMERGE: SMERGE merges two stamped values at the later stamp. (R402) -/
  | smerge (a b : BitVec 5)
  /-- VSLD: VSLD reads active stamped words into a vector with decay. (R403) -/
  | vsld (d : BitVec 4) (a : BitVec 5) (mk : VMask)
  /-- VSST: VSST writes active stamped words at the issue step. (R403) -/
  | vsst (s : BitVec 4) (a : BitVec 5) (mk : VMask)
  /-- VSADD: VSADD applies AddAt to each active stamped word, all or nothing. (R403) -/
  | vsadd (s : BitVec 4) (a : BitVec 5) (mk : VMask)
  /-- VSTPAIR: VSTPAIR on an update core writes elements to a plain copy and its transposed copy, committed at one instant. (R409) -/
  | vstpair (s : BitVec 4) (a : BitVec 5) (x : BitVec 5) (mk : VMask)
  /-- PAIR_RESERVE_GRANT: A slice grants a VSTPAIR's pair-buffer reservation whole once it has room. (R411) -/
  | pairReserveGrant (u : Nat)
  /-- PAIR_LINE_LOCK: A slice locks a line into its pair buffer, invalidates copies and acknowledges. (R410) -/
  | pairLineLock (u : Nat)
  /-- PAIR_COMMIT: Each slice writes the VSTPAIR's bytes, returns the line to its set and releases waiting requests. (R410) -/
  | pairCommit (u : Nat)
  /-- WINSET: WINSET writes an update window of an update core. (R407) -/
  | winset (a b : BitVec 5)
  /-- GSTEP_PUBLISH: Every 256 reference counts, the reduction tree samples live reports and publishes each domain's G, and cut D and stop counts. (R389) -/
  | gstepPublish
  /-- RINS: RINS publishes a new range and drops overlapping stale entries under the drain rule. (R355) -/
  | rins (a : BitVec 5)
  /-- RSPLIT: RSPLIT splits a normal range at a VA. (R356) -/
  | rsplit (a b : BitVec 5)
  /-- RMERGE: RMERGE merges two adjacent compatible ranges. (R357) -/
  | rmerge (a b : BitVec 5)
  /-- RINVAL: RINVAL drops an invalid range's entries under the drain rule. (R359) -/
  | rinval (a : BitVec 5)
  /-- RPROBE: RPROBE walks a range tree and returns the leaf descriptor PA and state. (R359) -/
  | rprobe (d a : BitVec 5)
  /-- RMOVE: RMOVE gives a range to a compaction engine to move within HBM. (R360) -/
  | rmove (d a b : BitVec 5)
  /-- RRES: RRES sets a range's residency window. (R358) -/
  | rres (a b : BitVec 5)
  /-- BOFFL: BOFFL orders a range sent out to capacity memory. (R360) -/
  | boffl (d a b : BitVec 5)
  /-- BRET: BRET orders a range brought back from capacity memory. (R360) -/
  | bret (d a b : BitVec 5)
  /-- RANGE_BROADCAST_ARRIVAL: A range broadcast reaches a range table, which drops, shortens, fills or updates entries. (R353) -/
  | rangeBroadcastArrival (u : Nat)
  /-- ORDER_DRAIN_END: An order's drain completes, and the compaction engine begins copying. (R361) -/
  | orderDrainEnd (m i : Nat)
  /-- ORDER_COPY_LINE: The compaction engine locks, copies and unlocks one line of an order. (R363) -/
  | orderCopyLine (m i : Nat)
  /-- ORDER_SWITCH: The engine writes the range's final fields with STATE normal and broadcasts them under the drain rule. (R361) -/
  | orderSwitch (m i : Nat)
  /-- ORDER_COMPLETION: The engine writes CVAL to the order's completion word. (R361) -/
  | orderCompletion (m i : Nat)
  /-- VLGR: VLGR sets the vector length and element width. (R138) -/
  | vlgr (d a : BitVec 5) (w : EWidth)
  /-- VECTOR_UNIT_ENTER: A waiting slot's vector instruction enters the unit when one of the four places frees. (R163) -/
  | vectorUnitEnter (q : Nat)
  /-- VECTOR_COMPLETE: A vector instruction writes its results and flags, and its slot's PC advances. (R49) -/
  | vectorComplete (q i : Nat)
  /-- VADD: VADD adds vector elements. (R147) -/
  | vadd (d : BitVec 4) (a : BitVec 4) (b : BitVec 4) (mk : VMask)
  /-- VADD_X: VADD with an x-register in Va's place. (R147) -/
  | vaddX (d : BitVec 4) (a : BitVec 5) (b : BitVec 4) (mk : VMask)
  /-- VSUB: VSUB subtracts vector elements. (R147) -/
  | vsub (d : BitVec 4) (a : BitVec 4) (b : BitVec 4) (mk : VMask)
  /-- VSUB_X: VSUB with an x-register operand. (R147) -/
  | vsubX (d : BitVec 4) (a : BitVec 5) (b : BitVec 4) (mk : VMask)
  /-- VMUL: VMUL multiplies vector elements. (R147) -/
  | vmul (d : BitVec 4) (a : BitVec 4) (b : BitVec 4) (mk : VMask)
  /-- VMUL_X: VMUL with an x-register operand. (R147) -/
  | vmulX (d : BitVec 4) (a : BitVec 5) (b : BitVec 4) (mk : VMask)
  /-- VFMA: VFMA performs a fused multiply-add into Vd. (R147) -/
  | vfma (d : BitVec 4) (a : BitVec 4) (b : BitVec 4) (mk : VMask)
  /-- VFMA_X: VFMA with an x-register operand. (R147) -/
  | vfmaX (d : BitVec 4) (a : BitVec 5) (b : BitVec 4) (mk : VMask)
  /-- VFNMA: VFNMA computes c minus a times b with one rounding. (R147) -/
  | vfnma (d : BitVec 4) (a : BitVec 4) (b : BitVec 4) (mk : VMask)
  /-- VFNMA_X: VFNMA with an x-register operand. (R147) -/
  | vfnmaX (d : BitVec 4) (a : BitVec 5) (b : BitVec 4) (mk : VMask)
  /-- VDIV: VDIV divides vector elements. (R147) -/
  | vdiv (d : BitVec 4) (a : BitVec 4) (b : BitVec 4) (mk : VMask)
  /-- VDIV_X: VDIV with an x-register operand. (R147) -/
  | vdivX (d : BitVec 4) (a : BitVec 5) (b : BitVec 4) (mk : VMask)
  /-- VSQRT: VSQRT takes elementwise square roots. (R147) -/
  | vsqrt (d : BitVec 4) (b : BitVec 4) (mk : VMask)
  /-- VRSQ: VRSQ approximates the reciprocal square root. (R149) -/
  | vrsq (d : BitVec 4) (b : BitVec 4) (mk : VMask)
  /-- VEXP2: VEXP2 approximates 2 to the power of each element. (R149) -/
  | vexp2 (d : BitVec 4) (b : BitVec 4) (mk : VMask)
  /-- VLOG2: VLOG2 approximates the base-2 logarithm. (R149) -/
  | vlog2 (d : BitVec 4) (b : BitVec 4) (mk : VMask)
  /-- VMAX: VMAX takes maximumNumber elementwise. (R147) -/
  | vmax (d : BitVec 4) (a : BitVec 4) (b : BitVec 4) (mk : VMask)
  /-- VMAX_X: VMAX with an x-register operand. (R147) -/
  | vmaxX (d : BitVec 4) (a : BitVec 5) (b : BitVec 4) (mk : VMask)
  /-- VMIN: VMIN takes minimumNumber elementwise. (R147) -/
  | vmin (d : BitVec 4) (a : BitVec 4) (b : BitVec 4) (mk : VMask)
  /-- VMIN_X: VMIN with an x-register operand. (R147) -/
  | vminX (d : BitVec 4) (a : BitVec 5) (b : BitVec 4) (mk : VMask)
  /-- VABS: VABS takes elementwise absolute values. (R148) -/
  | vabs (d : BitVec 4) (b : BitVec 4) (mk : VMask)
  /-- VNEG: VNEG negates elements. (R148) -/
  | vneg (d : BitVec 4) (b : BitVec 4) (mk : VMask)
  /-- VCMP: VCMP compares elements and writes a lane mask. (R150) -/
  | vcmp (k : BitVec 2) (a : BitVec 4) (b : BitVec 4) (p : Pred) (mk : VMask)
  /-- VCMP_X: VCMP with an x-register in Va's place. (R150) -/
  | vcmpX (k : BitVec 2) (a : BitVec 5) (b : BitVec 4) (p : Pred) (mk : VMask)
  /-- VSEL: VSEL selects elements of Va or Vb by a mask. (R151) -/
  | vsel (d : BitVec 4) (a : BitVec 4) (b : BitVec 4) (k : BitVec 2)
  /-- VSEL_X: VSEL with an x-register value in Va's place. (R151) -/
  | vselX (d : BitVec 4) (a : BitVec 5) (b : BitVec 4) (k : BitVec 2)
  /-- VAND: VAND combines elements with bitwise and. (R152) -/
  | vand (d : BitVec 4) (a : BitVec 4) (b : BitVec 4) (mk : VMask)
  /-- VAND_X: VAND with an x-register operand. (R152) -/
  | vandX (d : BitVec 4) (a : BitVec 5) (b : BitVec 4) (mk : VMask)
  /-- VOR: VOR combines elements with bitwise or. (R152) -/
  | vor (d : BitVec 4) (a : BitVec 4) (b : BitVec 4) (mk : VMask)
  /-- VOR_X: VOR with an x-register operand. (R152) -/
  | vorX (d : BitVec 4) (a : BitVec 5) (b : BitVec 4) (mk : VMask)
  /-- VXOR: VXOR combines elements with bitwise exclusive or. (R152) -/
  | vxor (d : BitVec 4) (a : BitVec 4) (b : BitVec 4) (mk : VMask)
  /-- VXOR_X: VXOR with an x-register operand. (R152) -/
  | vxorX (d : BitVec 4) (a : BitVec 5) (b : BitVec 4) (mk : VMask)
  /-- VSHL: VSHL shifts elements left. (R152) -/
  | vshl (d : BitVec 4) (a : BitVec 4) (b : BitVec 4) (mk : VMask)
  /-- VSHL_X: VSHL with a scalar shift amount. (R152) -/
  | vshlX (d : BitVec 4) (a : BitVec 5) (b : BitVec 4) (mk : VMask)
  /-- VSHR: VSHR shifts elements right logically. (R152) -/
  | vshr (d : BitVec 4) (a : BitVec 4) (b : BitVec 4) (mk : VMask)
  /-- VSHR_X: VSHR with a scalar shift amount. (R152) -/
  | vshrX (d : BitVec 4) (a : BitVec 5) (b : BitVec 4) (mk : VMask)
  /-- VSRA: VSRA shifts elements right arithmetically. (R152) -/
  | vsra (d : BitVec 4) (a : BitVec 4) (b : BitVec 4) (mk : VMask)
  /-- VSRA_X: VSRA with a scalar shift amount. (R152) -/
  | vsraX (d : BitVec 4) (a : BitVec 5) (b : BitVec 4) (mk : VMask)
  /-- VCVT: VCVT converts elements between formats under the prefix. (R153) -/
  | vcvt (d : BitVec 4) (b : BitVec 4) (mk : VMask)
  /-- VQNT: VQNT quantises FP32 blocks into block-scaled elements and scales. (R154) -/
  | vqnt (d : BitVec 4) (a : BitVec 4) (b : BitVec 4) (mk : VMask)
  /-- VRSUM: VRSUM sums active elements by the pairwise tree onto a starting value. (R155) -/
  | vrsum (d : BitVec 4) (a : BitVec 4) (b : BitVec 4) (mk : VMask)
  /-- VRMAX: VRMAX reduces active elements by maximum. (R155) -/
  | vrmax (d : BitVec 4) (a : BitVec 4) (b : BitVec 4) (mk : VMask)
  /-- VRMIN: VRMIN reduces active elements by minimum. (R155) -/
  | vrmin (d : BitVec 4) (a : BitVec 4) (b : BitVec 4) (mk : VMask)
  /-- VSLIDE: VSLIDE moves elements by a signed amount taken from a vector. (R157) -/
  | vslide (d : BitVec 4) (a : BitVec 4) (b : BitVec 4) (mk : VMask)
  /-- VSLIDE_X: VSLIDE with the amount in an x-register. (R157) -/
  | vslideX (d : BitVec 4) (a : BitVec 5) (b : BitVec 4) (mk : VMask)
  /-- VPERM: VPERM permutes Vb by the indices in Va. (R158) -/
  | vperm (d : BitVec 4) (a : BitVec 4) (b : BitVec 4) (mk : VMask)
  /-- VBCST: VBCST broadcasts an x-register to the active elements. (R156) -/
  | vbcst (d : BitVec 4) (a : BitVec 5) (mk : VMask)
  /-- VMVXV: VMVXV writes an x-register to element 0. (R156) -/
  | vmvxv (d : BitVec 4) (a : BitVec 5)
  /-- VMVVX: VMVVX writes element 0 to an x-register. (R156) -/
  | vmvvx (d : BitVec 5) (b : BitVec 4)
  /-- VLD: VLD loads contiguous elements. (R144) -/
  | vld (d : BitVec 4) (a : BitVec 5) (mk : VMask)
  /-- VST: VST stores contiguous elements. (R144) -/
  | vst (s : BitVec 4) (a : BitVec 5) (mk : VMask)
  /-- VLDS: VLDS loads strided elements. (R144) -/
  | vlds (d : BitVec 4) (a : BitVec 5) (x : BitVec 5) (mk : VMask)
  /-- VSTS: VSTS stores strided elements. (R144) -/
  | vsts (s : BitVec 4) (a : BitVec 5) (x : BitVec 5) (mk : VMask)
  /-- VLDX: VLDX loads indexed elements. (R144) -/
  | vldx (d : BitVec 4) (a : BitVec 5) (i : BitVec 4) (mk : VMask)
  /-- VSTX: VSTX stores indexed elements. (R144) -/
  | vstx (s : BitVec 4) (a : BitVec 5) (i : BitVec 4) (mk : VMask)
  /-- VLUT: VLUT decodes byte codes through a 256-entry table. (R159) -/
  | vlut (d : BitVec 4) (a : BitVec 5) (i : BitVec 4) (mk : VMask)
  /-- MAND: MAND combines two masks with and. (R160) -/
  | mand (d : BitVec 2) (a : BitVec 2) (b : BitVec 2)
  /-- MOR: MOR combines two masks with or. (R160) -/
  | mor (d : BitVec 2) (a : BitVec 2) (b : BitVec 2)
  /-- MNOT: MNOT inverts a mask. (R160) -/
  | mnot (d : BitVec 2) (a : BitVec 2)
  /-- MPOP: MPOP counts the set mask bits within vl. (R161) -/
  | mpop (d : BitVec 5) (a : BitVec 2)
  /-- TLD: TLD loads a strided box into a narrow tile. (R176) -/
  | tld (t : Tcw)
  /-- TST: TST stores a narrow tile to a box after retirement. (R180) -/
  | tst (t : Tcw)
  /-- TLDH: TLDH loads a halo tile. (R177) -/
  | tldh (t : Tcw)
  /-- TLDM: TLDM loads a tile by joining a convoy. (R178) -/
  | tldm (t : Tcw)
  /-- TGATH: TGATH loads rows at listed offsets. (R179) -/
  | tgath (t : Tcw)
  /-- TSAVE: TSAVE writes a tile's raw image. (R181) -/
  | tsave (t : Tcw)
  /-- TREST: TREST reads a raw narrow or wide tile image. (R182) -/
  | trest (t : Tcw)
  /-- TMOV: TMOV copies a tile of any shape. (R183) -/
  | tmov (t : Tcw)
  /-- TZERO: TZERO writes a zero narrow or wide tile. (R184) -/
  | tzero (t : Tcw)
  /-- TFILL: TFILL fills a tile with one encoded element. (R185) -/
  | tfill (t : Tcw)
  /-- TADD: TADD adds two tiles elementwise. (R186) -/
  | tadd (t : Tcw)
  /-- TSUB: TSUB subtracts two tiles elementwise. (R186) -/
  | tsub (t : Tcw)
  /-- TMUL: TMUL multiplies two tiles elementwise. (R186) -/
  | tmul (t : Tcw)
  /-- TMAX: TMAX takes the elementwise maximum. (R186) -/
  | tmax (t : Tcw)
  /-- TMIN: TMIN takes the elementwise minimum. (R186) -/
  | tmin (t : Tcw)
  /-- TSCL: TSCL scales a tile by an E register. (R187) -/
  | tscl (t : Tcw)
  /-- TTRN: TTRN transposes 64 by 64 blocks. (R188) -/
  | ttrn (t : Tcw)
  /-- TRED: TRED reduces rows or columns into a tile. (R189) -/
  | tred (t : Tcw)
  /-- TRED_QUEUE: TRED with QEN reduces a whole tile to one value delivered to port TILE. (R190) -/
  | tredQueue (t : Tcw)
  /-- TCVT: TCVT converts a narrow or wide tile into a narrow format. (R191) -/
  | tcvt (t : Tcw)
  /-- TQNT: TQNT quantises a tile into block-scaled elements or scales. (R192) -/
  | tqnt (t : Tcw)
  /-- TDEQ: TDEQ expands a block-scaled or LC2 tile. (R193) -/
  | tdeq (t : Tcw)
  /-- TFENCE: TFENCE retires when older tile work has retired and written, and holds later memory accesses of slot 0 until then. (R194) -/
  | tfence (t : Tcw)
  /-- TMMA: TMMA accumulates A times B-transpose into a wide tile. (R206) -/
  | tmma (t : Tcw)
  /-- TMMAS: TMMAS is TMMA with groups skipped by the SK streams. (R209) -/
  | tmmas (t : Tcw)
  /-- TMMAW: TMMAW reads its A operand through a window of a halo tile. (R210) -/
  | tmmaw (t : Tcw)
  /-- TMMAD: TMMAD reads its B operand from memory through the tile fetch unit. (R211) -/
  | tmmad (t : Tcw)
  /-- ESET: ESET writes an E register from an x-register at rename. (R213) -/
  | eset (t : Tcw)
  /-- ESET_IMM: ESET writes an E register from the immediate at rename. (R213) -/
  | esetImm (t : Tcw)
  /-- SKSET: SKSET writes a skip-stream register at rename. (R214) -/
  | skset (t : Tcw)
  /-- SKGET: SKGET delivers a skip-stream register's value to port TILE. (R214) -/
  | skget (t : Tcw)
  /-- TILE_RENAME: The front end renames the next TCW of the input queue once resources exist, checking faults and computing envelopes. (R38) -/
  | tileRename (u : Nat)
  /-- TILE_ISSUE: A renamed tile instruction issues to its unit once its sources, holds and unit allow. (R42) -/
  | tileIssue (u r : Nat)
  /-- TILE_COMPLETE: A tile instruction's destination slots hold their final value, or a store has been checked and buffered. (R43) -/
  | tileComplete (u r : Nat)
  /-- TILE_RETIRE: The reorder buffer retires the head instruction, freeing slots, setting flags and starting store writes. (R43) -/
  | tileRetire (u : Nat)
  /-- TILE_STORE_WRITTEN: A retired tile store has written its last line to L1, which releases holds on it. (R41) -/
  | tileStoreWritten (u : Nat)
  /-- TILE_FAULT: A recorded fault at the head discards younger work, builds the replay list and reports a tile management trap through slot 0. (R46) -/
  | tileFault (u : Nat)
  /-- MATRIX_START: A ready matrix instruction starts on a leased array the slew limiter allows, lowering LEFT. (R203) -/
  | matrixStart (u r a : Nat)
  /-- LEASE_GRANT: A free array grants a lease round-robin 4 cycles after a request. (R215) -/
  | leaseGrant (q a : Nat)
  /-- LEASE_END: A lease ends when LEFT runs out, CYC reaches 0, another core waits on a free array, or the context switches out; the array then renews or arbitrates. (R215) -/
  | leaseEnd (q a : Nat)
  /-- SLEW_STEP: At each 4-cycle step, the slew limiter sets the ceiling and floor, grants held starts and runs fillers. (R219) -/
  | slewStep (c : Nat)
  /-- DUTY_FRAME: At a 16-cycle frame boundary, a newly written DUTY takes effect on issue. (R220) -/
  | dutyFrame (u : Nat)
  /-- CONVOY_REQUEST: A TLDM's convoy request reaches the leader slice, and opens a window or joins a matching convoy. (R296) -/
  | convoyRequest (u r : Nat)
  /-- CONVOY_WINDOW_CLOSE: A convoy's window closes 64 cycles after its first request. (R296) -/
  | convoyWindowClose (i : Nat)
  /-- CONVOY_LINE_SEND: The leader reads, pins and sends a convoy line down the replication tree. (R297) -/
  | convoyLineSend (i : Nat)
  /-- CONVOY_UNICAST: The leader sends a missed line to a late member as a unicast. (R298) -/
  | convoyUnicast (i : Nat)
  /-- CONVOY_LINE_ARRIVAL: A convoy or unicast line arrives at a member, and its TLDM completes after its last line. (R297) -/
  | convoyLineArrival (i u : Nat)
  /-- CONVOY_END: A convoy ends when all members are served, or 4,096 cycles after W, and releases its pins. (R299) -/
  | convoyEnd (i : Nat)
  /-- RDC_INVALIDATE_APPLY: An RDC applies an invalidation from the other die in order, dropping its copy and the L1 copies it supplied. (R239) -/
  | rdcInvalidateApply (d : Nat)
  /-- WRITE_THROUGH_REPLY: The home's reply to a write-through store or atomic arrives, and the access performs for its agent. (R234) -/
  | writeThroughReply (u k : Nat)
  /-- DUMP_RECORD_WRITTEN: A stopped core or update core finishes writing its record to the dump area, or records a fault and sets INCOMPLETE. (R450) -/
  | dumpRecordWritten (u : Nat)
  /-- DOUBLE_FAULT: A faulting fetch of a CMC's trap vector makes the management station stop the CMC, remove its jobs, seal the dumps and reset it. (R452) -/
  | doubleFault (c : Nat)
  /-- POINT_CHANGE_DONE: A quad's change of operating point completes within 5 µs. (R460) -/
  | pointChangeDone (q : Nat)
  /-- HBM_CLOCK_CHANGE: An HBM clock change holds HBM requests for at most 20 µs and then releases them unchanged. (R243) -/
  | hbmClockChange (d : Nat)
  /-- DUMP_SEAL_BY_STATION: The management station seals a dump it writes and releases the job's resources. (R451) -/
  | dumpSealByStation (j : Nat)
  /-- REGISTER_WRITE: A write to a device or control register with no row of its own updates its fields by their access codes. (R9) -/
  | registerWrite (pa : Nat) (n : Nat) (v : Word)
  /-- WRAP_SWEEP_WORD: The sweeping update core restamps, leaves or counts one stamped word. (R472) -/
  | wrapSweepWord (d m : Nat) (pa : Nat)
  /-- PARK_COMPLETE: The die's cores, arrays, vector units and quad stores are down within 2 ms, and STATE is set. (R470) -/
  | parkComplete
  /-- UNPARK_COMPLETE: The unparked die's cores come up with no job within 2 ms, and STATE reads 0. (R471) -/
  | unparkComplete
  /-- RANGE_WALK: The walker fills a range-table miss from the job's range tree, or raises NO_RANGE. (R352) -/
  | rangeWalk (u : Nat) (va : Word)
  /-- REDIRECT: The old home answers a request for a copied line with a redirect carrying the cursor. (R363) -/
  | redirect (u : Nat) (va : Word)
  /-- ORDER_CANCEL: A write under an outbound entry asks the engine to cancel; the engine cancels with ABORTED or answers too late. (R364) -/
  | orderCancel (u : Nat) (va : Word)
  /-- HOME_READ: The home slice serves a read from a home-die core, recalling any owner. (R236) -/
  | homeRead (u line : Nat)
  /-- HOME_OWNERSHIP: The home slice grants ownership after invalidating other copies and sending any RDC invalidation. (R236) -/
  | homeOwnership (u line : Nat)
  /-- HOME_RDC_READ: The home slice serves a read from the other die's RDC and sets REMOTE. (R236) -/
  | homeRdcRead (d line : Nat)
  /-- HOME_WRITE: The home slice performs a write-through, engine, update-core or atomic write after invalidating copies. (R236) -/
  | homeWrite (u line : Nat)
  /-- L1_FILL: A missed sector arrives and fills L1, evicting and writing back a victim if needed. (R232) -/
  | l1Fill (u pa : Nat)
  /-- RDC_FILL: An RDC miss fills the RDC and L1 from the other die's home, invalidating the L1 copies of any evicted line. (R238) -/
  | rdcFill (u pa : Nat)
  /-- ICACHE_FILL: An instruction-cache miss is filled from the home slice or the RDC, bypassing L1, and the waiting fetch can proceed. (R242) -/
  | icacheFill (u : Nat) (va : Word)
  /-- L2_FILL: A line read from HBM or capacity memory arrives at its home L2 slice, poisoned if the port is down or the data is uncorrectable, and the waiting request is served. (R243) -/
  | l2Fill (line : Nat) (bad : Bool)
  /-- LOAD_REPLY_NO_ALLOCATE: Data for a load that allocates nothing in L1 arrives at the requester: an LDNA miss, a load in a PERM N range, or a load by a CMC or update core. (R475) -/
  | loadReplyNoAllocate (u pa : Nat)
  /-- PORT_SET_MODE: A write of PORTCTL.MODE selects off, root port or CXL, and is ignored unless the link is down and idle. (R246) -/
  | portSetMode (p : Nat) (mode : BitVec 2)
  /-- PORT_TRAIN: Writing TRAIN starts link training in the selected mode. (R246) -/
  | portTrain (p : Nat)
  /-- PORT_TRAINING_END: Training ends with LINKUP or ERR set, within 100 ms. (R246) -/
  | portTrainingEnd (p : Nat) (ok : Bool) (speed : BitVec 4) (width : BitVec 5)
  /-- PORT_LINK_DOWN: A link that goes down or takes an uncorrectable error sets ERR. (R246) -/
  | portLinkDown (p : Nat)
  /-- PORT_REQUEST_TIMEOUT: A request through a port that times out after 50 ms returns all ones and sets ERR. (R246) -/
  | portRequestTimeout (u k : Nat)
  /-- INBOUND_READ: A device memory read is translated under DMAJOB and served at the home slice, or refused with a notice record. (R247) -/
  | inboundRead (p : Nat) (va : Word) (n rid : Nat)
  /-- INBOUND_WRITE: A device posted write is translated and performed in port order, or dropped with a notice record. (R247) -/
  | inboundWrite (p : Nat) (va : Word) (n rid : Nat) (v : BitVec 32768) (ro : Bool)
  /-- MSI_DELIVERY: A port-agent write to an interrupt aperture delivers an identity to an application core's interrupt file after earlier posted writes. (R248) -/
  | msiDelivery (p : Nat) (va : Word) (id : Nat)
  /-- PORT_EVENT_INTERRUPT: A LINKUP change, error or CXL event of a port signals its die's interrupt controller source. (R248) -/
  | portEventInterrupt (p kind : Nat)
  /-- PORT_REQUEST_COMPLETION: A device completion for a load or configuration access sent through a port window arrives, and the access performs. (R230) -/
  | portRequestCompletion (u k : Nat) (ok : Bool) (v : Word)
  /-- CHUNK_CONDITION_TIMEOUT: A chunk-conditioned load unsatisfied for 2^20 cycles raises FETCH_NOT_ARRIVED. (R174) -/
  | chunkConditionTimeout (u r : Nat)
  /-- TMMAD_BOX_TIMEOUT: A TMMAD box not arrived within 65,536 cycles raises LEASE_OVERRUN and releases its pins. (R212) -/
  | tmmadBoxTimeout (u r : Nat)
  /-- JOBREMOVE_GO: Writing GO to JOBREMOVE starts fatal removal of a job, unless JOB is 0 or BUSY is set. (R444) -/
  | jobremoveGo (v : Word)
  /-- DUMP_WRITE_TIMEOUT: A core that has not written its dump record within 2^24 cycles is reset by the management station with a WATCHDOG record. (R450) -/
  | dumpWriteTimeout (u : Nat)
  /-- HRUN_WATCHDOG: A resident-handler run longer than HRUN removes the job on that core. (R454) -/
  | hrunWatchdog (u : Nat)
  /-- MBOX_WATCHDOG: A mailbox slot held longer than MBOX removes the record's job. (R454) -/
  | mboxWatchdog (c i : Nat)
  /-- HEARTBEAT_WATCHDOG: No CMCBEAT write within BEAT is handled as a double fault with cause WATCHDOG. (R454) -/
  | heartbeatWatchdog (c : Nat)
  /-- CMCBEAT_WRITE: A write to CMCBEAT restarts the heartbeat timer. (R454) -/
  | cmcbeatWrite (c : Nat) (v : Word)
  /-- CORRECTED_ERROR: A corrected soft error increments CECNT and changes no value. (R456) -/
  | correctedError
  /-- UNCORRECTABLE_ERROR: An uncorrectable error poisons its flit or slot, or refetches a clean copy. (R455) -/
  | uncorrectableError (e : ErrSite)
  /-- BUDGET_PERIOD: Every 10 µs, the budget tree sets each quad's thermal and current caps, its granted point and its cores' DUTY. (R462) -/
  | budgetPeriod (q : Nat) (thermal current : BitVec 3) (d0 d1 d2 d3 : BitVec 5)
  /-- SAG_SLOWING: A supply sag of more than 35 mV halves the quad clock within 2 cycles. (R464) -/
  | sagSlowing (q : Nat)
  /-- SAG_RECOVER: 64 cycles after a sag ends, the quad clock returns to its point. (R464) -/
  | sagRecover (q : Nat)
  /-- CURRENT_COMPARATOR: Package current above the limit drops every quad one point and caps DUTY at 8. (R464) -/
  | currentComparator
  /-- THERMAL_TRIP: A sensor at 105 °C forces its quad to P0 with DUTY at most 1. (R464) -/
  | thermalTrip (q : Nat)
  /-- THERMAL_TRIP_END: A tripped quad is released when its sensor reads below 95 °C. (R464) -/
  | thermalTripEnd (q : Nat)
  /-- FIRMWARE_HOLD: With no budget write for 1 ms, a quad falls to P2 and DUTY 8, and FWHOLD is set. (R465) -/
  | firmwareHold (q : Nat)
  /-- PARK_DIE_W: Writing PARKCTL.REQ 1 parks die W, or is refused. (R470) -/
  | parkDieW
  /-- PARK_DIE_E: Writing PARKCTL.REQ 2 parks die E, or is refused. (R470) -/
  | parkDieE
  /-- UNPARK: Writing PARKCTL.REQ 0 powers up the parked die. (R471) -/
  | unpark
  /-- POWER_ON: Power-on resets every register and table, measures the firmware, trains the memory and ports and starts the loader. (R473) -/
  | powerOn
  /-- RESETCTL_RESET: Writing 1 to RESETCTL bit 0 runs the reset sequence. (R473) -/
  | resetctlReset
  /-- ATTESTATION_REQUEST: Writing 1 to ATTGO requests a signed attestation report. (R474) -/
  | attestationRequest
  /-- ATTESTATION_DONE: The management station writes the report body and signature and sets ATTGO to 2. (R474) -/
  | attestationDone
  /-- AGE_PREDICTION_UPDATE: The cluster firmware turns monitor drift into a new predicted end of life in AGEq.HOURS. (R466) -/
  | agePredictionUpdate (q hours : Nat)
  /-- GATHER_ABANDON: A queue-mode BGATH that could not deliver for 1,024 cycles after a stop is abandoned and releases its locks. (R427) -/
  | gatherAbandon (u n : Nat)
  /-- SLEWCTL_WRITE: A write to SLEWCTL takes effect at the next step, or sets BADW if it breaks the rules. (R218) -/
  | slewctlWrite (c : Nat) (v : Word)
  /-- GSTEP_WRITE: A write to GSTEPd sets G while the domain is idle, or sets BADW. (R390) -/
  | gstepWrite (d : Nat) (v : Word)
  /-- BAZAAR_AGEING: Each full 100 µs of waiting raises an entry's effective priority by one. (R373) -/
  | bazaarAgeing (place i : Nat)
  /-- BAZAAR_STEAL: After a 2 µs idle wait, a core steals one entry from another cluster of its die. (R373) -/
  | bazaarSteal (u k : Nat)
  deriving DecidableEq, Repr

end Sys2Proof
end

