-- ==== Sys2Proof/WellFormed.lean ====
section
/-! DEFINITION. Which terms of `Instr` are instructions: the checks a decoder makes on fields, and the
numbers of units and tables that a device step names. -/

namespace Sys2Proof

/-! ### The fields of a tile command word (03 Tables 3.12 to 3.14) -/

/-- IMM: 64-bit immediate. -/
def Tcw.imm (t : Tcw) : BitVec 64 := t.raw.extractLsb' 192 64
/-- QDST: queue register. -/
def Tcw.qdst (t : Tcw) : BitVec 3 := t.raw.extractLsb' 170 3
/-- CVR: completion value x-register. -/
def Tcw.cvr (t : Tcw) : BitVec 5 := t.raw.extractLsb' 165 5
/-- CBR: chunk-bitmap x-register. -/
def Tcw.cbr (t : Tcw) : BitVec 5 := t.raw.extractLsb' 160 5
/-- DX: window column offset. -/
def Tcw.dx (t : Tcw) : BitVec 4 := t.raw.extractLsb' 152 4
/-- DY: window row offset. -/
def Tcw.dy (t : Tcw) : BitVec 4 := t.raw.extractLsb' 148 4
/-- HALO: halo width. -/
def Tcw.halo (t : Tcw) : BitVec 3 := t.raw.extractLsb' 144 3
/-- COLS: bytes per row, 0 for 128. -/
def Tcw.cols (t : Tcw) : BitVec 8 := t.raw.extractLsb' 136 8
/-- ROWS: rows, 0 for 64. -/
def Tcw.rows (t : Tcw) : BitVec 8 := t.raw.extractLsb' 128 8
/-- OFFSET: signed byte offset. -/
def Tcw.offset (t : Tcw) : BitVec 32 := t.raw.extractLsb' 96 32
/-- AUX2: second aux x-register. -/
def Tcw.aux2 (t : Tcw) : BitVec 5 := t.raw.extractLsb' 79 5
/-- AUX: aux x-register. -/
def Tcw.aux (t : Tcw) : BitVec 5 := t.raw.extractLsb' 74 5
/-- STRIDE: stride x-register. -/
def Tcw.stride (t : Tcw) : BitVec 5 := t.raw.extractLsb' 69 5
/-- BASE: base x-register. -/
def Tcw.base (t : Tcw) : BitVec 5 := t.raw.extractLsb' 64 5
/-- RND: rounding mode. -/
def Tcw.rnd (t : Tcw) : BitVec 2 := t.raw.extractLsb' 54 2
/-- ESEL: E register. -/
def Tcw.esel (t : Tcw) : BitVec 3 := t.raw.extractLsb' 48 3
/-- FB: format of B, or destination format. -/
def Tcw.fb (t : Tcw) : BitVec 4 := t.raw.extractLsb' 44 4
/-- FA: format of A. -/
def Tcw.fa (t : Tcw) : BitVec 4 := t.raw.extractLsb' 40 4
/-- TC: tile C. -/
def Tcw.tc (t : Tcw) : BitVec 4 := t.raw.extractLsb' 36 4
/-- TB: tile B. -/
def Tcw.tb (t : Tcw) : BitVec 4 := t.raw.extractLsb' 32 4
/-- TA: tile A. -/
def Tcw.ta (t : Tcw) : BitVec 4 := t.raw.extractLsb' 28 4
/-- TD: destination tile. -/
def Tcw.td (t : Tcw) : BitVec 4 := t.raw.extractLsb' 24 4
/-- OPC: opcode. -/
def Tcw.opc (t : Tcw) : BitVec 8 := t.raw.extractLsb' 16 8
/-- CLS: class. -/
def Tcw.cls (t : Tcw) : BitVec 5 := t.raw.extractLsb' 7 5
/-- QEN: the scalar result goes to QDST. -/
def Tcw.qen (t : Tcw) : Bool := t.raw.getLsbD 173
/-- BHALF: use the B half of the scale tile. -/
def Tcw.bhalf (t : Tcw) : Bool := t.raw.getLsbD 61
/-- SCALES: write the scales. -/
def Tcw.scales (t : Tcw) : Bool := t.raw.getLsbD 60
/-- COL: reduce along i. -/
def Tcw.col (t : Tcw) : Bool := t.raw.getLsbD 59
/-- ZACC: accumulate onto zero. -/
def Tcw.zacc (t : Tcw) : Bool := t.raw.getLsbD 58
/-- HINT: no allocation. -/
def Tcw.hint (t : Tcw) : Bool := t.raw.getLsbD 57
/-- SAT: the sat option of Encode. -/
def Tcw.sat (t : Tcw) : Bool := t.raw.getLsbD 56
/-- HOLD: lease-hold. -/
def Tcw.hold (t : Tcw) : Bool := t.raw.getLsbD 53
/-- WIDE: the destination is wide. -/
def Tcw.wide (t : Tcw) : Bool := t.raw.getLsbD 52

/-- A field of n bits at bit lo, all ones, as a 256-bit mask. -/
def fieldMask (lo n : Nat) : BitVec 256 := BitVec.ofNat 256 ((2 ^ n - 1) * 2 ^ lo)

/-- The fields a form may hold non-zero at decode, as a mask: word 0's length, class and opcode, and RND,
in every form (R104); in the chapter-7 forms FLAGS, GEOM and COMPL too, and WIDE in every form of chapter 6, since what
they may not hold is a field value there (06 R478, 07 R198, log entry 42). -/
def tcwUsed (fs : List (Nat × Nat)) : BitVec 256 :=
  (fs.map fun p => fieldMask p.1 p.2).foldl (· ||| ·) (fieldMask 0 15 ||| fieldMask 16 8 ||| fieldMask 54 2)

/-- The subfields of GEOM and COMPL (Table 3.13). -/
def geomFields : List (Nat × Nat) := [(128, 8), (136, 8), (144, 3), (147, 1), (148, 4), (152, 4), (156, 4)]
def complFields : List (Nat × Nat) := [(160, 5), (165, 5), (170, 3), (173, 1), (174, 18)]

/-- GEOM and COMPL whole. -/
def geomCompl : List (Nat × Nat) := [(128, 32), (160, 32)]

/-- The fields each tile form reads or checks (06 Table 6.1, 07 Table 7.2). -/
def tcwFields : Instr → List (Nat × Nat)
  | .tld _ => [(24, 4), (40, 4), (64, 5), (69, 5), (96, 32), (128, 8), (136, 8), (57, 1), (160, 5), (165, 5), (52, 1)]
  | .tst _ => [(28, 4), (40, 4), (64, 5), (69, 5), (96, 32), (128, 8), (136, 8), (57, 1), (52, 1)]
  | .tldh _ => [(24, 4), (40, 4), (64, 5), (69, 5), (96, 32), (128, 8), (136, 8), (144, 3), (57, 1), (160, 5), (165, 5), (52, 1)]
  | .tldm _ => [(24, 4), (40, 4), (64, 5), (69, 5), (74, 5), (79, 5), (96, 32), (128, 8), (136, 8), (160, 5), (165, 5), (52, 1)]
  | .tgath _ => [(24, 4), (40, 4), (64, 5), (74, 5), (96, 32), (128, 8), (136, 8), (160, 5), (165, 5), (52, 1)]
  | .tsave _ => [(28, 4), (52, 1), (64, 5), (96, 32)]
  | .trest _ => [(24, 4), (52, 1), (64, 5), (96, 32)]
  | .tmov _ => [(24, 4), (28, 4), (52, 1)]
  | .tzero _ => [(24, 4), (52, 1)]
  | .tfill _ => [(24, 4), (44, 4), (52, 1), (56, 1), (192, 32)]
  | .tadd _ => [(24, 4), (28, 4), (32, 4), (40, 4), (44, 4), (52, 1), (56, 1)]
  | .tsub _ => [(24, 4), (28, 4), (32, 4), (40, 4), (44, 4), (52, 1), (56, 1)]
  | .tmul _ => [(24, 4), (28, 4), (32, 4), (40, 4), (44, 4), (52, 1), (56, 1)]
  | .tmax _ => [(24, 4), (28, 4), (32, 4), (40, 4), (44, 4), (52, 1), (56, 1)]
  | .tmin _ => [(24, 4), (28, 4), (32, 4), (40, 4), (44, 4), (52, 1), (56, 1)]
  | .tscl _ => [(24, 4), (28, 4), (40, 4), (44, 4), (48, 3), (52, 1), (56, 1)]
  | .ttrn _ => [(24, 4), (28, 4), (40, 4), (52, 1)]
  | .tred _ => [(24, 4), (28, 4), (40, 4), (44, 4), (52, 1), (59, 1), (56, 1)]
  | .tredQueue _ => [(24, 4), (173, 1), (170, 3), (28, 4), (40, 4), (44, 4), (52, 1), (59, 1), (56, 1)]
  | .tcvt _ => [(24, 4), (28, 4), (40, 4), (44, 4), (52, 1), (56, 1)]
  | .tqnt _ => [(24, 4), (28, 4), (36, 4), (40, 4), (44, 4), (48, 3), (52, 1), (60, 1), (61, 1), (56, 1)]
  | .tdeq _ => [(24, 4), (28, 4), (36, 4), (40, 4), (44, 4), (48, 3), (52, 1), (61, 1), (56, 1)]
  | .tfence _ => [(52, 1)]
  | .tmma _ => [(24, 4), (28, 4), (32, 4), (36, 4), (40, 4), (44, 4), (48, 3), (52, 1), (53, 1), (56, 8)] ++ geomCompl
  | .tmmas _ => [(24, 4), (28, 4), (32, 4), (36, 4), (40, 4), (44, 4), (48, 3), (52, 1), (53, 1), (56, 8)] ++ geomCompl
  | .tmmaw _ => [(24, 4), (28, 4), (32, 4), (36, 4), (40, 4), (44, 4), (48, 3), (52, 1), (53, 1), (56, 8)] ++ geomCompl
  | .tmmad _ => [(24, 4), (28, 4), (36, 4), (40, 4), (44, 4), (48, 3), (52, 1), (53, 1), (64, 5), (69, 5), (96, 32), (56, 8)] ++ geomCompl
  | .eset _ => [(48, 3), (74, 5), (56, 2), (59, 5)] ++ geomCompl
  | .esetImm _ => [(48, 3), (192, 32), (56, 2), (59, 5)] ++ geomCompl
  | .skset _ => [(48, 1), (74, 5), (56, 2), (59, 5)] ++ geomCompl
  | .skget _ => [(48, 1), (56, 2), (59, 5), (170, 3), (173, 1), (128, 32)]
  | _ => []

/-- The tile command word of a tile instruction. -/
def tcwOf? : Instr → Option Tcw
  | .tld t => some t
  | .tst t => some t
  | .tldh t => some t
  | .tldm t => some t
  | .tgath t => some t
  | .tsave t => some t
  | .trest t => some t
  | .tmov t => some t
  | .tzero t => some t
  | .tfill t => some t
  | .tadd t => some t
  | .tsub t => some t
  | .tmul t => some t
  | .tmax t => some t
  | .tmin t => some t
  | .tscl t => some t
  | .ttrn t => some t
  | .tred t => some t
  | .tredQueue t => some t
  | .tcvt t => some t
  | .tqnt t => some t
  | .tdeq t => some t
  | .tfence t => some t
  | .tmma t => some t
  | .tmmas t => some t
  | .tmmaw t => some t
  | .tmmad t => some t
  | .eset t => some t
  | .esetImm t => some t
  | .skset t => some t
  | .skget t => some t
  | _ => none

/-- CLASS and OPC of each tile form (Table 3.15). -/
def tcwClassOpc : Instr → BitVec 5 × BitVec 8
  | .tld _ => (0, 0)
  | .tst _ => (0, 1)
  | .tldh _ => (0, 2)
  | .tldm _ => (0, 3)
  | .tgath _ => (0, 4)
  | .tsave _ => (0, 5)
  | .trest _ => (0, 6)
  | .tmov _ => (2, 0)
  | .tzero _ => (2, 1)
  | .tfill _ => (2, 2)
  | .tadd _ => (2, 3)
  | .tsub _ => (2, 4)
  | .tmul _ => (2, 5)
  | .tmax _ => (2, 6)
  | .tmin _ => (2, 7)
  | .tscl _ => (2, 8)
  | .ttrn _ => (2, 9)
  | .tred _ => (2, 10)
  | .tredQueue _ => (2, 10)
  | .tcvt _ => (3, 0)
  | .tqnt _ => (3, 1)
  | .tdeq _ => (3, 2)
  | .tfence _ => (4, 0)
  | .tmma _ => (1, 0)
  | .tmmas _ => (1, 1)
  | .tmmaw _ => (1, 2)
  | .tmmad _ => (1, 3)
  | .eset _ => (4, 1)
  | .esetImm _ => (4, 1)
  | .skset _ => (4, 2)
  | .skget _ => (4, 3)
  | _ => (31, 255)

/-- A tile command word that decodes to the form: length and class bits, LEN = 0, the form's CLASS and OPC,
its held-zero fields zero, TRED and ESET told apart by QEN and AUX, and QEN = 1 in SKGET (R89, R102, R105). The values of
GEOM beyond Table 3.13 are field values and no decode faults (03 R90, 06 R478; log entry 42). -/
def tcwOk (i : Instr) (t : Tcw) : Bool :=
  t.raw.extractLsb' 0 7 = 0x7f#7 && t.raw.extractLsb' 12 3 = 7#3
    && (t.cls, t.opc) = tcwClassOpc i
    && t.raw &&& ~~~(tcwUsed (tcwFields i)) = 0
    && (match i with
        | .tred _ => !t.qen
        | .tredQueue _ => t.qen
        | .eset _ => t.aux != 0
        | .esetImm _ => t.aux = 0
        | .skget _ => t.qen
        | _ => true)

/-! ### 32-bit words -/

/-- MEN = 0 requires MSEL = 0 (03 R93). -/
def VMask.ok (mk : VMask) : Bool := mk.en || mk.sel = 0

/-- The W forms of the immediate shifts take amounts below 32. -/
def shiftAmountOk (op : ShiftOp) (amt : BitVec 6) : Bool :=
  match op with
  | .slliw | .srliw | .sraiw | .roriw => amt.toNat < 32
  | _ => true

/-! ### Device steps: the numbers they name -/

/-- A core. -/
def isCore (u : Nat) : Bool := u < 192
/-- Any unit: core, CMC, update core or application core (10 R263). -/
def isUnit (u : Nat) : Bool := u < 244
/-- A slot of a core, or slot 0 of another unit. -/
def isHart (u k : Nat) : Bool := (u < 192 && k < 8) || (192 ≤ u && u < 244 && k = 0)
/-- A quad, a cluster, a station, a die, a port. -/
def isQuad (q : Nat) : Bool := q < 48
def isCluster (c : Nat) : Bool := c < 12
def isStation (m : Nat) : Bool := m < 6
def isDie (d : Nat) : Bool := d < 2
def isPort (p : Nat) : Bool := p < 8
/-- A step domain (17 R389). -/
def isStepDomain (d : Nat) : Bool := d < 8

/-- Which terms are instructions. -/
def Instr.wellFormed (i : Instr) : Bool :=
  match i with
  | .vacantEncoding w tcw => tcw || w.toNat < 4294967296
  | .rvAluOrBranch (.shift op _ _ amt) => shiftAmountOk op amt
  | .rvLoad _ _ _ _ => true
  | .rvStore _ _ _ _ => true
  | .rvAmo _ _ _ _ _ _ _ => true
  | .lr _ _ _ _ _ => true
  | .sc _ _ _ _ _ _ => true
  | .csrAccess _ _ _ _ _ => true
  | .fence _ _ _ _ _ => true
  | .fenceI _ _ _ => true
  | .ecall => true
  | .ebreak => true
  | .wfi => true
  | .mret => true
  | .fmt _ => true
  | .sbind _ _ _ => true
  | .sunbind _ => true
  | .sgstat _ _ => true
  | .streamFetch u k _ => isHart u k
  | .streamStoreAccept u k _ => isHart u k
  | .qbind _ _ => true
  | .qpush _ _ => true
  | .qpop _ _ => true
  | .qpoll _ _ => true
  | .qcnt _ _ => true
  | .queueHeldDelivery u k _ => isHart u k
  | .bmove _ _ _ => true
  | .bfillw _ _ _ => true
  | .repb _ _ _ => true
  | .iclock _ _ _ => true
  | .icunlk _ _ => true
  | .ldna _ _ _ => true
  | .stby _ _ _ => true
  | .pref _ _ => true
  | .ldaq _ _ _ => true
  | .strl _ _ _ => true
  | .fenceRg _ _ => true
  | .fenceS _ => true
  | .fenceE => true
  | .amosc _ _ _ _ => true
  | .bcopy _ _ => true
  | .bcopyc _ _ => true
  | .bgath _ _ => true
  | .bscat _ _ => true
  | .bcancel _ _ => true
  | .ctest _ _ _ => true
  | .cwaitm _ _ => true
  | .waybillArrival u _ => isUnit u
  | .engineStart u _ => isUnit u
  | .engineChunkLanded u _ _ => isUnit u
  | .engineComplete u _ => isUnit u
  | .gatherRowDelivery u _ => isUnit u
  | .cancelRequest u k => isHart u k
  | .send _ _ => true
  | .sendr _ _ => true
  | .amsg _ _ => true
  | .recv _ _ => true
  | .recvp _ _ => true
  | .loopbk _ _ => true
  | .hret => true
  | .rankget _ _ => true
  | .rankset _ _ => true
  | .barr _ _ => true
  | .bwait _ _ => true
  | .barw _ _ => true
  | .bcfg _ _ => true
  | .bstat _ _ => true
  | .waita _ => true
  | .barrierRelease c _ => isCluster c
  | .messageInject u _ => isUnit u
  | .messageArrival _ _ _ => true
  | .inboxHeldEntry u => isUnit u
  | .handlerStart u => isCore u
  | .mailboxRecordArrival c _ => isCluster c
  | .mbxrd _ _ => true
  | .mbxack _ => true
  | .mbxpost _ _ => true
  | .resume _ => true
  | .resumeReplyApply c _ => isCluster c
  | .slotsave _ _ => true
  | .slotrest _ _ => true
  | .nispill _ _ => true
  | .cutreq _ _ => true
  | .cutstat _ _ => true
  | .cutAnnounce => true
  | .preemptStop u => isCore u
  | .dumpseal _ => true
  | .tspawn _ _ => true
  | .tdep _ => true
  | .twait _ => true
  | .tsusp _ => true
  | .texit => true
  | .phase _ => true
  | .taskWalkOffer _ => true
  | .queueTake u k => isHart u k
  | .stepinc _ => true
  | .gswait _ => true
  | .sld _ _ => true
  | .sst _ _ => true
  | .sadd _ _ => true
  | .smerge _ _ => true
  | .vsld _ _ mk => mk.ok
  | .vsst _ _ mk => mk.ok
  | .vsadd _ _ mk => mk.ok
  | .vstpair _ _ _ mk => mk.ok
  | .pairReserveGrant u => isUnit u
  | .pairLineLock u => isUnit u
  | .pairCommit u => isUnit u
  | .winset _ _ => true
  | .gstepPublish => true
  | .rins _ => true
  | .rsplit _ _ => true
  | .rmerge _ _ => true
  | .rinval _ => true
  | .rprobe _ _ => true
  | .rmove _ _ _ => true
  | .rres _ _ => true
  | .boffl _ _ _ => true
  | .bret _ _ _ => true
  | .rangeBroadcastArrival u => isUnit u
  | .orderDrainEnd m _ => isStation m
  | .orderCopyLine m _ => isStation m
  | .orderSwitch m _ => isStation m
  | .orderCompletion m _ => isStation m
  | .vlgr _ _ _ => true
  | .vectorUnitEnter q => isQuad q
  | .vectorComplete q _ => isQuad q
  | .vadd _ _ _ mk => mk.ok
  | .vaddX _ _ _ mk => mk.ok
  | .vsub _ _ _ mk => mk.ok
  | .vsubX _ _ _ mk => mk.ok
  | .vmul _ _ _ mk => mk.ok
  | .vmulX _ _ _ mk => mk.ok
  | .vfma _ _ _ mk => mk.ok
  | .vfmaX _ _ _ mk => mk.ok
  | .vfnma _ _ _ mk => mk.ok
  | .vfnmaX _ _ _ mk => mk.ok
  | .vdiv _ _ _ mk => mk.ok
  | .vdivX _ _ _ mk => mk.ok
  | .vsqrt _ _ mk => mk.ok
  | .vrsq _ _ mk => mk.ok
  | .vexp2 _ _ mk => mk.ok
  | .vlog2 _ _ mk => mk.ok
  | .vmax _ _ _ mk => mk.ok
  | .vmaxX _ _ _ mk => mk.ok
  | .vmin _ _ _ mk => mk.ok
  | .vminX _ _ _ mk => mk.ok
  | .vabs _ _ mk => mk.ok
  | .vneg _ _ mk => mk.ok
  | .vcmp _ _ _ _ mk => mk.ok
  | .vcmpX _ _ _ _ mk => mk.ok
  | .vsel _ _ _ _ => true
  | .vselX _ _ _ _ => true
  | .vand _ _ _ mk => mk.ok
  | .vandX _ _ _ mk => mk.ok
  | .vor _ _ _ mk => mk.ok
  | .vorX _ _ _ mk => mk.ok
  | .vxor _ _ _ mk => mk.ok
  | .vxorX _ _ _ mk => mk.ok
  | .vshl _ _ _ mk => mk.ok
  | .vshlX _ _ _ mk => mk.ok
  | .vshr _ _ _ mk => mk.ok
  | .vshrX _ _ _ mk => mk.ok
  | .vsra _ _ _ mk => mk.ok
  | .vsraX _ _ _ mk => mk.ok
  | .vcvt _ _ mk => mk.ok
  | .vqnt _ _ _ mk => mk.ok
  | .vrsum _ _ _ mk => mk.ok
  | .vrmax _ _ _ mk => mk.ok
  | .vrmin _ _ _ mk => mk.ok
  | .vslide _ _ _ mk => mk.ok
  | .vslideX _ _ _ mk => mk.ok
  | .vperm _ _ _ mk => mk.ok
  | .vbcst _ _ mk => mk.ok
  | .vmvxv _ _ => true
  | .vmvvx _ _ => true
  | .vld _ _ mk => mk.ok
  | .vst _ _ mk => mk.ok
  | .vlds _ _ _ mk => mk.ok
  | .vsts _ _ _ mk => mk.ok
  | .vldx _ _ _ mk => mk.ok
  | .vstx _ _ _ mk => mk.ok
  | .vlut _ _ _ mk => mk.ok
  | .mand _ _ _ => true
  | .mor _ _ _ => true
  | .mnot _ _ => true
  | .mpop _ _ => true
  | .tld t => tcwOk i t
  | .tst t => tcwOk i t
  | .tldh t => tcwOk i t
  | .tldm t => tcwOk i t
  | .tgath t => tcwOk i t
  | .tsave t => tcwOk i t
  | .trest t => tcwOk i t
  | .tmov t => tcwOk i t
  | .tzero t => tcwOk i t
  | .tfill t => tcwOk i t
  | .tadd t => tcwOk i t
  | .tsub t => tcwOk i t
  | .tmul t => tcwOk i t
  | .tmax t => tcwOk i t
  | .tmin t => tcwOk i t
  | .tscl t => tcwOk i t
  | .ttrn t => tcwOk i t
  | .tred t => tcwOk i t
  | .tredQueue t => tcwOk i t
  | .tcvt t => tcwOk i t
  | .tqnt t => tcwOk i t
  | .tdeq t => tcwOk i t
  | .tfence t => tcwOk i t
  | .tmma t => tcwOk i t
  | .tmmas t => tcwOk i t
  | .tmmaw t => tcwOk i t
  | .tmmad t => tcwOk i t
  | .eset t => tcwOk i t
  | .esetImm t => tcwOk i t
  | .skset t => tcwOk i t
  | .skget t => tcwOk i t
  | .tileRename u => isCore u
  | .tileIssue u _ => isCore u
  | .tileComplete u _ => isCore u
  | .tileRetire u => isCore u
  | .tileStoreWritten u => isCore u
  | .tileFault u => isCore u
  | .matrixStart u _ _ => isCore u
  | .leaseGrant q _ => isQuad q
  | .leaseEnd q _ => isQuad q
  | .slewStep c => isCluster c
  | .dutyFrame u => isCore u
  | .convoyRequest u _ => isCore u
  | .convoyWindowClose _ => true
  | .convoyLineSend _ => true
  | .convoyUnicast _ => true
  | .convoyLineArrival _ u => isCore u
  | .convoyEnd _ => true
  | .rdcInvalidateApply d => isDie d
  | .writeThroughReply u k => isHart u k
  | .dumpRecordWritten u => isUnit u
  | .doubleFault c => isCluster c
  | .pointChangeDone q => isQuad q
  | .parkComplete => true
  | .unparkComplete => true
  | .registerWrite _ _ _ => true
  | .rangeWalk u _ => isUnit u
  | .redirect u _ => isUnit u
  | .orderCancel u _ => isUnit u
  | .homeRead u _ => isUnit u
  | .homeOwnership u _ => isUnit u
  | .homeRdcRead d _ => isDie d
  | .homeWrite u _ => isUnit u
  | .l1Fill u _ => isCore u
  | .rdcFill u _ => isCore u
  | .icacheFill u _ => isUnit u
  | .l2Fill _ _ => true
  | .loadReplyNoAllocate u _ => isUnit u
  | .hbmClockChange d => isDie d
  | .portSetMode p _ => isPort p
  | .portTrain p => isPort p
  | .portTrainingEnd p _ _ _ => isPort p
  | .portLinkDown p => isPort p
  | .portRequestTimeout u k => isHart u k
  | .inboundRead p _ _ _ => isPort p
  | .inboundWrite p _ _ _ _ _ => isPort p
  | .msiDelivery p _ _ => isPort p
  | .portEventInterrupt p _ => isPort p
  | .portRequestCompletion u k _ _ => isHart u k
  | .chunkConditionTimeout u _ => isCore u
  | .tmmadBoxTimeout u _ => isCore u
  | .jobremoveGo _ => true
  | .dumpWriteTimeout u => isUnit u
  | .hrunWatchdog u => isCore u
  | .mboxWatchdog c _ => isCluster c
  | .heartbeatWatchdog c => isCluster c
  | .cmcbeatWrite c _ => isCluster c
  | .correctedError => true
  | .uncorrectableError _ => true
  | .budgetPeriod q _ _ _ _ _ _ => isQuad q
  | .sagSlowing q => isQuad q
  | .sagRecover q => isQuad q
  | .currentComparator => true
  | .thermalTrip q => isQuad q
  | .thermalTripEnd q => isQuad q
  | .firmwareHold q => isQuad q
  | .parkDieW => true
  | .parkDieE => true
  | .unpark => true
  | .powerOn => true
  | .resetctlReset => true
  | .attestationRequest => true
  | .attestationDone => true
  | .agePredictionUpdate q _ => isQuad q
  | .gatherAbandon u _ => isUnit u
  | .slewctlWrite c _ => isCluster c
  | .gstepWrite d _ => isStepDomain d
  | .bazaarAgeing _ _ => true
  | .bazaarSteal u k => isHart u k
  | .dumpSealByStation _ => true
  | .wrapSweepWord d m _ => isStation m && isStepDomain d
  | .rvAluOrBranch _ => true

end Sys2Proof
end

