-- ==== Sys2Proof/Decode.lean ====
section
/-! DEFINITION. Decoding of instruction words, total, rejecting by `vacantEncoding`; then the encoder. The
Xhexaloth words follow 03 Tables 3.3 to 3.10, the RISC-V words the base that 03 R91 names, the tile command
words 03 Tables 3.12 to 3.15 with the field lists of 06 Table 6.1 and 07 Table 7.2. -/

namespace Sys2Proof

/-! ### The fields of a 32-bit word (Table 3.3) -/

/-- The six fields of format XR, which every other 32-bit format regroups. -/
structure Parts where
  f7 : BitVec 7
  rs2 : BitVec 5
  rs1 : BitVec 5
  f3 : BitVec 3
  rd : BitVec 5
  maj : BitVec 7
  deriving DecidableEq, Repr

/-- The word made of the six fields. -/
def Parts.word (q : Parts) : Nat :=
  q.maj.toNat + 128 * (q.rd.toNat + 32 * (q.f3.toNat + 8 * (q.rs1.toNat + 32 * (q.rs2.toNat + 32 * q.f7.toNat))))

/-- The six fields of a word. -/
def Parts.ofWord (w : Nat) : Parts :=
  { f7 := BitVec.ofNat 7 (w / 33554432), rs2 := BitVec.ofNat 5 (w / 1048576), rs1 := BitVec.ofNat 5 (w / 32768),
    f3 := BitVec.ofNat 3 (w / 4096), rd := BitVec.ofNat 5 (w / 128), maj := BitVec.ofNat 7 w }

/-- The 12-bit immediate of formats XI and VI, in 31:20. -/
def immI (q : Parts) : BitVec 12 := q.f7 ++ q.rs2
/-- The 12-bit immediate of format XS, in 31:25 and 11:7. -/
def immS (q : Parts) : BitVec 12 := q.f7 ++ q.rd
/-- Bits 11:5 of a 12-bit immediate. -/
def immHi (i : BitVec 12) : BitVec 7 := i.extractLsb' 5 7
/-- Bits 4:0 of a 12-bit immediate. -/
def immLo (i : BitVec 12) : BitVec 5 := i.extractLsb' 0 5

/-- A branch offset in units of 2 bytes: bits 12, 10:5 of the byte offset in 31:25, and 4:1, 11 in 11:7. -/
def branchOff (q : Parts) : BitVec 12 :=
  q.f7.extractLsb' 6 1 ++ q.rd.extractLsb' 0 1 ++ q.f7.extractLsb' 0 6 ++ q.rd.extractLsb' 1 4
def branchF7 (o : BitVec 12) : BitVec 7 := o.extractLsb' 11 1 ++ o.extractLsb' 4 6
def branchRd (o : BitVec 12) : BitVec 5 := o.extractLsb' 0 4 ++ o.extractLsb' 10 1

/-- The 20-bit field of LUI, AUIPC and JAL, in 31:12. -/
def imm20 (q : Parts) : BitVec 20 := q.f7 ++ q.rs2 ++ q.rs1 ++ q.f3
def imm20F7 (i : BitVec 20) : BitVec 7 := i.extractLsb' 13 7
def imm20Rs2 (i : BitVec 20) : BitVec 5 := i.extractLsb' 8 5
def imm20Rs1 (i : BitVec 20) : BitVec 5 := i.extractLsb' 3 5
def imm20F3 (i : BitVec 20) : BitVec 3 := i.extractLsb' 0 3

/-- A JAL offset in units of 2 bytes, from its scrambled field (20 | 10:1 | 11 | 19:12). -/
def jalOff (i : BitVec 20) : BitVec 20 :=
  i.extractLsb' 19 1 ++ i.extractLsb' 0 8 ++ i.extractLsb' 8 1 ++ i.extractLsb' 9 10
/-- The scrambled field of a JAL offset. -/
def jalField (o : BitVec 20) : BitVec 20 :=
  o.extractLsb' 19 1 ++ o.extractLsb' 0 10 ++ o.extractLsb' 10 1 ++ o.extractLsb' 11 8

/-- A vector-register field: bit 4 is held zero (R93). -/
def vReg? (b : BitVec 5) : Option (BitVec 4) := if b.toNat < 16 then some (b.setWidth 4) else none
def vField (v : BitVec 4) : BitVec 5 := v.setWidth 5
/-- A mask-register field: bits 4:2 are held zero (R93). -/
def mReg? (b : BitVec 5) : Option (BitVec 2) := if b.toNat < 4 then some (b.setWidth 2) else none
def mField (v : BitVec 2) : BitVec 5 := v.setWidth 5
/-- A queue field: Q0 to Q7, the other bits held zero (R94). -/
def qReg? (b : BitVec 5) : Option (BitVec 3) := if b.toNat < 8 then some (b.setWidth 3) else none
def qField (v : BitVec 3) : BitVec 5 := v.setWidth 5
/-- A stream-register field: a number from 28 to 31 (R94). -/
def xgReg? (b : BitVec 5) : Option (BitVec 2) := if 28 ≤ b.toNat then some (b.setWidth 2) else none
def xgField (g : BitVec 2) : BitVec 5 := 0b111#3 ++ g

/-- OP4 of format V, bits 28:25. -/
def op4Of (f7 : BitVec 7) : BitVec 4 := f7.setWidth 4
/-- The mask operand of format V, bits 31:29: MEN = 0 requires MSEL = 0 (R93). -/
def vMask? (f7 : BitVec 7) : Option VMask :=
  if f7.getLsbD 4 then some ⟨true, f7.extractLsb' 5 2⟩
  else if f7.extractLsb' 5 2 = 0 then some ⟨false, 0⟩ else none
def vF7 (mk : VMask) (op4 : BitVec 4) : BitVec 7 := mk.sel ++ BitVec.ofBool mk.en ++ op4

/-- SEL of custom-0 funct3 4, bits 27:25 (R96). -/
def selOf (f7 : BitVec 7) : BitVec 3 := f7.setWidth 3
def selF7 (op4 : BitVec 4) (sel : BitVec 3) : BitVec 7 := op4 ++ sel

def Scope.code : Scope → BitVec 3
  | .slot => 0 | .core => 1 | .quad => 2 | .cluster => 3 | .die => 4 | .package => 5 | .system => 6
def Scope.ofCode? (c : BitVec 3) : Option Scope :=
  match c with
  | 0 => some .slot | 1 => some .core | 2 => some .quad | 3 => some .cluster | 4 => some .die
  | 5 => some .package | 6 => some .system | _ => none

def ScOp.code : ScOp → BitVec 3
  | .add => 0 | .swap => 1 | .cas => 2 | .min => 3 | .max => 4
def ScOp.ofCode? (c : BitVec 3) : Option ScOp :=
  match c with
  | 0 => some .add | 1 => some .swap | 2 => some .cas | 3 => some .min | 4 => some .max | _ => none

def EWidth.code : EWidth → BitVec 5
  | .w8 => 0 | .w16 => 1 | .w32 => 2
def EWidth.ofCode? (c : BitVec 5) : Option EWidth :=
  match c with
  | 0 => some .w8 | 1 => some .w16 | 2 => some .w32 | _ => none

def Pred.code : Pred → BitVec 3
  | .eq => 0 | .ne => 1 | .lt => 2 | .le => 3 | .gt => 4 | .ge => 5 | .uo => 6
def Pred.ofCode? (c : BitVec 3) : Option Pred :=
  match c with
  | 0 => some .eq | 1 => some .ne | 2 => some .lt | 3 => some .le | 4 => some .gt | 5 => some .ge
  | 6 => some .uo | _ => none
/-- The predicate of VCMP, bits 11:9, and its mask, bits 8:7 (Table 3.8). -/
def predOf? (rd : BitVec 5) : Option Pred := Pred.ofCode? (rd.extractLsb' 2 3)
def maskOfPred (rd : BitVec 5) : BitVec 2 := rd.setWidth 2
def predField (k : BitVec 2) (p : Pred) : BitVec 5 := p.code ++ k

/-! ### The RISC-V base (R91) -/

/-- The operations of major opcode OP by funct7 and funct3. -/
def AluOp.fields : AluOp → BitVec 7 × BitVec 3
  | .add => (0x00, 0) | .sub => (0x20, 0) | .sll => (0x00, 1) | .slt => (0x00, 2) | .sltu => (0x00, 3)
  | .xor => (0x00, 4) | .srl => (0x00, 5) | .sra => (0x20, 5) | .or => (0x00, 6) | .and => (0x00, 7)
  | .mul => (0x01, 0) | .mulh => (0x01, 1) | .mulhsu => (0x01, 2) | .mulhu => (0x01, 3)
  | .div => (0x01, 4) | .divu => (0x01, 5) | .rem => (0x01, 6) | .remu => (0x01, 7)
  | .sh1add => (0x10, 2) | .sh2add => (0x10, 4) | .sh3add => (0x10, 6)
  | .andn => (0x20, 7) | .orn => (0x20, 6) | .xnor => (0x20, 4)
  | .min => (0x05, 4) | .minu => (0x05, 5) | .max => (0x05, 6) | .maxu => (0x05, 7)
  | .rol => (0x30, 1) | .ror => (0x30, 5) | .czeroEqz => (0x07, 5) | .czeroNez => (0x07, 7)

/-- Every operation of OP. -/
def AluOp.all : List AluOp :=
  [.add, .sub, .sll, .slt, .sltu, .xor, .srl, .sra, .or, .and, .mul, .mulh, .mulhsu, .mulhu, .div, .divu,
   .rem, .remu, .sh1add, .sh2add, .sh3add, .andn, .orn, .xnor, .min, .minu, .max, .maxu, .rol, .ror,
   .czeroEqz, .czeroNez]

/-- The operations of major opcode OP-32 by funct7 and funct3. -/
def AluWOp.fields : AluWOp → BitVec 7 × BitVec 3
  | .addw => (0x00, 0) | .subw => (0x20, 0) | .sllw => (0x00, 1) | .srlw => (0x00, 5) | .sraw => (0x20, 5)
  | .mulw => (0x01, 0) | .divw => (0x01, 4) | .divuw => (0x01, 5) | .remw => (0x01, 6) | .remuw => (0x01, 7)
  | .rolw => (0x30, 1) | .rorw => (0x30, 5) | .addUw => (0x04, 0) | .sh1addUw => (0x10, 2)
  | .sh2addUw => (0x10, 4) | .sh3addUw => (0x10, 6)

def AluWOp.all : List AluWOp :=
  [.addw, .subw, .sllw, .srlw, .sraw, .mulw, .divw, .divuw, .remw, .remuw, .rolw, .rorw, .addUw,
   .sh1addUw, .sh2addUw, .sh3addUw]

/-- The one-source operations: major opcode, funct7, the rs2 field, funct3. -/
def UnaryOp.fields : UnaryOp → BitVec 7 × BitVec 7 × BitVec 5 × BitVec 3
  | .clz => (0x13, 0x30, 0, 1) | .ctz => (0x13, 0x30, 1, 1) | .cpop => (0x13, 0x30, 2, 1)
  | .sextb => (0x13, 0x30, 4, 1) | .sexth => (0x13, 0x30, 5, 1) | .orcb => (0x13, 0x14, 7, 5)
  | .rev8 => (0x13, 0x35, 24, 5) | .clzw => (0x1b, 0x30, 0, 1) | .ctzw => (0x1b, 0x30, 1, 1)
  | .cpopw => (0x1b, 0x30, 2, 1) | .zexth => (0x3b, 0x04, 0, 4)

def UnaryOp.all : List UnaryOp :=
  [.clz, .ctz, .cpop, .clzw, .ctzw, .cpopw, .sextb, .sexth, .zexth, .orcb, .rev8]

/-- Immediate operations: major opcode and funct3. -/
def AluIOp.fields : AluIOp → BitVec 7 × BitVec 3
  | .addi => (0x13, 0) | .slti => (0x13, 2) | .sltiu => (0x13, 3) | .xori => (0x13, 4) | .ori => (0x13, 6)
  | .andi => (0x13, 7) | .addiw => (0x1b, 0)

/-- Immediate shifts: major opcode, bits 31:26, funct3; the amount is in 25:20. -/
def ShiftOp.fields : ShiftOp → BitVec 7 × BitVec 6 × BitVec 3
  | .slli => (0x13, 0x00, 1) | .srli => (0x13, 0x00, 5) | .srai => (0x13, 0x10, 5) | .rori => (0x13, 0x18, 5)
  | .slliUw => (0x1b, 0x02, 1) | .slliw => (0x1b, 0x00, 1) | .srliw => (0x1b, 0x00, 5)
  | .sraiw => (0x1b, 0x10, 5) | .roriw => (0x1b, 0x18, 5)

def ShiftOp.all : List ShiftOp :=
  [.slli, .srli, .srai, .rori, .slliUw, .slliw, .srliw, .sraiw, .roriw]

def BrCond.code : BrCond → BitVec 3
  | .eq => 0 | .ne => 1 | .lt => 4 | .ge => 5 | .ltu => 6 | .geu => 7
def BrCond.ofCode? (c : BitVec 3) : Option BrCond :=
  match c with
  | 0 => some .eq | 1 => some .ne | 4 => some .lt | 5 => some .ge | 6 => some .ltu | 7 => some .geu | _ => none

def LoadOp.code : LoadOp → BitVec 3
  | .lb => 0 | .lh => 1 | .lw => 2 | .ld => 3 | .lbu => 4 | .lhu => 5 | .lwu => 6
def LoadOp.ofCode? (c : BitVec 3) : Option LoadOp :=
  match c with
  | 0 => some .lb | 1 => some .lh | 2 => some .lw | 3 => some .ld | 4 => some .lbu | 5 => some .lhu
  | 6 => some .lwu | _ => none

def StoreOp.code : StoreOp → BitVec 3
  | .sb => 0 | .sh => 1 | .sw => 2 | .sd => 3
def StoreOp.ofCode? (c : BitVec 3) : Option StoreOp :=
  match c with
  | 0 => some .sb | 1 => some .sh | 2 => some .sw | 3 => some .sd | _ => none

/-- funct5 of an AMO, bits 31:27. -/
def AmoOp.code : AmoOp → BitVec 5
  | .add => 0x00 | .swap => 0x01 | .xor => 0x04 | .or => 0x08 | .and => 0x0c | .min => 0x10 | .max => 0x14
  | .minu => 0x18 | .maxu => 0x1c
def AmoOp.ofCode? (c : BitVec 5) : Option AmoOp :=
  match c with
  | 0x00 => some .add | 0x01 => some .swap | 0x04 => some .xor | 0x08 => some .or | 0x0c => some .and
  | 0x10 => some .min | 0x14 => some .max | 0x18 => some .minu | 0x1c => some .maxu | _ => none
/-- funct7 of an AMO: funct5, aq, rl. -/
def amoF7 (c : BitVec 5) (aq rl : Bool) : BitVec 7 := c ++ BitVec.ofBool aq ++ BitVec.ofBool rl
/-- funct3 of an AMO: 2 for words, 3 for double words. -/
def amoF3 (dbl : Bool) : BitVec 3 := if dbl then 3 else 2

def CsrOp.code (op : CsrOp) (imm : Bool) : BitVec 3 :=
  BitVec.ofBool imm ++ (match op with | .rw => 1#2 | .rs => 2#2 | .rc => 3#2)
def CsrOp.ofCode? (c : BitVec 3) : Option (CsrOp × Bool) :=
  match c with
  | 1 => some (.rw, false) | 2 => some (.rs, false) | 3 => some (.rc, false)
  | 5 => some (.rw, true) | 6 => some (.rs, true) | 7 => some (.rc, true) | _ => none

/-- A unary operation with the fields of a word. -/
def unaryOf? (q : Parts) : Option Instr :=
  (UnaryOp.all.find? fun op => op.fields = (q.maj, q.f7, q.rs2, q.f3)).map fun op => .rvAluOrBranch (.unary op q.rd q.rs1)

/-- An immediate shift with the fields of a word; a W form's amount is below 32. -/
def shiftOf? (q : Parts) : Option Instr :=
  let amt : BitVec 6 := q.f7.extractLsb' 0 1 ++ q.rs2
  (ShiftOp.all.find? fun op => op.fields = (q.maj, q.f7.extractLsb' 1 6, q.f3)).bind fun op =>
    if shiftAmountOk op amt then some (.rvAluOrBranch (.shift op q.rd q.rs1 amt)) else none

/-- OP-IMM and OP-IMM-32. -/
def decodeOpImm (q : Parts) : Option Instr :=
  match q.f3 with
  | 1 => (shiftOf? q) <|> (unaryOf? q)
  | 5 => (shiftOf? q) <|> (unaryOf? q)
  | _ =>
    ([AluIOp.addi, .slti, .sltiu, .xori, .ori, .andi, .addiw].find? fun op => op.fields = (q.maj, q.f3)).map fun op =>
      .rvAluOrBranch (.aluI op q.rd q.rs1 (immI q))

/-- OP. -/
def decodeOp (q : Parts) : Option Instr :=
  (AluOp.all.find? fun op => op.fields = (q.f7, q.f3)).map fun op => .rvAluOrBranch (.alu op q.rd q.rs1 q.rs2)

/-- OP-32. -/
def decodeOp32 (q : Parts) : Option Instr :=
  ((AluWOp.all.find? fun op => op.fields = (q.f7, q.f3)).map fun op => .rvAluOrBranch (.aluW op q.rd q.rs1 q.rs2))
    <|> unaryOf? q

/-- MISC-MEM: FENCE ignores its rd and rs1 fields and FENCE.I all but funct3, as the base says. -/
def decodeFence (q : Parts) : Option Instr :=
  match q.f3 with
  | 0 => some (.fence ((immI q).extractLsb' 8 4) ((immI q).extractLsb' 4 4) ((immI q).extractLsb' 0 4) q.rd q.rs1)
  | 1 => some (.fenceI q.rd q.rs1 (immI q))
  | _ => none

/-- SYSTEM. `sret`, SFENCE.VMA and the hypervisor words are vacant (Table 3.2). -/
def decodeSystem (q : Parts) : Option Instr :=
  match q.f3 with
  | 0 =>
    if q.rd = 0 ∧ q.rs1 = 0 then
      match immI q with
      | 0x000 => some .ecall
      | 0x001 => some .ebreak
      | 0x105 => some .wfi
      | 0x302 => some .mret
      | _ => none
    else none
  | f3 => (CsrOp.ofCode? f3).map fun (op, imm) => .csrAccess op imm q.rd q.rs1 (immI q)

/-- AMO, LR and SC. -/
def decodeAmo (q : Parts) : Option Instr :=
  let aq := q.f7.getLsbD 1
  let rl := q.f7.getLsbD 0
  let go (dbl : Bool) : Option Instr :=
    match q.f7.extractLsb' 2 5 with
    | 0x02 => if q.rs2 = 0 then some (.lr dbl aq rl q.rd q.rs1) else none
    | 0x03 => some (.sc dbl aq rl q.rd q.rs1 q.rs2)
    | c => (AmoOp.ofCode? c).map fun op => .rvAmo op dbl aq rl q.rd q.rs1 q.rs2
  match q.f3 with
  | 2 => go false
  | 3 => go true
  | _ => none

/-! ### The Xhexaloth words -/

/-- custom-0, funct3 0 (Table 3.5): streams, queues, block moves, instruction-cache locks. -/
def decodeStreams (q : Parts) : Option Instr :=
  match q.f7 with
  | 0x00 => do
      let g ← xgReg? q.rd
      some (.sbind g q.rs1 q.rs2)
  | 0x01 => do
      let g ← xgReg? q.rd
      if q.rs2 = 0 ∧ q.rs1 = 0 then some (.sunbind g) else none
  | 0x02 => do
      let g ← xgReg? q.rs1
      if q.rs2 = 0 then some (.sgstat q.rd g) else none
  | 0x03 => do
      let n ← qReg? q.rd
      if q.rs2 = 0 then some (.qbind n q.rs1) else none
  | 0x04 => do
      let n ← qReg? q.rd
      if q.rs2 = 0 then some (.qpush n q.rs1) else none
  | 0x05 => do
      let n ← qReg? q.rs1
      if q.rs2 = 0 then some (.qpop q.rd n) else none
  | 0x06 => do
      let n ← qReg? q.rs1
      if q.rs2 = 0 then some (.qpoll q.rd n) else none
  | 0x07 => do
      let n ← qReg? q.rs1
      if q.rs2 = 0 then some (.qcnt q.rd n) else none
  | 0x08 => some (.bmove q.rd q.rs1 q.rs2)
  | 0x09 => some (.bfillw q.rd q.rs1 q.rs2)
  | 0x0a => some (.repb q.rd q.rs1 q.rs2)
  | 0x0b => some (.iclock q.rd q.rs1 q.rs2)
  | 0x0c => if q.rd = 0 then some (.icunlk q.rs1 q.rs2) else none
  | _ => none

/-- custom-0, funct3 5 (Table 3.5): engines, messages, barriers. -/
def decodeCopies (q : Parts) : Option Instr :=
  match q.f7 with
  | 0x00 => if q.rs2 = 0 then some (.bcopy q.rd q.rs1) else none
  | 0x01 => if q.rs2 = 0 then some (.bcopyc q.rd q.rs1) else none
  | 0x02 => if q.rs2 = 0 then some (.bgath q.rd q.rs1) else none
  | 0x03 => if q.rs2 = 0 then some (.bscat q.rd q.rs1) else none
  | 0x04 => if q.rs2 = 0 then some (.bcancel q.rd q.rs1) else none
  | 0x05 => some (.ctest q.rd q.rs1 q.rs2)
  | 0x06 => if q.rd = 0 then some (.cwaitm q.rs1 q.rs2) else none
  | 0x10 => if q.rd = 0 then some (.send q.rs1 q.rs2) else none
  | 0x11 => if q.rd = 0 then some (.sendr q.rs1 q.rs2) else none
  | 0x12 => if q.rd = 0 then some (.amsg q.rs1 q.rs2) else none
  | 0x13 => if q.rs2 = 0 then some (.recv q.rd q.rs1) else none
  | 0x14 => if q.rs2 = 0 then some (.recvp q.rd q.rs1) else none
  | 0x15 => if q.rd = 0 then some (.loopbk q.rs1 q.rs2) else none
  | 0x16 => if q.rs2 = 0 ∧ q.rs1 = 0 ∧ q.rd = 0 then some .hret else none
  | 0x17 => if q.rs2 = 0 then some (.rankget q.rd q.rs1) else none
  | 0x18 => if q.rs2 = 0 then some (.barr q.rd q.rs1) else none
  | 0x19 => if q.rd = 0 then some (.bwait q.rs1 q.rs2) else none
  | 0x1a => if q.rs2 = 0 then some (.barw q.rd q.rs1) else none
  | 0x1b => if q.rd = 0 then some (.bcfg q.rs1 q.rs2) else none
  | 0x1c => if q.rs2 = 0 then some (.bstat q.rd q.rs1) else none
  | 0x1d => if q.rs2 = 0 ∧ q.rd = 0 then some (.waita q.rs1) else none
  | _ => none

/-- custom-0, funct3 6 (Table 3.5): tasks and stamped values. -/
def decodeTasks (q : Parts) : Option Instr :=
  match q.f7 with
  | 0x00 => if q.rs2 = 0 then some (.tspawn q.rd q.rs1) else none
  | 0x01 => if q.rs2 = 0 ∧ q.rd = 0 then some (.tdep q.rs1) else none
  | 0x02 => if q.rs2 = 0 ∧ q.rd = 0 then some (.twait q.rs1) else none
  | 0x03 => if q.rs2 = 0 ∧ q.rd = 0 then some (.tsusp q.rs1) else none
  | 0x04 => if q.rs2 = 0 ∧ q.rs1 = 0 ∧ q.rd = 0 then some .texit else none
  | 0x05 => if q.rs2 = 0 ∧ q.rd = 0 then some (.phase q.rs1) else none
  | 0x08 => if q.rs2 = 0 ∧ q.rd = 0 then some (.stepinc q.rs1) else none
  | 0x09 => if q.rs2 = 0 ∧ q.rd = 0 then some (.gswait q.rs1) else none
  | 0x0a => if q.rs2 = 0 then some (.sld q.rd q.rs1) else none
  | 0x0b => if q.rd = 0 then some (.sst q.rs1 q.rs2) else none
  | 0x0c => if q.rd = 0 then some (.sadd q.rs1 q.rs2) else none
  | 0x0d => if q.rd = 0 then some (.smerge q.rs1 q.rs2) else none
  | _ => none

/-- custom-0, funct3 4 (Table 3.6): scoped accesses, by OP4 in bits 31:28. -/
def decodeScoped (q : Parts) : Option Instr :=
  match (q.f7 >>> 3).setWidth 4 with
  | 0x00 => do
      let sc ← Scope.ofCode? (selOf q.f7)
      if q.rs2 = 0 then some (.ldaq q.rd q.rs1 sc) else none
  | 0x01 => do
      let sc ← Scope.ofCode? (selOf q.f7)
      if q.rd = 0 then some (.strl q.rs1 q.rs2 sc) else none
  | 0x02 => do
      let sc ← Scope.ofCode? (selOf q.f7)
      if q.rs2 = 0 ∧ q.rd = 0 then some (.fenceRg q.rs1 sc) else none
  | 0x03 => do
      let sc ← Scope.ofCode? (selOf q.f7)
      if q.rs2 = 0 ∧ q.rs1 = 0 ∧ q.rd = 0 then some (.fenceS sc) else none
  | 0x04 => if q.rs2 = 0 ∧ q.rs1 = 0 ∧ q.rd = 0 ∧ q.f7 = 0x20 then some .fenceE else none
  | 0x05 => do
      let op ← ScOp.ofCode? (selOf q.f7)
      some (.amosc op q.rd q.rs1 q.rs2)
  | _ => none

/-- custom-3, funct3 0 (Table 3.10). -/
def decodeRanges (q : Parts) : Option Instr :=
  match q.f7 with
  | 0x00 => if q.rs2 = 0 ∧ q.rd = 0 then some (.rins q.rs1) else none
  | 0x01 => if q.rd = 0 then some (.rsplit q.rs1 q.rs2) else none
  | 0x02 => if q.rd = 0 then some (.rmerge q.rs1 q.rs2) else none
  | 0x03 => if q.rs2 = 0 ∧ q.rd = 0 then some (.rinval q.rs1) else none
  | 0x04 => if q.rs2 = 0 then some (.rprobe q.rd q.rs1) else none
  | 0x05 => some (.rmove q.rd q.rs1 q.rs2)
  | 0x06 => if q.rd = 0 then some (.rres q.rs1 q.rs2) else none
  | 0x07 => some (.boffl q.rd q.rs1 q.rs2)
  | 0x08 => some (.bret q.rd q.rs1 q.rs2)
  | _ => none

/-- custom-3, funct3 1 (Table 3.10). -/
def decodeMailbox (q : Parts) : Option Instr :=
  match q.f7 with
  | 0x00 => if q.rs2 = 0 then some (.mbxrd q.rd q.rs1) else none
  | 0x01 => if q.rs2 = 0 ∧ q.rd = 0 then some (.mbxack q.rs1) else none
  | 0x02 => if q.rd = 0 then some (.mbxpost q.rs1 q.rs2) else none
  | 0x03 => if q.rd = 0 then some (.slotsave q.rs1 q.rs2) else none
  | 0x04 => if q.rd = 0 then some (.slotrest q.rs1 q.rs2) else none
  | 0x05 => if q.rs2 = 0 then some (.nispill q.rd q.rs1) else none
  | 0x06 => if q.rs2 = 0 then some (.cutreq q.rd q.rs1) else none
  | 0x07 => if q.rs2 = 0 then some (.cutstat q.rd q.rs1) else none
  | 0x08 => if q.rs2 = 0 ∧ q.rd = 0 then some (.resume q.rs1) else none
  | 0x09 => if q.rs2 = 0 ∧ q.rd = 0 then some (.dumpseal q.rs1) else none
  | _ => none

/-- custom-3, funct3 2 (Table 3.10). -/
def decodeRankWin (q : Parts) : Option Instr :=
  match q.f7 with
  | 0x00 => if q.rd = 0 then some (.rankset q.rs1 q.rs2) else none
  | 0x01 => if q.rd = 0 then some (.winset q.rs1 q.rs2) else none
  | _ => none

/-- custom-1, funct3 0 (Table 3.7). -/
def decodeVec0 (q : Parts) : Option Instr :=
  match op4Of q.f7 with
  | 0x00 => do
      let mk ← vMask? q.f7
      let b ← vReg? q.rs2
      let a ← vReg? q.rs1
      let d ← vReg? q.rd
      some (.vadd d a b mk)
  | 0x01 => do
      let mk ← vMask? q.f7
      let b ← vReg? q.rs2
      let a ← vReg? q.rs1
      let d ← vReg? q.rd
      some (.vsub d a b mk)
  | 0x02 => do
      let mk ← vMask? q.f7
      let b ← vReg? q.rs2
      let a ← vReg? q.rs1
      let d ← vReg? q.rd
      some (.vmul d a b mk)
  | 0x03 => do
      let mk ← vMask? q.f7
      let b ← vReg? q.rs2
      let a ← vReg? q.rs1
      let d ← vReg? q.rd
      some (.vfma d a b mk)
  | 0x04 => do
      let mk ← vMask? q.f7
      let b ← vReg? q.rs2
      let a ← vReg? q.rs1
      let d ← vReg? q.rd
      some (.vfnma d a b mk)
  | 0x05 => do
      let mk ← vMask? q.f7
      let b ← vReg? q.rs2
      let a ← vReg? q.rs1
      let d ← vReg? q.rd
      some (.vdiv d a b mk)
  | 0x06 => do
      let mk ← vMask? q.f7
      let b ← vReg? q.rs2
      let d ← vReg? q.rd
      if q.rs1 = 0 then some (.vsqrt d b mk) else none
  | 0x07 => do
      let mk ← vMask? q.f7
      let b ← vReg? q.rs2
      let d ← vReg? q.rd
      if q.rs1 = 0 then some (.vrsq d b mk) else none
  | 0x08 => do
      let mk ← vMask? q.f7
      let b ← vReg? q.rs2
      let d ← vReg? q.rd
      if q.rs1 = 0 then some (.vexp2 d b mk) else none
  | 0x09 => do
      let mk ← vMask? q.f7
      let b ← vReg? q.rs2
      let d ← vReg? q.rd
      if q.rs1 = 0 then some (.vlog2 d b mk) else none
  | 0x0a => do
      let mk ← vMask? q.f7
      let b ← vReg? q.rs2
      let a ← vReg? q.rs1
      let d ← vReg? q.rd
      some (.vmax d a b mk)
  | 0x0b => do
      let mk ← vMask? q.f7
      let b ← vReg? q.rs2
      let a ← vReg? q.rs1
      let d ← vReg? q.rd
      some (.vmin d a b mk)
  | 0x0c => do
      let mk ← vMask? q.f7
      let b ← vReg? q.rs2
      let d ← vReg? q.rd
      if q.rs1 = 0 then some (.vabs d b mk) else none
  | 0x0d => do
      let mk ← vMask? q.f7
      let b ← vReg? q.rs2
      let d ← vReg? q.rd
      if q.rs1 = 0 then some (.vneg d b mk) else none
  | _ => none

/-- custom-1, funct3 1 (Table 3.7). -/
def decodeVec1 (q : Parts) : Option Instr :=
  match op4Of q.f7 with
  | 0x00 => do
      let mk ← vMask? q.f7
      let a ← vReg? q.rs1
      let b ← vReg? q.rs2
      let p ← predOf? q.rd
      some (.vcmp (maskOfPred q.rd) a b p mk)
  | 0x01 => do
      let mk ← vMask? q.f7
      let a ← vReg? q.rs1
      let b ← vReg? q.rs2
      let d ← vReg? q.rd
      if mk.en then some (.vsel d a b mk.sel) else none
  | 0x02 => do
      let mk ← vMask? q.f7
      let b ← vReg? q.rs2
      let a ← vReg? q.rs1
      let d ← vReg? q.rd
      some (.vand d a b mk)
  | 0x03 => do
      let mk ← vMask? q.f7
      let b ← vReg? q.rs2
      let a ← vReg? q.rs1
      let d ← vReg? q.rd
      some (.vor d a b mk)
  | 0x04 => do
      let mk ← vMask? q.f7
      let b ← vReg? q.rs2
      let a ← vReg? q.rs1
      let d ← vReg? q.rd
      some (.vxor d a b mk)
  | 0x05 => do
      let mk ← vMask? q.f7
      let b ← vReg? q.rs2
      let a ← vReg? q.rs1
      let d ← vReg? q.rd
      some (.vshl d a b mk)
  | 0x06 => do
      let mk ← vMask? q.f7
      let b ← vReg? q.rs2
      let a ← vReg? q.rs1
      let d ← vReg? q.rd
      some (.vshr d a b mk)
  | 0x07 => do
      let mk ← vMask? q.f7
      let b ← vReg? q.rs2
      let a ← vReg? q.rs1
      let d ← vReg? q.rd
      some (.vsra d a b mk)
  | 0x08 => do
      let mk ← vMask? q.f7
      let b ← vReg? q.rs2
      let d ← vReg? q.rd
      if q.rs1 = 0 then some (.vcvt d b mk) else none
  | 0x09 => do
      let mk ← vMask? q.f7
      let b ← vReg? q.rs2
      let a ← vReg? q.rs1
      let d ← vReg? q.rd
      some (.vqnt d a b mk)
  | 0x0a => do
      let mk ← vMask? q.f7
      let b ← vReg? q.rs2
      let a ← vReg? q.rs1
      let d ← vReg? q.rd
      some (.vrsum d a b mk)
  | 0x0b => do
      let mk ← vMask? q.f7
      let b ← vReg? q.rs2
      let a ← vReg? q.rs1
      let d ← vReg? q.rd
      some (.vrmax d a b mk)
  | 0x0c => do
      let mk ← vMask? q.f7
      let b ← vReg? q.rs2
      let a ← vReg? q.rs1
      let d ← vReg? q.rd
      some (.vrmin d a b mk)
  | 0x0d => do
      let mk ← vMask? q.f7
      let b ← vReg? q.rs2
      let a ← vReg? q.rs1
      let d ← vReg? q.rd
      some (.vslide d a b mk)
  | 0x0e => do
      let mk ← vMask? q.f7
      let b ← vReg? q.rs2
      let a ← vReg? q.rs1
      let d ← vReg? q.rd
      some (.vperm d a b mk)
  | _ => none

/-- custom-1, funct3 2 (Table 3.7). -/
def decodeVec2 (q : Parts) : Option Instr :=
  match op4Of q.f7 with
  | 0x00 => do
      let mk ← vMask? q.f7
      let b ← vReg? q.rs2
      let d ← vReg? q.rd
      some (.vaddX d q.rs1 b mk)
  | 0x01 => do
      let mk ← vMask? q.f7
      let b ← vReg? q.rs2
      let d ← vReg? q.rd
      some (.vsubX d q.rs1 b mk)
  | 0x02 => do
      let mk ← vMask? q.f7
      let b ← vReg? q.rs2
      let d ← vReg? q.rd
      some (.vmulX d q.rs1 b mk)
  | 0x03 => do
      let mk ← vMask? q.f7
      let b ← vReg? q.rs2
      let d ← vReg? q.rd
      some (.vfmaX d q.rs1 b mk)
  | 0x04 => do
      let mk ← vMask? q.f7
      let b ← vReg? q.rs2
      let d ← vReg? q.rd
      some (.vfnmaX d q.rs1 b mk)
  | 0x05 => do
      let mk ← vMask? q.f7
      let b ← vReg? q.rs2
      let d ← vReg? q.rd
      some (.vdivX d q.rs1 b mk)
  | 0x0a => do
      let mk ← vMask? q.f7
      let b ← vReg? q.rs2
      let d ← vReg? q.rd
      some (.vmaxX d q.rs1 b mk)
  | 0x0b => do
      let mk ← vMask? q.f7
      let b ← vReg? q.rs2
      let d ← vReg? q.rd
      some (.vminX d q.rs1 b mk)
  | _ => none

/-- custom-1, funct3 3 (Table 3.7). -/
def decodeVec3 (q : Parts) : Option Instr :=
  match op4Of q.f7 with
  | 0x00 => do
      let mk ← vMask? q.f7
      let a ← some q.rs1
      let b ← vReg? q.rs2
      let p ← predOf? q.rd
      some (.vcmpX (maskOfPred q.rd) a b p mk)
  | 0x01 => do
      let mk ← vMask? q.f7
      let a ← some q.rs1
      let b ← vReg? q.rs2
      let d ← vReg? q.rd
      if mk.en then some (.vselX d a b mk.sel) else none
  | 0x02 => do
      let mk ← vMask? q.f7
      let b ← vReg? q.rs2
      let d ← vReg? q.rd
      some (.vandX d q.rs1 b mk)
  | 0x03 => do
      let mk ← vMask? q.f7
      let b ← vReg? q.rs2
      let d ← vReg? q.rd
      some (.vorX d q.rs1 b mk)
  | 0x04 => do
      let mk ← vMask? q.f7
      let b ← vReg? q.rs2
      let d ← vReg? q.rd
      some (.vxorX d q.rs1 b mk)
  | 0x05 => do
      let mk ← vMask? q.f7
      let b ← vReg? q.rs2
      let d ← vReg? q.rd
      some (.vshlX d q.rs1 b mk)
  | 0x06 => do
      let mk ← vMask? q.f7
      let b ← vReg? q.rs2
      let d ← vReg? q.rd
      some (.vshrX d q.rs1 b mk)
  | 0x07 => do
      let mk ← vMask? q.f7
      let b ← vReg? q.rs2
      let d ← vReg? q.rd
      some (.vsraX d q.rs1 b mk)
  | 0x0d => do
      let mk ← vMask? q.f7
      let b ← vReg? q.rs2
      let d ← vReg? q.rd
      some (.vslideX d q.rs1 b mk)
  | _ => none

/-- custom-1, funct3 4 (Table 3.7): scalar moves; bit 29 of OP4 1 is the direction. -/
def decodeVec4 (q : Parts) : Option Instr :=
  match op4Of q.f7 with
  | 0x00 => do
      let mk ← vMask? q.f7
      let d ← vReg? q.rd
      if q.rs2 = 0 then some (.vbcst d q.rs1 mk) else none
  | 0x01 =>
    match q.f7 with
    | 0x01 => do
        let d ← vReg? q.rd
        if q.rs2 = 0 then some (.vmvxv d q.rs1) else none
    | 0x11 => do
        let b ← vReg? q.rs2
        if q.rs1 = 0 then some (.vmvvx q.rd b) else none
    | _ => none
  | _ => none

/-- custom-2, funct3 0 (Table 3.9): vector memory. -/
def decodeVecMem (q : Parts) : Option Instr :=
  match op4Of q.f7 with
  | 0x00 => do
      let mk ← vMask? q.f7
      let d ← vReg? q.rd
      if q.rs2 = 0 then some (.vld d q.rs1 mk) else none
  | 0x01 => do
      let mk ← vMask? q.f7
      let s ← vReg? q.rd
      if q.rs2 = 0 then some (.vst s q.rs1 mk) else none
  | 0x02 => do
      let mk ← vMask? q.f7
      let d ← vReg? q.rd
      some (.vlds d q.rs1 q.rs2 mk)
  | 0x03 => do
      let mk ← vMask? q.f7
      let s ← vReg? q.rd
      some (.vsts s q.rs1 q.rs2 mk)
  | 0x04 => do
      let mk ← vMask? q.f7
      let i ← vReg? q.rs2
      let d ← vReg? q.rd
      some (.vldx d q.rs1 i mk)
  | 0x05 => do
      let mk ← vMask? q.f7
      let i ← vReg? q.rs2
      let s ← vReg? q.rd
      some (.vstx s q.rs1 i mk)
  | 0x06 => do
      let mk ← vMask? q.f7
      let i ← vReg? q.rs2
      let d ← vReg? q.rd
      some (.vlut d q.rs1 i mk)
  | _ => none

/-- custom-2, funct3 1 (Table 3.9): mask operations. -/
def decodeMasks (q : Parts) : Option Instr :=
  match q.f7 with
  | 0x00 => do
      let b ← mReg? q.rs2
      let a ← mReg? q.rs1
      let d ← mReg? q.rd
      some (.mand d a b)
  | 0x01 => do
      let a ← mReg? q.rs1
      if q.rs2 = 0 then some (.mpop q.rd a) else none
  | 0x20 => do
      let b ← mReg? q.rs2
      let a ← mReg? q.rs1
      let d ← mReg? q.rd
      some (.mor d a b)
  | 0x40 => do
      let a ← mReg? q.rs1
      let d ← mReg? q.rd
      if q.rs2 = 0 then some (.mnot d a) else none
  | _ => none

/-- custom-2, funct3 2 (Table 3.9): stamped vectors. -/
def decodeVecStamped (q : Parts) : Option Instr :=
  match op4Of q.f7 with
  | 0x00 => do
      let mk ← vMask? q.f7
      let d ← vReg? q.rd
      if q.rs2 = 0 then some (.vsld d q.rs1 mk) else none
  | 0x01 => do
      let mk ← vMask? q.f7
      let s ← vReg? q.rd
      if q.rs2 = 0 then some (.vsst s q.rs1 mk) else none
  | 0x02 => do
      let mk ← vMask? q.f7
      let s ← vReg? q.rd
      if q.rs2 = 0 then some (.vsadd s q.rs1 mk) else none
  | 0x03 => do
      let mk ← vMask? q.f7
      let s ← vReg? q.rd
      some (.vstpair s q.rs1 q.rs2 mk)
  | _ => none

/-- custom-0 (Table 3.5). -/
def decodeCustom0 (q : Parts) : Option Instr :=
  match q.f3 with
  | 0 => decodeStreams q
  | 1 => some (.ldna q.rd q.rs1 (immI q))
  | 2 => some (.stby q.rs1 q.rs2 (immS q))
  | 3 => if q.rd = 0 then some (.pref q.rs1 (immI q)) else none
  | 4 => decodeScoped q
  | 5 => decodeCopies q
  | 6 => decodeTasks q
  | _ => none

/-- custom-1 (Table 3.7 and R98). -/
def decodeCustom1 (q : Parts) : Option Instr :=
  match q.f3 with
  | 0 => decodeVec0 q
  | 1 => decodeVec1 q
  | 2 => decodeVec2 q
  | 3 => decodeVec3 q
  | 4 => decodeVec4 q
  | 6 => if q.rs1 = 0 ∧ q.rd = 0 then some (.fmt (immI q)) else none
  | 7 => if q.f7 = 0 then (EWidth.ofCode? q.rs2).map fun w => .vlgr q.rd q.rs1 w else none
  | _ => none

/-- custom-2 (Table 3.9). -/
def decodeCustom2 (q : Parts) : Option Instr :=
  match q.f3 with
  | 0 => decodeVecMem q
  | 1 => decodeMasks q
  | 2 => decodeVecStamped q
  | _ => none

/-- custom-3 (Table 3.10). -/
def decodeCustom3 (q : Parts) : Option Instr :=
  match q.f3 with
  | 0 => decodeRanges q
  | 1 => decodeMailbox q
  | 2 => decodeRankWin q
  | _ => none

/-- The instruction of a word's six fields, or none where the encoding is vacant (R89, R91, R94). -/
def decodeParts (q : Parts) : Option Instr :=
  match q.maj with
  | 0x03 => (LoadOp.ofCode? q.f3).map fun op => .rvLoad op q.rd q.rs1 (immI q)
  | 0x0b => decodeCustom0 q
  | 0x0f => decodeFence q
  | 0x13 => decodeOpImm q
  | 0x17 => some (.rvAluOrBranch (.auipc q.rd (imm20 q)))
  | 0x1b => decodeOpImm q
  | 0x23 => (StoreOp.ofCode? q.f3).map fun op => .rvStore op q.rs1 q.rs2 (immS q)
  | 0x2b => decodeCustom1 q
  | 0x2f => decodeAmo q
  | 0x33 => decodeOp q
  | 0x37 => some (.rvAluOrBranch (.lui q.rd (imm20 q)))
  | 0x3b => decodeOp32 q
  | 0x5b => decodeCustom2 q
  | 0x63 => (BrCond.ofCode? q.f3).map fun c => .rvAluOrBranch (.branch c q.rs1 q.rs2 (branchOff q))
  | 0x67 => if q.f3 = 0 then some (.rvAluOrBranch (.jalr q.rd q.rs1 (immI q))) else none
  | 0x6f => some (.rvAluOrBranch (.jal q.rd (jalOff (imm20 q))))
  | 0x73 => decodeSystem q
  | 0x7b => decodeCustom3 q
  | _ => none

/-- The instruction of a 32-bit word, or none. -/
def decode32? (w : Nat) : Option Instr := decodeParts (Parts.ofWord w)

/-! ### Tile command words (Tables 3.12 to 3.15) -/

/-- The constructor of a TCW's CLASS and OPC (Table 3.15); TRED by QEN and ESET by AUX. -/
def tcwForm? (t : Tcw) : Option Instr :=
  match t.cls, t.opc with
  | 0, 0x00 => some (.tld t)
  | 0, 0x01 => some (.tst t)
  | 0, 0x02 => some (.tldh t)
  | 0, 0x03 => some (.tldm t)
  | 0, 0x04 => some (.tgath t)
  | 0, 0x05 => some (.tsave t)
  | 0, 0x06 => some (.trest t)
  | 1, 0x00 => some (.tmma t)
  | 1, 0x01 => some (.tmmas t)
  | 1, 0x02 => some (.tmmaw t)
  | 1, 0x03 => some (.tmmad t)
  | 2, 0x00 => some (.tmov t)
  | 2, 0x01 => some (.tzero t)
  | 2, 0x02 => some (.tfill t)
  | 2, 0x03 => some (.tadd t)
  | 2, 0x04 => some (.tsub t)
  | 2, 0x05 => some (.tmul t)
  | 2, 0x06 => some (.tmax t)
  | 2, 0x07 => some (.tmin t)
  | 2, 0x08 => some (.tscl t)
  | 2, 0x09 => some (.ttrn t)
  | 2, 0x0a => some (if t.qen then .tredQueue t else .tred t)
  | 3, 0x00 => some (.tcvt t)
  | 3, 0x01 => some (.tqnt t)
  | 3, 0x02 => some (.tdeq t)
  | 4, 0x00 => some (.tfence t)
  | 4, 0x01 => some (if t.aux = 0 then .esetImm t else .eset t)
  | 4, 0x02 => some (.skset t)
  | 4, 0x03 => some (.skget t)
  | _, _ => none

/-- A TCW decoded: its form, when LEN is 0, every field the form holds zero is zero, and no field holds a
value listed as vacant; else none (R89, R166, R198). -/
def decodeTcw? (raw : BitVec 256) : Option Instr :=
  (tcwForm? ⟨raw⟩).bind fun i => if Instr.wellFormed i then some i else none

/-- What the word at an instruction address begins with: bits 6:0 and 14:12 say a TCW follows (R87). -/
def startsTcw (w : Nat) : Bool := w % 128 = 127 && w / 4096 % 8 = 7

/-- The instruction of a 32-bit word that starts no TCW. -/
def decodeWord32 (w : Nat) : Instr :=
  (decode32? w).getD (.vacantEncoding (BitVec.ofNat 256 (w % 4294967296)) false)

/-- The instruction of a 256-bit tile command word. -/
def decodeTcw (raw : BitVec 256) : Instr := (decodeTcw? raw).getD (.vacantEncoding raw true)

/-- A little-endian number from bytes. -/
def ofBytesLE : List Byte → Nat
  | [] => 0
  | b :: bs => b.toNat + 256 * ofBytesLE bs

/-- The n low bytes of a number, little-endian. -/
def toBytesLE : Nat → Nat → List Byte
  | 0, _ => []
  | n + 1, v => BitVec.ofNat 8 v :: toBytesLE n (v / 256)

/-- Decoding of any bytes: the instruction at their head and the bytes after it; none only where fewer
bytes stand there than the instruction takes. A word that encodes nothing gives `vacantEncoding`. -/
def decodeBytes (bs : List Byte) : Option (Instr × List Byte) :=
  if bs.length < 4 then none
  else
    let w := ofBytesLE (bs.take 4)
    if startsTcw w then
      if bs.length < 32 then none
      else some (decodeTcw (BitVec.ofNat 256 (ofBytesLE (bs.take 32))), bs.drop 32)
    else some (decodeWord32 w, bs.drop 4)

/-! ### The encoder -/

/-- The fields of a base computational, branch or jump instruction. -/
def encodeRv : RvOp → Parts
  | .lui rd i => ⟨imm20F7 i, imm20Rs2 i, imm20Rs1 i, imm20F3 i, rd, 0x37⟩
  | .auipc rd i => ⟨imm20F7 i, imm20Rs2 i, imm20Rs1 i, imm20F3 i, rd, 0x17⟩
  | .jal rd o =>
    ⟨imm20F7 (jalField o), imm20Rs2 (jalField o), imm20Rs1 (jalField o), imm20F3 (jalField o), rd, 0x6f⟩
  | .jalr rd rs1 i => ⟨immHi i, immLo i, rs1, 0, rd, 0x67⟩
  | .branch c rs1 rs2 o => ⟨branchF7 o, rs2, rs1, c.code, branchRd o, 0x63⟩
  | .alu op rd rs1 rs2 => ⟨op.fields.1, rs2, rs1, op.fields.2, rd, 0x33⟩
  | .aluW op rd rs1 rs2 => ⟨op.fields.1, rs2, rs1, op.fields.2, rd, 0x3b⟩
  | .aluI op rd rs1 i => ⟨immHi i, immLo i, rs1, op.fields.2, rd, op.fields.1⟩
  | .shift op rd rs1 amt =>
    ⟨op.fields.2.1 ++ amt.extractLsb' 5 1, amt.extractLsb' 0 5, rs1, op.fields.2.2, rd, op.fields.1⟩
  | .unary op rd rs1 => ⟨op.fields.2.1, op.fields.2.2.1, rs1, op.fields.2.2.2, rd, op.fields.1⟩

/-- The fields of the 32-bit word of an instruction; none for tile command words and device steps. -/
def encodeParts : Instr → Option Parts
  | .rvAluOrBranch op => some (encodeRv op)
  | .rvLoad op d a i => some ⟨immHi i, immLo i, a, op.code, d, 0x03⟩
  | .rvStore op a b i => some ⟨immHi i, b, a, op.code, immLo i, 0x23⟩
  | .rvAmo op dbl aq rl d a b => some ⟨amoF7 op.code aq rl, b, a, amoF3 dbl, d, 0x2f⟩
  | .lr dbl aq rl d a => some ⟨amoF7 0x02 aq rl, 0, a, amoF3 dbl, d, 0x2f⟩
  | .sc dbl aq rl d a b => some ⟨amoF7 0x03 aq rl, b, a, amoF3 dbl, d, 0x2f⟩
  | .csrAccess op imm d a csr => some ⟨immHi csr, immLo csr, a, op.code imm, d, 0x73⟩
  | .fence fm pred succ d a => some ⟨immHi (fm ++ pred ++ succ), immLo (fm ++ pred ++ succ), a, 0, d, 0x0f⟩
  | .fenceI d a i => some ⟨immHi i, immLo i, a, 1, d, 0x0f⟩
  | .ecall => some ⟨0, 0, 0, 0, 0, 0x73⟩
  | .ebreak => some ⟨0, 1, 0, 0, 0, 0x73⟩
  | .wfi => some ⟨0x08, 5, 0, 0, 0, 0x73⟩
  | .mret => some ⟨0x18, 2, 0, 0, 0, 0x73⟩
  | .fmt p => some ⟨immHi p, immLo p, 0, 6, 0, 0x2b⟩
  | .sbind g a b => some ⟨0x00, b, a, 0, xgField g, 0x0b⟩
  | .sunbind g => some ⟨0x01, 0, 0, 0, xgField g, 0x0b⟩
  | .sgstat d g => some ⟨0x02, 0, xgField g, 0, d, 0x0b⟩
  | .qbind n a => some ⟨0x03, 0, a, 0, qField n, 0x0b⟩
  | .qpush n a => some ⟨0x04, 0, a, 0, qField n, 0x0b⟩
  | .qpop d n => some ⟨0x05, 0, qField n, 0, d, 0x0b⟩
  | .qpoll d n => some ⟨0x06, 0, qField n, 0, d, 0x0b⟩
  | .qcnt d n => some ⟨0x07, 0, qField n, 0, d, 0x0b⟩
  | .bmove d a b => some ⟨0x08, b, a, 0, d, 0x0b⟩
  | .bfillw d a b => some ⟨0x09, b, a, 0, d, 0x0b⟩
  | .repb d a b => some ⟨0x0a, b, a, 0, d, 0x0b⟩
  | .iclock d a b => some ⟨0x0b, b, a, 0, d, 0x0b⟩
  | .icunlk a b => some ⟨0x0c, b, a, 0, 0, 0x0b⟩
  | .ldna d a i => some ⟨immHi i, immLo i, a, 1, d, 0x0b⟩
  | .stby a b i => some ⟨immHi i, b, a, 2, immLo i, 0x0b⟩
  | .pref a i => some ⟨immHi i, immLo i, a, 3, 0, 0x0b⟩
  | .ldaq d a sc => some ⟨selF7 0 sc.code, 0, a, 4, d, 0x0b⟩
  | .strl a b sc => some ⟨selF7 1 sc.code, b, a, 4, 0, 0x0b⟩
  | .fenceRg a sc => some ⟨selF7 2 sc.code, 0, a, 4, 0, 0x0b⟩
  | .fenceS sc => some ⟨selF7 3 sc.code, 0, 0, 4, 0, 0x0b⟩
  | .fenceE => some ⟨0x20, 0, 0, 4, 0, 0x0b⟩
  | .amosc op d a b => some ⟨selF7 5 op.code, b, a, 4, d, 0x0b⟩
  | .bcopy d a => some ⟨0x00, 0, a, 5, d, 0x0b⟩
  | .bcopyc d a => some ⟨0x01, 0, a, 5, d, 0x0b⟩
  | .bgath d a => some ⟨0x02, 0, a, 5, d, 0x0b⟩
  | .bscat d a => some ⟨0x03, 0, a, 5, d, 0x0b⟩
  | .bcancel d a => some ⟨0x04, 0, a, 5, d, 0x0b⟩
  | .ctest d a b => some ⟨0x05, b, a, 5, d, 0x0b⟩
  | .cwaitm a b => some ⟨0x06, b, a, 5, 0, 0x0b⟩
  | .send a b => some ⟨0x10, b, a, 5, 0, 0x0b⟩
  | .sendr a b => some ⟨0x11, b, a, 5, 0, 0x0b⟩
  | .amsg a b => some ⟨0x12, b, a, 5, 0, 0x0b⟩
  | .recv d a => some ⟨0x13, 0, a, 5, d, 0x0b⟩
  | .recvp d a => some ⟨0x14, 0, a, 5, d, 0x0b⟩
  | .loopbk a b => some ⟨0x15, b, a, 5, 0, 0x0b⟩
  | .hret => some ⟨0x16, 0, 0, 5, 0, 0x0b⟩
  | .rankget d a => some ⟨0x17, 0, a, 5, d, 0x0b⟩
  | .rankset a b => some ⟨0x00, b, a, 2, 0, 0x7b⟩
  | .barr d a => some ⟨0x18, 0, a, 5, d, 0x0b⟩
  | .bwait a b => some ⟨0x19, b, a, 5, 0, 0x0b⟩
  | .barw d a => some ⟨0x1a, 0, a, 5, d, 0x0b⟩
  | .bcfg a b => some ⟨0x1b, b, a, 5, 0, 0x0b⟩
  | .bstat d a => some ⟨0x1c, 0, a, 5, d, 0x0b⟩
  | .waita a => some ⟨0x1d, 0, a, 5, 0, 0x0b⟩
  | .mbxrd d a => some ⟨0x00, 0, a, 1, d, 0x7b⟩
  | .mbxack a => some ⟨0x01, 0, a, 1, 0, 0x7b⟩
  | .mbxpost a b => some ⟨0x02, b, a, 1, 0, 0x7b⟩
  | .resume a => some ⟨0x08, 0, a, 1, 0, 0x7b⟩
  | .slotsave a b => some ⟨0x03, b, a, 1, 0, 0x7b⟩
  | .slotrest a b => some ⟨0x04, b, a, 1, 0, 0x7b⟩
  | .nispill d a => some ⟨0x05, 0, a, 1, d, 0x7b⟩
  | .cutreq d a => some ⟨0x06, 0, a, 1, d, 0x7b⟩
  | .cutstat d a => some ⟨0x07, 0, a, 1, d, 0x7b⟩
  | .dumpseal a => some ⟨0x09, 0, a, 1, 0, 0x7b⟩
  | .tspawn d a => some ⟨0x00, 0, a, 6, d, 0x0b⟩
  | .tdep a => some ⟨0x01, 0, a, 6, 0, 0x0b⟩
  | .twait a => some ⟨0x02, 0, a, 6, 0, 0x0b⟩
  | .tsusp a => some ⟨0x03, 0, a, 6, 0, 0x0b⟩
  | .texit => some ⟨0x04, 0, 0, 6, 0, 0x0b⟩
  | .phase a => some ⟨0x05, 0, a, 6, 0, 0x0b⟩
  | .stepinc a => some ⟨0x08, 0, a, 6, 0, 0x0b⟩
  | .gswait a => some ⟨0x09, 0, a, 6, 0, 0x0b⟩
  | .sld d a => some ⟨0x0a, 0, a, 6, d, 0x0b⟩
  | .sst a b => some ⟨0x0b, b, a, 6, 0, 0x0b⟩
  | .sadd a b => some ⟨0x0c, b, a, 6, 0, 0x0b⟩
  | .smerge a b => some ⟨0x0d, b, a, 6, 0, 0x0b⟩
  | .vsld d a mk => some ⟨vF7 mk 0, 0, a, 2, vField d, 0x5b⟩
  | .vsst s a mk => some ⟨vF7 mk 1, 0, a, 2, vField s, 0x5b⟩
  | .vsadd s a mk => some ⟨vF7 mk 2, 0, a, 2, vField s, 0x5b⟩
  | .vstpair s a x mk => some ⟨vF7 mk 3, x, a, 2, vField s, 0x5b⟩
  | .winset a b => some ⟨0x01, b, a, 2, 0, 0x7b⟩
  | .rins a => some ⟨0x00, 0, a, 0, 0, 0x7b⟩
  | .rsplit a b => some ⟨0x01, b, a, 0, 0, 0x7b⟩
  | .rmerge a b => some ⟨0x02, b, a, 0, 0, 0x7b⟩
  | .rinval a => some ⟨0x03, 0, a, 0, 0, 0x7b⟩
  | .rprobe d a => some ⟨0x04, 0, a, 0, d, 0x7b⟩
  | .rmove d a b => some ⟨0x05, b, a, 0, d, 0x7b⟩
  | .rres a b => some ⟨0x06, b, a, 0, 0, 0x7b⟩
  | .boffl d a b => some ⟨0x07, b, a, 0, d, 0x7b⟩
  | .bret d a b => some ⟨0x08, b, a, 0, d, 0x7b⟩
  | .vlgr d a w => some ⟨0, w.code, a, 7, d, 0x2b⟩
  | .vadd d a b mk => some ⟨vF7 mk 0, vField b, vField a, 0, vField d, 0x2b⟩
  | .vaddX d a b mk => some ⟨vF7 mk 0, vField b, a, 2, vField d, 0x2b⟩
  | .vsub d a b mk => some ⟨vF7 mk 1, vField b, vField a, 0, vField d, 0x2b⟩
  | .vsubX d a b mk => some ⟨vF7 mk 1, vField b, a, 2, vField d, 0x2b⟩
  | .vmul d a b mk => some ⟨vF7 mk 2, vField b, vField a, 0, vField d, 0x2b⟩
  | .vmulX d a b mk => some ⟨vF7 mk 2, vField b, a, 2, vField d, 0x2b⟩
  | .vfma d a b mk => some ⟨vF7 mk 3, vField b, vField a, 0, vField d, 0x2b⟩
  | .vfmaX d a b mk => some ⟨vF7 mk 3, vField b, a, 2, vField d, 0x2b⟩
  | .vfnma d a b mk => some ⟨vF7 mk 4, vField b, vField a, 0, vField d, 0x2b⟩
  | .vfnmaX d a b mk => some ⟨vF7 mk 4, vField b, a, 2, vField d, 0x2b⟩
  | .vdiv d a b mk => some ⟨vF7 mk 5, vField b, vField a, 0, vField d, 0x2b⟩
  | .vdivX d a b mk => some ⟨vF7 mk 5, vField b, a, 2, vField d, 0x2b⟩
  | .vsqrt d b mk => some ⟨vF7 mk 6, vField b, 0, 0, vField d, 0x2b⟩
  | .vrsq d b mk => some ⟨vF7 mk 7, vField b, 0, 0, vField d, 0x2b⟩
  | .vexp2 d b mk => some ⟨vF7 mk 8, vField b, 0, 0, vField d, 0x2b⟩
  | .vlog2 d b mk => some ⟨vF7 mk 9, vField b, 0, 0, vField d, 0x2b⟩
  | .vmax d a b mk => some ⟨vF7 mk 10, vField b, vField a, 0, vField d, 0x2b⟩
  | .vmaxX d a b mk => some ⟨vF7 mk 10, vField b, a, 2, vField d, 0x2b⟩
  | .vmin d a b mk => some ⟨vF7 mk 11, vField b, vField a, 0, vField d, 0x2b⟩
  | .vminX d a b mk => some ⟨vF7 mk 11, vField b, a, 2, vField d, 0x2b⟩
  | .vabs d b mk => some ⟨vF7 mk 12, vField b, 0, 0, vField d, 0x2b⟩
  | .vneg d b mk => some ⟨vF7 mk 13, vField b, 0, 0, vField d, 0x2b⟩
  | .vcmp k a b p mk => some ⟨vF7 mk 0, vField b, vField a, 1, predField k p, 0x2b⟩
  | .vcmpX k a b p mk => some ⟨vF7 mk 0, vField b, a, 3, predField k p, 0x2b⟩
  | .vsel d a b k => some ⟨vF7 ⟨true, k⟩ 1, vField b, vField a, 1, vField d, 0x2b⟩
  | .vselX d a b k => some ⟨vF7 ⟨true, k⟩ 1, vField b, a, 3, vField d, 0x2b⟩
  | .vand d a b mk => some ⟨vF7 mk 2, vField b, vField a, 1, vField d, 0x2b⟩
  | .vandX d a b mk => some ⟨vF7 mk 2, vField b, a, 3, vField d, 0x2b⟩
  | .vor d a b mk => some ⟨vF7 mk 3, vField b, vField a, 1, vField d, 0x2b⟩
  | .vorX d a b mk => some ⟨vF7 mk 3, vField b, a, 3, vField d, 0x2b⟩
  | .vxor d a b mk => some ⟨vF7 mk 4, vField b, vField a, 1, vField d, 0x2b⟩
  | .vxorX d a b mk => some ⟨vF7 mk 4, vField b, a, 3, vField d, 0x2b⟩
  | .vshl d a b mk => some ⟨vF7 mk 5, vField b, vField a, 1, vField d, 0x2b⟩
  | .vshlX d a b mk => some ⟨vF7 mk 5, vField b, a, 3, vField d, 0x2b⟩
  | .vshr d a b mk => some ⟨vF7 mk 6, vField b, vField a, 1, vField d, 0x2b⟩
  | .vshrX d a b mk => some ⟨vF7 mk 6, vField b, a, 3, vField d, 0x2b⟩
  | .vsra d a b mk => some ⟨vF7 mk 7, vField b, vField a, 1, vField d, 0x2b⟩
  | .vsraX d a b mk => some ⟨vF7 mk 7, vField b, a, 3, vField d, 0x2b⟩
  | .vcvt d b mk => some ⟨vF7 mk 8, vField b, 0, 1, vField d, 0x2b⟩
  | .vqnt d a b mk => some ⟨vF7 mk 9, vField b, vField a, 1, vField d, 0x2b⟩
  | .vrsum d a b mk => some ⟨vF7 mk 10, vField b, vField a, 1, vField d, 0x2b⟩
  | .vrmax d a b mk => some ⟨vF7 mk 11, vField b, vField a, 1, vField d, 0x2b⟩
  | .vrmin d a b mk => some ⟨vF7 mk 12, vField b, vField a, 1, vField d, 0x2b⟩
  | .vslide d a b mk => some ⟨vF7 mk 13, vField b, vField a, 1, vField d, 0x2b⟩
  | .vslideX d a b mk => some ⟨vF7 mk 13, vField b, a, 3, vField d, 0x2b⟩
  | .vperm d a b mk => some ⟨vF7 mk 14, vField b, vField a, 1, vField d, 0x2b⟩
  | .vbcst d a mk => some ⟨vF7 mk 0, 0, a, 4, vField d, 0x2b⟩
  | .vmvxv d a => some ⟨0x01, 0, a, 4, vField d, 0x2b⟩
  | .vmvvx d b => some ⟨0x11, vField b, 0, 4, d, 0x2b⟩
  | .vld d a mk => some ⟨vF7 mk 0, 0, a, 0, vField d, 0x5b⟩
  | .vst s a mk => some ⟨vF7 mk 1, 0, a, 0, vField s, 0x5b⟩
  | .vlds d a x mk => some ⟨vF7 mk 2, x, a, 0, vField d, 0x5b⟩
  | .vsts s a x mk => some ⟨vF7 mk 3, x, a, 0, vField s, 0x5b⟩
  | .vldx d a i mk => some ⟨vF7 mk 4, vField i, a, 0, vField d, 0x5b⟩
  | .vstx s a i mk => some ⟨vF7 mk 5, vField i, a, 0, vField s, 0x5b⟩
  | .vlut d a i mk => some ⟨vF7 mk 6, vField i, a, 0, vField d, 0x5b⟩
  | .mand d a b => some ⟨0x00, mField b, mField a, 1, mField d, 0x5b⟩
  | .mor d a b => some ⟨0x20, mField b, mField a, 1, mField d, 0x5b⟩
  | .mnot d a => some ⟨0x40, 0, mField a, 1, mField d, 0x5b⟩
  | .mpop d a => some ⟨0x01, 0, mField a, 1, d, 0x5b⟩
  | _ => none

/-- The 32-bit word of an instruction that has one. -/
def encode32? (i : Instr) : Option Nat := (encodeParts i).map Parts.word

/-- The words of a well-formed instruction as bytes in memory: 4 bytes, or the 32 of a tile command word;
none for a device step, which has no encoding, and for an ill-formed instruction. -/
def encode (i : Instr) : Option (List Byte) :=
  if i.wellFormed then
    match encode32? i with
    | some w => some (toBytesLE 4 w)
    | none => (tcwOf? i).map fun t => toBytesLE 32 t.raw.toNat
  else none

/-- Where in the opcode table's numbering the instruction's bits lie is where the hardware stores them: the
word's bits are the little-endian bytes of w; the bits above nbits are zero. -/
def decodeTableWord (nbits w : Nat) : Option Instr :=
  match decodeBytes (toBytesLE 32 (w % 2 ^ nbits)) with
  | some (.vacantEncoding _ _, _) => none
  | some (i, _) => some i
  | none => none

end Sys2Proof
end

