-- ==== Sys2Proof/Config.lean ====
section
/-! DEFINITION. What an implementation fixes, and the free values: constants with no body, which nothing can evaluate. -/

namespace Sys2Proof.Config

open Sys2Proof

/-- A value the manual leaves open (log entry 2): applied to the state's counter of open values taken. -/
opaque freeWord : Nat → Word

/-- A 32-byte or longer value the manual leaves open, such as an attestation signature (log entry 2). -/
opaque freeBits : Nat → BitVec 4096

/-- The fixed function behind VRSQ on FP32 bit patterns (05 R149), within 1 ulp but otherwise not stated. -/
opaque rsqApprox : BitVec 32 → Nat

/-- The fixed function behind VEXP2 on FP32 bit patterns (05 R149). -/
opaque exp2Approx : BitVec 32 → Nat

/-- The fixed function behind VLOG2 on FP32 bit patterns (05 R149). -/
opaque log2Approx : BitVec 32 → Nat

/-- What is fixed in the device at manufacture: words 0 to 1023 its certificate chain, 1024 and 1025 its serial (21 R474). -/
opaque deviceWord : Nat → Word

/-- The SHA-384 digest of a firmware image, extended into a measurement register (21 R473). -/
opaque measure : BitVec 384 → Nat → BitVec 384

/-- Cores of the package (00 R2). -/
def cores : Nat := 192
/-- Clusters (00 R2). -/
def clusters : Nat := 12
/-- Memory stations (00 Table 0.1). -/
def stations : Nat := 6
/-- Application cores (00 Table 0.2). -/
def appCores : Nat := 16
/-- Entries of a core's range table (15 R349). -/
def rangeEntries : Nat := 64
/-- Entries of the range-lock table (10 R266). -/
def lockEntries : Nat := 16
/-- Engine operations a core has outstanding at most (11 R282). -/
def maxEngineOps : Nat := 32
/-- Tile reorder buffer entries (01 R38). -/
def robEntries : Nat := 32
/-- Physical tile slots of a core (01 R38). -/
def tileSlots : Nat := 96
/-- Backed bytes of each HBM region with no channel retired (09 Table 9.2). -/
def hbmBytes : Nat := 192000000000

end Sys2Proof.Config
end

