-- ==== Sys2Proof/Machine/State.lean ====
section
/-! DEFINITION. The state of the package as plain data, and the state right after reset. Every table is
sparse: an unlisted number has its reset value (`*.reset`). Units are numbered as 10 R263 numbers
agents: core n is n, the CMC of cluster c is 192 + c, update core u of station m is 204 + 4m + u,
application core a is 228 + a. -/

namespace Sys2Proof.Machine

open Sys2Proof

/-- Why the machine stops. No step of this model stops with a fault: every trap of the manual is a next
state and a wait leaves the state to go on. Safe. -/
inductive Fault where
  /-- Never raised: kept so that the type names a reason. Safe. -/
  | stopped
  deriving DecidableEq, Repr

/-- What the model declines. -/
inductive Refusal where
  /-- The arm has no meaning yet. Raised by the dispatcher only. Safe. -/
  | notModelled (mnemonic : String)
  deriving DecidableEq, Repr

/-- A hart: a slot of a core, or slot 0 of another unit. -/
structure Agent where
  unit : Nat
  slot : Nat
  deriving DecidableEq, Repr

/-- What moves next: a device step, or the issue of one instruction by a hart. -/
inductive Turn where
  | event (i : Instr)
  | issue (a : Agent)
  deriving DecidableEq, Repr

/-! ### One hart -/

/-- A stream element fetched ahead, or the fault recorded against it (04 R117, R118). -/
structure StreamElt where
  value : Word
  fault : Option (Nat × Word)
  /-- The line of the byte it was fetched from; none against a recorded fault. -/
  line : Option Nat
  /-- Where it was fetched from, and whether a later access of its slot has read a byte of it since: its load then performs anew at
  the pop, since accesses of one slot to one byte keep program order (04 R117, 10 R252). -/
  pa : Nat
  stale : Bool
  deriving DecidableEq, Repr

/-- Stream generator SGi of a slot (01 R30, 04 R116 to R121). -/
structure StreamGen where
  /-- COUNT of hxsgcfg. -/
  count : BitVec 32
  stride : BitVec 16
  ew : BitVec 2
  dir : Bool
  bound : Bool
  /-- The address of the next element to pop or append. -/
  next : Word
  /-- The last address used, which SGSTAT reads while unbound. -/
  last : Word
  /-- Elements fetched ahead and not popped, at most 8. -/
  ahead : List StreamElt
  /-- Appended elements that L1 has not accepted, at most 8. -/
  unaccepted : Nat
  deriving DecidableEq, Repr

def StreamGen.reset : StreamGen :=
  { count := 0, stride := 0, ew := 0, dir := false, bound := false, next := 0, last := 0,
    ahead := [], unaccepted := 0 }

/-- A load reservation: its 256-byte line and the instructions issued since (03 Table 3.2). -/
structure Reservation where
  line : Nat
  age : Nat
  deriving DecidableEq, Repr

/-- Progress of an instruction that the slot keeps in its pipe over several device steps. -/
inductive Pipe where
  | idle
  /-- A BCANCEL request on its way for this handle; the reply when it is back (11 R290). -/
  | cancel (serial : Nat) (reply : Option Nat)
  /-- A range instruction's broadcast has been sent, as the n-th of the package (15 R353). Its drain rule concerns
  the spans of virtual addresses, of the job, under the entry of this VBASE (any, if none), mapped by this offset. -/
  | broadcast (n : Nat) (job : BitVec 16) (vbase : Option Nat) (off : Option Word) (spans : List (Nat × Nat))
  /-- RESUME has sent its reply; the source has acknowledged when true (18 R419). -/
  | resume (slot : Nat) (done : Bool)
  /-- CUTREQ's SIGNAL: the PREEMPTs still to be accepted (18 R433). -/
  | cut (pending : List Nat) (dir : Word)
  /-- CUTREQ's CUT: the announcement is still to come. -/
  | cutRun
  /-- CUTREQ's CUT of a job once it has been announced: the PREEMPTs still to be accepted. -/
  | cutSend (job : BitVec 16) (pending : List Nat) (dir : Word)
  /-- VSTPAIR: stage 0 reserving, 1 locking, 2 holding every lock, 3 committed (17 R410). -/
  | pair (stage : Nat) (lines : List Nat) (locked : List Nat) (bytes : List (Nat × Byte))
  /-- FENCE.E waits for these operations, by serial (10 R262). -/
  | engines (serials : List (BitVec 16))
  /-- A write that cancels an outbound order waits for the engine's answer (15 R364). -/
  | orderCancel (answered : Bool)
  /-- A region-3 access through a port window is waiting for the device's completion (09 R230);
  the value when it is back. -/
  | port (p : Nat) (value : Option Word)
  deriving DecidableEq, Repr

/-- The RISC-V registers of a CMC or an application core beside M-mode's own trap registers (03 R92, log entry 15): the
privileged ones of the S level and, on an application core, of the H extension, and the floating-point registers. -/
structure Priv where
  /-- The virtualization mode V of the H extension. -/
  virt : Bool
  /-- `mstatus` but for MPP, which is the slot's `mpp`. -/
  mstatus : Word
  medeleg : Word
  mideleg : Word
  mie : Word
  /-- The software-writable bits of `mip`, those of `hvip` among them. -/
  mip : Word
  mcounteren : BitVec 32
  menvcfg : Word
  mtval2 : Word
  mtinst : Word
  stvec : Word
  sscratch : Word
  sepc : Word
  scause : Word
  stval : Word
  scounteren : BitVec 32
  senvcfg : Word
  hstatus : Word
  hedeleg : Word
  hideleg : Word
  hcounteren : BitVec 32
  henvcfg : Word
  hgeie : Word
  htval : Word
  htinst : Word
  htimedelta : Word
  vsstatus : Word
  vstvec : Word
  vsscratch : Word
  vsepc : Word
  vscause : Word
  vstval : Word
  /-- Selectors of the indirect interrupt registers (09 R248). -/
  miselect : Word
  siselect : Word
  vsiselect : Word
  /-- f0 to f31, and `fcsr`: the rounding mode above the five flags. -/
  f : FMap Word
  fcsr : BitVec 8
  deriving DecidableEq, Repr

def Priv.reset : Priv :=
  { virt := false, mstatus := 0, medeleg := 0, mideleg := 0, mie := 0, mip := 0, mcounteren := 0, menvcfg := 0, mtval2 := 0,
    mtinst := 0, stvec := 0, sscratch := 0, sepc := 0, scause := 0, stval := 0, scounteren := 0, senvcfg := 0, hstatus := 0,
    hedeleg := 0, hideleg := 0, hcounteren := 0, henvcfg := 0, hgeie := 0, htval := 0, htinst := 0, htimedelta := 0,
    vsstatus := 0, vstvec := 0, vsscratch := 0, vsepc := 0, vscause := 0, vstval := 0, miselect := 0, siselect := 0,
    vsiselect := 0, f := [], fcsr := 0 }

/-- One hart's state: a slot of a core (01 Table 1.4), or another unit's program. -/
structure Slot where
  x : FMap Word
  v : FMap VecReg
  m : FMap Word
  q : FMap (List Word)
  pc : Word
  active : Bool
  park : BitVec 4
  await : BitVec 6
  kind : BitVec 2
  pfx : BitVec 12
  pp : Bool
  fflags : BitVec 8
  frm : BitVec 2
  vill : Bool
  ew : BitVec 2
  vl : BitVec 9
  qbind : Word
  stage : BitVec 8
  sg : FMap StreamGen
  hxtrap : Word
  hxtval : Word
  hxepc : Word
  mscratch : Word
  instret : Word
  resv : Option Reservation
  /-- The watch of 12 R323: the watched line's number, and WHIT. -/
  wline : Option Nat
  whit : Bool
  /-- A WFI's wake has come. -/
  woken : Bool
  /-- What a parked instruction still waits on (a barrier record, a line, a network); none once the wait
  may have cleared, and the instruction issues again and tests its condition. -/
  waitOn : Option Nat
  /-- The running task's continuation address, save frame, counter, placement and job words (16 R369). -/
  cont : Word
  fp : Word
  ctr : Word
  place : Word
  jobword : Word
  /-- The trap record while PARK = 9 (18 R422): its eight words. -/
  trapRec : List Word
  /-- Values that engines hold for a port of this slot, oldest first (04 R124). -/
  held : List (Nat × Word)
  /-- Registers holding poison, numbered as 20 R457 numbers them. -/
  poison : List Nat
  /-- The slot's image, and slot 0's tile part, have been saved since the stop (18 R425). -/
  saved : Bool
  tileSaved : Bool
  /-- Restored by SLOTREST, and held until the handler run's final mret (18 R426). -/
  restored : Bool
  pipe : Pipe
  /-- Steps of block instructions done, which tells their requests apart (the model's own field, log entry 2). -/
  blockStep : Nat
  /-- Privilege of a CMC or application core: 0 U, 1 S, 3 M. A core's slot has it by its number. -/
  priv : BitVec 2
  /-- The privilege that an `mret` of a CMC or application core returns to (log entry 9). -/
  mpp : BitVec 2
  /-- The RISC-V trap registers of a CMC or application core (log entry 9). -/
  mtvec : Word
  mepc : Word
  mcause : Word
  mtval : Word
  /-- The further RISC-V registers of a CMC or application core (log entry 15). -/
  pv : Priv
  deriving DecidableEq, Repr

/-- A hart after reset: idle, registers zero (01 Tables 1.6 to 1.15). -/
def Slot.reset : Slot :=
  { x := [], v := [], m := [], q := [], pc := 0, active := false, park := 0, await := 0, kind := 0,
    pfx := 0, pp := false, fflags := 0, frm := 0, vill := true, ew := 0, vl := 0,
    qbind := 0, stage := 0, sg := [], hxtrap := 0, hxtval := 0, hxepc := 0, mscratch := 0,
    instret := 0, resv := none, wline := none, whit := false, woken := false, waitOn := none, cont := 0, fp := 0,
    ctr := 0, place := 0, jobword := 0, trapRec := [], held := [], poison := [], saved := false, tileSaved := false, restored := false,
    pipe := .idle, blockStep := 0, priv := 0, mpp := 0, mtvec := 0, mepc := 0, mcause := 0, mtval := 0, pv := Priv.reset }

/-! ### The tile front end of a core -/

/-- The shape of a tile register (01 R22). -/
inductive Shape where
  | unmapped | narrow | halo | wide
  deriving DecidableEq, Repr

/-- A tile: its shape, the halo width recorded by TLDH, its image, and the row marked poisoned. -/
structure Tile where
  shape : Shape
  h : Nat
  img : TileImage
  poison : Option Nat
  deriving DecidableEq, Repr

def Tile.reset : Tile := { shape := .unmapped, h := 0, img := 0, poison := none }

/-- A captured TCW: the word, its address and the register values captured at issue (01 R36). -/
structure TcwEntry where
  tcw : BitVec 256
  addr : Word
  base : Word
  stride : Word
  aux : Word
  aux2 : Word
  cbr : Word
  cvr : Word
  /-- The issue step (17 R388). -/
  step : BitVec 48
  deriving DecidableEq, Repr

/-- Where a renamed instruction finds a source: the architectural tile captured at rename, or the
result of an older entry. -/
inductive Src where
  | none
  | arch (t : Tile)
  | rob (r : Nat)
  deriving DecidableEq, Repr

/-- The phase of a reorder-buffer entry. -/
inductive Phase where
  | renamed | issued | started | complete
  deriving DecidableEq, Repr

/-- A reorder-buffer entry (01 R38). -/
structure RobEntry where
  /-- The entry's number, 0 to 31. -/
  id : Nat
  e : TcwEntry
  i : Instr
  a : Src
  b : Src
  c : Src
  acc : Src
  dest : Option Nat
  slots : Nat
  /-- Slots of the destination's previous mapping, freed at retirement. -/
  frees : Nat
  sigma : BitVec 32
  /-- Skip decisions of a TMMAS, group g at bit g (07 R207). -/
  skip : BitVec 8
  /-- E and SK registers as they stand after this entry's rename. -/
  eAfter : FMap (BitVec 32)
  skAfter : FMap Word
  /-- The generator state at the entry's claim (02 R63). -/
  lfsr : BitVec 32
  /-- Envelopes, as closed spans of virtual addresses (01 R40), and what is done in them. -/
  env : List (Nat × Nat)
  reads : Bool
  writes : Bool
  phase : Phase
  fault : Option (Nat × Word)
  result : Option Tile
  qval : Option Word
  flags : BitVec 8
  /-- TMMAD's box, once its lines have arrived (07 R211); before that, the image of those that have, and of each row (or part of one
  in a line) that has arrived the image byte at which it begins and whether it is poisoned. -/
  box : Option (BitVec 65536)
  boxPart : BitVec 65536
  arrived : List (Nat × Bool)
  /-- A TLDM's request has reached its leader, and the convoy lines still awaited (11 R297). -/
  joined : Bool
  await : List Nat
  /-- The pieces of a memory form as translated at issue: byte of the image, PA, bytes; and the VA, PA, bytes and PERM N of
  each piece. -/
  places : List (Nat × Nat × Nat)
  spans : List (Nat × Nat × Nat × Bool)
  /-- A store that bypasses L1. -/
  bypass : Bool
  /-- It counts among the core's 48 requests: it goes beyond L1 and the windows (09 R241). -/
  request : Bool
  /-- The array on which a matrix instruction runs. -/
  array : Option Nat
  deriving DecidableEq, Repr

/-- A retired tile store that is still writing its lines (01 R43): bytes in row order, and the VA, PA, bytes and PERM N of
its pieces. -/
structure WritingStore where
  env : List (Nat × Nat)
  bytes : List (Nat × Byte)
  spans : List (Nat × Nat × Nat × Bool)
  poisoned : Bool
  bypass : Bool
  request : Bool
  step : BitVec 48
  deriving DecidableEq, Repr

/-- The tile front end of a core (01 R36 to R48). -/
structure TileFE where
  inq : List TcwEntry
  replay : List TcwEntry
  /-- A fault recorded by a drain, reported on resume (01 R48). -/
  recorded : Option (Nat × Word)
  rob : List RobEntry
  nextId : Nat
  free : Nat
  tiles : FMap Tile
  e : FMap (BitVec 32)
  sk : FMap Word
  eRet : FMap (BitVec 32)
  skRet : FMap Word
  writing : List WritingStore
  deriving DecidableEq, Repr

def TileFE.reset : TileFE :=
  { inq := [], replay := [], recorded := none, rob := [], nextId := 0, free := Config.tileSlots,
    tiles := [], e := [], sk := [], eRet := [], skRet := [], writing := [] }

/-! ### Memory-side tables of a unit -/

/-- A range-table entry (15 R347, R349); block addresses are byte addresses, offsets are 64-bit words. -/
structure RangeEntry where
  desc : Nat
  vbase : Nat
  vlimit : Nat
  offset : Word
  noff : Word
  rlo : Nat
  rhi : Nat
  nowin : Bool
  r : Bool
  w : Bool
  x : Bool
  s : Bool
  n : Bool
  state : BitVec 3
  job : BitVec 16
  cursor : Nat
  deriving DecidableEq, Repr

/-- A range lock (10 R266). -/
structure RangeLock where
  lo : Nat
  hi : Nat
  dest : Bool
  serial : BitVec 16
  /-- The entry's VBASE under which the span was translated. -/
  vbase : Nat
  deriving DecidableEq, Repr

/-- A valid L1 line (09 R231): most recently used first in its list. `copy` holds the bytes of a line
of the other die, which may be stale, and `bad` its poisoned flits; a line of the own die reads as its home does. -/
structure L1Line where
  line : Nat
  valid : BitVec 2
  dirty : BitVec 2
  copy : Option (BitVec 2048)
  bad : BitVec 4
  deriving DecidableEq, Repr

/-- An instruction-cache line of a job, with the bytes it was filled with (04 R129) and their poisoned flits. -/
structure ICLine where
  line : Nat
  job : BitVec 16
  locked : Bool
  data : BitVec 2048
  bad : BitVec 4
  deriving DecidableEq, Repr

/-- A barrier record (12 Table 12.6). -/
structure Barrier where
  narr : BitVec 16
  arr : BitVec 16
  mask : BitVec 16
  myph : Bool
  phase : Bool
  deriving DecidableEq, Repr

def Barrier.reset : Barrier := { narr := 0, arr := 0, mask := 0, myph := false, phase := false }

/-- An update window (17 Table 17.4). -/
structure UWindow where
  valid : Bool
  wr : Bool
  rd : Bool
  job : BitVec 16
  base : Nat
  limit : Nat
  deriving DecidableEq, Repr

def UWindow.reset : UWindow :=
  { valid := false, wr := false, rd := false, job := 0, base := 0, limit := 0 }

/-! ### Engines -/

/-- The four copying forms. -/
inductive OpForm where
  | copy | clipped | gather | scatter
  deriving DecidableEq, Repr

/-- Where an engine operation stands (11 R283 to R290). -/
inductive OpPhase where
  | sent | queued | started
  /-- No operation was sent: the core itself owes the completion of an empty box, which MMREV 2 makes wait (11 R291, 10 R268). -/
  | own
  deriving DecidableEq, Repr

/-- An outstanding engine operation with its captured descriptor (11 R278 to R295). -/
structure EngineOp where
  form : OpForm
  serial : BitVec 16
  slot : Nat
  step : BitVec 48
  src : Word
  dst : Word
  rows : Nat
  rowBytes : Nat
  sstride : Word
  dstride : Word
  cword : Word
  cval : Word
  event : Bool
  gq : Bool
  gtag : Nat
  isz : Bool
  bmen : Bool
  bmoff : Nat
  /-- The clipped box: rows ilo to ihi - 1, bytes clo to chi - 1; the whole box for the other forms. -/
  ilo : Nat
  ihi : Nat
  clo : Nat
  chi : Nat
  /-- The span an indexed row must lie in (11 R294). -/
  ixLo : Nat
  ixHi : Nat
  /-- Offsets in force for the source, destination and index spans (11 R280); none for a window. -/
  srcOff : Option Word
  dstOff : Option Word
  ixOff : Option Word
  phase : OpPhase
  /-- Chunks (or rows, in queue mode) already done. -/
  done : List Nat
  outside : Option Nat
  deriving DecidableEq, Repr

/-! ### Messages -/

/-- A message: its record's header and stamp words, payload words, destination rank, and network. -/
structure Msg where
  hdr : Word
  stamp : BitVec 48
  payload : List Word
  rank : Nat
  reply : Bool
  colour : Bool
  job : BitVec 16
  /-- Sending unit and slot. -/
  src : Nat
  slot : Nat
  /-- The rank-table entry that its lookup found. -/
  entry : Word
  deriving DecidableEq, Repr

/-- A message crossing the mesh, with the unit it was looked up to (12 R304). -/
structure Flight where
  msg : Msg
  dst : Nat
  deriving DecidableEq, Repr

/-- The network interface of a unit (12 R302). -/
structure Ni where
  rank : FMap Word
  myrank : BitVec 10
  reqQ : List Msg
  rplQ : List Msg
  inbox : List Msg
  heldBuf : List Msg
  inbuf : List Msg
  sqarm : Bool
  replayarm : Bool
  colour : Bool
  /-- Counts for colours 0 and 1 (18 R431). -/
  sent0 : Nat
  sent1 : Nat
  rcvd0 : Nat
  rcvd1 : Nat
  /-- The job whose messages the counts count. -/
  cjob : BitVec 16
  deriving DecidableEq, Repr

def Ni.reset : Ni :=
  { rank := [], myrank := 0, reqQ := [], rplQ := [], inbox := [], heldBuf := [], inbuf := [],
    sqarm := false, replayarm := false, colour := false, sent0 := 0, sent1 := 0, rcvd0 := 0, rcvd1 := 0, cjob := 0 }

/-- An armed late-capture buffer (18 R429). -/
structure LateCapture where
  job : BitVec 16
  buf : Word
  used : Nat
  cap : Nat
  notified : Bool
  /-- The VA of the spill descriptor whose USED is kept up. -/
  desc : Word
  /-- The vacated job's counts (18 R431), once the core has left it. -/
  sent0 : Nat
  sent1 : Nat
  rcvd0 : Nat
  rcvd1 : Nat
  deriving DecidableEq, Repr

/-- A pending local event of a core (01 R52): the slot, cause, detail and PC of a local trap. -/
structure LocalTrap where
  slot : Nat
  cause : Nat
  detail : Word
  pc : Word
  deriving DecidableEq, Repr

/-! ### A unit -/

/-- A write-through access awaiting its reply: its slot (8 for the tile stream), virtual and physical address of its
first byte, bytes, issue step, and the number of the slot's instruction that made it, which tells requests apart. -/
structure WtAccess where
  slot : Nat
  va : Nat
  pa : Nat
  n : Nat
  step : BitVec 48
  tag : Nat
  deriving DecidableEq, Repr


/-- What a core, CMC, update core or application core holds beside its harts. -/
structure UnitSt where
  step : BitVec 48
  gstep : BitVec 48
  duty : BitVec 5
  /-- The value that the budget tree wrote last, before the caps of 21 R464. -/
  dutySet : BitVec 5
  dutyNext : Option (BitVec 5)
  dt : FMap (BitVec 32)
  /-- hxjob (01 Table 1.14): DESC, MMREV, JOB. -/
  desc : BitVec 44
  mmrev : BitVec 2
  job : BitVec 16
  lfsr : BitVec 32
  lastIssued : Nat
  ranges : List RangeEntry
  /-- Range broadcasts of the package that have reached this unit's table (15 R353). -/
  bseen : Nat
  locks : List RangeLock
  serial : BitVec 16
  ops : List EngineOp
  abandoned : List (BitVec 16)
  fe : TileFE
  l1 : List L1Line
  icache : List ICLine
  /-- Lines of code that a restored context locks once they are fetched (04 R132). -/
  relock : List Nat
  barriers : FMap Barrier
  ni : Ni
  pendLocal : List LocalTrap
  preempt : Option Word
  inboxOvf : Bool
  wake : Bool
  /-- Slots 0 to 6 are stopped by a PREEMPT run (18 R420). -/
  stopped : Bool
  /-- The drain of the PREEMPT run has ended: the tile front end takes no word until the run ends (01 R48). -/
  drained : Bool
  /-- The resident handler's run was entered for a trap (20 R445). -/
  forTrap : Bool
  trapSeq : BitVec 16
  /-- Records raised and not yet in the mailbox, oldest first (18 R414): eight words each. -/
  records : List (List Word)
  /-- Write-through accesses awaiting the home's reply, oldest first (09 R234). -/
  wt : List WtAccess
  /-- Those that wait for one of the 48 requests, in the order in which they wait (09 R241): slot and `instret`, or 24 and a
  reorder-buffer entry. -/
  reqWait : List (Nat × Nat)
  windows : FMap UWindow
  late : Option LateCapture
  /-- Powered; false on a parked die (21 R470). -/
  up : Bool
  /-- The CMC was stopped by a double fault (20 R452). -/
  halted : Bool
  /-- The core block of the unit's job has been restored on it (18 R426). -/
  blockIn : Bool
  /-- Jobs whose context this unit has held since they were created (16 R367). -/
  known : List (BitVec 16)
  /-- Jobs whose descriptor the unit has refused, and reported (16 R367). -/
  refused : List (BitVec 16)
  deriving DecidableEq, Repr

/-- A unit after reset (01 R33, R34; the generator, the last issuer: log entry 3). -/
def UnitSt.reset : UnitSt :=
  { step := 0, gstep := 0, duty := 16, dutySet := 16, dutyNext := none, dt := [], desc := 0, mmrev := 3, job := 0,
    lfsr := 1, lastIssued := 7, ranges := [], bseen := 0, locks := [], serial := 0, ops := [],
    abandoned := [], fe := TileFE.reset, l1 := [], icache := [], relock := [], barriers := [], ni := Ni.reset,
    pendLocal := [], preempt := none, inboxOvf := false, wake := false, stopped := false, drained := false,
    forTrap := false, trapSeq := 0, records := [], wt := [], reqWait := [], windows := [], late := none, up := true, halted := false,
    blockIn := false, known := [], refused := [] }

/-! ### A quad -/

/-- A vector instruction handed to the vector unit, with what was captured (01 R49). -/
structure VOp where
  agent : Agent
  i : Instr
  /-- x-register operands: rs1 and rs2. -/
  xa : Word
  xb : Word
  vl : Nat
  vill : Bool
  ew : BitVec 2
  frm : BitVec 2
  pp : Bool
  pfx : BitVec 12
  lfsr : BitVec 32
  /-- The issue step, and hxdt0 to hxdt15 at issue (17 R395). -/
  step : BitVec 48
  dt : FMap (BitVec 32)
  /-- The slot's stream generators, x-registers and poisoned registers before the hand-off popped its stream operands, which a trap puts
  back (01 R21). -/
  sg : FMap StreamGen
  x : FMap Word
  poison : List Nat
  deriving DecidableEq, Repr

/-- A matrix array and its lease (07 R215). -/
structure MArray where
  holder : Option Nat
  left : Nat
  cyc : Nat
  extended : Bool
  prev : Nat
  /-- The core and reorder-buffer entry whose issue cycles the array spends, and how many are left. -/
  running : Option (Nat × Nat)
  issue : Nat
  /-- The core and the incomplete entries that started under the lease or its renewal, on which others may chain (07 R205). -/
  started : List (Nat × Nat)
  /-- The array became free after array 1 of its quad, which a core was waiting for: it does not grant first (07 R215.2). -/
  behind : Bool
  filler : Bool
  deriving DecidableEq, Repr

def MArray.reset : MArray :=
  { holder := none, left := 0, cyc := 0, extended := false, prev := 3, running := none, issue := 0, started := [], behind := false, filler := false }

/-- A quad: vector unit, arrays, operating point (21 R459 to R465). -/
structure Quad where
  vwait : List VOp
  vunit : List VOp
  arrays : FMap MArray
  /-- The core after which a walking task is offered first (16 R372). -/
  lastTaker : Nat
  /-- The points its four cores request, and the HBM index of the latest valid request. -/
  req : FMap (BitVec 3)
  hbmReq : Option (BitVec 3)
  thermalCap : BitVec 3
  currentCap : BitVec 3
  point : BitVec 3
  changingTo : Option (BitVec 3)
  sag : Bool
  trip : Bool
  dutyCap : BitVec 5
  up : Bool
  deriving DecidableEq, Repr

/-- A quad after reset: at P2 (21 R473), caps open. -/
def Quad.reset : Quad :=
  { vwait := [], vunit := [], arrays := [], lastTaker := 3, req := [], hbmReq := none,
    thermalCap := 7, currentCap := 7, point := 2, changingTo := none, sag := false, trip := false,
    dutyCap := 16, up := true }

/-! ### A cluster -/

/-- A bazaar entry (16 R371). `order` ranks entry times. -/
structure BEntry where
  cont : Word
  job : BitVec 16
  kind : BitVec 2
  hmode : Nat
  /-- The named core, as a core number, under HMODE 2. -/
  core : Nat
  prio : Nat
  boost : Nat
  order : Nat
  /-- 0 on chip, 1 on the return list, 2 + i in entry i of the job's spill list. -/
  place : Nat
  deriving DecidableEq, Repr

/-- A mailbox slot's state (18 Table 18.3). -/
inductive MboxState where
  | empty | full | read | replied | withdrawn
  deriving DecidableEq, Repr

/-- A mailbox slot: state, record, order of arrival, source unit, captured reply block. -/
structure MboxSlot where
  state : MboxState
  record : List Word
  order : Nat
  src : Nat
  reply : List Word
  deriving DecidableEq, Repr

def MboxSlot.reset : MboxSlot := { state := .empty, record := [], order := 0, src := 0, reply := [] }

/-- An arrival held in a cluster's barrier network for a core whose record belongs to a job that is switched out:
job, core, record, arriver's bit and phase (12 R330). -/
structure BarrHeld where
  job : BitVec 16
  core : Nat
  b : Nat
  bit : BitVec 16
  phase : Bool
  deriving DecidableEq, Repr

/-- A cluster: slew limiter, bazaar queues, mailbox, watchdog registers. -/
structure Cluster where
  badw : Bool
  drop : BitVec 4
  rung3 : BitVec 4
  rung2 : BitVec 4
  rung1 : BitVec 4
  rung0 : BitVec 4
  /-- A SLEWCTL write that takes effect at the next step. -/
  slewNext : Option (BitVec 20)
  /-- Arrays active in the last cycle of the step before (07 R217), starts held since an earlier step, oldest first, those
  held in this step, lowest array first, and the starts granted at the last step boundary (R219). -/
  active : List Nat
  heldStarts : List Nat
  heldNew : List Nat
  granted : List Nat
  queue : List BEntry
  /-- Reservations not yet used: priority, job, and place as in `BEntry`. -/
  reserved : List (Nat × BitVec 16 × Nat)
  mailbox : FMap MboxSlot
  wdctl : Word
  beat : Word
  /-- Heartbeat timer restarted since the last check. -/
  beatSeen : Bool
  ages : FMap (BitVec 32)
  barrHeld : List BarrHeld
  deriving DecidableEq, Repr

/-- A cluster after reset (07 Table 7.6, 20 Table 20.5). -/
def Cluster.reset : Cluster :=
  { badw := false, drop := 2, rung3 := 8, rung2 := 6, rung1 := 4, rung0 := 2, slewNext := none,
    active := [], heldStarts := [], heldNew := [], granted := [], queue := [], reserved := [], mailbox := [],
    wdctl := 0x0000006427100A00#64, beat := 0, beatSeen := false, ages := [], barrHeld := [] }

/-! ### A memory station and a die -/

/-- The three orders of 15 R360. -/
inductive OrderForm where
  | move | offload | back
  deriving DecidableEq, Repr

/-- Where an order stands (15 R361). -/
inductive OrderPhase where
  | drain | copy | switched | stopped
  deriving DecidableEq, Repr

/-- An order held by a compaction engine; `entry` is the range as it was accepted, `pos` the next line. -/
structure Order where
  form : OrderForm
  entry : RangeEntry
  noff : Word
  cword : Nat
  cval : Word
  phase : OrderPhase
  pos : Nat
  /-- The broadcasts that its drain waits for. -/
  seen : Nat
  deriving DecidableEq, Repr

/-- A pair-buffer reservation of an update core at a slice (17 R411). -/
structure PairRes where
  unit : Nat
  slice : Nat
  n : Nat
  granted : Bool
  deriving DecidableEq, Repr

/-- A memory station: waybill queue in arrival order, orders, KIND 2 queue, pair buffers. -/
structure Station where
  waybills : List (Nat × BitVec 16)
  orders : List Order
  queue : List BEntry
  reserved : List (Nat × BitVec 16 × Nat)
  pairs : List PairRes
  deriving DecidableEq, Repr

def Station.reset : Station := { waybills := [], orders := [], queue := [], reserved := [], pairs := [] }

/-- A line of the remote-data cache: its bytes, its poisoned flits, and the quads it has supplied (09 R238). -/
structure RdcLine where
  line : Nat
  data : BitVec 2048
  bad : BitVec 4
  quads : BitVec 24
  deriving DecidableEq, Repr

/-- A die: its RDC (most recently used first), invalidations sent to it and not yet applied, oldest
first (09 R239), and its HBM clock index. -/
structure Die where
  rdc : List RdcLine
  inval : List Nat
  hbmIdx : BitVec 3
  /-- The index that the latest PHASE or FRESH pick-up asked the die to change to (21 R461). -/
  hbmNext : BitVec 3
  deriving DecidableEq, Repr

def Die.reset : Die := { rdc := [], inval := [], hbmIdx := 7, hbmNext := 7 }

/-- A home L2 line's directory entry and pins (09 R236, R237): most recently used first. `bad` marks the flits that
are poisoned in this copy only, since its fill found the port of a capacity window down (R229). -/
structure L2Line where
  line : Nat
  presence : BitVec 24
  owner : Option Nat
  remote : Bool
  dirty : Bool
  bad : BitVec 4
  pins : List Nat
  deriving DecidableEq, Repr

/-! ### Package-wide work -/

/-- A convoy at its leader (11 R296 to R299). -/
structure Convoy where
  cluster : Nat
  pa : Nat
  stride : Word
  rows : Nat
  cols : Nat
  mask : BitVec 16
  tag : BitVec 32
  open_ : Bool
  /-- It has ended; lines that left before are still on their way. -/
  ended : Bool
  /-- The lines in ascending address, and how many have been sent. -/
  lines : List Nat
  sent : Nat
  /-- Members, as 32·core + the entry's number. -/
  members : List Nat
  /-- Late members with the lines they still miss, in order of request. -/
  late : List (Nat × List Nat)
  /-- Lines on their way: member, line, bytes, and which of the line's four flits are poisoned. -/
  inFlight : List (Nat × Nat × BitVec 2048 × BitVec 4)
  deriving DecidableEq, Repr

/-- A walking task (16 R372): where it is, its hint, and the continuation's fields. -/
structure Walk where
  e : BEntry
  x : Nat
  y : Nat
  hx : Nat
  hy : Nat
  radius : Nat
  deriving DecidableEq, Repr

/-- What a range broadcast carries (15 R353 to R361). -/
inductive Bcast where
  /-- Drop every entry of the job that overlaps the span. -/
  | drop (job : BitVec 16) (lo hi : Nat)
  | dropBase (job : BitVec 16) (vbase : Nat)
  /-- `desc` is the upper part's descriptor. -/
  | split (lower : RangeEntry) (xb desc : Nat)
  | merge (upperBase : Nat) (merged : RangeEntry)
  | update (e : RangeEntry)
  | cursor (job : BitVec 16) (vbase cursor : Nat)
  deriving DecidableEq, Repr

/-- An inbound request that a port has received and not yet performed (09 R247): a read, a write with its bytes, or the
write of a message-signalled interrupt. -/
inductive Inbound where
  | read (va : Word) (n rid : Nat)
  | write (va : Word) (n rid v : Nat)
  | msi (va : Word) (id : Nat)
  deriving DecidableEq, Repr

/-- An incoming-MSI interrupt file of an application core (09 R248): identities pending and enabled, and the delivery
and threshold registers. -/
structure IFile where
  pend : List Nat
  en : List Nat
  delivery : Bool
  thresh : Nat
  deriving DecidableEq, Repr

def IFile.reset : IFile := { pend := [], en := [], delivery := false, thresh := 0 }

/-- The interrupt controller of a die (09 R248), in the layout of the Advanced Interrupt Architecture (log entry 31). -/
structure Aplic where
  ie : Bool
  source : FMap (BitVec 3)
  pend : BitVec 16
  en : BitVec 16
  target : FMap (BitVec 32)
  maddr : Word
  saddr : Word
  deriving DecidableEq, Repr

def Aplic.reset : Aplic := { ie := false, source := [], pend := 0, en := 0, target := [], maddr := 0, saddr := 0 }

/-- A PCIe or CXL port (09 Table 9.6). -/
structure Port where
  linkup : Bool
  train : Bool
  err : Bool
  dmajob : BitVec 16
  ncmc : BitVec 4
  speed : BitVec 4
  width : BitVec 5
  mode : BitVec 2
  ranges : List RangeEntry
  /-- Inbound requests not yet performed, oldest first (R247). -/
  inq : List Inbound
  /-- The serial number of its next notice record. -/
  seq : BitVec 16
  deriving DecidableEq, Repr

def Port.reset : Port :=
  { linkup := false, train := false, err := false, dmajob := 0, ncmc := 0, speed := 0, width := 0,
    mode := 0, ranges := [], inq := [], seq := 0 }

/-- The cut in progress or last closed (18 R431 to R434). -/
structure Cut where
  job : BitVec 16
  old : Bool
  dir : Word
  announced : Bool
  notStopped : List Nat
  d : Int
  closed : Bool
  deriving DecidableEq, Repr

/-- A write of a dump that waits: by a unit, n bytes at an offset; `quiet`: one that appends no cause where it is refused. -/
structure DumpWrite where
  unit : Nat
  off : Nat
  n : Nat
  v : Nat
  quiet : Bool
  deriving DecidableEq, Repr

/-- A job's fatal removal (20 R443 to R453). -/
structure Removal where
  ncause : Nat
  writer : Bool
  incomplete : Bool
  /-- The cores and update cores that held the job when its removal started. -/
  held : List Nat
  /-- Units whose records are still to be written, and those written. -/
  todo : List Nat
  cores : BitVec 192
  ucores : BitVec 24
  dropped : Nat
  sealed : Bool
  /-- Started through JOBREMOVE. -/
  reg : Bool
  /-- Writes of the header and of causes that wait, and those behind them, oldest first. -/
  pend : List DumpWrite
  deriving DecidableEq, Repr

/-- A wrap sweep of a domain (17 R404, 21 R472). -/
structure Sweep where
  run : Bool
  point : BitVec 48
  outwin : BitVec 24
  /-- The next address that each memory station visits. -/
  pos : FMap Nat
  /-- Words that a range order has copied to places that a station has passed, not yet visited; and words that were visited and lie
  at places that their station has still to reach. -/
  extra : List Nat
  skip : List Nat
  /-- The latest crossing point passed: the sweeps of those between follow one another. -/
  last : BitVec 48
  deriving DecidableEq, Repr

def Sweep.reset : Sweep := { run := false, point := 0, outwin := 0, pos := [], extra := [], skip := [], last := 0 }

/-- Registers of the package control block (21 R458) and package-wide controllers. -/
structure Pkg where
  jobtab : Word
  sysroot : Word
  capwin : FMap Word
  g : FMap (BitVec 48)
  gbadw : FMap Bool
  gwrite : FMap (BitVec 48)
  ports : FMap Port
  optab : FMap Word
  jrBusy : Bool
  jrCause : BitVec 8
  jrJob : BitVec 16
  cecnt : Word
  parkBusy : Bool
  parkRefused : Bool
  parkState : BitVec 2
  parkReq : BitVec 2
  /-- The request written waits for the seal of a removal (20 R453). -/
  parkWait : Bool
  trip : Bool
  icomp : Bool
  sagged : Bool
  fwhold : Bool
  pkgw : BitVec 8
  /-- The package has headroom for a boost (21 R462): what the last budget period found. -/
  headroom : Bool
  quadsRetired : BitVec 48
  slicesRetired : BitVec 48
  channels : FMap (BitVec 32)
  /-- The retire lists of the boot configuration, by which units are retired at the next reset (21 R467). -/
  bootQuads : BitVec 48
  bootSlices : BitVec 48
  bootChannels : FMap (BitVec 32)
  decay : FMap (BitVec 32)
  sweep : FMap Sweep
  meas : FMap (BitVec 384)
  nonce : BitVec 384
  /-- The nonce of the report under way (21 R474). -/
  attNonce : BitVec 384
  attgo : Word
  report : FMap Byte
  /-- Interrupt file f of application core a at 8a + f, and the controller of each die (09 R248). -/
  ifiles : FMap IFile
  aplics : FMap Aplic
  deriving DecidableEq, Repr

/-- The package registers after reset (21 R473); those of which the spec gives none, the decay tables, the nonce, ATTGO and the report
among them, as log entry 3 says. -/
def Pkg.reset : Pkg :=
  { jobtab := 0, sysroot := 0, capwin := [], g := [], gbadw := [], gwrite := [], ports := [],
    optab := [], jrBusy := false, jrCause := 0, jrJob := 0, cecnt := 0, parkBusy := false,
    parkRefused := false, parkState := 0, parkReq := 0, parkWait := false, trip := false, icomp := false,
    sagged := false, fwhold := false, pkgw := 0, headroom := false, quadsRetired := 0, slicesRetired := 0,
    channels := [], bootQuads := 0, bootSlices := 0, bootChannels := [], decay := [], sweep := [], meas := [], nonce := 0, attNonce := 0,
    attgo := 0, report := [],
    ifiles := [], aplics := [] }

/-- A stopped removal's notice or trap record waiting for a shared mailbox slot: cluster, source unit
number (256 and up for notices), and the record's words. -/
structure PendRecord where
  cluster : Nat
  src : Nat
  record : List Word
  deriving DecidableEq, Repr

/-- A value that an engine holds for a port of a slot whose context has been saved (04 R125, 11 R300): the job, the unit, the
task's continuation (0 for a handler), the port and the value. -/
structure HeldValue where
  job : BitVec 16
  unit : Nat
  cont : Word
  port : Nat
  value : Word
  deriving DecidableEq, Repr

/-- The whole package. -/
structure State where
  /-- The hart whose instruction `exec` runs. -/
  cur : Agent
  /-- What moves next; when it is empty the machine chooses (Step.lean, log entry 1). -/
  agenda : List Turn
  /-- How many open values have been taken (the model's own field, log entry 2). -/
  free : Nat
  /-- Bytes by physical address, and of the stores beyond 2^52 (Ops.lean); canonical. -/
  mem : List Host.Cell
  /-- Poisoned 64-byte flits, by number (09 R245). -/
  poison : List Nat
  l2 : List L2Line
  /-- Hart k of unit u at 8u + k. -/
  harts : FMap Slot
  units : FMap UnitSt
  quads : FMap Quad
  clusters : FMap Cluster
  stations : FMap Station
  dies : FMap Die
  mesh : List Flight
  pendRecords : List PendRecord
  /-- Values held for saved contexts, oldest first. -/
  heldAway : List HeldValue
  walks : List Walk
  convoys : List Convoy
  bcasts : List Bcast
  /-- AMOSCs announced, in the order S (10 R263): the agents, newest first. -/
  scOrder : List Agent
  cut : Option Cut
  colours : FMap Bool
  /-- SENT minus RCVD by job and colour of interfaces that have left the job (18 R431, log entry 17). -/
  residual : FMap (Int × Int)
  /-- The continuations, by job and address, that TWAIT has suspended and no counter has released, by which the device tells them in a
  wait list from those that software has linked (16 R379, 19 R437, log entry 17). -/
  twaits : List (BitVec 16 × Nat)
  removals : FMap Removal
  /-- A counter that ranks arrivals and entry times. -/
  clock : Nat
  pkg : Pkg
  deriving DecidableEq, Repr

/-- The machine right after reset (21 R473): every table empty, every unit idle, memory with nothing listed.
The CMCs and the application cores are in M-mode, as RISC-V resets them (log entry 9). -/
def State.reset : State :=
  { cur := { unit := 0, slot := 7 }, agenda := [], free := 0, mem := [], poison := [], l2 := [],
    harts := (List.range 12).map (fun c => (8 * (192 + c), { Slot.reset with priv := 3 }))
      ++ (List.range 16).map (fun a => (8 * (228 + a), { Slot.reset with priv := 3 })),
    units := [], quads := [], clusters := [], stations := [], dies := [], mesh := [],
    pendRecords := [], heldAway := [], walks := [], convoys := [], bcasts := [], scOrder := [], cut := none,
    colours := [], residual := [], twaits := [], removals := [], clock := 0, pkg := Pkg.reset }

end Sys2Proof.Machine
end

