-- ==== Sys2Proof/Machine/FMap.lean ====
section
/-! DEFINITION. The sparse tables of State: look a number up, write a number. Keys ascend. -/

namespace Sys2Proof.Machine

open Sys2Proof

/-- The entry of number k, or the table's default. -/
def fget {β : Type} (m : FMap β) (k : Nat) (d : β) : β :=
  match m with
  | [] => d
  | (j, v) :: t => if j = k then v else fget t k d

/-- The table with number k set to v. -/
def fset {β : Type} (m : FMap β) (k : Nat) (v : β) : FMap β :=
  match m with
  | [] => [(k, v)]
  | (j, w) :: t => if k = j then (k, v) :: t else if k < j then (k, v) :: (j, w) :: t else (j, w) :: fset t k v

/-- Replace element i of a list, if it has one. -/
def setAt {β : Type} : List β → Nat → β → List β
  | [], _, _ => []
  | _ :: t, 0, v => v :: t
  | h :: t, i + 1, v => h :: setAt t i v

/-- Remove element i of a list, if it has one. -/
def dropAt {β : Type} : List β → Nat → List β
  | [], _ => []
  | _ :: t, 0 => t
  | h :: t, i + 1 => h :: dropAt t i

/-- The position of the first element that satisfies p. -/
def findPos {β : Type} (p : β → Bool) : List β → Option Nat
  | [] => none
  | h :: t => if p h then some 0 else (findPos p t).map (· + 1)

/-- 0, 1, ..., n - 1. -/
def upTo (n : Nat) : List Nat := List.range n

end Sys2Proof.Machine
end

