-- ==== Sys2Proof/Machine/Bits.lean ====
section
/-! DEFINITION. Bit fields, sign extension, byte strings and rounding helpers. -/

namespace Sys2Proof.Machine

open Sys2Proof

/-- Bits hi to lo of a number. -/
def fld (v hi lo : Nat) : Nat := v / 2 ^ lo % 2 ^ (hi + 1 - lo)

/-- Bits hi to lo of a word. -/
def wfld (v : Word) (hi lo : Nat) : Nat := fld v.toNat hi lo

/-- Bit b of a word. -/
def wbit (v : Word) (b : Nat) : Bool := v.getLsbD b

/-- A number as a field at bit lo. -/
def put (v lo : Nat) : Nat := v * 2 ^ lo

/-- A word from a number, modulo 2^64. -/
def w64 (n : Nat) : Word := BitVec.ofNat 64 n

/-- A 12-bit immediate, sign-extended. -/
def simm (i : BitVec 12) : Word := i.signExtend 64

/-- The low n bits of a word read as a signed number. -/
def sInt (n : Nat) (v : Nat) : Int :=
  let m := v % 2 ^ n
  if m < 2 ^ (n - 1) then m else (m : Int) - 2 ^ n

/-- An integer as a word, modulo 2^64. -/
def ofI (i : Int) : Word := BitVec.ofInt 64 i

/-- The 64 ones. -/
def ones64 : Word := BitVec.allOnes 64

/-- 1 for true. -/
def b2n (b : Bool) : Nat := if b then 1 else 0

/-- A Bool as bit lo of a word. -/
def bitAt (b : Bool) (lo : Nat) : Nat := if b then 2 ^ lo else 0

/-- Byte i of a number. -/
def byteOf (v i : Nat) : Byte := BitVec.ofNat 8 (v / 256 ^ i)

/-- Consecutive cells from an address for the bytes of a list. -/
def cellsAt (a : Nat) (bs : List Byte) : List (Nat × Byte) :=
  match bs with
  | [] => []
  | b :: t => (a, b) :: cellsAt (a + 1) t

/-- The quotient rounded up. -/
def ceilDiv (a b : Nat) : Nat := (a + b - 1) / b

/-- The 64-bit words of a little-endian byte list. -/
def wordsOf (n : Nat) (v : Nat) : List Word :=
  match n with
  | 0 => []
  | n + 1 => w64 v :: wordsOf n (v / 2 ^ 64)

/-- A number from 64-bit words, lowest first. -/
def ofWords : List Word → Nat
  | [] => 0
  | w :: t => w.toNat + 2 ^ 64 * ofWords t

/-- How many bits of the low n are set. -/
def popcount (n v : Nat) : Nat :=
  match n with
  | 0 => 0
  | n + 1 => v % 2 + popcount n (v / 2)

end Sys2Proof.Machine
end

