-- ==== Sys2Proof/Machine/Numbers.lean ====
section
/-! DEFINITION. Number formats, rounding, block scales, LC2, the quantiser, decay and the pairwise tree (02).
Values are exact: a number is a sign and m times a power of two; a quotient is a fraction. -/

namespace Sys2Proof.Machine

open Sys2Proof

/-! ### Values and flags -/

/-- An exact value: NaN (`sig`: its fraction's top bit is 0), an infinity, or ±m·2^e. -/
inductive Val where
  | nan (sig : Bool)
  | inf (neg : Bool)
  | fin (neg : Bool) (m : Nat) (e : Int)
  deriving DecidableEq, Repr

/-- The bits of hxfflags (01 Table 1.8). -/
abbrev Flags := BitVec 8
def fNX : Flags := 1
def fUF : Flags := 2
def fOF : Flags := 4
def fDZ : Flags := 8
def fNV : Flags := 16
def fQSAT : Flags := 32
def fFUTURE : Flags := 64
def fISAT : Flags := 128

/-- A flag set on a condition. -/
def flagIf (b : Bool) (f : Flags) : Flags := if b then f else 0

def Val.zero : Val := .fin false 0 0
def Val.one : Val := .fin false 1 0

def Val.isNan : Val → Bool
  | .nan _ => true
  | _ => false
def Val.isSig : Val → Bool
  | .nan s => s
  | _ => false
def Val.isInf : Val → Bool
  | .inf _ => true
  | _ => false
def Val.isZero : Val → Bool
  | .fin _ m _ => m == 0
  | _ => false
def Val.sign : Val → Bool
  | .nan _ => false
  | .inf n => n
  | .fin n _ _ => n
def Val.negate : Val → Val
  | .nan s => .nan s
  | .inf n => .inf (!n)
  | .fin n m e => .fin (!n) m e
def Val.absolute : Val → Val
  | .nan s => .nan s
  | .inf _ => .inf false
  | .fin _ m e => .fin false m e

/-- 2^e as numerator and denominator. -/
def pow2Frac (e : Int) : Nat × Nat := if 0 ≤ e then (2 ^ e.toNat, 1) else (1, 2 ^ (-e).toNat)

/-- The signed integer m·2^(e - lo), for lo ≤ e. -/
def Val.scaled (n : Bool) (m : Nat) (e lo : Int) : Int :=
  let v : Int := m * 2 ^ (e - lo).toNat
  if n then -v else v

/-- The exact sum; the flag says that the operation is invalid (infinities of both signs). A zero sum is −0
only of two −0 (R80). -/
def Val.add (a b : Val) : Val × Bool :=
  match a, b with
  | .nan s, .nan t => (.nan false, s || t)
  | .nan s, _ => (.nan false, s)
  | _, .nan t => (.nan false, t)
  | .inf x, .inf y => if x = y then (.inf x, false) else (.nan false, true)
  | .inf x, _ => (.inf x, false)
  | _, .inf y => (.inf y, false)
  | .fin x m e, .fin y n f =>
    let lo := min e f
    let v := Val.scaled x m e lo + Val.scaled y n f lo
    if v = 0 then (.fin (m == 0 && n == 0 && x && y) 0 0, false)
    else (.fin (v < 0) v.natAbs lo, false)

/-- The exact product; the flag says zero times infinity. -/
def Val.mul (a b : Val) : Val × Bool :=
  match a, b with
  | .nan s, .nan t => (.nan false, s || t)
  | .nan s, _ => (.nan false, s)
  | _, .nan t => (.nan false, t)
  | .inf x, .inf y => (.inf (x != y), false)
  | .inf x, .fin y m _ => if m = 0 then (.nan false, true) else (.inf (x != y), false)
  | .fin y m _, .inf x => if m = 0 then (.nan false, true) else (.inf (x != y), false)
  | .fin x m e, .fin y n f => (.fin (x != y) (m * n) (e + f), false)

/-- Less than, on numbers; −0 and +0 are equal here. -/
def Val.lt (a b : Val) : Bool :=
  match a, b with
  | .nan _, _ => false
  | _, .nan _ => false
  | .inf x, .inf y => x && !y
  | .inf x, _ => x
  | _, .inf y => !y
  | .fin x m e, .fin y n f =>
    let lo := min e f
    Val.scaled x m e lo < Val.scaled y n f lo

/-- Equality of numbers. -/
def Val.eq (a b : Val) : Bool :=
  !a.isNan && !b.isNan && !a.lt b && !b.lt a

/-- minimumNumber and maximumNumber (R59): a NaN loses to a number, −0 is less than +0. -/
def Val.minNum (a b : Val) : Val :=
  if a.isNan then b else if b.isNan then a
  else if a.lt b then a else if b.lt a then b else if a.sign then a else b
def Val.maxNum (a b : Val) : Val :=
  if a.isNan then b else if b.isNan then a
  else if a.lt b then b else if b.lt a then a else if a.sign then b else a

/-! ### Floating-point formats (Table 2.2) -/

/-- A row of Table 2.2. `infs`: has infinities and NaNs by the top exponent; `e4m3`: NaN only 0x7F, 0xFF. -/
structure FFmt where
  e : Nat
  m : Nat
  bias : Nat
  infs : Bool
  e4m3 : Bool
  deriving DecidableEq, Repr

def ffp48 : FFmt := { e := 8, m := 39, bias := 127, infs := true, e4m3 := false }
def ffp32 : FFmt := { e := 8, m := 23, bias := 127, infs := true, e4m3 := false }
def fbf16 : FFmt := { e := 8, m := 7, bias := 127, infs := true, e4m3 := false }
def ffp16 : FFmt := { e := 5, m := 10, bias := 15, infs := true, e4m3 := false }
def fe4m3 : FFmt := { e := 4, m := 3, bias := 7, infs := false, e4m3 := true }
def fe5m2 : FFmt := { e := 5, m := 2, bias := 15, infs := true, e4m3 := false }
def fe3m2 : FFmt := { e := 3, m := 2, bias := 3, infs := false, e4m3 := false }
def fe2m3 : FFmt := { e := 2, m := 3, bias := 1, infs := false, e4m3 := false }
def fe2m1 : FFmt := { e := 2, m := 1, bias := 1, infs := false, e4m3 := false }

/-- Decode (R58): an element's bits to its exact value. -/
def FFmt.decode (f : FFmt) (v : Nat) : Val :=
  let s := v / 2 ^ (f.e + f.m) % 2 = 1
  let e := v / 2 ^ f.m % 2 ^ f.e
  let m := v % 2 ^ f.m
  if f.infs && e == 2 ^ f.e - 1 then
    if m = 0 then .inf s else .nan (m / 2 ^ (f.m - 1) == 0)
  else if f.e4m3 && e == 15 && m == 7 then .nan false
  else if e = 0 then .fin s m (1 - (f.bias : Int) - f.m)
  else .fin s (2 ^ f.m + m) ((e : Int) - f.bias - f.m)

/-- The canonical NaN of a format that has one (R59). -/
def FFmt.canonNan (f : FFmt) : Nat :=
  if f.e4m3 then 0x7f else (2 ^ f.e - 1) * 2 ^ f.m + 2 ^ (f.m - 1)

/-- The bits of the largest finite magnitude. -/
def FFmt.maxCode (f : FFmt) : Nat :=
  if f.infs then (2 ^ f.e - 1) * 2 ^ f.m - 1
  else if f.e4m3 then 0x7e
  else 2 ^ (f.e + f.m) - 1

/-- Sign bit and magnitude bits. -/
def FFmt.pack (f : FFmt) (s : Bool) (mag : Nat) : Nat := mag + (if s then 2 ^ (f.e + f.m) else 0)

/-- Floor of the base-2 logarithm of num/den, for num > 0. -/
def floorLog2 (num den : Nat) : Int :=
  let l : Int := (Nat.log2 num : Int) - Nat.log2 den
  let p := pow2Frac l
  if num * p.2 < den * p.1 then l - 1 else l

/-- RoundToMultiple (R60): num/den over the spacing 2^k, in the mode rm with the generator state r; the
multiple, and whether it is inexact. -/
def roundMultiple (num den : Nat) (k : Int) (rm : Nat) (r : Nat) : Nat × Bool :=
  let p := pow2Frac k
  let n := num * p.2
  let d := den * p.1
  let q := n / d
  let rem := n % d
  let up :=
    match rm with
    | 0 => decide (2 * rem > d) || (decide (2 * rem = d) && q % 2 == 1)
    | 1 => false
    | 2 => decide (rem * 2 ^ 32 / d + r ≥ 2 ^ 32)
    | _ => decide (2 * rem ≥ d)
  (q + b2n up, rem != 0)

/-- The magnitude bits of y·2^k when y·2^k is representable with spacing 2^k. -/
def FFmt.magOf (f : FFmt) (y : Nat) (k : Int) : Nat :=
  if y = 0 then 0
  else
    let k0 : Int := 1 - (f.bias : Int) - f.m
    if y < 2 ^ f.m then y
    else if y = 2 ^ (f.m + 1) then ((k - k0).toNat + 2) * 2 ^ f.m
    else (k - k0).toNat * 2 ^ f.m + y

/-- Encode (R60) of ±num/den: the element's bits and the flags. -/
def FFmt.encodeFrac (f : FFmt) (s : Bool) (num den : Nat) (rm : Nat) (sat : Bool) (r : Nat) : Nat × Flags :=
  if num = 0 then (f.pack s 0, 0)
  else
    let emin : Int := 1 - (f.bias : Int)
    let l := floorLog2 num den
    let k := max l emin - f.m
    let (y, inexact) := roundMultiple num den k rm r
    let mag := f.magOf y k
    if mag > f.maxCode then
      let fl := fOF ||| fNX
      if rm = 1 || sat || !(f.infs || f.e4m3) then (f.pack s f.maxCode, fl)
      else if f.infs then (f.pack s ((2 ^ f.e - 1) * 2 ^ f.m), fl)
      else (0x7f, fl)
    else (f.pack s mag, flagIf inexact fNX ||| flagIf (inexact && decide (l < emin)) fUF)

/-- Encode (R60) of an exact value. -/
def FFmt.encode (f : FFmt) (x : Val) (rm : Nat) (sat : Bool) (r : Nat) : Nat × Flags :=
  match x with
  | .nan _ => if f.infs || f.e4m3 then (f.canonNan, 0) else (0, fNV)
  | .inf s =>
    if f.infs && !sat then (f.pack s ((2 ^ f.e - 1) * 2 ^ f.m), 0)
    else (f.pack s f.maxCode, flagIf (!f.infs) fNV)
  | .fin s m e =>
    let p := pow2Frac e
    f.encodeFrac s (m * p.1) p.2 rm sat r

/-- Round into FP32 by RNE, as bits and as a value. -/
def roundFp32 (x : Val) : Nat × Flags := ffp32.encode x 0 false 0

/-! ### Integer formats (R64) -/

/-- Conversion of num/den with a sign into [lo, hi]. -/
def encodeIntFrac (lo hi : Int) (s : Bool) (num den : Nat) (rm r : Nat) : Int × Flags :=
  let (n, inexact) := roundMultiple num den 0 rm r
  let v : Int := if s then -(n : Int) else n
  let nx := flagIf inexact fNX
  if v < lo then (lo, nx ||| fNV) else if hi < v then (hi, nx ||| fNV) else (v, nx)

/-- Conversion of an exact value into [lo, hi]. -/
def encodeInt (lo hi : Int) (x : Val) (rm r : Nat) : Int × Flags :=
  match x with
  | .nan _ => (0, fNV)
  | .inf s => (if s then lo else hi, fNV)
  | .fin s m e =>
    let p := pow2Frac e
    encodeIntFrac lo hi s (m * p.1) p.2 rm r

/-- An exact integer value. -/
def Val.ofInt (i : Int) : Val := .fin (i < 0) i.natAbs 0

/-! ### Element formats by code (Table 2.1) -/

/-- The bits an element of a code takes in a row. -/
def fmtBits (c : Nat) : Nat :=
  match c with
  | 0 => 16 | 1 => 16 | 2 => 8 | 3 => 8 | 4 => 6 | 5 => 6 | 6 => 4 | 7 => 8 | 8 => 8 | 9 => 4
  | 10 => 8 | 11 => 8 | 12 => 4 | 13 => 8 | 14 => 4 | _ => 16

/-- Elements per tile row, N(f) or K; for LC2 the 512 weights. -/
def fmtK (c : Nat) : Nat :=
  match c with
  | 0 => 64 | 1 => 64 | 2 => 128 | 3 => 128 | 4 => 128 | 5 => 128 | 6 => 256 | 7 => 128 | 8 => 128
  | 9 => 256 | 10 => 128 | 11 => 128 | 12 => 256 | 13 => 128 | 14 => 256 | _ => 512

/-- The floating-point element format of a code, where it has one. -/
def fmtF? (c : Nat) : Option FFmt :=
  match c with
  | 0 => some fbf16 | 1 => some ffp16 | 2 => some fe4m3 | 3 => some fe5m2 | 4 => some fe3m2
  | 5 => some fe2m3 | 6 => some fe2m1 | 10 => some fe4m3 | 11 => some fe5m2 | 12 => some fe2m1
  | 14 => some fe2m1 | _ => none

/-- The range of an integer code. -/
def fmtInt (c : Nat) : Int × Int :=
  match c with
  | 8 => (0, 255) | 9 => (-8, 7) | _ => (-128, 127)

/-- An element's exact value before any block scale (R58, R64, R66). -/
def decodeElem (c v : Nat) : Val :=
  match fmtF? c with
  | some f => f.decode v
  | none =>
    match c with
    | 8 => Val.ofInt (v % 256 : Nat)
    | 9 => Val.ofInt (sInt 4 v)
    | 13 => let i := sInt 8 v; .fin (i < 0) i.natAbs (-6)
    | _ => Val.ofInt (sInt 8 v)

/-- Encode into a plain code 0x0 to 0x9: floating point by R60, integers by R64 (always saturating). -/
def encodeElem (c : Nat) (x : Val) (rm : Nat) (sat : Bool) (r : Nat) : Nat × Flags :=
  match fmtF? c with
  | some f => f.encode x rm sat r
  | none =>
    let (lo, hi) := fmtInt c
    let (i, fl) := encodeInt lo hi x rm r
    ((i % 2 ^ fmtBits c).toNat, fl)

/-- Whether both codes are integer formats (R82). -/
def isIntFmt (c : Nat) : Bool := c == 7 || c == 8 || c == 9
/-- A code of a block-scaled format. -/
def isBlockFmt (c : Nat) : Bool := decide (10 ≤ c)

/-! ### Block scales (Table 2.4) -/

def scaleE8M0 (v : Nat) : Val := if v = 255 then .nan false else .fin false 1 ((v : Int) - 127)
def scaleUE5M3 (v : Nat) : Val :=
  if v = 255 then .nan false
  else
    let e := v / 8
    let m := v % 8
    if e = 0 then .fin false m (-17) else .fin false (8 + m) ((e : Int) - 18)
/-- The block scale of a code's format, from its byte: E8M0 for MX, UE5M3 for HXF4, E4M3 for LC2. -/
def blockScale (c v : Nat) : Val :=
  match c with
  | 14 => scaleUE5M3 v
  | 15 => fe4m3.decode v
  | _ => scaleE8M0 v

/-! ### LC2 (R69 to R73) -/

/-- Patterns of n coordinates of one parity whose squares sum to `rem`, lexicographically. -/
def lc2Patterns (odd : Bool) : Nat → Nat → List (List Nat)
  | 0, rem => if rem = 0 then [[]] else []
  | n + 1, rem =>
    (if odd then [1, 3, 5, 7] else [0, 2, 4, 6]).flatMap fun h =>
      if h * h ≤ rem then (lc2Patterns odd n (rem - h * h)).map (h :: ·) else []

/-- The code of a pattern, h0 most significant. -/
def lc2Code (p : List Nat) : Nat := p.foldl (fun a h => a * 8 + h) 0

/-- Row word of a pattern: Gi at bits 3i. -/
def lc2Row (odd : Bool) (p : List Nat) : Nat :=
  (p.foldr (fun h a => a * 8 + h) 0) + (if odd then 2 ^ 24 else 0)

/-- Rows of one norm, in ascending code. -/
def lc2Norm (n : Nat) : List Nat :=
  let es := ((lc2Patterns false 8 n).filter fun p => p.sum % 4 == 0).map fun p => (lc2Code p, lc2Row false p)
  let os := (lc2Patterns true 8 n).map fun p => (lc2Code p, lc2Row true p)
  ((es.merge os fun a b => a.1 ≤ b.1).map Prod.snd)

/-- The default table (R73): every pattern's squared sum is a multiple of 8. -/
def lc2Default : List Nat := (lc2Norm 0 ++ lc2Norm 8 ++ lc2Norm 16 ++ lc2Norm 24).take 256

/-- DecodeLC2 (R70): the eight weights of an index under a table row and the block's scale byte. -/
def decodeLC2 (idx row sc : Nat) : List Val :=
  let scale := fe4m3.decode sc
  let c := row / 2 ^ 24 % 2 = 1
  let step (st : List Val × Int) (i : Nat) : List Val × Int :=
    let g := row / 2 ^ (3 * i) % 8
    let neg := if c && i == 7 then !((st.2 + g) % 4 == 0) else idx / 2 ^ i % 2 == 1
    let h := if neg then st.2 - g else st.2 + g
    let w : Val := if g = 0 then .fin false 0 0 else .fin neg g (-1)
    (st.1 ++ [(w.mul scale).1], h)
  ((upTo 8).foldl step ([], 0)).1

/-! ### The LFSR (R62) -/

/-- LfsrNext: the new state. -/
def lfsrNext (l : BitVec 32) : BitVec 32 :=
  let s := l >>> 1
  if l.getLsbD 0 then s ^^^ 0x80200003#32 else s

/-- The state after n calls. -/
def lfsrSkip : Nat → BitVec 32 → BitVec 32
  | 0, l => l
  | n + 1, l => lfsrSkip n (lfsrNext l)

/-! ### The quantiser (R79) -/

/-- x / 2^p and the like: an exact value over an exact positive scale, as sign and fraction. -/
def divFrac (x sc : Val) : Bool × Nat × Nat :=
  match x, sc with
  | .fin s m e, .fin _ n f =>
    let p := pow2Frac (e - f)
    (s, m * p.1, n * p.2)
  | _, _ => (false, 0, 1)

/-- The scale codes: E8M0 or UE5M3 (`hx`). -/
def scaleOfPow (hx : Bool) (p : Int) : Nat := if hx then ((p + 15) * 8).toNat else (p + 127).toNat
def scaleVal (hx : Bool) (v : Nat) : Val := if hx then scaleUE5M3 v else scaleE8M0 v
/-- The next larger scale, unchanged at the top. -/
def scaleUp (v : Nat) : Nat := if v ≥ 254 then v else v + 1

/-- Largest binary exponent of an element format (R79). -/
def quantEmax (c : Nat) : Int :=
  match c with
  | 10 => 8 | 11 => 15 | 12 => 2 | 14 => 2 | _ => 0

/-- One element under a scale: bits, flags, and OverflowsRNE. -/
def quantElem (c : Nat) (x : Val) (scale : Val) : Nat × Flags × Bool :=
  let (s, num, den) := divFrac x scale
  match fmtF? c with
  | some f =>
    let (b, fl) := f.encodeFrac s num den 0 true 0
    let ovf := fl &&& fOF != 0
    (b, if ovf then fl &&& fNX else fl, ovf)
  | none =>
    let (n, inexact) := roundMultiple (num * 64) den 0 0 0
    let ovf := if s then decide (n > 128) else decide (n > 127)
    let (i, _) := encodeIntFrac (-128) 127 s (num * 64) den 0 0
    ((i % 256).toNat, flagIf inexact fNX, ovf)

/-- QuantiseBlock: the scale code, the element bits, the flags. At most three scale raises. -/
def quantiseBlock (c : Nat) (xs : List Val) : Nat × List Nat × Flags × Nat :=
  let hx := c == 14
  if xs.any (fun x => x.isNan || x.isInf) then (255, xs.map fun _ => 0, fNV, 0)
  else
    let big := xs.foldl (fun a x => if a.lt x.absolute then x.absolute else a) Val.zero
    let lo : Int := if hx then -14 else -127
    let hi : Int := if hx then 16 else 127
    let p0 : Int :=
      match big with
      | .fin _ m e => if m = 0 then lo else (Nat.log2 m : Int) + e - quantEmax c
      | _ => lo
    let p := max lo (min hi p0)
    let rec go (fuel : Nat) (sc tries : Nat) : Nat × List Nat × Flags × Nat :=
      let ys := xs.map fun x => quantElem c x (scaleVal hx sc)
      let fl := ys.foldl (fun a y => a ||| y.2.1) 0
      let bits := ys.map Prod.fst
      if ys.any (fun y => y.2.2) then
        match fuel with
        | 0 => (sc, bits, fl ||| fQSAT, tries)
        | fuel + 1 => go fuel (scaleUp sc) (tries + 1)
      else (sc, bits, fl, tries)
    go 3 (scaleOfPow hx p) 0

/-! ### Decay (R85) -/

/-- DecayPower: the FP32 bits of λ^n. -/
def decayPower (lam : Nat) (n : Nat) : Nat :=
  let step (st : Nat × Nat) (b : Nat) : Nat × Nat :=
    let p := ffp32.decode st.2
    let res := if n / 2 ^ b % 2 = 1 then (roundFp32 ((ffp32.decode st.1).mul p).1).1 else st.1
    (res, (roundFp32 (p.mul p).1).1)
  ((upTo 23).foldl step (0x3f800000, lam)).1

/-- v × λ^n in FP32; exactly v for n = 0. -/
def decayValue (v lam n : Nat) : Nat :=
  if n = 0 then v
  else (roundFp32 ((ffp32.decode v).mul (ffp32.decode (decayPower lam n))).1).1

/-! ### The pairwise tree (R83) -/

/-- One level: pairs combined in order, an odd last entry carried up; the generator states are taken in order. -/
def treeLevel (f : Nat → Nat → BitVec 32 → Nat × Flags) (sr : Bool) : List Nat → BitVec 32 → Flags → List Nat × BitVec 32 × Flags
  | a :: b :: t, l, fl =>
    let l' := if sr then lfsrNext l else l
    let (v, g) := f a b l'
    let (vs, l2, fl2) := treeLevel f sr t l' (fl ||| g)
    (v :: vs, l2, fl2)
  | xs, l, fl => (xs, l, fl)

/-- The tree: levels until one entry is left. -/
def treeReduce (f : Nat → Nat → BitVec 32 → Nat × Flags) (sr : Bool) : Nat → List Nat → BitVec 32 → Flags → List Nat × BitVec 32 × Flags
  | 0, xs, l, fl => (xs, l, fl)
  | fuel + 1, xs, l, fl =>
    if xs.length ≤ 1 then (xs, l, fl)
    else
      let (ys, l2, fl2) := treeLevel f sr xs l fl
      treeReduce f sr fuel ys l2 fl2

end Sys2Proof.Machine
end

