-- ==== Sys2Proof/Machine/Memory.lean ====
section
/-! DEFINITION. The parts of the state by number, memory as a canonical list of cells, the physical map, and
the stores behind the windows (09 R225 to R230, 21 R468). -/

namespace Sys2Proof.Machine

open Sys2Proof

/-! ### The parts of the state -/

/-- The key of slot k of unit u. -/
def hartKey (u k : Nat) : Nat := 8 * u + k

def State.hart (s : State) (u k : Nat) : Slot := fget s.harts (hartKey u k) Slot.reset
def State.setHart (s : State) (u k : Nat) (h : Slot) : State := { s with harts := fset s.harts (hartKey u k) h }
def State.modHart (s : State) (u k : Nat) (f : Slot → Slot) : State := s.setHart u k (f (s.hart u k))
def State.unit (s : State) (u : Nat) : UnitSt := fget s.units u UnitSt.reset
def State.setUnit (s : State) (u : Nat) (x : UnitSt) : State := { s with units := fset s.units u x }
def State.modUnit (s : State) (u : Nat) (f : UnitSt → UnitSt) : State := s.setUnit u (f (s.unit u))
def State.quad (s : State) (q : Nat) : Quad := fget s.quads q Quad.reset
def State.modQuad (s : State) (q : Nat) (f : Quad → Quad) : State := { s with quads := fset s.quads q (f (s.quad q)) }
def State.cluster (s : State) (c : Nat) : Cluster := fget s.clusters c Cluster.reset
def State.modCluster (s : State) (c : Nat) (f : Cluster → Cluster) : State :=
  { s with clusters := fset s.clusters c (f (s.cluster c)) }
def State.station (s : State) (m : Nat) : Station := fget s.stations m Station.reset
def State.modStation (s : State) (m : Nat) (f : Station → Station) : State :=
  { s with stations := fset s.stations m (f (s.station m)) }
def State.die (s : State) (d : Nat) : Die := fget s.dies d Die.reset
def State.modDie (s : State) (d : Nat) (f : Die → Die) : State := { s with dies := fset s.dies d (f (s.die d)) }
def State.port (s : State) (p : Nat) : Port := fget s.pkg.ports p Port.reset
def State.modPort (s : State) (p : Nat) (f : Port → Port) : State :=
  { s with pkg := { s.pkg with ports := fset s.pkg.ports p (f (s.port p)) } }
def State.modPkg (s : State) (f : Pkg → Pkg) : State := { s with pkg := f s.pkg }

/-- The executing hart and its unit. -/
def State.me (s : State) : Slot := s.hart s.cur.unit s.cur.slot
def State.modMe (s : State) (f : Slot → Slot) : State := s.modHart s.cur.unit s.cur.slot f
def State.mine (s : State) : UnitSt := s.unit s.cur.unit
def State.modMine (s : State) (f : UnitSt → UnitSt) : State := s.modUnit s.cur.unit f

/-- An open value is taken (log entry 2): the value, and the counter advanced. -/
def State.freeWord (s : State) : Word := Config.freeWord s.free
def State.took (s : State) : State := { s with free := s.free + 1 }

/-- Put a device step at the head of the agenda: the next step of the machine. -/
def State.soon (s : State) (i : Instr) : State := { s with agenda := .event i :: s.agenda }

/-- Put a device step on the agenda, after those already there. -/
def State.later (s : State) (i : Instr) : State := { s with agenda := s.agenda ++ [.event i] }

/-! ### Unit numbers (10 R263) -/

def isCmc (u : Nat) : Bool := 192 ≤ u && u < 204
def isUcore (u : Nat) : Bool := 204 ≤ u && u < 228
def isApp (u : Nat) : Bool := 228 ≤ u && u < 244
def cmcOf (c : Nat) : Nat := 192 + c
def ucoreOf (m u : Nat) : Nat := 204 + 4 * m + u
/-- Station and index of an update core. -/
def ucoreStation (u : Nat) : Nat := (u - 204) / 4
def ucoreIndex (u : Nat) : Nat := (u - 204) % 4

/-! ### Memory -/

/-- The byte at an address; an unlisted address reads 0 (log entry 4). -/
def memRead (m : List Host.Cell) (a : Nat) : Byte :=
  match m with
  | [] => 0
  | (k, v) :: t => if k = a then v else if a < k then 0 else memRead t a

/-- Memory with one byte written; writing 0 leaves the address unlisted. -/
def memWrite (m : List Host.Cell) (a : Nat) (v : Byte) : List Host.Cell :=
  match m with
  | [] => if v = 0 then [] else [(a, v)]
  | (k, w) :: t =>
    if k = a then (if v = 0 then t else (a, v) :: t)
    else if a < k then (if v = 0 then (k, w) :: t else (a, v) :: (k, w) :: t)
    else (k, w) :: memWrite t a v

/-- The canonical form: addresses strictly rising, no entry equal to what an unlisted address reads. -/
def memWf : List Host.Cell → Bool
  | [] => true
  | [(_, v)] => v != 0
  | (k, v) :: (j, w) :: t => v != 0 && decide (k < j) && memWf ((j, w) :: t)

/-- n bytes from an address, as a little-endian number. -/
def memGet (m : List Host.Cell) (a : Nat) : Nat → Nat
  | 0 => 0
  | n + 1 => (memRead m a).toNat + 256 * memGet m (a + 1) n

/-- n bytes written at an address, little-endian. -/
def memPut (m : List Host.Cell) (a : Nat) : Nat → Nat → List Host.Cell
  | 0, _ => m
  | n + 1, v => memPut (memWrite m a (BitVec.ofNat 8 v)) (a + 1) n (v / 256)

/-- A list of cells written, first to last. -/
def memPutCells (m : List Host.Cell) : List (Nat × Byte) → List Host.Cell
  | [] => m
  | (a, v) :: t => memPutCells (memWrite m a v) t

/-- The capacity window that governs an offset of region 2 (09 R229). The rule's bound of 4 TB on all windows together names
no effect where it is broken: every valid window is accepted and no total is checked (log entry 44). -/
def capWindow? (s : State) (o : Nat) : Option Nat :=
  (upTo 16).find? fun n =>
    let w := fget s.pkg.capwin n 0
    wbit w 63 && decide (wfld w 11 0 ≤ o / 2 ^ 30) && decide (o / 2 ^ 30 ≤ wfld w 43 32)

/-- The port of a capacity window. -/
def windowPort (w : Word) : Nat := 4 * wfld w 58 58 + wfld w 57 56

/-- The cells behind a port: its device address d lies at cell `portCell p + d`, beyond every PA and every store. -/
def portCell (p : Nat) : Nat := 2 ^ 54 + p * 2 ^ 43

/-- The memory cell of a physical address. In region 2 it is the device address O − BASE·2^30 behind the port of the
window that governs O (09 R229); elsewhere the address itself. -/
def State.cell (s : State) (a : Nat) : Nat :=
  if a / 2 ^ 48 = 2 then
    match capWindow? s (a % 2 ^ 48) with
    | some n =>
      let w := fget s.pkg.capwin n 0
      portCell (windowPort w) + (a % 2 ^ 48 - wfld w 11 0 * 2 ^ 30)
    | none => a
  else a

def State.byteAt (s : State) (a : Nat) : Byte := memRead s.mem a
def State.get (s : State) (a n : Nat) : Nat := memGet s.mem (s.cell a) n
def State.getW (s : State) (a : Nat) : Word := w64 (memGet s.mem (s.cell a) 8)
def State.put (s : State) (a n v : Nat) : State := { s with mem := memPut s.mem (s.cell a) n v }
def State.putW (s : State) (a : Nat) (v : Word) : State := { s with mem := memPut s.mem (s.cell a) 8 v.toNat }
def State.putCells (s : State) (cs : List (Nat × Byte)) : State :=
  { s with mem := memPutCells s.mem (cs.map fun p => (s.cell p.1, p.2)) }

/-- A span of n bytes emptied: every byte reads as one that nothing has written. -/
def State.emptySpan (s : State) (a n : Nat) : State :=
  { s with mem := s.mem.filter fun c => !(decide (a ≤ c.1) && decide (c.1 < a + n))
           poison := s.poison.filter fun f => !(decide (a / 64 ≤ f) && decide (f < (a + n) / 64)) }

/-! ### Poison of memory and of the stores, by 64-byte flit (09 R245, 20 R457) -/

/-- The poison of a flit by its number: in memory, or in the line's copy in its home slice. -/
def State.homeBad (s : State) (f : Nat) : Bool :=
  s.poison.contains (s.cell (64 * f) / 64) || s.l2.any fun x => x.line == f / 4 && x.bad.getLsbD (f % 4)

/-- The numbers of the flits met by [a, a + n - 1]. -/
def flits (a n : Nat) : List Nat := if n = 0 then [] else (upTo ((a + n - 1) / 64 - a / 64 + 1)).map (· + a / 64)

/-- The first poisoned flit met by [a, a + n - 1] at its home, as its number. -/
def State.poisonIn (s : State) (a n : Nat) : Option Nat := (flits a n).find? s.homeBad

def State.addPoison (s : State) (f : Nat) : State :=
  let g := s.cell (64 * f) / 64
  if s.poison.contains g then s else { s with poison := g :: s.poison }

/-- The four flits of a line poisoned, those that a vector names. -/
def State.addLinePoison (s : State) (line : Nat) (bad : BitVec 4) : State :=
  (upTo 4).foldl (fun t i => if bad.getLsbD i then t.addPoison (4 * line + i) else t) s

/-- A write that covers whole 128-byte sectors clears their poison. -/
def State.clearPoison (s : State) (a n : Nat) : State :=
  let whole (f : Nat) : Bool := decide (a ≤ f / 2 * 128) && decide (f / 2 * 128 + 128 ≤ a + n)
  let gone := (flits a n).filter whole
  { s with
    poison := s.poison.filter fun g => !(gone.any fun f => s.cell (64 * f) / 64 == g)
    l2 := s.l2.map fun x =>
      if x.bad != 0 && gone.any (fun f => f / 4 == x.line) then
        { x with bad := (upTo 4).foldl (fun b i => if whole (4 * x.line + i) then b &&& ~~~(1#4 <<< i) else b) x.bad }
      else x }

/-! ### The physical map -/

/-- Region and offset of a PA. -/
def regionOf (pa : Nat) : Nat := pa / 2 ^ 48
def regionOff (pa : Nat) : Nat := pa % 2 ^ 48
def lineOf (pa : Nat) : Nat := pa / 256

/-- Base of the store or private memory of a unit, and of the store of a quad, beyond every PA. -/
def storeBase (u : Nat) : Nat := 2 ^ 52 + u * 2 ^ 20
def quadBase (q : Nat) : Nat := 2 ^ 53 + q * 2 ^ 21

def windowBlock : Nat := 0x00FFFF0000000000
def coreWindow : Nat := 0x00FFFF0000000000
def quadWindow : Nat := 0x00FFFF1000000000
/-- The resident handler's area of a core store (01 R52). -/
def residentBase : Nat := 0x70000

/-- Bytes of the store behind the core-store window of a unit; an application core has none. -/
def storeSize (u : Nat) : Nat := if u < 192 then 0x80000 else if u < 228 then 0x40000 else 0

/-- The unretired channels that limit a die's stacks (21 R468). -/
def channelsUp (s : State) (d : Nat) : Nat :=
  let n m := 32 - popcount 32 (fget s.pkg.channels m 0).toNat
  min (n (3 * d)) (min (n (3 * d + 1)) (n (3 * d + 2)))

/-- Backed bytes of HBM region d (09 Table 9.2, 21 R468). -/
def hbmBacked (s : State) (d : Nat) : Nat :=
  6144 * (channelsUp s d * 7812500 / 8)

/-- Whether a byte of PA space is backed memory (09 R227). -/
def backed (s : State) (pa : Nat) : Bool :=
  match regionOf pa with
  | 0 => decide (regionOff pa < hbmBacked s 0)
  | 1 => decide (regionOff pa < hbmBacked s 1)
  | 2 => (capWindow? s (regionOff pa)).isSome
  | _ => false

/-- Whether every byte of [lo, hi] is backed memory of one region. -/
def spanBacked (s : State) (lo hi : Nat) : Bool :=
  regionOf lo == regionOf hi && backed s lo && backed s hi
    && (regionOf lo != 2
        || (upTo (regionOff hi / 2 ^ 30 - regionOff lo / 2 ^ 30 + 1)).all fun i =>
            (capWindow? s ((regionOff lo / 2 ^ 30 + i) * 2 ^ 30)).isSome)

/-- The die that a unit lies on, by the layout of 00 R2 for clusters (`clusterDie`), and stations. -/
def clusterDie (c : Nat) : Nat := if c % 6 < 3 then 0 else 1
def unitDie (u : Nat) : Nat :=
  if u < 192 then clusterDie (u / 16)
  else if u < 204 then clusterDie (u - 192)
  else if u < 228 then (if ucoreStation u < 3 then 0 else 1)
  else if u < 236 then 0 else 1

/-- The die on which a line of region 0, 1 or 2 is homed. -/
def homeDie (s : State) (pa : Nat) : Nat :=
  match regionOf pa with
  | 0 => 0
  | 1 => 1
  | _ =>
    match capWindow? s (regionOff pa) with
    | some n => b2n (wbit (fget s.pkg.capwin n 0) 58)
    | none => 0

/-- The home of a line: the station of the package, its slice, the L2 set, and the byte's place in the station's stack
by the numbering of 09 R228. -/
structure Home where
  station : Nat
  slice : Nat
  set : Nat
  place : Nat
  deriving DecidableEq, Repr

/-- HomeOf (09 R228), with retired slices served by their neighbours (21 R468). -/
def homeOf (s : State) (pa : Nat) : Home :=
  let l := regionOff pa / 256
  let g := l / 24
  let n0 := (l % 24 + g) % 24
  let d := homeDie s pa
  let n := if s.pkg.slicesRetired.getLsbD (24 * d + n0) then n0 ^^^ 1 else n0
  { station := 3 * d + n / 8, slice := n % 8, set := g % 1024,
    place := (8 * g + n0 % 8) * 256 + regionOff pa % 256 }

/-- The channel of its stack that holds a byte of HBM, and the byte's place in the channel: the stack's lines go round
the unretired channels (21 R468). -/
def channelOf (s : State) (pa : Nat) : Nat × Nat :=
  let h := homeOf s pa
  let nc := channelsUp s (homeDie s pa)
  let up := (upTo 32).filter fun c => !(fget s.pkg.channels h.station 0).getLsbD c
  (up.getD (h.place / 256 % nc) 0, h.place / 256 / nc * 256 + h.place % 256)

end Sys2Proof.Machine
end

