-- ==== Sys2Proof/Machine/Aia.lean ====
section
/-! DEFINITION. The interrupt files of the application cores, the interrupt controller of each die, and the events of the
ports that are its wired sources (09 R246, R248). Their register layouts are those of the RISC-V Advanced Interrupt
Architecture (log entry 31). -/

namespace Sys2Proof.Machine

open Sys2Proof

/-! ### Interrupt files -/

def State.ifile (s : State) (f : Nat) : IFile := fget s.pkg.ifiles f IFile.reset
def State.modIfile (s : State) (f : Nat) (g : IFile → IFile) : State :=
  s.modPkg fun p => { p with ifiles := fset p.ifiles f (g (fget p.ifiles f IFile.reset)) }

/-- An identity becomes pending, once. Identity 0 and those above 255 name none. -/
def IFile.signal (x : IFile) (id : Nat) : IFile :=
  if 1 ≤ id ∧ id ≤ 255 ∧ id ∉ x.pend then { x with pend := x.pend ++ [id] } else x

/-- The identity that a file delivers: the lowest that is pending, enabled and below the threshold, if it delivers at all. -/
def IFile.top (x : IFile) : Nat :=
  if x.delivery then
    (x.pend.filter fun i => x.en.contains i && (x.thresh == 0 || decide (i < x.thresh))).foldl
      (fun b i => if b = 0 ∨ i < b then i else b) 0
  else 0

/-- The claim of an identity: it is no longer pending. -/
def IFile.claim (x : IFile) (id : Nat) : IFile := { x with pend := x.pend.filter fun i => i != id }

/-- Bits 64j to 64j + 63 of a list of identities. -/
def idBits (xs : List Nat) (j : Nat) : Word :=
  w64 (xs.foldl (fun a i => if i / 64 = j then a ||| 2 ^ (i % 64) else a) 0)

/-- A list of identities with bits 64j to 64j + 63 replaced; identity 0 is none. -/
def idReplace (xs : List Nat) (j : Nat) (v : Word) : List Nat :=
  (xs.filter fun i => i / 64 != j) ++ ((upTo 64).map (64 * j + ·)).filter fun i => i != 0 && v.getLsbD (i % 64)

/-- The indirect registers of a file: eidelivery, eithreshold, eip0 to eip63 and eie0 to eie63, the even numbers in use. -/
def ifileRead (x : IFile) (sel : Nat) : Word :=
  if sel = 0x70 then w64 (b2n x.delivery)
  else if sel = 0x72 then w64 x.thresh
  else if 0x80 ≤ sel ∧ sel < 0x88 ∧ sel % 2 = 0 then idBits x.pend ((sel - 0x80) / 2)
  else if 0xC0 ≤ sel ∧ sel < 0xC8 ∧ sel % 2 = 0 then idBits x.en ((sel - 0xC0) / 2)
  else 0

def ifileWrite (x : IFile) (sel : Nat) (v : Word) : IFile :=
  if sel = 0x70 then { x with delivery := v.getLsbD 0 }
  else if sel = 0x72 then { x with thresh := v.toNat % 256 }
  else if 0x80 ≤ sel ∧ sel < 0x88 ∧ sel % 2 = 0 then { x with pend := idReplace x.pend ((sel - 0x80) / 2) v }
  else if 0xC0 ≤ sel ∧ sel < 0xC8 ∧ sel % 2 = 0 then { x with en := idReplace x.en ((sel - 0xC0) / 2) v }
  else x

/-- A 4-byte write of a file's page: seteipnum, at offset 0, makes an identity pending; nothing else is written. -/
def ifilePut (s : State) (f off v : Nat) : State := if off = 0 then s.modIfile f fun x => x.signal v else s

/-- Offset of the interrupt files in region 3 (Table 9.7). -/
def ifileBase : Nat := 0x1000000

/-- The interrupt file and the offset in its page that an offset of region 3 names. -/
def ifilePlace (o : Nat) : Option (Nat × Nat) :=
  if ifileBase ≤ o ∧ o < ifileBase + 0x1000 * 128 then some ((o - ifileBase) / 0x1000, o % 0x1000) else none

/-! ### The interrupt controllers -/

def State.aplic (s : State) (d : Nat) : Aplic := fget s.pkg.aplics d Aplic.reset
def State.modAplic (s : State) (d : Nat) (g : Aplic → Aplic) : State :=
  s.modPkg fun p => { p with aplics := fset p.aplics d (g (fget p.aplics d Aplic.reset)) }

/-- A wired source: 4p + 1, 4p + 2 or 4p + 3 of port p; every other number is vacant. -/
def aplicWired (i : Nat) : Bool := decide (i < 16) && i % 4 != 0

/-- The physical address of a hart's interrupt file, from mmsiaddrcfg. -/
def msiAddress (x : Aplic) (hart : Nat) : Nat :=
  let w := x.maddr
  let ppn := wfld w 43 0
  let lhxw := wfld w 47 44
  let hhxw := wfld w 50 48
  let g := hart / 2 ^ lhxw % 2 ^ hhxw
  let h := hart % 2 ^ lhxw
  (ppn ||| g * 2 ^ (wfld w 60 56 + 12) ||| h * 2 ^ wfld w 54 52) * 4096

/-- A message-signalled interrupt written to a physical address. -/
def sendMsi (s : State) (pa id : Nat) : State :=
  if regionOf pa = 3 then
    match ifilePlace (regionOff pa) with
    | some (f, off) => ifilePut s f off id
    | none => s
  else s

/-- The controller forwards its pending, enabled sources, lowest first, as messages; each is then no longer pending. -/
def aplicForward (s : State) (d : Nat) : State :=
  (upTo 16).foldl (fun t i =>
    let x := t.aplic d
    if x.ie && x.pend.getLsbD i && x.en.getLsbD i then
      let w := fget x.target i 0
      sendMsi (t.modAplic d fun y => { y with pend := y.pend &&& ~~~(1#16 <<< i) }) (msiAddress x (w.toNat / 2 ^ 18)) (w.toNat % 2 ^ 11)
    else t) s

/-- A source's pending bit is set, unless the source is inactive. -/
def aplicSet (s : State) (d i : Nat) : State :=
  if aplicWired i && fget (s.aplic d).source i 0 != 0 then
    aplicForward (s.modAplic d fun y => { y with pend := y.pend ||| (1#16 <<< i) }) d
  else s

/-- An event of a wired source: a pulse, which a source in an edge or level mode sees. -/
def aplicPulse (s : State) (d i : Nat) : State :=
  if 4 ≤ (fget (s.aplic d).source i 0).toNat then aplicSet s d i else s

/-- Sources named by a mask that are in use. -/
def aplicMask (x : Aplic) (v : Nat) : BitVec 16 :=
  (upTo 16).foldl (fun b i => if aplicWired i && fget x.source i 0 != 0 && v / 2 ^ i % 2 == 1 then b ||| (1#16 <<< i) else b) 0

/-- A 4-byte register of a controller. -/
def aplicRead (x : Aplic) (o : Nat) : Nat :=
  if o = 0 then 0x80000004 + bitAt x.ie 8
  else if o < 0x40 then if aplicWired (o / 4) then (fget x.source (o / 4) 0).toNat else 0
  else if o = 0x1BC0 then x.maddr.toNat % 2 ^ 32
  else if o = 0x1BC4 then x.maddr.toNat / 2 ^ 32
  else if o = 0x1BC8 then x.saddr.toNat % 2 ^ 32
  else if o = 0x1BCC then x.saddr.toNat / 2 ^ 32
  else if o = 0x1C00 then x.pend.toNat
  else if o = 0x1E00 then x.en.toNat
  else if 0x3004 ≤ o ∧ o < 0x3040 then (fget x.target ((o - 0x3000) / 4) 0).toNat
  else 0

/-- The fields of a target in MSI delivery mode: hart index and identity, and the guest index of the layout. -/
def targetMask : BitVec 32 := 0xFFFFF7FF#32

def putLow (w : Word) (v : Nat) : Word := w64 (w.toNat / 2 ^ 32 * 2 ^ 32 + v)
def putHigh (w : Word) (v : Nat) : Word := w64 (w.toNat % 2 ^ 32 + v * 2 ^ 32)

/-- A write of a 4-byte register of the controller of die d. -/
def aplicWrite (s : State) (d o v : Nat) : State :=
  let x := s.aplic d
  let setEn (m : BitVec 16) : State := aplicForward (s.modAplic d fun y => { y with en := y.en ||| m }) d
  let clrEn (m : BitVec 16) : State := s.modAplic d fun y => { y with en := y.en &&& ~~~m }
  let clr (m : BitVec 16) : State := s.modAplic d fun y => { y with pend := y.pend &&& ~~~m }
  if o = 0 then aplicForward (s.modAplic d fun y => { y with ie := v / 256 % 2 == 1 }) d
  else if o < 0x40 then
    let i := o / 4
    let m := if v / 1024 % 2 = 1 ∨ v % 8 = 2 ∨ v % 8 = 3 then 0 else v % 8
    if aplicWired i then
      if m = 0 then
        s.modAplic d fun y =>
          { y with source := fset y.source i 0, pend := y.pend &&& ~~~(1#16 <<< i), en := y.en &&& ~~~(1#16 <<< i), target := fset y.target i 0 }
      else s.modAplic d fun y => { y with source := fset y.source i (BitVec.ofNat 3 m) }
    else s
  else if o = 0x1BC0 then s.modAplic d fun y => { y with maddr := putLow y.maddr v }
  else if o = 0x1BC4 then s.modAplic d fun y => { y with maddr := putHigh y.maddr (v &&& 0x1F77FFFF) }
  else if o = 0x1BC8 then s.modAplic d fun y => { y with saddr := putLow y.saddr v }
  else if o = 0x1BCC then s.modAplic d fun y => { y with saddr := putHigh y.saddr (v &&& 0x00700FFF) }
  else if o = 0x1C00 then aplicForward (s.modAplic d fun y => { y with pend := y.pend ||| aplicMask x v }) d
  else if o = 0x1CDC ∨ o = 0x2000 then aplicSet s d v
  else if o = 0x1D00 then clr (aplicMask x v)
  else if o = 0x1DDC then if v < 16 then clr (1#16 <<< v) else s
  else if o = 0x1E00 then setEn (aplicMask x v)
  else if o = 0x1EDC then if v < 16 then setEn (aplicMask x (2 ^ v)) else s
  else if o = 0x1F00 then clrEn (aplicMask x v)
  else if o = 0x1FDC then if v < 16 then clrEn (1#16 <<< v) else s
  else if o = 0x3000 then sendMsi s (msiAddress x (v / 2 ^ 18)) (v % 2 ^ 11)
  else if 0x3004 ≤ o ∧ o < 0x3040 then
    let i := (o - 0x3000) / 4
    if aplicWired i && fget x.source i 0 != 0 then s.modAplic d fun y => { y with target := fset y.target i (BitVec.ofNat 32 v &&& targetMask) }
    else s
  else s

/-! ### Events of the ports (R246, R248) -/

/-- A port's event pulses its source at the interrupt controller of its die: 4p + 1 a change of LINKUP, 4p + 2 an error,
4p + 3 a CXL event record. -/
def portSignal (s : State) (p kind : Nat) : State := aplicPulse s (p / 4) (4 * (p % 4) + kind)

/-- ERR is set, which is an event. -/
def portError (s : State) (p : Nat) : State := portSignal (s.modPort p fun x => { x with err := true }) p 2

end Sys2Proof.Machine
end

