-- ==== Sys2Proof/Machine/Cache.lean ====
section
/-! DEFINITION. L1, the home slices with their directory, and the remote-data caches (09 R231 to R243). A
line of the reader's own die always reads as its home does; a remote-data cache line, and an L1 line supplied
by one, holds its own copy, which may be stale until an invalidation is applied (R239, log entry 5). -/

namespace Sys2Proof.Machine

open Sys2Proof

/-! ### Numbers -/

/-- The quad of a core, 0 to 47, and its number among the 24 of its die, in order of core numbers. -/
def quadOf (u : Nat) : Nat := u / 4
def dieQuad (q : Nat) : Nat := (q / 4 % 6 % 3 + (if 24 ≤ q then 3 else 0)) * 4 + q % 4
def otherDie (d : Nat) : Nat := 1 - d

/-- The byte address of a line, and a line's home. -/
def linePa (line : Nat) : Nat := 256 * line
/-- L1 set, RDC set, L2 set of a line. -/
def l1Set (line : Nat) : Nat := line % 256
def rdcSet (line : Nat) : Nat := line % 2 ^ 40 % 2 * 8192 + line % 2 ^ 40 / 2 % 8192
def l2Set (s : State) (line : Nat) : Nat × Nat × Nat :=
  let h := homeOf s (linePa line)
  (h.station, h.slice, h.set)

/-- The sector of a byte in its line. -/
def sectorOf (pa : Nat) : Nat := pa / 128 % 2

/-- Cores of a quad given by its number on its die. -/
def coresOfDieQuad (d i : Nat) : List Nat :=
  ((upTo 192).filter fun u => unitDie u == d && dieQuad (quadOf u) == i)

/-! ### L1 -/

def State.l1Find (s : State) (u line : Nat) : Option L1Line := (s.unit u).l1.find? fun x => x.line == line

/-- A core's L1 without a line; a dirty sector has been written back to its home. -/
def State.l1Drop (s : State) (u line : Nat) : State :=
  if (s.l1Find u line).isSome then s.modUnit u fun x => { x with l1 := x.l1.filter fun y => y.line != line } else s

/-- A line moved to the front: most recently used. -/
def State.l1Touch (s : State) (u line : Nat) : State :=
  match s.l1Find u line with
  | some y => s.modUnit u fun x => { x with l1 := y :: x.l1.filter fun z => z.line != line }
  | none => s

/-- The least recently used line of a set that has n ways filled. -/
def lruVictim {β : Type} (inSet : β → Bool) (ways : Nat) (xs : List β) : Option β :=
  let ys := xs.filter inSet
  if ways ≤ ys.length then ys.getLast? else none

/-! ### Lines locked by a VSTPAIR (17 R410) -/

/-- A line in a pair buffer: every request for it waits at its slice until the commit. -/
def pairLocked (s : State) (line : Nat) : Bool :=
  s.harts.any fun p => match p.2.pipe with
    | .pair _ _ locked _ => locked.contains line
    | _ => false

/-! ### The home slice and its directory -/

def State.l2Find (s : State) (line : Nat) : Option L2Line := s.l2.find? fun x => x.line == line
def State.l2Set (s : State) (x : L2Line) : State := { s with l2 := x :: s.l2.filter fun y => y.line != x.line }

/-- The lines that fill a set's ways: one in a pair buffer takes none (17 R411). -/
def State.l2Ways (s : State) (line : Nat) : List L2Line :=
  s.l2.filter fun x => Machine.l2Set s x.line == Machine.l2Set s line && !pairLocked s x.line

/-- The port of a byte of region 2. -/
def capacityPort (s : State) (pa : Nat) : Nat :=
  match capWindow? s (regionOff pa) with
  | none => 0
  | some n => windowPort (fget s.pkg.capwin n 0)

/-- The port of a capacity window serves: MODE 2 with the link up (R229). Other regions need none. -/
def capacityUp (s : State) (pa : Nat) : Bool :=
  if regionOf pa != 2 then true
  else
    match capWindow? s (regionOff pa) with
    | none => false
    | some n =>
      let p := s.port (windowPort (fget s.pkg.capwin n 0))
      p.linkup && p.mode == 2

/-- Drop a line from every L1 of the quads in a vector of a die, except the requester's. -/
def State.dropQuads (s : State) (d : Nat) (vec : BitVec 24) (line : Nat) (but : Option Nat) : State :=
  (((upTo 192).filter fun u => unitDie u == d && vec.getLsbD (dieQuad (quadOf u)) && some u != but)).foldl
    (fun t u => t.l1Drop u line) s

/-- Drop a line from a remote-data cache with every L1 copy it has supplied (R239). -/
def State.rdcDrop (s : State) (d line : Nat) : State :=
  match (s.die d).rdc.find? fun x => x.line == line with
  | none => s
  | some r =>
    (s.dropQuads d r.quads line none).modDie d fun x => { x with rdc := x.rdc.filter fun y => y.line != line }

/-- The line's presence and owner on its home die as a vector of quads. -/
def L2Line.quads (x : L2Line) : BitVec 24 :=
  match x.owner with
  | some u => x.presence ||| (1#24 <<< dieQuad (quadOf u))
  | none => x.presence

/-- Whether an owning L1 holds dirty sectors of a line. -/
def ownerDirty (s : State) (x : L2Line) : Bool :=
  match x.owner with
  | some o => ((s.l1Find o x.line).map fun y => y.dirty != 0).getD false
  | none => false

/-- Evict an L2 line: its copies are invalidated, dirty data of its owner is written back into it, and a dirty line goes
to memory. A write-back through a port that is down is discarded, which is an error of the port: the line's bytes are then
poisoned (log entry 6). -/
def State.l2Evict (s : State) (x : L2Line) : State :=
  let d := homeDie s (linePa x.line)
  let dirty := x.dirty || ownerDirty s x
  let s1 := s.dropQuads d x.quads x.line none
  let s2 := if x.remote then s1.rdcDrop (otherDie d) x.line else s1
  let s3 := { s2 with l2 := s2.l2.filter fun y => y.line != x.line }
  if !dirty then s3
  else if capacityUp s3 (linePa x.line) then s3.addLinePoison x.line x.bad
  else portError (s3.addLinePoison x.line 15) (capacityPort s3 (linePa x.line))

/-- A line's directory entry before any copy. -/
def L2Line.fresh (line : Nat) (bad : BitVec 4) : L2Line :=
  { line := line, presence := 0, owner := none, remote := false, dirty := false, bad := bad, pins := [] }

/-- A way of a line's set is free: the least recently used line of a full set that is not pinned goes (R235). -/
def State.l2Room (s : State) (line : Nat) : State :=
  if (s.l2Ways line).length < 16 then s
  else
    match ((s.l2Ways line).filter fun x => x.pins == []).getLast? with
    | some v => s.l2Evict v
    | none => s

/-- L2_FILL: a line read from memory into its home slice. Uncorrectable data is poison of the memory; a fill that finds the
port down gives a copy poisoned whole (R229, R245). -/
def State.l2Fill (s : State) (line : Nat) (bad : Bool) : State :=
  match s.l2Find line with
  | some x => s.l2Set x
  | none =>
    let s1 := s.l2Room line
    let s2 := s1.l2Set (L2Line.fresh line (if capacityUp s1 (linePa line) then 0 else 15))
    if bad then s2.addLinePoison line 15 else s2

/-- A line comes back from its pair buffer into its set (17 R410). One that was pinned before its lock comes back pinned even where eight
other ways of the set have been pinned since, which makes nine (R237; DESIGN CHOICE, log entry 44). -/
def State.l2Return (s : State) (line : Nat) : State :=
  match s.l2Find line with
  | some x => ({ s with l2 := s.l2.filter fun y => y.line != line }.l2Room line).l2Set x
  | none => s

/-- The line's directory entry once it is in the slice. -/
def State.dirOf (s : State) (line : Nat) : L2Line := (s.l2Find line).getD (L2Line.fresh line 0)

/-- Recall from an owning L1: it writes back and keeps a clean copy (Table 9.4). -/
def State.recall (s : State) (line : Nat) : State :=
  let x := s.dirOf line
  match x.owner with
  | none => s
  | some o =>
    (s.modUnit o fun y => { y with l1 := y.l1.map fun z => if z.line = line then { z with dirty := 0 } else z }).l2Set
      { x with owner := none, dirty := true, presence := x.presence ||| (1#24 <<< dieQuad (quadOf o)) }

/-- HOME_READ: a read by a core of the home die (Table 9.4). -/
def State.homeRead (s : State) (u line : Nat) : State :=
  let s1 := (s.l2Fill line false).recall line
  let x := s1.dirOf line
  s1.l2Set { x with presence := x.presence ||| (1#24 <<< dieQuad (quadOf u)) }

/-- A read that leaves no presence bit: by a unit without an L1, or an engine. -/
def State.homePeek (s : State) (line : Nat) : State := (s.l2Fill line false).recall line

/-- Send an RDC invalidation when REMOTE is set (R239). -/
def State.sendInval (s : State) (line : Nat) : State :=
  if (s.dirOf line).remote then
    s.modDie (otherDie (homeDie s (linePa line))) fun d => { d with inval := d.inval ++ [line] }
  else s

/-- HOME_OWNERSHIP: ownership for a core of the home die (Table 9.4). -/
def State.homeOwn (s : State) (u line : Nat) : State :=
  let s1 := s.l2Fill line false
  let x := s1.dirOf line
  let s2 := (s1.dropQuads (homeDie s (linePa line)) x.quads line (some u)).sendInval line
  s2.l2Set { x with presence := 1#24 <<< dieQuad (quadOf u), owner := some u, remote := false,
                    dirty := x.dirty || x.owner.isSome }

/-- HOME_RDC_READ: a read by the other die's RDC (Table 9.4). -/
def State.homeRdcRead (s : State) (line : Nat) : State :=
  let s1 := (s.l2Fill line false).recall line
  s1.l2Set { s1.dirOf line with remote := true }

/-- HOME_WRITE: a write performed in the slice: every copy invalidated first (Table 9.4). -/
def State.homeWrite (s : State) (line : Nat) : State :=
  let s1 := s.l2Fill line false
  let x := s1.dirOf line
  let s2 := (s1.dropQuads (homeDie s (linePa line)) x.quads line none).sendInval line
  s2.l2Set { x with presence := 0, owner := none, remote := false, dirty := true }

/-- Every L1 and RDC copy of a line gone (17 R410). -/
def State.dropCopies (s : State) (line : Nat) : State :=
  { s with units := s.units.map fun p => if p.2.l1.any fun y => y.line == line then (p.1, { p.2 with l1 := p.2.l1.filter fun y => y.line != line }) else p
           dies := s.dies.map fun p => (p.1, { p.2 with rdc := p.2.rdc.filter fun y => y.line != line }) }

/-! ### The remote-data cache -/

/-- RDC_INVALIDATE_APPLY: the oldest invalidation sent to a die drops its RDC copy and the L1 copies that
this copy supplied (R239). -/
def State.applyInval (s : State) (d : Nat) : State :=
  match (s.die d).inval with
  | [] => s
  | line :: rest => (s.rdcDrop d line).modDie d fun x => { x with inval := rest }

/-- Every invalidation sent to a die, applied in order. A reply on the same ordered stream arrives after
those sent before it (10 R259), so it finds them applied. -/
def State.applyInvals (s : State) (d : Nat) : State := (s.die d).inval.foldl (fun t _ => t.applyInval d) s

/-- The flits of a line that are poisoned at its home. -/
def State.lineBad (s : State) (line : Nat) : BitVec 4 :=
  (upTo 4).foldl (fun b i => if s.homeBad (4 * line + i) then b ||| (1#4 <<< i) else b) 0

/-- The RDC copy of a line, read from its home when it is absent; the evicted line's L1 copies go (R238). -/
def State.rdcLoad (s : State) (d line : Nat) : State :=
  match (s.die d).rdc.find? fun x => x.line == line with
  | some r => s.modDie d fun x => { x with rdc := r :: x.rdc.filter fun y => y.line != line }
  | none =>
    let s1 := (s.applyInvals d).homeRdcRead line
    let s2 :=
      match lruVictim (fun (x : RdcLine) => rdcSet x.line == rdcSet line) 8 (s1.die d).rdc with
      | some v => s1.rdcDrop d v.line
      | none => s1
    s2.modDie d fun x =>
      { x with rdc := { line := line, data := BitVec.ofNat 2048 (s2.get (linePa line) 256), bad := s2.lineBad line, quads := 0 }
                :: x.rdc }

def State.rdcFind (s : State) (d line : Nat) : Option RdcLine := (s.die d).rdc.find? fun x => x.line == line

/-! ### L1 fills -/

/-- Bits of sector k of a 256-byte copy from c, the other sector from old. -/
def mergeSector (k : Nat) (old c : BitVec 2048) : BitVec 2048 :=
  let mask : BitVec 2048 := (BitVec.allOnes 1024).setWidth 2048 <<< (1024 * k)
  (old &&& ~~~mask) ||| (c &&& mask)

/-- Flits of sector k from c, the others from old. -/
def mergeBad (k : Nat) (old c : BitVec 4) : BitVec 4 :=
  let mask : BitVec 4 := 3#4 <<< (2 * k)
  (old &&& ~~~mask) ||| (c &&& mask)

/-- Put a sector into a core's L1, evicting the set's least recently used line when it is full (R231, R232). A copy comes
with its poisoned flits. -/
def State.l1Insert (s : State) (u pa : Nat) (dirty : Bool) (copy : Option (BitVec 2048)) (bad : BitVec 4) : State :=
  let line := lineOf pa
  let k := sectorOf pa
  let bit : BitVec 2 := 1#2 <<< k
  let d : BitVec 2 := if dirty then bit else 0
  match s.l1Find u line with
  | some y =>
    let c := match y.copy, copy with
      | some o, some n => some (mergeSector k o n)
      | _, n => n
    s.modUnit u fun x =>
      { x with l1 := { y with valid := y.valid ||| bit, dirty := y.dirty ||| d, copy := c, bad := mergeBad k y.bad bad }
                      :: x.l1.filter fun z => z.line != line }
  | none =>
    let s1 :=
      match lruVictim (fun (x : L1Line) => l1Set x.line == l1Set line) 10 (s.unit u).l1 with
      | some v =>
        let s0 := s.l1Drop u v.line
        if v.dirty != 0 then
          let x := s0.dirOf v.line
          s0.l2Set { x with dirty := true, owner := if x.owner = some u then none else x.owner }
        else s0
      | none => s
    s1.modUnit u fun x => { x with l1 := { line := line, valid := bit, dirty := d, copy := copy, bad := bad } :: x.l1 }

/-- RDC_FILL: the other die's line through the RDC into a core's L1 (R238). -/
def State.rdcFill (s : State) (u pa : Nat) : State :=
  let d := unitDie u
  let line := lineOf pa
  let s1 := s.rdcLoad d line
  let s2 := s1.modDie d fun x =>
    { x with rdc := x.rdc.map fun r => if r.line = line then { r with quads := r.quads ||| (1#24 <<< dieQuad (quadOf u)) } else r }
  match s2.rdcFind d line with
  | some r => s2.l1Insert u pa false (some r.data) r.bad
  | none => s2

/-- L1_FILL: a missed sector of the own die into a core's L1 (R232). -/
def State.l1Fill (s : State) (u pa : Nat) : State :=
  if homeDie s pa == unitDie u then (s.homeRead u (lineOf pa)).l1Insert u pa false none 0 else s.rdcFill u pa

/-- The valid sector of a core's L1 that holds a byte. -/
def State.l1Hit (s : State) (u pa : Nat) : Option L1Line :=
  (s.l1Find u (lineOf pa)).filter fun x => x.valid.getLsbD (sectorOf pa)

/-- n bytes at a place of a line, from its copy or from the home's value. -/
def lineBytes (s : State) (copy : Option (BitVec 2048)) (pa n : Nat) : Nat :=
  match copy with
  | some c => c.toNat / 2 ^ (8 * (pa % 256)) % 2 ^ (8 * n)
  | none => s.get pa n

/-! ### Watches and reservations -/

/-- The hart number that no hart has: an engine, a tile stream or a station writes. -/
def noHart : Nat := 1000000

/-- The elements fetched ahead that come before the first one of a line: those from it on are fetched again (04 R117). -/
def StreamGen.upTo (g : StreamGen) (line : Nat) : StreamGen :=
  { g with ahead := g.ahead.takeWhile fun e => e.line != some line }

/-- What a write that performs to a line does to a hart: its watch is hit (12 R323), a reservation of another
agent is lost (03 Table 3.2), a mask wait on the line tests again, and its own streams fetch the line's elements again. -/
def Slot.sees (h : Slot) (own : Bool) (line : Nat) : Slot :=
  { h with
    whit := h.whit || h.wline == some line
    resv := if own then h.resv else h.resv.filter fun r => r.line != line
    sg := if own then h.sg.map fun p => (p.1, p.2.upTo line) else h.sg
    waitOn := if h.park = 5 ∧ h.waitOn = some line then none else h.waitOn }

/-- A write by a hart (or `noHart`) performs to a line. -/
def State.wrote (s : State) (who line : Nat) : State :=
  { s with harts := s.harts.map fun p => (p.1, p.2.sees (p.1 == who) line) }

/-! ### Reads and writes of bytes inside one sector -/

/-- A read that no cache but the home slice serves. An access of a range with PERM N to capacity memory fills nothing: it
goes to the port unless the slice holds the line (R229). -/
def State.readHome (s : State) (pa : Nat) (nc : Bool) : State :=
  if nc && regionOf pa == 2 && (s.l2Find (lineOf pa)).isNone then s else s.homePeek (lineOf pa)

/-- A flit is poisoned for an access that its home serves: at the home, or since a port is down that the access of a range with
PERM N goes to (R229, R245). -/
def homeBadAs (s : State) (nc : Bool) (f : Nat) : Bool :=
  s.homeBad f || (nc && (s.l2Find (f / 4)).isNone && !capacityUp s (64 * f))

/-- What a unit reads: `alloc` says that a core's miss fills L1; `nc` that no cache keeps the line (PERM N). -/
def State.readSector (s : State) (u pa n : Nat) (alloc nc : Bool) : State × Nat :=
  if 2 ^ 52 ≤ pa then (s, s.get pa n)
  else if isCore u then
    match s.l1Hit u pa with
    | some y => (if alloc then s.l1Touch u y.line else s, lineBytes s y.copy pa n)
    | none =>
      if nc then (s.readHome pa true, s.get pa n)
      else if alloc then
        let s1 := s.l1Fill u pa
        (s1, lineBytes s1 ((s1.l1Hit u pa).bind (·.copy)) pa n)
      else if homeDie s pa == unitDie u then (s.homeRead u (lineOf pa), s.get pa n)
      else
        let s1 := s.rdcLoad (unitDie u) (lineOf pa)
        (s1, lineBytes s1 ((s1.rdcFind (unitDie u) (lineOf pa)).map (·.data)) pa n)
  else if nc || homeDie s pa == unitDie u then (s.readHome pa nc, s.get pa n)
  else
    let s1 := s.rdcLoad (unitDie u) (lineOf pa)
    (s1, lineBytes s1 ((s1.rdcFind (unitDie u) (lineOf pa)).map (·.data)) pa n)

/-- Whether a flit is poisoned in the copy that a unit reads, once the copy is there (R245). -/
def copyBad (s : State) (u : Nat) (nc : Bool) (f : Nat) : Bool :=
  if 2 ^ 52 ≤ 64 * f then s.homeBad f
  else
    let home := homeBadAs s nc f
    match if isCore u then s.l1Hit u (64 * f) else none with
    | some y => if y.copy.isSome then y.bad.getLsbD (f % 4) else s.homeBad f
    | none =>
      if nc || homeDie s (64 * f) == unitDie u then home
      else
        match s.rdcFind (unitDie u) (f / 4) with
        | some r => r.bad.getLsbD (f % 4)
        | none => home

/-- The bytes of a copy with n bytes at a place replaced. -/
def patchCopy (c : BitVec 2048) (pa n v : Nat) : BitVec 2048 :=
  let sh := 8 * (pa % 256)
  let mask : BitVec 2048 := BitVec.ofNat 2048 ((2 ^ (8 * n) - 1) * 2 ^ sh)
  (c &&& ~~~mask) ||| (BitVec.ofNat 2048 (v % 2 ^ (8 * n) * 2 ^ sh))

/-- A core's L1 copy of a line of the other die takes the core's own store as it passes (R234); a whole sector loses its
poison (R245). -/
def L1Line.patch (y : L1Line) (pa n v : Nat) : L1Line :=
  { y with copy := y.copy.map fun c => patchCopy c pa n v
           bad := if pa % 128 = 0 ∧ n = 128 then mergeBad (sectorOf pa) y.bad 0 else y.bad }

/-- The bytes of a write at the home: in place, poison of whole sectors cleared, seen by the harts that watch. A write of
PERM N to capacity memory that finds its port down is discarded and sets ERR (R229). -/
def State.putHome (s : State) (who pa n v : Nat) (nc : Bool) : State :=
  if nc && (s.l2Find (lineOf pa)).isNone && !capacityUp s pa then portError s (capacityPort s pa)
  else ((s.put pa n v).clearPoison pa n).wrote who (lineOf pa)

/-- A write by slot `w.slot` of a unit performs (R232, R234, R475). `bypass`: at the home slice, nothing kept in L1 (STBY);
`nc`: no cache keeps the line (PERM N). Writes to the other die and by units without an L1 go through and await a reply. -/
def State.writeSector (s : State) (u : Nat) (w : WtAccess) (v : Nat) (bypass nc : Bool) : State :=
  let who := if w.slot < 8 then hartKey u w.slot else noHart
  let pa := w.pa
  if 2 ^ 52 ≤ pa then ((s.put pa w.n v).clearPoison pa w.n).wrote who (lineOf pa)
  else
    let line := lineOf pa
    let own := homeDie s pa == unitDie u
    let direct := nc && regionOf pa == 2 && (s.l2Find line).isNone
    let s1 :=
      if isCore u && own && !bypass && !nc then (s.homeOwn u line).l1Insert u pa true none 0
      else
        let s0 := if direct then s else s.homeWrite line
        if isCore u && own then s0
        else
          let s0 := s0.modUnit u fun x =>
            { x with l1 := x.l1.map (fun y => if y.line = line then y.patch pa w.n v else y), wt := x.wt ++ [w] }
          if bypass || nc then s0.l1Drop u line else s0
    s1.putHome who pa w.n v nc

/-- Pieces of [pa, pa + n - 1] that stay inside one 128-byte sector. -/
def sectors (pa : Nat) : Nat → Nat → List (Nat × Nat)
  | 0, _ => []
  | _, 0 => []
  | fuel + 1, n =>
    let m := min n (128 - pa % 128)
    (pa, m) :: sectors (pa + m) fuel (n - m)

/-- A read of any length, sector by sector. -/
def State.readSpan (s : State) (u pa n : Nat) (alloc nc : Bool) : State × Nat :=
  (sectors pa (n / 128 + 2) n).foldl
    (fun st p =>
      let (t, v) := st.1.readSector u p.1 p.2 alloc nc
      (t, st.2 + v * 2 ^ (8 * (p.1 - pa)))) (s, 0)

/-- A write of the `w.n` bytes from `w.pa`, sector by sector. -/
def State.writeSpan (s : State) (u : Nat) (w : WtAccess) (v : Nat) (bypass nc : Bool) : State :=
  (sectors w.pa (w.n / 128 + 2) w.n).foldl
    (fun t p => t.writeSector u { w with va := w.va + (p.1 - w.pa), pa := p.1, n := p.2 }
      (v / 2 ^ (8 * (p.1 - w.pa)) % 2 ^ (8 * p.2)) bypass nc) s

/-- The write of an engine, a station or an atomic at the home slice: it awaits no reply. -/
def State.homeStore (s : State) (pa n v : Nat) : State :=
  (sectors pa (n / 128 + 2) n).foldl
    (fun t p =>
      let x := v / 2 ^ (8 * (p.1 - pa)) % 2 ^ (8 * p.2)
      let t1 := if 2 ^ 52 ≤ pa then t else t.homeWrite (lineOf p.1)
      t1.putHome noHart p.1 p.2 x false) s

/-- The read of an engine or a station at the home slice. -/
def State.homeLoad (s : State) (pa n : Nat) : State × Nat :=
  if 2 ^ 52 ≤ pa then (s, s.get pa n)
  else ((sectors pa (n / 128 + 2) n).foldl (fun t p => t.homePeek (lineOf p.1)) s, s.get pa n)

/-- An engine's access of a range with PERM N allocates nothing: past a line that its slice does not hold it goes to memory, in
region 2 to the port (R229, 11 R279). -/
def pastHome (s : State) (pa : Nat) (nc : Bool) : Bool := nc && decide (pa < 2 ^ 52) && (s.l2Find (lineOf pa)).isNone

/-- An engine's read of n bytes of one line. -/
def State.engineLoad (s : State) (pa n : Nat) (nc : Bool) : State × Nat := if pastHome s pa nc then (s, s.get pa n) else s.homeLoad pa n

/-- An engine's write of n bytes of one line. -/
def State.engineStore (s : State) (pa n v : Nat) (nc : Bool) : State :=
  if pastHome s pa nc then s.putHome noHart pa n v true else s.homeStore pa n v

/-- An atomic read-modify-write at the home slice by slot k of unit u (R235): the line is recalled from every
L1, the caller's own included. The reply that brings the value across the die link comes after the invalidations
sent before it (10 R259), so they are applied. -/
def State.homeAtomic (s : State) (u k pa n : Nat) (f : Nat → Option Nat) : State × Nat :=
  let old := s.get pa n
  let s2 :=
    if 2 ^ 52 ≤ pa then s
    else
      let s1 := s.homeWrite (lineOf pa)
      if homeDie s pa == unitDie u then s1 else s1.applyInvals (unitDie u)
  match f old with
  | some v => (s2.putHome (hartKey u k) pa n v false, old)
  | none => (s2, old)

end Sys2Proof.Machine
end

