-- ==== Sys2Proof/Machine/Translate.lean ====
section
/-! DEFINITION. Ranges: descriptors, range tables, walks, the translation of one access, range broadcasts and
what a running order does to an access (15 R347 to R364). -/

namespace Sys2Proof.Machine

open Sys2Proof

/-! ### Descriptors (Table 15.1) -/

/-- The held-zero bits of word i of a descriptor. -/
def descHz (i : Nat) : Nat :=
  match i with
  | 0 => 0xFF000000000000FF
  | 1 => 0xFF000000000000FF
  | 2 => 0xFF
  | 3 => 0xFF
  | 4 => 0xFF000000000000FF
  | 5 => 0xFF000000000000FF
  | 6 => 0x0000FFF8FFFFFEE0
  | _ => 0xFF000000000000FF

/-- A descriptor's fields, read from its 64 bytes. -/
def descOf (pa v : Nat) : RangeEntry :=
  let w (i : Nat) : Word := w64 (v / 2 ^ (64 * i))
  { desc := pa, vbase := wfld (w 0) 55 8 * 256, vlimit := wfld (w 1) 55 8 * 256,
    offset := w 2 &&& 0xFFFFFFFFFFFFFF00#64, noff := w 3 &&& 0xFFFFFFFFFFFFFF00#64,
    rlo := wfld (w 4) 55 8 * 256, rhi := wfld (w 5) 55 8 * 256, nowin := wbit (w 6) 8,
    r := wbit (w 6) 0, w := wbit (w 6) 1, x := wbit (w 6) 2, s := wbit (w 6) 3, n := wbit (w 6) 4,
    state := BitVec.ofNat 3 (wfld (w 6) 34 32), job := BitVec.ofNat 16 (wfld (w 6) 63 48),
    cursor := wfld (w 7) 55 8 * 256 }

/-- Every held-zero bit of a descriptor's 64 bytes is zero. -/
def descHzOk (v : Nat) : Bool := (upTo 8).all fun i => v / 2 ^ (64 * i) % 2 ^ 64 &&& descHz i == 0

/-- The 64 bytes of a descriptor. -/
def descBits (e : RangeEntry) : Nat :=
  ofWords [w64 e.vbase, w64 e.vlimit, e.offset, e.noff, w64 e.rlo, w64 e.rhi,
    w64 (bitAt e.r 0 + bitAt e.w 1 + bitAt e.x 2 + bitAt e.s 3 + bitAt e.n 4 + bitAt e.nowin 8
      + put e.state.toNat 32 + put e.job.toNat 48), w64 e.cursor]

/-- States of a range. -/
def stNormal : BitVec 3 := 0
def stMoving : BitVec 3 := 1
def stReturning : BitVec 3 := 2
def stOutbound : BitVec 3 := 3
def stInvalid : BitVec 3 := 4

/-- VA plus a signed offset, modulo 2^64. -/
def addOff (va : Nat) (off : Word) : Nat := (w64 va + off).toNat

/-- The range's last byte. -/
def RangeEntry.last (e : RangeEntry) : Nat := e.vlimit + 255
def RangeEntry.covers (e : RangeEntry) (va : Nat) : Bool := decide (e.vbase ≤ va) && decide (va ≤ e.last)
def RangeEntry.meets (e : RangeEntry) (lo hi : Nat) : Bool := decide (e.vbase ≤ hi) && decide (lo ≤ e.last)

/-- Well formed (R348), the held-zero bits apart. -/
def RangeEntry.wellFormed (s : State) (e : RangeEntry) : Bool :=
  decide (e.state.toNat ≤ 4) && decide (e.vbase ≤ e.vlimit) && decide (e.last < windowBlock)
    && spanBacked s (addOff e.vbase e.offset) (addOff e.last e.offset)
    && (if e.state = stMoving || e.state = stReturning then
          spanBacked s (addOff e.vbase e.noff) (addOff e.last e.noff) else true)
    && !(e.s && e.x) && !(e.s && e.n)
    && (e.nowin || (decide (e.vbase ≤ e.rlo) && decide (e.rlo ≤ e.rhi) && decide (e.rhi ≤ e.vlimit)))

/-- A descriptor read from memory, when its 64 bytes are well formed. -/
def readDesc (s : State) (pa : Nat) : Option RangeEntry :=
  let v := s.get pa 64
  let e := descOf pa v
  if descHzOk v && e.wellFormed s then some e else none

/-- A PA at which tree nodes, descriptors and blocks may lie: region 0 or 1, backed, aligned. -/
def homePaOk (s : State) (pa align : Nat) : Bool := decide (regionOf pa < 2) && backed s pa && pa % align == 0

/-- The device writes a descriptor's fields at its home slice. -/
def writeDesc (s : State) (e : RangeEntry) : State := s.homeStore e.desc 64 (descBits e)

/-! ### The range tree (R351, R352) -/

/-- The PA of byte va under an entry's state: below the cursor of a moving or returning range, NOFF. -/
def RangeEntry.pa (e : RangeEntry) (va : Nat) : Nat :=
  if (e.state = stMoving || e.state = stReturning) && decide (va < e.cursor) then addOff va e.noff
  else addOff va e.offset

/-- A walk from a node: at most `fuel` levels. -/
def walkFrom (s : State) (va : Nat) (job : BitVec 16) : Nat → Nat → Option RangeEntry
  | 0, _ => none
  | fuel + 1, n =>
    if !homePaOk s n 256 then none
    else
      let h := s.getW n
      let kind := wfld h 63 56
      let cnt := wfld h 55 48
      if kind = 2 && 2 ≤ cnt && cnt ≤ 16 then
        let i := ((upTo (cnt - 1)).filter fun j => decide ((s.getW (n + 8 * (j + 1))).toNat ≤ va)).length
        walkFrom s va job fuel (s.getW (n + 8 * (16 + i))).toNat
      else if kind = 1 && 1 ≤ cnt && cnt ≤ 3 then
        ((upTo cnt).filterMap fun j => readDesc s (n + 64 * (j + 1))).find? fun e => e.covers va && e.job == job
      else none

/-- The root of job 0's tree: SYSROOT, when VALID (16 R366). -/
def sysRoot? (s : State) : Option Nat :=
  if wbit s.pkg.sysroot 63 then some (wfld s.pkg.sysroot 51 8 * 256) else none

/-- The VA of a job's descriptor, from its valid job-table entry (16 R366). -/
def jobDescVa? (s : State) (j : BitVec 16) : Option Nat :=
  if wbit s.pkg.jobtab 63 then
    let e := s.getW (wfld s.pkg.jobtab 51 12 * 4096 + 8 * j.toNat)
    if wbit e 63 then some (wfld e 55 12 * 4096) else none
  else none

/-- The new place of an old PA that a running move has copied, as the old home redirects a request that comes with it
until the switch has completed; any other PA itself (R363). -/
def redirectPa (s : State) (pa : Nat) : Nat :=
  let hit (o : Order) : Option Nat :=
    let base := addOff o.entry.vbase o.entry.offset
    if o.form = .move ∧ base ≤ pa ∧ o.entry.vbase + (pa - base) < o.pos ∧ o.entry.vbase + (pa - base) ≤ o.entry.last
    then some (addOff (o.entry.vbase + (pa - base)) o.noff) else none
  ((upTo 6).findSome? fun m => (s.station m).orders.findSome? hit).getD pa

/-- The checks of R350 for a read of a byte. -/
def RangeEntry.readable (e : RangeEntry) (va : Nat) : Bool :=
  e.state != stInvalid && e.r && !e.s
    && (e.state == stReturning || !(e.nowin || decide (va < e.rlo) || decide (e.rhi + 255 < va)))

/-- The entry of job 0's ranges under which a byte of a job descriptor may be read, and the byte's VA (16 R366, R476). -/
def jobDescEntry? (s : State) (j : BitVec 16) (off : Nat) : Option (Nat × RangeEntry) :=
  match jobDescVa? s j, sysRoot? s with
  | some va, some root => ((walkFrom s (va + off) 0 8 root).filter fun e => e.readable (va + off)).map fun e => (va + off, e)
  | _, _ => none

/-- Where a byte of a job descriptor lies. -/
def jobDescPa? (s : State) (j : BitVec 16) (off : Nat) : Option Nat := (jobDescEntry? s j off).map fun p => redirectPa s (p.2.pa p.1)

/-- A read of a byte of a job descriptor waits: at a return cursor (Table 15.4), or for a line that a VSTPAIR holds (17 R410). What a
core keeps of its job (MAXTILES, the LC2 table, the station map of `hxcoord`) it reads without, where the bytes lie. -/
def jobDescWaits (s : State) (j : BitVec 16) (off : Nat) : Bool :=
  match jobDescEntry? s j off with
  | some (va, e) => (e.state == stReturning && decide (e.cursor ≤ va)) || pairLocked s (lineOf (redirectPa s (e.pa va)))
  | none => false

/-- Word i of a job's descriptor. -/
def jobWord? (s : State) (j : BitVec 16) (i : Nat) : Option Word := (jobDescPa? s j (8 * i)).map s.getW

/-- RootOf (R352): SYSROOT for job 0, TREEROOT of the descriptor otherwise. -/
def rootOf? (s : State) (j : BitVec 16) : Option Nat :=
  if j = 0 then sysRoot? s else (jobWord? s j 2).map fun w => wfld w 51 8 * 256

/-- Walk (R352): the entry of the range that covers an address, or none for NO_RANGE, and while the walk waits for TREEROOT. -/
def walk? (s : State) (va : Nat) (j : BitVec 16) : Option RangeEntry :=
  match rootOf? s j with
  | some root => if j != 0 && jobDescWaits s j 16 then none else walkFrom s va j 8 root
  | none => none

/-! ### Range tables (R349) -/

/-- The range table of a unit, or of port p as number 244 + p. -/
def State.tableOf (s : State) (u : Nat) : List RangeEntry := if u < 244 then (s.unit u).ranges else (s.port (u - 244)).ranges
def State.setTable (s : State) (u : Nat) (r : List RangeEntry) : State :=
  if u < 244 then s.modUnit u fun x => { x with ranges := r } else s.modPort (u - 244) fun p => { p with ranges := r }

/-- Entries of a unit's range table. -/
def tableSize (u : Nat) : Nat := if isApp u then 128 else 64

/-- Lookup: the entry of a job that covers an address, the lower VBASE of two. -/
def lookup? (s : State) (u : Nat) (j : BitVec 16) (va : Nat) : Option RangeEntry :=
  ((s.tableOf u).filter fun e => e.job == j && e.covers va).foldl
    (fun b e => match b with
      | none => some e
      | some f => if e.vbase < f.vbase then some e else some f) none

/-- An entry made the most recently used of its table. -/
def touchRange (s : State) (u : Nat) (e : RangeEntry) : State :=
  s.setTable u (e :: (s.tableOf u).filter fun f => f != e)

/-- Install: a free entry, or the least recently used one. -/
def installRange (s : State) (u : Nat) (e : RangeEntry) : State :=
  s.setTable u (e :: (s.tableOf u).take (tableSize u - 1))

/-- Lookup, and on a miss the walk that fills the table. -/
def findRange (s : State) (u : Nat) (j : BitVec 16) (va : Nat) : State × Option RangeEntry :=
  match lookup? s u j va with
  | some e => (touchRange s u e, some e)
  | none =>
    match walk? s va j with
    | some e => (installRange s u e, some e)
    | none => (s, none)

/-! ### Broadcasts (R353) -/

/-- Units that hold a range table that broadcasts reach, and the ports (unit 244 + p). -/
def tableUnits : Nat := 252

/-- A range broadcast is sent: it reaches each table in order. -/
def State.broadcast (s : State) (b : Bcast) : State := { s with bcasts := s.bcasts ++ [b] }

/-- An entry shortened to the lower part, its window clipped (R356). -/
def shorten (e lower : RangeEntry) : RangeEntry :=
  if e.nowin || decide (lower.vlimit < e.rlo) then { e with vlimit := lower.vlimit, nowin := true, rlo := e.rlo, rhi := e.rhi }
  else { e with vlimit := lower.vlimit, rhi := min e.rhi lower.vlimit }

/-- The part of an entry at or above xb (R356), under its own descriptor (R349). -/
def upperPart (e : RangeEntry) (xb desc : Nat) : RangeEntry :=
  if e.nowin || decide (e.rhi < xb) then { e with desc := desc, vbase := xb, nowin := true }
  else { e with desc := desc, vbase := xb, rlo := max e.rlo xb }

/-- What a table does when a broadcast reaches it (R353 to R361). -/
def applyBcast (size : Nat) (t : List RangeEntry) (b : Bcast) : List RangeEntry :=
  match b with
  | .drop job lo hi => t.filter fun e => !(e.job == job && e.meets lo hi)
  | .dropBase job vbase => t.filter fun e => !(e.job == job && e.vbase == vbase)
  | .split lower xb desc =>
    let old (e : RangeEntry) : Bool := e.job == lower.job && e.vbase == lower.vbase && decide (xb ≤ e.vlimit)
    let t1 := t.map fun e => if old e then shorten e lower else e
    match t.find? old with
    | some e => if t1.length < size then t1 ++ [upperPart e xb desc] else t1
    | none => t1
  | .merge upperBase merged =>
    let old (e : RangeEntry) : Bool := e.job == merged.job && (e.vbase == merged.vbase || e.vbase == upperBase)
    if t.any old then merged :: t.filter fun e => !old e else t
  | .update n => t.map fun e => if e.job = n.job ∧ e.vbase = n.vbase then n else e
  | .cursor job vbase c => t.map fun e => if e.job = job ∧ e.vbase = vbase then { e with cursor := max e.cursor c } else e

/-- How many broadcasts a table has applied. The ports and units share the package's list. -/
def State.seen (s : State) (u : Nat) : Nat := if u < 244 then (s.unit u).bseen else s.bcasts.length

/-- RANGE_BROADCAST_ARRIVAL: the next broadcast reaches a unit's table; the port tables take it with unit 0. -/
def State.bcastArrive (s : State) (u : Nat) : State :=
  match s.bcasts[(s.unit u).bseen]? with
  | none => s
  | some b =>
    let s1 := (s.setTable u (applyBcast (tableSize u) (s.tableOf u) b)).modUnit u fun x => { x with bseen := x.bseen + 1 }
    if u = 0 then
      (upTo 8).foldl (fun t p => t.setTable (244 + p) (applyBcast 64 (t.tableOf (244 + p)) b)) s1
    else s1

/-- Every table has applied the first n broadcasts. -/
def allSeen (s : State) (n : Nat) : Bool := (upTo 244).all fun u => decide (n ≤ (s.unit u).bseen)

/-- A lock, in any core, of an operation of the range's job under the entry of this VBASE (of any, if none) that
meets a span (the third part of the drain rule, R353). -/
def locksUnder (s : State) (job : BitVec 16) (vbase : Option Nat) (lo hi : Nat) (destOnly : Bool) : Bool :=
  s.units.any fun p =>
    p.2.job == job && p.2.locks.any fun l =>
      (vbase.isNone || vbase == some l.vbase) && decide (l.lo ≤ hi) && decide (lo ≤ l.hi) && (l.dest || !destOnly)

/-- A tile memory form that has looked its places up and has not performed: a load until it completes, a store until its
lines are written. -/
def tileInFlight (r : RobEntry) : Bool :=
  r.phase != .renamed && (r.writes || r.phase != .complete)

/-- The closed span of physical addresses of [lo, hi] under an offset, when it is known, meets n bytes at pa. -/
def offMeets (off : Option Word) (lo hi pa n : Nat) : Bool :=
  match off with
  | none => true
  | some f => decide (addOff lo f < pa + n) && decide (pa ≤ addOff hi f)

/-- The lines that a VSTPAIR in the pipe of an update core has still to commit. -/
def pairLines (s : State) (u : Nat) : List Nat :=
  match (s.hart u 0).pipe with
  | .pair _ lines _ _ => lines
  | _ => []

/-- An access in flight to a span (R353): a tile form from its lookup until it has performed, a retired tile store still
writing, a write-through store awaiting its reply, or a VSTPAIR's lines. Without a known offset every write-through of the job
counts. -/
def inFlight (s : State) (job : BitVec 16) (off : Option Word) (lo hi : Nat) : Bool :=
  s.units.any fun p =>
    p.2.job == job
      && (p.2.fe.rob.any (fun r => tileInFlight r && r.env.any fun q => decide (q.1 ≤ hi) && decide (lo ≤ q.2))
          || p.2.fe.writing.any (fun w => w.env.any fun q => decide (q.1 ≤ hi) && decide (lo ≤ q.2))
          || p.2.wt.any (fun q => offMeets off lo hi q.pa q.n)
          || (pairLines s p.1).any fun l => offMeets off lo hi (linePa l) 256)

/-- The drain rule for the bytes [lo, hi] under an entry, after n broadcasts. -/
def drained (s : State) (job : BitVec 16) (vbase : Option Nat) (off : Option Word) (lo hi n : Nat) (destOnly : Bool) : Bool :=
  allSeen s n && !locksUnder s job vbase lo hi destOnly && !inFlight s job off lo hi

/-! ### Orders that an access meets (R362 to R364) -/

/-- An order of a range, of a kind, with the station that holds it and its place there. -/
def findOrder (s : State) (job : BitVec 16) (vbase : Nat) (p : Order → Bool) : Option (Nat × Nat × Order) :=
  (upTo 6).findSome? fun m =>
    match findPos (fun o : Order => o.entry.job == job && o.entry.vbase == vbase && p o) (s.station m).orders with
    | some i => ((s.station m).orders[i]?).map fun o => (m, i, o)
    | none => none

/-- The order of a form that gave a table entry its offsets: a range may have a later order beside one that has switched. -/
def orderOf (s : State) (form : OrderForm) (e : RangeEntry) : Option (Nat × Nat × Order) :=
  findOrder s e.job e.vbase fun o => o.form == form && o.entry.offset == e.offset && o.noff == e.noff

/-- ABORTED: the word that a cancelled order's CWORD receives (R364, 11 Table 11.6). -/
def abortedWord (va : Nat) : Word := w64 (0x8002000000000000 + va % 2 ^ 56)

/-- The cancel of an outbound order before its switch: STATE normal, ABORTED to CWORD (R364). -/
def cancelOrder (s : State) (m i : Nat) (o : Order) (va : Nat) : State :=
  let e := { o.entry with state := stNormal }
  let s1 := (writeDesc s { e with cursor := o.pos }).broadcast (.update { e with cursor := o.pos })
  (s1.homeStore o.cword 8 (abortedWord va).toNat).modStation m fun x => { x with orders := dropAt x.orders i }

/-- A cancel waits while a line that it writes is locked for a joint commit (17 R410). -/
def cancelWaits (s : State) (o : Order) : Bool := pairLocked s (lineOf o.cword) || pairLocked s (lineOf o.entry.desc)

/-- The redirect that the old home of a moving range gives: the engine's cursor (R363). -/
def redirectCursor (s : State) (e : RangeEntry) (va : Nat) : Option Nat :=
  match orderOf s .move e with
  | some (_, _, o) => if va < o.pos then some o.pos else none
  | none => none

/-! ### Translation of one access (R350) -/

/-- What an access does, for its permission. -/
structure Acc where
  r : Bool
  w : Bool
  x : Bool
  s : Bool
  deriving DecidableEq, Repr

def Acc.load : Acc := { r := true, w := false, x := false, s := false }
def Acc.store : Acc := { r := false, w := true, x := false, s := false }
def Acc.both : Acc := { r := true, w := true, x := false, s := false }
def Acc.fetch : Acc := { r := false, w := false, x := true, s := false }
def Acc.sread : Acc := { r := true, w := false, x := false, s := true }
def Acc.swrite : Acc := { r := false, w := true, x := false, s := true }

/-- The outcome of a translation: a place, a wait, or a cause. -/
inductive Tr where
  | ok (pa : Nat) (e : RangeEntry)
  | wait
  | raise (cause : Nat) (tval : Nat)
  deriving DecidableEq, Repr

def cIllegal : Nat := 0x01
def cPrefix : Nat := 0x02
def cNoRange : Nat := 0x03
def cPermission : Nat := 0x04
def cResidency : Nat := 0x05
def cRangeConflict : Nat := 0x06
def cSendqFull : Nat := 0x07
def cInboxOverflow : Nat := 0x08
def cMisaligned : Nat := 0x09
def cPoison : Nat := 0x0A
def cFetchNotArrived : Nat := 0x0C
def cBarrierMisuse : Nat := 0x0D
def cLeaseOverrun : Nat := 0x0E
def cWindow : Nat := 0x0F
def cStampWindow : Nat := 0x10
def cQueueUnbound : Nat := 0x11
def cEcall : Nat := 0x12
def cBreak : Nat := 0x13
def cPreempt : Nat := 0x14
def cWatchdog : Nat := 0x16
def cDoubleFault : Nat := 0x17

/-- StateRule (Table 15.4) for a byte that passed the checks. A write under an outbound entry whose order is gone, cancelled
before, goes on at OFFSET. -/
def stateRule (s : State) (u : Nat) (e : RangeEntry) (va : Nat) (a : Acc) : State × Tr :=
  if e.state = stNormal then (s, .ok (addOff va e.offset) e)
  else if e.state = stMoving then
    if va < e.cursor then (s, .ok (addOff va e.noff) e)
    else
      match redirectCursor s e va with
      | some c =>
        let e1 := { e with cursor := c }
        let t := (s.tableOf u).map fun f => if f = e then e1 else f
        (s.setTable u t, .ok (addOff va e.noff) e1)
      | none => (s, .ok (addOff va e.offset) e)
  else if e.state = stReturning then
    if va < e.cursor then (s, .ok (addOff va e.noff) e) else (s, .wait)
  else if e.state = stOutbound then
    if a.w then
      match orderOf s .offload e with
      | some (m, i, o) =>
        if o.phase = .switched || cancelWaits s o then (s, .wait) else (cancelOrder s m i o va, .ok (addOff va e.offset) e)
      | none => (s, .ok (addOff va e.offset) e)
    else (s, .ok (addOff va e.offset) e)
  else (s, .raise cNoRange va)

/-- Translate (R350): one byte of a job's access by unit u, outside the windows. -/
def translate (s : State) (u : Nat) (j : BitVec 16) (va : Nat) (a : Acc) : State × Tr :=
  if 2 ^ 56 ≤ va || windowBlock ≤ va then (s, .raise cNoRange va)
  else
    match findRange s u j va with
    | (s1, none) => (s1, if j != 0 && jobDescWaits s j 16 then .wait else .raise cNoRange va)
    | (s1, some e) =>
      if e.state = stInvalid then (s1, .raise cNoRange va)
      else if (a.r && !e.r) || (a.w && !e.w) || (a.x && !e.x) || a.s != e.s then (s1, .raise cPermission va)
      else if e.state != stReturning && (e.nowin || decide (va < e.rlo) || decide (e.rhi + 255 < va)) then
        (s1, .raise cResidency va)
      else stateRule s1 u e va a

end Sys2Proof.Machine
end

