-- ==== Sys2Proof/Machine/Envelope.lean ====
section
/-! DEFINITION. Envelopes of tile memory forms, as closed spans of virtual addresses (01 R40, 06, 07 R211). -/

namespace Sys2Proof.Machine

open Sys2Proof

/-- BASE plus OFFSET, modulo 2^64. -/
def TcwEntry.addr0 (e : TcwEntry) : Nat :=
  (e.base + (Tcw.offset ⟨e.tcw⟩).signExtend 64).toNat

/-- Rows and row bytes of a form, with 0 meaning 64 rows and 128 bytes. -/
def tcwRows (t : Tcw) : Nat := if t.rows = 0 then 64 else t.rows.toNat
def tcwCols (t : Tcw) : Nat := if t.cols = 0 then 128 else t.cols.toNat

/-- The first byte of row i of a box: a + i·s, modulo 2^64. -/
def rowAddr (a : Nat) (stride : Word) (i : Nat) : Nat := (w64 a + stride * w64 i).toNat

/-- The envelope of a strided box (R40), on addresses taken as numbers modulo 2^64. -/
def boxEnv (a : Nat) (stride : Word) (r b : Nat) : Nat × Nat :=
  if stride.msb then (rowAddr a stride (r - 1), a + b - 1) else (a, rowAddr a stride (r - 1) + b - 1)

/-- Whether a tile form reads or writes memory. -/
def tileReads (i : Instr) : Bool :=
  match i with
  | .tld _ | .tldh _ | .tldm _ | .tgath _ | .trest _ | .tmmad _ => true
  | _ => false
def tileWrites (i : Instr) : Bool :=
  match i with
  | .tst _ | .tsave _ => true
  | _ => false

/-- The envelope of a captured tile form; `wide` is the shape of TSAVE's source. -/
def tileEnv (s : State) (u : Nat) (i : Instr) (e : TcwEntry) (wide : Bool) : List (Nat × Nat) :=
  let t : Tcw := ⟨e.tcw⟩
  let a := e.addr0
  match i with
  | .tld _ | .tldh _ | .tldm _ | .tst _ => [boxEnv a e.stride (tcwRows t) (tcwCols t)]
  | .tgath _ =>
    let span :=
      if coreWindow ≤ a ∧ a < coreWindow + 0x80000 then (coreWindow, coreWindow + 0x7FFFF)
      else if quadWindow ≤ a ∧ a < quadWindow + 0x200000 then (quadWindow, quadWindow + 0x1FFFFF)
      else
        match (findRange s u (s.unit u).job a).2 with
        | some r => (r.vbase, r.last)
        | none => (a, a)
    [(e.aux.toNat, e.aux.toNat + 4 * (tcwRows t) - 1), span]
  | .tsave _ => [(a, a + (if wide then 24576 else 8192) - 1)]
  | .trest _ => [(a, a + (if t.wide then 24576 else 8192) - 1)]
  | .tmmad _ => [boxEnv a e.stride 64 128]
  | _ => []

/-- The envelope of an entry. That of a TGATH that has not issued follows its range, which may have grown since its rename (06 R179,
15 R355, R357). -/
def envNow (s : State) (u : Nat) (r : RobEntry) : List (Nat × Nat) :=
  match r.i, r.phase with
  | .tgath _, .renamed => tileEnv s u r.i r.e false
  | _, _ => r.env

/-- Two closed spans overlap. -/
def spansMeet (a b : Nat × Nat) : Bool := decide (a.1 ≤ b.2) && decide (b.1 ≤ a.2)
def envMeets (xs ys : List (Nat × Nat)) : Bool := xs.any fun x => ys.any fun y => spansMeet x y

/-! ### Shapes of tile registers (R22, R38, R167) -/

def TileFE.entry (fe : TileFE) (r : Nat) : Option RobEntry := fe.rob.find? fun x => x.id == r

/-- The current mapping of a tile register. -/
def TileFE.src (fe : TileFE) (t : BitVec 4) : Src :=
  match (fe.rob.filter fun x => x.dest == some t.toNat).getLast? with
  | some r => .rob r.id
  | none => .arch (fget fe.tiles t.toNat Tile.reset)

/-- The shape of a number of physical slots. -/
def shapeOf (slots : Nat) : Shape :=
  match slots with
  | 1 => .narrow
  | 2 => .halo
  | 3 => .wide
  | _ => .unmapped
def slotsOf (sh : Shape) : Nat :=
  match sh with
  | .unmapped => 0
  | .narrow => 1
  | .halo => 2
  | .wide => 3

def TileFE.shape (fe : TileFE) (x : Src) : Shape :=
  match x with
  | .none => .unmapped
  | .arch t => t.shape
  | .rob r => ((fe.entry r).map fun e => shapeOf e.slots).getD .unmapped

/-- The shape that a form gives its destination: none without a destination; TMOV copies its source's. -/
inductive DestForm where
  | none
  | copy
  | shape (sh : Shape)
  deriving DecidableEq, Repr

def destForm (i : Instr) (t : Tcw) : DestForm :=
  match i with
  | .tst _ | .tsave _ | .tredQueue _ | .tfence _ | .eset _ | .esetImm _ | .skset _ | .skget _ | .vacantEncoding _ _ => .none
  | .tldh _ => .shape .halo
  | .trest _ | .tzero _ => .shape (if t.wide then .wide else .narrow)
  | .tmov _ => .copy
  | .tmma _ | .tmmas _ | .tmmaw _ | .tmmad _ => .shape .wide
  | _ => .shape .narrow

/-- The shape of a tile register after captured words that have not been renamed, newest first. -/
def pendShape (fe : TileFE) : List TcwEntry → BitVec 4 → Shape
  | [], r => fe.shape (fe.src r)
  | e :: older, r =>
    let t : Tcw := ⟨e.tcw⟩
    if t.td = r then
      match destForm (decodeTcw e.tcw) t with
      | .shape sh => sh
      | .copy =>
        match pendShape fe older t.ta with
        | .unmapped => .narrow
        | sh => sh
      | .none => pendShape fe older r
    else pendShape fe older r

/-- Whether a captured word that has not been renamed holds back an access to [lo, hi]; `older` is what was captured before
it, newest first. -/
def queueHolds (s : State) (u lo hi : Nat) : List TcwEntry → List TcwEntry → Bool
  | _, [] => false
  | older, e :: rest =>
    let i := decodeTcw e.tcw
    let wide := match i with
      | .tsave t => pendShape (s.unit u).fe older t.ta == .wide
      | _ => false
    envMeets (tileEnv s u i e wide) [(lo, hi)] || (match i with | .tfence _ => true | _ => false)
      || queueHolds s u lo hi (e :: older) rest

/-- Whether slot 0's tile stream holds back a scalar access of slot 0 to [lo, hi] (01 R45): an older tile memory
form whose envelope meets it, a retired store still writing it, or a TFENCE not yet retired. -/
def tileHolds (s : State) (u lo hi : Nat) : Bool :=
  let fe := (s.unit u).fe
  fe.rob.any (fun r => envMeets (envNow s u r) [(lo, hi)] || (match r.i with | .tfence _ => true | _ => false))
    || fe.writing.any (fun w => envMeets w.env [(lo, hi)])
    || queueHolds s u lo hi [] (fe.replay ++ fe.inq)

end Sys2Proof.Machine
end

