-- ==== Sys2Proof/Machine/Registers.lean ====
section
/-! DEFINITION. Reading the device registers of region 3 (21 R458 and the chapters that assign offsets). -/

namespace Sys2Proof.Machine

open Sys2Proof

/-- Where an access to region 3 goes, by its offset (09 Table 9.7, 21 R458). -/
inductive RegPlace where
  | pkg (off : Nat)
  | cluster (c off : Nat)
  /-- A page of an interrupt file, at an offset. -/
  | ifile (f off : Nat)
  /-- The interrupt controller of a die, at an offset. -/
  | aplic (d off : Nat)
  /-- Configuration or memory space of a port. -/
  | port (p : Nat) (memory : Bool)
  | nothing
  deriving DecidableEq, Repr

def regPlace (o : Nat) : RegPlace :=
  if o < 0x10000 then .pkg o
  else if o < 0x10000 + 0x1000 * 12 then .cluster ((o - 0x10000) / 0x1000) (o % 0x1000)
  else if ifileBase ≤ o ∧ o < ifileBase + 0x1000 * 128 then .ifile ((o - ifileBase) / 0x1000) (o % 0x1000)
  else if 0x2000000 ≤ o ∧ o < 0x2200000 ∧ o % 0x100000 < 0x4000 then .aplic ((o - 0x2000000) / 0x100000) (o % 0x100000)
  else if 0x100000000 ≤ o ∧ o < 0x100000000 + 2 ^ 28 * 8 then .port ((o - 0x100000000) / 2 ^ 28) false
  else if 0x100000000000 ≤ o ∧ o < 0x100000000000 + 2 ^ 40 * 8 then .port ((o - 0x100000000000) / 2 ^ 40) true
  else .nothing

/-- PORTCTL (Table 9.6). -/
def portctl (p : Port) : Nat :=
  bitAt p.linkup 63 + bitAt p.train 62 + bitAt p.err 61 + put p.dmajob.toNat 24 + put p.ncmc.toNat 20
    + put p.speed.toNat 16 + put p.width.toNat 11 + p.mode.toNat

/-- SLEWCTL (Table 7.6). -/
def slewctl (c : Cluster) : Nat :=
  bitAt c.badw 31 + put c.drop.toNat 16 + put c.rung3.toNat 12 + put c.rung2.toNat 8 + put c.rung1.toNat 4 + c.rung0.toNat

/-- PWRSTAT (Table 21.3). -/
def pwrstat (p : Pkg) : Nat :=
  bitAt p.fwhold 11 + bitAt p.trip 10 + bitAt p.icomp 9 + bitAt p.sagged 8 + p.pkgw.toNat

/-- PARKCTL (Table 21.7). -/
def parkctl (p : Pkg) : Nat :=
  bitAt p.parkBusy 63 + bitAt p.parkRefused 62 + put p.parkState.toNat 2 + p.parkReq.toNat

/-- SWEEPSTd (Table 21.8): POINT shows the low 24 bits of the crossing point. -/
def sweepst (w : Sweep) : Nat := bitAt w.run 63 + put (w.point.toNat % 2 ^ 24) 24 + w.outwin.toNat

/-- GSTEPd (17 R390). -/
def gstepReg (p : Pkg) (d : Nat) : Nat := bitAt (fget p.gbadw d false) 63 + (fget p.g d 0).toNat

/-- The 8 bytes of the report at offset o of it; never-written bytes read zero. -/
def reportWord (p : Pkg) (o : Nat) : Nat := (upTo 8).foldl (fun a i => a + (fget p.report (o + i) 0).toNat * 256 ^ i) 0

/-- The certificate chain of the device key, fixed at manufacture: its length, then its bytes (21 Table 21.9, log entry 2). -/
def deviceCert (i : Nat) : Nat :=
  if i = 0 then (Config.deviceWord 0).toNat % 8185 else (Config.deviceWord i).toNat

/-- The 8 bytes at an 8-aligned offset of the package control block. -/
def pkgRead (s : State) (o : Nat) : Nat :=
  let p := s.pkg
  if 0x200 ≤ o ∧ o < 0x280 then (fget p.capwin ((o - 0x200) / 8) 0).toNat
  else if o = 0x300 then p.jobtab.toNat
  else if o = 0x308 then bitAt p.jrBusy 62 + put p.jrCause.toNat 16 + p.jrJob.toNat
  else if o = 0x318 then p.cecnt.toNat
  else if o = 0x320 then p.sysroot.toNat
  else if o = 0x340 then parkctl p
  else if o = 0x348 then pwrstat p
  else if o = 0x380 then p.quadsRetired.toNat
  else if o = 0x388 then p.slicesRetired.toNat
  else if 0x390 ≤ o ∧ o < 0x3C0 then (fget p.channels ((o - 0x390) / 8) 0).toNat
  else if 0x400 ≤ o ∧ o < 0x600 then
    (fget p.decay ((o - 0x400) / 4) 0).toNat + put (fget p.decay ((o - 0x400) / 4 + 1) 0).toNat 32
  else if 0x600 ≤ o ∧ o < 0x640 then sweepst (fget p.sweep ((o - 0x600) / 8) Sweep.reset)
  else if 0x640 ≤ o ∧ o < 0x680 then gstepReg p ((o - 0x640) / 8)
  else if 0x700 ≤ o ∧ o < 0x900 then
    if (o - 0x700) % 64 < 48 then
      (fget p.meas ((o - 0x700) / 64) 0).toNat / 2 ^ (8 * ((o - 0x700) % 64)) % 2 ^ 64
    else 0
  else if 0x900 ≤ o ∧ o < 0x930 then p.nonce.toNat / 2 ^ (8 * (o - 0x900)) % 2 ^ 64
  else if o = 0x938 then p.attgo.toNat
  else if 0xA00 ≤ o ∧ o < 0xC60 then reportWord p o
  else if 0x1000 ≤ o ∧ o < 0x3000 then (fget p.optab ((o - 0x1000) / 8) 0).toNat
  else if 0x3000 ≤ o ∧ o < 0x3200 ∧ (o - 0x3000) % 64 = 0 then portctl (s.port ((o - 0x3000) / 64))
  else if 0x4000 ≤ o ∧ o < 0x6000 then deviceCert ((o - 0x4000) / 8)
  else 0

/-- The 8 bytes at an 8-aligned offset of a cluster control block. -/
def clusterRead (s : State) (c o : Nat) : Nat :=
  let k := s.cluster c
  if o = 0x400 then slewctl k
  else if o = 0x408 then k.wdctl.toNat
  else if o = 0x410 then k.beat.toNat
  else if 0x420 ≤ o ∧ o < 0x440 then (fget k.ages ((o - 0x420) / 8) 0xFFFFFFFF).toNat
  else 0

/-- A load of n bytes from a register; an offset that nothing assigns reads zero (R458). -/
def regRead (s : State) (o n : Nat) : Nat :=
  let w :=
    match regPlace o with
    | .pkg x => pkgRead s (x / 8 * 8)
    | .cluster c x => clusterRead s c (x / 8 * 8)
    | .aplic d x => aplicRead (s.aplic d) (x / 8 * 8) + 2 ^ 32 * aplicRead (s.aplic d) (x / 8 * 8 + 4)
    | _ => 0
  w / 2 ^ (8 * (o % 8)) % 2 ^ (8 * n)

end Sys2Proof.Machine
end

