-- ==== Sys2Proof/Machine/Priv.lean ====
section
/-! DEFINITION. Traps, interrupts and trap returns of a CMC and of an application core, which the spec leaves to the RISC-V
base of their own descriptions (03 R92, 18 R413): the RISC-V privileged architecture, with the H extension and the
Advanced Interrupt Architecture on application cores (log entries 9, 15 and 31). -/

namespace Sys2Proof.Machine

open Sys2Proof

/-- A word with bit b set to a value. -/
def setBit (w : Word) (b : Nat) (v : Bool) : Word := (w &&& ~~~(1#64 <<< b)) ||| w64 (bitAt v b)

/-! Bits of `mstatus`, `sstatus` and `vsstatus`, and of `hstatus`. -/

def bSIE : Nat := 1
def bMIE : Nat := 3
def bSPIE : Nat := 5
def bMPIE : Nat := 7
def bSPP : Nat := 8
def bMPRV : Nat := 17
def bTVM : Nat := 20
def bTW : Nat := 21
def bTSR : Nat := 22
def bGVA : Nat := 38
def bMPV : Nat := 39
def bhGVA : Nat := 6
def bhSPV : Nat := 7
def bhSPVP : Nat := 8
def bhHU : Nat := 9

/-- Which of the base's exceptions a cause of Table 18.1 is, for the instruction in execution; none where it is no
exception of the base. Causes from 256 are the base's own exceptions, and from 512 its interrupts. -/
def rvCode (h : Slot) (cause instr : Nat) : Option Nat :=
  if 512 ≤ cause then some (cause - 512)
  else if 256 ≤ cause then some (cause - 256)
  else if cause = cIllegal then some 2
  else if cause = cBreak then some 3
  else if cause = cEcall then some (if h.priv = 1 && h.pv.virt then 10 else 8 + h.priv.toNat)
  else if cause = cMisaligned then
    some (if instr % 4 != 3 then (if 5 ≤ instr / 2 ^ 13 then 6 else 4)
          else if instr % 128 = 0x63 || instr % 128 = 0x67 || instr % 128 = 0x6F then 0
          else if instr % 128 = 0x23 || instr % 128 = 0x27 || (instr % 128 = 0x73 && instr / 2 ^ 25 % 2 = 1) then 6
          else if instr % 128 = 0x2F then (if instr / 2 ^ 27 = 2 then 4 else 6)
          else 4)
  else none

/-- The code of the base's exception that a virtual machine takes where a hypervisor would not (virtual instruction). -/
def cVirtual : Nat := 256 + 22

/-- Interrupts that an application core hands to HS-mode always. -/
def guestBits : Word := 0x1444#64

/-- The level that takes a trap: 3 M, 1 HS or S, 0 VS. -/
def trapLevel (app : Bool) (h : Slot) (intr : Bool) (code : Option Nat) : Nat :=
  match code with
  | none => 3
  | some c =>
    let m := if intr then (if app then h.pv.mideleg ||| guestBits else h.pv.mideleg) else h.pv.medeleg
    if h.priv = 3 || !m.getLsbD c then 3
    else if h.pv.virt && (if intr then h.pv.hideleg else h.pv.hedeleg).getLsbD c then 0 else 1

/-- The hart after a trap: registers of the level that takes it, the privilege, and the PC at its vector. `v` is the
cause register's new value, and `gva` says that the detail is an address of a virtual machine. -/
def Slot.trapTo (h : Slot) (level : Nat) (v tval pc : Word) (gva : Bool) : Slot :=
  let p := h.pv
  let h := { h with park := 0, await := 0, waitOn := none, resv := none, pipe := .idle }
  let entered (st : Word) : Word := setBit (setBit st bSPIE (st.getLsbD bSIE)) bSIE false
  let vector (w : Word) : Word := w &&& 0xFFFFFFFFFFFFFFFC#64
  if level = 3 then
    let st := setBit (setBit p.mstatus bMPIE (p.mstatus.getLsbD bMIE)) bMIE false
    { h with mepc := pc, mcause := v, mtval := tval, mpp := h.priv, priv := 3, pc := vector h.mtvec
             pv := { p with virt := false, mstatus := setBit (setBit st bMPV p.virt) bGVA gva, mtval2 := 0, mtinst := 0 } }
  else if level = 1 then
    let hs := setBit (setBit p.hstatus bhSPV p.virt) bhGVA gva
    { h with priv := 1, pc := vector p.stvec
             pv := { p with virt := false, sepc := pc, scause := v, stval := tval, htval := 0, htinst := 0
                            mstatus := setBit (entered p.mstatus) bSPP (h.priv == 1)
                            hstatus := if p.virt then setBit hs bhSPVP (h.priv == 1) else hs } }
  else
    { h with priv := 1, pc := vector p.vstvec
             pv := { p with vsepc := pc, vscause := v, vstval := tval, vsstatus := setBit (entered p.vsstatus) bSPP (h.priv == 1) } }

/-- A trap of a CMC or an application core (R413): the cause register of a cause that the base does not have is an open
value, and such a trap is taken in M-mode. -/
def vectorTrap (s : State) (u k cause : Nat) (tval pc : Word) (instr : Nat) : State :=
  let h := s.hart u k
  let intr := decide (512 ≤ cause)
  let code := rvCode h cause instr
  let level := trapLevel (isApp u) h intr code
  let gva := h.pv.virt && !intr && (code.isNone || code == some 0 || code == some 4 || code == some 6)
  match code with
  | none => (s.modHart u k fun h => h.trapTo level s.freeWord tval pc gva).took
  | some c => s.modHart u k fun h => h.trapTo level (w64 (bitAt intr 63 + (if intr && level == 0 then c - 1 else c))) tval pc gva

/-! ### Trap returns -/

/-- mret in M-mode. -/
def Slot.mretTo (h : Slot) : Slot :=
  let p := h.pv
  let st := setBit (setBit (setBit p.mstatus bMIE (p.mstatus.getLsbD bMPIE)) bMPIE true) bMPV false
  { h with pc := h.mepc, priv := h.mpp, mpp := 0
           pv := { p with virt := p.mstatus.getLsbD bMPV && h.mpp != 3
                          mstatus := if h.mpp = 3 then st else setBit st bMPRV false } }

/-- sret in M-mode, HS-mode or S-mode, or in VS-mode. -/
def Slot.sretTo (h : Slot) : Slot :=
  let p := h.pv
  let left (st : Word) : Word := setBit (setBit (setBit st bSIE (st.getLsbD bSPIE)) bSPIE true) bSPP false
  let to1 (st : Word) : BitVec 2 := if st.getLsbD bSPP then 1 else 0
  if p.virt then { h with pc := p.vsepc, priv := to1 p.vsstatus, pv := { p with vsstatus := left p.vsstatus } }
  else
    { h with pc := p.sepc, priv := to1 p.mstatus
             pv := { p with virt := p.hstatus.getLsbD bhSPV, mstatus := setBit (left p.mstatus) bMPRV false
                            hstatus := setBit p.hstatus bhSPV false } }

/-! ### Interrupts of an application core (09 R248) -/

/-- The identity that an interrupt file of application core a delivers; 0 for none. -/
def appTop (s : State) (a f : Nat) : Nat := (s.ifile (8 * a + f)).top

/-- The guest file that VS-mode uses, from VGEIN of `hstatus`. -/
def Slot.guestFile (h : Slot) : Option Nat :=
  let g := wfld h.pv.hstatus 17 12
  if 1 ≤ g ∧ g ≤ 6 then some (g + 1) else none

/-- hgeip: guest files that deliver an identity, file 1 + g at bit g. -/
def appGuests (s : State) (a : Nat) : Word :=
  w64 ((upTo 6).foldl (fun w g => w + bitAt (appTop s a (g + 2) != 0) (g + 1)) 0)

/-- mip: the bits that software writes, and those of the interrupt files. -/
def appMip (s : State) (a : Nat) (h : Slot) : Word :=
  let vs := match h.guestFile with
    | some f => appTop s a f != 0
    | none => false
  h.pv.mip ||| w64 (bitAt (appTop s a 0 != 0) 11) ||| w64 (bitAt (appTop s a 1 != 0) 9) ||| w64 (bitAt vs 10)
    ||| w64 (bitAt (appGuests s a &&& h.pv.hgeie != 0) 12)

/-- The base's order of interrupts. -/
def intrOrder : List Nat := [11, 3, 7, 9, 1, 5, 12, 10, 2, 6]

/-- Pending and enabled interrupts of a hart, in order; none outside the application cores. -/
def pendingIntrs (s : State) (u k : Nat) : List Nat :=
  if isApp u then
    let h := s.hart u k
    let w := appMip s (u - 228) h &&& h.pv.mie
    intrOrder.filter fun i => w.getLsbD i
  else []

/-- The interrupt that a hart takes before its next instruction. -/
def takenIntr (s : State) (u k : Nat) : Option Nat :=
  let h := s.hart u k
  let xs := pendingIntrs s u k
  let level (i : Nat) : Nat := if !(h.pv.mideleg ||| guestBits).getLsbD i then 3 else if h.pv.hideleg.getLsbD i then 0 else 1
  let first (l : Nat) (on : Bool) : Option Nat := if on then xs.find? fun i => level i == l else none
  (first 3 (h.priv != 3 || h.pv.mstatus.getLsbD bMIE)).orElse fun _ =>
    (first 1 (h.priv != 3 && (h.pv.virt || h.priv == 0 || h.pv.mstatus.getLsbD bSIE))).orElse fun _ =>
      first 0 (h.pv.virt && (h.priv == 0 || h.pv.vsstatus.getLsbD bSIE))

/-- The privilege of a load or a store of a CMC or an application core, with MPRV. -/
def Slot.dataPriv (h : Slot) : BitVec 2 := if h.priv = 3 && h.pv.mstatus.getLsbD bMPRV then h.mpp else h.priv

end Sys2Proof.Machine
end

