-- ==== Sys2Proof/Machine/Ops.lean ====
section
/-! DEFINITION. The shared operations of a hart's instruction: how it ends (a trap, a local trap, a park, a wait in
the pipe), register reads and writes with their streams, memory accesses with all their checks, instruction
fetch, and the entry into and return from the resident handler (01 R8 to R54, 04 R117 to R119, 09 R225 to R242,
10 R256 to R267, 18 R413). -/

namespace Sys2Proof.Machine

open Sys2Proof

/-- How an instruction ends without its effect. -/
inductive Stop where
  /-- A trap that goes to the CMC (R413), or to the unit's own RISC-V trap vector. -/
  | trap (cause tval : Nat)
  /-- ILLEGAL after decode, with no detail of its own: hxtval is the first word (R90). -/
  | illegal
  /-- A local trap (R51); `base` replaces the state before the instruction where the trap itself writes. -/
  | loc (cause : Nat) (detail : Word) (base : Option State)
  /-- The slot parks (Table 1.3) with AWAIT; `on` names what it waits on. -/
  | park (code await : Nat) (on : Option Nat)
  /-- The instruction stays in the pipe and issues again; `p` is its progress. -/
  | hold (p : Option Pipe)
  /-- The same, for want of one of the core's 48 requests (09 R241). -/
  | request
  | refuse (r : Refusal)

/-- An instruction's effect, or how it ends without one. -/
abbrev Res (α : Type) := Except Stop α

/-! ### Units and modes -/

/-- A job whose removal has started (20 R446). -/
def removing (s : State) (j : BitVec 16) : Bool := s.removals.any fun p => p.1 == j.toNat && !p.2.sealed

/-- U 0, S 1, M 3: slot 7 is M, the other slots of a core and the update cores are U (R12, R405). -/
def State.mode (s : State) : Nat :=
  if isCore s.cur.unit then (if s.cur.slot = 7 then 3 else 0)
  else if isUcore s.cur.unit then 0 else s.me.priv.toNat

/-- The mode of a load or a store. -/
def State.dataMode (s : State) : Nat := if isCore s.cur.unit || isUcore s.cur.unit then s.mode else s.me.dataPriv.toNat

/-- The units of Table 3.11, by column set. -/
def State.onCore (s : State) : Bool := isCore s.cur.unit
def State.onCoreU (s : State) : Bool := isCore s.cur.unit || isUcore s.cur.unit
def State.onCoreUC (s : State) : Bool := s.onCoreU || isCmc s.cur.unit
def State.onAny (_ : State) : Bool := true
def State.onSpawn (s : State) : Bool := isCore s.cur.unit || isCmc s.cur.unit || isApp s.cur.unit
def State.onUcore (s : State) : Bool := isUcore s.cur.unit
def State.onCmcS (s : State) : Bool := isCmc s.cur.unit && decide (1 ≤ s.mode)
/-- VS-mode of an application core counts as the S-mode in which the range instructions decode (15 R354; DESIGN CHOICE, log entry 8). -/
def State.onSys (s : State) : Bool := (isCmc s.cur.unit || isApp s.cur.unit) && decide (1 ≤ s.mode)
def State.onService (s : State) : Bool := isCore s.cur.unit && s.cur.slot == 7
def State.onRankset (s : State) : Bool := s.onService || s.onSys
def State.onTile (s : State) : Bool := isCore s.cur.unit && s.cur.slot == 0 && s.me.pc.toNat % 32 == 0

/-! ### hxstat and the trap record -/

/-- hxstat (Table 1.6). -/
def statWord (h : Slot) : Nat :=
  put h.await.toNat 26 + put h.park.toNat 22 + put h.kind.toNat 20 + put h.pfx.toNat 2 + bitAt h.pp 1 + b2n h.active

/-- The first word of an instruction that has an encoding. -/
def instrWord (i : Instr) : Nat :=
  match i with
  | .vacantEncoding w _ => w.toNat % 2 ^ 32
  | _ =>
    match encode32? i with
    | some w => w
    | none => ((tcwOf? i).map fun t => t.raw.toNat % 2 ^ 32).getD 0

/-- Where a fault came from: the tile stream's entry and the address of its TCW, or a slot's own instruction. -/
structure TrapSource where
  tile : Bool
  rob : Nat
  taddr : Word
  deriving DecidableEq, Repr

def TrapSource.slot : TrapSource := { tile := false, rob := 0, taddr := 0 }

/-- hxtrap of a management trap (Table 1.12). -/
def trapWord (k cause : Nat) (o : TrapSource) : Nat := put o.rob 12 + bitAt o.tile 11 + put k 8 + cause

/-- The trap record (Table 18.2). -/
def trapRecord (s : State) (u k cause : Nat) (tval pc : Word) (instr : Nat) (o : TrapSource) : List Word :=
  let x := s.unit u
  let h := s.hart u k
  [ w64 (put x.trapSeq.toNat 48 + put x.job.toNat 32 + put (if isUcore u then u - 204 else u) 24 + 2 ^ 20
      + put (if isUcore u then 1 else 0) 17 + trapWord k cause o),
    pc, tval, w64 (statWord h), w64 (instr % 2 ^ 32), x.step.setWidth 64,
    if isCore u && 6 ≤ k then 0 else h.cont, o.taddr ]

/-- A management trap of slot k of a core, or of an update core (R413). The reservation is lost (Table 3.2). -/
def mgmtTrap (s : State) (u k cause : Nat) (tval pc : Word) (instr : Nat) (o : TrapSource) : State :=
  let r := trapRecord s u k cause tval pc instr o
  (s.modUnit u fun x => { x with trapSeq := x.trapSeq + 1, records := x.records ++ [r] }).modHart u k fun h =>
    { h with hxtrap := w64 (trapWord k cause o), hxtval := tval, hxepc := pc &&& 0xFFFFFFFFFFFFFFFC#64, pc := pc,
             park := 9, await := 0, waitOn := none, resv := none, trapRec := r, pipe := .idle }

/-- The executing hart takes a trap. -/
def takeTrap (s : State) (cause tval instr : Nat) : State :=
  let u := s.cur.unit
  if isCmc u || isApp u then vectorTrap s u s.cur.slot cause (w64 tval) s.me.pc instr
  else mgmtTrap s u s.cur.slot cause (w64 tval) s.me.pc instr .slot

/-! ### Local events and the resident handler (R51 to R53) -/

/-- A wake reaches the slots of a unit that wait in `wfi` (R323). -/
def wakeWfi (s : State) (u : Nat) : State :=
  (upTo 8).foldl (fun t k => if (t.hart u k).park = 4 then t.modHart u k fun h => { h with woken := true } else t) s

/-- Slots of a unit that are parked with a code test their condition again. -/
def wakePark (s : State) (u : Nat) (code : BitVec 4) : State :=
  (upTo 8).foldl (fun t k => if (t.hart u k).park = code then t.modHart u k fun h => { h with waitOn := none } else t) s

/-- The entry into the resident handler (R52). -/
def enterHandler (s : State) (u k cause : Nat) (detail pc : Word) : State :=
  (s.modUnit u fun x => { x with forTrap := cause != 0 }).modHart u 7 fun h =>
    { h with hxtrap := w64 (2 ^ 63 + put k 8 + cause), hxtval := detail, hxepc := pc &&& 0xFFFFFFFFFFFFFFFC#64,
             active := true, park := 0, await := 0, waitOn := none, pc := w64 (coreWindow + residentBase) }

/-- The pending local trap of the lowest slot. -/
def nextLocal (xs : List LocalTrap) : Option LocalTrap :=
  xs.foldl (fun b e => match b with
    | none => some e
    | some f => if e.slot < f.slot then some e else some f) none

/-- Slot 7 takes the next pending event when it is idle, in the order of R52, and the core may issue (07 R220). A pending PREEMPT is
first, and PREEMPT_STOP takes it. A service wake enters with `hxtval` and `hxepc` 0, an INBOX_OVERFLOW with `hxepc` 0 (log entry 44). -/
def enterPending (s : State) (u : Nat) : State :=
  let x := s.unit u
  if (s.hart u 7).active || x.preempt.isSome || x.duty == 0 then s
  else if x.inboxOvf then enterHandler (s.modUnit u fun y => { y with inboxOvf := false }) u 7 cInboxOverflow 0 0
  else
    match nextLocal x.pendLocal with
    | some e =>
      enterHandler (s.modUnit u fun y => { y with pendLocal := y.pendLocal.filter fun f => f.slot != e.slot })
        u e.slot e.cause e.detail e.pc
    | none => if x.wake then enterHandler (s.modUnit u fun y => { y with wake := false }) u 7 0 0 0 else s

/-- Slot k raises a local trap (R52). -/
def localTrap (s : State) (u k cause : Nat) (detail : Word) : State :=
  let pc := (s.hart u k).pc
  let s1 := s.modHart u k fun h => { h with park := 10, await := 0, waitOn := none, resv := none, pipe := .idle }
  let s2 := s1.modUnit u fun x =>
    { x with pendLocal := x.pendLocal ++ [{ slot := k, cause := cause, detail := detail, pc := pc }] }
  enterPending (wakeWfi s2 u) u

/-- A service wake (R52). -/
def serviceWake (s : State) (u : Nat) : State := enterPending (wakeWfi (s.modUnit u fun x => { x with wake := true }) u) u
/-- INBOX_OVERFLOW becomes pending (R316). -/
def inboxOverflow (s : State) (u : Nat) : State :=
  enterPending (wakeWfi (s.modUnit u fun x => { x with inboxOvf := true }) u) u

/-! ### Issue and the ways an instruction ends -/

/-- A slot that issues is not parked. -/
def Slot.unpark (h : Slot) : Slot := { h with park := 0, await := 0, waitOn := none }

/-- The PC past the instruction, the counts of instructions. -/
def State.advance (s : State) (n : Nat) : State :=
  s.modMe fun h =>
    { h with pc := h.pc + w64 n, instret := h.instret + 1,
             resv := h.resv.map fun r => { r with age := r.age + 1 } }

/-- The instruction stays at its PC to issue again, with the effects already made (restartable forms). -/
def State.again (s : State) (n : Nat) : State :=
  s.modMe fun h =>
    { h with pc := h.pc - w64 n, instret := h.instret - 1,
             resv := h.resv.map fun r => { r with age := r.age - 1 } }

/-- The park of the executing slot; slot 6 raises ILLEGAL instead (R19). -/
def takePark (s : State) (code await : Nat) (on : Option Nat) : State :=
  if s.onCore && s.cur.slot == 6 && !(code == 7 || code == 9 || code == 10) then
    takeTrap s cIllegal code 0
  else
    s.modMe fun h =>
      { h with park := BitVec.ofNat 4 code, await := BitVec.ofNat 6 await, waitOn := on, woken := false, resv := none }

/-- Those of the waiters for a request that still wait: the slot's instruction has not completed, the entry has not issued, or has no
request and has not completed, the oldest store has none to write with. -/
def stillWaits (s : State) (u : Nat) (w : Nat × Nat) : Bool :=
  if w.1 < 8 then
    let h := s.hart u w.1
    h.active && (h.park == 0 || h.park == 7) && h.instret.toNat == w.2
  else if w.1 = 25 then ((s.unit u).fe.writing.head?.map fun x => !x.request).getD false
  else
    match (s.unit u).fe.entry w.2 with
    | some r => (r.phase == .renamed || (r.phase == .issued && !r.request)) && r.fault.isNone
    | none => false

/-- A waiter takes its place behind those that wait already (09 R241). -/
def State.waitTurn (s : State) (u : Nat) (w : Nat × Nat) : State :=
  if (s.unit u).reqWait.contains w then s
  else s.modUnit u fun x => { x with reqWait := x.reqWait.filter (stillWaits s u) ++ [w] }

/-- What the outcome of an instruction's body makes of the state before it (R8, R17, R90). -/
def finish (word : Nat) (s : State) (r : Res State) : Host.Outcome State Fault Refusal :=
  match r with
  | .ok t => .next t
  | .error (.trap c v) => .next (takeTrap s c v word)
  | .error .illegal => .next (takeTrap s cIllegal word word)
  | .error (.loc c d b) => .next (localTrap (b.getD s) s.cur.unit s.cur.slot c d)
  | .error (.park c a o) =>
    if s.onCore && s.cur.slot == 6 && !(c == 7 || c == 9 || c == 10) then .next (takeTrap s cIllegal c word)
    else .next (takePark s c a o)
  | .error (.hold p) => .next (match p with
      | some q => s.modMe fun h => { h with pipe := q }
      | none => s)
  | .error .request => .next (s.waitTurn s.cur.unit (s.cur.slot, s.me.instret.toNat))
  | .error (.refuse x) => .refused x

/-- One instruction of the executing hart, n bytes long: decode's check of the unit (R101), the pending prefix
(R114), the body on the state with the PC past the instruction, and its end. `fmt`: the form takes formats. -/
def issueN (n : Nat) (i : Instr) (ok fmt : Bool) (s : State) (body : State → Res State) :
    Host.Outcome State Fault Refusal :=
  let s0 := s.modMe Slot.unpark
  if !ok then .next (takeTrap s0 cIllegal (2 ^ 63 + instrWord i) (instrWord i))
  else if s.me.pp && !fmt then
    .next (takeTrap (s0.modMe fun h => { h with pp := false, pfx := 0 }) cPrefix s.me.pfx.toNat (instrWord i))
  else finish (instrWord i) s0 (body (s0.advance n))

/-- A 32-bit instruction that takes no formats. -/
def issue (i : Instr) (ok : Bool) (s : State) (body : State → Res State) : Host.Outcome State Fault Refusal :=
  issueN 4 i ok false s body

/-- The address of the 32-bit instruction being executed, while its body runs. -/
def State.ipc (s : State) : Word := s.me.pc - 4

/-- Instructions and events stop here with a cause. -/
def raise {α : Type} (c v : Nat) : Res α := .error (.trap c v)
/-- Go on if a condition holds, else stop. -/
def need (b : Bool) (e : Stop) : Res Unit := if b then .ok () else .error e
/-- A naturally aligned address, or MISALIGNED. -/
def needAligned (va n : Nat) : Res Unit := need (va % n == 0) (.trap cMisaligned va)
/-- An operand value that makes the instruction ILLEGAL, with the register's number (R112). -/
def needValue (b : Bool) (r : BitVec 5) : Res Unit := need b (.trap cIllegal r.toNat)

/-! ### Waits of fences, acquires and releases (R240, R256 to R261, R271 to R273) -/

/-- Every earlier write-through store or atomic of slot k has its reply. -/
def performed (s : State) (u k : Nat) : Bool := (s.unit u).wt.all fun p => p.slot != k

/-- Every invalidation sent to the unit's die is applied. -/
def rdcClean (s : State) (u : Nat) : Bool := (s.die (unitDie u)).inval == []

/-- The wait of an acquire or fence with a scope code: at die scope or wider, R240. -/
def waitAcquire (s : State) (scope : Nat) : Res Unit := need (scope < 4 || rdcClean s s.cur.unit) (.hold none)
/-- A TFENCE of slot 0 that has not retired: the tile accesses that it orders are not the slot's yet (R264). -/
def tfencePending (s : State) (u k : Nat) : Bool :=
  let fe := (s.unit u).fe
  let isFence (i : Instr) : Bool := match i with | .tfence _ => true | _ => false
  isCore u && k == 0
    && (fe.rob.any (fun r => isFence r.i) || fe.inq.any (fun e => isFence (decodeTcw e.tcw)) || fe.replay.any fun e => isFence (decodeTcw e.tcw))

/-- The wait of a release: the slot's earlier accesses have performed. -/
def waitRelease (s : State) : Res Unit := need (performed s s.cur.unit s.cur.slot) (.hold none)

/-- The wait of a fence or a message of slot 0 for its earlier TFENCEs, whose tile accesses it covers (R264). An access of slot 0 to
memory parks on a TFENCE by itself (01 R45). -/
def waitTfence (s : State) : Res Unit := need (!tfencePending s s.cur.unit s.cur.slot) (.hold none)

/-- A store's reply is here: those invalidations that were sent before it are applied (R259). -/
def replied (s : State) (u k : Nat) : State :=
  if performed s u k then s
  else (s.applyInvals (unitDie u)).modUnit u fun x => { x with wt := x.wt.filter fun p => p.slot != k }

/-- The replies to the unit's write-through accesses of bytes in [pa, pa + n - 1] are here, as its next access to those
bytes waits for them (R234). -/
def overlapReplied (s : State) (u pa n : Nat) : State :=
  let meets (w : WtAccess) : Bool := decide (w.pa < pa + n) && decide (pa < w.pa + w.n)
  if (s.unit u).wt.any meets then
    (s.applyInvals (unitDie u)).modUnit u fun x => { x with wt := x.wt.filter fun w => !meets w }
  else s

/-! ### Outstanding requests of a core (R241) -/

/-- The memory requests that a core has outstanding, each as a pair that tells it apart: write-through accesses by slot
and instruction (or step of a block instruction), tile memory forms in execution (a TMMAD until its box has arrived), and retired tile
stores still writing. A read of a slot, a vector form's or a fetch's among them, begins and ends in one step of the machine. -/
def requests (s : State) (u : Nat) : List (Nat × Nat) :=
  let x := s.unit u
  (x.wt.map fun w => (w.slot, w.tag)) ++ (x.fe.rob.filter fun r => r.request && tileInFlight r && r.box.isNone).map (fun r => (24, r.id))
    ++ (x.fe.writing.zipIdx.filter fun w => w.1.request).map fun w => (25, w.2)

/-- One of the 48 requests is free for `own`, which may be among them already, and none that waited before `w` still waits. -/
def requestFree (s : State) (u : Nat) (own w : Nat × Nat) : Bool :=
  decide (((requests s u).dedup.filter fun r => r != own).length < 48)
    && (((s.unit u).reqWait.takeWhile fun v => v != w).filter (stillWaits s u)).isEmpty

/-- The request of the executing slot's instruction, while its body runs, and the slot's place among those that wait. -/
def State.request (s : State) : Nat × Nat := (s.cur.slot, s.me.instret.toNat + 2 ^ 64 * s.me.blockStep)
def State.waiter (s : State) : Nat × Nat := (s.cur.slot, (s.me.instret - 1).toNat)

/-- An access of a core that misses L1 waits in the pipe while 48 requests are outstanding. -/
def needRequest (s : State) (hit : Bool) : Res Unit :=
  need (!isCore s.cur.unit || hit || requestFree s s.cur.unit s.request s.waiter) .request

/-- A fetch of an instruction that misses waits too, whatever the slot's last instruction has outstanding. -/
def needFetchRequest (s : State) (hit : Bool) : Res Unit :=
  need (!isCore s.cur.unit || hit || requestFree s s.cur.unit (26, s.cur.slot) (s.cur.slot, s.me.instret.toNat)) .request

/-- A store finds its line owned in L1. -/
def storeHit (s : State) (u pa : Nat) : Bool :=
  homeDie s pa == unitDie u && (s.dirOf (lineOf pa)).owner == some u && (s.l1Hit u pa).isSome

/-- An acquire of a slot discards every stream element fetched ahead (R117). -/
def Slot.discardAhead (h : Slot) : Slot := { h with sg := h.sg.map fun p => (p.1, { p.2 with ahead := [] }) }
def State.acquired (s : State) : State := s.modMe Slot.discardAhead

/-! ### Places in memory -/

/-- Where one access goes: a byte address of memory, a window store or region 3. -/
structure Place where
  va : Nat
  pa : Nat
  win : Bool
  dev : Bool
  /-- PERM N: no cache keeps it. -/
  bypass : Bool
  /-- VBASE of the range used, for range locks of engine spans and FENCE.RG. -/
  vbase : Nat
  deriving DecidableEq, Repr

/-- The window store's address of [va, va + n - 1], none outside the window block (R225, R226, R405, R415). -/
def windowAddr (s : State) (va n : Nat) (a : Acc) : Res (Option Nat) :=
  let u := s.cur.unit
  if 2 ^ 56 ≤ va then raise cNoRange va
  else if va < windowBlock then .ok none
  else if va < coreWindow + 0x80000 then
    let o := va - coreWindow
    if storeSize u < o + n then raise cNoRange (max va (coreWindow + storeSize u))
    else if a.s then raise cPermission va
    else if a.x && !(isCore u && s.cur.slot == 7) then raise cPermission va
    else if isCore u && s.cur.slot != 7 && decide (residentBase < o + n) then
      raise cPermission (max va (coreWindow + residentBase))
    else .ok (some (storeBase u + o))
  else if isCore u && decide (quadWindow ≤ va) && decide (va + n ≤ quadWindow + 0x200000) then
    if a.s || a.x then raise cPermission va
    else .ok (some (quadBase (quadOf u) + (va - quadWindow)))
  else raise cNoRange va

/-- The update-window check (R406): wholly inside one valid window of the job that allows the access's kind, for an atomic
its read and its write; the first failing byte otherwise. -/
def windowFail (x : UnitSt) (va n : Nat) (a : Acc) : Option Nat :=
  let ok := (upTo 4).filterMap fun i =>
    let y := fget x.windows i UWindow.reset
    if y.valid && y.job == x.job && (!a.r || y.rd) && (!a.w || y.wr) && decide (y.base ≤ va) && decide (va ≤ y.limit)
    then some y.limit else none
  let last := ok.foldl max 0
  if ok == [] then some va else if va + n - 1 ≤ last then none else some (last + 1)

def checkWindows (s : State) (va n : Nat) (a : Acc) : Res Unit :=
  if isUcore s.cur.unit && !a.x then
    match windowFail s.mine va n a with
    | some b => raise cWindow b
    | none => .ok ()
  else .ok ()

/-- The first byte of [lo, hi] that a lock of the unit blocks: loads by destination locks, stores by both (R267). -/
def lockedByte (s : State) (u lo hi : Nat) (store : Bool) : Option Nat :=
  ((s.unit u).locks.filter fun l => (l.dest || store) && decide (l.lo ≤ hi) && decide (lo ≤ l.hi)).foldl
    (fun b l => match b with
      | none => some (max lo l.lo)
      | some x => some (min x (max lo l.lo))) none

/-- Table 10.2 for an access of the executing hart. -/
def checkLocks (s : State) (lo hi : Nat) (store : Bool) : Res Unit :=
  match lockedByte s s.cur.unit lo hi store with
  | none => .ok ()
  | some b =>
    if isCore s.cur.unit then
      if 1 ≤ s.cur.slot && s.cur.slot ≤ 6 then .error (.loc cRangeConflict (w64 b) none)
      else .error (.park 12 0 (some 0))
    else .error (.hold none)

/-- A register address in a port's configuration or memory window, which takes 1- and 2-byte accesses too (R246). -/
def portPlace (pa : Nat) : Bool :=
  match regPlace (regionOff pa) with
  | .port _ _ => true
  | _ => false

/-- The place of one access inside a 256-byte block, with every check of it in order: the tile stream (R45), the
windows, update windows, the range (R350), region 3 (R230), backing (R227), range locks (R267; a stamped
access meets none, 17 R401), the replies to write-throughs of the same bytes, which are here before it goes on (R234),
and a line in a pair buffer (17 R410). An instruction fetch is no access of slot 0's program that the tile stream holds, and
meets no lock (log entry 43). `big`: an access that region 3 refuses by its kind. -/
def locate (s : State) (va n : Nat) (a : Acc) (big : Bool) : Res (State × Place) := do
  let u := s.cur.unit
  need (a.x || !(isCore u && s.cur.slot == 0 && tileHolds s u va (va + n - 1))) (.park 11 0 (some 0))
  match ← windowAddr s va n a with
  | some p => .ok (s, { va := va, pa := p, win := true, dev := false, bypass := false, vbase := 0 })
  | none =>
    checkWindows s va n a
    match translate s u s.mine.job va a with
    | (_, .wait) => .error (.hold none)
    | (_, .raise c v) => raise c v
    | (t, .ok pa e) =>
      let dev := regionOf pa == 3
      if dev then
        need (!big && !(a.r && a.w) && !a.s && !a.x && decide (1 ≤ s.dataMode) && (n == 4 || n == 8 || (portPlace pa && (n == 1 || n == 2))) && va % n == 0)
          (.trap cPermission va)
      else need (backed t pa) (.trap cNoRange va)
      (if a.s || a.x then .ok () else checkLocks t va (va + n - 1) a.w)
      let t := if a.x then t else overlapReplied t u pa n
      need (!pairLocked t (lineOf pa)) (.hold none)
      .ok (t, { va := va, pa := pa, win := false, dev := dev, bypass := e.n, vbase := e.vbase })

/-- Poisoned bytes of what a unit reads, once the copy is there, raise POISON with the flit's virtual address (R245, R457). -/
def needClean (s : State) (p : Place) (n : Nat) : Res Unit :=
  match (flits p.pa n).find? (copyBad s s.cur.unit p.bypass) with
  | some f => raise cPoison (p.va + 64 * f - p.pa)
  | none => .ok ()

/-- The same for an access that its home serves. -/
def needCleanHome (s : State) (p : Place) (n : Nat) : Res Unit :=
  match s.poisonIn p.pa n with
  | some f => raise cPoison (p.va + 64 * f - p.pa)
  | none => .ok ()

/-- The elements fetched ahead of which n bytes at pa have been read since: each is loaded anew at its pop (04 R117, 10 R252). -/
def StreamGen.overtaken (g : StreamGen) (pa n : Nat) : StreamGen :=
  { g with ahead := g.ahead.map fun e =>
      { e with stale := e.stale || (e.fault.isNone && decide (e.pa < pa + n) && decide (pa < e.pa + 2 ^ g.ew.toNat)) } }
def Slot.hasRead (h : Slot) (pa n : Nat) : Slot := { h with sg := h.sg.map fun p => (p.1, p.2.overtaken pa n) }

/-- A load of n bytes arms the slot's watch (12 R323), and overtakes what the slot's streams have fetched ahead of them. -/
def State.watchLine (s : State) (pa n : Nat) : State :=
  s.modMe fun h => { h.hasRead pa n with wline := some (lineOf pa), whit := false }

/-- Every sector of n bytes at a place hits. -/
def sectorsHit (hit : Nat → Bool) (pa n : Nat) : Bool := (sectors pa (n / 128 + 2) n).all fun q => hit q.1

/-! ### Region 3 (R230, R246) -/

/-- A region-3 access acts as FENCE.S at system scope. -/
def waitDevice (s : State) : Res Unit := do
  waitRelease s
  waitAcquire s 6

/-- The value that a request through a port brings back, once its completion is here. A link that is down answers
all ones and sets ERR (R246). -/
def portValue (s : State) (p : Nat) : Res (State × Word) :=
  match s.me.pipe with
  | .port q (some v) =>
    if q = p then .ok (s.modMe fun h => { h with pipe := .idle }, v) else .error (.hold (some (.port p none)))
  | _ =>
    if (s.port p).linkup then .error (.hold (some (.port p none)))
    else .ok ((portError s p).modMe fun h => { h with pipe := .idle }, ones64)

def deviceLoad (s : State) (pa n : Nat) : Res (State × Nat) := do
  waitDevice s
  let s := s.acquired
  match regPlace (regionOff pa) with
  | .port p _ =>
    let (t, v) ← portValue s p
    .ok (t, v.toNat % 2 ^ (8 * n))
  | _ => .ok (s, regRead s (regionOff pa) n)

/-- A store to a register performs as the very next step of the machine, before anything that is due, so in program order
with every other access of the slot (R230). A store to a port's memory space is posted. Only a cluster's CMC writes its WDCTL and
CMCBEAT (20 R454). -/
def deviceStore (s : State) (pa n v : Nat) : Res State := do
  waitDevice s
  let s := s.acquired
  match regPlace (regionOff pa) with
  | .port p mem =>
    if mem then .ok (if (s.port p).linkup then s else portError s p)
    else do
      let (t, _) ← portValue s p
      .ok t
  | .nothing => .ok s
  | .cluster c x => .ok (if (x / 8 == 0x408 / 8 || x / 8 == 0x410 / 8) && s.cur.unit != cmcOf c then s else s.soon (.registerWrite pa n (w64 v)))
  | _ => .ok (s.soon (.registerWrite pa n (w64 v)))

/-! ### Loads, stores and atomics of the executing hart -/

/-- A load of n bytes inside a 256-byte block. -/
def loadAcc (s : State) (va n : Nat) (a : Acc) (alloc big : Bool) : Res (State × Nat) := do
  let (t, p) ← locate s va n a big
  if p.dev then
    let (t, v) ← deviceLoad t p.pa n
    .ok (t.watchLine p.pa n, v)
  else
    needRequest t (p.win || sectorsHit (fun a => (t.l1Hit t.cur.unit a).isSome) p.pa n)
    let (t, v) := t.readSpan t.cur.unit p.pa n alloc p.bypass
    needClean t p n
    .ok (t.watchLine p.pa n, v)

/-- An ordinary load. -/
def loadAt (s : State) (va n : Nat) : Res (State × Nat) := loadAcc s va n .load true false

/-- The bytes of a store at its place, as one of an issue step. -/
def storePlaceAt (s : State) (step : BitVec 48) (p : Place) (n v : Nat) (bypass : Bool) : State :=
  if p.win then ((s.put p.pa n v).clearPoison p.pa n).wrote (hartKey s.cur.unit s.cur.slot) (lineOf p.pa)
  else
    s.writeSpan s.cur.unit { slot := s.cur.slot, va := p.va, pa := p.pa, n := n, step := step, tag := s.request.2 } v
      bypass p.bypass

/-- The bytes of a store at its place. -/
def storePlace (s : State) (p : Place) (n v : Nat) (bypass : Bool) : State := storePlaceAt s s.mine.step p n v bypass

/-- Under MMREV 1 a store waits until the slot's earlier stores have performed, and until the copies that they superseded
are gone from both dies, so that no reader finds an earlier store missing (R268). -/
def waitMmrev (s : State) : Res Unit :=
  if isCore s.cur.unit && s.mine.mmrev == 1 then do
    waitRelease s
    need ((s.die 0).inval == [] && (s.die 1).inval == []) (.hold none)
  else .ok ()

/-- A store of n bytes inside a 256-byte block, as a part of an instruction of an issue step: the parts of one instruction
have no order among themselves. -/
def storePart (s : State) (step : BitVec 48) (va n v : Nat) (a : Acc) (bypass big : Bool) : Res State := do
  let (t, p) ← locate s va n a big
  if p.dev then deviceStore t p.pa n v
  else
    needRequest t (p.win || (!bypass && !p.bypass && sectorsHit (storeHit t t.cur.unit) p.pa n))
    .ok (storePlaceAt t step p n v bypass)

/-- A store of n bytes inside a 256-byte block. -/
def storeAcc (s : State) (va n v : Nat) (a : Acc) (bypass big : Bool) : Res State := do
  waitMmrev s
  storePart s s.mine.step va n v a bypass big

/-- An ordinary store. -/
def storeAt (s : State) (va n v : Nat) : Res State := storeAcc s va n v .store false false

/-- An atomic at the home slice, or at its store when `win` allows windows, as a part of an instruction (R226, R235). Poison stops it
(R457). -/
def atomicPart (s : State) (va n : Nat) (a : Acc) (win : Bool) (f : Nat → Option Nat) : Res (State × Nat) := do
  let (t, p) ← locate s va n a false
  need (!p.win || win) (.trap cPermission va)
  need (!p.dev) (.trap cPermission va)
  needRequest t p.win
  let t := if p.win then t else t.homePeek (lineOf p.pa)
  needCleanHome t p n
  .ok (t.homeAtomic t.cur.unit t.cur.slot p.pa n f)

/-- An atomic that is an instruction's only one. -/
def atomicAt (s : State) (va n : Nat) (a : Acc) (win : Bool) (f : Nat → Option Nat) : Res (State × Nat) := do
  let r ← atomicPart s va n a win f
  waitMmrev s
  .ok r

/-- Pieces of [va, va + n - 1] that lie in one 256-byte block each. -/
def blocks (va : Nat) : Nat → Nat → List (Nat × Nat)
  | 0, _ => []
  | _, 0 => []
  | fuel + 1, n =>
    let m := min n (256 - va % 256)
    (va, m) :: blocks (va + m) fuel (n - m)

/-- A load of any length: bytes as one number. -/
def loadSpan (s : State) (va n : Nat) (big : Bool) : Res (State × Nat) :=
  (blocks va (n / 256 + 2) n).foldlM
    (fun st p => do
      let (t, v) ← loadAcc st.1 p.1 p.2 .load true big
      .ok (t, st.2 + v * 2 ^ (8 * (p.1 - va)))) (s, 0)

/-- A store of any length. -/
def storeSpan (s : State) (va n v : Nat) (big : Bool) : Res State := do
  waitMmrev s
  (blocks va (n / 256 + 2) n).foldlM
    (fun t p => storePart t t.mine.step p.1 p.2 (v / 2 ^ (8 * (p.1 - va)) % 2 ^ (8 * p.2)) .store false big) s

/-- A 64-bit word read as a load. -/
def loadWord (s : State) (va : Nat) : Res (State × Word) := do
  let (t, v) ← loadAt s va 8
  .ok (t, w64 v)

/-! ### Registers of the executing hart (R20, R21, R117 to R119) -/

def Slot.reg (h : Slot) (r : Nat) : Word := if r = 0 then 0 else fget h.x r 0
def Slot.gen (h : Slot) (i : Nat) : StreamGen := fget h.sg i StreamGen.reset
def Slot.setGen (h : Slot) (i : Nat) (g : StreamGen) : Slot := { h with sg := fset h.sg i g }
def Slot.setReg (h : Slot) (r : Nat) (v : Word) : Slot :=
  if r = 0 then h else { h with x := fset h.x r v, poison := h.poison.filter fun p => p != r }

/-- Is an x-register bound to a stream generator? -/
def Slot.isBound (h : Slot) (r : Nat) : Bool := decide (28 ≤ r) && (h.gen (r - 28)).bound

/-- The generator after one element has been popped or appended. -/
def StreamGen.moved (g : StreamGen) : StreamGen :=
  { g with count := g.count - 1, bound := g.count != 1, last := g.next, next := g.next + g.stride.signExtend 64 }

/-- The value of the first element fetched ahead of a stream. A recorded fault stays with its element: an instruction that issues again
raises it again, until an acquire or an SUNBIND drops the element (log entry 30). An element that a later access has overtaken is
loaded at its pop; a fault has the element's address (R118, log entry 50). -/
def elementValue (s : State) (g : StreamGen) (e : StreamElt) : Res (State × Word) :=
  match e.fault with
  | some (c, a) => if c = cRangeConflict then .error (.loc c a none) else raise c a.toNat
  | none =>
    if e.stale then
      match loadAt s g.next.toNat (2 ^ g.ew.toNat) with
      | .ok (t, v) => .ok (t, w64 v)
      | .error (.trap c _) => raise c g.next.toNat
      | .error (.loc c _ b) => .error (.loc c g.next b)
      | .error x => .error x
    else .ok (s, e.value)

/-- The pop of a read stream (R21, R118). On slot 0 it waits behind older tile operations on the element's bytes, as its other
accesses do (01 R45, 10 R253). An element loaded at its pop overtakes those behind it, as any load does. -/
def popStream (s : State) (i : Nat) : Res (State × Word) :=
  let g := s.me.gen i
  match g.ahead with
  | [] => .error (.park 1 (28 + i) none)
  | e :: rest => do
    need (!(isCore s.cur.unit && s.cur.slot == 0 && tileHolds s s.cur.unit g.next.toNat (g.next.toNat + 2 ^ g.ew.toNat - 1)))
      (.park 11 0 (some 0))
    let (t, v) ← elementValue s g e
    let after := if e.stale then (({ g with ahead := rest } : StreamGen).overtaken e.pa (2 ^ g.ew.toNat)).ahead else rest
    .ok (t.modMe fun h => ((h.hasRead e.pa (2 ^ g.ew.toNat)).setGen i { g.moved with ahead := if g.count = 1 then [] else after }).setReg
      (28 + i) v, v)

/-- A read of an x-register as a source operand. -/
def readX (s : State) (r : BitVec 5) : Res (State × Word) :=
  let h := s.me
  if h.isBound r.toNat then
    if (h.gen (r.toNat - 28)).dir then .error .illegal else popStream s (r.toNat - 28)
  else if h.poison.contains r.toNat && r != 0 then raise cPoison (0x2100000000000000 + r.toNat)
  else .ok (s, h.reg r.toNat)

/-- A write of an x-register; a bound write stream stores the value (R119). -/
def writeX (s : State) (r : BitVec 5) (v : Word) : Res State :=
  let h := s.me
  if h.isBound r.toNat then
    let i := r.toNat - 28
    let g := h.gen i
    if !g.dir then .error .illegal
    else if 8 ≤ g.unaccepted then .error (.park 2 (32 + r.toNat) none)
    else do
      let t ← storeAt s g.next.toNat (2 ^ g.ew.toNat) v.toNat
      .ok (t.modMe fun k => (k.setGen i { g.moved with unaccepted := g.unaccepted + 1 }).setReg r.toNat v)
  else .ok (s.modMe fun k => k.setReg r.toNat v)

/-! ### Instruction fetch (R87, R226, R242) -/

/-- The instruction cache: 4 ways of 64 sets, indexed by virtual line (R129); a line serves the job it was fetched for. -/
def icFind (x : UnitSt) (vline : Nat) : Option ICLine := x.icache.find? fun l => l.line == vline && l.job == x.job

/-- A line of the cache made the most recently used. -/
def icTouch (x : UnitSt) (l : ICLine) : UnitSt :=
  { x with icache := l :: x.icache.filter fun y => !(y.line == l.line && y.job == l.job) }

/-- Put a line into the cache; the least recently used unlocked line of a full set leaves. -/
def icInsert (x : UnitSt) (l : ICLine) : UnitSt :=
  let rest := x.icache.filter fun y => !(y.line == l.line && y.job == l.job)
  let set := rest.filter fun y => y.line % 64 == l.line % 64
  let rest :=
    if 4 ≤ set.length then
      match (set.filter fun y => !y.locked).getLast? with
      | some v => rest.filter fun y => !(y.line == v.line && y.job == v.job)
      | none => rest
    else rest
  { x with icache := l :: rest }

/-- A line of code as its home or the RDC gives it, past L1 (R242), with its poisoned flits. -/
def codeLine (s : State) (u line : Nat) (nc : Bool) : State × BitVec 2048 × BitVec 4 :=
  if nc || homeDie s (linePa line) == unitDie u then
    let t := s.readHome (linePa line) nc
    let down := nc && (t.l2Find line).isNone && !capacityUp t (linePa line)
    (t, BitVec.ofNat 2048 (t.get (linePa line) 256), if down then 15 else t.lineBad line)
  else
    let t := s.rdcLoad (unitDie u) line
    match t.rdcFind (unitDie u) line with
    | some r => (t, r.data, r.bad)
    | none => (t, BitVec.ofNat 2048 (t.get (linePa line) 256), t.lineBad line)

/-- ICACHE_FILL: a line of code read from its home or the RDC, bypassing L1 (R242). A line that a restored context still has to lock
is locked with it (R132). -/
def icFill (s : State) (u va pa : Nat) (locked nc : Bool) : State :=
  let (t, d, b) := codeLine s u (lineOf pa) nc
  t.modUnit u fun x =>
    icInsert { x with relock := x.relock.erase (va / 256) }
      { line := va / 256, job := x.job, locked := locked || x.relock.contains (va / 256), data := d, bad := b }

/-- The place of a fetch: windows for slot 7, else permission X. -/
def fetchPlace (s : State) (va n : Nat) : Res (State × Place) := locate s va n .fetch false

/-- Poisoned bytes of a line of code raise POISON. -/
def needCleanCode (l : ICLine) (va n : Nat) : Res Unit :=
  match (flits (va % 256) n).find? fun f => l.bad.getLsbD f with
  | some f => raise cPoison (va / 256 * 256 + 64 * f)
  | none => .ok ()

/-- Fetch of n bytes inside one line. -/
def fetch (s : State) (va n : Nat) : Res (State × Nat) := do
  let (t, p) ← fetchPlace s va n
  if p.win then do
    needCleanHome t p n
    .ok (t, t.get p.pa n)
  else
    let have_ := icFind t.mine (va / 256)
    needFetchRequest t have_.isSome
    let t := match have_ with
      | some l => t.modMine fun x => icTouch x l
      | none => icFill t t.cur.unit va p.pa false p.bypass
    match icFind t.mine (va / 256) with
    | some l => do
      needCleanCode l va n
      .ok (t, l.data.toNat / 2 ^ (8 * (va % 256)) % 2 ^ (8 * n))
    | none => .ok (t, t.get p.pa n)

end Sys2Proof.Machine
end

