-- ==== Sys2Proof/Machine/Issue.lean ====
section
/-! DEFINITION. Which hart issues next, and the fetch and decode of its instruction (01 R13 to R19, R36, R37,
03 R87, R88, R92). -/

namespace Sys2Proof.Machine

open Sys2Proof

/-! ### Candidates (R15, R17) -/

/-- Whether a parked slot's condition has cleared, so that it is a candidate (Table 1.3). -/
def parkReady (s : State) (u k : Nat) : Bool :=
  let h := s.hart u k
  let r := h.await.toNat % 32
  match h.park.toNat with
  | 0 => true
  | 1 => if r < 8 then fget h.q r [] != [] else !(h.gen (r - 28)).bound || (h.gen (r - 28)).ahead != []
  | 2 => if r < 8 then decide ((fget h.q r []).length < 8)
         else !(h.gen (r - 28)).bound || decide ((h.gen (r - 28)).unaccepted < 8)
  | 3 => match h.waitOn with
         | none => true
         | some b => (fget (s.unit u).barriers b Barrier.reset).phase != h.await.getLsbD 0
  | 4 => if h.waitOn.isSome then h.whit else h.woken || pendingIntrs s u k != []
  | 6 => if h.waitOn = some 1 then decide ((s.unit u).ni.rplQ.length < 4) else decide ((s.unit u).ni.reqQ.length < 8)
  | 7 => false
  | 9 => false
  | 10 => false
  | _ => h.waitOn == none

/-- Whether a slot may issue: active, its unit running, not stopped by a PREEMPT run (an instruction in the pipe
completes) or a removal of its job (R14, R15, 18 R420, 20 R445), and with some issue cycle allowed by DUTY (07 R220). -/
def candidate (s : State) (u k : Nat) : Bool :=
  let x := s.unit u
  (s.hart u k).active && !(s.hart u k).restored && x.up && !x.halted
    && !((isUcore u || (isCore u && decide (k ≤ 6))) && removing s x.job) && !(isCore u && x.stopped && decide (k ≤ 6) && (s.hart u k).pipe == .idle)
    && (!isCore u || x.duty != 0) && parkReady s u k

/-- The candidate of a unit that comes first after the slot that issued most recently (R15). -/
def nextSlot (s : State) (u : Nat) : Option Nat :=
  ((upTo 8).map fun j => ((s.unit u).lastIssued + 1 + j) % 8).find? fun k => candidate s u k

/-- The units that hold a listed hart, from the one after the current unit. -/
def unitOrder (s : State) : List Nat :=
  let us := (s.harts.map fun p => p.1 / 8).dedup
  us.filter (fun u => decide (s.cur.unit < u)) ++ us.filter fun u => decide (u ≤ s.cur.unit)

/-- The hart that issues next: units in turn, and within a unit by R15. -/
def nextHart (s : State) : Option Agent :=
  (unitOrder s).findSome? fun u => (nextSlot s u).map fun k => { unit := u, slot := k }

/-! ### Fetch and decode -/

/-- The address after the canonical nops that pad to a TCW, when the words from an address are such padding
(R37). -/
def skipPadding (s : State) (pc : Nat) : Option Nat :=
  let b := pc / 32 * 32 + 32
  match fetch s pc (b - pc), fetch s b 4 with
  | .ok (_, v), .ok (_, w) =>
    if ((upTo ((b - pc) / 4)).all fun i => v / 2 ^ (32 * i) % 2 ^ 32 == 0x13) && startsTcw w then some b else none
  | _, _ => none

/-- An application core's instruction, of 16 or 32 bits; an interrupt that is due comes before it (R92, 09 R248, log
entry 15). -/
def fetchApp (s : State) : Res (State × Instr) := do
  (match s.me.pipe, takenIntr s s.cur.unit s.cur.slot with
   | .idle, some i => raise (512 + i) 0
   | _, _ => .ok ())
  let pc0 := s.me.pc.toNat
  let (t, lo) ← fetch s pc0 2
  if lo % 4 != 3 then .ok (t, .vacantEncoding (BitVec.ofNat 256 lo) false)
  else do
    let (t, hi) ← fetch t (pc0 + 2) 2
    let w := lo + 2 ^ 16 * hi
    .ok (t, if startsTcw w then .vacantEncoding (BitVec.ofNat 256 w) false else decodeWord32 w)

/-- The padding nops before a TCW have issued: k of them (R37). They count in `instret` and among the instructions of a reservation, as
instructions that retire, of which the spec says nothing (DESIGN CHOICE, log entry 41). -/
def Slot.skipped (h : Slot) (b k : Nat) : Slot :=
  { h with pc := w64 b, instret := h.instret + w64 k, resv := h.resv.map fun r => { r with age := r.age + k } }

/-- The instruction at the PC of a hart of a core, an update core or a CMC. A TCW on another slot than 0 or off a 32-byte
boundary, and every word that encodes nothing, is a vacant encoding (R13, R87). -/
def fetchWord (s : State) : Res (State × Instr) := do
  let lead := isCore s.cur.unit && s.cur.slot == 0
  let pc0 := s.me.pc.toNat
  let (t, w0) ← fetch s pc0 4
  let skip := if lead && w0 == 0x13 && pc0 % 32 != 0 then skipPadding t pc0 else none
  match skip with
  | some b =>
    let t := t.modMe fun h => h.skipped b ((b - pc0) / 4)
    let (t, v) ← fetch t b 32
    .ok (t, decodeTcw (BitVec.ofNat 256 v))
  | none =>
    if startsTcw w0 then
      if lead && pc0 % 32 == 0 then do
        let (t, v) ← fetch t pc0 32
        .ok (t, decodeTcw (BitVec.ofNat 256 v))
      else .ok (t, .vacantEncoding (BitVec.ofNat 256 w0) false)
    else .ok (t, decodeWord32 w0)

/-- The instruction at the executing hart's PC. -/
def fetchInstr (s : State) : Res (State × Instr) := if isApp s.cur.unit then fetchApp s else fetchWord s

/-- A fetch that stops. A fault in fetching the first instruction of a CMC's trap vector is a DOUBLE_FAULT (18
R413); the trap record's INSTR of an instruction that could not be fetched is an open value (log entry 2). -/
def fetchStop (s : State) (e : Stop) : Host.Outcome State Fault Refusal :=
  let u := s.cur.unit
  match e with
  | .trap c v =>
    if isCmc u && s.me.pc == (if s.me.priv = 3 then s.me.mtvec else s.me.pv.stvec) &&& 0xFFFFFFFFFFFFFFFC#64 then
      .next ((s.modUnit u fun x => { x with halted := true }).later (.doubleFault (u - 192)))
    else finish (s.freeWord.toNat % 2 ^ 32) (s.took.modMe Slot.unpark) (.error (.trap c v))
  | e => finish 0 s (.error e)

/-- A slot issues (R15): it is now the most recent issuer of its unit. -/
def State.issuing (s : State) (a : Agent) : State :=
  { s with cur := a }.modUnit a.unit fun x => { x with lastIssued := a.slot }

end Sys2Proof.Machine
end

