-- ==== Sys2Proof/Machine/Flags.lean ====
section
/-! DEFINITION. The sticky flags of hxfflags (01 R27). How each operation computes its flags stands with the
operation in Numbers.lean, VectorOps.lean and TileOps.lean. -/

namespace Sys2Proof.Machine

open Sys2Proof

/-- Flags set in a slot's hxfflags: they stay until software clears them. -/
def State.flag (s : State) (u k : Nat) (f : Flags) : State :=
  s.modHart u k fun h => { h with fflags := h.fflags ||| f }

/-- Flags set by the executing hart. -/
def State.flagMe (s : State) (f : Flags) : State := s.modMe fun h => { h with fflags := h.fflags ||| f }

end Sys2Proof.Machine
end

