-- ==== Sys2Proof/Machine/Operands.lean ====
section
/-! DEFINITION. The scalar operand forms: one and two x-registers, a base with a 12-bit displacement, and the
aligned blocks in memory that an operand names (03 R93, R94). -/

namespace Sys2Proof.Machine

open Sys2Proof

/-- Two x-register sources, rs1 before rs2 (R21). -/
def read2 (s : State) (a b : BitVec 5) : Res (State × Word × Word) := do
  let (s, x) ← readX s a
  let (s, y) ← readX s b
  .ok (s, x, y)

/-- The address xa + imm, modulo 2^64 (formats XI and XS). -/
def readAddr (s : State) (a : BitVec 5) (i : BitVec 12) : Res (State × Nat) := do
  let (s, x) ← readX s a
  .ok (s, (x + simm i).toNat)

/-- A block of n bytes named by an address that must be a multiple of `al`, as words. -/
def loadBlock (s : State) (va n al : Nat) : Res (State × List Word) := do
  needAligned va al
  let (s, v) ← loadSpan s va n true
  .ok (s, wordsOf (n / 8) v)

/-- Word i of a block. -/
def nthWord (ws : List Word) (i : Nat) : Word := ws.getD i 0

/-- Check the held-zero bits of a block's words: the first word whose bits under its mask are set makes the
instruction ILLEGAL with that word's address (18 R415). -/
def needHeldZero (va : Nat) (ws : List Word) (masks : List Nat) : Res Unit :=
  match ((upTo masks.length).find? fun i => (nthWord ws i).toNat &&& masks.getD i 0 != 0) with
  | some i => raise cIllegal (va + 8 * i)
  | none => .ok ()

end Sys2Proof.Machine
end

