-- ==== Sys2Proof/Machine/Base.lean ====
section
/-! DEFINITION. The RISC-V base: RV64IM, Zba, Zbb, Zicond, loads and stores, AMOs, LR and SC, fences, ecall,
ebreak and wfi (03 R91, Table 3.2). -/

namespace Sys2Proof.Machine

open Sys2Proof

/-! ### Values -/

def low32 (v : Word) : BitVec 32 := v.setWidth 32
def sext32 (v : BitVec 32) : Word := v.signExtend 64

/-- DIV and REM of RISC-V: by zero all ones and the dividend; the overflow gives the dividend and 0. -/
def divS (n : Nat) (a b : BitVec n) : BitVec n := if b = 0 then BitVec.allOnes n else a.sdiv b
def remS (n : Nat) (a b : BitVec n) : BitVec n := if b = 0 then a else a.srem b
def divU (n : Nat) (a b : BitVec n) : BitVec n := if b = 0 then BitVec.allOnes n else a.udiv b
def remU (n : Nat) (a b : BitVec n) : BitVec n := if b = 0 then a else a.umod b

/-- The high half of a product of two integers. -/
def mulHigh (a b : Int) : Word := ofI (a * b / 2 ^ 64)

/-- The register-register operations. -/
def aluVal (op : AluOp) (a b : Word) : Word :=
  let sh := b.toNat % 64
  match op with
  | .add => a + b
  | .sub => a - b
  | .sll => a <<< sh
  | .slt => if a.slt b then 1 else 0
  | .sltu => if a.ult b then 1 else 0
  | .xor => a ^^^ b
  | .srl => a >>> sh
  | .sra => a.sshiftRight sh
  | .or => a ||| b
  | .and => a &&& b
  | .mul => a * b
  | .mulh => mulHigh a.toInt b.toInt
  | .mulhsu => mulHigh a.toInt b.toNat
  | .mulhu => mulHigh a.toNat b.toNat
  | .div => divS 64 a b
  | .divu => divU 64 a b
  | .rem => remS 64 a b
  | .remu => remU 64 a b
  | .sh1add => (a <<< 1) + b
  | .sh2add => (a <<< 2) + b
  | .sh3add => (a <<< 3) + b
  | .andn => a &&& ~~~b
  | .orn => a ||| ~~~b
  | .xnor => ~~~(a ^^^ b)
  | .min => if a.slt b then a else b
  | .minu => if a.ult b then a else b
  | .max => if a.slt b then b else a
  | .maxu => if a.ult b then b else a
  | .rol => a.rotateLeft sh
  | .ror => a.rotateRight sh
  | .czeroEqz => if b = 0 then 0 else a
  | .czeroNez => if b = 0 then a else 0

/-- The 32-bit register-register operations; results are sign-extended, the .uw forms zero-extend rs1. -/
def aluWVal (op : AluWOp) (a b : Word) : Word :=
  let x := low32 a
  let y := low32 b
  let sh := b.toNat % 32
  let u : Word := x.setWidth 64
  match op with
  | .addw => sext32 (x + y)
  | .subw => sext32 (x - y)
  | .sllw => sext32 (x <<< sh)
  | .srlw => sext32 (x >>> sh)
  | .sraw => sext32 (x.sshiftRight sh)
  | .mulw => sext32 (x * y)
  | .divw => sext32 (divS 32 x y)
  | .divuw => sext32 (divU 32 x y)
  | .remw => sext32 (remS 32 x y)
  | .remuw => sext32 (remU 32 x y)
  | .rolw => sext32 (x.rotateLeft sh)
  | .rorw => sext32 (x.rotateRight sh)
  | .addUw => u + b
  | .sh1addUw => (u <<< 1) + b
  | .sh2addUw => (u <<< 2) + b
  | .sh3addUw => (u <<< 3) + b

def aluIVal (op : AluIOp) (a i : Word) : Word :=
  match op with
  | .addi => a + i
  | .slti => if a.slt i then 1 else 0
  | .sltiu => if a.ult i then 1 else 0
  | .xori => a ^^^ i
  | .ori => a ||| i
  | .andi => a &&& i
  | .addiw => sext32 (low32 (a + i))

def shiftVal (op : ShiftOp) (a : Word) (n : Nat) : Word :=
  match op with
  | .slli => a <<< n
  | .srli => a >>> n
  | .srai => a.sshiftRight n
  | .rori => a.rotateRight n
  | .slliUw => ((low32 a).setWidth 64 : Word) <<< n
  | .slliw => sext32 (low32 a <<< n)
  | .srliw => sext32 (low32 a >>> n)
  | .sraiw => sext32 ((low32 a).sshiftRight n)
  | .roriw => sext32 ((low32 a).rotateRight n)

/-- Leading zeros among the low n bits. -/
def clzN : Nat → Nat → Nat
  | 0, _ => 0
  | n + 1, v => if v / 2 ^ n % 2 = 1 then 0 else clzN n v + 1
/-- Trailing zeros among n bits. -/
def ctzN : Nat → Nat → Nat
  | 0, _ => 0
  | n + 1, v => if v % 2 = 1 then 0 else ctzN n (v / 2) + 1

/-- The bytes of a word mapped and put in the places `to` gives. -/
def mapBytes (f pos : Nat → Nat) (v : Nat) : Word :=
  w64 ((upTo 8).foldl (fun a i => a + f (v / 256 ^ i % 256) * 256 ^ pos i) 0)

def unaryVal (op : UnaryOp) (a : Word) : Word :=
  match op with
  | .clz => w64 (clzN 64 a.toNat)
  | .ctz => w64 (ctzN 64 a.toNat)
  | .cpop => w64 (popcount 64 a.toNat)
  | .clzw => w64 (clzN 32 (a.toNat % 2 ^ 32))
  | .ctzw => w64 (ctzN 32 (a.toNat % 2 ^ 32))
  | .cpopw => w64 (popcount 32 (a.toNat % 2 ^ 32))
  | .sextb => (a.setWidth 8).signExtend 64
  | .sexth => (a.setWidth 16).signExtend 64
  | .zexth => (a.setWidth 16).setWidth 64
  | .orcb => mapBytes (fun b => if b = 0 then 0 else 255) id a.toNat
  | .rev8 => mapBytes id (fun i => 7 - i) a.toNat

def brTaken (c : BrCond) (a b : Word) : Bool :=
  match c with
  | .eq => a == b
  | .ne => a != b
  | .lt => a.slt b
  | .ge => !a.slt b
  | .ltu => a.ult b
  | .geu => !a.ult b

/-! ### Control transfer -/

/-- A jump to an address: MISALIGNED off a multiple of 4 (R87); an application core, with compressed
instructions, takes multiples of 2. -/
def jumpTo (s : State) (t : Word) : Res State := do
  need (t.toNat % 4 == 0 || (isApp s.cur.unit && t.toNat % 2 == 0)) (.trap cMisaligned t.toNat)
  .ok (s.modMe fun h => { h with pc := t })

/-- A computational, branch or jump instruction, with the PC past it. -/
def rvBody (op : RvOp) (s : State) : Res State :=
  match op with
  | .lui rd imm => writeX s rd ((imm ++ 0#12).signExtend 64)
  | .auipc rd imm => writeX s rd (s.ipc + (imm ++ 0#12).signExtend 64)
  | .jal rd off => do
    let t := s.ipc + (off ++ 0#1).signExtend 64
    let s1 ← jumpTo s t
    writeX s1 rd s.me.pc
  | .jalr rd rs1 imm => do
    let (s1, x) ← readX s rs1
    let s2 ← jumpTo s1 ((x + simm imm) &&& ~~~1#64)
    writeX s2 rd s.me.pc
  | .branch c rs1 rs2 off => do
    let (s1, x, y) ← read2 s rs1 rs2
    if brTaken c x y then jumpTo s1 (s.ipc + (off ++ 0#1).signExtend 64) else .ok s1
  | .alu op rd rs1 rs2 => do
    let (s, x, y) ← read2 s rs1 rs2
    writeX s rd (aluVal op x y)
  | .aluW op rd rs1 rs2 => do
    let (s, x, y) ← read2 s rs1 rs2
    writeX s rd (aluWVal op x y)
  | .aluI op rd rs1 imm => do
    let (s, x) ← readX s rs1
    writeX s rd (aluIVal op x (simm imm))
  | .shift op rd rs1 amt => do
    let (s, x) ← readX s rs1
    writeX s rd (shiftVal op x amt.toNat)
  | .unary op rd rs1 => do
    let (s, x) ← readX s rs1
    writeX s rd (unaryVal op x)

/-- An instruction of Zba, Zbb or Zicond. -/
def rvExtended (op : RvOp) : Bool :=
  match op with
  | .alu o _ _ _ =>
    match o with
    | .add | .sub | .sll | .slt | .sltu | .xor | .srl | .sra | .or | .and | .mul | .mulh | .mulhsu | .mulhu | .div | .divu | .rem | .remu => false
    | _ => true
  | .aluW o _ _ _ =>
    match o with
    | .addw | .subw | .sllw | .srlw | .sraw | .mulw | .divw | .divuw | .remw | .remuw => false
    | _ => true
  | .shift o _ _ _ =>
    match o with
    | .rori | .slliUw | .roriw => true
    | _ => false
  | .unary _ _ _ => true
  | _ => false

/-- The base of the executing unit has an instruction: the update cores are RV64IMA and the application cores RV64GCH, where Zba, Zbb
and Zicond are vacant (R91, R92, 17 R405). The CMCs, whose base the spec does not name, have the cores' (PRESUMED, log entry 15). -/
def State.onBase (s : State) (op : RvOp) : Bool := !rvExtended op || isCore s.cur.unit || isCmc s.cur.unit

def execRvAluOrBranch (op : RvOp) (s : State) : Host.Outcome State Fault Refusal :=
  issue (.rvAluOrBranch op) (s.onBase op) s (rvBody op)

/-! ### Loads and stores (R232) -/

def loadSize (op : LoadOp) : Nat :=
  match op with
  | .lb | .lbu => 1
  | .lh | .lhu => 2
  | .lw | .lwu => 4
  | .ld => 8

/-- The register value of a loaded number. -/
def loadVal (op : LoadOp) (v : Nat) : Word :=
  match op with
  | .lb => (BitVec.ofNat 8 v).signExtend 64
  | .lh => (BitVec.ofNat 16 v).signExtend 64
  | .lw => (BitVec.ofNat 32 v).signExtend 64
  | .ld | .lbu | .lhu | .lwu => w64 v

def storeSizeOf (op : StoreOp) : Nat :=
  match op with
  | .sb => 1
  | .sh => 2
  | .sw => 4
  | .sd => 8

def rvLoadBody (op : LoadOp) (d a : BitVec 5) (i : BitVec 12) (s : State) : Res State := do
  let (s, va) ← readAddr s a i
  needAligned va (loadSize op)
  let (s, v) ← loadAt s va (loadSize op)
  writeX s d (loadVal op v)

def execRvLoad (op : LoadOp) (d a : BitVec 5) (i : BitVec 12) (s : State) : Host.Outcome State Fault Refusal :=
  issue (.rvLoad op d a i) s.onAny s (rvLoadBody op d a i)

def rvStoreBody (op : StoreOp) (a b : BitVec 5) (i : BitVec 12) (s : State) : Res State := do
  let (s, va) ← readAddr s a i
  let (s, y) ← readX s b
  needAligned va (storeSizeOf op)
  storeAt s va (storeSizeOf op) (y.toNat % 2 ^ (8 * storeSizeOf op))

def execRvStore (op : StoreOp) (a b : BitVec 5) (i : BitVec 12) (s : State) : Host.Outcome State Fault Refusal :=
  issue (.rvStore op a b i) s.onAny s (rvStoreBody op a b i)

/-! ### Atomics (R235, Table 3.2) -/

def amoVal (op : AmoOp) (n : Nat) (a b : BitVec n) : BitVec n :=
  match op with
  | .swap => b
  | .add => a + b
  | .xor => a ^^^ b
  | .and => a &&& b
  | .or => a ||| b
  | .min => if a.slt b then a else b
  | .max => if a.slt b then b else a
  | .minu => if a.ult b then a else b
  | .maxu => if a.ult b then b else a

/-- The waits of aq (an acquire) and rl (a release) at system scope. -/
def waitAqRl (s : State) (aq rl : Bool) : Res Unit := do
  (if rl then waitRelease s else .ok ())
  if aq then waitAcquire s 6 else .ok ()

def rvAmoBody (op : AmoOp) (dbl aq rl : Bool) (d a b : BitVec 5) (s : State) : Res State := do
  let (s, x, y) ← read2 s a b
  let n := if dbl then 64 else 32
  needAligned x.toNat (n / 8)
  waitAqRl s aq rl
  let (s, old) ← atomicAt s x.toNat (n / 8) .both true
    fun o => some (amoVal op n (BitVec.ofNat n o) (y.setWidth n)).toNat
  let s := if aq then s.acquired else s
  writeX s d ((BitVec.ofNat n old).signExtend 64)

def execRvAmo (op : AmoOp) (dbl aq rl : Bool) (d a b : BitVec 5) (s : State) : Host.Outcome State Fault Refusal :=
  issue (.rvAmo op dbl aq rl d a b) s.onAny s (rvAmoBody op dbl aq rl d a b)

/-- LR reads the line as its home holds it, or as a copy that no invalidation on its way supersedes: a write between its read
and the SC loses the reservation. -/
def lrBody (dbl aq rl : Bool) (d a : BitVec 5) (s : State) : Res State := do
  let (s, x) ← readX s a
  let n := if dbl then 8 else 4
  needAligned x.toNat n
  waitAqRl s aq rl
  let (s, v) ← loadAcc (s.applyInvals (unitDie s.cur.unit)) x.toNat n .load true true
  let s := if aq then s.acquired else s
  let s := s.modMe fun h => { h with resv := h.wline.map fun l => { line := l, age := 0 } }
  writeX s d (if dbl then w64 v else sext32 (BitVec.ofNat 32 v))

def execLr (dbl aq rl : Bool) (d a : BitVec 5) (s : State) : Host.Outcome State Fault Refusal :=
  issue (.lr dbl aq rl d a) s.onAny s (lrBody dbl aq rl d a)

/-- Whether the reservation still holds for a line: at most 64 instructions lie between (Table 3.2). -/
def resvHolds (h : Slot) (line : Nat) : Bool :=
  match h.resv with
  | some r => r.line == line && decide (r.age ≤ 65)
  | none => false

def scBody (dbl aq rl : Bool) (d a b : BitVec 5) (s : State) : Res State := do
  let (s, x, y) ← read2 s a b
  let n := if dbl then 8 else 4
  needAligned x.toNat n
  waitAqRl s aq rl
  let (s, p) ← locate s x.toNat n .store false
  need (!p.dev) (.trap cPermission x.toNat)
  waitMmrev s
  let ok := resvHolds s.me (lineOf p.pa)
  needRequest s (!ok || p.win || (!p.bypass && storeHit s s.cur.unit p.pa))
  let s := if ok then replied (storePlace s p n (y.toNat % 2 ^ (8 * n)) false) s.cur.unit s.cur.slot else s
  let s := if aq then s.acquired else s
  let s := s.modMe fun h => { h with resv := none }
  writeX s d (if ok then 0 else 1)

def execSc (dbl aq rl : Bool) (d a b : BitVec 5) (s : State) : Host.Outcome State Fault Refusal :=
  issue (.sc dbl aq rl d a b) s.onAny s (scBody dbl aq rl d a b)

/-! ### Fences, calls and waits -/

/-- FENCE.S at a scope code (R260, R273). -/
def fenceBody (scope : Nat) (s : State) : Res State := do
  waitTfence s
  waitRelease s
  waitAcquire s scope
  .ok s.acquired

def execFence (fm pred succ : BitVec 4) (d a : BitVec 5) (s : State) : Host.Outcome State Fault Refusal :=
  issue (.fence fm pred succ d a) s.onAny s fun t => if pred = 0 ∨ succ = 0 then .ok t else fenceBody 6 t

/-- A locked line of code fetched again; it stays as it is where its address no longer translates. -/
def icRefetch (s : State) (u : Nat) (l : ICLine) : State :=
  match translate s u (s.unit u).job (256 * l.line) .fetch with
  | (t, .ok pa e) => icFill t u (256 * l.line) pa true e.n
  | _ => s

/-- A locked line of code has to wait for its fetch: at a return cursor, or for a VSTPAIR that holds its line. -/
def icWaits (s : State) (u : Nat) (l : ICLine) : Bool :=
  match translate s u (s.unit u).job (256 * l.line) .fetch with
  | (_, .wait) => true
  | (t, .ok pa _) => pairLocked t (lineOf pa)
  | _ => false

/-- FENCE.I (Table 3.2). -/
def execFenceI (d a : BitVec 5) (i : BitVec 12) (s : State) : Host.Outcome State Fault Refusal :=
  issue (.fenceI d a i) s.onAny s fun t => do
    need (t.mine.wt == []) (.hold none)
    let locked := t.mine.icache.filter fun l => l.locked
    need (locked.all fun l => !icWaits t t.cur.unit l) (.hold none)
    let t := t.modMine fun x => { x with icache := locked }
    .ok (locked.reverse.foldl (fun t l => icRefetch t t.cur.unit l) t)

def execEcall (s : State) : Host.Outcome State Fault Refusal :=
  issue .ecall s.onAny s fun _ => if s.onService then .error .illegal else raise cEcall 0

def execEbreak (s : State) : Host.Outcome State Fault Refusal :=
  issue .ebreak s.onAny s fun _ => raise cBreak 0

/-- wfi: a slot that comes back from its park with a wake goes on; else it parks on no address (R323). An interrupt that is
pending and enabled ends the wait of an application core at once; TW and VTW trap it below M-mode (log entry 15). -/
def wfiBody (h : Slot) (s : State) : Res State := do
  let own := isCmc s.cur.unit || isApp s.cur.unit
  need (!own || h.priv == 3 || !h.pv.mstatus.getLsbD bTW) .illegal
  need (!own || !h.pv.virt || !h.pv.hstatus.getLsbD bTW) (.trap cVirtual 0)
  need ((h.park == 4 && h.woken) || pendingIntrs s s.cur.unit s.cur.slot != []) (.park 4 0 none)
  .ok (s.modMe fun h => { h with woken := false })

def execWfi (s : State) : Host.Outcome State Fault Refusal := issue .wfi s.onAny s (wfiBody s.me)

end Sys2Proof.Machine
end

