-- ==== Sys2Proof/Machine/Scalar.lean ====
section
/-! DEFINITION. The scalar extension instructions: the format prefix, stream generators, queue registers, block
instructions, instruction-cache locks and cache-hint accesses (04). -/

namespace Sys2Proof.Machine

open Sys2Proof

/-- A device step takes a hart's place for an access, and gives it back. -/
def State.asHart (s : State) (u k : Nat) : State := { s with cur := { unit := u, slot := k } }
def State.back (s t : State) : State := { t with cur := s.cur }

/-! ### The format prefix (R113) -/

def execFmt (p : BitVec 12) (s : State) : Host.Outcome State Fault Refusal :=
  issue (.fmt p) s.onCoreU s fun t => .ok (t.modMe fun h => { h with pp := true, pfx := p })

/-! ### Stream generators (R116 to R121) -/

/-- Unbind a generator: BOUND and COUNT clear, elements fetched ahead go (R120). -/
def StreamGen.unbind (g : StreamGen) : StreamGen := if g.bound then { g with bound := false, count := 0, ahead := [] } else g

/-- An x-register number from a generator's. -/
def xg (g : BitVec 2) : Nat := 28 + g.toNat

def sbindBody (g : BitVec 2) (a b : BitVec 5) (s : State) : Res State := do
  let (s, x, c) ← read2 s a b
  let size := 2 ^ wfld c 3 2
  let stride : BitVec 16 := BitVec.ofNat 16 (wfld c 31 16)
  needValue (wfld c 63 32 != 0) b
  needValue (wfld c 15 4 == 0 && wfld c 0 0 == 0) b
  needAligned x.toNat size
  need (wfld c 31 16 % size == 0) (.trap cMisaligned (x + stride.signExtend 64).toNat)
  let old := (s.me.gen g.toNat).unbind
  .ok (s.modMe fun h => h.setGen g.toNat
    { old with count := BitVec.ofNat 32 (wfld c 63 32), stride := stride, ew := BitVec.ofNat 2 (wfld c 3 2),
               dir := wbit c 1, bound := true, next := x, ahead := [] })

def execSbind (g : BitVec 2) (a b : BitVec 5) (s : State) : Host.Outcome State Fault Refusal :=
  issue (.sbind g a b) s.onCore s (sbindBody g a b)

def execSunbind (g : BitVec 2) (s : State) : Host.Outcome State Fault Refusal :=
  issue (.sunbind g) s.onCore s fun t => .ok (t.modMe fun h => h.setGen g.toNat (h.gen g.toNat).unbind)

def execSgstat (d : BitVec 5) (g : BitVec 2) (s : State) : Host.Outcome State Fault Refusal :=
  issue (.sgstat d g) s.onCore s fun t =>
    let x := t.me.gen g.toNat
    writeX t d (if x.bound then x.next else x.last)

/-- The fault that a fetch ahead records against its element, with the element's address (R118, log entry 50). -/
def streamFault (e : Stop) : Option Nat :=
  match e with
  | .trap c _ => some c
  | .loc c _ _ => some c
  | _ => none

/-- A fetch ahead that misses L1 finds no request free, or others waiting for one (09 R241). -/
def streamWaits (s : State) (va n : Nat) : Bool :=
  match locate s va n .load false with
  | .ok (t, p) =>
    isCore s.cur.unit && !(p.win || p.dev || sectorsHit (fun a => (t.l1Hit t.cur.unit a).isSome) p.pa n)
      && !requestFree t t.cur.unit (27, s.cur.slot) (27, s.cur.slot)
  | .error _ => false

/-- Where an element is fetched from. -/
def streamPa (s : State) (va n : Nat) : Nat :=
  match locate s va n .load false with
  | .ok (_, p) => p.pa
  | .error _ => 0

/-- STREAM_FETCH: the next element fetched ahead, by a load of the slot (R117); a fault is recorded and stops the
fetching. It waits where the load would wait. -/
def execStreamFetch (u k i : Nat) (s : State) : Host.Outcome State Fault Refusal :=
  let g := (s.hart u k).gen i
  let stopped := g.ahead.any fun e => e.fault.isSome
  if !g.bound || g.dir || stopped || decide (8 ≤ g.ahead.length) || decide (g.count.toNat ≤ g.ahead.length) then .next s
  else
    let va := g.next + g.stride.signExtend 64 * w64 g.ahead.length
    let add (t : State) (e : StreamElt) : State :=
      t.modHart u k fun h => h.setGen i { h.gen i with ahead := (h.gen i).ahead ++ [e] }
    if streamWaits (s.asHart u k) va.toNat (2 ^ g.ew.toNat) then .next s
    else
    match loadAt (s.asHart u k) va.toNat (2 ^ g.ew.toNat) with
    | .ok (t, v) =>
      .next (add (s.back (t.modHart u k fun h => { h with sg := (s.hart u k).sg }))
        { value := w64 v, fault := none, line := (t.hart u k).wline, pa := streamPa (s.asHart u k) va.toNat (2 ^ g.ew.toNat), stale := false })
    | .error e =>
      match streamFault e with
      | some c => .next (add s { value := 0, fault := some (c, va), line := none, pa := 0, stale := false })
      | none => .next s

/-- STREAM_STORE_ACCEPT: L1 accepts an appended element (R119). -/
def execStreamStoreAccept (u k i : Nat) (s : State) : Host.Outcome State Fault Refusal :=
  let g := (s.hart u k).gen i
  if g.unaccepted = 0 then .next s
  else .next (s.modHart u k fun h => h.setGen i { g with unaccepted := g.unaccepted - 1 })

/-! ### Queue registers (R122 to R125) -/

/-- Byte n of hxqbind: VALID and PORT (R31). -/
def Slot.qByte (h : Slot) (n : Nat) : Nat := wfld h.qbind (8 * n + 7) (8 * n)
def Slot.qValid (h : Slot) (n : Nat) : Bool := decide (128 ≤ h.qByte n)
def Slot.qPort (h : Slot) (n : Nat) : Nat := h.qByte n % 128
def Slot.queue (h : Slot) (n : Nat) : List Word := fget h.q n []
def Slot.setQueue (h : Slot) (n : Nat) (v : List Word) : Slot := { h with q := fset h.q n v }

/-- Engine ports (Table 4.2). -/
def portLocal : Nat := 0
def portTile : Nat := 1
def portCompl : Nat := 2
def portAllowed (p k : Nat) : Bool :=
  p == portLocal || (p == portTile && k == 0) || p == portCompl || (decide (8 ≤ p) && decide (p ≤ 15))

/-- The queue that binds a port. -/
def Slot.portQueue (h : Slot) (p : Nat) : Option Nat := (upTo 8).find? fun n => h.qValid n && h.qPort n == p

/-- QUEUE_HELD_DELIVERY: the oldest value held for a port enters the queue that binds it, when it has room; a
slot in `wfi` wakes (R124, 12 R323). -/
def queueHeld (s : State) (u k port : Nat) : State :=
  let h := s.hart u k
  match h.portQueue port, findPos (fun p : Nat × Word => p.1 == port) h.held with
  | some n, some i =>
    if (h.queue n).length < 8 then
      match h.held[i]? with
      | some (_, v) =>
        s.modHart u k fun h =>
          { h.setQueue n (h.queue n ++ [v]) with held := dropAt h.held i, woken := h.woken || h.park == 4 }
      | none => s
    else s
  | _, _ => s

def execQueueHeldDelivery (u k port : Nat) (s : State) : Host.Outcome State Fault Refusal := .next (queueHeld s u k port)

/-- An engine delivers a value to a port of a slot: behind the values already held for it, and at once when the
queue has room (R124). -/
def deliverPort (s : State) (u k port : Nat) (v : Word) : State :=
  queueHeld (s.modHart u k fun h => { h with held := h.held ++ [(port, v)] }) u k port

/-- The values held for a slot whose context is saved go with the context (R125, 11 R300). -/
def State.stowHeld (s : State) (u k : Nat) : State :=
  let h := s.hart u k
  match h.held with
  | [] => s
  | xs =>
    let away (p : Nat × Word) : HeldValue := { job := (s.unit u).job, unit := u, cont := h.cont, port := p.1, value := p.2 }
    { s.modHart u k fun h => { h with held := [] } with heldAway := s.heldAway ++ xs.map away }

/-- The values held for a saved context come back to the slot that restores it: of the same task, or of the unit's own handler. -/
def State.takeHeld (s : State) (u k : Nat) : State :=
  let h := s.hart u k
  let mine (e : HeldValue) : Bool := e.job == (s.unit u).job && e.cont == h.cont && (h.cont != 0 || e.unit == u)
  match s.heldAway.filter mine with
  | [] => s
  | xs =>
    { s.modHart u k fun h => { h with held := h.held ++ xs.map fun e => (e.port, e.value) } with
      heldAway := s.heldAway.filter fun e => !mine e }

/-- An operand with bits 63:8 set, or with a port and VALID clear, is ILLEGAL with the register's number (log entry 44). -/
def qbindBody (n : BitVec 3) (a : BitVec 5) (s : State) : Res State := do
  let (s, x) ← readX s a
  let h := s.me
  let p := wfld x 6 0
  needValue (wfld x 63 8 == 0) a
  (if wbit x 7 then do
    needValue (portAllowed p s.cur.slot) a
    needValue (p == portLocal || (upTo 8).all fun m => m == n.toNat || !(h.qValid m && h.qPort m == p)) a
  else needValue (p == 0) a)
  let byte : Nat := if wbit x 7 then 128 + p else 0
  let mask : Word := w64 (put 255 (8 * n.toNat))
  .ok (s.modMe fun h =>
    { h.setQueue n.toNat [] with
      qbind := (h.qbind &&& ~~~mask) ||| w64 (put byte (8 * n.toNat))
      poison := h.poison.filter fun r => r != 52 + n.toNat })

def execQbind (n : BitVec 3) (a : BitVec 5) (s : State) : Host.Outcome State Fault Refusal :=
  issue (.qbind n a) s.onCore s (qbindBody n a)

/-- A queue that is bound, or QUEUE_UNBOUND (R31, R123). -/
def needQueue (s : State) (n : BitVec 3) : Res Unit := need (s.me.qValid n.toNat) (.trap cQueueUnbound n.toNat)

def qpushBody (n : BitVec 3) (a : BitVec 5) (s : State) : Res State := do
  let (s, x) ← readX s a
  needQueue s n
  need (s.me.qPort n.toNat == portLocal) (.trap cIllegal n.toNat)
  need (decide ((s.me.queue n.toNat).length < 8)) (.park 2 (32 + n.toNat) none)
  .ok (s.modMe fun h => h.setQueue n.toNat (h.queue n.toNat ++ [x]))

def execQpush (n : BitVec 3) (a : BitVec 5) (s : State) : Host.Outcome State Fault Refusal :=
  issue (.qpush n a) s.onCore s (qpushBody n a)

/-- The head of a queue taken into an x-register; a completion entry is an acquire at system scope (R124). -/
def takeHead (d : BitVec 5) (n : BitVec 3) (v : Word) (rest : List Word) (s : State) : Res State := do
  need (!s.me.poison.contains (52 + n.toNat)) (.trap cPoison (0x2100000000000000 + 52 + n.toNat))
  let compl := s.me.qPort n.toNat == portCompl
  (if compl then waitAcquire s 6 else .ok ())
  let s := s.modMe fun h => h.setQueue n.toNat rest
  let s := if compl then s.acquired else s
  writeX s d v

def qpopBody (d : BitVec 5) (n : BitVec 3) (s : State) : Res State := do
  needQueue s n
  match s.me.queue n.toNat with
  | [] => .error (.park 1 n.toNat none)
  | v :: rest => takeHead d n v rest s

def execQpop (d : BitVec 5) (n : BitVec 3) (s : State) : Host.Outcome State Fault Refusal :=
  issue (.qpop d n) s.onCore s (qpopBody d n)

def qpollBody (d : BitVec 5) (n : BitVec 3) (s : State) : Res State := do
  needQueue s n
  match s.me.queue n.toNat with
  | [] => .ok s
  | v :: rest => takeHead d n v rest s

def execQpoll (d : BitVec 5) (n : BitVec 3) (s : State) : Host.Outcome State Fault Refusal :=
  issue (.qpoll d n) s.onCore s (qpollBody d n)

def execQcnt (d : BitVec 5) (n : BitVec 3) (s : State) : Host.Outcome State Fault Refusal :=
  issue (.qcnt d n) s.onCore s fun t => do
    needQueue t n
    writeX t d (w64 (t.me.queue n.toNat).length)

/-! ### Block instructions (R126 to R128): one step of at most 256 bytes a time -/

/-- The fields of a block instruction: written fields are not x0, no two are the same, none is bound (R126). -/
def needBlockFields (s : State) (written all : List (BitVec 5)) : Res Unit :=
  need (written.all (fun r => r != 0) && decide all.Nodup && all.all fun r => !s.me.isBound r.toNat) .illegal

/-- A block instruction after a step: it issues again unless nothing is left. -/
def blockNext (s : State) (left : Nat) : State :=
  if left = 0 then s else (s.again 4).modMe fun h => { h with blockStep := h.blockStep + 1 }

def bmoveBody (d a b : BitVec 5) (s : State) : Res State := do
  needBlockFields s [d, a, b] [d, a, b]
  let (s, xd) ← readX s d
  let (s, xa) ← readX s a
  let (s, xb) ← readX s b
  let dst := xd.toNat
  let src := xa.toNat
  let cnt := xb.toNat
  if cnt = 0 then .ok s
  else if src < dst ∧ dst < src + cnt then do
    let e := dst + cnt
    let n := min cnt (e - 256 * ((e - 1) / 256))
    let lo := e - n
    let (s, v) ← loadSpan s (src + (lo - dst)) n true
    let s ← storeAcc s lo n v .store false true
    .ok (blockNext (s.modMe fun h => h.setReg b.toNat (xb - w64 n)) (cnt - n))
  else do
    let n := min cnt (256 - dst % 256)
    let (s, v) ← loadSpan s src n true
    let s ← storeAcc s dst n v .store false true
    .ok (blockNext (s.modMe fun h =>
      ((h.setReg d.toNat (xd + w64 n)).setReg a.toNat (xa + w64 n)).setReg b.toNat (xb - w64 n)) (cnt - n))

def execBmove (d a b : BitVec 5) (s : State) : Host.Outcome State Fault Refusal :=
  issue (.bmove d a b) s.onCore s (bmoveBody d a b)

/-- k copies of a pattern of n bytes. -/
def repeated (v n : Nat) : Nat → Nat
  | 0 => 0
  | k + 1 => v + 2 ^ (8 * n) * repeated v n k

/-- One step of a fill: `size` bytes of pattern v at a time. -/
def fillStep (d a : BitVec 5) (xd xa : Word) (v size : Nat) (s : State) : Res State := do
  let n := min xa.toNat (256 - xd.toNat % 256)
  let s ← storeAcc s xd.toNat n (repeated v size (n / size)) .store false true
  .ok (blockNext (s.modMe fun h => (h.setReg d.toNat (xd + w64 n)).setReg a.toNat (xa - w64 n)) (xa.toNat - n))

def bfillwBody (d a b : BitVec 5) (s : State) : Res State := do
  needBlockFields s [d, a] [d, a, b]
  let (s, xd) ← readX s d
  let (s, xa) ← readX s a
  let (s, xb) ← readX s b
  if xa = 0 then .ok s
  else do
    needAligned xd.toNat 8
    needValue (xa.toNat % 8 == 0) a
    fillStep d a xd xa xb.toNat 8 s

def execBfillw (d a b : BitVec 5) (s : State) : Host.Outcome State Fault Refusal :=
  issue (.bfillw d a b) s.onCore s (bfillwBody d a b)

def repbBody (d a b : BitVec 5) (s : State) : Res State := do
  needBlockFields s [d, a] [d, a, b]
  let (s, xd) ← readX s d
  let (s, xa) ← readX s a
  let (s, xb) ← readX s b
  if xa = 0 then .ok s else fillStep d a xd xa (xb.toNat % 256) 1 s

def execRepb (d a b : BitVec 5) (s : State) : Host.Outcome State Fault Refusal :=
  issue (.repb d a b) s.onCore s (repbBody d a b)

/-! ### Instruction-cache locks (R129 to R131) -/

/-- The virtual lines that meet [xa, xa + n - 1]. -/
def spanLines (xa n : Nat) : List Nat :=
  if n = 0 then [] else (upTo ((xa + n - 1) / 256 - xa / 256 + 1)).map (· + xa / 256)

/-- Every line of the span translates with X; the first that does not, in address order, gives the cause, where the spec does not say
which of two causes on different lines is raised (R130; DESIGN CHOICE, log entry 44). -/
def lockTranslate (s : State) (xa line : Nat) : Res (State × Nat × Bool) :=
  let va := max xa (256 * line)
  match translate s s.cur.unit s.mine.job va .fetch with
  | (_, .wait) => .error (.hold none)
  | (_, .raise c v) => raise c v
  | (t, .ok pa e) =>
    if regionOf pa = 3 then raise cPermission va
    else if !backed t pa then raise cNoRange va
    else do
      need (!pairLocked t (lineOf pa)) (.hold none)
      .ok (t, pa, e.n)

/-- Lock one line that translates to pa, unless its set has 2 locked ways or the core 128 locked lines. -/
def lockLine (s : State) (line pa : Nat) (bypass : Bool) : State :=
  let x := s.mine
  let locked := (x.icache.filter fun l => l.locked).map (fun l => l.line) ++ x.relock.filter fun l => l != line
  if x.icache.any fun l => l.locked && l.line == line then s
  else if decide (2 ≤ (locked.filter fun l => l % 64 == line % 64).length) || decide (128 ≤ locked.length) then s
  else if (icFind x line).isSome then
    s.modMine fun x => { x with icache := x.icache.map fun l => if l.line = line ∧ l.job = x.job then { l with locked := true } else l }
  else icFill s s.cur.unit (256 * line) pa true bypass

/-- Every line of a span translated, in address order (R130): the line, its place, and whether no cache keeps it. -/
def lockPlaces (s : State) (xa : Nat) (lines : List Nat) : Res (State × List (Nat × Nat × Bool)) :=
  lines.foldlM (fun st l => do
    let (t, pa, n) ← lockTranslate st.1 xa l
    .ok (t, st.2 ++ [(l, pa, n)])) (s, [])

/-- The lines that translated, locked in order (R130). -/
def lockLines (s : State) (ps : List (Nat × Nat × Bool)) : State := ps.foldl (fun t p => lockLine t p.1 p.2.1 p.2.2) s

def iclockBody (d a b : BitVec 5) (s : State) : Res State := do
  let (s, xa, xb) ← read2 s a b
  needValue (decide (xb.toNat ≤ 0x8000)) b
  let lines := spanLines xa.toNat xb.toNat
  let (s, ps) ← lockPlaces s xa.toNat lines
  needRequest s (ps.all fun p => (icFind s.mine p.1).isSome)
  let s := lockLines s ps
  writeX s d (w64 (lines.filter fun l => s.mine.icache.any fun y => y.locked && y.line == l).length)

def execIclock (d a b : BitVec 5) (s : State) : Host.Outcome State Fault Refusal :=
  issue (.iclock d a b) s.onCore s (iclockBody d a b)

def icunlkBody (a b : BitVec 5) (s : State) : Res State := do
  let (s, xa, xb) ← read2 s a b
  needValue (decide (xb.toNat ≤ 0x8000)) b
  let lines := spanLines xa.toNat xb.toNat
  .ok (s.modMine fun x => { x with relock := x.relock.filter fun l => !lines.contains l
                                   icache := x.icache.map fun l => if lines.contains l.line then { l with locked := false } else l })

def execIcunlk (a b : BitVec 5) (s : State) : Host.Outcome State Fault Refusal :=
  issue (.icunlk a b) s.onCore s (icunlkBody a b)

/-! ### Cache-hint accesses (R133, R134) -/

def ldnaBody (d a : BitVec 5) (i : BitVec 12) (s : State) : Res State := do
  let (s, va) ← readAddr s a i
  needAligned va 8
  let (s, v) ← loadAcc s va 8 .load false false
  writeX s d (w64 v)

def execLdna (d a : BitVec 5) (i : BitVec 12) (s : State) : Host.Outcome State Fault Refusal :=
  issue (.ldna d a i) s.onCoreUC s (ldnaBody d a i)

def stbyBody (a b : BitVec 5) (i : BitVec 12) (s : State) : Res State := do
  let (s, va) ← readAddr s a i
  let (s, y) ← readX s b
  needAligned va 8
  storeAcc s va 8 y.toNat .store true false

def execStby (a b : BitVec 5) (i : BitVec 12) (s : State) : Host.Outcome State Fault Refusal :=
  issue (.stby a b i) s.onCoreUC s (stbyBody a b i)

/-- A line hinted into L1: nothing when it does not translate to readable, unlocked, cached memory, and nothing while a
VSTPAIR holds the line or every request of the core is in use. -/
def prefetch (s : State) (va : Nat) : State :=
  let u := s.cur.unit
  match translate s u s.mine.job va .load with
  | (t, .ok pa e) =>
    if isCore u && decide (regionOf pa < 3) && backed t pa && !e.n && (lockedByte t u va va false).isNone
        && !pairLocked t (lineOf pa) && requestFree t u t.request t.waiter && (t.l1Hit u pa).isNone then t.l1Fill u pa
    else s
  | _ => s

def execPref (a : BitVec 5) (i : BitVec 12) (s : State) : Host.Outcome State Fault Refusal :=
  issue (.pref a i) s.onCoreUC s fun t => do
    let (t, va) ← readAddr t a i
    .ok (prefetch t va)

end Sys2Proof.Machine
end

