-- ==== Sys2Proof/Machine/Fences.lean ====
section
/-! DEFINITION. The ordering instructions of the consistency model (10 R269 to R275). -/

namespace Sys2Proof.Machine

open Sys2Proof

def ldaqBody (d a : BitVec 5) (sc : Scope) (s : State) : Res State := do
  let (s, x) ← readX s a
  needAligned x.toNat 8
  waitAcquire s sc.code.toNat
  let (s, v) ← loadAt s x.toNat 8
  writeX s.acquired d (w64 v)

def execLdaq (d a : BitVec 5) (sc : Scope) (s : State) : Host.Outcome State Fault Refusal :=
  issue (.ldaq d a sc) s.onAny s (ldaqBody d a sc)

/-- STRL keeps its slot in the pipe until it has performed (R271). -/
def strlBody (a b : BitVec 5) (s : State) : Res State := do
  let (s, x, y) ← read2 s a b
  needAligned x.toNat 8
  waitRelease s
  let s ← storeAt s x.toNat 8 y.toNat
  .ok (replied s s.cur.unit s.cur.slot)

def execStrl (a b : BitVec 5) (sc : Scope) (s : State) : Host.Outcome State Fault Refusal :=
  issue (.strl a b sc) s.onAny s (strlBody a b)

/-- The entry that covers an address, none for a window, with no permission and no lock checked (R272). -/
def rangeOfAddress (s : State) (va : Nat) : Res (State × Option RangeEntry) := do
  if s.onCore && decide (coreWindow + residentBase ≤ va) && decide (va < coreWindow + 0x80000) then .ok (s, none)
  else
    match ← windowAddr s va 1 .load with
    | some _ => .ok (s, none)
    | none =>
      match findRange s s.cur.unit s.mine.job va with
      | (t, some e) => if e.state = stInvalid then raise cNoRange va else .ok (t, some e)
      | (_, none) => raise cNoRange va

/-- The slot's earlier accesses that an entry translated have performed; accesses to a window perform at once. -/
def performedIn (s : State) (e : Option RangeEntry) : Bool :=
  match e with
  | none => true
  | some r => s.mine.wt.all fun w => w.slot != s.cur.slot || !r.covers w.va

/-- FENCE.RG (R261, R272). -/
def fenceRgBody (a : BitVec 5) (scope : Nat) (s : State) : Res State := do
  let (s, x) ← readX s a
  let (s, e) ← rangeOfAddress s x.toNat
  waitTfence s
  need (performedIn s e) (.hold none)
  waitAcquire s scope
  .ok s.acquired

def execFenceRg (a : BitVec 5) (sc : Scope) (s : State) : Host.Outcome State Fault Refusal :=
  issue (.fenceRg a sc) s.onAny s (fenceRgBody a sc.code.toNat)

def execFenceS (sc : Scope) (s : State) : Host.Outcome State Fault Refusal :=
  issue (.fenceS sc) s.onAny s (fenceBody sc.code.toNat)

/-- FENCE.E waits for the engine operations that were outstanding when it issued (R262). -/
def fenceEBody (s : State) : Res State := do
  let out := s.mine.ops.map (·.serial)
  let waits := match s.me.pipe with
    | .engines xs => xs.filter fun n => out.contains n
    | _ => out
  need (waits == []) (.hold (some (.engines waits)))
  waitAcquire s 6
  .ok (s.acquired.modMe fun h => { h with pipe := .idle })

def execFenceE (s : State) : Host.Outcome State Fault Refusal := issue .fenceE s.onAny s fenceEBody

/-- The new value of AMOSC; none for a failed cas. -/
def scVal (op : ScOp) (old b expected : Word) : Option Word :=
  match op with
  | .add => some (old + b)
  | .swap => some b
  | .cas => if old = expected then some b else none
  | .min => some (if old.slt b then old else b)
  | .max => some (if old.slt b then b else old)

/-- AMOSC: announced in the order S, and performed there at the home slice (R263, R275). -/
def amoscBody (op : ScOp) (d a b : BitVec 5) (s : State) : Res State := do
  let (s, x, y) ← read2 s a b
  let (s, e) ← if op = .cas then readX s d else .ok (s, 0)
  needAligned x.toNat 8
  waitRelease s
  waitAcquire s 5
  let (s, old) ← atomicAt s x.toNat 8 .both false fun o => (scVal op (w64 o) y e).map BitVec.toNat
  let s := { s with scOrder := s.cur :: s.scOrder }
  writeX s.acquired d (w64 old)

def execAmosc (op : ScOp) (d a b : BitVec 5) (s : State) : Host.Outcome State Fault Refusal :=
  issue (.amosc op d a b) s.onAny s (amoscBody op d a b)

end Sys2Proof.Machine
end

