-- ==== Sys2Proof/Machine/VectorOps.lean ====
section
/-! DEFINITION. What vector instructions compute: operand formats, elements and masks, exact results and their one
encoding, the approximated forms, reductions, quantisation, permutes and memory forms (05). -/

namespace Sys2Proof.Machine

open Sys2Proof

/-! ### Formats and elements (R135 to R141) -/

/-- The code that stands for FP32 beside the codes of Table 2.1. -/
def vF32 : Nat := 16

/-- Width of a vector operand format. -/
def vWidth (f : Nat) : Nat := if f = vF32 then 32 else fmtBits f

/-- The vector formats of R139. -/
def isVFmt (f : Nat) : Bool := f == 0 || f == 1 || f == 2 || f == 3 || f == 7 || f == 8

/-- The exact value of an element's bits. -/
def vDecode (f v : Nat) : Val := if f = vF32 then ffp32.decode (v % 2 ^ 32) else decodeElem f (v % 2 ^ fmtBits f)

/-- An exact result before its one encoding: a value, a quotient, or the FP32 value of an approximated form. -/
inductive Exact where
  | val (v : Val) (fl : Flags)
  | frac (neg : Bool) (num den : Nat) (fl : Flags)
  | approx (bits : Nat) (fl : Flags)
  deriving DecidableEq, Repr

/-- Encode into a vector format (R60, R64, R141). -/
def vEncodeVal (f : Nat) (x : Val) (rm : Nat) (sat : Bool) (r : Nat) : Nat × Flags :=
  if f = vF32 then ffp32.encode x rm sat r else encodeElem f x rm sat r

def vEncode (f : Nat) (e : Exact) (rm : Nat) (sat : Bool) (r : Nat) : Nat × Flags :=
  match e with
  | .val v fl => let (b, g) := vEncodeVal f v rm sat r; (b, fl ||| g)
  | .approx b fl => if f = vF32 then (b, fl) else let (c, g) := vEncodeVal f (ffp32.decode b) rm sat r; (c, fl ||| g)
  | .frac s n d fl =>
    if f = vF32 then let (b, g) := ffp32.encodeFrac s n d rm sat r; (b, fl ||| g)
    else
      match fmtF? f with
      | some y => let (b, g) := y.encodeFrac s n d rm sat r; (b, fl ||| g)
      | none =>
        let (lo, hi) := fmtInt f
        let (i, g) := encodeIntFrac lo hi s n d rm r
        ((i % 2 ^ fmtBits f).toNat, fl ||| g)

/-- NV for a signalling operand of an arithmetic operation (R59). The conversions count as such; the equality and unordered
predicates of VCMP do not (log entry 44). -/
def sigFlag (xs : List Val) : Flags := flagIf (xs.any Val.isSig) fNV

/-! ### Exact results (Table 5.7, R148) -/

def exAdd (a b : Val) : Exact := let (v, nv) := a.add b; .val v (flagIf nv fNV)
def exSub (a b : Val) : Exact := let (v, nv) := a.add b.negate; .val v (flagIf nv fNV)
def exMul (a b : Val) : Exact := let (v, nv) := a.mul b; .val v (flagIf nv fNV)
/-- a·b + c with one rounding; 0·∞ is invalid even when c is a NaN. -/
def exFma (a b c : Val) : Exact :=
  let (p, nv) := a.mul b
  let (v, nv2) := p.add c
  .val v (flagIf (nv || nv2) fNV)
/-- c - a·b with one rounding. -/
def exFnma (a b c : Val) : Exact :=
  let (p, nv) := a.mul b
  let (v, nv2) := c.add p.negate
  .val v (flagIf (nv || nv2) fNV)

def exDiv (a b : Val) : Exact :=
  match a, b with
  | .nan s, .nan t => .val (.nan false) (flagIf (s || t) fNV)
  | .nan s, _ => .val (.nan false) (flagIf s fNV)
  | _, .nan t => .val (.nan false) (flagIf t fNV)
  | .inf _, .inf _ => .val (.nan false) fNV
  | .inf x, .fin y _ _ => .val (.inf (x != y)) 0
  | .fin x _ _, .inf y => .val (.fin (x != y) 0 0) 0
  | .fin x m e, .fin y n f =>
    if n = 0 then (if m = 0 then .val (.nan false) fNV else .val (.inf (x != y)) fDZ)
    else let p := pow2Frac (e - f); .frac (x != y) (m * p.1) (n * p.2) 0

/-- The integer square root, bit by bit from bit k - 1. -/
def isqrtFrom (n : Nat) : Nat → Nat → Nat
  | 0, r => r
  | k + 1, r => isqrtFrom n k (if (r + 2 ^ k) * (r + 2 ^ k) ≤ n then r + 2 ^ k else r)
def isqrt (n : Nat) : Nat := isqrtFrom n (Nat.log2 n / 2 + 1) 0

/-- The square root of num·2^e as a fraction that rounds as the root does: 90 or more bits of it, and a half
unit below them for a remainder. -/
def sqrtFrac (m : Nat) (e : Int) : Nat × Nat :=
  let (m, e) := if e % 2 = 0 then (m, e) else (2 * m, e - 1)
  let k : Nat := 100
  let n := m * 2 ^ (2 * k)
  let r := isqrt n
  let num := 2 * r + (if r * r = n then 0 else 1)
  let p := pow2Frac (e / 2 - (k : Int) - 1)
  (num * p.1, p.2)

def exSqrt (b : Val) : Exact :=
  match b with
  | .nan s => .val (.nan false) (flagIf s fNV)
  | .inf n => if n then .val (.nan false) fNV else .val (.inf false) 0
  | .fin s m e =>
    if m = 0 then .val (.fin s 0 0) 0
    else if s then .val (.nan false) fNV
    else let (n, d) := sqrtFrac m e; .frac false n d 0

def exMax (a b : Val) : Exact := .val (a.maxNum b) (sigFlag [a, b])
def exMin (a b : Val) : Exact := .val (a.minNum b) (sigFlag [a, b])
def exAbs (b : Val) : Exact := .val (if b.isNan then .nan false else b.absolute) (sigFlag [b])
/-- VNEG. R148 gives no sign for what it makes of an integer-format zero in a floating fd: the zero counts as +0 and gives -0 (DESIGN
CHOICE, log entry 44). -/
def exNeg (b : Val) : Exact := .val (if b.isNan then .nan false else b.negate) (sigFlag [b])

/-! ### The approximated forms (R149): one of the two FP32 neighbours of the exact result, by a fixed open
function of the operand (log entry 2) -/

/-- The neighbour above or below an exact magnitude num/den, as the open choice says. -/
def neighbour (neg : Bool) (num den pick : Nat) : Exact :=
  let (t, fl) := ffp32.encodeFrac false num den 1 false 0
  let up := pick % 2 = 1 ∧ t < ffp32.maxCode
  .approx ((if up then t + 1 else t) + (if neg then 2 ^ 31 else 0)) (fNX ||| (fl &&& fUF))

/-- Whether m·2^e is a power of two, and its exponent. -/
def powerOf2? (m : Nat) (e : Int) : Option Int := if m = 2 ^ Nat.log2 m then some (Nat.log2 m + e) else none

/-- The FP32 bits of 2^k, for a representable k. -/
def pow2Bits (k : Int) : Nat := (ffp32.encode (.fin false 1 k) 0 false 0).1

def exRsq (b : Val) : Exact :=
  match b with
  | .nan s => .val (.nan false) (flagIf s fNV)
  | .inf n => if n then .val (.nan false) fNV else .val (.fin false 0 0) 0
  | .fin s m e =>
    if m = 0 then .val (.inf s) fDZ
    else if s then .val (.nan false) fNV
    else
      match powerOf2? m e with
      | some k =>
        if k % 2 = 0 then .approx (pow2Bits (-k / 2)) 0
        else let (n, d) := sqrtFrac m e; neighbour false d n (Config.rsqApprox (BitVec.ofNat 32 (roundFp32 b).1))
      | none => let (n, d) := sqrtFrac m e; neighbour false d n (Config.rsqApprox (BitVec.ofNat 32 (roundFp32 b).1))

/-- Fixed point of the constants 2^(2^-i) and of their products. -/
def expScale : Nat := 2 ^ 128

/-- 2^f for f the fraction bits of `v` below bit `k`, as a product of square roots of 2, scaled by expScale. -/
def exp2Frac (v : Nat) : Nat → Nat → Nat → Nat
  | 0, _, acc => acc
  | k + 1, root, acc =>
    let root := isqrt (root * expScale)
    exp2Frac v k root (if v.testBit k then acc * root / expScale else acc)

def exExp2 (b : Val) : Exact :=
  match b with
  | .nan s => .val (.nan false) (flagIf s fNV)
  | .inf n => if n then .val (.fin false 0 0) 0 else .val (.inf false) 0
  | .fin s m e =>
    let pick := Config.exp2Approx (BitVec.ofNat 32 (roundFp32 b).1)
    -- b as an integer part n and a fraction of 2^-160
    let fixed : Int := let a : Int := if 0 ≤ e + 160 then m * 2 ^ (e + 160).toNat else m / 2 ^ (-(e + 160)).toNat
                       if s then -a else a
    let n := fixed / 2 ^ 160
    let f := (fixed % 2 ^ 160).toNat
    if m = 0 then .approx (pow2Bits 0) 0
    else if 128 ≤ n then .val (.inf false) (fOF ||| fNX)
    else if n < -200 then neighbour false 1 (2 ^ 200) pick
    else if f = 0 ∧ -149 ≤ n then .approx (pow2Bits n) 0
    else
      let v := exp2Frac f 160 (2 * expScale) expScale
      let p := pow2Frac n
      neighbour false (v * p.1 * 2 + 1) (expScale * p.2 * 2) pick

/-- k bits of log2 of y / 2^160, for y between 1 and 2 in that scale. -/
def log2Bits : Nat → Nat → Nat
  | 0, _ => 0
  | k + 1, y =>
    let z := y * y / 2 ^ 160
    if 2 ^ 161 ≤ z then 2 ^ k + log2Bits k (z / 2) else log2Bits k z

def exLog2 (b : Val) : Exact :=
  match b with
  | .nan s => .val (.nan false) (flagIf s fNV)
  | .inf n => if n then .val (.nan false) fNV else .val (.inf false) 0
  | .fin s m e =>
    if m = 0 then .val (.inf true) fDZ
    else if s then .val (.nan false) fNV
    else
      match powerOf2? m e with
      | some k => .approx (ffp32.encode (Val.ofInt k) 0 false 0).1 0
      | none =>
        let k : Int := Nat.log2 m + e
        let y := m * 2 ^ 160 / 2 ^ Nat.log2 m
        let v : Int := k * 2 ^ 80 + log2Bits 80 y
        neighbour (v < 0) (2 * v.natAbs + 1) (2 ^ 81) (Config.log2Approx (BitVec.ofNat 32 (roundFp32 b).1))

/-! ### The instruction's context -/

/-- What an instruction in the unit works on: width, length, lanes, active elements, mode, generator. -/
structure VCtx where
  w : Nat
  vl : Nat
  act : List Nat
  rm : Nat
  lfsr : BitVec 32
  /-- Formats of Va, Vb and Vd. -/
  fa : Nat
  fb : Nat
  fd : Nat
  /-- Bits of a mask register. -/
  lanes : Nat
  deriving DecidableEq, Repr

def ewBits (ew : BitVec 2) : Nat := 8 * 2 ^ ew.toNat
def lanesOf (u : Nat) : Nat := if isUcore u then 32 else 64
def vlmax (u : Nat) (ew : BitVec 2) : Nat := 32 * lanesOf u / ewBits ew

/-- Active elements (R137). -/
def activeElems (w vl : Nat) (mk : VMask) (h : Slot) : List Nat :=
  (upTo vl).filter fun i => !mk.en || (fget h.m mk.sel.toNat 0).getLsbD (i * w / 32)

/-- Element i of a register, n bits wide. -/
def getElem (h : Slot) (r n i : Nat) : Nat := (fget h.v r 0).toNat / 2 ^ (n * i) % 2 ^ n

/-- A register with n bits at bit p replaced. -/
def patchReg (v : VecReg) (p n x : Nat) : VecReg :=
  let mask : VecReg := BitVec.ofNat 2048 ((2 ^ n - 1) * 2 ^ p)
  (v &&& ~~~mask) ||| BitVec.ofNat 2048 (x % 2 ^ n * 2 ^ p)

/-- A slot with elements of a register replaced. A register of that many lanes whose bytes are all written holds no poison. -/
def Slot.setElems (h : Slot) (lanes r n : Nat) (xs : List (Nat × Nat)) : Slot :=
  { h with v := fset h.v r (xs.foldl (fun v p => patchReg v (n * p.1) n p.2) (fget h.v r 0)),
           poison := if 32 * lanes ≤ n * xs.length then h.poison.filter fun p => p != 32 + r else h.poison }
def Slot.setMask (h : Slot) (k : Nat) (v : Word) : Slot :=
  { h with m := fset h.m k v, poison := h.poison.filter fun p => p != 48 + k }

/-- One encoding for each active element, in order; in SR mode each takes the generator's next state (R62). -/
def encodeElems (c : VCtx) (ex : Nat → Exact) (claims : Bool) : List (Nat × Nat) × Flags :=
  let r := c.act.foldl (fun (st : List (Nat × Nat) × Flags × BitVec 32) i =>
    let l := if c.rm = 2 && claims then lfsrNext st.2.2 else st.2.2
    let (b, g) := vEncode c.fd (ex i) c.rm false l.toNat
    (st.1 ++ [(i, b)], st.2.1 ||| g, l)) ([], 0, c.lfsr)
  (r.1, r.2.1)

/-- Operands: element i of Va or the x-register in its place (R140), of Vb, of Vd. -/
def opA (c : VCtx) (h : Slot) (a : BitVec 4) (i : Nat) : Val := vDecode c.fa (getElem h a.toNat (vWidth c.fa) i)
def opX (c : VCtx) (x : Word) (_ : Nat) : Val := vDecode c.fa x.toNat
def opB (c : VCtx) (h : Slot) (b : BitVec 4) (i : Nat) : Val := vDecode c.fb (getElem h b.toNat (vWidth c.fb) i)
def opD (c : VCtx) (h : Slot) (d : BitVec 4) (i : Nat) : Val := vDecode c.fd (getElem h d.toNat (vWidth c.fd) i)

/-- An arithmetic form's result in a slot: elements and flags (R147). -/
def arith (c : VCtx) (h : Slot) (d : BitVec 4) (ex : Nat → Exact) (claims : Bool) : Slot :=
  let (xs, fl) := encodeElems c ex claims
  { h.setElems c.lanes d.toNat (vWidth c.fd) xs with fflags := h.fflags ||| fl }

/-! ### Compare, select, logic, shifts, moves -/

/-- A predicate on exact values, and NV for an ordered one with a NaN (R150). -/
def predHolds (p : Pred) (a b : Val) : Bool × Flags :=
  let uo := a.isNan || b.isNan
  match p with
  | .eq => (a.eq b, 0)
  | .ne => (!a.eq b, 0)
  | .uo => (uo, 0)
  | .lt => (a.lt b, flagIf uo fNV)
  | .le => (!uo && !b.lt a, flagIf uo fNV)
  | .gt => (b.lt a, flagIf uo fNV)
  | .ge => (!uo && !a.lt b, flagIf uo fNV)

def compare (c : VCtx) (h : Slot) (k : BitVec 2) (p : Pred) (a b : Nat → Val) : Slot :=
  let rs := c.act.map fun i => (i * c.w / 32, predHolds p (a i) (b i))
  let bits := (upTo c.lanes).foldl (fun n l =>
    let xs := rs.filter fun r => r.1 == l
    if xs != [] && xs.all (fun r => r.2.1) then n + 2 ^ l else n) 0
  { h.setMask k.toNat (w64 bits) with fflags := h.fflags ||| rs.foldl (fun f r => f ||| r.2.2) 0 }

/-- Raw elements of width w computed for each element in a list. -/
def raw (c : VCtx) (h : Slot) (d : BitVec 4) (is : List Nat) (f : Nat → Nat) : Slot :=
  h.setElems c.lanes d.toNat c.w (is.map fun i => (i, f i))

def shlElem (w x n : Nat) : Nat := x * 2 ^ (n % w) % 2 ^ w
def shrElem (w x n : Nat) : Nat := x / 2 ^ (n % w)
def sraElem (w x n : Nat) : Nat := (sInt w x / 2 ^ (n % w) % 2 ^ w).toNat

/-- VSLIDE (R157). -/
def slide (c : VCtx) (h : Slot) (d b : BitVec 4) (a : Int) : Slot :=
  raw c h d c.act fun i =>
    let j := (i : Int) + a
    if 0 ≤ j ∧ j < c.vl then getElem h b.toNat c.w j.toNat else 0

/-! ### Conversion, quantisation, reductions -/

/-- VCVT's formats from PFX (R153): source and destination; none when PFX is not one of Table 5.9's. -/
def vcvtFormats (p : Nat) : Option (Nat × Nat) :=
  let fb := p / 16 % 16
  let fd := p / 256
  if p / 8 % 2 = 1 then none
  else
    match p % 4 with
    | 0 => if fb = 0 && isVFmt fd then some (vF32, fd) else none
    | 1 => if fd = 0 && isVFmt fb then some (fb, vF32) else none
    | 2 => if isVFmt fb && isVFmt fd then some (fb, fd) else none
    | _ => none

def convert (c : VCtx) (h : Slot) (d b : BitVec 4) (sat : Bool) : Slot :=
  let r := c.act.foldl (fun (st : List (Nat × Nat) × Flags × BitVec 32) i =>
    let l := if c.rm = 2 then lfsrNext st.2.2 else st.2.2
    let x := opB c h b i
    let (y, g) := vEncode c.fd (.val x (sigFlag [x])) c.rm sat l.toNat
    (st.1 ++ [(i, y)], st.2.1 ||| g, l)) ([], 0, c.lfsr)
  { h.setElems c.lanes d.toNat (vWidth c.fd) r.1 with fflags := h.fflags ||| r.2.1 }

/-- VQNT (R154): blocks of 32 FP32 elements into elements of Vd and scale bytes of Va. -/
def quantise (c : VCtx) (h : Slot) (d a b : BitVec 4) (target : Nat) : Slot :=
  (upTo (c.vl / 32)).foldl (fun t blk =>
    let xs := (upTo 32).map fun k => ffp32.decode (getElem h b.toNat 32 (32 * blk + k))
    let (sc, ys, fl, _) := quantiseBlock target xs
    let n := fmtBits target
    let t := t.setElems c.lanes d.toNat n ((upTo 32).map fun k => (32 * blk + k, ys.getD k 0))
    { t.setElems c.lanes a.toNat 8 [(blk, sc)] with fflags := t.fflags ||| fl }) h

/-- VRSUM (R155): the tree of R83, then one further level with the starting value on the right. -/
def reduceSum (c : VCtx) (h : Slot) (d a b : BitVec 4) : Slot :=
  let s := opA c h a 0
  -- level 0 is exact; every combination is one Encode into fd
  let step (x y : Val) (l : BitVec 32) : Nat × Flags :=
    let (v, nv) := x.add y
    let (r, g) := vEncode c.fd (.val v (flagIf nv fNV)) c.rm false l.toNat
    (r, g)
  let next (l : BitVec 32) : BitVec 32 := if c.rm = 2 then lfsrNext l else l
  let pairs := fun (xs : List Val) (l : BitVec 32) (fl : Flags) =>
    let rec go : List Val → BitVec 32 → Flags → List Val × BitVec 32 × Flags
      | x :: y :: t, l, fl =>
        let l := next l
        let (r, g) := step x y l
        let (vs, l2, fl2) := go t l (fl ||| g)
        (vDecode c.fd r :: vs, l2, fl2)
      | xs, l, fl => (xs, l, fl)
    go xs l fl
  let (xs, l, fl) := (upTo 9).foldl (fun (st : List Val × BitVec 32 × Flags) _ =>
    if st.1.length ≤ 1 then st else pairs st.1 st.2.1 st.2.2) (c.act.map (opB c h b), c.lfsr, 0)
  let tree := xs.headD Val.zero
  let (r, g) := step tree s (next l)
  { h.setElems c.lanes d.toNat (vWidth c.fd) [(0, r)] with fflags := h.fflags ||| fl ||| g }

/-- VRMAX and VRMIN (R155): exact combinations and one Encode. -/
def reduceBest (c : VCtx) (h : Slot) (d a b : BitVec 4) (best : Val → Val → Val) : Slot :=
  let s := opA c h a 0
  let xs := c.act.map (opB c h b)
  let v := best (xs.foldl best (.nan false)) s
  let l := if c.rm = 2 then lfsrNext c.lfsr else c.lfsr
  let (r, g) := vEncode c.fd (.val v (sigFlag (s :: xs))) c.rm false l.toNat
  { h.setElems c.lanes d.toNat (vWidth c.fd) [(0, r)] with fflags := h.fflags ||| g }

/-! ### Memory forms (R144 to R146) -/

/-- A range conflict of an element reports the element's address (R145). -/
def elemConflict {α : Type} (va : Nat) (r : Res α) : Res α :=
  match r with
  | .error (.loc c d k) => .error (.loc c (if c = cRangeConflict then w64 va else d) k)
  | r => r

/-- Every element's checks before any access (R145). -/
def checkElems (s : State) (n : Nat) (a : Acc) (xs : List (Nat × Nat)) : Res State :=
  xs.foldlM (fun t p => do
    needAligned p.2 n
    let (t, _) ← elemConflict p.2 (locate t p.2 n a true)
    .ok t) s

/-- One element's load; a poisoned element raises POISON with its address (R145, log entry 50). -/
def loadElem (s : State) (va n : Nat) (a : Acc) : Res (State × Nat) :=
  match loadAcc s va n a true true with
  | .error (.trap c v) => if c = cPoison then raise cPoison va else raise c v
  | r => r

/-- The elements (index, address) loaded, after every check. -/
def loadElems (s : State) (n : Nat) (xs : List (Nat × Nat)) : Res (State × List (Nat × Nat)) := do
  let s ← checkElems s n .load xs
  xs.foldlM (fun st p => do
    let (t, v) ← loadElem st.1 p.2 n .load
    .ok (t, st.2 ++ [(p.1, v)])) (s, [])

/-- The elements (value, address) stored in increasing index, after every check, as parts of one instruction of an issue
step: they have no order among themselves (R146). -/
def storeElems (s : State) (step : BitVec 48) (n : Nat) (a : Acc) (xs : List (Nat × Nat)) : Res State := do
  let s ← checkElems s n a xs
  waitMmrev s
  xs.foldlM (fun t p => storePart t step p.2 n p.1 a false true) s

end Sys2Proof.Machine
end

