-- ==== Sys2Proof/Machine/Steps.lean ====
section
/-! DEFINITION. Steps, stamped words and paired weights: the scalar stamped forms, STEPINC, GSWAIT, WINSET, VSTPAIR
and the slices' part in it (17 R388 to R411). The vector stamped forms stand in Vector.lean; the publication of the
global steps and the wrap sweep in Publish.lean. -/

namespace Sys2Proof.Machine

open Sys2Proof

/-! ### Local and global steps (R388 to R393, R399, R400) -/

/-- The step domain of a unit's job: STEPDOM of its descriptor (R389). -/
def stepDomain (s : State) (u : Nat) : Option Nat := (jobWord? s (s.unit u).job 0).map fun w => wfld w 20 18

/-- Whether `hxstep` may hold a value (R393): at most 2^21 - 1 ahead of `hxgstep`, and of the crossing point of a
running sweep of the domain. -/
def stepAllowed (s : State) (u step : Nat) : Bool :=
  decide (step ≤ (s.unit u).gstep.toNat + (2 ^ 21 - 1))
    && (match stepDomain s u with
        | some d =>
          let w := fget s.pkg.sweep d Sweep.reset
          !w.run || decide (step ≤ w.point.toNat + (2 ^ 21 - 1))
        | none => true)

def stepincBody (a : BitVec 5) (s : State) : Res State := do
  let (s, x) ← readX s a
  let n := s.mine.step.toNat + x.toNat
  needValue (decide (x.toNat < 2 ^ 21) && decide (n < 2 ^ 48)) a
  if x = 0 then .ok s
  else do
    need (stepAllowed s s.cur.unit n) (.park 13 0 (some 0))
    .ok (s.modMine fun u => { u with step := BitVec.ofNat 48 n })

def execStepinc (a : BitVec 5) (s : State) : Host.Outcome State Fault Refusal :=
  issue (.stepinc a) s.onCoreU s (stepincBody a)

/-- GSWAIT completes as an acquire at system scope (R392, R400). -/
def gswaitBody (a : BitVec 5) (s : State) : Res State := do
  let (s, x) ← readX s a
  need (decide (x.toNat < s.mine.gstep.toNat)) (.park 13 0 (some 0))
  waitAcquire s 6
  .ok s.acquired

def execGswait (a : BitVec 5) (s : State) : Host.Outcome State Fault Refusal :=
  issue (.gswait a) s.onCoreU s (gswaitBody a)

/-! ### The stamped word (R394 to R397) -/

/-- A stamped word's fields (Table 17.1). -/
def swValue (w : Nat) : Nat := w % 2 ^ 32
def swStamp (w : Nat) : Nat := fld w 55 32
def swClass (w : Nat) : Nat := fld w 59 56
def swSettled (w : Nat) : Bool := w.testBit 60
/-- The word of a stamped write: bits 63:61 zero. -/
def swWord (v s c : Nat) (z : Bool) : Nat := v % 2 ^ 32 + put (s % 2 ^ 24) 32 + put (c % 16) 56 + bitAt z 60

/-- The reset value of hxdtc.LAMBDA, 1.0 (01 R33). -/
def lambdaReset : BitVec 32 := 0x3F800000#32
/-- The decay factor of a class on a unit. -/
def lambdaOf (x : UnitSt) (c : Nat) : Nat := (fget x.dt c lambdaReset).toNat
/-- P(c, n) of R402. -/
def powerOf (x : UnitSt) (c n : Nat) : Nat := decayPower (lambdaOf x c) n

/-- Canon (R397). -/
def canonFp32 (v : Nat) : Nat := if (ffp32.decode v).isNan then 0x7FC00000 else v
/-- Decay (R396). -/
def decayed (x : UnitSt) (v c n : Nat) : Nat := canonFp32 (decayValue v (lambdaOf x c) n)
/-- Round (R402): one rounding of an exact value into FP32 by RNE, any NaN canonical. -/
def roundOnce (v : Val) : Nat := canonFp32 (roundFp32 v).1

/-- The age of a stamp at a step (R396). -/
def ageOf (r s : Nat) : Nat := (r % 2 ^ 24 + 2 ^ 24 - s % 2 ^ 24) % 2 ^ 24
def agePast (d : Nat) : Bool := decide (d < 2 ^ 23)
def ageFuture (d : Nat) : Bool := decide (2 ^ 24 - 2 ^ 22 ≤ d)

/-- StampedRead: the value and whether FUTURE is set; none for STAMP_WINDOW. -/
def stampedRead (x : UnitSt) (w r : Nat) : Option (Nat × Bool) :=
  if swSettled w then some (canonFp32 (swValue w), false)
  else
    let d := ageOf r (swStamp w)
    if agePast d then some (decayed x (swValue w) (swClass w) d, false)
    else if ageFuture d then some (canonFp32 (swValue w), true)
    else none

/-- AddAt: the new word and FUTURE; none for STAMP_WINDOW. -/
def addAt (x : UnitSt) (w v t : Nat) : Option (Nat × Bool) :=
  let a := ffp32.decode (swValue w)
  let b := ffp32.decode v
  let c := swClass w
  if swSettled w then some (swWord (roundOnce (a.add b).1) t c true, false)
  else
    let d := ageOf t (swStamp w)
    if agePast d then
      some (swWord (roundOnce ((a.mul (ffp32.decode (powerOf x c d))).1.add b).1) t c false, false)
    else if ageFuture d then
      some (swWord (roundOnce (a.add (b.mul (ffp32.decode (powerOf x c (2 ^ 24 - d)))).1).1) (swStamp w) c false, true)
    else none

/-- MergeAt: the new word; none for STAMP_WINDOW. -/
def mergeAt (x : UnitSt) (w y : Nat) : Option Nat :=
  let e := ageOf (swStamp y) (swStamp w)
  if !agePast e && !ageFuture e then none
  else
    let m := if agePast e then swStamp y else swStamp w
    let p (z : Bool) (c s : Nat) : Val :=
      if z then .fin false 1 0 else ffp32.decode (powerOf x c (ageOf m s))
    let v := ((ffp32.decode (swValue w)).mul (p (swSettled w) (swClass w) (swStamp w))).1
    let u := ((ffp32.decode (swValue y)).mul (p (swSettled y) (swClass y) (swStamp y))).1
    some (swWord (roundOnce (v.add u).1) m (swClass w) (swSettled w))

/-- The issue step's low 24 bits. -/
def stepOf (s : State) : Nat := s.mine.step.toNat % 2 ^ 24

/-! ### Scalar stamped accesses (R401, R402) -/

def sldBody (d a : BitVec 5) (s : State) : Res State := do
  let (s, x) ← readX s a
  needAligned x.toNat 8
  let (s, w) ← loadAcc s x.toNat 8 .sread true false
  match stampedRead s.mine w (stepOf s) with
  | none => raise cStampWindow x.toNat
  | some (v, f) => writeX (s.flagMe (flagIf f fFUTURE)) d (w64 v)

def execSld (d a : BitVec 5) (s : State) : Host.Outcome State Fault Refusal :=
  issue (.sld d a) s.onCoreU s (sldBody d a)

/-- A stamped read-modify-write at the home slice, as a part of an instruction: the new word and FUTURE, or STAMP_WINDOW with the
address. -/
def stampedPart (s : State) (va : Nat) (f : Nat → Option (Nat × Bool)) : Res State := do
  let (t, old) ← atomicPart s va 8 .swrite false fun w => (f w).map (·.1)
  match f old with
  | none => raise cStampWindow va
  | some (_, g) => .ok (t.flagMe (flagIf g fFUTURE))

/-- A stamped read-modify-write that is an instruction's only one. -/
def stampedWrite (s : State) (va : Nat) (f : Nat → Option (Nat × Bool)) : Res State := do
  let t ← stampedPart s va f
  waitMmrev s
  .ok t

def sstBody (a b : BitVec 5) (s : State) : Res State := do
  let (s, x, y) ← read2 s a b
  needValue (wfld y 55 32 == 0 && wfld y 63 61 == 0) b
  needAligned x.toNat 8
  let w := swWord y.toNat (stepOf s) (wfld y 59 56) (wbit y 60)
  stampedWrite s x.toNat fun _ => some (w, false)

def execSst (a b : BitVec 5) (s : State) : Host.Outcome State Fault Refusal :=
  issue (.sst a b) s.onCoreU s (sstBody a b)

def saddBody (a b : BitVec 5) (s : State) : Res State := do
  let (s, x, y) ← read2 s a b
  needValue (wfld y 63 32 == 0) b
  needAligned x.toNat 8
  stampedWrite s x.toNat fun w => addAt s.mine w y.toNat (stepOf s)

def execSadd (a b : BitVec 5) (s : State) : Host.Outcome State Fault Refusal :=
  issue (.sadd a b) s.onCoreU s (saddBody a b)

def smergeBody (a b : BitVec 5) (s : State) : Res State := do
  let (s, x, y) ← read2 s a b
  needValue (wfld y 63 61 == 0) b
  needAligned x.toNat 8
  stampedWrite s x.toNat fun w => (mergeAt s.mine w y.toNat).map fun v => (v, false)

def execSmerge (a b : BitVec 5) (s : State) : Host.Outcome State Fault Refusal :=
  issue (.smerge a b) s.onCoreU s (smergeBody a b)

/-! ### Vector stamped accesses (R403) -/

/-- VSLD: the elements (index, address) read with decay at a step, under the decay table captured at issue (R395), and
FUTURE. -/
def stampedLoads (s : State) (x : UnitSt) (step : Nat) (xs : List (Nat × Nat)) : Res (State × List (Nat × Nat) × Bool) := do
  let s ← checkElems s 8 .sread xs
  xs.foldlM (fun st p => do
    let (t, w) ← loadElem st.1 p.2 8 .sread
    match stampedRead x w step with
    | none => raise cStampWindow p.2
    | some (v, f) => .ok (t, st.2.1 ++ [(p.1, v)], st.2.2 || f)) (s, [], false)

/-- VSST and VSADD: each element (value, address) rewritten by f from its value and the stored word; every element
is checked before the first is written, and the parts have no order among themselves (R146). -/
def stampedStores (s : State) (xs : List (Nat × Nat)) (f : Nat → Nat → Option (Nat × Bool)) : Res State := do
  let s ← checkElems s 8 .swrite xs
  let s ← xs.foldlM (fun t p => do
    let (_, w) ← atomicPart t p.2 8 .swrite false fun _ => none
    match f p.1 w with
    | none => raise cStampWindow p.2
    | some _ => .ok t) s
  waitMmrev s
  xs.foldlM (fun t p => stampedPart t p.2 (f p.1)) s

/-! ### Update windows (R407) -/

/-- The PA words of a 32-byte window block: the held-zero bits of each. -/
def winHz (i : Nat) : Nat :=
  match i with
  | 0 => 0xFF000000000000FF
  | 1 => 0xFF000000000000FF
  | 2 => 0x7FFCFFFFFFFF0000
  | _ => 0xFFFFFFFFFFFFFFFF

/-- The window that a block describes, in bytes; none when the block is ill-formed. -/
def windowOf (v : Nat) : Option UWindow :=
  let w (i : Nat) : Word := w64 (v / 2 ^ (64 * i))
  let y : UWindow := { valid := wbit (w 2) 63, wr := wbit (w 2) 49, rd := wbit (w 2) 48,
                       job := BitVec.ofNat 16 (wfld (w 2) 15 0), base := wfld (w 0) 55 8 * 256,
                       limit := wfld (w 1) 55 8 * 256 + 255 }
  if ((upTo 4).all fun i => (w i).toNat &&& winHz i == 0) && !(y.valid && decide (y.limit < y.base)) then some y else none

/-- Whether a new window allows every byte and kind that the old one allowed. -/
def UWindow.grows (old new : UWindow) : Bool :=
  !old.valid || (new.valid && new.job == old.job && (new.wr || !old.wr) && (new.rd || !old.rd)
    && decide (new.base ≤ old.base) && decide (old.limit ≤ new.limit))

/-- Everything that an update core has issued has performed. -/
def ucoreQuiet (s : State) (u : Nat) : Bool :=
  let x := s.unit u
  x.wt == [] && x.ops == [] && (match (s.hart u 0).pipe with
    | .pair 3 _ _ _ => true
    | .pair _ _ _ _ => false
    | _ => true)

def winsetBody (a b : BitVec 5) (s : State) : Res State := do
  let (s, x, y) ← read2 s a b
  needValue (decide (wfld x 6 4 ≤ 5) && wfld x 63 7 == 0) a
  let pa := y.toNat
  need (homePaOk s pa 32) (.trap cIllegal pa)
  need (!pairLocked s (lineOf pa)) (.hold none)
  let (s, v) := s.homeLoad pa 32
  match windowOf v with
  | none => raise cIllegal pa
  | some w =>
    let u := ucoreOf (wfld x 6 4) (wfld x 3 2)
    let i := wfld x 1 0
    need ((fget (s.unit u).windows i UWindow.reset).grows w || ucoreQuiet s u) (.hold none)
    .ok (s.modUnit u fun k => { k with windows := fset k.windows i w })

def execWinset (a b : BitVec 5) (s : State) : Host.Outcome State Fault Refusal :=
  issue (.winset a b) s.onSys s (winsetBody a b)

/-! ### Paired weights (R409 to R411) -/

/-- Distinct elements of a list in ascending order. -/
def insertNat (n : Nat) : List Nat → List Nat
  | [] => [n]
  | m :: t => if n = m then m :: t else if n < m then n :: m :: t else m :: insertNat n t
def sortNat (xs : List Nat) : List Nat := xs.foldl (fun t n => insertNat n t) []

/-- A slice of the package as one number, in the order in which a VSTPAIR reserves. -/
def sliceOf (s : State) (line : Nat) : Nat := let h := homeOf s (linePa line); 8 * h.station + h.slice

/-- The reservations that a VSTPAIR needs: slice and entries, in ascending order. -/
def pairNeeds (s : State) (lines : List Nat) : List (Nat × Nat) :=
  (sortNat (lines.map (sliceOf s))).map fun c => (c, (lines.filter fun l => sliceOf s l == c).length)

/-- Ask a slice for entries. -/
def pairAsk (s : State) (u : Nat) (p : Nat × Nat) : State :=
  s.modStation (p.1 / 8) fun m => { m with pairs := m.pairs ++ [{ unit := u, slice := p.1, n := p.2, granted := false }] }

/-- The reservations that update core u has asked for. -/
def pairAsked (s : State) (u : Nat) : List PairRes :=
  (upTo 6).flatMap fun m => (s.station m).pairs.filter fun p => p.unit == u

/-- The lines that an update core's VSTPAIR has locked. -/
def pairHeld (s : State) (u : Nat) : List Nat :=
  match (s.hart u 0).pipe with
  | .pair _ _ locked _ => locked
  | _ => []

/-- Release the reservations and locks of an update core, whose VSTPAIR has ended in pipe state p: its lines come back into their sets
(R410, R411). -/
def pairRelease (s : State) (u : Nat) (p : Pipe) : State :=
  let t := (upTo 6).foldl (fun t m => t.modStation m fun x => { x with pairs := x.pairs.filter fun p => p.unit != u }) s
  (pairHeld s u).foldl State.l2Return (t.modHart u 0 fun h => { h with pipe := p })

/-- The bytes of a list of elements (address, value) of n bytes at their places. -/
def elemPlaces (s : State) (n : Nat) (xs : List (Nat × Nat)) : Res (State × List (Nat × Byte)) :=
  xs.foldlM (fun st p => do
    needAligned p.1 n
    let (t, q) ← locate st.1 p.1 n .store true
    .ok (t, st.2 ++ (upTo n).map fun i => (q.pa + i, byteOf p.2 i))) (s, [])

/-- A pair descriptor's own checks (R409). A stride of zero, which R408 rules out and R409's list does not name, is ILLEGAL too (DESIGN
CHOICE, log entry 44). -/
def pairDescOk (d : List Word) (n : Nat) : Bool :=
  let ps := wfld (nthWord d 2) 31 0
  let ts := wfld (nthWord d 2) 63 32
  nthWord d 3 == 0 && ps != 0 && ts != 0 && ps % n == 0 && ts % n == 0

/-- The two copies' elements (address, value) of a VSTPAIR; none when the descriptor or xa is ILLEGAL (R409). -/
def pairElems (d : List Word) (xa : Word) (n vl : Nat) (vals : List (Nat × Nat)) : Option (List (Nat × Nat)) :=
  let tb := nthWord d 0
  let pb := nthWord d 1
  let ps := wfld (nthWord d 2) 31 0
  let ts := wfld (nthWord d 2) 63 32
  let o : Int := (xa.toNat : Int) - pb.toNat
  if !pairDescOk d n || decide (o < 0) || o.toNat % n != 0 || decide (ps < o.toNat % ps + vl * n) then none
  else
    let r := o.toNat / ps
    let c := o.toNat % ps / n
    some (vals.map (fun p => ((xa + w64 (p.1 * n)).toNat, p.2))
      ++ vals.map fun p => ((tb + w64 ((c + p.1) * ts + r * n)).toNat, p.2))

/-- VSTPAIR's checks, and the bytes it will write. -/
def pairStart (r : BitVec 4) (a x : BitVec 5) (mk : VMask) (s : State) : Res State := do
  let h := s.me
  need (!h.vill) .illegal
  let (s, xa) ← readX s a
  let (s, xs) ← readX s x
  let w := ewBits h.ew
  let n := w / 8
  let vl := h.vl.toNat
  need (!h.poison.contains (32 + r.toNat)) (.trap cPoison (0x2100000000000000 + 32 + r.toNat))
  need (!(mk.en && h.poison.contains (48 + mk.sel.toNat))) (.trap cPoison (0x2100000000000000 + 48 + mk.sel.toNat))
  let (s, d) ← loadBlock s xs.toNat 32 32
  match pairElems d xa n vl ((activeElems w vl mk h).map fun i => (i, getElem h r.toNat w i)) with
  | none => if pairDescOk d n then raise cIllegal a.toNat else .error .illegal
  | some es =>
    let (s, bs) ← elemPlaces s n es
    let lines := sortNat ((bs.filter fun p => decide (p.1 < 2 ^ 52)).map fun p => lineOf p.1)
    let s := match pairNeeds s lines with
      | [] => s
      | p :: _ => pairAsk s s.cur.unit p
    .ok ((s.modMe fun k => { k with pipe := .pair (if lines == [] then 2 else 0) lines [] bs }).again 4)

/-- VSTPAIR: its checks, then a wait in the pipe while the slices reserve, lock and commit. -/
def vstpairBody (r : BitVec 4) (a x : BitVec 5) (mk : VMask) (s : State) : Res State :=
  match s.me.pipe with
  | .pair 3 _ _ _ => do
    let (s, _) ← readX s a
    let (s, _) ← readX s x
    .ok (s.modMe fun h => { h with pipe := .idle })
  | .pair _ _ _ _ => .error (.hold none)
  | _ =>
    match pairStart r a x mk s with
    | .ok t => .ok (t.modMe fun h => { h with sg := s.me.sg, x := s.me.x })
    | e => e

def execVstpair (r : BitVec 4) (a x : BitVec 5) (mk : VMask) (s : State) : Host.Outcome State Fault Refusal :=
  issue (.vstpair r a x mk) s.onUcore s (vstpairBody r a x mk)

/-- PAIR_RESERVE_GRANT (R411): the first reservation waiting at its slice is granted when the slice has room; the
next slice is then asked, and after the last the locking begins. -/
def execPairReserveGrant (u : Nat) (s : State) : Host.Outcome State Fault Refusal :=
  match (s.hart u 0).pipe, (pairAsked s u).find? (fun p => !p.granted) with
  | .pair 0 lines locked bs, some p =>
    let st := s.station (p.slice / 8)
    let here := st.pairs.filter fun q => q.slice == p.slice
    let used := ((here.filter fun q => q.granted).map fun q => q.n).sum
    if (here.find? fun q => !q.granted) == some p && decide (used + p.n ≤ 136) then
      let t := s.modStation (p.slice / 8) fun m =>
        { m with pairs := m.pairs.map fun q => if q = p then { q with granted := true } else q }
      match (pairNeeds s lines).find? (fun q => decide (p.slice < q.1)) with
      | some q => .next (pairAsk t u q)
      | none => .next (t.modHart u 0 fun h => { h with pipe := .pair 1 lines locked bs })
    else .next s
  | _, _ => .next s

/-- PAIR_LINE_LOCK (R410): the next line in ascending PA goes into its pair buffer; every copy is invalidated. A read
pin taken before stays with the line's directory state. The old home of a line that a running move has copied sends the lock and the
bytes on to the new one (15 R363). -/
def execPairLineLock (u : Nat) (s : State) : Host.Outcome State Fault Refusal :=
  match (s.hart u 0).pipe with
  | .pair 1 lines locked bs =>
    match lines.find? (fun l => !locked.contains l) with
    | none => .next (s.modHart u 0 fun h => { h with pipe := .pair 2 lines locked bs })
    | some l =>
      let l' := lineOf (redirectPa s (linePa l))
      if pairLocked s l' then .next s
      else
        let t := ((s.homeWrite l').applyInvals (otherDie (homeDie s (linePa l')))).dropCopies l'
        let t := { t with l2 := t.l2.filter fun x => x.line != l' || x.pins != [] }
        let lines := lines.map fun k => if k = l then l' else k
        let bs := if l' = l then bs else bs.map fun p => if lineOf p.1 = l then (redirectPa s p.1, p.2) else p
        let locked := locked ++ [l']
        .next (t.modHart u 0 fun h => { h with pipe := .pair (if locked.length = lines.length then 2 else 1) lines locked bs })
  | _ => .next s

end Sys2Proof.Machine
end

