-- ==== Sys2Proof/Machine/Vector.lean ====
section
/-! DEFINITION. The vector instructions: hand-off to the quad's vector unit, the unit's check, and completion (05, 01
R49, R50, R63). On an update core the one program stalls and the instruction runs in one step (R165). -/

namespace Sys2Proof.Machine

open Sys2Proof

/-! ### The forms -/

/-- The arithmetic operations of Table 5.7. -/
inductive VArith where
  | add | sub | mul | fma | fnma | div | sqrt | rsq | exp2 | log2 | max | min | abs | neg
  deriving DecidableEq, Repr

/-- Va, an x-register in its place, or neither. -/
inductive VSrc where
  | none
  | v (a : BitVec 4)
  | x (a : BitVec 5)
  deriving DecidableEq, Repr

/-- How a memory form finds element i's address (Table 5.6). -/
inductive VIdx where
  | unit
  | stride (x : BitVec 5)
  | index (i : BitVec 4)
  deriving DecidableEq, Repr

inductive VBit where
  | and | or | xor
  deriving DecidableEq, Repr

inductive VShift where
  | shl | shr | sra
  deriving DecidableEq, Repr

inductive VRed where
  | sum | max | min
  deriving DecidableEq, Repr

inductive VStamp where
  | ld | st | add
  deriving DecidableEq, Repr

/-- What a vector instruction does, by shape. -/
inductive VKind where
  | arith (o : VArith) (d : BitVec 4) (a : VSrc) (b : BitVec 4) (mk : VMask)
  | cmp (k : BitVec 2) (a : VSrc) (b : BitVec 4) (p : Pred) (mk : VMask)
  | sel (d : BitVec 4) (a : VSrc) (b : BitVec 4) (k : BitVec 2)
  | bit (o : VBit) (d : BitVec 4) (a : VSrc) (b : BitVec 4) (mk : VMask)
  | shift (o : VShift) (d : BitVec 4) (a : VSrc) (b : BitVec 4) (mk : VMask)
  | cvt (d b : BitVec 4) (mk : VMask)
  | qnt (d a b : BitVec 4) (mk : VMask)
  | red (o : VRed) (d a b : BitVec 4) (mk : VMask)
  | slide (d : BitVec 4) (a : VSrc) (b : BitVec 4) (mk : VMask)
  | perm (d a b : BitVec 4) (mk : VMask)
  | bcst (d : BitVec 4) (a : BitVec 5) (mk : VMask)
  | mvxv (d : BitVec 4) (a : BitVec 5)
  | mvvx (d : BitVec 5) (b : BitVec 4)
  | mem (store : Bool) (r : BitVec 4) (a : BitVec 5) (i : VIdx) (mk : VMask)
  | lut (d : BitVec 4) (a : BitVec 5) (i : BitVec 4) (mk : VMask)
  | mask (o : VBit) (d a b : BitVec 2)
  | mnot (d a : BitVec 2)
  | mpop (d : BitVec 5) (a : BitVec 2)
  | stamped (o : VStamp) (r : BitVec 4) (a : BitVec 5) (mk : VMask)
  deriving DecidableEq, Repr

/-- The shape of a vector instruction that the vector unit executes; none for every other instruction. -/
def vkind (i : Instr) : Option VKind :=
  match i with
  | .vadd d a b mk => some (.arith .add d (.v a) b mk)
  | .vaddX d a b mk => some (.arith .add d (.x a) b mk)
  | .vsub d a b mk => some (.arith .sub d (.v a) b mk)
  | .vsubX d a b mk => some (.arith .sub d (.x a) b mk)
  | .vmul d a b mk => some (.arith .mul d (.v a) b mk)
  | .vmulX d a b mk => some (.arith .mul d (.x a) b mk)
  | .vfma d a b mk => some (.arith .fma d (.v a) b mk)
  | .vfmaX d a b mk => some (.arith .fma d (.x a) b mk)
  | .vfnma d a b mk => some (.arith .fnma d (.v a) b mk)
  | .vfnmaX d a b mk => some (.arith .fnma d (.x a) b mk)
  | .vdiv d a b mk => some (.arith .div d (.v a) b mk)
  | .vdivX d a b mk => some (.arith .div d (.x a) b mk)
  | .vsqrt d b mk => some (.arith .sqrt d .none b mk)
  | .vrsq d b mk => some (.arith .rsq d .none b mk)
  | .vexp2 d b mk => some (.arith .exp2 d .none b mk)
  | .vlog2 d b mk => some (.arith .log2 d .none b mk)
  | .vmax d a b mk => some (.arith .max d (.v a) b mk)
  | .vmaxX d a b mk => some (.arith .max d (.x a) b mk)
  | .vmin d a b mk => some (.arith .min d (.v a) b mk)
  | .vminX d a b mk => some (.arith .min d (.x a) b mk)
  | .vabs d b mk => some (.arith .abs d .none b mk)
  | .vneg d b mk => some (.arith .neg d .none b mk)
  | .vcmp k a b p mk => some (.cmp k (.v a) b p mk)
  | .vcmpX k a b p mk => some (.cmp k (.x a) b p mk)
  | .vsel d a b k => some (.sel d (.v a) b k)
  | .vselX d a b k => some (.sel d (.x a) b k)
  | .vand d a b mk => some (.bit .and d (.v a) b mk)
  | .vandX d a b mk => some (.bit .and d (.x a) b mk)
  | .vor d a b mk => some (.bit .or d (.v a) b mk)
  | .vorX d a b mk => some (.bit .or d (.x a) b mk)
  | .vxor d a b mk => some (.bit .xor d (.v a) b mk)
  | .vxorX d a b mk => some (.bit .xor d (.x a) b mk)
  | .vshl d a b mk => some (.shift .shl d (.v a) b mk)
  | .vshlX d a b mk => some (.shift .shl d (.x a) b mk)
  | .vshr d a b mk => some (.shift .shr d (.v a) b mk)
  | .vshrX d a b mk => some (.shift .shr d (.x a) b mk)
  | .vsra d a b mk => some (.shift .sra d (.v a) b mk)
  | .vsraX d a b mk => some (.shift .sra d (.x a) b mk)
  | .vcvt d b mk => some (.cvt d b mk)
  | .vqnt d a b mk => some (.qnt d a b mk)
  | .vrsum d a b mk => some (.red .sum d a b mk)
  | .vrmax d a b mk => some (.red .max d a b mk)
  | .vrmin d a b mk => some (.red .min d a b mk)
  | .vslide d a b mk => some (.slide d (.v a) b mk)
  | .vslideX d a b mk => some (.slide d (.x a) b mk)
  | .vperm d a b mk => some (.perm d a b mk)
  | .vbcst d a mk => some (.bcst d a mk)
  | .vmvxv d a => some (.mvxv d a)
  | .vmvvx d b => some (.mvvx d b)
  | .vld d a mk => some (.mem false d a .unit mk)
  | .vst r a mk => some (.mem true r a .unit mk)
  | .vlds d a x mk => some (.mem false d a (.stride x) mk)
  | .vsts r a x mk => some (.mem true r a (.stride x) mk)
  | .vldx d a i mk => some (.mem false d a (.index i) mk)
  | .vstx r a i mk => some (.mem true r a (.index i) mk)
  | .vlut d a i mk => some (.lut d a i mk)
  | .mand d a b => some (.mask .and d a b)
  | .mor d a b => some (.mask .or d a b)
  | .mnot d a => some (.mnot d a)
  | .mpop d a => some (.mpop d a)
  | .vsld d a mk => some (.stamped .ld d a mk)
  | .vsst r a mk => some (.stamped .st r a mk)
  | .vsadd r a mk => some (.stamped .add r a mk)
  | _ => none

/-- The x-registers that a form captures at hand-off: rs1 and rs2. -/
def VKind.xRegs (k : VKind) : Option (BitVec 5) × Option (BitVec 5) :=
  match k with
  | .arith _ _ (.x a) _ _ | .cmp _ (.x a) _ _ _ | .sel _ (.x a) _ _ | .bit _ _ (.x a) _ _ | .shift _ _ (.x a) _ _
  | .slide _ (.x a) _ _ | .bcst _ a _ | .mvxv _ a | .lut _ a _ _ | .stamped _ _ a _ => (some a, none)
  | .mem _ _ a (.stride x) _ => (some a, some x)
  | .mem _ _ a _ _ => (some a, none)
  | _ => (none, none)

/-- The mask operand; a form that is not masked has none enabled. -/
def VKind.maskOf (k : VKind) : VMask :=
  match k with
  | .arith _ _ _ _ m | .cmp _ _ _ _ m | .bit _ _ _ _ m | .shift _ _ _ _ m | .cvt _ _ m | .qnt _ _ _ m | .red _ _ _ _ m
  | .slide _ _ _ m | .perm _ _ _ m | .bcst _ _ m | .mem _ _ _ _ m | .lut _ _ _ m | .stamped _ _ _ m => m
  | _ => { en := false, sel := 0 }

/-- Whether Va, or an x-register in its place, is an operand. -/
def VSrc.used (a : VSrc) : Bool := match a with | .none => false | _ => true

/-! ### The check at hand-off (R139, R142, R153, R154) -/

/-- The formats (fa, fb, fd) of a form that takes formats, FP32 with no prefix; none for a code or a held-zero field
that R139, R153 or R154 rejects. A field of an operand that the form lacks stands as FP32. -/
def VKind.formats (k : VKind) (o : VOp) : Option (Nat × Nat × Nat) :=
  let p := o.pfx.toNat
  let pa := p % 16
  let pb := p / 16 % 16
  let pd := p / 256
  let three (ua ud : Bool) : Option (Nat × Nat × Nat) :=
    if !o.pp then some (vF32, vF32, vF32)
    else if (if ua then isVFmt pa else pa == 0) && isVFmt pb && (if ud then isVFmt pd else pd == 0) then
      some (if ua then pa else vF32, pb, if ud then pd else vF32)
    else none
  match k with
  | .arith _ _ a _ _ => three a.used true
  | .cmp _ _ _ _ _ => three true false
  | .red _ _ _ _ _ => three true true
  | .cvt _ _ _ => if o.pp then (vcvtFormats p).map fun f => (vF32, f.1, f.2) else none
  | .qnt _ _ _ _ =>
    if o.pp && p % 256 == 0 && (pd == 10 || pd == 11 || pd == 12 || pd == 13 || pd == 14) then some (vF32, vF32, pd) else none
  | _ => some (0, 0, 0)

/-- Whether the widths of the operands fit the element width (R136). -/
def VKind.fits (k : VKind) (w : Nat) (f : Nat × Nat × Nat) : Bool :=
  let ok (c : Nat) : Bool := decide (vWidth c ≤ w)
  match k with
  | .arith _ _ a _ _ => (!a.used || ok f.1) && ok f.2.1 && ok f.2.2
  | .cmp _ _ _ _ _ => ok f.1 && ok f.2.1
  | .red _ _ _ _ _ => ok f.1 && ok f.2.1 && ok f.2.2
  | .cvt _ _ _ => ok f.2.1 && ok f.2.2
  | _ => true

/-- The vector unit's check: the formats to work in, or none for ILLEGAL. -/
def vCheck (k : VKind) (o : VOp) : Option (Nat × Nat × Nat) :=
  if o.vill then none
  else
    match k.formats o with
    | none => none
    | some f =>
      let own :=
        match k with
        | .qnt d a _ m => o.ew == 2 && o.vl % 32 == 0 && !m.en && a != d
        | .stamped _ _ _ _ => o.ew == 2
        | _ => true
      if k.fits (ewBits o.ew) f && own then some f else none

/-! ### Generator states (R63, R141) -/

/-- How many generator states a form claims in SR mode over n active elements. -/
def VKind.claims (k : VKind) (f : Nat × Nat × Nat) (n : Nat) : Nat :=
  match k with
  | .arith .rsq _ _ _ _ | .arith .exp2 _ _ _ _ | .arith .log2 _ _ _ _ => if f.2.2 = vF32 then 0 else n
  | .arith _ _ _ _ _ => n
  | .cvt _ _ _ => n
  | .red .sum _ _ _ _ => max n 1
  | .red _ _ _ _ _ => 1
  | _ => 0

/-! ### What an instruction does in the unit -/

/-- Registers holding poison that a form reads, by their numbers in R457. -/
def VKind.sources (k : VKind) : List Nat :=
  let v (a : BitVec 4) : Nat := 32 + a.toNat
  let m (a : BitVec 2) : Nat := 48 + a.toNat
  let src (a : VSrc) : List Nat := match a with | .v a => [v a] | _ => []
  let regs := match k with
    | .arith o d a b _ => src a ++ [v b] ++ (match o with | .fma | .fnma => [v d] | _ => [])
    | .cmp _ a b _ _ => src a ++ [v b]
    | .sel _ a b x => src a ++ [v b, m x]
    | .bit _ _ a b _ | .shift _ _ a b _ | .slide _ a b _ => src a ++ [v b]
    | .cvt _ b _ => [v b]
    | .qnt _ _ b _ => [v b]
    | .red _ _ a b _ => [v a, v b]
    | .perm _ a b _ => [v a, v b]
    | .mvvx _ b => [v b]
    | .mem store r _ i _ => (if store then [v r] else []) ++ (match i with | .index x => [v x] | _ => [])
    | .lut _ _ i _ => [v i]
    | .mask _ _ a b => [m a, m b]
    | .mnot _ a | .mpop _ a => [m a]
    | .stamped o r _ _ => (match o with | .ld => [] | _ => [v r])
    | _ => []
  regs ++ (if k.maskOf.en then [m k.maskOf.sel] else [])

/-- The poisoned registers that stop a form whose active elements are `act` of vl: a memory form that has none does nothing, and
reads only the mask that says so (R145). -/
def VKind.reads (k : VKind) (vl : Nat) (act : List Nat) : List Nat :=
  match k with
  | .mem _ _ _ _ _ | .lut _ _ _ _ | .stamped _ _ _ _ =>
    if vl = 0 then [] else if act = [] then k.sources.filter fun r => decide (48 ≤ r) else k.sources
  | _ => k.sources

/-- The context of an instruction in the unit. -/
def vCtx (u : Nat) (h : Slot) (k : VKind) (o : VOp) (f : Nat × Nat × Nat) : VCtx :=
  let w := ewBits o.ew
  { w := w, vl := o.vl, act := activeElems w o.vl k.maskOf h, rm := o.frm.toNat, lfsr := o.lfsr,
    fa := f.1, fb := f.2.1, fd := f.2.2, lanes := lanesOf u }

/-- The addresses of a memory form's active elements (index, address), and the bytes of each (R144, R159, R403). -/
def vAddrs (k : VKind) (c : VCtx) (h : Slot) (o : VOp) : List (Nat × Nat) × Nat :=
  let n := c.w / 8
  let at_ (f : Nat → Word) : List (Nat × Nat) := c.act.map fun i => (i, (f i).toNat)
  match k with
  | .mem _ _ _ .unit _ => (at_ fun i => o.xa + w64 (i * n), n)
  | .mem _ _ _ (.stride _) _ => (at_ fun i => o.xa + w64 i * o.xb, n)
  | .mem _ _ _ (.index v) _ => (at_ fun i => o.xa + w64 (getElem h v.toNat c.w i * n), n)
  | .lut _ _ v _ => (at_ fun i => o.xa + w64 (getElem h v.toNat 8 i * n), n)
  | .stamped _ _ _ _ => (at_ fun i => o.xa + w64 (8 * i), 8)
  | _ => ([], n)

/-- The exact result of an arithmetic form from a, b and the old destination. -/
def VArith.exact (o : VArith) (a b c : Val) : Exact :=
  match o with
  | .add => exAdd a b
  | .sub => exSub a b
  | .mul => exMul a b
  | .fma => exFma a b c
  | .fnma => exFnma a b c
  | .div => exDiv a b
  | .sqrt => exSqrt b
  | .rsq => exRsq b
  | .exp2 => exExp2 b
  | .log2 => exLog2 b
  | .max => exMax a b
  | .min => exMin a b
  | .abs => exAbs b
  | .neg => exNeg b

/-- Element i of Va as an exact value. -/
def VSrc.val (a : VSrc) (c : VCtx) (h : Slot) (o : VOp) (i : Nat) : Val :=
  match a with
  | .v r => opA c h r i
  | .x _ => opX c o.xa i
  | .none => Val.zero

/-- Element i of Va as bits. -/
def VSrc.raw (a : VSrc) (c : VCtx) (h : Slot) (o : VOp) (i : Nat) : Nat :=
  match a with
  | .v r => getElem h r.toNat c.w i
  | .x _ => o.xa.toNat % 2 ^ c.w
  | .none => 0

def VBit.on (o : VBit) (a b : Nat) : Nat :=
  match o with
  | .and => a &&& b
  | .or => a ||| b
  | .xor => a ^^^ b

def VShift.on (o : VShift) (w x n : Nat) : Nat :=
  match o with
  | .shl => shlElem w x n
  | .shr => shrElem w x n
  | .sra => sraElem w x n

/-- The elements of a register as (value, address), for a store. -/
def storeVals (h : Slot) (r : BitVec 4) (n : Nat) (xs : List (Nat × Nat)) : List (Nat × Nat) :=
  xs.map fun p => (getElem h r.toNat (8 * n) p.1, p.2)

/-- Bits of a mask register on a unit. -/
def maskBits (c : VCtx) (v : Word) : Word := v &&& w64 (2 ^ c.lanes - 1)

/-- The result of an instruction in the unit, on a state whose executing hart is its slot. -/
def vRun (k : VKind) (o : VOp) (f : Nat × Nat × Nat) (s : State) : Res State := do
  let h := s.me
  let c := vCtx s.cur.unit h k o f
  (match (k.reads o.vl c.act).find? (fun r => h.poison.contains r) with
    | some r => raise cPoison (0x2100000000000000 + r)
    | none => .ok ())
  let put (g : Slot → Slot) : Res State := .ok (s.modMe g)
  let (xs, n) := vAddrs k c h o
  let lam : UnitSt := { s.mine with dt := o.dt }
  match k with
  | .arith op d a b _ =>
    let ex := fun i => op.exact (a.val c h o i) (opB c h b i) (opD c h d i)
    let claims := match op with
      | .rsq | .exp2 | .log2 => c.fd != vF32
      | _ => true
    put fun t => arith c t d ex claims
  | .cmp m a b p _ => put fun t => compare c t m p (a.val c h o) (opB c h b)
  | .sel d a b m =>
    put fun t => raw c t d (upTo c.vl) fun i =>
      if (fget h.m m.toNat 0).getLsbD (i * c.w / 32) then a.raw c h o i else getElem h b.toNat c.w i
  | .bit op d a b _ => put fun t => raw c t d c.act fun i => op.on (a.raw c h o i) (getElem h b.toNat c.w i)
  | .shift op d (.x _) b _ => put fun t => raw c t d c.act fun i => op.on c.w (getElem h b.toNat c.w i) o.xa.toNat
  | .shift op d a b _ => put fun t => raw c t d c.act fun i => op.on c.w (a.raw c h o i) (getElem h b.toNat c.w i)
  | .cvt d b _ => put fun t => convert c t d b (o.pfx.getLsbD 2)
  | .qnt d a b _ => put fun t => quantise c t d a b c.fd
  | .red .sum d a b _ => put fun t => reduceSum c t d a b
  | .red .max d a b _ => put fun t => reduceBest c t d a b Val.maxNum
  | .red .min d a b _ => put fun t => reduceBest c t d a b Val.minNum
  | .slide d (.v a) b _ => put fun t => slide c t d b (sInt 32 (getElem h a.toNat 32 0))
  | .slide d _ b _ => put fun t => slide c t d b (sInt 64 o.xa.toNat)
  | .perm d a b _ =>
    put fun t => raw c t d c.act fun i =>
      let j := getElem h a.toNat c.w i
      if j < c.vl then getElem h b.toNat c.w j else 0
  | .bcst d _ _ => put fun t => raw c t d c.act fun _ => o.xa.toNat
  | .mvxv d _ => put fun t => raw c t d [0] fun _ => o.xa.toNat
  | .mvvx d b => writeX s d (w64 (getElem h b.toNat c.w 0))
  | .mem true r _ _ _ => storeElems s o.step n .store (storeVals h r n xs)
  | .mem false d _ _ _ => do
    let (t, ys) ← loadElems s n xs
    .ok (t.modMe fun x => x.setElems c.lanes d.toNat c.w ys)
  | .lut d _ _ _ => do
    need (xs == [] || o.xa.toNat % (32 * c.w) == 0) (.trap cMisaligned o.xa.toNat)
    let (t, ys) ← loadElems s n xs
    .ok (t.modMe fun x => x.setElems c.lanes d.toNat c.w ys)
  | .mask op d a b =>
    put fun t => t.setMask d.toNat (maskBits c (w64 (op.on (fget h.m a.toNat 0).toNat (fget h.m b.toNat 0).toNat)))
  | .mnot d a => put fun t => t.setMask d.toNat (maskBits c (~~~ fget h.m a.toNat 0))
  | .mpop d a => writeX s d (w64 (popcount (ceilDiv (c.vl * c.w) 32) (fget h.m a.toNat 0).toNat))
  | .stamped .ld d _ _ => do
    let (t, ys, g) ← stampedLoads s lam (o.step.toNat % 2 ^ 24) xs
    .ok ((t.modMe fun x => x.setElems c.lanes d.toNat 32 ys).flagMe (flagIf g fFUTURE))
  | .stamped .st r _ _ =>
    stampedStores s (xs.map fun p => (getElem h r.toNat 32 p.1, p.2)) fun v w =>
      some (swWord v (o.step.toNat % 2 ^ 24) (swClass w) (swSettled w), false)
  | .stamped .add r _ _ =>
    stampedStores s (xs.map fun p => (getElem h r.toNat 32 p.1, p.2)) fun v w => addAt lam w v (o.step.toNat % 2 ^ 24)

/-! ### Issue (R49, R63, R145) -/

/-- The registers named by a form read as sources; the values are captured. -/
def vCapture (k : VKind) (s : State) : Res (State × Word × Word) := do
  let read (s : State) (r : Option (BitVec 5)) : Res (State × Word) :=
    match r with
    | some r => readX s r
    | none => .ok (s, 0)
  let (s, x) ← read s k.xRegs.1
  let (s, y) ← read s k.xRegs.2
  .ok (s, x, y)

/-- What the slot hands over. -/
def vOpOf (i : Instr) (s : State) (xa xb : Word) : VOp :=
  let h := s.me
  { agent := s.cur, i := i, xa := xa, xb := xb, vl := h.vl.toNat, vill := h.vill, ew := h.ew, frm := h.frm,
    pp := h.pp, pfx := h.pfx, lfsr := s.mine.lfsr, step := s.mine.step, dt := s.mine.dt, sg := h.sg, x := h.x, poison := h.poison }

/-- The generator states that an operation which the unit will accept claims at hand-off (R63). -/
def vClaim (k : VKind) (o : VOp) (s : State) : State :=
  match vCheck k o with
  | none => s
  | some f =>
    let n := (vCtx s.cur.unit s.me k o f).act.length
    if o.frm = 2 then s.modMine fun u => { u with lfsr := lfsrSkip (k.claims f n) u.lfsr } else s

/-- On slot 0, whether its own tile operations hold back one of the addresses (R45, R145). -/
def vHeld (k : VKind) (o : VOp) (s : State) : Bool :=
  isCore s.cur.unit && s.cur.slot == 0 &&
    match vCheck k o with
    | none => false
    | some f =>
      let (xs, n) := vAddrs k (vCtx s.cur.unit s.me k o f) s.me o
      xs.any fun p => tileHolds s s.cur.unit p.2 (p.2 + n - 1)

/-- Hand-off: the slot parks with PARK 7 at the instruction, whose x-register operands have been read. -/
def vHandOff (k : VKind) (o : VOp) (s : State) : State :=
  (((vClaim k o s).modQuad (quadOf s.cur.unit) fun q => { q with vwait := q.vwait ++ [o] }).again 4).modMe fun h =>
    { h with park := 7, await := 0, waitOn := none, resv := none, pp := false, pfx := 0 }

/-- A stream that a hand-off popped has its elements back at its head. -/
def StreamGen.unpop (old g : StreamGen) : StreamGen :=
  if g.count = old.count then g else { old with ahead := old.ahead.take (old.count - g.count).toNat ++ g.ahead }

/-- A slot whose instruction traps in the unit: what its hand-off popped is put back, registers and streams (01 R21). -/
def VOp.unpop (o : VOp) (h : Slot) : Slot :=
  (upTo 4).foldl (fun h i =>
    let old := fget o.sg i StreamGen.reset
    if (h.gen i).count = old.count then h
    else
      { h.setGen i (old.unpop (h.gen i)) with
        x := fset h.x (28 + i) (fget o.x (28 + i) 0)
        poison := h.poison ++ o.poison.filter fun r => r == 28 + i }) h
def VOp.putBack (o : VOp) (s : State) : State := s.modMe o.unpop

/-- On an update core an instruction runs where it issues (17 R405, 05 R165); a trap keeps its claim of generator states (02 R63). -/
def vRunHere (i : Instr) (k : VKind) (o : VOp) (s t : State) : Res State :=
  match vCheck k o with
  | none => .error .illegal
  | some f =>
    match vRun k o f ((vClaim k o t).modMe fun h => { h with pp := false, pfx := 0 }) with
    | .error (.trap c v) => .ok (takeTrap (vClaim k o (s.modMe Slot.unpark)) c v (instrWord i))
    | r => r

/-- A vector instruction issues: on a core it is handed off; on an update core it runs. -/
def vIssue (i : Instr) (k : VKind) (fmt : Bool) (s : State) : Host.Outcome State Fault Refusal :=
  issueN 4 i s.onCoreU fmt s fun t => do
    let (t1, xa, xb) ← vCapture k t
    let o := vOpOf i t xa xb
    if isUcore t.cur.unit then vRunHere i k o s t1
    else do
      need (!vHeld k o t) (.park 11 0 (some 0))
      .ok (vHandOff k o t1)

/-! ### VLGR (R138) -/

def vlgrBody (d a : BitVec 5) (w : EWidth) (s : State) : Res State := do
  let (s, x) ← readX s a
  let ew := w.code.setWidth 2
  let m := vlmax s.cur.unit ew
  let vl := if a = 0 then m else min x.toNat m
  writeX (s.modMe fun h => { h with vl := BitVec.ofNat 9 vl, vill := false, ew := ew }) d (w64 vl)

def execVlgr (d a : BitVec 5) (w : EWidth) (s : State) : Host.Outcome State Fault Refusal :=
  issue (.vlgr d a w) s.onCoreU s (vlgrBody d a w)

/-! ### The forms' meanings -/

/-- VADD: VADD adds vector elements. (R147) -/
def execVadd (d : BitVec 4) (a : BitVec 4) (b : BitVec 4) (mk : VMask) (s : State) : Host.Outcome State Fault Refusal :=
  vIssue (.vadd d a b mk) (.arith .add d (.v a) b mk) true s

/-- VADD_X: VADD with an x-register in Va's place. (R147) -/
def execVaddX (d : BitVec 4) (a : BitVec 5) (b : BitVec 4) (mk : VMask) (s : State) : Host.Outcome State Fault Refusal :=
  vIssue (.vaddX d a b mk) (.arith .add d (.x a) b mk) true s

/-- VSUB: VSUB subtracts vector elements. (R147) -/
def execVsub (d : BitVec 4) (a : BitVec 4) (b : BitVec 4) (mk : VMask) (s : State) : Host.Outcome State Fault Refusal :=
  vIssue (.vsub d a b mk) (.arith .sub d (.v a) b mk) true s

/-- VSUB_X: VSUB with an x-register operand. (R147) -/
def execVsubX (d : BitVec 4) (a : BitVec 5) (b : BitVec 4) (mk : VMask) (s : State) : Host.Outcome State Fault Refusal :=
  vIssue (.vsubX d a b mk) (.arith .sub d (.x a) b mk) true s

/-- VMUL: VMUL multiplies vector elements. (R147) -/
def execVmul (d : BitVec 4) (a : BitVec 4) (b : BitVec 4) (mk : VMask) (s : State) : Host.Outcome State Fault Refusal :=
  vIssue (.vmul d a b mk) (.arith .mul d (.v a) b mk) true s

/-- VMUL_X: VMUL with an x-register operand. (R147) -/
def execVmulX (d : BitVec 4) (a : BitVec 5) (b : BitVec 4) (mk : VMask) (s : State) : Host.Outcome State Fault Refusal :=
  vIssue (.vmulX d a b mk) (.arith .mul d (.x a) b mk) true s

/-- VFMA: VFMA performs a fused multiply-add into Vd. (R147) -/
def execVfma (d : BitVec 4) (a : BitVec 4) (b : BitVec 4) (mk : VMask) (s : State) : Host.Outcome State Fault Refusal :=
  vIssue (.vfma d a b mk) (.arith .fma d (.v a) b mk) true s

/-- VFMA_X: VFMA with an x-register operand. (R147) -/
def execVfmaX (d : BitVec 4) (a : BitVec 5) (b : BitVec 4) (mk : VMask) (s : State) : Host.Outcome State Fault Refusal :=
  vIssue (.vfmaX d a b mk) (.arith .fma d (.x a) b mk) true s

/-- VFNMA: VFNMA computes c minus a times b with one rounding. (R147) -/
def execVfnma (d : BitVec 4) (a : BitVec 4) (b : BitVec 4) (mk : VMask) (s : State) : Host.Outcome State Fault Refusal :=
  vIssue (.vfnma d a b mk) (.arith .fnma d (.v a) b mk) true s

/-- VFNMA_X: VFNMA with an x-register operand. (R147) -/
def execVfnmaX (d : BitVec 4) (a : BitVec 5) (b : BitVec 4) (mk : VMask) (s : State) : Host.Outcome State Fault Refusal :=
  vIssue (.vfnmaX d a b mk) (.arith .fnma d (.x a) b mk) true s

/-- VDIV: VDIV divides vector elements. (R147) -/
def execVdiv (d : BitVec 4) (a : BitVec 4) (b : BitVec 4) (mk : VMask) (s : State) : Host.Outcome State Fault Refusal :=
  vIssue (.vdiv d a b mk) (.arith .div d (.v a) b mk) true s

/-- VDIV_X: VDIV with an x-register operand. (R147) -/
def execVdivX (d : BitVec 4) (a : BitVec 5) (b : BitVec 4) (mk : VMask) (s : State) : Host.Outcome State Fault Refusal :=
  vIssue (.vdivX d a b mk) (.arith .div d (.x a) b mk) true s

/-- VSQRT: VSQRT takes elementwise square roots. (R147) -/
def execVsqrt (d : BitVec 4) (b : BitVec 4) (mk : VMask) (s : State) : Host.Outcome State Fault Refusal :=
  vIssue (.vsqrt d b mk) (.arith .sqrt d .none b mk) true s

/-- VRSQ: VRSQ approximates the reciprocal square root. (R149) -/
def execVrsq (d : BitVec 4) (b : BitVec 4) (mk : VMask) (s : State) : Host.Outcome State Fault Refusal :=
  vIssue (.vrsq d b mk) (.arith .rsq d .none b mk) true s

/-- VEXP2: VEXP2 approximates 2 to the power of each element. (R149) -/
def execVexp2 (d : BitVec 4) (b : BitVec 4) (mk : VMask) (s : State) : Host.Outcome State Fault Refusal :=
  vIssue (.vexp2 d b mk) (.arith .exp2 d .none b mk) true s

/-- VLOG2: VLOG2 approximates the base-2 logarithm. (R149) -/
def execVlog2 (d : BitVec 4) (b : BitVec 4) (mk : VMask) (s : State) : Host.Outcome State Fault Refusal :=
  vIssue (.vlog2 d b mk) (.arith .log2 d .none b mk) true s

/-- VMAX: VMAX takes maximumNumber elementwise. (R147) -/
def execVmax (d : BitVec 4) (a : BitVec 4) (b : BitVec 4) (mk : VMask) (s : State) : Host.Outcome State Fault Refusal :=
  vIssue (.vmax d a b mk) (.arith .max d (.v a) b mk) true s

/-- VMAX_X: VMAX with an x-register operand. (R147) -/
def execVmaxX (d : BitVec 4) (a : BitVec 5) (b : BitVec 4) (mk : VMask) (s : State) : Host.Outcome State Fault Refusal :=
  vIssue (.vmaxX d a b mk) (.arith .max d (.x a) b mk) true s

/-- VMIN: VMIN takes minimumNumber elementwise. (R147) -/
def execVmin (d : BitVec 4) (a : BitVec 4) (b : BitVec 4) (mk : VMask) (s : State) : Host.Outcome State Fault Refusal :=
  vIssue (.vmin d a b mk) (.arith .min d (.v a) b mk) true s

/-- VMIN_X: VMIN with an x-register operand. (R147) -/
def execVminX (d : BitVec 4) (a : BitVec 5) (b : BitVec 4) (mk : VMask) (s : State) : Host.Outcome State Fault Refusal :=
  vIssue (.vminX d a b mk) (.arith .min d (.x a) b mk) true s

/-- VABS: VABS takes elementwise absolute values. (R148) -/
def execVabs (d : BitVec 4) (b : BitVec 4) (mk : VMask) (s : State) : Host.Outcome State Fault Refusal :=
  vIssue (.vabs d b mk) (.arith .abs d .none b mk) true s

/-- VNEG: VNEG negates elements. (R148) -/
def execVneg (d : BitVec 4) (b : BitVec 4) (mk : VMask) (s : State) : Host.Outcome State Fault Refusal :=
  vIssue (.vneg d b mk) (.arith .neg d .none b mk) true s

/-- VCMP: VCMP compares elements and writes a lane mask. (R150) -/
def execVcmp (k : BitVec 2) (a : BitVec 4) (b : BitVec 4) (p : Pred) (mk : VMask) (s : State) : Host.Outcome State Fault Refusal :=
  vIssue (.vcmp k a b p mk) (.cmp k (.v a) b p mk) true s

/-- VCMP_X: VCMP with an x-register in Va's place. (R150) -/
def execVcmpX (k : BitVec 2) (a : BitVec 5) (b : BitVec 4) (p : Pred) (mk : VMask) (s : State) : Host.Outcome State Fault Refusal :=
  vIssue (.vcmpX k a b p mk) (.cmp k (.x a) b p mk) true s

/-- VSEL: VSEL selects elements of Va or Vb by a mask. (R151) -/
def execVsel (d : BitVec 4) (a : BitVec 4) (b : BitVec 4) (k : BitVec 2) (s : State) : Host.Outcome State Fault Refusal :=
  vIssue (.vsel d a b k) (.sel d (.v a) b k) false s

/-- VSEL_X: VSEL with an x-register value in Va's place. (R151) -/
def execVselX (d : BitVec 4) (a : BitVec 5) (b : BitVec 4) (k : BitVec 2) (s : State) : Host.Outcome State Fault Refusal :=
  vIssue (.vselX d a b k) (.sel d (.x a) b k) false s

/-- VAND: VAND combines elements with bitwise and. (R152) -/
def execVand (d : BitVec 4) (a : BitVec 4) (b : BitVec 4) (mk : VMask) (s : State) : Host.Outcome State Fault Refusal :=
  vIssue (.vand d a b mk) (.bit .and d (.v a) b mk) false s

/-- VAND_X: VAND with an x-register operand. (R152) -/
def execVandX (d : BitVec 4) (a : BitVec 5) (b : BitVec 4) (mk : VMask) (s : State) : Host.Outcome State Fault Refusal :=
  vIssue (.vandX d a b mk) (.bit .and d (.x a) b mk) false s

/-- VOR: VOR combines elements with bitwise or. (R152) -/
def execVor (d : BitVec 4) (a : BitVec 4) (b : BitVec 4) (mk : VMask) (s : State) : Host.Outcome State Fault Refusal :=
  vIssue (.vor d a b mk) (.bit .or d (.v a) b mk) false s

/-- VOR_X: VOR with an x-register operand. (R152) -/
def execVorX (d : BitVec 4) (a : BitVec 5) (b : BitVec 4) (mk : VMask) (s : State) : Host.Outcome State Fault Refusal :=
  vIssue (.vorX d a b mk) (.bit .or d (.x a) b mk) false s

/-- VXOR: VXOR combines elements with bitwise exclusive or. (R152) -/
def execVxor (d : BitVec 4) (a : BitVec 4) (b : BitVec 4) (mk : VMask) (s : State) : Host.Outcome State Fault Refusal :=
  vIssue (.vxor d a b mk) (.bit .xor d (.v a) b mk) false s

/-- VXOR_X: VXOR with an x-register operand. (R152) -/
def execVxorX (d : BitVec 4) (a : BitVec 5) (b : BitVec 4) (mk : VMask) (s : State) : Host.Outcome State Fault Refusal :=
  vIssue (.vxorX d a b mk) (.bit .xor d (.x a) b mk) false s

/-- VSHL: VSHL shifts elements left. (R152) -/
def execVshl (d : BitVec 4) (a : BitVec 4) (b : BitVec 4) (mk : VMask) (s : State) : Host.Outcome State Fault Refusal :=
  vIssue (.vshl d a b mk) (.shift .shl d (.v a) b mk) false s

/-- VSHL_X: VSHL with a scalar shift amount. (R152) -/
def execVshlX (d : BitVec 4) (a : BitVec 5) (b : BitVec 4) (mk : VMask) (s : State) : Host.Outcome State Fault Refusal :=
  vIssue (.vshlX d a b mk) (.shift .shl d (.x a) b mk) false s

/-- VSHR: VSHR shifts elements right logically. (R152) -/
def execVshr (d : BitVec 4) (a : BitVec 4) (b : BitVec 4) (mk : VMask) (s : State) : Host.Outcome State Fault Refusal :=
  vIssue (.vshr d a b mk) (.shift .shr d (.v a) b mk) false s

/-- VSHR_X: VSHR with a scalar shift amount. (R152) -/
def execVshrX (d : BitVec 4) (a : BitVec 5) (b : BitVec 4) (mk : VMask) (s : State) : Host.Outcome State Fault Refusal :=
  vIssue (.vshrX d a b mk) (.shift .shr d (.x a) b mk) false s

/-- VSRA: VSRA shifts elements right arithmetically. (R152) -/
def execVsra (d : BitVec 4) (a : BitVec 4) (b : BitVec 4) (mk : VMask) (s : State) : Host.Outcome State Fault Refusal :=
  vIssue (.vsra d a b mk) (.shift .sra d (.v a) b mk) false s

/-- VSRA_X: VSRA with a scalar shift amount. (R152) -/
def execVsraX (d : BitVec 4) (a : BitVec 5) (b : BitVec 4) (mk : VMask) (s : State) : Host.Outcome State Fault Refusal :=
  vIssue (.vsraX d a b mk) (.shift .sra d (.x a) b mk) false s

/-- VCVT: VCVT converts elements between formats under the prefix. (R153) -/
def execVcvt (d : BitVec 4) (b : BitVec 4) (mk : VMask) (s : State) : Host.Outcome State Fault Refusal :=
  vIssue (.vcvt d b mk) (.cvt d b mk) true s

/-- VQNT: VQNT quantises FP32 blocks into block-scaled elements and scales. (R154) -/
def execVqnt (d : BitVec 4) (a : BitVec 4) (b : BitVec 4) (mk : VMask) (s : State) : Host.Outcome State Fault Refusal :=
  vIssue (.vqnt d a b mk) (.qnt d a b mk) true s

/-- VRSUM: VRSUM sums active elements by the pairwise tree onto a starting value. (R155) -/
def execVrsum (d : BitVec 4) (a : BitVec 4) (b : BitVec 4) (mk : VMask) (s : State) : Host.Outcome State Fault Refusal :=
  vIssue (.vrsum d a b mk) (.red .sum d a b mk) true s

/-- VRMAX: VRMAX reduces active elements by maximum. (R155) -/
def execVrmax (d : BitVec 4) (a : BitVec 4) (b : BitVec 4) (mk : VMask) (s : State) : Host.Outcome State Fault Refusal :=
  vIssue (.vrmax d a b mk) (.red .max d a b mk) true s

/-- VRMIN: VRMIN reduces active elements by minimum. (R155) -/
def execVrmin (d : BitVec 4) (a : BitVec 4) (b : BitVec 4) (mk : VMask) (s : State) : Host.Outcome State Fault Refusal :=
  vIssue (.vrmin d a b mk) (.red .min d a b mk) true s

/-- VSLIDE: VSLIDE moves elements by a signed amount taken from a vector. (R157) -/
def execVslide (d : BitVec 4) (a : BitVec 4) (b : BitVec 4) (mk : VMask) (s : State) : Host.Outcome State Fault Refusal :=
  vIssue (.vslide d a b mk) (.slide d (.v a) b mk) false s

/-- VSLIDE_X: VSLIDE with the amount in an x-register. (R157) -/
def execVslideX (d : BitVec 4) (a : BitVec 5) (b : BitVec 4) (mk : VMask) (s : State) : Host.Outcome State Fault Refusal :=
  vIssue (.vslideX d a b mk) (.slide d (.x a) b mk) false s

/-- VPERM: VPERM permutes Vb by the indices in Va. (R158) -/
def execVperm (d : BitVec 4) (a : BitVec 4) (b : BitVec 4) (mk : VMask) (s : State) : Host.Outcome State Fault Refusal :=
  vIssue (.vperm d a b mk) (.perm d a b mk) false s

/-- VBCST: VBCST broadcasts an x-register to the active elements. (R156) -/
def execVbcst (d : BitVec 4) (a : BitVec 5) (mk : VMask) (s : State) : Host.Outcome State Fault Refusal :=
  vIssue (.vbcst d a mk) (.bcst d a mk) false s

/-- VMVXV: VMVXV writes an x-register to element 0. (R156) -/
def execVmvxv (d : BitVec 4) (a : BitVec 5) (s : State) : Host.Outcome State Fault Refusal :=
  vIssue (.vmvxv d a) (.mvxv d a) false s

/-- VMVVX: VMVVX writes element 0 to an x-register. (R156) -/
def execVmvvx (d : BitVec 5) (b : BitVec 4) (s : State) : Host.Outcome State Fault Refusal :=
  vIssue (.vmvvx d b) (.mvvx d b) false s

/-- VLD: VLD loads contiguous elements. (R144) -/
def execVld (d : BitVec 4) (a : BitVec 5) (mk : VMask) (s : State) : Host.Outcome State Fault Refusal :=
  vIssue (.vld d a mk) (.mem false d a .unit mk) false s

/-- VST: VST stores contiguous elements. (R144) -/
def execVst (r : BitVec 4) (a : BitVec 5) (mk : VMask) (s : State) : Host.Outcome State Fault Refusal :=
  vIssue (.vst r a mk) (.mem true r a .unit mk) false s

/-- VLDS: VLDS loads strided elements. (R144) -/
def execVlds (d : BitVec 4) (a : BitVec 5) (x : BitVec 5) (mk : VMask) (s : State) : Host.Outcome State Fault Refusal :=
  vIssue (.vlds d a x mk) (.mem false d a (.stride x) mk) false s

/-- VSTS: VSTS stores strided elements. (R144) -/
def execVsts (r : BitVec 4) (a : BitVec 5) (x : BitVec 5) (mk : VMask) (s : State) : Host.Outcome State Fault Refusal :=
  vIssue (.vsts r a x mk) (.mem true r a (.stride x) mk) false s

/-- VLDX: VLDX loads indexed elements. (R144) -/
def execVldx (d : BitVec 4) (a : BitVec 5) (i : BitVec 4) (mk : VMask) (s : State) : Host.Outcome State Fault Refusal :=
  vIssue (.vldx d a i mk) (.mem false d a (.index i) mk) false s

/-- VSTX: VSTX stores indexed elements. (R144) -/
def execVstx (r : BitVec 4) (a : BitVec 5) (i : BitVec 4) (mk : VMask) (s : State) : Host.Outcome State Fault Refusal :=
  vIssue (.vstx r a i mk) (.mem true r a (.index i) mk) false s

/-- VLUT: VLUT decodes byte codes through a 256-entry table. (R159) -/
def execVlut (d : BitVec 4) (a : BitVec 5) (i : BitVec 4) (mk : VMask) (s : State) : Host.Outcome State Fault Refusal :=
  vIssue (.vlut d a i mk) (.lut d a i mk) false s

/-- MAND: MAND combines two masks with and. (R160) -/
def execMand (d : BitVec 2) (a : BitVec 2) (b : BitVec 2) (s : State) : Host.Outcome State Fault Refusal :=
  vIssue (.mand d a b) (.mask .and d a b) false s

/-- MOR: MOR combines two masks with or. (R160) -/
def execMor (d : BitVec 2) (a : BitVec 2) (b : BitVec 2) (s : State) : Host.Outcome State Fault Refusal :=
  vIssue (.mor d a b) (.mask .or d a b) false s

/-- MNOT: MNOT inverts a mask. (R160) -/
def execMnot (d : BitVec 2) (a : BitVec 2) (s : State) : Host.Outcome State Fault Refusal :=
  vIssue (.mnot d a) (.mnot d a) false s

/-- MPOP: MPOP counts the set mask bits within vl. (R161) -/
def execMpop (d : BitVec 5) (a : BitVec 2) (s : State) : Host.Outcome State Fault Refusal :=
  vIssue (.mpop d a) (.mpop d a) false s

/-- VSLD: VSLD reads active stamped words into a vector with decay. (R403) -/
def execVsld (d : BitVec 4) (a : BitVec 5) (mk : VMask) (s : State) : Host.Outcome State Fault Refusal :=
  vIssue (.vsld d a mk) (.stamped .ld d a mk) false s

/-- VSST: VSST writes active stamped words at the issue step. (R403) -/
def execVsst (r : BitVec 4) (a : BitVec 5) (mk : VMask) (s : State) : Host.Outcome State Fault Refusal :=
  vIssue (.vsst r a mk) (.stamped .st r a mk) false s

/-- VSADD: VSADD applies AddAt to each active stamped word, all or nothing. (R403) -/
def execVsadd (r : BitVec 4) (a : BitVec 5) (mk : VMask) (s : State) : Host.Outcome State Fault Refusal :=
  vIssue (.vsadd r a mk) (.stamped .add r a mk) false s

end Sys2Proof.Machine
end

