-- ==== Sys2Proof/Machine/TileOps.lean ====
section
/-! DEFINITION. What the tile ALU and the matrix arrays compute, on tile images (02 R65 to R83, 06 R183 to R193, 07
R196 to R210). -/

namespace Sys2Proof.Machine

open Sys2Proof

/-! ### Images (02 R76 to R78) -/

/-- n consecutive w-bit fields of a number. -/
def splitBits (w : Nat) : Nat → Nat → List Nat
  | 0, _ => []
  | n + 1, v => v % 2 ^ w :: splitBits w n (v / 2 ^ w)

/-- w-bit fields put together, the first lowest. -/
def joinBits (w : Nat) : List Nat → Nat
  | [] => 0
  | x :: t => x % 2 ^ w + 2 ^ w * joinBits w t

/-- Elements of a format in a tile row: its weights come eight to an index in LC2. -/
def fmtCount (c : Nat) : Nat := if c = 15 then 64 else fmtK c

/-- The 64 rows of a narrow image, 128 bytes each. -/
def narrowRows (img : Nat) : List Nat := splitBits 1024 64 img

/-- The elements of a narrow image, row by row. -/
def narrowElems (c img : Nat) : List (List Nat) := (narrowRows img).map (splitBits (fmtBits c) (fmtCount c))

/-- A narrow image from rows of elements; the rest of every row is zero. -/
def packNarrow (c : Nat) (rows : List (List Nat)) : Nat := joinBits 1024 (rows.map (joinBits (fmtBits c)))

/-- The 48-bit elements of a wide image, row by row. -/
def wideElems (img : Nat) : List (List Nat) := (splitBits 3072 64 img).map (splitBits 48 64)
def packWide (rows : List (List Nat)) : Nat := joinBits 3072 (rows.map (joinBits 48))

/-- Byte b of row i of a narrow image. -/
def imageByte (img i b : Nat) : Nat := img / 2 ^ (8 * (128 * i + b)) % 256

/-! ### Source values -/

/-- What a form reads as its A operand: a narrow format, or a wide FP48A or INT48. -/
def tileVals (wide : Bool) (c img : Nat) : List (List Val) :=
  if wide then
    (wideElems img).map fun r => r.map fun v => if c = 7 then Val.ofInt (sInt 48 v) else ffp48.decode v
  else (narrowElems c img).map fun r => r.map (decodeElem c)

/-- Elements per row of a source. -/
def srcCount (wide : Bool) (c : Nat) : Nat := if wide then 64 else fmtCount c

/-! ### One encoding after another (06 R169) -/

/-- A result: an image and its flags. -/
abbrev TileRes := Nat × Flags

/-- A row of values encoded in order, each taking a generator state in SR mode. -/
def encRow {α : Type} (enc : α → BitVec 32 → Nat × Flags) (sr : Bool) : List α → BitVec 32 → Flags → List Nat × BitVec 32 × Flags
  | [], l, fl => ([], l, fl)
  | x :: t, l, fl =>
    let l := if sr then lfsrNext l else l
    let (b, g) := enc x l
    let (bs, l2, fl2) := encRow enc sr t l (fl ||| g)
    (b :: bs, l2, fl2)

/-- Rows of values encoded in row-major order. -/
def encRows {α : Type} (enc : α → BitVec 32 → Nat × Flags) (sr : Bool) : List (List α) → BitVec 32 → Flags → List (List Nat) × Flags
  | [], _, fl => ([], fl)
  | r :: t, l, fl =>
    let (b, l2, fl2) := encRow enc sr r l fl
    let (bs, fl3) := encRows enc sr t l2 fl2
    (b :: bs, fl3)

/-- The tile ALU's element: an exact value and its own flags, rounded once into FP32 by RNE, then encoded. -/
def aluEncode (fb rm : Nat) (sat : Bool) (x : Val × Flags) (l : BitVec 32) : Nat × Flags :=
  let (r, f1) := roundFp32 x.1
  let (b, f2) := encodeElem fb (ffp32.decode r) rm sat l.toNat
  (b, x.2 ||| f1 ||| f2)

/-- An elementwise form's result. -/
def aluResult (t : Tcw) (fb : Nat) (lfsr : BitVec 32) (rows : List (List (Val × Flags))) : TileRes :=
  let rm := t.rnd.toNat
  let (bs, fl) := encRows (aluEncode fb rm t.sat) (rm == 2) rows lfsr 0
  (packNarrow fb bs, fl)

/-- Two rows lists combined element by element. -/
def zipRows {α β γ : Type} (f : α → β → γ) (xs : List (List α)) (ys : List (List β)) : List (List γ) :=
  xs.zipWith (fun a b => a.zipWith f b) ys

/-- The elementwise operations (R186). -/
inductive TArith where
  | add | sub | mul | max | min
  deriving DecidableEq, Repr

def TArith.on (o : TArith) (a b : Val) : Val × Flags :=
  match o with
  | .add => let (v, n) := a.add b; (v, flagIf n fNV)
  | .sub => let (v, n) := a.add b.negate; (v, flagIf n fNV)
  | .mul => let (v, n) := a.mul b; (v, flagIf n fNV)
  | .max => (a.maxNum b, sigFlag [a, b])
  | .min => (a.minNum b, sigFlag [a, b])

def tileArith (o : TArith) (t : Tcw) (lfsr : BitVec 32) (a b : Nat) : TileRes :=
  let fa := t.fa.toNat
  let fb := t.fb.toNat
  let n := min (fmtCount fa) (fmtCount fb)
  aluResult t fb lfsr (zipRows o.on ((tileVals false fa a).map (·.take n)) ((tileVals false fa b).map (·.take n)))

/-- TSCL (R187). -/
def tileScale (t : Tcw) (sigma lfsr : BitVec 32) (a : Nat) : TileRes :=
  let fa := t.fa.toNat
  let fb := t.fb.toNat
  let n := min (fmtCount fa) (fmtCount fb)
  aluResult t fb lfsr ((tileVals false fa a).map fun r => (r.take n).map fun v => TArith.mul.on v (ffp32.decode sigma.toNat))

/-- TFILL (R185): the flags of the one conversion are set once. -/
def tileFill (t : Tcw) (lfsr : BitVec 32) : TileRes :=
  let fb := t.fb.toNat
  let rm := t.rnd.toNat
  let x := ffp32.decode (t.imm.toNat % 2 ^ 32)
  let rows := (upTo 64).map fun _ => (upTo (fmtCount fb)).map fun _ => x
  let (bs, fl) := encRows (fun v l => encodeElem fb v rm t.sat l.toNat) (rm == 2) rows lfsr (sigFlag [x])
  (packNarrow fb bs, fl)

/-- TCVT (R191): one rounding of the exact value when the source is wide. -/
def tileConvert (t : Tcw) (wide : Bool) (lfsr : BitVec 32) (a : Nat) : TileRes :=
  let fa := t.fa.toNat
  let fb := t.fb.toNat
  let n := min (srcCount wide fa) (fmtCount fb)
  let rows := (tileVals wide fa a).map (·.take n)
  if wide then
    let rm := t.rnd.toNat
    let (bs, fl) := encRows (fun (v : Val) l => let (b, g) := encodeElem fb v rm t.sat l.toNat; (b, g ||| sigFlag [v]))
      (rm == 2) rows lfsr 0
    (packNarrow fb bs, fl)
  else aluResult t fb lfsr (rows.map fun r => r.map fun v => (v, sigFlag [v]))

/-- TTRN (R188): 64 by 64 blocks of raw elements transposed in place. -/
def tileTranspose (fa a : Nat) : Nat :=
  let rows := narrowElems fa a
  let blocks := fmtCount fa / 64
  let cols (b : Nat) : List (List Nat) := (rows.map fun r => (r.drop (64 * b)).take 64).transpose
  packNarrow fa ((upTo 64).map fun i => (upTo blocks).flatMap fun b => (cols b).getD i [])

/-! ### Reductions (R189, R190) -/

/-- One combination of a sum: FP32 bits, in a mode. -/
def sumPair (rm : Nat) (a b : Nat) (l : BitVec 32) : Nat × Flags :=
  let (v, nv) := (ffp32.decode a).add (ffp32.decode b)
  let (r, g) := ffp32.encode v rm false l.toNat
  (r, g ||| flagIf nv fNV)

/-- The FP32 sum of FP32 values by the tree: the bits, the generator and the flags. -/
def sumTree (rm : Nat) (xs : List Nat) (l : BitVec 32) (fl : Flags) : Nat × BitVec 32 × Flags :=
  let (ys, l2, fl2) := treeReduce (sumPair rm) (rm == 2) 9 xs l fl
  (ys.headD 0, l2, fl2)

/-- The values that TRED reduces into each result, as exact FP32 bits. -/
def tredRows (col : Bool) (fa a : Nat) : List (List Val) :=
  let rows := tileVals false fa a
  if col then rows.transpose else rows

def fp32Bits (v : Val) : Nat := (ffp32.encode v 0 false 0).1

/-- The results of TRED in FP32, in order; after each result its own encoding by `enc`. -/
def tredResults (rm : Nat) (enc : Option (Nat → BitVec 32 → Nat × Flags)) :
    List (List Val) → BitVec 32 → Flags → List Nat × BitVec 32 × Flags
  | [], l, fl => ([], l, fl)
  | r :: t, l, fl =>
    let (v, l1, f1) := sumTree rm (r.map fp32Bits) l (fl ||| sigFlag r)
    let (v, l2, f2) :=
      match enc with
      | none => (v, l1, f1)
      | some e =>
        let l2 := if rm = 2 then lfsrNext l1 else l1
        let (b, g) := e v l2
        (b, l2, f1 ||| g)
    let (vs, l3, f3) := tredResults rm enc t l2 f2
    (v :: vs, l3, f3)

/-- Results put into rows of n. -/
def chunkRows (n : Nat) : Nat → List Nat → List (List Nat)
  | 0, _ => []
  | k + 1, xs => xs.take n :: chunkRows n k (xs.drop n)

def tileReduce (t : Tcw) (lfsr : BitVec 32) (a : Nat) : TileRes :=
  let fb := t.fb.toNat
  let rm := t.rnd.toNat
  let (vs, _, fl) := tredResults rm (some fun v l => encodeElem fb (ffp32.decode v) rm t.sat l.toNat)
    (tredRows t.col t.fa.toNat a) lfsr 0
  (packNarrow fb (chunkRows (fmtCount fb) 64 vs), fl)

/-- TRED to a queue: the FP32 bits of the whole tile's sum, through one last encoding with SAT. -/
def tileReduceQueue (t : Tcw) (lfsr : BitVec 32) (a : Nat) : Nat × Flags :=
  let rm := t.rnd.toNat
  let (vs, l, fl) := tredResults rm none (tredRows t.col t.fa.toNat a) lfsr 0
  let (v, l2, fl2) := sumTree rm vs l fl
  let l3 := if rm = 2 then lfsrNext l2 else l2
  let (b, g) := ffp32.encode (ffp32.decode v) rm t.sat l3.toNat
  (b, fl2 ||| g)

/-! ### Quantise and dequantise (R192, R193) -/

/-- Val / σ rounded into FP32, with no flag. -/
def divSigma (sigma : BitVec 32) (v : Val) : Val :=
  let b :=
    match exDiv v (ffp32.decode sigma.toNat) with
    | .val x _ => (roundFp32 x).1
    | .frac s n d _ => (ffp32.encodeFrac s n d 0 false 0).1
    | .approx b _ => b
  ffp32.decode b

/-- Blocks of 32 of a row. -/
def blocks32 : Nat → List Val → List (List Val)
  | 0, _ => []
  | n + 1, xs => xs.take 32 :: blocks32 n (xs.drop 32)

/-- TQNT: each row's blocks as scale, elements and flags. -/
def quantRows (t : Tcw) (wide : Bool) (sigma : BitVec 32) (a : Nat) : List (List (Nat × List Nat × Flags)) :=
  let fb := t.fb.toNat
  let n := min (srcCount wide t.fa.toNat) (fmtCount fb)
  (tileVals wide t.fa.toNat a).map fun r =>
    (blocks32 (n / 32) ((r.take n).map (divSigma sigma))).map fun xs =>
      let (sc, ys, fl, _) := quantiseBlock fb xs
      (sc, ys, fl)

def quantFlags (rows : List (List (Nat × List Nat × Flags))) : Flags :=
  rows.foldl (fun f r => r.foldl (fun f b => f ||| b.2.2) f) 0

def tileQuant (t : Tcw) (wide : Bool) (sigma : BitVec 32) (a c : Nat) : TileRes :=
  let rows := quantRows t wide sigma a
  let img :=
    if t.scales then
      let h := if t.bhalf then 64 else 0
      joinBits 1024 (((narrowRows c).zip rows).map fun p =>
        let field := joinBits 8 (p.2.map (·.1))
        let lo := p.1 % 2 ^ (8 * h)
        lo + 2 ^ (8 * h) * field + 2 ^ (8 * (h + 8)) * (p.1 / 2 ^ (8 * (h + 8))))
    else packNarrow t.fb.toNat (rows.map fun r => r.flatMap fun b => b.2.1)
  (img, quantFlags rows)

/-- The exact values of a row of a block-scaled or LC2 format under its scale bytes, before σ, with the flags of
their products (R59). -/
def blockRow (c : Nat) (table : List Nat) (row : List Nat) (scale : Nat → Nat) : List (Val × Flags) :=
  if c = 15 then
    (row.zipIdx.flatMap fun p => (decodeLC2 p.1 (table.getD (p.1 / 256) 0) (scale (p.2 / 8))).map fun v => (v, 0))
  else
    row.zipIdx.map fun p => TArith.mul.on (decodeElem c p.1) (blockScale c (scale (p.2 / 32)))

def tileDequant (t : Tcw) (table : List Nat) (sigma lfsr : BitVec 32) (a c : Nat) : TileRes :=
  let fa := t.fa.toNat
  let fb := t.fb.toNat
  let n := min (fmtK fa) (fmtCount fb)
  let h := if t.bhalf then 64 else 0
  let rows := (narrowElems fa a).zipIdx.map fun p =>
    ((blockRow fa table p.1 fun b => imageByte c p.2 (h + b)).take n).map fun v =>
      let (x, fl) := TArith.mul.on v.1 (ffp32.decode sigma.toNat)
      (x, v.2 ||| fl)
  aluResult t fb lfsr rows

/-! ### Matrix sums (02 R80 to R82, 07 R196 to R210) -/

/-- Operand class of a format code: 0 16-bit, 1 8-bit and FP6, 2 4-bit, 3 LC2. -/
def matClass (c : Nat) : Nat :=
  match c with
  | 0 => 0 | 1 => 0 | 6 => 2 | 9 => 2 | 12 => 2 | 14 => 2 | 15 => 3 | _ => 1

/-- Group size and groups of a class. -/
def matGroup (c : Nat) : Nat × Nat :=
  match matClass c with
  | 0 => (16, 4) | 1 => (32, 4) | 2 => (64, 4) | _ => (64, 8)

/-- Whether the accumulator is INT48 (R197). -/
def matInt (fa fb : Nat) : Bool :=
  ((fa == 7 || fa == 8) && (fb == 7 || fb == 8)) || (fa == 9 && fb == 9)

/-- An operand's exact element values with their block scales: half 0 of the scale tile for A, 64 for B. -/
def matOperand (c : Nat) (table : List Nat) (img scale half : Nat) : List (List Val) :=
  if isBlockFmt c then
    (narrowElems c img).zipIdx.map fun p => (blockRow c table p.1 fun b => imageByte scale p.2 (half + b)).map (·.1)
  else tileVals false c img

/-- A window of a halo image (R210). -/
def haloOperand (c img dy dx : Nat) : List (List Val) :=
  (upTo 64).map fun i => (splitBits 16 64 (img / 2 ^ (8 * (144 * (i + dy) + 2 * dx)))).map (decodeElem c)

/-- Groups of g elements of a row. -/
def groupsOf (g : Nat) : Nat → List Val → List (List Val)
  | 0, _ => []
  | n + 1, xs => xs.take g :: groupsOf g n (xs.drop g)

/-- The exact sum of a group's terms; the flag says that R81 makes it NaN. -/
def groupSum : List Val → List Val → Val → Bool → Val × Bool
  | a :: as, b :: bs, s, nv =>
    let (p, _) := a.mul b
    let (t, n2) := s.add p
    groupSum as bs t (nv || p.isNan || n2)
  | _, _, s, nv => (s, nv)

/-- One group added into an FP48A element (R59, R80, R81, R201). -/
def addGroupFp (acc : Nat) (sigma : Val) (as bs : List Val) : Nat × Flags :=
  let (s, nv) := groupSum as bs (.fin true 0 0) false
  let (p, n2) := s.mul sigma
  let a := ffp48.decode acc
  let (v, n3) := a.add p
  let (b, g) := ffp48.encode v 0 false 0
  (b, g ||| flagIf (nv || n2 || sigma.isNan || n3) fNV)

/-- One group added into an INT48 element with saturation (R75, R82). -/
def addGroupInt (acc : Nat) (as bs : List Val) : Nat × Flags :=
  let (s, _) := groupSum as bs Val.zero false
  let (i, _) := encodeInt (-(2 ^ 60)) (2 ^ 60) s 0 0
  let x := sInt 48 acc + i
  let lo : Int := -(2 ^ 47)
  let hi : Int := 2 ^ 47 - 1
  if x < lo then ((lo % 2 ^ 48).toNat, fISAT)
  else if hi < x then (hi.toNat, fISAT) else ((x % 2 ^ 48).toNat, 0)

/-- One output element: every kept group in order. -/
def matElem (int : Bool) (sigma : Val) (skip : BitVec 8) : Nat → List (List Val) → List (List Val) → Nat → Flags → Nat × Flags
  | g, a :: as, b :: bs, acc, fl =>
    if skip.getLsbD g then matElem int sigma skip (g + 1) as bs acc fl
    else
      let (v, f) := if int then addGroupInt acc a b else addGroupFp acc sigma a b
      matElem int sigma skip (g + 1) as bs v (fl ||| f)
  | _, _, _, acc, fl => (acc, fl)

/-- The new accumulator image: C + A · Bᵀ. -/
def matResult (fa fb : Nat) (sigma : BitVec 32) (skip : BitVec 8) (a b : List (List Val)) (acc : Nat) : TileRes :=
  let (g, n) := matGroup fa
  let int := matInt fa fb
  let sg := ffp32.decode sigma.toNat
  let as := a.map (groupsOf g n)
  let bs := b.map (groupsOf g n)
  let rows := (as.zip (wideElems acc)).map fun p =>
    (bs.zip p.2).map fun q => matElem int sg skip 0 p.1 q.1 q.2 0
  (packWide (rows.map fun r => r.map (·.1)), rows.foldl (fun f r => r.foldl (fun f x => f ||| x.2) f) 0)

/-! ### Skip streams (07 R207, R214) -/

/-- The next decision of a stream: skip or keep, and the stream; none for an entry at or above 0x7_0000, with
its offset. `half` reads a halfword of the core store. -/
def nextDecision (half : Nat → Nat) (sk : Word) : Except Nat (Bool × Word) :=
  let mode := wfld sk 63 62
  if mode = 0 then .ok (false, sk)
  else if mode = 2 then
    let seed := lfsrNext (BitVec.ofNat 32 (wfld sk 31 0))
    .ok (decide (seed.toNat % 256 < wfld sk 39 32), w64 (put 2 62 + put (wfld sk 39 32) 32 + seed.toNat))
  else
    let build (m sl kl nx : Nat) : Word := w64 (put m 62 + put sl 40 + put kl 32 + put nx 1)
    let take (sl kl nx : Nat) : Bool × Word :=
      if sl != 0 then (true, build 1 (sl - 1) kl nx) else (false, build 1 sl (kl - 1) nx)
    let sl := wfld sk 47 40
    let kl := wfld sk 39 32
    let nx := wfld sk 18 1
    if sl = 0 && kl = 0 then
      if residentBase ≤ 2 * nx then .error (2 * nx)
      else
        let e := half (2 * nx)
        let nx := (nx + 1) % 2 ^ 18
        if e = 0 then .ok (false, build 0 0 0 nx) else .ok (take (e / 256) (e % 256) nx)
    else .ok (take sl kl nx)

/-- The decisions of n groups: SK0 then SK1 for each group; bit g says that group g is skipped. -/
def skipGroups (half : Nat → Nat) (n : Nat) (a b : Word) : Except Nat (Nat × Word × Word) :=
  (upTo n).foldlM (fun (st : Nat × Word × Word) g => do
    let (x, a) ← nextDecision half st.2.1
    let (y, b) ← nextDecision half st.2.2
    .ok (st.1 + bitAt (x || y) g, a, b)) (0, a, b)

/-- The value rules of SKSET (R214). -/
def skValueOk (v : Word) : Bool :=
  match wfld v 63 62 with
  | 0 => wfld v 61 0 == 0
  | 1 => wfld v 61 48 == 0 && wfld v 31 19 == 0 && !wbit v 0
  | 2 => wfld v 61 40 == 0
  | _ => false

/-- A pattern stream with seed 0 loads seed 1. -/
def skLoad (v : Word) : Word := if wfld v 63 62 = 2 && wfld v 31 0 == 0 then v ||| 1#64 else v

end Sys2Proof.Machine
end

