-- ==== Sys2Proof/Machine/TileFE.lean ====
section
/-! DEFINITION. The tile front end: capture of tile command words, rename with its checks, issue, completion,
retirement, store writing and precise faults (01 R36 to R48, 06 R166 to R195, 07 R198 to R214). -/

namespace Sys2Proof.Machine

open Sys2Proof

/-! ### Capture (R36) -/

/-- The x-register fields that a form reads, in the order of capture: BASE, STRIDE, AUX, AUX2, CBR, CVR. -/
def tcwReads (i : Instr) : Bool × Bool × Bool × Bool × Bool × Bool :=
  match i with
  | .tld _ | .tldh _ => (true, true, false, false, true, true)
  | .tst _ | .tmmad _ => (true, true, false, false, false, false)
  | .tldm _ => (true, true, true, true, true, true)
  | .tgath _ => (true, false, true, false, true, true)
  | .tsave _ | .trest _ => (true, false, false, false, false, false)
  | .eset _ | .skset _ => (false, false, true, false, false, false)
  | _ => (false, false, false, false, false, false)

/-- A field read when the form uses it. -/
def readField (s : State) (use : Bool) (r : BitVec 5) : Res (State × Word) := if use then readX s r else .ok (s, 0)

/-- Words that the front end holds and has not retired. -/
def TileFE.held (fe : TileFE) : Nat := fe.rob.length + fe.replay.length + fe.inq.length

/-- A TCW enters the tile input queue with the values it names; a full queue parks slot 0, and so do 40 words that the front
end holds, the most that a replay list has (R46). It is counted in `instret` when it retires (03 Table 3.2). -/
def tcwBody (i : Instr) (t : Tcw) (s : State) : Res State := do
  need (decide (s.mine.fe.inq.length < 8) && decide (s.mine.fe.held < 40)) (.park 11 0 (some 0))
  let (b, st, a, a2, cb, cv) := tcwReads i
  let (s, base) ← readField s b t.base
  let (s, stride) ← readField s st t.stride
  let (s, aux) ← readField s a t.aux
  let (s, aux2) ← readField s a2 t.aux2
  let (s, cbr) ← readField s cb t.cbr
  let (s, cvr) ← readField s cv t.cvr
  let e : TcwEntry := { tcw := t.raw, addr := s.me.pc - 32, base := base, stride := stride, aux := aux, aux2 := aux2,
                        cbr := cbr, cvr := cvr, step := s.mine.step }
  .ok ((s.modMine fun u => { u with fe := { u.fe with inq := u.fe.inq ++ [e] } }).modMe fun h => { h with instret := h.instret - 1 })

/-- A tile command word issues on slot 0. -/
def tcwIssue (i : Instr) (t : Tcw) (s : State) : Host.Outcome State Fault Refusal :=
  issueN 32 i s.onTile false s (tcwBody i t)

/-- VACANT_ENCODING (R90): ILLEGAL at decode. A tile command word that fails decode on slot 0 enters the input
queue, and the fault is found at rename; a pending prefix stays. -/
def vacantIssue (w : BitVec 256) (tcw : Bool) (s : State) : Host.Outcome State Fault Refusal :=
  issueN 32 (.vacantEncoding w tcw) (tcw && s.onTile) true s (tcwBody (.vacantEncoding w tcw) ⟨w⟩)

/-! ### Sources and shapes (R22, R38, R167, R200) -/

def TileFE.modEntry (fe : TileFE) (r : Nat) (f : RobEntry → RobEntry) : TileFE :=
  { fe with rob := fe.rob.map fun x => if x.id = r then f x else x }
def State.fe (s : State) (u : Nat) : TileFE := (s.unit u).fe
def State.modFe (s : State) (u : Nat) (f : TileFE → TileFE) : State := s.modUnit u fun x => { x with fe := f x.fe }
def State.modRob (s : State) (u r : Nat) (f : RobEntry → RobEntry) : State := s.modFe u fun fe => fe.modEntry r f

/-- The halo width of a source: that of its TLDH, or of what a TMOV copied. -/
def TileFE.haloOf (fe : TileFE) : Nat → Src → Nat
  | 0, _ => 0
  | fuel + 1, x =>
    match x with
    | .none => 0
    | .arch t => t.h
    | .rob r =>
      match fe.entry r with
      | none => 0
      | some e =>
        match e.i with
        | .tldh t => t.halo.toNat
        | .tmov _ => fe.haloOf fuel e.a
        | _ => 0

/-- Shapes accepted: narrow (or unmapped), narrow or wide, any. -/
def Shape.isNarrow (sh : Shape) : Bool := sh == .narrow || sh == .unmapped
def Shape.isNarrowWide (sh : Shape) : Bool := sh.isNarrow || sh == .wide

/-- Whether a matrix form reads its scale tile (R199). -/
def readsScale (t : Tcw) : Bool := isBlockFmt t.fa.toNat || isBlockFmt t.fb.toNat

/-- The source operands of a form: A, B, C and the accumulator or old destination. -/
def tileSources (fe : TileFE) (i : Instr) (t : Tcw) : Src × Src × Src × Src :=
  let a := fe.src t.ta
  match i with
  | .tst _ | .tsave _ | .tmov _ | .tscl _ | .ttrn _ | .tred _ | .tredQueue _ | .tcvt _ => (a, .none, .none, .none)
  | .tadd _ | .tsub _ | .tmul _ | .tmax _ | .tmin _ => (a, fe.src t.tb, .none, .none)
  | .tqnt _ => (a, .none, if t.scales then fe.src t.tc else .none, .none)
  | .tdeq _ => (a, .none, fe.src t.tc, .none)
  | .tmma _ | .tmmas _ =>
    (a, fe.src t.tb, if readsScale t then fe.src t.tc else .none, if t.zacc then .none else fe.src t.td)
  | .tmmaw _ => (a, fe.src t.tb, .none, if t.zacc then .none else fe.src t.td)
  | .tmmad _ => (a, .none, if readsScale t then fe.src t.tc else .none, if t.zacc then .none else fe.src t.td)
  | _ => (.none, .none, .none, .none)

/-- The first operand field of a wrong shape: 0 destination, 1 A, 2 B, 3 C (R90, R167, R200). -/
def shapeFault (fe : TileFE) (i : Instr) (t : Tcw) : Option Nat :=
  let sh (r : BitVec 4) : Shape := fe.shape (fe.src r)
  let first (xs : List (Bool × Nat)) : Option Nat := (xs.find? fun p => !p.1).map (·.2)
  let mat (a b : Bool) : Option Nat :=
    first [(t.zacc || sh t.td == .wide || sh t.td == .unmapped, 0), (a, 1), (b, 2), (!readsScale t || (sh t.tc).isNarrow, 3)]
  match i with
  | .tst _ | .tscl _ | .ttrn _ | .tred _ | .tredQueue _ => first [((sh t.ta).isNarrow, 1)]
  | .tsave _ | .tcvt _ => first [((sh t.ta).isNarrowWide, 1)]
  | .tadd _ | .tsub _ | .tmul _ | .tmax _ | .tmin _ => first [((sh t.ta).isNarrow, 1), ((sh t.tb).isNarrow, 2)]
  | .tqnt _ => first [((sh t.ta).isNarrowWide, 1), (!t.scales || (sh t.tc).isNarrow, 3)]
  | .tdeq _ => first [((sh t.ta).isNarrow, 1), ((sh t.tc).isNarrow, 3)]
  | .tmma _ | .tmmas _ => mat (sh t.ta).isNarrow (sh t.tb).isNarrow
  | .tmmaw _ => first [(t.zacc || sh t.td == .wide || sh t.td == .unmapped, 0), (sh t.ta == .halo, 1), ((sh t.tb).isNarrow, 2)]
  | .tmmad _ => mat (sh t.ta).isNarrow true
  | _ => none

/-- The tile register fields that a form names, with their numbers. -/
def tileNames (i : Instr) (t : Tcw) : List (Nat × BitVec 4) :=
  let sc := if readsScale t then [(3, t.tc)] else []
  match i with
  | .tst _ | .tsave _ | .tredQueue _ => [(1, t.ta)]
  | .tmov _ | .tscl _ | .ttrn _ | .tred _ | .tcvt _ => [(0, t.td), (1, t.ta)]
  | .tadd _ | .tsub _ | .tmul _ | .tmax _ | .tmin _ => [(0, t.td), (1, t.ta), (2, t.tb)]
  | .tqnt _ => [(0, t.td), (1, t.ta)] ++ (if t.scales then [(3, t.tc)] else [])
  | .tdeq _ => [(0, t.td), (1, t.ta), (3, t.tc)]
  | .tmma _ | .tmmas _ => [(0, t.td), (1, t.ta), (2, t.tb)] ++ sc
  | .tmmaw _ => [(0, t.td), (1, t.ta), (2, t.tb)]
  | .tmmad _ => [(0, t.td), (1, t.ta)] ++ sc
  | .tld _ | .tldh _ | .tldm _ | .tgath _ | .trest _ | .tzero _ | .tfill _ => [(0, t.td)]
  | _ => []

/-- MAXTILES of a unit's job; all 16 where no descriptor can be read. -/
def maxTiles (s : State) (u : Nat) : Nat :=
  match jobWord? s (s.unit u).job 0 with
  | some w => wfld w 28 24
  | none => 16

/-- The first field whose register is MAXTILES or above (18 R423) or has a wrong shape. -/
def operandFault (s : State) (u : Nat) (i : Instr) (t : Tcw) : Option Nat :=
  let m := maxTiles s u
  let high := ((tileNames i t).find? fun p => decide (m ≤ p.2.toNat)).map (·.1)
  match high, shapeFault (s.fe u) i t with
  | some a, some b => some (min a b)
  | some a, none => some a
  | none, b => b

/-! ### Field values (R170, R177, R178, R184 to R193, R198, R478) -/

/-- COLS holds whole elements of a format and at most 128 bytes (R170). -/
def colsOk (fa : Nat) (t : Tcw) : Bool :=
  let c := tcwCols t
  decide (c ≤ 128) && (match fmtBits fa with
    | 16 => c % 2 == 0
    | 6 => c % 3 == 0 && decide (c ≤ 96)
    | _ => true)

/-- The lowest bits of the nonzero FLAGS, GEOM and COMPL subfields that a matrix or control form does not take. -/
def strayBits (t : Tcw) (geom compl : Bool) : List Nat :=
  let nz (lo n : Nat) : List Nat := if t.raw.toNat / 2 ^ lo % 2 ^ n != 0 then [lo] else []
  nz 56 1 ++ nz 57 1 ++ nz 59 1 ++ nz 60 1 ++ nz 61 1 ++ nz 62 1 ++ nz 63 1
    ++ (geomFields.flatMap fun f => if geom && (f.1 == 148 || f.1 == 152) then [] else nz f.1 f.2)
    ++ (if compl then [] else complFields.flatMap fun f => nz f.1 f.2)

/-- The lowest bits of the fields whose values a form's rules reject. The loads and stores of part 06 take every format code,
and no value of ESEL is rejected: a matrix form with an INT48 accumulator does not read it (log entry 42). -/
def badFields (s : State) (u : Nat) (i : Instr) (t : Tcw) (e : TcwEntry) : List Nat :=
  let fe := s.fe u
  let fa := t.fa.toNat
  let fb := t.fb.toNat
  let wideA := fe.shape (fe.src t.ta) == .wide
  let chk (ok : Bool) (bit : Nat) : List Nat := if ok then [] else [bit]
  let plain (c bit : Nat) : List Nat := chk (decide (c ≤ 9)) bit
  let narrowOnly := chk (!t.wide) 52
  let cond := chk (t.cbr != 0 || t.cvr == 0) 165
  let box := chk (decide (tcwRows t ≤ 64)) 128 ++ chk (colsOk fa t) 136
  let mat (window : Bool) : List Nat :=
    chk ((readsScale t && !window) || t.tc == 0) 36 ++ chk (matClass fa == matClass fb) 44 ++ chk t.wide 52 ++ strayBits t window false
  match i with
  | .tld _ | .tgath _ => narrowOnly ++ box ++ cond
  | .tst _ => narrowOnly ++ box
  | .tldm _ =>
    narrowOnly ++ box ++ cond
      ++ chk (wfld e.aux 63 16 == 0 && wbit e.aux (4 * (u / 4 % 4) + u % 4)) 74 ++ chk (wfld e.aux2 63 32 == 0) 79
  | .tldh _ =>
    let m := 64 + 2 * min t.halo.toNat 4
    let c := tcwCols t
    narrowOnly ++ chk (decide (fa ≤ 1)) 40 ++ chk (decide (tcwRows t ≤ m)) 128
      ++ chk (c % 2 == 0 && decide (2 ≤ c) && decide (c ≤ 2 * m)) 136 ++ chk (decide (t.halo.toNat ≤ 4)) 144 ++ cond
  | .tsave _ | .tfence _ => narrowOnly
  | .tmov _ => chk (t.wide == wideA) 52
  | .tfill _ => narrowOnly ++ plain fb 44
  | .tadd _ | .tsub _ | .tmul _ | .tmax _ | .tmin _ | .tscl _ | .tred _ => narrowOnly ++ plain fa 40 ++ plain fb 44
  | .ttrn _ => narrowOnly ++ plain fa 40
  | .tredQueue _ => narrowOnly ++ chk (t.td == 0) 24 ++ plain fa 40 ++ chk (fb == 0) 44
  | .tcvt _ => narrowOnly ++ (if wideA then chk (fa == 0 || fa == 7) 40 else plain fa 40) ++ plain fb 44
  | .tqnt _ =>
    narrowOnly ++ chk (if wideA then fa == 0 else decide (fa ≤ 5)) 40 ++ chk (decide (10 ≤ fb) && decide (fb ≤ 14)) 44
      ++ (if t.scales then [] else chk (t.tc == 0) 36 ++ chk (!t.bhalf) 61)
  | .tdeq _ => narrowOnly ++ chk (decide (10 ≤ fa)) 40 ++ chk (decide (fb ≤ 5)) 44
  | .tmma _ | .tmmas _ | .tmmad _ => mat false
  | .tmmaw _ =>
    let h := 2 * fe.haloOf 32 (fe.src t.ta)
    chk (decide (fa ≤ 1)) 40 ++ chk (decide (fb ≤ 1)) 44 ++ mat true
      ++ chk (decide (t.dy.toNat ≤ h)) 148 ++ chk (decide (t.dx.toNat ≤ h)) 152
  | .eset _ | .esetImm _ => strayBits t false false
  | .skset _ => strayBits t false false ++ chk (skValueOk e.aux) 74
  | .skget _ => strayBits t false true
  | _ => []

/-! ### Rename (R38, R39, R207) -/

/-- The destination's shape, when the form has one (R167). -/
def destShape (fe : TileFE) (i : Instr) (t : Tcw) : Option Shape :=
  match destForm i t with
  | .none => none
  | .shape sh => some sh
  | .copy => some (match fe.shape (fe.src t.ta) with
      | .unmapped => .narrow
      | sh => sh)

/-- A value of E and SK registers at reset (07 R80, Tables 7.3 and 7.4). -/
def eReset : BitVec 32 := 0x3F800000#32

/-- How many generator states a form claims in SR mode (R63, R169, R189). -/
def tileClaims (i : Instr) (t : Tcw) (wideA : Bool) : Nat :=
  let n := 64 * min (srcCount wideA t.fa.toNat) (fmtCount t.fb.toNat)
  match i with
  | .tfill _ => 64 * fmtCount t.fb.toNat
  | .tadd _ | .tsub _ | .tmul _ | .tmax _ | .tmin _ | .tscl _ | .tcvt _ => n
  | .tdeq _ => 64 * min (fmtK t.fa.toNat) (fmtCount t.fb.toNat)
  | .tred _ | .tredQueue _ => 64 * fmtCount t.fa.toNat
  | _ => 0

/-- A halfword of a core's store. -/
def coreHalf (s : State) (u off : Nat) : Nat := s.get (storeBase u + off) 2

/-- Ports and the queue that a delivering form names (R190). -/
def tileQueueBound (s : State) (u : Nat) (t : Tcw) : Bool :=
  let h := s.hart u 0
  h.qValid t.qdst.toNat && h.qPort t.qdst.toNat == portTile

/-- The fault that rename finds: decode, shape, field value, chunk condition, queue (R90, R172, R174, R198). -/
def renameFault (s : State) (u : Nat) (i : Instr) (t : Tcw) (e : TcwEntry) : Option (Nat × Word) :=
  match i with
  | .vacantEncoding w _ => some (cIllegal, w64 (2 ^ 63 + w.toNat % 2 ^ 32))
  | _ =>
    match operandFault s u i t with
    | some f => some (cIllegal, w64 (2 ^ 62 + f))
    | none =>
      match badFields s u i t e with
      | b :: bs => some (cIllegal, w64 (bs.foldl min b))
      | [] =>
        let cond := (tcwReads i).2.2.2.2.1 && t.cbr != 0
        if cond && !(e.cbr.toNat % 8 == 0 && decide (coreWindow ≤ e.cbr.toNat) && decide (e.cbr.toNat < coreWindow + 0x80000)) then
          some (cIllegal, e.cbr)
        else
          match i with
          | .tredQueue _ | .skget _ => if tileQueueBound s u t then none else some (cQueueUnbound, w64 t.qdst.toNat)
          | _ => none

/-- The E and SK registers after a form's rename, and the groups that a TMMAS skips. -/
def renameRegs (s : State) (u : Nat) (i : Instr) (t : Tcw) (e : TcwEntry) :
    Except Nat (FMap (BitVec 32) × FMap Word × Nat) :=
  let fe := s.fe u
  match i with
  | .eset _ => .ok (fset fe.e t.esel.toNat (e.aux.setWidth 32), fe.sk, 0)
  | .esetImm _ => .ok (fset fe.e t.esel.toNat (t.imm.setWidth 32), fe.sk, 0)
  | .skset _ => .ok (fe.e, fset fe.sk (t.esel.toNat % 2) (skLoad e.aux), 0)
  | .tmmas _ =>
    match skipGroups (coreHalf s u) (matGroup t.fa.toNat).2 (fget fe.sk 0 0) (fget fe.sk 1 0) with
    | .error o => .error o
    | .ok (m, a, b) => .ok (fe.e, fset (fset fe.sk 0 a) 1 b, m)
  | _ => .ok (fe.e, fe.sk, 0)

/-- A reorder-buffer number that no entry has. -/
def freshId (fe : TileFE) : Nat :=
  ((upTo 32).map fun i => (fe.nextId + i) % 32).find? (fun r => fe.rob.all fun x => x.id != r) |>.getD 0

/-- Whether a core's slot 0 stands on a tile fault that the CMC has not answered (R46, R47). -/
def tileFaulted (s : State) (u : Nat) : Bool :=
  (s.hart u 0).park == 9 && wbit (s.hart u 0).hxtrap 11

/-- Whether the front end takes words: not while a tile fault is unanswered or kept, nor between the drain of a PREEMPT run
and its end, nor once the job's removal has stopped the core (20 R445). -/
def renameOn (s : State) (u : Nat) : Bool :=
  let x := s.unit u
  x.up && !(s.hart u 0).restored && !tileFaulted s u && !x.drained && x.fe.recorded.isNone && !removing s x.job

/-- The next word: the replay list before the input queue (R47). -/
def nextTcw (fe : TileFE) : Option (TcwEntry × TileFE) :=
  match fe.replay, fe.inq with
  | e :: r, _ => some (e, { fe with replay := r })
  | [], e :: q => some (e, { fe with inq := q })
  | [], [] => none

/-- One word renamed into a reorder-buffer entry; none while a resource is lacking. A word whose fault is found here claims no
generator state (log entry 44). -/
def renameOne (s : State) (u : Nat) : Option State :=
  match nextTcw (s.fe u) with
  | none => none
  | some (e, fe) =>
    let i := decodeTcw e.tcw
    let t : Tcw := ⟨e.tcw⟩
    let id := freshId fe
    let (a, b, c, acc) := tileSources fe i t
    let wideA := fe.shape a == .wide
    let blank : RobEntry :=
      { id := id, e := e, i := i, a := a, b := b, c := c, acc := acc, dest := none, slots := 0, frees := 0,
        sigma := fget fe.e t.esel.toNat eReset, skip := 0, eAfter := fe.e, skAfter := fe.sk, lfsr := (s.unit u).lfsr,
        env := tileEnv s u i e wideA, reads := tileReads i, writes := tileWrites i, phase := .renamed, fault := none,
        result := none, qval := none, flags := 0, box := none, boxPart := 0, arrived := [], joined := false, await := [], places := [], spans := [], bypass := false,
        request := false, array := none }
    let put (r : RobEntry) (g : TileFE → TileFE) (lf : Nat) : Option State :=
      some (s.modUnit u fun x =>
        { x with fe := g { fe with rob := fe.rob ++ [r], nextId := (id + 1) % 32 }, lfsr := lfsrSkip lf x.lfsr })
    if 32 ≤ fe.rob.length then none
    else
      match renameFault s u i t e with
      | some f => put { blank with fault := some f, phase := .complete } (fun y => y) 0
      | none =>
        match renameRegs s u i t e with
        | .error o => put { blank with fault := some (cPermission, w64 (coreWindow + o)), phase := .complete } (fun y => y) 0
        | .ok (es, sk, m) =>
          let slots := ((destShape fe i t).map slotsOf).getD 0
          let done := match i with | .eset _ | .esetImm _ | .skset _ => true | _ => false
          let qv := match i with | .skget _ => some (fget fe.sk (t.esel.toNat % 2) 0) | _ => none
          if fe.free < slots then none
          else
            put { blank with dest := (destShape fe i t).map fun _ => t.td.toNat, slots := slots, skip := BitVec.ofNat 8 m,
                             eAfter := es, skAfter := sk, qval := qv, phase := if done then .complete else .renamed }
              (fun y => { y with free := y.free - slots, e := es, sk := sk })
              (if t.rnd = 2 then tileClaims i t wideA else 0)

/-- TILE_RENAME. -/
def execTileRename (u : Nat) (s : State) : Host.Outcome State Fault Refusal :=
  if renameOn s u then
    match renameOne s u with
    | some t => .next (wakePark t u 11)
    | none => .next s
  else .next s

/-! ### Memory places of tile forms (R170 to R174) -/

/-- The locks of the core that a tile access waits on: a load meets destination locks, a store both; a load whose
chunk condition lies in an operation's bitmap does not wait on that operation's destination lock (R173). -/
def tileLocked (s : State) (u : Nat) (skip : List (BitVec 16)) (lo hi : Nat) (store : Bool) : Bool :=
  (s.unit u).locks.any fun l =>
    (store || (l.dest && !skip.contains l.serial)) && decide (l.lo ≤ hi) && decide (lo ≤ l.hi)

/-- How one piece of a tile form's memory is reached. -/
structure TileAcc where
  a : Acc
  /-- A window is refused (TLDM, TMMAD). -/
  noWindow : Bool
  skip : List (BitVec 16)
  deriving DecidableEq, Repr

/-- What the tile stream does on the way to its places: the tables that it fills and the orders that it cancels stay so when it
stops (15 R349). -/
abbrev TileM := ExceptT Stop (StateM State)

/-- A check of the tile stream. -/
def TileM.check {α : Type} (r : Res α) : TileM α := ExceptT.mk (pure r)

/-- The result of a walk of the tile stream, or how it stops. -/
def TileM.result {α : Type} (m : TileM α) (s : State) : Res (State × α) :=
  match m.run.run s with
  | (.ok a, t) => .ok (t, a)
  | (.error e, _) => .error e

/-- The state that it leaves, however it ends. -/
def TileM.left {α : Type} (m : TileM α) (s : State) : State := (m.run.run s).2

/-- The place of n bytes of slot 0's tile stream, with the checks of a tile access. The replies to write-throughs of the same bytes
are here before it goes on (09 R234). -/
def tilePlace (va n : Nat) (c : TileAcc) : TileM Place := do
  let s ← get
  let u := s.cur.unit
  match ← TileM.check (windowAddr s va n c.a) with
  | some p =>
    TileM.check (need (!c.noWindow) (.trap cPermission va))
    pure { va := va, pa := p, win := true, dev := false, bypass := false, vbase := 0 }
  | none =>
    let (t, r) := translate s u s.mine.job va c.a
    set t
    match r with
    | .wait => TileM.check (.error (.hold none))
    | .raise x v => TileM.check (raise x v)
    | .ok pa e =>
      TileM.check (do
        need (regionOf pa != 3) (.trap cPermission va)
        need (backed t pa) (.trap cNoRange va)
        need (!tileLocked t u c.skip va (va + n - 1) c.a.w) (.hold none)
        need (!pairLocked t (lineOf pa)) (.hold none))
      set (overlapReplied t u pa n)
      pure { va := va, pa := pa, win := false, dev := false, bypass := e.n, vbase := e.vbase }

/-- One piece of a form's memory: its byte in the image, its place and length. -/
structure Piece where
  off : Nat
  p : Place
  n : Nat
  deriving DecidableEq, Repr

/-- The pieces of rows (image byte, address, bytes), row by row in increasing address. -/
def tilePieces (c : TileAcc) (rows : List (Nat × Nat × Nat)) : TileM (List Piece) :=
  rows.foldlM (fun ps r =>
    (blocks r.2.1 (r.2.2 / 256 + 2) r.2.2).foldlM (fun ps b => do
      let p ← tilePlace b.1 b.2 c
      pure (ps ++ [{ off := r.1 + (b.1 - r.2.1), p := p, n := b.2 }])) ps) []

/-- Bytes of an image row for each shape. -/
def haloPitch : Nat := 144

/-- The rows of a strided box as pieces of an image with a row pitch. -/
def boxRows (e : TcwEntry) (t : Tcw) (pitch : Nat) : List (Nat × Nat × Nat) :=
  (upTo (tcwRows t)).map fun i => (pitch * i, rowAddr e.addr0 e.stride i, tcwCols t)

/-- MISALIGNED of a and s for 16-bit formats and LC2 (R171). -/
def needEven (fa : Nat) (a : Nat) (stride : Word) : Res Unit :=
  need (fmtBits fa != 16 || (a % 2 == 0 && stride.toNat % 2 == 0)) (.trap cMisaligned a)

/-- Engine operations of the core whose bitmap holds a chunk-condition word (R173). -/
def EngineOp.chunkCount (o : EngineOp) : Nat := ceilDiv (o.rows * o.rowBytes) 512
def bitmapOps (x : UnitSt) (off : Nat) : List (BitVec 16) :=
  (x.ops.filter fun o => o.bmen && decide (o.bmoff ≤ off) && decide (off < o.bmoff + 8 * ceilDiv o.chunkCount 64)).map (·.serial)

/-- The image that pieces read, with the first poisoned flit's address (R172). What slot 0's streams have fetched of them is overtaken. -/
def readPieces (s : State) (alloc : Bool) (ps : List Piece) : Res (State × Nat) := do
  let (t, v) := ps.foldl (fun (st : State × Nat) p =>
    let (q, x) := st.1.readSpan st.1.cur.unit p.p.pa p.n alloc p.p.bypass
    (q, st.2 + x * 2 ^ (8 * p.off))) (s, 0)
  match ps.findSome? fun p => ((flits p.p.pa p.n).find? (copyBad t t.cur.unit p.p.bypass)).map fun f => p.p.va + 64 * f - p.p.pa with
  | some v => raise cPoison v
  | none => .ok (t.modMe fun h => ps.foldl (fun h p => h.hasRead p.p.pa p.n) h, v)

/-- The list of a TGATH: its place (R179). -/
def gatherList (e : TcwEntry) (t : Tcw) (c : TileAcc) : TileM (List Piece) := do
  let la := e.aux.toNat
  TileM.check (need (la % 4 == 0) (.trap cMisaligned la))
  tilePieces c [(0, la, 4 * tcwRows t)]

/-- The rows that a TGATH reads: the list, then each row, in turn, inside the span of a. -/
def gatherPieces (e : TcwEntry) (t : Tcw) (c : TileAcc) : TileM (List Piece) := do
  let a := e.addr0
  let ps ← gatherList e t c
  let (s, v) ← TileM.check (readPieces (← get) true ps)
  set s
  let ds := (upTo (tcwRows t)).map fun i => (w64 a + ofI (sInt 32 (v / 2 ^ (32 * i)))).toNat
  TileM.check (need (fmtBits t.fa.toNat != 16 || ds.all fun x => x % 2 == 0) (.trap cMisaligned a))
  let span := (tileEnv s s.cur.unit (.tgath t) e false).getD 1 (a, a)
  ds.zipIdx.foldlM (fun ps p => do
    TileM.check (need (decide (span.1 ≤ p.1) && decide (p.1 + tcwCols t - 1 ≤ span.2)) (.trap cNoRange p.1))
    let xs ← tilePieces c [(128 * p.2, p.1, tcwCols t)]
    pure (ps ++ xs)) []

/-- The walk of a memory form, with every check of translation; `wide` is the shape of TSAVE's source. Without `rows` a
TGATH, whose chunk condition has not held yet, checks its list only, which it must not read before. -/
def formWalk (r : RobEntry) (wide rows : Bool) : TileM (List Piece) := do
  let s ← get
  let t : Tcw := ⟨r.e.tcw⟩
  let a := r.e.addr0
  let skip := if (tcwReads r.i).2.2.2.2.1 && t.cbr != 0 then bitmapOps s.mine (r.e.cbr.toNat - coreWindow) else []
  let ld : TileAcc := { a := .load, noWindow := false, skip := skip }
  let st : TileAcc := { a := .store, noWindow := false, skip := [] }
  let whole (n : Nat) (c : TileAcc) : TileM (List Piece) := do
    TileM.check (needAligned a 256)
    tilePieces c [(0, a, n)]
  match r.i with
  | .tld _ => TileM.check (needEven t.fa.toNat a r.e.stride); tilePieces ld (boxRows r.e t 128)
  | .tldm _ => TileM.check (needEven t.fa.toNat a r.e.stride); tilePieces { ld with noWindow := true } (boxRows r.e t 128)
  | .tldh _ => TileM.check (needEven t.fa.toNat a r.e.stride); tilePieces ld (boxRows r.e t haloPitch)
  | .tst _ => TileM.check (needEven t.fa.toNat a r.e.stride); tilePieces st (boxRows r.e t 128)
  | .tgath _ => do
    TileM.check (need (fmtBits t.fa.toNat != 16 || a % 2 == 0) (.trap cMisaligned a))
    if rows then gatherPieces r.e t ld else gatherList r.e t ld
  | .tsave _ => whole (if wide then 24576 else 8192) st
  | .trest _ => whole (if t.wide then 24576 else 8192) ld
  | .tmmad _ => do
    TileM.check (needEven t.fb.toNat a r.e.stride)
    tilePieces { ld with noWindow := true } ((upTo 64).map fun i => (128 * i, rowAddr a r.e.stride i, 128))
  | _ => pure []

/-- The pieces of a memory form, or what stops it. -/
def formPieces (s : State) (r : RobEntry) (wide rows : Bool) : Res (State × List Piece) := (formWalk r wide rows).result s

/-! ### Values of sources -/

/-- An unmapped tile reads as zeros (R22). -/
def TileFE.value (fe : TileFE) (x : Src) : Option Tile :=
  match x with
  | .none => some Tile.reset
  | .arch t => some t
  | .rob r => (fe.entry r).bind fun e => if e.phase = .complete && e.fault.isNone then e.result else none

/-- Whether every source has been written. -/
def TileFE.ready (fe : TileFE) (r : RobEntry) : Bool :=
  (fe.value r.a).isSome && (fe.value r.b).isSome && (fe.value r.c).isSome && (fe.value r.acc).isSome

/-- The LC2 table that the job descriptor names (02 R72, Table 16.1). -/
def lc2Table (s : State) (u : Nat) : List Nat :=
  match jobWord? s (s.unit u).job 4 with
  | some w =>
    if wbit w 63 then (upTo 256).map fun i => s.get (storeBase u + 1024 * wfld w 18 10 + 4 * i) 4 else lc2Default
  | none => lc2Default

/-- The hxtval of a poisoned tile operand (20 Table 20.8, 07 R202). -/
def poisonField (x : Tile) (field : Nat) : Option Word := x.poison.map fun row => w64 (0x2000000000000000 + 16 * row + field)

/-! ### Issue (R41, R42, R173, R174, R211) -/

inductive TileUnit where
  | engine | alu | fetch | array | none
  deriving DecidableEq, Repr

def tileUnit (i : Instr) : TileUnit :=
  match i with
  | .tld _ | .tldh _ | .tldm _ | .tgath _ | .trest _ | .tst _ | .tsave _ => .engine
  | .tmmad _ => .fetch
  | .tmma _ | .tmmas _ | .tmmaw _ => .array
  | .tfence _ | .eset _ | .esetImm _ | .skset _ | .skget _ | .vacantEncoding _ _ => .none
  | _ => .alu

/-- Entries older than one. -/
def TileFE.older (fe : TileFE) (r : Nat) : List RobEntry := fe.rob.takeWhile fun x => x.id != r

/-- A load that has not read its bytes yet. -/
def readPending (r : RobEntry) : Bool := r.reads && r.fault.isNone && (r.phase == .renamed || (r.phase == .issued && r.box.isNone))

/-- The bytes that a load has still to read: its rows; of a TGATH that has not issued, whose rows its list will say, its whole envelope. -/
def readSpans (s : State) (u : Nat) (r : RobEntry) : List (Nat × Nat) :=
  let t : Tcw := ⟨r.e.tcw⟩
  let a := r.e.addr0
  let rows (n b : Nat) : List (Nat × Nat) := (upTo n).map fun i => (rowAddr a r.e.stride i, rowAddr a r.e.stride i + b - 1)
  match r.i with
  | .tgath _ => if r.phase = .renamed then envNow s u r else r.spans.map fun p => (p.1, p.1 + p.2.2.1 - 1)
  | .trest _ => r.env
  | .tmmad _ => rows 64 128
  | _ => rows (tcwRows t) (tcwCols t)

/-- What a load reads at its issue: a TGATH its list, a TLDM, whose lines its leader reads from then on, its rows. -/
def readsAtIssue (s : State) (u : Nat) (r : RobEntry) : List (Nat × Nat) :=
  match r.i with
  | .tgath _ => (envNow s u r).take 1
  | .tldm _ => readSpans s u r
  | _ => []

/-- Older loads of the same bytes, which read them before a younger one does (10 R252): one that has not issued holds the issue of the
younger, which would else hold a unit that it needs, and any holds what the younger reads at its issue (DEDUCED, log entry 28). -/
def readsBefore (s : State) (u : Nat) (r : RobEntry) : Bool :=
  r.reads && ((s.fe u).older r.id).any fun x =>
    readPending x && envMeets (envNow s u x) (envNow s u r)
      && ((x.phase == .renamed && envMeets (readSpans s u x) (readSpans s u r)) || envMeets (readSpans s u x) (readsAtIssue s u r))

/-- What holds a memory form: an older unretired or still writing store over a read's envelope, an older TFENCE, older loads. -/
def tileMemHeld (s : State) (u : Nat) (r : RobEntry) : Bool :=
  let fe := s.fe u
  let env := envNow s u r
  readsBefore s u r
    || (r.reads && ((fe.older r.id).any (fun x => x.writes && envMeets x.env env) || fe.writing.any fun w => envMeets w.env env))
    || ((r.reads || r.writes) && (fe.older r.id).any fun x => match x.i with | .tfence _ => true | _ => false)

/-- A load carries a chunk condition (R174). -/
def RobEntry.hasChunk (r : RobEntry) : Bool := (tcwReads r.i).2.2.2.2.1 && (Tcw.cbr ⟨r.e.tcw⟩) != 0

/-- The bits that a chunk condition asks for are set, or there is no condition. -/
def chunkHolds (s : State) (u : Nat) (r : RobEntry) : Bool :=
  !r.hasChunk || s.getW (storeBase u + (r.e.cbr.toNat - coreWindow)) &&& r.e.cvr == r.e.cvr

/-- The chunk condition of a load holds, with its acquire (R174). -/
def chunkReady (s : State) (u : Nat) (r : RobEntry) : Bool := !r.hasChunk || (chunkHolds s u r && rdcClean s u)

/-- A unit has room for one more operation. A copy engine is busy with a store until its last line has reached L1 (08 R222). -/
def unitFree (fe : TileFE) (k : TileUnit) : Bool :=
  let n := (fe.rob.filter fun x => x.phase == .issued && tileUnit x.i == k).length
  match k with
  | .engine =>
    let stores := (fe.rob.filter fun x => x.phase == .complete && x.fault.isNone && tileWrites x.i).length
    decide (n + stores + fe.writing.length < 2)
  | .alu => decide (n < 1)
  | .fetch =>
    decide ((fe.rob.filter fun x => tileUnit x.i == .fetch && (x.phase == .issued || x.phase == .started)).length < 2)
  | _ => false

/-- The pin of a TMMAD's box lines. -/
def boxPin (u r : Nat) : Nat := 32 * u + r
def State.pinLines (s : State) (tag : Nat) (lines : List Nat) : State :=
  lines.foldl (fun t l =>
    let t := t.l2Fill l false
    let x := t.dirOf l
    t.l2Set { x with pins := tag :: x.pins.filter fun p => p != tag }) s
def State.unpin (s : State) (tag : Nat) : State :=
  { s with l2 := s.l2.map fun x => { x with pins := x.pins.filter fun p => p != tag } }

/-- Whether one more line of a set may be pinned: at most 8 ways of it (09 R237). -/
def canPin (s : State) (line : Nat) : Bool :=
  ((s.l2Find line).map fun x => x.pins != []).getD false
    || decide (((s.l2Ways line).filter fun x => x.pins != []).length < 8)

/-- TSAVE's source is wide. -/
def wideSource (fe : TileFE) (r : RobEntry) : Bool :=
  match fe.value r.a with
  | some x => x.shape == .wide
  | none => false

/-- The word of a chunk condition lies in the resident handler's area, which slot 0 may not read (09 R226, 11 R278). -/
def chunkHidden (r : RobEntry) : Bool := r.hasChunk && decide (coreWindow + residentBase ≤ r.e.cbr.toNat)

/-- One of a form's pieces is neither in a window nor in L1. -/
def piecesFar (s : State) (u : Nat) (r : RobEntry) (ps : List Piece) : Bool :=
  let hit (p : Piece) (pa : Nat) : Bool :=
    if r.writes then !Tcw.hint ⟨r.e.tcw⟩ && !p.p.bypass && storeHit s u pa else !p.p.bypass && (s.l1Hit u pa).isSome
  ps.any fun p => !p.p.win && !sectorsHit (hit p) p.p.pa p.n

/-- A memory form goes beyond L1 and the windows (09 R241): a TMMAD's box and a convoy's lines do, any other form where one of its
pieces does. -/
def beyondL1 (s : State) (u : Nat) (r : RobEntry) (ps : List Piece) : Bool :=
  match r.i with
  | .tmmad _ | .tldm _ => true
  | _ => piecesFar s u r ps

/-- One of the core's 48 requests is free for an entry. -/
def entryRequest (s : State) (u : Nat) (r : RobEntry) : Bool := requestFree s u (24, r.id) (24, r.id)

/-- The list of a TGATH goes beyond L1 and the windows: reading it takes the form's request (09 R241). -/
def listFar (s : State) (u : Nat) (r : RobEntry) : Bool :=
  match r.i with
  | .tgath _ =>
    match formPieces (s.asHart u 0) r false false with
    | .ok (t, ps) => piecesFar t u r ps
    | .error _ => false
  | _ => false

/-- The rows of a form may be looked up: its chunk condition holds, and a TGATH may read its list. -/
def rowsOpen (s : State) (u : Nat) (r : RobEntry) : Bool := chunkReady s u r && (!listFar s u r || entryRequest s u r)

/-- A memory form whose places have been checked issues with them, once its chunk condition holds and one of the core's 48 requests
is free (R174, 09 R241). -/
def issueMemory (s : State) (u : Nat) (r : RobEntry) : Option State :=
  if !rowsOpen s u r then none
  else
    match formPieces (s.asHart u 0) r (wideSource (s.fe u) r) true with
    | .error (.trap c v) => some ((s.back ((formWalk r (wideSource (s.fe u) r) true).left (s.asHart u 0))).modRob u r.id fun x =>
        { x with fault := some (c, w64 v), phase := .complete })
    | .error _ => none
    | .ok (t, ps) =>
      let far := beyondL1 t u r ps || listFar s u r
      if far && !entryRequest s u r then none
      else
        some ((s.back t).modRob u r.id fun x =>
          { x with phase := .issued, env := envNow s u r, places := ps.map fun p => (p.off, p.p.pa, p.n)
                   spans := ps.map fun p => (p.p.va, p.p.pa, p.n, p.p.bypass), bypass := Tcw.hint ⟨r.e.tcw⟩, request := far })

/-- An entry may try to issue: its unit is free, nothing older holds it, and its sources are written (R42). -/
def mayIssue (s : State) (u : Nat) (r : RobEntry) : Bool :=
  r.phase == .renamed && r.fault.isNone && unitFree (s.fe u) (tileUnit r.i) && !tileMemHeld s u r && (s.fe u).ready r

/-- A form of the copy engines or of the tile fetch unit. -/
def RobEntry.memory (r : RobEntry) : Bool := tileUnit r.i == .engine || tileUnit r.i == .fetch

/-- The outcome of trying to issue an entry: none while it is held. Faults of translation come before those of the chunk
condition (R172). -/
def issueOne (s : State) (u : Nat) (r : RobEntry) : Option State :=
  if !mayIssue s u r then none
  else if r.memory then
    let wide := wideSource (s.fe u) r
    match formPieces (s.asHart u 0) r wide (rowsOpen s u r) with
    | .error (.trap c v) => some ((s.back ((formWalk r wide (rowsOpen s u r)).left (s.asHart u 0))).modRob u r.id fun x =>
        { x with fault := some (c, w64 v), phase := .complete })
    | .error _ => none
    | .ok _ =>
      if chunkHidden r then some (s.modRob u r.id fun x => { x with fault := some (cPermission, r.e.cbr), phase := .complete })
      else issueMemory s u r
  else some (s.modRob u r.id fun x => { x with phase := .issued })

/-- What an entry that is held leaves: the tables that its walk has filled, and its place among those that wait for a request. -/
def heldIssue (s : State) (u : Nat) (r : RobEntry) : State :=
  if mayIssue s u r && r.memory then
    let wide := wideSource (s.fe u) r
    let t := s.back ((formWalk r wide (rowsOpen s u r)).left (s.asHart u 0))
    match formPieces (s.asHart u 0) r wide (rowsOpen s u r) with
    | .ok (q, ps) =>
      if chunkReady s u r && (listFar s u r || beyondL1 q u r ps) && !entryRequest s u r then t.waitTurn u (24, r.id) else t
    | .error _ => t
  else s

/-- TILE_ISSUE (R42): of the ready instructions that want a unit, the oldest issues first. -/
def execTileIssue (u r : Nat) (s : State) : Host.Outcome State Fault Refusal :=
  match (s.fe u).entry r with
  | none => .next s
  | some x =>
    let rivals := ((s.fe u).older r).filter fun y => tileUnit y.i == tileUnit x.i
    if rivals.any fun y => (issueOne s u y).isSome then .next s
    else
      match issueOne s u x with
      | some t => .next t
      | none => .next (heldIssue s u x)

/-! ### Completion (R43, R190, R211) -/

/-- What a completed form leaves in its entry. -/
structure TileDone where
  result : Option Tile
  flags : Flags
  qval : Option Word

def narrowTile (img : Nat) : Tile := { shape := .narrow, h := 0, img := BitVec.ofNat 196608 img, poison := none }
def wideTile (img : Nat) : Tile := { shape := .wide, h := 0, img := BitVec.ofNat 196608 img, poison := none }

/-- The result of a tile ALU form from its sources. -/
def aluForm (s : State) (u : Nat) (r : RobEntry) (a b c : Tile) : TileDone :=
  let t : Tcw := ⟨r.e.tcw⟩
  let ai := a.img.toNat
  let wide := a.shape == .wide
  let done (x : TileRes) : TileDone := { result := some (narrowTile x.1), flags := x.2, qval := none }
  let move (x : Tile) : TileDone := { result := some x, flags := 0, qval := none }
  match r.i with
  | .tmov _ => move (if a.shape = .unmapped then narrowTile 0 else { a with poison := none })
  | .tzero _ => move (if t.wide then wideTile 0 else narrowTile 0)
  | .tfill _ => done (tileFill t r.lfsr)
  | .tadd _ => done (tileArith .add t r.lfsr ai b.img.toNat)
  | .tsub _ => done (tileArith .sub t r.lfsr ai b.img.toNat)
  | .tmul _ => done (tileArith .mul t r.lfsr ai b.img.toNat)
  | .tmax _ => done (tileArith .max t r.lfsr ai b.img.toNat)
  | .tmin _ => done (tileArith .min t r.lfsr ai b.img.toNat)
  | .tscl _ => done (tileScale t r.sigma r.lfsr ai)
  | .ttrn _ => done (tileTranspose t.fa.toNat ai, 0)
  | .tred _ => done (tileReduce t r.lfsr ai)
  | .tredQueue _ =>
    let (v, fl) := tileReduceQueue t r.lfsr ai
    { result := none, flags := fl, qval := some (w64 v) }
  | .tcvt _ => done (tileConvert t wide r.lfsr ai)
  | .tqnt _ => done (tileQuant t wide r.sigma ai c.img.toNat)
  | .tdeq _ => done (tileDequant t (lc2Table s u) r.sigma r.lfsr ai c.img.toNat)
  | _ => { result := none, flags := 0, qval := none }

/-- The result of a matrix form (R201). -/
def matrixForm (s : State) (u : Nat) (r : RobEntry) (a b c acc : Tile) : TileDone :=
  let t : Tcw := ⟨r.e.tcw⟩
  let fa := t.fa.toNat
  let fb := t.fb.toNat
  let table := if fa = 15 then lc2Table s u else []
  let sc := c.img.toNat
  let av := match r.i with
    | .tmmaw _ => haloOperand fa a.img.toNat t.dy.toNat t.dx.toNat
    | _ => matOperand fa table a.img.toNat sc 0
  let bi := match r.i with
    | .tmmad _ => (r.box.getD 0).toNat
    | _ => b.img.toNat
  let (img, fl) := matResult fa fb r.sigma r.skip av (matOperand fb table bi sc 64) acc.img.toNat
  { result := some (wideTile img), flags := fl, qval := none }

/-- Complete an entry with a fault. -/
def faultEntry (s : State) (u r c : Nat) (v : Word) : State :=
  s.modRob u r fun x => { x with fault := some (c, v), phase := .complete }

/-- Complete an entry with its result. -/
def finishEntry (s : State) (u r : Nat) (d : TileDone) : State :=
  s.modRob u r fun x => { x with result := d.result, flags := d.flags, qval := d.qval, phase := .complete }

/-- A delivering form completes when its entry is written; until then its value is held (R124, R190). -/
def deliverEntry (s : State) (u r : Nat) (v : Word) (fl : Flags) : State :=
  let h := s.hart u 0
  match h.portQueue portTile with
  | some n =>
    if (h.queue n).length < 8 then
      (s.modHart u 0 fun h => { h.setQueue n (h.queue n ++ [v]) with woken := h.woken || h.park == 4 }).modRob u r fun x =>
        { x with qval := none, flags := fl, phase := .complete }
    else s.modRob u r fun x => { x with qval := some v, flags := fl }
  | none => s.modRob u r fun x => { x with qval := some v, flags := fl }

/-- The first poisoned operand in the order A, B, C, accumulator. -/
def poisonedOperand (a b c acc : Tile) : Option Word :=
  (poisonField a 1).orElse fun _ => (poisonField b 2).orElse fun _ => (poisonField c 3).orElse fun _ => poisonField acc 4

/-- The bytes of an image's pieces, in row order. -/
def pieceBytes (img : Nat) (ps : List (Nat × Nat × Nat)) : List (Nat × Byte) :=
  ps.flatMap fun p => (upTo p.2.2).map fun i => (p.2.1 + i, byteOf (img / 2 ^ (8 * p.1)) i)

/-- The image of a load. -/
def loadImage (i : Instr) (t : Tcw) (img : Nat) : Tile :=
  match i with
  | .tldh _ => { shape := .halo, h := t.halo.toNat, img := BitVec.ofNat 196608 img, poison := none }
  | .trest _ => if t.wide then wideTile img else narrowTile img
  | _ => narrowTile img

/-- The places that an entry found at issue, as they are served now: no other translation of them follows (15 R350, R353), and a
line that a running move has copied is at its new home (15 R363). -/
def heldPieces (s : State) (r : RobEntry) : List Piece :=
  (r.places.zip r.spans).map fun (p, q) =>
    { off := p.1, n := p.2.2,
      p := { va := q.1, pa := if 2 ^ 52 ≤ p.2.1 then p.2.1 else redirectPa s p.2.1, win := decide (2 ^ 52 ≤ p.2.1), dev := false,
             bypass := q.2.2.2, vbase := 0 } }

/-- A line that a VSTPAIR holds is among an entry's (17 R410); the lines of a box arrive apart. -/
def linesLocked (s : State) (r : RobEntry) : Bool :=
  tileUnit r.i != .fetch && (heldPieces s r).any fun p => !p.p.win && pairLocked s (lineOf p.p.pa)

/-- An entry's accesses must wait: for a line that a VSTPAIR holds, or for an older load of the same bytes (10 R252). -/
def piecesWait (s : State) (u : Nat) (r : RobEntry) : Bool :=
  linesLocked s r
    || (r.reads && ((s.fe u).older r.id).any fun x =>
      readPending x && envMeets (envNow s u x) r.env && envMeets (readSpans s u x) (readSpans s u r))

/-- A row of a box is here. -/
def RobEntry.hasRow (r : RobEntry) (p : Piece) : Bool := r.arrived.any fun a => a.1 == p.off

/-- A row of a box arrives: its line is pinned and read at its home slice, past L1 and the RDC, which its reply leaves without older
copies (10 R259). It waits for a line that a VSTPAIR holds, and for a ninth way of a set (09 R237). -/
def fetchRow (u : Nat) (st : State × RobEntry) (p : Piece) : State × RobEntry :=
  let (s, r) := st
  let line := lineOf p.p.pa
  if r.hasRow p || pairLocked s line || !canPin s line then st
  else
    let (t, v) := ((s.pinLines (boxPin u r.id) [line]).applyInvals (unitDie u)).homeLoad p.p.pa p.n
    (t.modHart u 0 fun h => h.hasRead p.p.pa p.n,
     { r with boxPart := r.boxPart ||| BitVec.ofNat 65536 (v * 2 ^ (8 * p.off)),
              arrived := r.arrived ++ [(p.off, (t.poisonIn p.p.pa p.n).isSome)] })

/-- The rows of a box that can arrive do; with the last the box is complete, and a poisoned line is a fault (07 R202, R211). -/
def fetchBox (s : State) (u : Nat) (r : RobEntry) (ps : List Piece) : State :=
  let (t, x) := ps.foldl (fetchRow u) (s, r)
  if ps.all x.hasRow then
    match ps.find? fun p => x.arrived.contains (p.off, true) with
    | some p => faultEntry (t.unpin (boxPin u r.id)) u r.id cPoison (w64 (p.p.va / 256 * 256))
    | none => t.modRob u r.id fun y => { y with boxPart := x.boxPart, arrived := x.arrived, box := some x.boxPart }
  else t.modRob u r.id fun y => { y with boxPart := x.boxPart, arrived := x.arrived }

/-- The lowest line of a box that has not arrived. -/
def lateLine (s : State) (r : RobEntry) : Nat :=
  match ((heldPieces s r).filter fun p => !r.hasRow p).map fun p => p.p.va / 256 * 256 with
  | [] => 0
  | l :: ls => ls.foldl min l

/-- Completion of a copy-engine form or of a TMMAD's box. A load that hit L1 at its issue and misses now waits for a request. -/
def completeMemory (s : State) (u : Nat) (r : RobEntry) : State :=
  let t : Tcw := ⟨r.e.tcw⟩
  if piecesWait s u r then s
  else
    match r.i with
    | .tst _ | .tsave _ => s.modRob u r.id fun x => { x with result := some (((s.fe u).value r.a).getD Tile.reset), phase := .complete }
    | .tldm _ => if r.joined && r.await == [] then s.modRob u r.id fun x => { x with phase := .complete } else s
    | .tmmad _ => if r.box.isSome then s else fetchBox s u r (heldPieces s r)
    | _ =>
      if !r.request && piecesFar s u r (heldPieces s r) && !entryRequest s u r then s.waitTurn u (24, r.id)
      else
      match readPieces (s.asHart u 0) (!t.hint) (heldPieces s r) with
      | .error (.trap c v) => faultEntry s u r.id c (w64 v)
      | .error _ => s
      | .ok (q, img) => finishEntry (s.back q) u r.id { result := some (loadImage r.i t img), flags := 0, qval := none }

/-- An array ends the issue cycles of an instruction that is discarded or faults. -/
def endArray (s : State) (u r : Nat) : State :=
  s.modQuad (quadOf u) fun q =>
    { q with arrays := q.arrays.map fun p => (p.1, if p.2.running = some (u, r) then { p.2 with running := none, issue := 0 } else p.2) }

/-- Whether an array still spends the issue cycles of an entry (07 R203). -/
def issuing (s : State) (u r : Nat) : Bool := (s.quad (quadOf u)).arrays.any fun p => p.2.running == some (u, r)

/-- TILE_COMPLETE. -/
def execTileComplete (u r : Nat) (s : State) : Host.Outcome State Fault Refusal :=
  let fe := s.fe u
  match fe.entry r with
  | none => .next s
  | some x =>
    if x.fault.isSome then .next s
    else
      match x.phase, tileUnit x.i with
      | .renamed, .none =>
        match x.i, x.qval with
        | .tfence _, _ => .next (if (fe.older r).isEmpty && fe.writing.isEmpty then s.modRob u r fun y => { y with phase := .complete } else s)
        | .skget _, some v => .next (if (fe.older r).all (fun y => y.qval.isNone) then deliverEntry s u r v 0 else s)
        | _, _ => .next s
      | .issued, .engine => .next (completeMemory s u x)
      | .issued, .fetch => .next (completeMemory s u x)
      | .issued, .alu =>
        match fe.value x.a, fe.value x.b, fe.value x.c with
        | some a, some b, some c =>
          match poisonedOperand a b c Tile.reset with
          | some v => .next (faultEntry s u r cPoison v)
          | none =>
            let d := aluForm s u x a b c
            match d.qval with
            | some v => .next (if (fe.older r).all (fun y => y.qval.isNone) then deliverEntry s u r v d.flags else s)
            | none => .next (finishEntry s u r d)
        | _, _, _ => .next s
      | .started, _ =>
        if issuing s u r then .next s
        else
        match fe.value x.a, fe.value x.b, fe.value x.c, fe.value x.acc with
        | some a, some b, some c, some acc =>
          let s := s.unpin (boxPin u r)
          match poisonedOperand a b c acc with
          | some v => .next (faultEntry s u r cPoison v)
          | none => .next (finishEntry s u r (matrixForm s u x a b c acc))
        | _, _, _, _ => .next s
      | _, _ => .next s

/-! ### Retirement (R43, R180) -/

/-- Sources that named a retired entry find its result. -/
def Src.retired (r : Nat) (t : Tile) (x : Src) : Src := if x = .rob r then .arch t else x

/-- The earlier tile stores of a unit become accesses of slot 0, whose releases cover them from here on (10 R264). -/
def State.fencedTile (s : State) (u : Nat) : State :=
  s.modUnit u fun x => { x with wt := x.wt.map fun w => if w.slot = 8 then { w with slot := 0 } else w }

/-- TILE_RETIRE: the head retires when it is complete and faultless, and is counted in slot 0's `instret`. -/
def execTileRetire (u : Nat) (s : State) : Host.Outcome State Fault Refusal :=
  let fe := s.fe u
  match fe.rob with
  | [] => .next s
  | r :: rest =>
    if r.phase != .complete || r.fault.isSome then .next s
    else
      let res := r.result.getD Tile.reset
      let sub := Src.retired r.id res
      let rest := rest.map fun x => { x with a := sub x.a, b := sub x.b, c := sub x.c, acc := sub x.acc }
      let fe1 := { fe with rob := rest, eRet := r.eAfter, skRet := r.skAfter }
      let fe2 := match r.dest with
        | some d => { fe1 with tiles := fset fe1.tiles d res, free := fe1.free + slotsOf (fget fe.tiles d Tile.reset).shape }
        | none => fe1
      let fe3 :=
        if r.writes then
          { fe2 with writing := fe2.writing ++
              [{ env := r.env, bytes := pieceBytes res.img.toNat r.places, spans := r.spans, poisoned := res.poison.isSome, bypass := r.bypass,
                 request := r.request, step := r.e.step }] }
        else fe2
      let t := ((s.modFe u fun _ => fe3).flag u 0 r.flags).modHart u 0 fun h => { h with instret := h.instret + 1 }
      let t := match r.i with
        | .tfence _ => t.fencedTile u
        | _ => t
      .next (wakePark t u 11)

/-- Consecutive bytes of a list of cells joined into runs inside one sector. -/
def runsOf : List (Nat × Byte) → List (Nat × Nat × Nat)
  | [] => []
  | (a, b) :: t =>
    match runsOf t with
    | (c, n, v) :: rest => if c = a + 1 ∧ c % 128 ≠ 0 then (a, n + 1, b.toNat + 256 * v) :: rest else (a, 1, b.toNat) :: (c, n, v) :: rest
    | [] => [(a, 1, b.toNat)]

/-- Flits of a run, poisoned. -/
def poisonRuns (s : State) (rs : List (Nat × Nat × Nat)) : State :=
  rs.foldl (fun t p => (t.addPoison (p.1 / 64)).addPoison ((p.1 + p.2.1 - 1) / 64)) s

/-- The piece of a store that holds a physical address: its virtual address there, and PERM N. -/
def spanOf (spans : List (Nat × Nat × Nat × Bool)) (pa : Nat) : Nat × Bool :=
  match spans.find? fun p => decide (p.2.1 ≤ pa) && decide (pa < p.2.1 + p.2.2.1) with
  | some p => (p.1 + (pa - p.2.1), p.2.2.2)
  | none => (0, false)

/-- The bytes of a retired store where they lie now: those that a running move has copied go to the new home (15 R363). -/
def movedRuns (s : State) (w : WritingStore) : List (Nat × Nat × Nat × Nat × Bool) :=
  (runsOf w.bytes).map fun p =>
    let (va, nc) := spanOf w.spans p.1
    (va, if 2 ^ 52 ≤ p.1 then p.1 else redirectPa s p.1, p.2.1, p.2.2, nc)

/-- Under MMREV 1 a tile store waits until the earlier stores of the tile stream and slot 0 have performed (10 R268). -/
def tileMayWrite (s : State) (u : Nat) : Bool :=
  (s.unit u).mmrev != 1
    || ((s.unit u).wt.all (fun w => w.slot != 8 && w.slot != 0) && (s.die 0).inval == [] && (s.die 1).inval == [])

/-- A tile store has written a line: elements of it that slot 0's streams have fetched ahead are fetched again. Whether it is a store
of the same slot for 04 R117 the spec leaves open; fetched again they are right either way (DESIGN CHOICE, log entry 30). -/
def tileWrote (s : State) (u line : Nat) : State := s.modHart u 0 fun h => { h with sg := h.sg.map fun p => (p.1, p.2.upTo line) }

/-- The oldest retired store finds the lines that it writes in L1, or has a request, or one is free for it (09 R241). -/
def writeMayGo (s : State) (u : Nat) (w : WritingStore) (runs : List (Nat × Nat × Nat × Nat × Bool)) : Bool :=
  w.request || requestFree s u (25, 0) (25, 0)
    || runs.all fun p => decide (2 ^ 52 ≤ p.2.1) || (!w.bypass && !p.2.2.2.2 && sectorsHit (storeHit s u) p.2.1 p.2.2.1)

/-- TILE_STORE_WRITTEN (R41, R43): the oldest retired store has written its lines, none of which a VSTPAIR holds (17 R410). A byte
that two rows write ends with the higher row's; a poisoned source writes poisoned lines. HINT stores bypass L1. -/
def execTileStoreWritten (u : Nat) (s : State) : Host.Outcome State Fault Refusal :=
  match (s.fe u).writing with
  | [] => .next s
  | w :: rest =>
    let runs := movedRuns s w
    if !tileMayWrite s u || runs.any (fun p => decide (p.2.1 < 2 ^ 52) && pairLocked s (lineOf p.2.1)) then .next s
    else if !writeMayGo s u w runs then .next (s.waitTurn u (25, 0))
    else
      let t := runs.foldl (fun t p =>
        tileWrote (if 2 ^ 52 ≤ p.2.1 then ((t.put p.2.1 p.2.2.1 p.2.2.2.1).clearPoison p.2.1 p.2.2.1).wrote noHart (lineOf p.2.1)
        else
          t.writeSpan u { slot := 8, va := p.1, pa := p.2.1, n := p.2.2.1, step := w.step, tag := (w.env.headD (0, 0)).1 } p.2.2.2.1
            w.bypass p.2.2.2.2) u (lineOf p.2.1)) s
      let t := if w.poisoned then poisonRuns t (runs.map fun p => (p.2.1, p.2.2.1, p.2.2.2.1)) else t
      .next (wakePark (t.modFe u fun fe => { fe with writing := rest }) u 11)

/-! ### Precise faults (R46 to R48, R195) -/

/-- Discard entries from a point on, restoring what retired; their words form the replay list. -/
def discardFrom (s : State) (u : Nat) (gone : List RobEntry) : State :=
  let s1 := gone.foldl (fun t r => (endArray t u r.id).unpin (boxPin u r.id)) s
  s1.modFe u fun fe =>
    let keep := fe.rob.filter fun x => gone.all fun g => g.id != x.id
    let last := keep.getLast?
    { fe with
      rob := keep
      replay := gone.map (fun g => g.e) ++ fe.replay ++ fe.inq
      inq := []
      free := fe.free + (gone.map fun g => g.slots).sum
      e := (last.map fun r => r.eAfter).getD fe.eRet
      sk := (last.map fun r => r.skAfter).getD fe.skRet }

/-- Report a tile fault through slot 0. -/
def reportTile (s : State) (u c : Nat) (v : Word) (rob : Nat) : State :=
  let e := (s.fe u).replay.headD { tcw := 0, addr := 0, base := 0, stride := 0, aux := 0, aux2 := 0, cbr := 0, cvr := 0, step := 0 }
  mgmtTrap s u 0 c v (s.hart u 0).pc (e.tcw.toNat % 2 ^ 32) { tile := true, rob := rob, taddr := e.addr }

/-- Whether slot 0 stands between two scalar instructions and on no trap of its own. A BARW that has arrived and waits (PARK
3 with AWAIT bit 5) is not over: a tile fault comes after it (R17, R47). -/
def slot0Free (s : State) (u : Nat) : Bool :=
  let h := s.hart u 0
  h.active && h.pipe == .idle && !((h.park == 3 && h.await.getLsbD 5) || h.park == 7 || h.park == 9 || h.park == 10)

/-- TILE_FAULT: the fault of the head is taken; while the core drains for PREEMPT it is recorded, and reported when the
context resumes. The entry number of a recorded fault is not kept, and its record shows entry 0 (log entry 44). -/
def execTileFault (u : Nat) (s : State) : Host.Outcome State Fault Refusal :=
  let fe := s.fe u
  let x := s.unit u
  match fe.recorded with
  | some (c, v) =>
    if !x.stopped && !(s.hart u 0).restored && slot0Free s u then .next (reportTile (s.modFe u fun f => { f with recorded := none }) u c v 0)
    else .next s
  | none =>
    match fe.rob with
    | [] => .next s
    | r :: _ =>
      match r.fault with
      | none => .next s
      | some (c, v) =>
        if x.stopped then
          .next ((discardFrom s u fe.rob).modFe u fun f => { f with recorded := some (c, v) })
        else if slot0Free s u then .next (reportTile (discardFrom s u fe.rob) u c v r.id)
        else .next s

/-- A value for port TILE finds no place: no queue is bound to it, or its queue is full. -/
def tileBlocked (s : State) (u : Nat) : Bool :=
  match (s.hart u 0).portQueue portTile with
  | some n => decide (8 ≤ ((s.hart u 0).queue n).length)
  | none => true

/-- Whether an entry cannot complete without an outside event (R195). -/
def waitsOutside (s : State) (u : Nat) (r : RobEntry) : Bool :=
  let fe := s.fe u
  (r.fault.isNone && r.phase == .renamed && (r.reads || r.writes) && !tileMemHeld s u r
    && (!chunkReady s u r
        || (fe.ready r && match formPieces (s.asHart u 0) r (wideSource fe r) (rowsOpen s u r) with | .error (.hold _) => true | _ => false)))
  || (match r.i with
      | .tldm _ => r.phase == .issued && !(r.joined && r.await == [])
      | _ => false)
  || (r.qval.isSome && r.phase != .complete && tileBlocked s u)

/-- The drain of the tile stream has ended: it is empty, or its head waits on an outside event. A stream drained before in the
same run, or restored in it, renames nothing until the run ends. -/
def streamStill (s : State) (u : Nat) : Bool :=
  let fe := s.fe u
  fe.writing.isEmpty &&
    match fe.rob with
    | [] => (fe.inq.isEmpty && fe.replay.isEmpty) || fe.recorded.isSome || tileFaulted s u || (s.unit u).drained || (s.hart u 0).restored
    | r :: _ => waitsOutside s u r

/-- The end of a drain (R195): whatever is left goes to the replay list. -/
def endDrain (s : State) (u : Nat) : State := if (s.fe u).rob.isEmpty then s else discardFrom s u (s.fe u).rob

/-- A load that could issue but for its chunk condition (R174). -/
def chunkLate (s : State) (u : Nat) (r : RobEntry) : Bool :=
  r.phase == .renamed && r.fault.isNone && !chunkHolds s u r && !chunkHidden r && !tileMemHeld s u r
    && unitFree (s.fe u) (tileUnit r.i)
    && match formPieces (s.asHart u 0) r (wideSource (s.fe u) r) false with
       | .ok _ => true
       | .error _ => false

/-- CHUNK_CONDITION_TIMEOUT (R174): a chunk condition that did not hold in time, of a load that waits for nothing else. -/
def execChunkConditionTimeout (u r : Nat) (s : State) : Host.Outcome State Fault Refusal :=
  match (s.fe u).entry r with
  | some x => if chunkLate s u x then .next (faultEntry s u r cFetchNotArrived x.e.cbr) else .next s
  | none => .next s

/-- TMMAD_BOX_TIMEOUT (R212): a box that did not arrive in time; its lowest line not yet arrived is reported. -/
def execTmmadBoxTimeout (u r : Nat) (s : State) : Host.Outcome State Fault Refusal :=
  match (s.fe u).entry r with
  | some x =>
    if tileUnit x.i = .fetch && x.phase = .issued && x.box.isNone then
      .next (faultEntry (s.unpin (boxPin u r)) u r cLeaseOverrun (w64 (lateLine s x)))
    else .next s
  | none => .next s

/-! ### The forms: each captures its operands into the input queue -/

/-- TLD: TLD loads a strided box into a narrow tile. (R176) -/
def execTld (t : Tcw) (s : State) : Host.Outcome State Fault Refusal := tcwIssue (.tld t) t s

/-- TST: TST stores a narrow tile to a box after retirement. (R180) -/
def execTst (t : Tcw) (s : State) : Host.Outcome State Fault Refusal := tcwIssue (.tst t) t s

/-- TLDH: TLDH loads a halo tile. (R177) -/
def execTldh (t : Tcw) (s : State) : Host.Outcome State Fault Refusal := tcwIssue (.tldh t) t s

/-- TLDM: TLDM loads a tile by joining a convoy. (R178) -/
def execTldm (t : Tcw) (s : State) : Host.Outcome State Fault Refusal := tcwIssue (.tldm t) t s

/-- TGATH: TGATH loads rows at listed offsets. (R179) -/
def execTgath (t : Tcw) (s : State) : Host.Outcome State Fault Refusal := tcwIssue (.tgath t) t s

/-- TSAVE: TSAVE writes a tile's raw image. (R181) -/
def execTsave (t : Tcw) (s : State) : Host.Outcome State Fault Refusal := tcwIssue (.tsave t) t s

/-- TREST: TREST reads a raw narrow or wide tile image. (R182) -/
def execTrest (t : Tcw) (s : State) : Host.Outcome State Fault Refusal := tcwIssue (.trest t) t s

/-- TMOV: TMOV copies a tile of any shape. (R183) -/
def execTmov (t : Tcw) (s : State) : Host.Outcome State Fault Refusal := tcwIssue (.tmov t) t s

/-- TZERO: TZERO writes a zero narrow or wide tile. (R184) -/
def execTzero (t : Tcw) (s : State) : Host.Outcome State Fault Refusal := tcwIssue (.tzero t) t s

/-- TFILL: TFILL fills a tile with one encoded element. (R185) -/
def execTfill (t : Tcw) (s : State) : Host.Outcome State Fault Refusal := tcwIssue (.tfill t) t s

/-- TADD: TADD adds two tiles elementwise. (R186) -/
def execTadd (t : Tcw) (s : State) : Host.Outcome State Fault Refusal := tcwIssue (.tadd t) t s

/-- TSUB: TSUB subtracts two tiles elementwise. (R186) -/
def execTsub (t : Tcw) (s : State) : Host.Outcome State Fault Refusal := tcwIssue (.tsub t) t s

/-- TMUL: TMUL multiplies two tiles elementwise. (R186) -/
def execTmul (t : Tcw) (s : State) : Host.Outcome State Fault Refusal := tcwIssue (.tmul t) t s

/-- TMAX: TMAX takes the elementwise maximum. (R186) -/
def execTmax (t : Tcw) (s : State) : Host.Outcome State Fault Refusal := tcwIssue (.tmax t) t s

/-- TMIN: TMIN takes the elementwise minimum. (R186) -/
def execTmin (t : Tcw) (s : State) : Host.Outcome State Fault Refusal := tcwIssue (.tmin t) t s

/-- TSCL: TSCL scales a tile by an E register. (R187) -/
def execTscl (t : Tcw) (s : State) : Host.Outcome State Fault Refusal := tcwIssue (.tscl t) t s

/-- TTRN: TTRN transposes 64 by 64 blocks. (R188) -/
def execTtrn (t : Tcw) (s : State) : Host.Outcome State Fault Refusal := tcwIssue (.ttrn t) t s

/-- TRED: TRED reduces rows or columns into a tile. (R189) -/
def execTred (t : Tcw) (s : State) : Host.Outcome State Fault Refusal := tcwIssue (.tred t) t s

/-- TRED_QUEUE: TRED with QEN reduces a whole tile to one value delivered to port TILE. (R190) -/
def execTredQueue (t : Tcw) (s : State) : Host.Outcome State Fault Refusal := tcwIssue (.tredQueue t) t s

/-- TCVT: TCVT converts a narrow or wide tile into a narrow format. (R191) -/
def execTcvt (t : Tcw) (s : State) : Host.Outcome State Fault Refusal := tcwIssue (.tcvt t) t s

/-- TQNT: TQNT quantises a tile into block-scaled elements or scales. (R192) -/
def execTqnt (t : Tcw) (s : State) : Host.Outcome State Fault Refusal := tcwIssue (.tqnt t) t s

/-- TDEQ: TDEQ expands a block-scaled or LC2 tile. (R193) -/
def execTdeq (t : Tcw) (s : State) : Host.Outcome State Fault Refusal := tcwIssue (.tdeq t) t s

/-- TFENCE: TFENCE retires when older tile work has retired and written, and holds later memory accesses of slot 0 until then. (R194) -/
def execTfence (t : Tcw) (s : State) : Host.Outcome State Fault Refusal := tcwIssue (.tfence t) t s

/-- TMMA: TMMA accumulates A times B-transpose into a wide tile. (R206) -/
def execTmma (t : Tcw) (s : State) : Host.Outcome State Fault Refusal := tcwIssue (.tmma t) t s

/-- TMMAS: TMMAS is TMMA with groups skipped by the SK streams. (R209) -/
def execTmmas (t : Tcw) (s : State) : Host.Outcome State Fault Refusal := tcwIssue (.tmmas t) t s

/-- TMMAW: TMMAW reads its A operand through a window of a halo tile. (R210) -/
def execTmmaw (t : Tcw) (s : State) : Host.Outcome State Fault Refusal := tcwIssue (.tmmaw t) t s

/-- TMMAD: TMMAD reads its B operand from memory through the tile fetch unit. (R211) -/
def execTmmad (t : Tcw) (s : State) : Host.Outcome State Fault Refusal := tcwIssue (.tmmad t) t s

/-- ESET: ESET writes an E register from an x-register at rename. (R213) -/
def execEset (t : Tcw) (s : State) : Host.Outcome State Fault Refusal := tcwIssue (.eset t) t s

/-- ESET_IMM: ESET writes an E register from the immediate at rename. (R213) -/
def execEsetImm (t : Tcw) (s : State) : Host.Outcome State Fault Refusal := tcwIssue (.esetImm t) t s

/-- SKSET: SKSET writes a skip-stream register at rename. (R214) -/
def execSkset (t : Tcw) (s : State) : Host.Outcome State Fault Refusal := tcwIssue (.skset t) t s

/-- SKGET: SKGET delivers a skip-stream register's value to port TILE. (R214) -/
def execSkget (t : Tcw) (s : State) : Host.Outcome State Fault Refusal := tcwIssue (.skget t) t s

end Sys2Proof.Machine
end

