-- ==== Sys2Proof/Machine/Matrix.lean ====
section
/-! DEFINITION. Leases of the matrix arrays, starts of matrix instructions, the slew limiter and the fetch duty (07
R203 to R220). -/

namespace Sys2Proof.Machine

open Sys2Proof

/-! ### Arrays and readiness (R203, R205) -/

def Quad.array (q : Quad) (a : Nat) : MArray := fget q.arrays a MArray.reset
def State.modArray (s : State) (q a : Nat) (f : MArray → MArray) : State :=
  s.modQuad q fun x => { x with arrays := fset x.arrays a (f (x.array a)) }

/-- The older, still incomplete matrix instruction on which an entry chains: its array, when it has started. -/
def chainOn (fe : TileFE) (r : RobEntry) : Option (RobEntry × Option Nat) :=
  match r.acc with
  | .rob k =>
    match fe.entry k with
    | some e => if tileUnit e.i == .array || tileUnit e.i == .fetch then (if e.phase = .complete then none else some (e, e.array)) else none
    | none => none
  | _ => none

/-- An entry's phase lets it start: renamed, or its TMMAD box is here. -/
def startPhase (r : RobEntry) : Bool :=
  r.fault.isNone &&
    (match tileUnit r.i with
     | .array => r.phase == .renamed
     | .fetch => r.phase == .issued && r.box.isSome
     | _ => false)

/-- Ready by its own sources, the accumulator's chain apart. -/
def matReady (fe : TileFE) (r : RobEntry) : Bool :=
  startPhase r && (fe.value r.a).isSome && (fe.value r.b).isSome && (fe.value r.c).isSome && (fe.value r.acc).isSome

/-- Ready to chain on array a: its accumulator is the destination of an older, incomplete instruction that started there under the
lease in force or one that it renews (R205, R215.6). -/
def chainReady (s : State) (u : Nat) (r : RobEntry) (a : Nat) : Bool :=
  let fe := s.fe u
  startPhase r && (fe.value r.a).isSome && (fe.value r.b).isSome && (fe.value r.c).isSome
    && (match chainOn fe r with
        | some (e, some b) => b == a && e.phase == .started && ((s.quad (quadOf u)).array a).started.contains (u, e.id)
        | _ => false)

/-- The issue cycles of a matrix instruction (Table 7.1, R208). -/
def issueCycles (r : RobEntry) : Nat :=
  let n := (matGroup (Tcw.fa ⟨r.e.tcw⟩).toNat).2
  match r.i with
  | .tmmas _ => max 1 (4 * (n - popcount n (r.skip.toNat % 2 ^ n)))
  | _ => 4 * n

/-- The cores of a quad, and whether a core waits for an array (R215.1): it has a ready matrix instruction, and no
array on which it holds a lease is outside the issue cycles of another instruction. -/
def quadCores (q : Nat) : List Nat := (upTo 4).map fun k => 4 * q + k
def waitsArray (s : State) (u : Nat) : Bool :=
  let q := s.quad (quadOf u)
  let fe := s.fe u
  fe.rob.any (matReady fe)
    && (upTo 2).all fun a => (q.array a).holder != some (u % 4) || (q.array a).running.isSome
/-- The cores of a quad that wait, by their numbers in it. -/
def waiters (s : State) (q : Nat) : List Nat := (upTo 4).filter fun k => waitsArray s (4 * q + k)

/-- Under a lease with starts left: the array's holder may start on it, the array being outside issue cycles. -/
def MArray.usable (m : MArray) (k : Nat) : Bool := m.holder == some k && m.left != 0 && m.cyc != 0 && m.running.isNone

/-- Whether an entry may start on array a but for the slew limiter: it is ready for that array, and no older instruction of
its core is; of two free arrays the first is used first (R203, R205). -/
def startable (s : State) (u a : Nat) (r : RobEntry) : Bool :=
  let q := s.quad (quadOf u)
  let fe := s.fe u
  decide (a < 2) && (q.array a).usable (u % 4)
    && !((fe.older r.id).any fun x => matReady fe x || chainReady s u x a)
    && (chainReady s u r a || (matReady fe r && !(a == 1 && (q.array 0).usable (u % 4))))

/-- A grant of an array to a core (R215.2). -/
def grantTo (m : MArray) (k : Nat) : MArray :=
  { m with holder := some k, left := 8, cyc := 256, extended := false, prev := k }

/-- Whether the holder's context is being or has been switched out: its stream has been drained for a PREEMPT run. -/
def switchedOut (s : State) (u : Nat) : Bool := (s.unit u).drained && (s.fe u).rob.isEmpty

/-! ### The slew limiter (R217 to R219) -/

/-- The cluster's number for array a of quad q, and back. -/
def arrayNo (q a : Nat) : Nat := 2 * (q % 4) + a
def clusterOfQuad (q : Nat) : Nat := q / 4
def State.slewArray (s : State) (c n : Nat) : MArray := (s.quad (4 * c + n / 2)).array (n % 2)

/-- Arrays of a cluster in issue cycles, and those that run fillers. -/
def arraysRunning (s : State) (c : Nat) : List Nat := (upTo 8).filter fun n => (s.slewArray c n).running.isSome
def arraysFilling (s : State) (c : Nat) : List Nat := (upTo 8).filter fun n => (s.slewArray c n).filler

/-- Whether an array's holder has an instruction that could start on it now. -/
def wantsStart (s : State) (c n : Nat) : Bool :=
  let q := 4 * c + n / 2
  match (s.slewArray c n).holder with
  | some k => (s.fe (4 * q + k)).rob.any (startable s (4 * q + k) (n % 2))
  | none => false

/-- Whether a start on array n follows the issue cycles that have just ended there: under the lease in force, or one that is renewed at
once for want of starts or cycles (R215.6), by an instruction that chains there, or by a ready one, array 0 of the quad taking the oldest
of them where it may. -/
def followsOn (s : State) (c n : Nat) : Bool :=
  let q := 4 * c + n / 2
  let a := n % 2
  let m := s.slewArray c n
  match m.holder with
  | none => false
  | some k =>
    let u := 4 * q + k
    let fe := s.fe u
    let renewed := (m.left == 0 || m.cyc == 0) && waiters (s.modArray q a fun x => { x with holder := none }) q == [k] && !switchedOut s u
    let taken := if a = 1 ∧ ((s.quad q).array 0).usable k then 1 else 0
    m.running.isNone && ((m.left != 0 && m.cyc != 0) || renewed)
      && (fe.rob.any (fun r => chainReady s u r a) || decide (taken < (fe.rob.filter (matReady fe)).length))

/-- cap(s): the smallest rung above the count of the step before, or 8. -/
def slewCap (k : Cluster) : Nat :=
  let n := k.active.length
  (([k.rung0, k.rung1, k.rung2, k.rung3].map BitVec.toNat).find? fun r => decide (n < r)).getD 8

/-- The arrays that run fillers in a step: those active before, lowest first, until the floor is met. -/
def slewFillers (before running : List Nat) (floor : Nat) : List Nat :=
  (before.filter fun n => !running.contains n).take (floor - running.length)
def slewFloor (k : Cluster) : Nat := k.active.length - k.drop.toNat

/-- The active arrays once those in issue cycles and further ones are in issue cycles. -/
def slewCount (k : Cluster) (running more : List Nat) : Nat :=
  let on := (running ++ more).dedup
  on.length + (slewFillers k.active on (slewFloor k)).length

/-- Whether the ceiling lets array n start now. An array in issue cycles or in a filler always may, and so may one that was active when
the step began and whose next start follows its last issue cycle (followsOn): those stand among the starts that the boundary granted.
Another may as long as the count stays at the cap with the starts that come before it, those granted and those of lower arrays; one
that was held before this step only if the boundary granted it. -/
def slewAllows (s : State) (c n : Nat) : Bool :=
  let k := s.cluster c
  let run := arraysRunning s c
  if run.contains n || k.granted.contains n || (arraysFilling s c).contains n then true
  else if k.heldStarts.contains n || k.heldNew.contains n then false
  else
    let first := (upTo 8).filter fun m => decide (m < n) && !k.heldStarts.contains m && !k.heldNew.contains m && wantsStart s c m
    decide (slewCount k run (n :: k.granted ++ first) ≤ slewCap k)

/-- The fillers of a cluster as its arrays in issue cycles ask for them. -/
def State.refill (s : State) (c : Nat) : State :=
  let k := s.cluster c
  let fill := slewFillers k.active (arraysRunning s c) (slewFloor k)
  (upTo 8).foldl (fun t n =>
    if (t.slewArray c n).filler = fill.contains n then t
    else t.modArray (4 * c + n / 2) (n % 2) fun m => { m with filler := fill.contains n }) s

/-- Four cycles of an array: its lease's CYC falls, and so do the issue cycles that are left (R203, R215.3). -/
def MArray.fourCycles (m : MArray) : MArray :=
  { m with cyc := if m.holder.isSome then m.cyc - 4 else m.cyc, issue := m.issue - 4, running := if m.issue ≤ 4 then none else m.running }

/-- The held starts that the boundary grants: in order, while the cap has room. -/
def slewGrants (k : Cluster) (running : List Nat) (held : List Nat) : List Nat :=
  held.foldl (fun g n => if slewCount k running (n :: g) ≤ slewCap k then g ++ [n] else g) []

/-- SLEW_STEP (R217, R219): a step of 4 cycles ends and the next begins. The active arrays are counted, a write of SLEWCTL
takes effect, and beside the arrays still active that go on at once the starts held back are granted up to the cap, those of earlier steps
first and those that one step held back by the number of their array (log entry 45); then the fillers of the step are chosen. -/
def execSlewStep (c : Nat) (s : State) : Host.Outcome State Fault Refusal :=
  let k := s.cluster c
  let act := (upTo 8).filter fun n => (s.slewArray c n).running.isSome || (s.slewArray c n).filler
  let s1 := (upTo 8).foldl (fun t n =>
    let m := t.slewArray c n
    if m.fourCycles = m then t else t.modArray (4 * c + n / 2) (n % 2) fun _ => m.fourCycles) s
  let k1 : Cluster :=
    match k.slewNext with
    | some v => { k with active := act, slewNext := none, drop := v.extractLsb' 16 4, rung3 := v.extractLsb' 12 4,
                         rung2 := v.extractLsb' 8 4, rung1 := v.extractLsb' 4 4, rung0 := v.extractLsb' 0 4 }
    | none => { k with active := act }
  let young := (upTo 8).filter fun n => !k.heldStarts.contains n && (k.heldNew.contains n || (wantsStart s c n && !slewAllows s c n))
  let held := (k.heldStarts ++ young).filter (wantsStart s1 c)
  let back := act.filter (followsOn s1 c)
  let k2 := { k1 with heldStarts := held, heldNew := [], granted := back ++ slewGrants k1 (arraysRunning s1 c ++ back) held }
  let s2 := if k2 = k then s1 else s1.modCluster c fun _ => k2
  .next (s2.refill c)

/-- SLEWCTL_WRITE (R218): the rules, and W1C of BADW. -/
def slewWrite (s : State) (c : Nat) (v : Word) : State :=
  let r (lo : Nat) : Nat := wfld v (lo + 3) lo
  let ok := decide (1 ≤ r 0) && decide (r 0 ≤ r 4) && decide (r 4 ≤ r 8) && decide (r 8 ≤ r 12) && r 12 == 8
    && decide (1 ≤ r 16) && decide (r 16 ≤ 8)
  s.modCluster c fun k =>
    let k := if wbit v 31 then { k with badw := false } else k
    if ok then { k with slewNext := some (v.setWidth 20) } else { k with badw := true }

def execSlewctlWrite (c : Nat) (v : Word) (s : State) : Host.Outcome State Fault Refusal := .next (slewWrite s c v)

/-! ### Starts (R203, R205, R215) -/

/-- The lease of an array after a start under it (R215.3, R215.4). -/
def MArray.counted (m : MArray) (hold : Bool) : MArray :=
  if m.left = 1 ∧ hold ∧ !m.extended then { m with left := 8, extended := true } else { m with left := m.left - 1 }

/-- An entry starts on an array: the array spends its issue cycles. -/
def startOn (s : State) (u a : Nat) (r : RobEntry) : State :=
  let qn := quadOf u
  let hold := (Tcw.hold ⟨r.e.tcw⟩) && (waiters s qn).all fun k => k == u % 4
  let open_ (p : Nat × Nat) : Bool := p.1 == u && p.2 != r.id && (s.fe u).rob.any fun x => x.id == p.2 && x.phase == .started
  let go (m : MArray) : MArray :=
    { m.counted hold with running := some (u, r.id), issue := issueCycles r, started := (u, r.id) :: m.started.filter open_, filler := false }
  (s.modArray qn a go).modRob u r.id fun y => { y with phase := .started, array := some a }

/-- A start that was held is held no longer. -/
def Cluster.began (k : Cluster) (n : Nat) : Cluster :=
  let out (xs : List Nat) : List Nat := xs.filter fun i => i != n
  { k with heldStarts := out k.heldStarts, heldNew := out k.heldNew, granted := out k.granted }

/-- MATRIX_START: an entry starts on array a of its quad, or the slew limiter holds it back. -/
def execMatrixStart (u r a : Nat) (s : State) : Host.Outcome State Fault Refusal :=
  let c := clusterOfQuad (quadOf u)
  let n := arrayNo (quadOf u) a
  match (s.fe u).entry r with
  | none => .next s
  | some x =>
    if !startable s u a x then .next s
    else if !slewAllows s c n then
      let k := s.cluster c
      .next (if k.heldStarts.contains n || k.heldNew.contains n then s
        else s.modCluster c fun k => { k with heldNew := k.heldNew ++ [n] })
    else
      let t := startOn s u a x
      let k := t.cluster c
      .next ((if k.began n = k then t else t.modCluster c fun k => k.began n).refill c)

/-! ### Leases (R215, R216) -/

/-- The waiting core that an array chooses, round-robin after its previous holder. -/
def leaseChoice (prev : Nat) (ws : List Nat) : Option Nat := ((upTo 4).map fun i => (prev + 1 + i) % 4).find? fun k => ws.contains k

/-- The cores that array a of a quad may be granted to. Array 1 passes over a core that array 0 has just been granted to, unless
it has a second ready instruction (R215.2). -/
def leaseTakers (s : State) (q a : Nat) : List Nat :=
  let m := (s.quad q).array 0
  (upTo 4).filter fun k =>
    let fe := s.fe (4 * q + k)
    waitsArray s (4 * q + k)
      || (a == 1 && m.holder == some k && m.left == 8 && m.cyc == 256 && m.running.isNone && decide (2 ≤ (fe.rob.filter (matReady fe)).length))

/-- LEASE_GRANT. Two free arrays that see the same request grant in the same cycle, and array 0 chooses first; array 1 may grant before
it where it became free earlier with a core waiting (R215.2, log entry 45). -/
def execLeaseGrant (q a : Nat) (s : State) : Host.Outcome State Fault Refusal :=
  let m := (s.quad q).array a
  let first := (s.quad q).array 0
  if decide (2 ≤ a) || m.holder.isSome || (a == 1 && first.holder.isNone && !first.behind) then .next s
  else
    match leaseChoice m.prev (leaseTakers s q a) with
    | some k => .next ((s.modArray q a fun _ => grantTo { m with started := [] } k).modArray q 0 fun y => { y with behind := false })
    | none => .next s

/-- An array becomes free: what starts under its next lease chains on nothing older. Where array 1 is free already with a core waiting
for it, it may grant before array 0 does. -/
def arrayFreed (s : State) (q a : Nat) : State :=
  let after := a == 0 && ((s.quad q).array 1).holder.isNone && waiters s q != []
  s.modArray q a fun y => { y with started := [], behind := after }

/-- LEASE_END: by step 5, with the renewal of step 6, under which a later instruction may still chain. -/
def execLeaseEnd (q a : Nat) (s : State) : Host.Outcome State Fault Refusal :=
  let m := (s.quad q).array a
  match m.holder with
  | none => .next s
  | some k =>
    let u := 4 * q + k
    let fe := s.fe u
    let others := (waiters s q).any fun w => w != k
    let able := fe.rob.any fun r => matReady fe r || chainReady s u r a
    let ended := m.running.isNone && (m.left == 0 || m.cyc == 0 || (!able && others) || switchedOut s u)
    let t := s.modArray q a fun _ => { m with holder := none, prev := k }
    if !ended then .next s
    else if waiters t q == [k] && !switchedOut s u then .next (s.modArray q a fun _ => grantTo m k)
    else .next (arrayFreed t q a)

/-- hxlease (01 Table 1.15) of a core. -/
def hxlease (s : State) (u : Nat) : Word :=
  let q := s.quad (quadOf u)
  let holds (a : Nat) : Bool := (q.array a).holder == some (u % 4)
  let w := waitsArray s u
  let left (a : Nat) : Nat := if holds a then (q.array a).left else 0
  let cyc (a : Nat) : Nat := if holds a then (q.array a).cyc else 0
  w64 (left 0 + bitAt (holds 0) 5 + put (left 1) 6 + bitAt (holds 1) 11 + put (cyc 0) 12 + put (cyc 1) 21
    + bitAt w 30 + bitAt w 31)

/-! ### Fetch duty (R220) -/

/-- DUTY_FRAME: a duty written takes effect at a frame boundary; an event that waited for it is taken then. -/
def execDutyFrame (u : Nat) (s : State) : Host.Outcome State Fault Refusal :=
  match (s.unit u).dutyNext with
  | some d => .next (enterPending (s.modUnit u fun x => { x with duty := d, dutyNext := none }) u)
  | none => .next s

end Sys2Proof.Machine
end

