-- ==== Sys2Proof/Machine/Csr.lean ====
section
/-! DEFINITION. The control and status registers and the Zicsr instructions (01 R23 to R35, 03 Table 3.2). -/

namespace Sys2Proof.Machine

open Sys2Proof

/-! ### Places (00 R2, 11 Table 11.5) -/

/-- The core k of the quad at station (x, y). -/
def coreAt (x y k : Nat) : Nat := 16 * (x / 2 + 6 * (y / 2)) + 4 * (x % 2 + 2 * (y % 2)) + k
/-- The station of a core, as 12·y + x. -/
def coreStation (u : Nat) : Nat :=
  let c := u / 16
  let q := u / 4 % 4
  12 * (2 * (c / 6) + q / 2) + (2 * (c % 6) + q % 2)
/-- The router of memory station m, as 12·y + x. -/
def stationRouter (m : Nat) : Nat := [1, 4, 12 * 3 + 2, 7, 10, 12 * 3 + 9].getD m 0
/-- The cluster that holds a station given as 12·y + x. -/
def clusterOf (st : Nat) : Nat := st % 12 / 2 + 6 * (st / 12 / 2)

/-- The logical station that names a physical station in a job's STATIONMAP: the hinted one if it maps there,
else the lowest (16 R368). A job with no readable map sees the physical stations. -/
def logicalStation (s : State) (j : BitVec 16) (phys : Nat) (hint : Option Nat) : Nat :=
  match jobDescPa? s j 96 with
  | none => phys
  | some pa =>
    let maps (i : Nat) : Bool := s.get (pa + i) 1 == phys
    match hint with
    | some h => if h < 48 && maps h then h else ((upTo 48).find? maps).getD phys
    | none => ((upTo 48).find? maps).getD phys

/-- Fields of a placement word (16 Table 16.4), and the logical station that it hints at, if any. -/
def placeHmode (p : Word) : Nat := wfld p 15 14
def placeX (p : Word) : Nat := wfld p 11 8
def placeY (p : Word) : Nat := wfld p 7 6
def placeHint (p : Word) : Option Nat := if placeHmode p = 0 then none else some (12 * placeY p + placeX p)

/-- hxcoord (01 Table 1.7) of slot k of core u: a view of the core's number and of the job's STATIONMAP, with the hint of the
running task (16 R368). Until a job's context or a task is on the core nothing has landed there, and it reads its reset value 0
(DEDUCED, log entry 3). -/
def coordWord (s : State) (u k : Nat) : Word :=
  if (s.unit u).job = 0 ∧ (upTo 6).all (fun i => !(s.hart u i).active) then 0
  else
  let hint := if k < 6 then placeHint (s.hart u k).place else none
  let st := logicalStation s (s.unit u).job (coreStation u) hint
  let x := st % 12
  let y := st / 12
  let n := coreAt x y (u % 4)
  w64 (put (if x < 6 then 0 else 1) 17 + put y 15 + put x 11 + put (n / 16) 7 + put (n / 4 % 4) 5 + put (u % 4) 3 + k)

/-! ### Registers of cores and update cores -/

/-- hxsgcfg (Table 1.11). -/
def StreamGen.cfg (g : StreamGen) : Word :=
  w64 (put g.count.toNat 32 + put g.stride.toNat 16 + put g.ew.toNat 2 + bitAt g.dir 1 + bitAt g.bound 0)

/-- hxjob (Table 1.14). -/
def UnitSt.hxjob (x : UnitSt) : Word := w64 (put x.desc.toNat 20 + put x.mmrev.toNat 18 + x.job.toNat)

/-- The counters of Table 3.2, on every slot of a core: instret is the slot's count; cycle and time are open values (log entry 2). -/
def csrCounter (s : State) (n : Nat) : Option (State × Word) :=
  if n = 0xC02 then some (s, s.me.instret - 1)
  else if n = 0xC00 ∨ n = 0xC01 then some (s.took, s.freeWord)
  else none

/-- The Hexaloth CSRs that a core and an update core both have (17 R405). -/
def csrCommon (s : State) (n : Nat) : Option Word :=
  let h := s.me
  let x := s.mine
  if n = 0x800 then some (h.fflags.setWidth 64)
  else if n = 0x801 then some (h.frm.setWidth 64)
  else if 0x810 ≤ n ∧ n ≤ 0x81F then some ((fget x.dt (n - 0x810) lambdaReset).setWidth 64)
  else if n = 0xCC0 then some (w64 (statWord h))
  else if n = 0xCC3 then some (h.vl.setWidth 64)
  else if n = 0xCC4 then some (w64 (bitAt h.vill 63 + h.ew.toNat))
  else if n = 0xCD0 then some (x.step.setWidth 64)
  else if n = 0xCD1 then some (x.gstep.setWidth 64)
  else if n = 0xCD3 then some x.hxjob
  else none

/-- The further CSRs of a core's slot (Table 1.5, Table 3.2). -/
def csrCore (s : State) (n : Nat) : Option Word :=
  let h := s.me
  let x := s.mine
  if n = 0xCC1 then some (coordWord s s.cur.unit s.cur.slot)
  else if n = 0xCC2 then some (h.stage.setWidth 64)
  else if n = 0xCC5 then some h.qbind
  else if 0xCC8 ≤ n ∧ n ≤ 0xCCB then some (h.gen (n - 0xCC8)).cfg
  else if n = 0xCD2 then some (x.duty.setWidth 64)
  else if n = 0xCD4 then some (hxlease s s.cur.unit)
  else if s.cur.slot = 7 then
    if n = 0x7C0 then some h.hxtrap
    else if n = 0x7C1 then some h.hxtval
    else if n = 0x7C2 then some h.hxepc
    else if n = 0x340 then some h.mscratch
    else none
  else none

/-! ### The RISC-V registers of a CMC and of an application core (R92, 09 R248; log entry 15)

Layouts and rules are those of the RISC-V privileged architecture, with the H extension and the Advanced Interrupt
Architecture on application cores. -/

/-- Writable bits of `mstatus` but MPP, of its S-level view, of `hstatus`, and the fields that read as constants. -/
def statusMask (app : Bool) : Word := if app then 0xC0007E61AA#64 else 0x7E01AA#64
def sstatusMask (app : Bool) : Word := if app then 0xC6122#64 else 0xC0122#64
def hstatusMask : Word := 0x7003C0#64
def xlBits : Word := 0x200000000#64
/-- FS of a status register: 0 off, 3 dirty; SD shows dirty. -/
def fsOf (w : Word) : Nat := wfld w 14 13
def sdBit (w : Word) : Word := w64 (bitAt (fsOf w == 3) 63)
def keep (mask old v : Word) : Word := (old &&& ~~~mask) ||| (v &&& mask)
/-- Interrupts of the VS level, as the HS level numbers them. -/
def vsBits : Word := 0x444#64
def sBits : Word := 0x222#64
def mieMask (app : Bool) : Word := if app then 0x1EEE#64 else 0xAAA#64
def medelegMask (app : Bool) : Word := if app then 0xF0B7FF#64 else 0xB3FF#64
def hedelegMask : Word := 0xB1FF#64
def aligned2 (app : Bool) (v : Word) : Word := if app then v &&& 0xFFFFFFFFFFFFFFFE#64 else v &&& 0xFFFFFFFFFFFFFFFC#64
def vecMask (v : Word) : Word := v &&& 0xFFFFFFFFFFFFFFFC#64

/-- `misa`: RV64 I M A S U, and C D F H of an application core. -/
def misaWord (app : Bool) : Word := w64 (2 ^ 63 + 0x141101 + if app then 0xAC else 0)

/-- A word of the indirect registers of an interrupt file. -/
def fileWord (s : State) (f : Option Nat) (sel : Word) : Option Word :=
  if 0x30 ≤ sel.toNat ∧ sel.toNat < 0x40 then some 0
  else f.bind fun f => if 0x70 ≤ sel.toNat ∧ sel.toNat < 0x100 then some (ifileRead (s.ifile f) sel.toNat) else none

/-- xtopei: the identity that a file delivers. -/
def topWord (s : State) (f : Nat) : Word := let t := (s.ifile f).top; w64 (put t 16 + t)

/-- xtopi: the first interrupt of a level, in its own numbering, at priority 1. -/
def topIntr (xs : List Nat) (less : Nat) : Word :=
  match xs with
  | [] => 0
  | i :: _ => w64 (put (i - less) 16 + 1)

/-- Interrupt files of the executing application core: M-level, S-level, and the guest file in use. -/
def State.fileM (s : State) : Nat := 8 * (s.cur.unit - 228)
def State.fileG (s : State) : Option Nat := s.me.guestFile.map fun f => s.fileM + f

/-- The S-level number that names a VS-level register in a virtual machine. -/
def vsNumber (n : Nat) : Bool :=
  n == 0x100 || n == 0x104 || n == 0x105 || (decide (0x140 ≤ n) && decide (n ≤ 0x144)) || n == 0x150 || n == 0x151 || n == 0x15C
    || n == 0x180 || n == 0xDB0

/-- The register that a number names at the hart's level. -/
def csrNumber (h : Slot) (n : Nat) : Nat := if h.pv.virt && vsNumber n then n + 0x100 else n

/-- The registers of M-mode. -/
def csrM (s : State) (app : Bool) (n : Nat) : Option Word :=
  let h := s.me
  let p := h.pv
  if n = 0x300 then some (p.mstatus ||| w64 (put h.mpp.toNat 11) ||| xlBits ||| (xlBits <<< 2) ||| sdBit p.mstatus)
  else if n = 0x301 then some (misaWord app)
  else if n = 0x302 then some p.medeleg
  else if n = 0x303 then some (if app then p.mideleg ||| guestBits else p.mideleg)
  else if n = 0x304 then some p.mie
  else if n = 0x305 then some h.mtvec
  else if n = 0x306 then some (p.mcounteren.setWidth 64)
  else if n = 0x30A then some p.menvcfg
  else if n = 0x340 then some h.mscratch
  else if n = 0x341 then some h.mepc
  else if n = 0x342 then some h.mcause
  else if n = 0x343 then some h.mtval
  else if n = 0x344 then some (if app then appMip s (s.cur.unit - 228) h else p.mip)
  else if n = 0xB02 then some (h.instret - 1)
  else if 0xF11 ≤ n ∧ n ≤ 0xF15 then some (if n = 0xF14 then w64 s.cur.unit else Config.deviceWord (2048 + 8 * s.cur.unit + (n - 0xF11)))
  else if n = 0x320 ∨ (0x323 ≤ n ∧ n ≤ 0x33F) ∨ (0x3A0 ≤ n ∧ n ≤ 0x3AF ∧ n % 2 = 0) ∨ (0x3B0 ≤ n ∧ n ≤ 0x3EF) ∨ (0xB03 ≤ n ∧ n ≤ 0xB1F)
  then some 0
  else if !app then none
  else if n = 0x34A then some p.mtinst
  else if n = 0x34B then some p.mtval2
  else if n = 0x350 then some p.miselect
  else if n = 0x351 then fileWord s (some s.fileM) p.miselect
  else if n = 0x35C then some (topWord s s.fileM)
  else if n = 0xFB0 then
    some (topIntr ((pendingIntrs s s.cur.unit s.cur.slot).filter fun i => !(p.mideleg ||| guestBits).getLsbD i) 0)
  else none

/-- The registers of S-mode, or HS-mode. -/
def csrS (s : State) (app : Bool) (n : Nat) : Option Word :=
  let h := s.me
  let p := h.pv
  let mip := if app then appMip s (s.cur.unit - 228) h else p.mip
  if n = 0x100 then some ((p.mstatus &&& sstatusMask app) ||| xlBits ||| sdBit p.mstatus)
  else if n = 0x104 then some (p.mie &&& p.mideleg)
  else if n = 0x105 then some p.stvec
  else if n = 0x106 then some (p.scounteren.setWidth 64)
  else if n = 0x10A then some p.senvcfg
  else if n = 0x140 then some p.sscratch
  else if n = 0x141 then some p.sepc
  else if n = 0x142 then some p.scause
  else if n = 0x143 then some p.stval
  else if n = 0x144 then some (mip &&& p.mideleg)
  else if n = 0x180 then some 0
  else if !app then none
  else if n = 0x150 then some p.siselect
  else if n = 0x151 then fileWord s (some (s.fileM + 1)) p.siselect
  else if n = 0x15C then some (topWord s (s.fileM + 1))
  else if n = 0xDB0 then
    some (topIntr ((pendingIntrs s s.cur.unit s.cur.slot).filter fun i => (p.mideleg ||| guestBits).getLsbD i && !p.hideleg.getLsbD i) 0)
  else none

/-- The registers of the H extension, and those of the VS level. -/
def csrH (s : State) (n : Nat) : Option Word :=
  let h := s.me
  let p := h.pv
  let mip := appMip s (s.cur.unit - 228) h
  if n = 0x200 then some (p.vsstatus ||| xlBits ||| sdBit p.vsstatus)
  else if n = 0x204 then some ((p.mie &&& p.hideleg) >>> 1)
  else if n = 0x205 then some p.vstvec
  else if n = 0x240 then some p.vsscratch
  else if n = 0x241 then some p.vsepc
  else if n = 0x242 then some p.vscause
  else if n = 0x243 then some p.vstval
  else if n = 0x244 then some ((mip &&& p.hideleg) >>> 1)
  else if n = 0x250 then some p.vsiselect
  else if n = 0x251 then fileWord s s.fileG p.vsiselect
  else if n = 0x25C then s.fileG.map (topWord s)
  else if n = 0xEB0 then
    some (topIntr ((pendingIntrs s s.cur.unit s.cur.slot).filter fun i => p.hideleg.getLsbD i) 1)
  else if n = 0x280 ∨ n = 0x680 ∨ n = 0x608 ∨ n = 0x609 ∨ n = 0x646 ∨ n = 0x647 then some 0
  else if n = 0x600 then some (p.hstatus ||| xlBits)
  else if n = 0x602 then some p.hedeleg
  else if n = 0x603 then some p.hideleg
  else if n = 0x604 then some (p.mie &&& guestBits)
  else if n = 0x605 then some p.htimedelta
  else if n = 0x606 then some (p.hcounteren.setWidth 64)
  else if n = 0x607 then some p.hgeie
  else if n = 0x60A then some p.henvcfg
  else if n = 0x643 then some p.htval
  else if n = 0x644 then some (mip &&& guestBits)
  else if n = 0x645 then some (p.mip &&& vsBits)
  else if n = 0x64A then some p.htinst
  else if n = 0xE12 then some (appGuests s (s.cur.unit - 228))
  else none

/-- The floating-point registers of an application core: `fflags`, `frm`, `fcsr`. -/
def csrFp (h : Slot) (n : Nat) : Option Word :=
  if n = 1 then some (w64 (wfld (h.pv.fcsr.setWidth 64) 4 0))
  else if n = 2 then some (w64 (wfld (h.pv.fcsr.setWidth 64) 7 5))
  else if n = 3 then some (h.pv.fcsr.setWidth 64)
  else none

/-- Whether floating-point state may be used. -/
def Slot.fpOn (h : Slot) : Bool := fsOf h.pv.mstatus != 0 && (!h.pv.virt || fsOf h.pv.vsstatus != 0)
/-- Floating-point state has been written. -/
def Slot.fpDirty (h : Slot) : Slot :=
  { h with pv := { h.pv with mstatus := h.pv.mstatus ||| 0x6000#64, vsstatus := if h.pv.virt then h.pv.vsstatus ||| 0x6000#64 else h.pv.vsstatus } }

/-- What the privilege rules say of an access: allowed, ILLEGAL, or a virtual instruction. -/
inductive CsrGate where
  | open_ | illegal | virtual
  deriving DecidableEq, Repr

/-- A counter's enables, by its number (0 cycle, 1 time, 2 instret). -/
def counterGate (h : Slot) (b : Nat) : CsrGate :=
  let p := h.pv
  if h.priv = 3 then .open_
  else if !p.mcounteren.getLsbD b then .illegal
  else if p.virt && !p.hcounteren.getLsbD b then .virtual
  else if h.priv = 0 && !p.scounteren.getLsbD b then (if p.virt then .virtual else .illegal)
  else .open_

/-- The privilege rules for a register of an own unit, by its number. -/
def csrGate (h : Slot) (n : Nat) : CsrGate :=
  let p := h.pv
  let level := n / 256 % 4
  if 0xC00 ≤ n ∧ n < 0xC20 then counterGate h (n - 0xC00)
  else if h.priv = 3 then .open_
  else if level = 3 then .illegal
  else if p.virt then
    if level = 0 then .open_
    else if level = 1 && h.priv == 1 then (if n = 0x180 && p.hstatus.getLsbD 20 then .virtual else .open_)
    else .virtual
  else if level = 0 then .open_
  else if h.priv = 0 then .illegal
  else if (n = 0x180 || n = 0x680) && p.mstatus.getLsbD bTVM then .illegal
  else .open_

/-- The value of a register of a CMC or an application core, its privilege apart. -/
def csrOwn (s : State) (n0 : Nat) : Option (State × Word) :=
  let h := s.me
  let app := isApp s.cur.unit
  let n := csrNumber h n0
  if n = 0xC00 ∨ n = 0xC01 ∨ n = 0xB00 then
    some (s.took, if n = 0xC01 && h.pv.virt then s.freeWord + h.pv.htimedelta else s.freeWord)
  else if n = 0xC02 then some (s, h.instret - 1)
  else if 0xC03 ≤ n ∧ n < 0xC20 then some (s, 0)
  else
    ((csrM s app n).orElse fun _ => (csrS s app n).orElse fun _ =>
      if app then (csrH s n).orElse fun _ => if h.fpOn then csrFp h n else none else none).map fun v => (s, v)

/-- A CSR's value on the executing hart; none where the access is ILLEGAL (R23). -/
def csrRead (s : State) (n : Nat) : Option (State × Word) :=
  if isCore s.cur.unit then
    (csrCounter s n).orElse fun _ => ((csrCommon s n).orElse fun _ => csrCore s n).map fun v => (s, v)
  else if isUcore s.cur.unit then (csrCounter s n).orElse fun _ => (csrCommon s n).map fun v => (s, v)
  else if csrGate s.me n == .open_ then csrOwn s n else none

/-- hxtrap's fields (Table 1.12). -/
def trapMask : Word := 0x800000000001FFFF#64

/-- A write of the registers of M-mode and of S-mode. -/
def csrSetM (app : Bool) (h : Slot) (n : Nat) (v : Word) : Option Slot :=
  let p := h.pv
  let put_ (q : Priv) : Option Slot := some { h with pv := q }
  if n = 0x300 then
    some { h with mpp := if wfld v 12 11 = 2 then h.mpp else BitVec.ofNat 2 (wfld v 12 11), pv := { p with mstatus := keep (statusMask app) p.mstatus v } }
  else if n = 0x302 then put_ { p with medeleg := v &&& medelegMask app }
  else if n = 0x303 then put_ { p with mideleg := v &&& sBits }
  else if n = 0x304 then put_ { p with mie := v &&& mieMask app }
  else if n = 0x305 then some { h with mtvec := vecMask v }
  else if n = 0x306 then put_ { p with mcounteren := v.setWidth 32 &&& 7 }
  else if n = 0x30A then put_ { p with menvcfg := v &&& 1 }
  else if n = 0x340 then some { h with mscratch := v }
  else if n = 0x341 then some { h with mepc := aligned2 app v }
  else if n = 0x342 then some { h with mcause := v }
  else if n = 0x343 then some { h with mtval := v }
  else if n = 0x344 then put_ { p with mip := keep (if app then 0x226 else sBits) p.mip v }
  else if n = 0xB02 then some { h with instret := v }
  else if n = 0x100 then put_ { p with mstatus := keep (sstatusMask app) p.mstatus v }
  else if n = 0x104 then put_ { p with mie := keep p.mideleg p.mie v }
  else if n = 0x105 then put_ { p with stvec := vecMask v }
  else if n = 0x106 then put_ { p with scounteren := v.setWidth 32 &&& 7 }
  else if n = 0x10A then put_ { p with senvcfg := v &&& 1 }
  else if n = 0x140 then put_ { p with sscratch := v }
  else if n = 0x141 then put_ { p with sepc := aligned2 app v }
  else if n = 0x142 then put_ { p with scause := v }
  else if n = 0x143 then put_ { p with stval := v }
  else if n = 0x144 then put_ { p with mip := keep (p.mideleg &&& 2) p.mip v }
  else if n = 0x301 ∨ n = 0x180 ∨ n = 0x320 ∨ n = 0xB00 ∨ (0x323 ≤ n ∧ n ≤ 0x33F) ∨ (0x3A0 ≤ n ∧ n ≤ 0x3EF) ∨ (0xB03 ≤ n ∧ n ≤ 0xB1F)
  then some h
  else none

/-- A write of the further registers of an application core. -/
def csrSetH (h : Slot) (n : Nat) (v : Word) : Option Slot :=
  let p := h.pv
  let put_ (q : Priv) : Option Slot := some { h with pv := q }
  if n = 0x200 then put_ { p with vsstatus := keep (sstatusMask true) p.vsstatus v }
  else if n = 0x204 then put_ { p with mie := keep p.hideleg p.mie (v <<< 1) }
  else if n = 0x205 then put_ { p with vstvec := vecMask v }
  else if n = 0x240 then put_ { p with vsscratch := v }
  else if n = 0x241 then put_ { p with vsepc := aligned2 true v }
  else if n = 0x242 then put_ { p with vscause := v }
  else if n = 0x243 then put_ { p with vstval := v }
  else if n = 0x244 then put_ { p with mip := keep (p.hideleg &&& 4) p.mip (v <<< 1) }
  else if n = 0x250 then put_ { p with vsiselect := v &&& 0xFFF }
  else if n = 0x600 then
    let q := keep hstatusMask p.hstatus v
    put_ { p with hstatus := if wfld v 17 12 ≤ 6 then keep 0x3F000#64 q v else q }
  else if n = 0x602 then put_ { p with hedeleg := v &&& hedelegMask }
  else if n = 0x603 then put_ { p with hideleg := v &&& vsBits }
  else if n = 0x604 then put_ { p with mie := keep guestBits p.mie v }
  else if n = 0x605 then put_ { p with htimedelta := v }
  else if n = 0x606 then put_ { p with hcounteren := v.setWidth 32 &&& 7 }
  else if n = 0x607 then put_ { p with hgeie := v &&& 0x7E }
  else if n = 0x60A then put_ { p with henvcfg := v &&& 1 }
  else if n = 0x643 then put_ { p with htval := v }
  else if n = 0x644 then put_ { p with mip := keep 4 p.mip v }
  else if n = 0x645 then put_ { p with mip := keep vsBits p.mip v }
  else if n = 0x64A then put_ { p with htinst := v }
  else if n = 0x34A then put_ { p with mtinst := v }
  else if n = 0x34B then put_ { p with mtval2 := v }
  else if n = 0x350 then put_ { p with miselect := v &&& 0xFFF }
  else if n = 0x150 then put_ { p with siselect := v &&& 0xFFF }
  else if n = 1 then some { h with pv := { p with fcsr := BitVec.ofNat 8 (put (p.fcsr.toNat / 32) 5 + wfld v 4 0) } }.fpDirty
  else if n = 2 then some { h with pv := { p with fcsr := BitVec.ofNat 8 (put (wfld v 2 0) 5 + p.fcsr.toNat % 32) } }.fpDirty
  else if n = 3 then some { h with pv := { p with fcsr := v.setWidth 8 } }.fpDirty
  else if n = 0x280 ∨ n = 0x680 ∨ n = 0x608 ∨ n = 0x609 ∨ n = 0x646 ∨ n = 0x647 then some h
  else none

/-- The interrupt file that an indirect register or a top register reaches, and the selector; none for the other numbers. -/
def csrFile (s : State) (n : Nat) : Option (Nat × Word) :=
  let p := s.me.pv
  if n = 0x351 ∨ n = 0x35C then some (s.fileM, p.miselect)
  else if n = 0x151 ∨ n = 0x15C then some (s.fileM + 1, p.siselect)
  else if n = 0x251 ∨ n = 0x25C then s.fileG.map fun f => (f, p.vsiselect)
  else none

/-- A write of xtopei claims the identity that the file delivers. -/
def csrClaims (n : Nat) : Bool := n == 0x35C || n == 0x15C || n == 0x25C

/-- A write of a register of a CMC or an application core. -/
def csrSetOwn (s : State) (n0 : Nat) (v : Word) : Option State :=
  let app := isApp s.cur.unit
  let n := csrNumber s.me n0
  match csrSetM app s.me n v with
  | some h => some (s.modMe fun _ => h)
  | none =>
    if !app then none
    else
      match csrFile s n with
      | some (f, sel) =>
        some (if csrClaims n then s.modIfile f fun x => x.claim x.top
              else if 0x70 ≤ sel.toNat then s.modIfile f fun x => ifileWrite x sel.toNat v else s)
      | none => (csrSetH s.me n v).map fun h => s.modMe fun _ => h

/-- A write of a readable CSR; none where a write is ILLEGAL. HZ fields ignore what is written (R9). -/
def csrWrite (s : State) (n : Nat) (v : Word) : Option State :=
  let set (f : Slot → Slot) : Option State := some (s.modMe f)
  let core7 := isCore s.cur.unit && s.cur.slot == 7
  if !isCore s.cur.unit && !isUcore s.cur.unit then csrSetOwn s n v
  else if n == 0x800 then set fun h => { h with fflags := v.setWidth 8 }
  else if n == 0x801 then set fun h => { h with frm := v.setWidth 2 }
  else if decide (0x810 ≤ n) && decide (n ≤ 0x81F) then
    some (s.modMine fun x => { x with dt := fset x.dt (n - 0x810) (v.setWidth 32) })
  else if core7 && n == 0x7C0 then set fun h => { h with hxtrap := v &&& trapMask }
  else if core7 && n == 0x7C1 then set fun h => { h with hxtval := v }
  else if core7 && n == 0x7C2 then set fun h => { h with hxepc := v &&& 0xFFFFFFFFFFFFFFFC#64 }
  else if core7 && n == 0x340 then set fun h => { h with mscratch := v }
  else none

/-- A virtual machine's access that its hypervisor would be allowed (log entry 15). -/
def csrVirtual (s : State) (n : Nat) : Bool :=
  isApp s.cur.unit && csrGate s.me n == .virtual && (csrOwn s n).isSome

/-- The value that a Zicsr instruction writes, from the old value and its operand. -/
def csrNew (op : CsrOp) (old x : Word) : Word :=
  match op with
  | .rw => x
  | .rs => old ||| x
  | .rc => old &&& ~~~x

/-- A Zicsr instruction. CSRRS and CSRRC with x0 or a zero immediate write nothing. The register read by number
a is a source operand, which pops a bound stream. The claim of an interrupt's identity is an acquire at system scope (09 R248). -/
def csrBody (op : CsrOp) (imm : Bool) (d a : BitVec 5) (csr : BitVec 12) (s : State) : Res State := do
  let n := csr.toNat
  let writes := op == .rw || a != 0
  need (!csrVirtual s n) (.trap cVirtual 0)
  (if writes && isApp s.cur.unit && csrClaims (csrNumber s.me n) then waitAcquire s 6 else .ok ())
  match csrRead s n with
  | none => .error .illegal
  | some (s1, old) => do
    let (s2, x) ← if imm then .ok (s1, a.setWidth 64) else readX s1 a
    if writes then
      match csrWrite s2 n (csrNew op old x) with
      | none => .error .illegal
      | some s3 => writeX (if isApp s.cur.unit && csrClaims (csrNumber s.me n) then s3.acquired else s3) d old
    else writeX s2 d old

/-- CSR_ACCESS. -/
def execCsrAccess (op : CsrOp) (imm : Bool) (d a : BitVec 5) (csr : BitVec 12) (s : State) :
    Host.Outcome State Fault Refusal :=
  issue (.csrAccess op imm d a csr) s.onAny s (csrBody op imm d a csr)

end Sys2Proof.Machine
end

