-- ==== Sys2Proof/Machine/AppCore.lean ====
section
/-! DEFINITION. The words of an application core that no row of the opcode table holds: RV64GCH's compressed instructions, its
F and D extensions, the S level's return and fences, and the H extension's accesses (03 R92, log entry 15). They are the
RISC-V base's own, which the spec names and leaves to that base's description. -/

namespace Sys2Proof.Machine

open Sys2Proof

/-- A two-operand or one-operand arithmetic operation of F and D. -/
inductive FpOp where
  | add | sub | mul | div | sqrt
  deriving DecidableEq, Repr

/-- What a word of the base does; `dbl` tells D from F. -/
inductive AppOp where
  | rv (op : RvOp)
  | load (op : LoadOp) (d a : BitVec 5) (i : BitVec 12)
  | store (op : StoreOp) (a b : BitVec 5) (i : BitVec 12)
  | trap
  | fload (dbl : Bool) (d a : BitVec 5) (i : BitVec 12)
  | fstore (dbl : Bool) (a b : BitVec 5) (i : BitVec 12)
  | fma (dbl negProduct negAddend : Bool) (rm : Nat) (d a b c : BitVec 5)
  | farith (op : FpOp) (dbl : Bool) (rm : Nat) (d a b : BitVec 5)
  | fsign (dbl : Bool) (k : Nat) (d a b : BitVec 5)
  | fpick (dbl max : Bool) (d a b : BitVec 5)
  | fcompare (dbl : Bool) (k : Nat) (d a b : BitVec 5)
  | fclass (dbl : Bool) (d a : BitVec 5)
  | fpToInt (dbl : Bool) (k rm : Nat) (d a : BitVec 5)
  | intToFp (dbl : Bool) (k rm : Nat) (d a : BitVec 5)
  | fpToFp (dbl : Bool) (rm : Nat) (d a : BitVec 5)
  | fpBits (dbl : Bool) (d a : BitVec 5)
  | bitsFp (dbl : Bool) (d a : BitVec 5)
  | sret
  /-- SFENCE.VMA, HFENCE.VVMA, HFENCE.GVMA. -/
  | vmFence (k : Nat)
  | hload (op : LoadOp) (exec : Bool) (d a : BitVec 5)
  | hstore (op : StoreOp) (a b : BitVec 5)
  deriving DecidableEq, Repr

/-! ### Compressed words -/

/-- A field of a compressed word as a register number; the three-bit fields name x8 to x15. -/
def cReg (w lo : Nat) : BitVec 5 := BitVec.ofNat 5 (fld w (lo + 4) lo)
def cRegS (w lo : Nat) : BitVec 5 := BitVec.ofNat 5 (8 + fld w (lo + 2) lo)

/-- The signed immediate of C.ADDI and its like. -/
def cImm (w : Nat) : BitVec 12 := (BitVec.ofNat 6 (put (fld w 12 12) 5 + fld w 6 2)).signExtend 12
/-- Scaled offsets of 4-byte and 8-byte accesses. -/
def cOff4 (w : Nat) : BitVec 12 := BitVec.ofNat 12 (put (fld w 12 10) 3 + put (fld w 6 6) 2 + put (fld w 5 5) 6)
def cOff8 (w : Nat) : BitVec 12 := BitVec.ofNat 12 (put (fld w 12 10) 3 + put (fld w 6 5) 6)
def cLoadSp4 (w : Nat) : BitVec 12 := BitVec.ofNat 12 (put (fld w 12 12) 5 + put (fld w 6 4) 2 + put (fld w 3 2) 6)
def cLoadSp8 (w : Nat) : BitVec 12 := BitVec.ofNat 12 (put (fld w 12 12) 5 + put (fld w 6 5) 3 + put (fld w 4 2) 6)
def cStoreSp4 (w : Nat) : BitVec 12 := BitVec.ofNat 12 (put (fld w 12 9) 2 + put (fld w 8 7) 6)
def cStoreSp8 (w : Nat) : BitVec 12 := BitVec.ofNat 12 (put (fld w 12 10) 3 + put (fld w 9 7) 6)

/-- The offsets of C.J and of C.BEQZ in units of 2 bytes; one more, since the body counts from 2 bytes before the word. -/
def cJump (w : Nat) : BitVec 20 :=
  (BitVec.ofNat 11 (put (fld w 12 12) 10 + put (fld w 11 11) 3 + put (fld w 10 9) 7 + put (fld w 8 8) 9 + put (fld w 7 7) 5
    + put (fld w 6 6) 6 + fld w 5 3 + put (fld w 2 2) 4)).signExtend 20 + 1
def cBranch (w : Nat) : BitVec 12 :=
  (BitVec.ofNat 8 (put (fld w 12 12) 7 + put (fld w 11 10) 2 + put (fld w 6 5) 5 + fld w 4 3 + put (fld w 2 2) 4)).signExtend 12 + 1

/-- Quadrant 0. -/
def compressed0 (w : Nat) : Option AppOp :=
  let rd := cRegS w 2
  let rs := cRegS w 7
  match fld w 15 13 with
  | 0 =>
    let i := put (fld w 12 11) 4 + put (fld w 10 7) 6 + put (fld w 6 6) 2 + put (fld w 5 5) 3
    if i = 0 then none else some (.rv (.aluI .addi rd 2 (BitVec.ofNat 12 i)))
  | 1 => some (.fload true rd rs (cOff8 w))
  | 2 => some (.load .lw rd rs (cOff4 w))
  | 3 => some (.load .ld rd rs (cOff8 w))
  | 5 => some (.fstore true rs rd (cOff8 w))
  | 6 => some (.store .sw rs rd (cOff4 w))
  | 7 => some (.store .sd rs rd (cOff8 w))
  | _ => none

/-- C.SRLI to C.ADDW. -/
def compressedAlu (w : Nat) : Option AppOp :=
  let r := cRegS w 7
  let b := cRegS w 2
  let amt : BitVec 6 := BitVec.ofNat 6 (put (fld w 12 12) 5 + fld w 6 2)
  match fld w 11 10, fld w 12 12, fld w 6 5 with
  | 0, _, _ => some (.rv (.shift .srli r r amt))
  | 1, _, _ => some (.rv (.shift .srai r r amt))
  | 2, _, _ => some (.rv (.aluI .andi r r (cImm w)))
  | _, 0, 0 => some (.rv (.alu .sub r r b))
  | _, 0, 1 => some (.rv (.alu .xor r r b))
  | _, 0, 2 => some (.rv (.alu .or r r b))
  | _, 0, _ => some (.rv (.alu .and r r b))
  | _, _, 0 => some (.rv (.aluW .subw r r b))
  | _, _, 1 => some (.rv (.aluW .addw r r b))
  | _, _, _ => none

/-- Quadrant 1. -/
def compressed1 (w : Nat) : Option AppOp :=
  let rd := cReg w 7
  let i := cImm w
  match fld w 15 13 with
  | 0 => some (.rv (.aluI .addi rd rd i))
  | 1 => if rd = 0 then none else some (.rv (.aluI .addiw rd rd i))
  | 2 => some (.rv (.aluI .addi rd 0 i))
  | 3 =>
    if rd = 2 then
      let k : BitVec 10 :=
        BitVec.ofNat 10 (put (fld w 12 12) 9 + put (fld w 6 6) 4 + put (fld w 5 5) 6 + put (fld w 4 3) 7 + put (fld w 2 2) 5)
      if k = 0 then none else some (.rv (.aluI .addi 2 2 (k.signExtend 12)))
    else if i = 0 then none
    else some (.rv (.lui rd ((BitVec.ofNat 6 (put (fld w 12 12) 5 + fld w 6 2)).signExtend 20)))
  | 4 => compressedAlu w
  | 5 => some (.rv (.jal 0 (cJump w)))
  | 6 => some (.rv (.branch .eq (cRegS w 7) 0 (cBranch w)))
  | _ => some (.rv (.branch .ne (cRegS w 7) 0 (cBranch w)))

/-- Quadrant 2. -/
def compressed2 (w : Nat) : Option AppOp :=
  let rd := cReg w 7
  let b := cReg w 2
  match fld w 15 13 with
  | 0 => some (.rv (.shift .slli rd rd (BitVec.ofNat 6 (put (fld w 12 12) 5 + fld w 6 2))))
  | 1 => some (.fload true rd 2 (cLoadSp8 w))
  | 2 => if rd = 0 then none else some (.load .lw rd 2 (cLoadSp4 w))
  | 3 => if rd = 0 then none else some (.load .ld rd 2 (cLoadSp8 w))
  | 4 =>
    if fld w 12 12 = 0 then
      if b = 0 then (if rd = 0 then none else some (.rv (.jalr 0 rd 0))) else some (.rv (.alu .add rd 0 b))
    else if b = 0 then some (if rd = 0 then .trap else .rv (.jalr 1 rd 0))
    else some (.rv (.alu .add rd rd b))
  | 5 => some (.fstore true 2 b (cStoreSp8 w))
  | 6 => some (.store .sw 2 b (cStoreSp4 w))
  | _ => some (.store .sd 2 b (cStoreSp8 w))

/-- A 16-bit word of the C extension. -/
def compressed (w : Nat) : Option AppOp :=
  match w % 4 with
  | 0 => compressed0 w
  | 1 => compressed1 w
  | 2 => compressed2 w
  | _ => none

/-! ### 32-bit words -/

/-- Register fields of a 32-bit word. -/
def rdOf (w : Nat) : BitVec 5 := BitVec.ofNat 5 (fld w 11 7)
def rs1Of (w : Nat) : BitVec 5 := BitVec.ofNat 5 (fld w 19 15)
def rs2Of (w : Nat) : BitVec 5 := BitVec.ofNat 5 (fld w 24 20)

/-- OP-FP: by bits 31:27, with F or D in bits 26:25. -/
def decodeOpFp (w : Nat) (dbl : Bool) : Option AppOp :=
  let d := rdOf w
  let a := rs1Of w
  let b := rs2Of w
  let rm := fld w 14 12
  match fld w 31 27 with
  | 0x00 => some (.farith .add dbl rm d a b)
  | 0x01 => some (.farith .sub dbl rm d a b)
  | 0x02 => some (.farith .mul dbl rm d a b)
  | 0x03 => some (.farith .div dbl rm d a b)
  | 0x0B => if b = 0 then some (.farith .sqrt dbl rm d a b) else none
  | 0x04 => if rm < 3 then some (.fsign dbl rm d a b) else none
  | 0x05 => if rm < 2 then some (.fpick dbl (rm == 1) d a b) else none
  | 0x14 => if rm < 3 then some (.fcompare dbl rm d a b) else none
  | 0x08 => if b = (if dbl then 0 else 1) then some (.fpToFp dbl rm d a) else none
  | 0x18 => if b.toNat < 4 then some (.fpToInt dbl b.toNat rm d a) else none
  | 0x1A => if b.toNat < 4 then some (.intToFp dbl b.toNat rm d a) else none
  | 0x1C => if b ≠ 0 then none else if rm = 0 then some (.fpBits dbl d a) else if rm = 1 then some (.fclass dbl d a) else none
  | 0x1E => if b = 0 ∧ rm = 0 then some (.bitsFp dbl d a) else none
  | _ => none

/-- The fused forms, by opcode: the product's sign, and the addend's. -/
def decodeFma (w : Nat) (neg sub dbl : Bool) : Option AppOp :=
  some (.fma dbl neg sub (fld w 14 12) (rdOf w) (rs1Of w) (rs2Of w) (BitVec.ofNat 5 (fld w 31 27)))

/-- The S level's and the H extension's words of SYSTEM; a CMC has the former alone. -/
def decodeSystem (app : Bool) (w : Nat) : Option AppOp :=
  let d := rdOf w
  let a := rs1Of w
  let b := rs2Of w
  let f7 := fld w 31 25
  if w = 0x10200073 then some .sret
  else if fld w 14 12 = 0 ∧ d = 0 ∧ f7 = 0x09 then some (.vmFence 0)
  else if !app then none
  else if fld w 14 12 = 0 ∧ d = 0 ∧ f7 = 0x11 then some (.vmFence 1)
  else if fld w 14 12 = 0 ∧ d = 0 ∧ f7 = 0x31 then some (.vmFence 2)
  else if fld w 14 12 ≠ 4 then none
  else
    match f7, b.toNat with
    | 0x30, 0 => some (.hload .lb false d a)
    | 0x30, 1 => some (.hload .lbu false d a)
    | 0x32, 0 => some (.hload .lh false d a)
    | 0x32, 1 => some (.hload .lhu false d a)
    | 0x32, 3 => some (.hload .lhu true d a)
    | 0x34, 0 => some (.hload .lw false d a)
    | 0x34, 1 => some (.hload .lwu false d a)
    | 0x34, 3 => some (.hload .lwu true d a)
    | 0x36, 0 => some (.hload .ld false d a)
    | 0x31, _ => if d = 0 then some (.hstore .sb a b) else none
    | 0x33, _ => if d = 0 then some (.hstore .sh a b) else none
    | 0x35, _ => if d = 0 then some (.hstore .sw a b) else none
    | 0x37, _ => if d = 0 then some (.hstore .sd a b) else none
    | _, _ => none

/-- A 32-bit word of the base that the opcode table does not hold. -/
def decodeApp32 (w : Nat) : Option AppOp :=
  let i : BitVec 12 := BitVec.ofNat 12 (fld w 31 20)
  let si : BitVec 12 := BitVec.ofNat 12 (put (fld w 31 25) 5 + fld w 11 7)
  let dbl := fld w 26 25 == 1
  if w % 128 = 0x73 then decodeSystem true w
  else if w % 128 = 0x07 then
    (if fld w 14 12 = 2 ∨ fld w 14 12 = 3 then some (.fload (fld w 14 12 == 3) (rdOf w) (rs1Of w) i) else none)
  else if w % 128 = 0x27 then
    (if fld w 14 12 = 2 ∨ fld w 14 12 = 3 then some (.fstore (fld w 14 12 == 3) (rs1Of w) (rs2Of w) si) else none)
  else if 2 ≤ fld w 26 25 then none
  else if w % 128 = 0x43 then decodeFma w false false dbl
  else if w % 128 = 0x47 then decodeFma w false true dbl
  else if w % 128 = 0x4B then decodeFma w true false dbl
  else if w % 128 = 0x4F then decodeFma w true true dbl
  else if w % 128 = 0x53 then decodeOpFp w dbl
  else none

/-- What a word that no row of the opcode table holds does on a unit, with its bytes: none where it encodes nothing there. -/
def ownWord (u w : Nat) : Option (Nat × AppOp) :=
  if isApp u then (if w % 4 = 3 then (decodeApp32 w).map fun o => (4, o) else (compressed w).map fun o => (2, o))
  else if isCmc u then (if w % 128 = 0x73 then (decodeSystem false w).map fun o => (4, o) else none)
  else none

/-! ### Floating-point registers and rounding -/

def ffp64 : FFmt := { e := 11, m := 52, bias := 1023, infs := true, e4m3 := false }
def rvFmt (dbl : Bool) : FFmt := if dbl then ffp64 else ffp32

/-- The bits of a register as an operand: an F value is NaN-boxed, or reads as the canonical NaN. -/
def Slot.fbits (h : Slot) (dbl : Bool) (r : BitVec 5) : Nat :=
  let w := fget h.pv.f r.toNat 0
  if dbl then w.toNat else if w >>> 32 = 0xFFFFFFFF#64 then w.toNat % 2 ^ 32 else 0x7FC00000
def Slot.fval (h : Slot) (dbl : Bool) (r : BitVec 5) : Val := (rvFmt dbl).decode (h.fbits dbl r)

/-- A result written to a register, boxed. -/
def Slot.setF (h : Slot) (dbl : Bool) (d : BitVec 5) (v : Nat) : Slot :=
  ({ h with pv := { h.pv with f := fset h.pv.f d.toNat (w64 (if dbl then v else 0xFFFFFFFF00000000 + v % 2 ^ 32)) } }).fpDirty
/-- Flags accrued. -/
def Slot.addFlags (h : Slot) (fl : Flags) : Slot :=
  if fl &&& 31 = 0 then h else ({ h with pv := { h.pv with fcsr := h.pv.fcsr ||| (fl &&& 31) } }).fpDirty

/-- The rounding mode of a form: its field, or `frm` for the dynamic one; the reserved modes are ILLEGAL. -/
def rvMode (s : State) (rm : Nat) : Res Nat :=
  let m := if rm = 7 then s.me.pv.fcsr.toNat / 32 else rm
  if m ≤ 4 then .ok m else .error .illegal

/-- num/den over the spacing 2^k in a mode (nearest even, to zero, down, up, nearest away), for a sign; whether it is inexact. -/
def rvRound (neg : Bool) (num den : Nat) (k : Int) (rm : Nat) : Nat × Bool :=
  let p := pow2Frac k
  let n := num * p.2
  let d := den * p.1
  let q := n / d
  let rem := n % d
  let up :=
    match rm with
    | 0 => decide (2 * rem > d) || (decide (2 * rem = d) && q % 2 == 1)
    | 1 => false
    | 2 => neg && rem != 0
    | 3 => !neg && rem != 0
    | _ => decide (2 * rem ≥ d)
  (q + b2n up, rem != 0)

/-- ±num/den encoded; a result is tiny by its value rounded without a bound on the exponent. -/
def rvEncodeFrac (f : FFmt) (neg : Bool) (num den rm : Nat) : Nat × Flags :=
  if num = 0 then (f.pack neg 0, 0)
  else
    let emin : Int := 1 - (f.bias : Int)
    let l := floorLog2 num den
    let k := max l emin - f.m
    let (y, inexact) := rvRound neg num den k rm
    let mag := f.magOf y k
    if mag > f.maxCode then
      let toInf := rm == 0 || rm == 4 || (rm == 2 && neg) || (rm == 3 && !neg)
      (f.pack neg (if toInf then (2 ^ f.e - 1) * 2 ^ f.m else f.maxCode), fOF ||| fNX)
    else
      let tiny := decide (l < emin) && !(decide (l + 1 = emin) && (rvRound neg num den (l - f.m) rm).1 == 2 ^ (f.m + 1))
      (f.pack neg mag, flagIf inexact fNX ||| flagIf (inexact && tiny) fUF)

/-- An exact result encoded. -/
def rvEncode (f : FFmt) (rm : Nat) (x : Exact) : Nat × Flags :=
  match x with
  | .val (.nan _) fl => (f.canonNan, fl)
  | .val (.inf n) fl => (f.pack n ((2 ^ f.e - 1) * 2 ^ f.m), fl)
  | .val (.fin n m e) fl =>
    let p := pow2Frac e
    let (b, g) := rvEncodeFrac f n (m * p.1) p.2 rm
    (b, fl ||| g)
  | .frac n num den fl =>
    let (b, g) := rvEncodeFrac f n num den rm
    (b, fl ||| g)
  | .approx b fl => (b, fl)

/-- A sum in a mode: an exact zero of operands of both signs is −0 when rounding down. -/
def rvSum (a b : Val) (rm : Nat) : Val × Bool :=
  let (v, nv) := a.add b
  (if v.isZero && rm == 2 && a.sign != b.sign then .fin true 0 0 else v, nv)

/-- ±a·b ± c with one rounding. -/
def rvFma (negProduct negAddend : Bool) (a b c : Val) (rm : Nat) : Exact :=
  let (p, nv) := a.mul b
  let (v, nv2) := rvSum (if negProduct then p.negate else p) (if negAddend then c.negate else c) rm
  .val v (flagIf (nv || nv2) fNV)

def rvArith (op : FpOp) (a b : Val) (rm : Nat) : Exact :=
  match op with
  | .add => let (v, nv) := rvSum a b rm; .val v (flagIf nv fNV)
  | .sub => let (v, nv) := rvSum a b.negate rm; .val v (flagIf nv fNV)
  | .mul => exMul a b
  | .div => exDiv a b
  | .sqrt => exSqrt a

/-- The class mask of FCLASS. -/
def rvClass (f : FFmt) (bits : Nat) : Nat :=
  let neg := bits / 2 ^ (f.e + f.m) % 2 == 1
  let e := bits / 2 ^ f.m % 2 ^ f.e
  let m := bits % 2 ^ f.m
  let i :=
    if e = 2 ^ f.e - 1 then (if m = 0 then (if neg then 0 else 7) else if m / 2 ^ (f.m - 1) = 0 then 8 else 9)
    else if e = 0 then (if m = 0 then (if neg then 3 else 4) else if neg then 2 else 5)
    else if neg then 1 else 6
  2 ^ i

/-- The range of an integer type: W, WU, L, LU. -/
def rvIntRange (k : Nat) : Int × Int :=
  match k with
  | 0 => (-(2 ^ 31), 2 ^ 31 - 1)
  | 1 => (0, 2 ^ 32 - 1)
  | 2 => (-(2 ^ 63), 2 ^ 63 - 1)
  | _ => (0, 2 ^ 64 - 1)

/-- A value converted to an integer type: a NaN and a value out of range are invalid. -/
def rvToInt (x : Val) (k rm : Nat) : Int × Flags :=
  let (lo, hi) := rvIntRange k
  match x with
  | .nan _ => (hi, fNV)
  | .inf n => (if n then lo else hi, fNV)
  | .fin n m e =>
    let p := pow2Frac e
    let (q, inexact) := rvRound n (m * p.1) p.2 0 rm
    let v : Int := if n then -(q : Int) else q
    if v < lo then (lo, fNV) else if hi < v then (hi, fNV) else (v, flagIf inexact fNX)

/-- A register as a number of an integer type. -/
def rvOfInt (x : Word) (k : Nat) : Int :=
  match k with
  | 0 => (x.setWidth 32 : BitVec 32).toInt
  | 1 => x.toNat % 2 ^ 32
  | 2 => x.toInt
  | _ => x.toNat

/-- The register value of a converted integer: 32-bit results are sign-extended. -/
def rvIntWord (k : Nat) (v : Int) : Word := if k < 2 then (BitVec.ofInt 32 v).signExtend 64 else ofI v

/-! ### Meanings -/

/-- An F or D form needs floating-point state on. -/
def needFp (s : State) : Res Unit := need s.me.fpOn .illegal

/-- A floating-point result with its flags. -/
def writeF (s : State) (dbl : Bool) (d : BitVec 5) (r : Nat × Flags) : State := s.modMe fun h => (h.setF dbl d r.1).addFlags r.2

def fpBody (op : AppOp) (s : State) : Res State := do
  needFp s
  let h := s.me
  match op with
  | .fload dbl d a i => do
    let (s, va) ← readAddr s a i
    needAligned va (if dbl then 8 else 4)
    let (s, v) ← loadAt s va (if dbl then 8 else 4)
    .ok (writeF s dbl d (v, 0))
  | .fstore dbl a b i => do
    let (s, va) ← readAddr s a i
    needAligned va (if dbl then 8 else 4)
    storeAt s va (if dbl then 8 else 4) ((fget h.pv.f b.toNat 0).toNat % (if dbl then 2 ^ 64 else 2 ^ 32))
  | .fma dbl np na rm d a b c => do
    let m ← rvMode s rm
    .ok (writeF s dbl d (rvEncode (rvFmt dbl) m (rvFma np na (h.fval dbl a) (h.fval dbl b) (h.fval dbl c) m)))
  | .farith op dbl rm d a b => do
    let m ← rvMode s rm
    .ok (writeF s dbl d (rvEncode (rvFmt dbl) m (rvArith op (h.fval dbl a) (h.fval dbl b) m)))
  | .fsign dbl k d a b =>
    let n := if dbl then 63 else 31
    let x := h.fbits dbl a
    let y := h.fbits dbl b
    let sx := x / 2 ^ n
    let sy := y / 2 ^ n
    .ok (writeF s dbl d (x % 2 ^ n + 2 ^ n * (if k = 0 then sy else if k = 1 then 1 - sy else (sx + sy) % 2), 0))
  | .fpick dbl mx d a b =>
    .ok (writeF s dbl d (rvEncode (rvFmt dbl) 0 ((if mx then exMax else exMin) (h.fval dbl a) (h.fval dbl b))))
  | .fcompare dbl k d a b => do
    let x := h.fval dbl a
    let y := h.fval dbl b
    let v := if k = 2 then x.eq y else if k = 1 then x.lt y else !x.isNan && !y.isNan && !y.lt x
    let nv := if k = 2 then x.isSig || y.isSig else x.isNan || y.isNan
    writeX (s.modMe fun h => h.addFlags (flagIf nv fNV)) d (w64 (b2n v))
  | .fclass dbl d a => writeX s d (w64 (rvClass (rvFmt dbl) (h.fbits dbl a)))
  | .fpToInt dbl k rm d a => do
    let m ← rvMode s rm
    let (v, fl) := rvToInt (h.fval dbl a) k m
    writeX (s.modMe fun h => h.addFlags fl) d (rvIntWord k v)
  | .intToFp dbl k rm d a => do
    let m ← if dbl && decide (k < 2) then .ok 0 else rvMode s rm
    let (s, x) ← readX s a
    .ok (writeF s dbl d (rvEncode (rvFmt dbl) m (.val (Val.ofInt (rvOfInt x k)) 0)))
  | .fpToFp dbl rm d a => do
    let m ← rvMode s rm
    let x := h.fval (!dbl) a
    .ok (writeF s dbl d (rvEncode (rvFmt dbl) m (.val x (sigFlag [x]))))
  | .fpBits dbl d a =>
    let w := fget h.pv.f a.toNat 0
    writeX s d (if dbl then w else sext32 (low32 w))
  | .bitsFp dbl d a => do
    let (s, x) ← readX s a
    .ok (writeF s dbl d ((if dbl then x.toNat else x.toNat % 2 ^ 32), 0))
  | _ => .error .illegal

/-- sret: from M-mode, HS-mode or S-mode, and VS-mode, unless TSR or VTSR traps it. -/
def sretBody (s : State) : Res State := do
  let h := s.me
  need (h.priv != 0 || h.pv.virt) .illegal
  need (!h.pv.virt || (h.priv == 1 && !h.pv.hstatus.getLsbD 22)) (.trap cVirtual 0)
  need (h.pv.virt || h.priv == 3 || !h.pv.mstatus.getLsbD bTSR) .illegal
  .ok (s.modMe Slot.sretTo)

/-- The fences of address translation: no page table maps an address of these units, so that one that is allowed orders
nothing (R92). -/
def vmFenceBody (k : Nat) (s : State) : Res State := do
  let h := s.me
  need (h.priv != 0 || h.pv.virt) .illegal
  need (!h.pv.virt || (k == 0 && h.priv == 1 && !h.pv.hstatus.getLsbD 20)) (.trap cVirtual 0)
  need (h.pv.virt || h.priv == 3 || k == 1 || !h.pv.mstatus.getLsbD bTVM) .illegal
  .ok s

/-- A load or a store as the virtual machine's: at the privilege SPVP, the hart's own back after it. -/
def asGuest {α : Type} (s : State) (f : State → Res (State × α)) : Res (State × α) := do
  let h := s.me
  need (!h.pv.virt) (.trap cVirtual 0)
  need (h.priv != 0 || h.pv.hstatus.getLsbD bhHU) .illegal
  let (t, v) ← f (s.modMe fun g => { g with priv := if h.pv.hstatus.getLsbD bhSPVP then 1 else 0 })
  .ok (t.modMe fun g => { g with priv := h.priv }, v)

def hloadBody (op : LoadOp) (exec : Bool) (d a : BitVec 5) (s : State) : Res State := do
  let (s, x) ← readX s a
  let n := loadSize op
  let (s, v) ← asGuest s fun t => do
    needAligned x.toNat n
    loadAcc t x.toNat n (if exec then .fetch else .load) true false
  writeX s d (loadVal op v)

def hstoreBody (op : StoreOp) (a b : BitVec 5) (s : State) : Res State := do
  let (s, x, y) ← read2 s a b
  let n := storeSizeOf op
  let (s, _) ← asGuest s fun t => do
    needAligned x.toNat n
    let t ← storeAt t x.toNat n (y.toNat % 2 ^ (8 * n))
    .ok (t, ())
  .ok s

/-- What a word of the base does. -/
def appBody (op : AppOp) (s : State) : Res State :=
  match op with
  | .rv op => rvBody op s
  | .load op d a i => rvLoadBody op d a i s
  | .store op a b i => rvStoreBody op a b i s
  | .trap => raise cBreak 0
  | .sret => sretBody s
  | .vmFence k => vmFenceBody k s
  | .hload op x d a => hloadBody op x d a s
  | .hstore op a b => hstoreBody op a b s
  | op => fpBody op s

/-- VACANT_ENCODING (R90): a word that no row of the opcode table holds. On an application core or a CMC it may be one of
the base's own (R92); one that encodes nothing is ILLEGAL at decode. -/
def execVacantEncoding (w : BitVec 256) (tcw : Bool) (s : State) : Host.Outcome State Fault Refusal :=
  match if tcw then none else ownWord s.cur.unit w.toNat with
  | some (n, op) => issueN n (.vacantEncoding w tcw) true false s (appBody op)
  | none => vacantIssue w tcw s

end Sys2Proof.Machine
end

