-- ==== Sys2Proof/Machine/MemEvents.lean ====
section
/-! DEFINITION. The steps of the memory system: walks, home slices, fills, replies and invalidations (09 R231 to
R243, 15 R352), and the I/O ports with their inbound requests and interrupts (09 R246 to R248). A step that no
request of the machine could have caused leaves the state as it is (log entry 1). -/

namespace Sys2Proof.Machine

open Sys2Proof

/-- An outcome from a condition: the step's effect, or nothing. -/
def onlyIf (b : Bool) (s t : State) : Host.Outcome State Fault Refusal := .next (if b then t else s)

/-- A line of backed memory. -/
def lineBacked (s : State) (line : Nat) : Bool := backed s (linePa line)

/-- RANGE_WALK: a miss of a unit's table is filled; a walk that finds nothing leaves the access to raise NO_RANGE. -/
def execRangeWalk (u : Nat) (va : Word) (s : State) : Host.Outcome State Fault Refusal :=
  let j := (s.unit u).job
  onlyIf (decide (u < 244) && (lookup? s u j va.toNat).isNone) s (findRange s u j va.toNat).1

/-! ### Home slices and the remote-data caches -/

/-- HOME_READ: a read by a core of the home die. -/
def execHomeRead (u line : Nat) (s : State) : Host.Outcome State Fault Refusal :=
  onlyIf (isCore u && lineBacked s line && homeDie s (linePa line) == unitDie u && !pairLocked s line) s (s.homeRead u line)

/-- HOME_OWNERSHIP: ownership for a core of the home die, which then holds the line. -/
def execHomeOwnership (u line : Nat) (s : State) : Host.Outcome State Fault Refusal :=
  onlyIf (isCore u && lineBacked s line && homeDie s (linePa line) == unitDie u && !pairLocked s line) s
    ((s.homeOwn u line).l1Insert u (linePa line) false none 0)

/-- HOME_RDC_READ: a read by the remote-data cache of a die. -/
def execHomeRdcRead (d line : Nat) (s : State) : Host.Outcome State Fault Refusal :=
  onlyIf (lineBacked s line && homeDie s (linePa line) == otherDie d && decide (d < 2) && !pairLocked s line) s (s.rdcLoad d line)

/-- HOME_WRITE: a write by an engine or a unit is performed in the slice, with its copies invalidated first. -/
def execHomeWrite (u line : Nat) (s : State) : Host.Outcome State Fault Refusal :=
  onlyIf (decide (u < 252) && lineBacked s line && !pairLocked s line) s ((s.homeWrite line).wrote noHart line)

/-- L1_FILL: a missed sector reaches a core's L1. -/
def execL1Fill (u pa : Nat) (s : State) : Host.Outcome State Fault Refusal :=
  onlyIf (isCore u && backed s pa && (s.l1Hit u pa).isNone && !pairLocked s (lineOf pa)) s (s.l1Fill u pa)

/-- RDC_FILL: a missed line of the other die reaches the remote-data cache and a core's L1. -/
def execRdcFill (u pa : Nat) (s : State) : Host.Outcome State Fault Refusal :=
  onlyIf (isCore u && backed s pa && homeDie s pa != unitDie u && (s.l1Hit u pa).isNone && !pairLocked s (lineOf pa)) s (s.rdcFill u pa)

/-- ICACHE_FILL: a line of code reaches a unit's instruction cache, when its address translates with X. -/
def execIcacheFill (u : Nat) (va : Word) (s : State) : Host.Outcome State Fault Refusal :=
  match translate s u (s.unit u).job va.toNat .fetch with
  | (t, .ok pa e) =>
    onlyIf (decide (u < 244) && backed t pa && decide (regionOf pa < 3) && !pairLocked s (lineOf pa)
        && (icFind (t.unit u) (va.toNat / 256)).isNone) s
      (icFill t u va.toNat pa false e.n)
  | _ => .next s

/-- L2_FILL: a line read from memory reaches its home slice. -/
def execL2Fill (line : Nat) (bad : Bool) (s : State) : Host.Outcome State Fault Refusal :=
  onlyIf (lineBacked s line && (s.l2Find line).isNone && !pairLocked s line) s (s.l2Fill line bad)

/-- LOAD_REPLY_NO_ALLOCATE: the data of a load that leaves nothing in L1 arrives. -/
def execLoadReplyNoAllocate (u pa : Nat) (s : State) : Host.Outcome State Fault Refusal :=
  onlyIf (decide (u < 244) && backed s pa && !pairLocked s (lineOf pa)) s (s.readSector u pa 1 false false).1

/-- RDC_INVALIDATE_APPLY: a die applies the oldest invalidation sent to it. -/
def execRdcInvalidateApply (d : Nat) (s : State) : Host.Outcome State Fault Refusal :=
  onlyIf (decide (d < 2) && (s.die d).inval != []) s (s.applyInval d)

/-- WRITE_THROUGH_REPLY: the reply to slot k's oldest write-through access. One that crosses the die link comes
after the invalidations sent before it (10 R259). -/
def execWriteThroughReply (u k : Nat) (s : State) : Host.Outcome State Fault Refusal :=
  match findPos (fun p : WtAccess => p.slot == k) (s.unit u).wt with
  | none => .next s
  | some i =>
    let pa := ((s.unit u).wt[i]?.map fun p => p.pa).getD 0
    let t := if homeDie s pa == unitDie u then s else s.applyInvals (unitDie u)
    .next (t.modUnit u fun x => { x with wt := dropAt x.wt i })

/-- The HBM clock index that a die's quads ask for (21 R461). -/
def hbmIndex (s : State) (d : Nat) : BitVec 3 :=
  let qs := (upTo 48).filter fun q =>
    unitDie (4 * q) == d && (upTo 4).any fun i => (s.unit (4 * q + i)).job != 0
  match qs.filterMap fun q => (s.quad q).hbmReq with
  | [] => 7
  | x :: xs => xs.foldl (fun a b => if a.toNat < b.toNat then b else a) x

/-- HBM_CLOCK_CHANGE: the requests that it held go on unchanged; the die runs at the index last asked for. -/
def execHbmClockChange (d : Nat) (s : State) : Host.Outcome State Fault Refusal :=
  onlyIf (decide (d < 2)) s (s.modDie d fun x => { x with hbmIdx := x.hbmNext })

/-! ### Ports (R246) -/

/-- A write of MODE. -/
def setPortMode (s : State) (p : Nat) (mode : BitVec 2) : State :=
  let x := s.port p
  if mode = 3 || x.linkup || x.train then s else s.modPort p fun y => { y with mode := mode }

def execPortSetMode (p : Nat) (mode : BitVec 2) (s : State) : Host.Outcome State Fault Refusal :=
  onlyIf (decide (p < 8)) s (setPortMode s p mode)

/-- TRAIN is written. -/
def startTraining (s : State) (p : Nat) : State := s.modPort p fun x => { x with train := true }

def execPortTrain (p : Nat) (s : State) : Host.Outcome State Fault Refusal :=
  onlyIf (decide (p < 8)) s (startTraining s p)

/-- PORT_TRAINING_END: the link comes up at a rate and width of Table 9.6, or training fails. A port that is off
does not come up. A change of LINKUP is signalled (R248). -/
def execPortTrainingEnd (p : Nat) (ok : Bool) (speed : BitVec 4) (width : BitVec 5) (s : State) :
    Host.Outcome State Fault Refusal :=
  let x := s.port p
  let up := ok && x.mode != 0 && decide (1 ≤ speed.toNat) && decide (speed.toNat ≤ 6)
    && [1, 2, 4, 8, 16].contains width.toNat
  if !x.train || 8 ≤ p then .next s
  else if up then
    let t := s.modPort p fun y => { y with train := false, linkup := true, speed := speed, width := width }
    .next (if x.linkup then t else portSignal t p 1)
  else
    let t := portError (s.modPort p fun y => { y with train := false, linkup := false, speed := 0, width := 0 }) p
    .next (if x.linkup then portSignal t p 1 else t)

/-- PORT_LINK_DOWN. -/
def execPortLinkDown (p : Nat) (s : State) : Host.Outcome State Fault Refusal :=
  let x := s.port p
  if x.linkup && p < 8 then
    .next (portSignal (portError (s.modPort p fun y => { y with linkup := false, speed := 0, width := 0 }) p) p 1)
  else .next s

/-- The answer to slot k's request through a port is here. -/
def portAnswer (s : State) (u k : Nat) (ok : Bool) (v : Word) : State :=
  match (s.hart u k).pipe with
  | .port p none =>
    let t := s.modHart u k fun h => { h with pipe := .port p (some (if ok then v else ones64)) }
    if ok then t else portError t p
  | _ => s

/-- PORT_REQUEST_COMPLETION. -/
def execPortRequestCompletion (u k : Nat) (ok : Bool) (v : Word) (s : State) : Host.Outcome State Fault Refusal :=
  .next (portAnswer s u k ok v)

/-- PORT_REQUEST_TIMEOUT: all ones, and ERR. -/
def execPortRequestTimeout (u k : Nat) (s : State) : Host.Outcome State Fault Refusal :=
  .next (portAnswer s u k false 0)

/-- PORT_EVENT_INTERRUPT: kinds 1 to 3 pulse the source of that kind; kind 4 is an uncorrectable link error, which sets ERR
(R246) and is an event of kind 2. -/
def execPortEventInterrupt (p kind : Nat) (s : State) : Host.Outcome State Fault Refusal :=
  onlyIf (decide (p < 8) && decide (1 ≤ kind) && decide (kind ≤ 4)) s (if kind = 4 then portError s p else portSignal s p kind)

/-! ### Inbound requests (R247) -/

/-- A notice record (18 Table 18.2). -/
def noticeRecord (seq job : BitVec 16) (cause : Nat) (epc tval step : Word) : List Word :=
  [w64 (put seq.toNat 48 + put job.toNat 32 + put 2 17 + cause), epc, tval, 0, 0, step, 0, 0]

/-- A notice waits at its source for a shared slot of a CMC's mailbox (18 R414). -/
def postNotice (s : State) (c src : Nat) (r : List Word) : State :=
  { s with pendRecords := s.pendRecords ++ [{ cluster := c, src := src, record := r }] }

/-- The notice of a refused inbound request. -/
def portNotice (s : State) (p cause : Nat) (va : Nat) (rid : Nat) : State :=
  let x := s.port p
  postNotice (s.modPort p fun y => { y with seq := y.seq + 1 }) x.ncmc.toNat (256 + p)
    (noticeRecord x.seq x.dmajob cause (w64 (rid % 65536)) (w64 va) 0)

/-- Pieces of a device access inside one 256-byte block each, translated by the table of unit (or port 244 + p) `u`
under a job's ranges: the places (VA, PA, bytes), a wait, or the cause and address of a refusal (R247, 16 R476). -/
def spanPlaces (s : State) (u : Nat) (j : BitVec 16) (a : Acc) : List (Nat × Nat) → State × List (Nat × Nat × Nat) × Tr
  | [] => (s, [], .wait)
  | (va, n) :: rest =>
    match translate s u j va a with
    | (t, .ok pa e) =>
      if regionOf pa = 3 then (t, [], .raise cPermission va)
      else if !backed t pa then (t, [], .raise cNoRange va)
      else if pairLocked t (lineOf pa) then (t, [], .wait)
      else
        match rest with
        | [] => (t, [(va, pa, n)], .ok pa e)
        | _ =>
          match spanPlaces t u j a rest with
          | (t2, ps, .ok _ _) => (t2, (va, pa, n) :: ps, .ok pa e)
          | r => r
    | (t, r) => (t, [], r)

/-- The interrupt aperture (R248): the interrupt file that an address names, and the offset in its page. -/
def apertureFile (va : Nat) : Option (Nat × Nat) :=
  let b := 0x00FFFE0000000000
  if b ≤ va ∧ va < b + 0x1000 * 128 then some ((va - b) / 0x1000, va % 0x1000) else none

/-- Pieces of a request of n bytes. -/
def requestBlocks (va : Word) (n : Nat) : List (Nat × Nat) := blocks va.toNat (n / 256 + 2) n

/-- An inbound request performs; none while it waits at a return cursor or for a locked line. The interrupt aperture
bypasses translation: a 4-byte write of seteipnum delivers its identity, and any other access there does nothing (log entry 31). -/
def performInbound (s : State) (p : Nat) : Inbound → Option State
  | .read va n rid =>
    if (apertureFile va.toNat).isSome then some s
    else
    match spanPlaces s (244 + p) (s.port p).dmajob .load (requestBlocks va n) with
    | (t, ps, .ok _ _) => some (ps.foldl (fun t x => (t.homeLoad x.2.1 x.2.2).1) t)
    | (t, _, .raise c v) => some (portNotice t p c v rid)
    | (_, _, .wait) => none
  | .write va n rid v =>
    match apertureFile va.toNat with
    | some (f, off) => some (if n = 4 then ifilePut s f off (v % 2 ^ 32) else s)
    | none =>
      match spanPlaces s (244 + p) (s.port p).dmajob .store (requestBlocks va n) with
      | (t, ps, .ok _ _) => some (ps.foldl (fun t x => t.homeStore x.2.1 x.2.2 (v / 2 ^ (8 * (x.1 - va.toNat)) % 2 ^ (8 * x.2.2))) t)
      | (t, _, .raise c x) => some (portNotice t p c x rid)
      | (_, _, .wait) => none
  | .msi va id =>
    match apertureFile va.toNat with
    | some (f, off) => some (ifilePut s f off id)
    | none => some s

/-- The requests of a port performed in order, up to one that waits; what is left. -/
def drainInbound (s : State) (p : Nat) : List Inbound → State × List Inbound
  | [] => (s, [])
  | x :: rest =>
    match performInbound s p x with
    | some t => drainInbound t p rest
    | none => (s, x :: rest)

/-- A port's queue goes on (R247). -/
def portDrain (s : State) (p : Nat) : State :=
  match (s.port p).inq with
  | [] => s
  | q => let (t, rest) := drainInbound s p q; t.modPort p fun x => { x with inq := rest }

/-- Every port's queue goes on, after what a request may have waited for. -/
def drainPorts (s : State) : State := (upTo 8).foldl portDrain s

/-- PAIR_COMMIT: the five writes of an update, then the locks go (17 R410); inbound requests that waited for them go on. -/
def execPairCommit (u : Nat) (s : State) : Host.Outcome State Fault Refusal :=
  match (s.hart u 0).pipe with
  | .pair 2 lines _ bs =>
    let t := bs.foldl (fun t p => t.homeStore p.1 1 p.2.toNat) s
    .next (drainPorts (pairRelease t u (.pair 3 lines [] [])))
  | _ => .next s

/-- A request comes to a port whose link is up. -/
def receive (s : State) (p : Nat) (x : Inbound) : State := portDrain (s.modPort p fun y => { y with inq := y.inq ++ [x] }) p

/-- Whether a port takes inbound requests. -/
def portServes (s : State) (p : Nat) : Bool := decide (p < 8) && (s.port p).linkup

/-- Bytes of a request that a port takes: the largest of PCI Express. -/
def requestSize (n : Nat) : Bool := decide (1 ≤ n) && decide (n ≤ 4096)

/-- INBOUND_READ: served at the home slices, after the port's posted writes. A refused read brings a notice. -/
def execInboundRead (p : Nat) (va : Word) (n rid : Nat) (s : State) : Host.Outcome State Fault Refusal :=
  onlyIf (portServes s p && requestSize n) s (receive s p (.read va n rid))

/-- MSI_DELIVERY: the identity is delivered after every earlier posted write of the port has performed. -/
def execMsiDelivery (p : Nat) (va : Word) (id : Nat) (s : State) : Host.Outcome State Fault Refusal :=
  onlyIf (portServes s p) s (receive s p (.msi va id))

/-- INBOUND_WRITE: a posted write performs at its home slices in the port's order, or is dropped with a notice. One with the
Relaxed Ordering attribute passes earlier ones that wait. -/
def execInboundWrite (p : Nat) (va : Word) (n rid : Nat) (v : BitVec 32768) (ro : Bool) (s : State) :
    Host.Outcome State Fault Refusal :=
  let x : Inbound := .write va n rid (v.toNat % 2 ^ (8 * n))
  onlyIf (portServes s p && requestSize n) s
    (match if ro then performInbound s p x else none with
     | some t => t
     | none => receive s p x)

end Sys2Proof.Machine
end

