-- ==== Sys2Proof/Machine/Messages.lean ====
section
/-! DEFINITION. The network interface, messages, active messages, the watch and the named barriers
(12 R301 to R330). -/

namespace Sys2Proof.Machine

open Sys2Proof

/-! ### The network interface -/

def State.ni (s : State) (u : Nat) : Ni := (s.unit u).ni
def State.modNi (s : State) (u : Nat) (f : Ni → Ni) : State := s.modUnit u fun x => { x with ni := f x.ni }

/-- Fields of a rank-table entry (Table 12.2). -/
def rankValid (e : Word) : Bool := wbit e 63
def rankTransit (e : Word) : Bool := wbit e 62
def rankKind (e : Word) : Nat := wfld e 17 16

/-- The memory station whose router is at station number st. -/
def routerStation? (st : Nat) : Option Nat := (upTo 6).find? fun m => stationRouter m == st

/-- The unit that an entry names in this package; none in another one (log entry 10). -/
def rankUnit? (e : Word) : Option Nat :=
  let x := wfld e 15 12
  let y := wfld e 11 10
  if wfld e 23 18 != 0 then none
  else if rankKind e = 0 then some (coreAt x y (wfld e 9 8))
  else if rankKind e = 1 then some (192 + clusterOf (12 * y + x))
  else (routerStation? (12 * y + x)).map fun m => ucoreOf m (wfld e 9 8)

/-- An entry that Table 12.2 allows. -/
def rankOk (e : Word) : Bool :=
  e &&& 0x3FFFFFFFFF0000FF#64 == 0 && rankKind e != 3 && decide (wfld e 15 12 ≤ 11)
    && (!rankTransit e || rankValid e) && (rankKind e != 1 || wfld e 9 8 == 0)
    && (rankKind e != 2 || (routerStation? (12 * wfld e 11 10 + wfld e 15 12)).isSome)

/-- KIND of a record (Table 12.5). -/
def Msg.kind (m : Msg) : Nat := wfld m.hdr 19 18

/-- The 80 bytes of a record. -/
def Msg.bits (m : Msg) : Nat := ofWords ([m.hdr, m.stamp.setWidth 64] ++ m.payload)

/-- The inbox in order of stamp, then of arrival (R315). -/
def inboxInsert (m : Msg) : List Msg → List Msg
  | [] => [m]
  | h :: t => if m.stamp.toNat < h.stamp.toNat then m :: h :: t else h :: inboxInsert m t

/-- SENT and RCVD count by colour (18 R431). -/
def Ni.countSent (n : Ni) (c : Bool) : Ni := if c then { n with sent1 := n.sent1 + 1 } else { n with sent0 := n.sent0 + 1 }
def Ni.countRcvd (n : Ni) (c : Bool) : Ni := if c then { n with rcvd1 := n.rcvd1 + 1 } else { n with rcvd0 := n.rcvd0 + 1 }
/-- A count that no interface of the job's own holds. -/
def State.addResidual (s : State) (j : BitVec 16) (c : Bool) (n : Int) : State :=
  let p := fget s.residual j.toNat (0, 0)
  { s with residual := fset s.residual j.toNat (if c then (p.1, p.2 + n) else (p.1 + n, p.2)) }
def State.countSent (s : State) (u : Nat) (j : BitVec 16) (c : Bool) : State :=
  if (s.unit u).ni.cjob = j then s.modUnit u fun x => { x with ni := x.ni.countSent c } else s.addResidual j c 1
def State.countRcvd (s : State) (u : Nat) (j : BitVec 16) (c : Bool) : State :=
  if (s.unit u).ni.cjob = j then s.modUnit u fun x => { x with ni := x.ni.countRcvd c } else s.addResidual j c (-1)
def LateCapture.countRcvd (l : LateCapture) (c : Bool) : LateCapture :=
  if c then { l with rcvd1 := l.rcvd1 + 1 } else { l with rcvd0 := l.rcvd0 + 1 }

/-- REPLAYARM is a level test (R318). -/
def replayCheck (s : State) (u : Nat) : State :=
  if (s.ni u).replayarm && decide ((s.ni u).inbox.length ≤ 16) then
    let t := s.modNi u fun n => { n with replayarm := false }
    if isCore u then serviceWake t u else t
  else s

/-- A message enters the inbox: RECV and `wfi` waits see it. -/
def enterInbox (s : State) (u : Nat) (m : Msg) : State :=
  wakeWfi (wakePark (s.modNi u fun n => { n with inbox := inboxInsert m n.inbox }) u 8) u

/-- An INBOX_OVERFLOW is pending or being handled. -/
def overflowBusy (s : State) (u : Nat) : Bool :=
  (s.unit u).inboxOvf || ((s.hart u 7).active && wbit (s.hart u 7).hxtrap 63 && wfld (s.hart u 7).hxtrap 7 0 == cInboxOverflow)

/-- n bytes of a job's memory stored by a unit's interface, under the job's ranges; none while a byte of them waits or does not
translate. -/
def niStore (s : State) (u : Nat) (j : BitVec 16) (va n v : Nat) : Option State :=
  match spanPlaces s u j .store (blocks va 2 n) with
  | (t, ps, .ok _ _) => some (ps.foldl (fun t p => t.homeStore p.2.1 p.2.2 (v / 2 ^ (8 * (p.1 - va)) % 2 ^ (8 * p.2.2))) t)
  | _ => none

/-- The bytes of a record written into a late-capture buffer under the vacated job's ranges, with USED kept up
(18 R429). None while the buffer does not translate, or a byte of it waits. -/
def lateAppend (s : State) (u : Nat) (l : LateCapture) (m : Msg) : Option State := do
  let t ← niStore s u l.job (l.buf.toNat + 80 * l.used) 80 m.bits
  let t ← niStore t u l.job (l.desc.toNat + 12) 2 (l.used + 1)
  some (t.modUnit u fun x => { x with late := some { l with used := l.used + 1 } })

/-- Whether an arrival is for the job under late capture. -/
def forLate (s : State) (u : Nat) (m : Msg) : Option LateCapture :=
  (s.unit u).late.filter fun l => l.job == m.job && (s.unit u).job != m.job

/-- The notice of a late-capture buffer that has filled (18 R429). -/
def lateNotice (s : State) (u : Nat) (l : LateCapture) : State :=
  if l.notified then s
  else
    let x := s.unit u
    let r := noticeRecord x.trapSeq l.job cInboxOverflow 0 0 (x.step.setWidth 64)
    postNotice (s.modUnit u fun y => { y with trapSeq := y.trapSeq + 1, late := some { l with notified := true } })
      (u / 16) (512 + u) r

/-- Messages that wait for a full late-capture buffer bring its notice (18 R429). -/
def lateFull (s : State) (u : Nat) : State :=
  match (s.unit u).late with
  | some l => if l.cap ≤ l.used && (s.ni u).inbuf.any (fun m => m.job == l.job) && (s.unit u).job != l.job then lateNotice s u l else s
  | none => s

/-- An arrival taken in: into the late-capture buffer, or into the inbox while fewer than 56 entries are occupied. -/
def acceptMsg (s : State) (u : Nat) (m : Msg) : Option State :=
  match forLate s u m with
  | some l => if l.used < l.cap then (lateAppend s u l m).map fun t => lateFull t u else none
  | none => if (s.ni u).inbox.length < 56 then some (enterInbox s u m) else none

/-- An arrival that finds no room waits in the input buffer; a core's full inbox raises INBOX_OVERFLOW (R316). -/
def holdArrival (s : State) (u : Nat) (m : Msg) : State :=
  let t := s.modNi u fun n => { n with inbuf := n.inbuf ++ [m] }
  match forLate s u m with
  | some l => if l.used < l.cap then t else lateNotice t u l
  | none =>
    if isCore u && decide (56 ≤ (s.ni u).inbox.length) && !overflowBusy s u then
      inboxOverflow (t.modNi u fun n => { n with replayarm := true }) u
    else t

/-- A message reaches a unit's interface, from the network or as its own box message (R309, R316). -/
def arriveMsg (s : State) (u : Nat) (m : Msg) : State :=
  let t :=
    match forLate s u m with
    | some l => s.modUnit u fun x => { x with late := some (l.countRcvd m.colour) }
    | none => s.countRcvd u m.job m.colour
  if t.ni u |>.inbuf.any fun y => y.reply == m.reply then holdArrival t u m
  else
    match acceptMsg t u m with
    | some r => r
    | none => holdArrival t u m

/-! ### Sends (R307 to R313, R321) -/

/-- Read n consecutive 64-bit words with loads of the slot. -/
def loadWords (s : State) (va : Nat) : Nat → Res (State × List Word)
  | 0 => .ok (s, [])
  | n + 1 => do
    let (t, v) ← loadWord s va
    let (r, vs) ← loadWords t (va + 8) n
    .ok (r, v :: vs)

/-- A record's header from a send header. -/
def recordHeader (h : Word) (kind : Nat) (src : BitVec 10) : Word :=
  w64 (put (wfld h 63 20) 20 + put kind 18 + src.toNat)

/-- The record that SENDQ_FULL leaves at core-store offset 0x7_FF80, and SQARM (R321). -/
def sendqFull (s : State) (h : Word) (kind : Nat) (ps : List Word) : State :=
  let u := s.cur.unit
  let w0 := w64 (put (wfld h 63 20) 20 + put kind 18 + wfld h 9 0)
  let w1 := w64 (bitAt (kind == 1) 63 + 2 ^ 62 + s.mine.step.toNat)
  let a := storeBase u + 0x7FF80
  ((s.put a 80 (ofWords ([w0, w1] ++ ps))).wrote noHart (lineOf a)).modNi u fun n => { n with sqarm := true }

/-- The body of SEND (kind 0), SENDR (1) and AMSG (2); `pre` is the state before the instruction. -/
def sendBody (kind : Nat) (a b : BitVec 5) (pre s : State) : Res State := do
  let u := s.cur.unit
  let (s, h) ← readX s a
  needValue (wfld h 19 10 == 0 && decide (wfld h 23 20 ≤ 8)) a
  needValue (if kind = 2 then wfld h 33 32 == 0 else wfld h 63 32 == 0) a
  let e := fget (s.ni u).rank (wfld h 9 0) 0
  needValue (rankValid e && (kind != 2 || rankKind e == 0)) a
  let n := wfld h 23 20
  let (s, ps) ← (if n = 0 then .ok (s, []) else do
    let (s, x) ← readX s b
    needAligned x.toNat 8
    loadWords s x.toNat n)
  let full := if kind = 1 then decide (4 ≤ (s.ni u).rplQ.length) else decide (8 ≤ (s.ni u).reqQ.length)
  if full then
    if !isCore u then .error (.hold none)
    else if s.cur.slot = 6 then .error (.loc cSendqFull h (some (sendqFull pre h kind ps)))
    else .error (.park 6 0 (some (if kind = 1 then 1 else 0)))
  else do
    let m : Msg := { hdr := recordHeader h kind (s.ni u).myrank, stamp := s.mine.step, payload := ps, rank := wfld h 9 0,
                     reply := kind == 1, colour := (s.ni u).colour, job := s.mine.job, src := u, slot := s.cur.slot, entry := e }
    waitTfence s
    .ok (s.modNi u fun q => if kind = 1 then { q with rplQ := q.rplQ ++ [m] } else { q with reqQ := q.reqQ ++ [m] })

def execSend (a b : BitVec 5) (s : State) : Host.Outcome State Fault Refusal :=
  issue (.send a b) s.onCoreUC s (sendBody 0 a b (s.modMe Slot.unpark))

def execSendr (a b : BitVec 5) (s : State) : Host.Outcome State Fault Refusal :=
  issue (.sendr a b) s.onCore s (sendBody 1 a b (s.modMe Slot.unpark))

def execAmsg (a b : BitVec 5) (s : State) : Host.Outcome State Fault Refusal :=
  issue (.amsg a b) s.onCore s (sendBody 2 a b (s.modMe Slot.unpark))

/-- What an interface still has to send of its job keeps the colour that it has for the job when its unit leaves it (18 R431). -/
def Ni.stamped (n : Ni) : Ni :=
  let stamp (m : Msg) : Msg := if m.job = n.cjob then { m with colour := n.colour } else m
  { n with reqQ := n.reqQ.map stamp, rplQ := n.rplQ.map stamp, heldBuf := n.heldBuf.map stamp }

/-- A message leaves toward an entry's place; one for another package leaves this machine (log entry 10). Its
colour is its interface's for its job at that time, or that which the interface had when its unit left the job (18 R431). -/
def injectTo (s : State) (u : Nat) (m : Msg) (e : Word) : State :=
  let c := if m.job = (s.ni u).cjob then (s.ni u).colour else m.colour
  let t := s.countSent u m.job c
  match rankUnit? e with
  | some d => { t with mesh := t.mesh ++ [{ msg := { m with colour := c }, dst := d }] }
  | none => t

/-- An entry frees in a send queue: SQARM wakes slot 7 (R321). -/
def sendqFreed (s : State) (u : Nat) : State :=
  if (s.ni u).sqarm then serviceWake (s.modNi u fun n => { n with sqarm := false }) u else s

/-- A message of a removed job is discarded and counted (20 R446). -/
def dropForJob (s : State) (j : BitVec 16) : State :=
  { s with removals := s.removals.map fun p => if p.1 = j.toNat then (p.1, { p.2 with dropped := p.2.dropped + 1 }) else p }

/-- The unit has its record of a removed job still to write. -/
def recordOwed (s : State) (u : Nat) (j : BitVec 16) : Bool :=
  s.removals.any fun p => p.1 == j.toNat && !p.2.sealed && p.2.todo.contains u

/-- MESSAGE_INJECT: the head of a send queue leaves once its sender's earlier accesses have performed (R313), into
the mesh or, for a rank in transit, into the held buffer while it has room (R306). While its job is removed, the unit keeps its
queues for its record, and a unit that has none to write discards the message (20 R446). -/
def execMessageInject (u : Nat) (reply : Bool) (s : State) : Host.Outcome State Fault Refusal :=
  let n := s.ni u
  match (if reply then n.rplQ else n.reqQ) with
  | [] => .next s
  | m :: rest =>
    let pop (t : State) : State :=
      sendqFreed (t.modNi u fun q => if reply then { q with rplQ := rest } else { q with reqQ := rest }) u
    let now := fget n.rank m.rank 0
    if !performed s u m.slot || recordOwed s u m.job then .next s
    else if removing s m.job then .next (pop (dropForJob s m.job))
    else if rankTransit m.entry then
      if rankTransit now then
        if n.heldBuf.length < 16 then .next (pop (s.modNi u fun q => { q with heldBuf := q.heldBuf ++ [m] })) else .next s
      else .next (pop (injectTo s u m now))
    else .next (pop (injectTo s u m m.entry))

/-- MESSAGE_ARRIVAL: the oldest message from src to dst on a network arrives. -/
def execMessageArrival (src dst vn : Nat) (s : State) : Host.Outcome State Fault Refusal :=
  match findPos (fun f : Flight => f.msg.src == src && f.dst == dst && f.msg.reply == (vn == 1)) s.mesh with
  | none => .next s
  | some i =>
    match s.mesh[i]? with
    | none => .next s
    | some f =>
      let t := { s with mesh := dropAt s.mesh i }
      if vn > 1 then .next s
      else if removing s f.msg.job then .next (dropForJob t f.msg.job)
      else .next (arriveMsg t dst f.msg)

/-- The first waiting arrival of a network that can be taken in. -/
def heldTaken (s : State) (u : Nat) (reply : Bool) : Option State :=
  match findPos (fun m : Msg => m.reply == reply) (s.ni u).inbuf with
  | none => none
  | some i =>
    match (s.ni u).inbuf[i]? with
    | none => none
    | some m => acceptMsg (s.modNi u fun n => { n with inbuf := dropAt n.inbuf i }) u m

/-- INBOX_HELD_ENTRY: VN1 first, then VN0; VN2 carries no messages of ranks (R314, R316). -/
def execInboxHeldEntry (u : Nat) (s : State) : Host.Outcome State Fault Refusal :=
  match heldTaken s u true with
  | some t => .next t
  | none =>
    match heldTaken s u false with
    | some t => .next t
    | none => .next s

/-! ### Ranks (R303 to R306) -/

/-- The NI status word (Table 12.3). -/
def niStatus (n : Ni) : Word :=
  w64 (put n.myrank.toNat 32 + bitAt n.sqarm 25 + bitAt n.replayarm 24 + put n.rplQ.length 20 + put n.reqQ.length 16
    + n.inbox.length)

def execRankget (d a : BitVec 5) (s : State) : Host.Outcome State Fault Refusal :=
  issue (.rankget d a) s.onCore s fun s => do
    let (s, x) ← readX s a
    needValue (decide (x.toNat ≤ 0x400)) a
    writeX s d (if x.toNat = 0x400 then niStatus (s.ni s.cur.unit) else fget (s.ni s.cur.unit).rank x.toNat 0)

/-- A rank-table entry written; the held messages of a rank whose INTRANSIT clears leave in their order (R306), to the place that the
entry's fields give even where the write clears VALID with it, of which the spec says nothing (DESIGN CHOICE, log entry 44). -/
def writeRank (s : State) (u r : Nat) (e : Word) : State :=
  let old := fget (s.ni u).rank r 0
  let s1 := s.modNi u fun n => { n with rank := fset n.rank r e }
  if rankTransit old && !rankTransit e then
    let out := (s1.ni u).heldBuf.filter fun m => m.rank == r
    let s2 := s1.modNi u fun n => { n with heldBuf := n.heldBuf.filter fun m => m.rank != r }
    out.foldl (fun t m => injectTo t u m e) s2
  else s1

/-- RANKSET's checks and write. An application core has no interface of its own, and OWN = 1 is ILLEGAL there (log entry 44). -/
def ranksetBody (a b : BitVec 5) (s : State) : Res State := do
  let (s, x, y) ← read2 s a b
  let u := s.cur.unit
  let self := wbit x 10
  let own := wbit x 24
  let core := wfld x 23 16
  needValue (x &&& 0xFFFFFFFFFE00F800#64 == 0 && decide (core ≤ 191) && (!own || core == 0) && (!self || wfld x 9 0 == 0)) a
  needValue (if isCore u then own else if isCmc u then own || core / 16 == u - 192 else !own) a
  needValue (if self then wfld y 63 10 == 0 else rankOk y) b
  let target := if own then u else core
  .ok (if self then s.modNi target fun n => { n with myrank := BitVec.ofNat 10 (wfld y 9 0) }
       else writeRank s target (wfld x 9 0) y)

def execRankset (a b : BitVec 5) (s : State) : Host.Outcome State Fault Refusal :=
  issue (.rankset a b) s.onRankset s (ranksetBody a b)

/-! ### Taking messages (R315, R317) -/

/-- The guard of a cut: a message of the new colour is not taken on a core that has not stopped (18 R432). -/
def guarded (s : State) (u : Nat) (m : Msg) : Bool :=
  match s.cut with
  | some c => c.announced && !c.closed && c.job == m.job && c.notStopped.contains u && m.colour != c.old && m.kind != 3
  | none => false

/-- Whether slot k of a unit may take a message by RECV. -/
def takeable (s : State) (u k : Nat) (m : Msg) : Bool := (m.kind != 2 || (isCore u && k == 7)) && !guarded s u m

/-- Stores of consecutive words by one instruction of the slot. -/
def storeWords (s : State) (va : Nat) : List Word → Res State
  | [] => .ok s
  | w :: t => do
    let s ← storePart s s.mine.step va 8 w.toNat .store false false
    storeWords s (va + 8) t

/-- The ten words of a record. -/
def Msg.words (m : Msg) : List Word := wordsOf 10 m.bits

/-- RECV and RECVP. Taking a message acquires what it released; taking a box message (KIND 3) acquires nothing (R309). -/
def recvBody (poll : Bool) (d a : BitVec 5) (s : State) : Res State := do
  let u := s.cur.unit
  let (s, x) ← readX s a
  needAligned x.toNat 16
  match findPos (takeable s u s.cur.slot) (s.ni u).inbox with
  | none => if poll then writeX s d ones64 else .error (.park 8 0 (some 0))
  | some i =>
    match (s.ni u).inbox[i]? with
    | none => .ok s
    | some m => do
      (if m.kind = 3 then .ok () else waitAcquire s 5)
      waitMmrev s
      let s ← storeWords (if m.kind = 3 then s else s.acquired) x.toNat m.words
      let s := replayCheck (s.modNi u fun n => { n with inbox := dropAt n.inbox i }) u
      writeX s d m.hdr

def execRecv (d a : BitVec 5) (s : State) : Host.Outcome State Fault Refusal :=
  issue (.recv d a) s.onCoreUC s (recvBody false d a)

def execRecvp (d a : BitVec 5) (s : State) : Host.Outcome State Fault Refusal :=
  issue (.recvp d a) s.onCoreUC s (recvBody true d a)

/-- A record of ten words replayed by LOOPBK. Bytes after its LEN payload words, which Table 12.5 calls zero bytes and not held zero, stay
as they are (DESIGN CHOICE, log entry 44). -/
def replayMsg (s : State) (u : Nat) (ws : List Word) : Msg :=
  let h := nthWord ws 0
  { hdr := h, stamp := (nthWord ws 1).setWidth 48, payload := (ws.drop 2).take 8, rank := 0, reply := false,
    colour := (s.ni u).colour, job := (s.unit u).job, src := u, slot := 7, entry := 0 }

/-- The held-zero bits and vacant lengths of an incoming record. -/
def recordOk (ws : List Word) : Bool :=
  wfld (nthWord ws 0) 17 10 == 0 && decide (wfld (nthWord ws 0) 23 20 ≤ 8) && wfld (nthWord ws 1) 63 48 == 0

def loopbkBody (a b : BitVec 5) (s : State) : Res State := do
  let u := s.cur.unit
  need (s.cur.slot == 7) (.trap cIllegal 0)
  let (s, x, y) ← read2 s a b
  needAligned x.toNat 16
  let n := y.toNat
  needValue (decide (n ≤ 8) && decide (n + (s.ni u).inbox.length ≤ 64)) b
  if n = 0 then .ok (replayCheck (s.modNi u fun q => { q with replayarm := true }) u)
  else do
    let (s, ws) ← loadWords s x.toNat (10 * n)
    let recs := (upTo n).map fun i => (ws.drop (10 * i)).take 10
    need (recs.all recordOk) (.trap cIllegal x.toNat)
    .ok (recs.foldl (fun t r => enterInbox t u (replayMsg t u r)) s)

def execLoopbk (a b : BitVec 5) (s : State) : Host.Outcome State Fault Refusal :=
  issue (.loopbk a b) s.onCore s (loopbkBody a b)

/-! ### Handlers (R319, R320) -/

/-- CODEBASE of a job (16 Table 16.1). -/
def codeBase? (s : State) (j : BitVec 16) : Option Word := (jobWord? s j 1).map fun w => w64 (wfld w 55 0)

/-- HANDLER_START: an acquire at package scope of what the message released (R313); none starts while slots 0 to 6
are stopped, or where the job's descriptor cannot be read. -/
def execHandlerStart (u : Nat) (s : State) : Host.Outcome State Fault Refusal :=
  let x := s.unit u
  match findPos (fun m : Msg => m.kind == 2 && !guarded s u m) x.ni.inbox with
  | none => .next s
  | some i =>
    match x.ni.inbox[i]?, codeBase? s x.job with
    | some m, some base =>
      if !isCore u || (s.hart u 6).active || x.stopped || removing s x.job || !rdcClean s u then .next s
      else
        let a := storeBase u + 0x6FF80
        let t := (s.modNi u fun n => { n with inbox := dropAt n.inbox i }).put a 80 m.bits
        let t := replayCheck (t.wrote noHart (lineOf a)) u
        .next (t.modHart u 6 fun h =>
          { Slot.reset with
            x := [(10, m.hdr), (11, w64 (coreWindow + 0x6FF80))], active := true, pc := base + w64 (wfld m.hdr 63 32),
            instret := h.instret, held := h.held })
    | _, _ => .next s

def execHret (s : State) : Host.Outcome State Fault Refusal :=
  issue .hret s.onCore s fun s => do
    need (s.cur.slot == 6) .illegal
    .ok (s.modMe fun h => { Slot.reset with instret := h.instret, held := h.held })

/-! ### The watch (R323) -/

/-- The line that an address names: of memory, or of a window's store. -/
def watchedLine (s : State) (va : Nat) : Res (State × Nat) := do
  match ← windowAddr s va 1 .load with
  | some p => .ok (s, lineOf p)
  | none =>
    match translate s s.cur.unit s.mine.job va .load with
    | (_, .wait) => .error (.hold none)
    | (_, .raise c v) => raise c v
    | (t, .ok pa _) => .ok (t, lineOf pa)

/-- A park that keeps the effects already made; the instruction issues again (Table 1.3). -/
def parked (s : State) (code await : Nat) (on : Option Nat) : Res State :=
  if s.onCore && s.cur.slot == 6 then raise cIllegal code
  else
    .ok ((s.again 4).modMe fun h =>
      { h with park := BitVec.ofNat 4 code, await := BitVec.ofNat 6 await, waitOn := on, woken := false, resv := none })

/-- WAITA parks with no effect on the state before it but the watch, which it starts unless it watches the line already. -/
def waitaPark (pre : State) (l : Nat) : Res State := do
  need (!(pre.onCore && pre.cur.slot == 6)) (.trap cIllegal 4)
  .ok (takePark (if pre.me.wline = some l then pre else pre.modMe fun h => { h with wline := some l, whit := false }) 4 0 (some l))

def waitaBody (a : BitVec 5) (pre s : State) : Res State := do
  let (s, x) ← readX s a
  let (s, l) ← watchedLine s x.toNat
  if s.me.wline = some l ∧ s.me.whit then do
    waitAcquire s 6
    .ok s.acquired
  else waitaPark pre l

def execWaita (a : BitVec 5) (s : State) : Host.Outcome State Fault Refusal :=
  issue (.waita a) s.onCoreUC s (waitaBody a (s.modMe Slot.unpark))

/-! ### Named barriers (R324 to R330) -/

def State.barrier (s : State) (u b : Nat) : Barrier := fget (s.unit u).barriers b Barrier.reset
def State.setBarrier (s : State) (u b : Nat) (r : Barrier) : State :=
  s.modUnit u fun x => { x with barriers := fset x.barriers b r }

/-- A core's bit in a mask of its cluster. -/
def coreBit (u : Nat) : BitVec 16 := 1#16 <<< (u % 16)

/-- A record counts an arrival for a phase; the arriver's bit must lie in its own mask. -/
def Barrier.count (r : Barrier) (bit : BitVec 16) (a : Bool) : Barrier :=
  if r.mask &&& bit = 0 then r
  else if a = r.phase then { r with arr := r.arr ||| bit } else { r with narr := r.narr ||| bit }

/-- An arrival reaches a core: counted, or held while the record's job is switched out there (R330). -/
def barrierReach (s : State) (j : BitVec 16) (u b : Nat) (bit : BitVec 16) (a : Bool) : State :=
  if (s.unit u).job = j then s.setBarrier u b ((s.barrier u b).count bit a)
  else s.modCluster (u / 16) fun c => { c with barrHeld := c.barrHeld ++ [{ job := j, core := u, b := b, bit := bit, phase := a }] }

/-- The arrivals held for a core are counted once its job's context is back (R330). -/
def barrierRestore (s : State) (u : Nat) : State :=
  let j := (s.unit u).job
  let mine (e : BarrHeld) : Bool := e.core == u && e.job == j
  let held := (s.cluster (u / 16)).barrHeld
  let t := s.modCluster (u / 16) fun c => { c with barrHeld := c.barrHeld.filter fun e => !mine e }
  (held.filter mine).foldl (fun t e => t.setBarrier u e.b ((t.barrier u e.b).count e.bit e.phase)) t

/-- The number of a barrier from an operand whose bits 63:8 are held zero. -/
def barrierOf (s : State) (a : BitVec 5) : Res (State × Nat) := do
  let (s, x) ← readX s a
  needValue (wfld x 63 8 == 0) a
  .ok (s, x.toNat)

/-- The arrival of BARR and BARW: its phase, with MYPH flipped and every member's record told. -/
def arriveAt (s : State) (b : Nat) : Res (State × Bool) := do
  let u := s.cur.unit
  let r := s.barrier u b
  let bit := coreBit u
  need (r.mask &&& bit != 0) (.trap cBarrierMisuse b)
  need ((if r.myph = r.phase then r.arr else r.narr) &&& bit == 0) (.trap cBarrierMisuse b)
  let t := s.setBarrier u b { r with myph := !r.myph }
  let members := (upTo 16).filter fun i => r.mask.getLsbD i
  .ok (members.foldl (fun t i => barrierReach t s.mine.job (u / 16 * 16 + i) b bit r.myph) t, r.myph)

def execBarr (d a : BitVec 5) (s : State) : Host.Outcome State Fault Refusal :=
  issue (.barr d a) s.onCore s fun s => do
    let (s, b) ← barrierOf s a
    let (s, ph) ← arriveAt s b
    writeX s d (w64 (b2n ph))

/-- A BARW that comes back from its park does not arrive again (Table 1.3). One that was restored without the barrier that it awaits,
because its word could not be fetched then, finds it now and waits on (R18). -/
def barwBack (a : BitVec 5) (s t : State) : Res State :=
  let b := (t.me.reg a.toNat).toNat
  if s.me.waitOn = none ∧ (t.barrier t.cur.unit b).phase = s.me.await.getLsbD 0 then .error (.park 3 s.me.await.toNat (some b)) else .ok t

/-- BARW: the arrival, then the wait. -/
def barwBody (d a : BitVec 5) (s : State) : Res State := do
  need (s.cur.slot != 6) (.trap cIllegal 3)
  let (s, b) ← barrierOf s a
  let (s, ph) ← arriveAt s b
  let s ← writeX s d (w64 (b2n ph))
  if (s.barrier s.cur.unit b).phase != ph then .ok s else parked s 3 (32 + b2n ph) (some b)

def execBarw (d a : BitVec 5) (s : State) : Host.Outcome State Fault Refusal :=
  issue (.barw d a) s.onCore s fun t =>
    if s.me.park = 3 ∧ s.me.await.getLsbD 5 = true then barwBack a s t else barwBody d a t

def execBwait (a b : BitVec 5) (s : State) : Host.Outcome State Fault Refusal :=
  issue (.bwait a b) s.onCore s fun s => do
    let (s, n) ← barrierOf s a
    let (s, y) ← readX s b
    needValue (wfld y 63 1 == 0) b
    if (s.barrier s.cur.unit n).phase != wbit y 0 then .ok s else .error (.park 3 (wfld y 0 0) (some n))

def execBcfg (a b : BitVec 5) (s : State) : Host.Outcome State Fault Refusal :=
  issue (.bcfg a b) s.onCore s fun s => do
    let (s, n) ← barrierOf s a
    let (s, y) ← readX s b
    let mask : BitVec 16 := y.setWidth 16
    needValue (wfld y 63 16 == 0 && (mask == 0 || mask &&& coreBit s.cur.unit != 0)) b
    let r := s.barrier s.cur.unit n
    need (r.arr == 0 && r.narr == 0) (.trap cBarrierMisuse n)
    .ok (s.setBarrier s.cur.unit n { Barrier.reset with mask := mask })

/-- BSTAT's word (Table 12.6). -/
def Barrier.word (r : Barrier) : Word :=
  w64 (put r.narr.toNat 48 + put r.arr.toNat 32 + put r.mask.toNat 16 + bitAt r.myph 1 + b2n r.phase)

def execBstat (d a : BitVec 5) (s : State) : Host.Outcome State Fault Refusal :=
  issue (.bstat d a) s.onCore s fun s => do
    let (s, n) ← barrierOf s a
    writeX s d (s.barrier s.cur.unit n).word

/-- Whether a record is due to release. -/
def Barrier.due (r : Barrier) : Bool := r.mask != 0 && r.arr == r.mask

/-- BARRIER_RELEASE: every member record whose arrivals are complete releases in the same step (R327). -/
def execBarrierRelease (c b : Nat) (s : State) : Host.Outcome State Fault Refusal :=
  let due := if c < 12 then ((upTo 16).map (· + 16 * c)).filter fun u => (s.barrier u b).due else []
  .next (due.foldl (fun t u =>
    t.setBarrier u b { t.barrier u b with phase := !(t.barrier u b).phase, arr := (t.barrier u b).narr, narr := 0 }) s)

end Sys2Proof.Machine
end

