-- ==== Sys2Proof/Machine/Engines.lean ====
section
/-! DEFINITION. Bulk copies, gathers and scatters: the descriptor, the issue, the engines' steps, cancels and
completion (11 R277 to R295, R300). -/

namespace Sys2Proof.Machine

open Sys2Proof

/-! ### The descriptor (R278, R291, R293) -/

/-- CTL and GEO of a descriptor's words. -/
def dCtl (ws : List Word) : Word := nthWord ws 7
def dRows (ws : List Word) : Nat := wfld (nthWord ws 2) 63 32
def dRowBytes (ws : List Word) : Nat := wfld (nthWord ws 2) 31 0
def dGq (ws : List Word) : Bool := wbit (dCtl ws) 59
def dBmen (ws : List Word) : Bool := wbit (dCtl ws) 19
def dBmoff (ws : List Word) : Nat := wfld (dCtl ws) 18 0
/-- Bytes of the bitmap. -/
def dBmBytes (ws : List Word) : Nat := 8 * ceilDiv (ceilDiv (dRows ws * dRowBytes ws) 512) 64

/-- Core-store offsets that completion words and bitmaps may use. On an update core, whose store ends at 0x4_0000, a bitmap beyond
it is ILLEGAL in CTL like a completion word beyond it, where R278 gives the bitmap a core's limit only and 17 R405 a NO_RANGE for an
access there (DESIGN CHOICE, log entry 44). -/
def complLimit (u : Nat) : Nat := if isCore u then residentBase else storeSize u

/-- For each word of a descriptor, whether it breaks the rules of its form. Of several bad words the one of the lowest offset is
reported (log entry 44). -/
def descBad (u : Nat) (form : OpForm) (ws : List Word) : List Bool :=
  let w := nthWord ws
  let idx := form == .gather || form == .scatter
  let rows := dRows ws
  let rb := dRowBytes ws
  let gq := dGq ws && form == .gather
  let cw := (w 5).toNat
  let off := cw - coreWindow
  [ if form = .clipped then w 0 != 0 else wfld (w 0) 63 56 != 0,
    if gq then w 1 != 0 else wfld (w 1) 63 56 != 0,
    rows == 0 || rb == 0 || decide (2 ^ 24 < rows) || decide (2 ^ 24 < rb) || decide (2 ^ 32 < rows * rb)
      || (dBmen ws && decide (2 ^ 21 < rows * rb)) || (gq && (rb % 8 != 0 || decide (64 < rb))),
    false,
    gq && w 4 != 0,
    cw != 0 && (decide (cw < coreWindow) || cw % 8 != 0 || decide (complLimit u < off + 8)
      || (dBmen ws && decide (dBmoff ws ≤ off) && decide (off < dBmoff ws + dBmBytes ws))),
    wbit (w 6) 63,
    (w 7).toNat &&& 0xE07FFFFFFFF00000 != 0 || (dGq ws && form != .gather) || (!gq && wfld (w 7) 58 56 != 0)
      || (wbit (w 7) 55 && !idx) || (gq && dBmen ws) || dBmoff ws % 8 != 0 || (!dBmen ws && dBmoff ws != 0)
      || (dBmen ws && decide (complLimit u < dBmoff ws + dBmBytes ws)) ]
  ++ (if form = .clipped then
        [false, false, false, wfld (w 11) 31 0 == 0 || wfld (w 11) 63 32 == 0, w 12 != 0, w 13 != 0, w 14 != 0, w 15 != 0]
      else [])

/-- Clamp of a signed value to 0 .. n. -/
def clampTo (v : Int) (n : Nat) : Nat := min v.toNat n

/-- The clipped rows and bytes: ilo, ihi, clo, chi (R291); the whole box for the other forms. -/
def clipBox (form : OpForm) (ws : List Word) : Nat × Nat × Nat × Nat :=
  let rows := dRows ws
  let rb := dRowBytes ws
  if form = .clipped then
    let y0 := (nthWord ws 9).toInt
    let x0 := (nthWord ws 10).toInt
    (clampTo (-y0) rows, clampTo ((wfld (nthWord ws 11) 31 0 : Nat) - y0) rows,
     clampTo (-x0) rb, clampTo ((wfld (nthWord ws 11) 63 32 : Nat) - x0) rb)
  else (0, rows, 0, rb)

/-! ### Spans (R279, R293) -/

/-- A span of an operation. -/
structure ESpan where
  lo : Nat
  hi : Nat
  dest : Bool
  deriving DecidableEq, Repr

/-- The whole range or window that covers an address. An address that none covers, for the slot that issues, stands for
itself, and its check raises the cause. The core-store window of a slot below 7 ends before the resident handler's area, whose bytes are
then outside the span (R293; DESIGN CHOICE, log entry 44). -/
def coveringSpan (s : State) (va : Nat) : Nat × Nat :=
  let u := s.cur.unit
  let size := if isCore u && s.cur.slot != 7 then residentBase else storeSize u
  if coreWindow ≤ va ∧ va < coreWindow + size then (coreWindow, coreWindow + size - 1)
  else if isCore u ∧ quadWindow ≤ va ∧ va < quadWindow + 0x200000 then (quadWindow, quadWindow + 0x1FFFFF)
  else if windowBlock ≤ va then (va, va)
  else
    match (findRange s u s.mine.job va).2 with
    | some e => (e.vbase, e.last)
    | none => (va, va)

/-- The base of the source box: row 0, byte 0. -/
def srcBase (form : OpForm) (ws : List Word) : Word :=
  if form = .clipped then nthWord ws 8 + nthWord ws 9 * nthWord ws 3 + nthWord ws 10 else nthWord ws 0

/-- The span of rows ilo to ihi - 1 and bytes clo to chi - 1 of a box (R279, 01 R40): from its lowest address, of as many
bytes as it has without wrapping, so that a box that goes round the address space lies in no range. -/
def boxSpan (a : Word) (stride : Word) (b : Nat × Nat × Nat × Nat) (dest : Bool) : ESpan :=
  let first := (a + stride * w64 b.1 + w64 b.2.2.1).toNat
  let rows := b.2.1 - b.1
  let reach := (rows - 1) * stride.toInt.natAbs
  let lo := if stride.msb then (w64 first - w64 reach).toNat else first
  { lo := lo, hi := lo + reach + (b.2.2.2 - b.2.2.1) - 1, dest := dest }

/-- IDX and the bytes of an element. -/
def idxVa (form : OpForm) (ws : List Word) : Word := if form = .gather then nthWord ws 3 else nthWord ws 4
def idxSize (ws : List Word) : Nat := if wbit (dCtl ws) 55 then 8 else 4

/-- The spans, sources first. -/
def opSpans (s : State) (form : OpForm) (ws : List Word) : List ESpan :=
  let b := clipBox form ws
  let idx := idxVa form ws
  let list : ESpan := { lo := idx.toNat, hi := idx.toNat + idxSize ws * dRows ws - 1, dest := false }
  match form with
  | .copy => [boxSpan (nthWord ws 0) (nthWord ws 3) b false, boxSpan (nthWord ws 1) (nthWord ws 4) b true]
  | .clipped =>
    if b.2.1 ≤ b.1 ∨ b.2.2.2 ≤ b.2.2.1 then []
    else [boxSpan (srcBase form ws) (nthWord ws 3) b false, boxSpan (nthWord ws 1) (nthWord ws 4) b true]
  | .gather =>
    let r := coveringSpan s (nthWord ws 0).toNat
    [{ lo := r.1, hi := r.2, dest := false }, list]
      ++ (if dGq ws then [] else [boxSpan (nthWord ws 1) (nthWord ws 4) b true])
  | .scatter =>
    let r := coveringSpan s (nthWord ws 1).toNat
    [boxSpan (nthWord ws 0) (nthWord ws 3) b false, list, { lo := r.1, hi := r.2, dest := true }]

/-- A span inside a window of the issuing unit. -/
def windowSpan (s : State) (p : ESpan) : Res Unit :=
  let u := s.cur.unit
  if p.lo < coreWindow + storeSize u ∧ coreWindow ≤ p.lo then
    if isCore u && s.cur.slot != 7 && decide (coreWindow + residentBase ≤ p.hi) then
      raise cPermission (max p.lo (coreWindow + residentBase))
    else if coreWindow + storeSize u ≤ p.hi || p.hi < p.lo then raise cNoRange (coreWindow + storeSize u)
    else .ok ()
  else if isCore u && decide (quadWindow ≤ p.lo) && decide (p.lo < quadWindow + 0x200000) then
    if quadWindow + 0x200000 ≤ p.hi ∨ p.hi < p.lo then raise cNoRange (quadWindow + 0x200000) else .ok ()
  else raise cNoRange p.lo

/-- CheckSpan: the offset and VBASE of the range that holds the span; none for a window. -/
def checkSpan (s : State) (p : ESpan) : Res (State × Option (Word × Nat)) := do
  if windowBlock ≤ p.lo then
    windowSpan s p
    .ok (s, none)
  else
    checkWindows s p.lo (p.hi + 1 - p.lo) (if p.dest then .store else .load)
    match findRange s s.cur.unit s.mine.job p.lo with
    | (_, none) => raise cNoRange p.lo
    | (t, some e) =>
      need (e.state != stInvalid) (.trap cNoRange p.lo)
      need ((if p.dest then e.w else e.r) && !e.s && regionOf (e.pa p.lo) != 3) (.trap cPermission p.lo)
      need (backed t (e.pa p.lo)) (.trap cNoRange p.lo)
      need (e.state == stReturning || (!e.nowin && decide (e.rlo ≤ p.lo) && decide (p.lo ≤ e.rhi + 255))) (.trap cResidency p.lo)
      need (e.state == stReturning || decide (min p.hi e.last ≤ e.rhi + 255)) (.trap cResidency (e.rhi + 256))
      need (decide (p.lo ≤ p.hi) && decide (p.hi ≤ e.last)) (.trap cNoRange (e.last + 1))
      need (e.state != stMoving) (.hold none)
      .ok (t, some (if e.state = stReturning then e.noff else e.offset, e.vbase))

/-- Every span checked, in order. -/
def checkSpans (s : State) : List ESpan → Res (State × List (ESpan × Option (Word × Nat)))
  | [] => .ok (s, [])
  | p :: rest => do
    let (t, r) ← checkSpan s p
    let (t, rs) ← checkSpans t rest
    .ok (t, (p, r) :: rs)

/-! ### Chunks -/

/-- The pieces of payload bytes [lo, hi) as row, first byte and length. -/
def payloadRuns (rb lo hi : Nat) : List (Nat × Nat × Nat) :=
  if hi ≤ lo then []
  else ((upTo ((hi - 1) / rb - lo / rb + 1)).map fun j =>
    let i := lo / rb + j
    let a := max lo (i * rb)
    (i, a - i * rb, min hi ((i + 1) * rb) - a))

/-- The pieces of a chunk that lie in the clipped box. -/
def chunkRuns (o : EngineOp) (c : Nat) : List (Nat × Nat × Nat) :=
  (payloadRuns o.rowBytes (512 * c) (min (512 * (c + 1)) (o.rows * o.rowBytes))).filterMap fun (i, j, n) =>
    let a := max j o.clo
    let b := min (j + n) o.chi
    if o.ilo ≤ i ∧ i < o.ihi ∧ a < b then some (i, a, b - a) else none

/-- The address of a window byte in its store. -/
def windowStore (u va : Nat) : Nat :=
  if quadWindow ≤ va then quadBase (quadOf u) + (va - quadWindow) else storeBase u + (va - coreWindow)

/-- A chunk's bit in its bitmap is set: a write by the engine. -/
def setChunkBit (s : State) (u : Nat) (o : EngineOp) (c : Nat) : State :=
  if o.bmen then
    let a := storeBase u + o.bmoff + 8 * (c / 64)
    ((s.putW a (s.getW a ||| w64 (2 ^ (c % 64)))).wrote noHart (lineOf a))
  else s

/-! ### Completion (R286, R287) -/

/-- The completion word's value written, and the event delivered. -/
def reportOp (s : State) (u : Nat) (o : EngineOp) (v : Word) : State :=
  let s1 :=
    if o.cword = 0 then s
    else
      let a := windowStore u o.cword.toNat
      (s.putW a v).wrote noHart (lineOf a)
  if o.event then deliverPort s1 u o.slot portCompl v else s1

/-- An operation leaves: its locks are released and lock waits test again. The invalidations that its payload sent to the
unit's die are applied by then, so that an access that a lock held finds the payload (10 R266). -/
def releaseOp (s : State) (u : Nat) (n : BitVec 16) : State :=
  wakePark ((s.applyInvals (unitDie u)).modUnit u fun x =>
    { x with ops := x.ops.filter fun o => o.serial != n || o.phase == .own, locks := x.locks.filter fun l => l.serial != n }) u 12

/-! ### Issue (R279 to R282, R291, R292) -/

/-- The box message of a BCOPYC (R292, 12 R309). -/
def boxMessage (s : State) (b : Nat × Nat × Nat × Nat) (cval : Word) (handle : BitVec 16) : State :=
  let u := s.cur.unit
  let empty := decide (b.2.1 ≤ b.1) || decide (b.2.2.2 ≤ b.2.2.1)
  let c := (s.ni u).colour
  let m : Msg :=
    { hdr := w64 (put (handle.toNat % 256) 24 + put 4 20 + put 3 18 + (s.ni u).myrank.toNat), stamp := s.mine.step,
      payload := [cval, w64 (put b.2.1 32 + b.1), w64 (put b.2.2.2 32 + b.2.2.1), w64 (bitAt empty 16 + handle.toNat)],
      rank := 0, reply := false, colour := c, job := s.mine.job, src := u, slot := s.cur.slot, entry := 0 }
  arriveMsg (s.countSent u m.job c) u m

/-- The operation captured from a descriptor. -/
def captureOp (s : State) (form : OpForm) (ws : List Word) (sp : List (ESpan × Option (Word × Nat))) : EngineOp :=
  let b := clipBox form ws
  let off (i : Nat) : Option Word := ((sp[i]?).bind (·.2)).map (·.1)
  let ix : Nat × Nat := match form with
    | .gather => ((sp[0]?).map fun p => (p.1.lo, p.1.hi)).getD (0, 0)
    | .scatter => ((sp[2]?).map fun p => (p.1.lo, p.1.hi)).getD (0, 0)
    | _ => (0, 0)
  { form := form, serial := s.mine.serial, slot := s.cur.slot, step := s.mine.step, src := srcBase form ws,
    dst := nthWord ws 1, rows := dRows ws, rowBytes := dRowBytes ws, sstride := nthWord ws 3, dstride := nthWord ws 4,
    cword := nthWord ws 5, cval := nthWord ws 6, event := wbit (dCtl ws) 60, gq := dGq ws, gtag := wfld (dCtl ws) 58 56,
    isz := wbit (dCtl ws) 55, bmen := dBmen ws, bmoff := dBmoff ws, ilo := b.1, ihi := b.2.1, clo := b.2.2.1,
    chi := b.2.2.2, ixLo := ix.1, ixHi := ix.2, srcOff := off 0,
    dstOff := match form with | .copy | .clipped => off 1 | _ => off 2,
    ixOff := match form with | .gather | .scatter => off 1 | _ => none,
    phase := .sent, done := [], outside := none }

/-- The locks of the spans that lie in no window (10 R266). -/
def opLocks (n : BitVec 16) (sp : List (ESpan × Option (Word × Nat))) : List RangeLock :=
  sp.filterMap fun p => p.2.map fun r => { lo := p.1.lo, hi := p.1.hi, dest := p.1.dest, serial := n, vbase := r.2 }

/-- Two spans overlap. -/
def ESpan.meets (a b : ESpan) : Bool := spansMeet (a.lo, a.hi) (b.lo, b.hi)

/-- Operations of a slot that have not completed. -/
def opsOf (s : State) (u k : Nat) : List EngineOp := (s.unit u).ops.filter fun o => o.slot == k

/-- Under MMREV 2 a completion waits for those of the slot's earlier operations, and for its earlier stores (10 R268). -/
def completionWaits (s : State) (u k : Nat) (earlier : List EngineOp) : Bool :=
  isCore u && (s.unit u).mmrev == 2 && (earlier != [] || !performed s u k)

/-- The body of the four copying forms. -/
def engineBody (form : OpForm) (d a : BitVec 5) (s : State) : Res State := do
  let u := s.cur.unit
  let (s, x) ← readX s a
  let xa := x.toNat
  needAligned xa 64
  let (s, ws) ← loadWords s xa (if form = .clipped then 16 else 8)
  (match findPos id (descBad u form ws) with
   | some i => raise cIllegal (xa + 8 * i)
   | none => .ok ())
  (if form = .gather || form = .scatter then needAligned (idxVa form ws).toNat (idxSize ws) else .ok ())
  let spans := opSpans s form ws
  need (spans.all fun p => p.dest || spans.all fun q => !q.dest || !p.meets q) (.trap cIllegal (xa + 8))
  let (s, sp) ← checkSpans s spans
  let event := wbit (dCtl ws) 60
  need (!event || (s.me.portQueue portCompl).isSome) (.trap cQueueUnbound portCompl)
  need (!dGq ws || (s.me.portQueue (8 + wfld (dCtl ws) 58 56)).isSome) (.trap cQueueUnbound (8 + wfld (dCtl ws) 58 56))
  let o := captureOp s form ws sp
  let locks := opLocks o.serial sp
  need (decide ((s.mine.ops.filter fun p => p.phase != .own).length < Config.maxEngineOps) && decide (s.mine.locks.length + locks.length ≤ Config.lockEntries)) (.hold none)
  let s ← if o.bmen then storeWords s (coreWindow + o.bmoff) (List.replicate (dBmBytes ws / 8) 0) else .ok s
  let later := completionWaits s u s.cur.slot (opsOf s u s.cur.slot)
  let gone := if form = .clipped then (upTo o.chunkCount).filter fun c => chunkRuns o c == [] else []
  let s := gone.foldl (fun t c => setChunkBit t u o c) s
  let s := if form = .clipped then boxMessage s (clipBox form ws) o.cval o.serial else s
  let s :=
    if form = .clipped && spans == [] then
      if later then s.modMine fun m => { m with ops := m.ops ++ [{ o with done := gone, phase := .own }] } else reportOp s u o o.cval
    else s.modMine fun m => { m with ops := m.ops ++ [{ o with done := gone }], locks := m.locks ++ locks, serial := m.serial + 1 }
  writeX s d (o.serial.setWidth 64)

/-- The units of Table 3.11 for the engine forms. -/
def execBcopy (d a : BitVec 5) (s : State) : Host.Outcome State Fault Refusal :=
  issue (.bcopy d a) s.onCoreU s (engineBody .copy d a)

def execBcopyc (d a : BitVec 5) (s : State) : Host.Outcome State Fault Refusal :=
  issue (.bcopyc d a) s.onCoreU s (engineBody .clipped d a)

def execBgath (d a : BitVec 5) (s : State) : Host.Outcome State Fault Refusal :=
  issue (.bgath d a) s.onCoreU s (engineBody .gather d a)

def execBscat (d a : BitVec 5) (s : State) : Host.Outcome State Fault Refusal :=
  issue (.bscat d a) s.onCoreU s (engineBody .scatter d a)

/-! ### The engines (R283 to R285) -/

/-- An operation that has been sent, by its serial. -/
def EngineOp.isOp (o : EngineOp) (n : BitVec 16) : Bool := o.serial == n && o.phase != .own
def findOp (s : State) (u : Nat) (n : BitVec 16) : Option EngineOp := (s.unit u).ops.find? fun o => o.isOp n
def modOp (s : State) (u : Nat) (n : BitVec 16) (f : EngineOp → EngineOp) : State :=
  s.modUnit u fun x => { x with ops := x.ops.map fun o => if o.isOp n then f o else o }

/-- The first byte of which the home decides the engine: none in a window (Table 11.4). -/
def opFirstPa (o : EngineOp) : Option Nat :=
  match o.form with
  | .copy | .clipped => o.srcOff.map fun f => addOff (rowAddr o.src.toNat o.sstride o.ilo + o.clo) f
  | .gather =>
    match o.ixOff with
    | some f => some (addOff o.sstride.toNat f)
    | none => o.srcOff.map fun f => addOff o.src.toNat f
  | .scatter =>
    match o.ixOff with
    | some f => some (addOff o.dstride.toNat f)
    | none => o.dstOff.map fun f => addOff o.dst.toNat f

/-- The engine of an operation of unit u: streamer n mod 2 or the gather pool of station m is 3m, 3m + 1, 3m + 2;
copy engine 1 of unit u is 100 + u, which also serves an operation that no station's home decides (log entry 16). -/
def engineOf (s : State) (u : Nat) (o : EngineOp) : Nat :=
  match opFirstPa o with
  | none => 100 + u
  | some pa =>
    3 * (homeOf s pa).station + (match o.form with | .copy | .clipped => u % 2 | _ => 2)

/-- Operations of every unit that an engine is running. -/
def engineLoad (s : State) (g : Nat) : Nat :=
  (s.units.map fun p => (p.2.ops.filter fun o => o.phase == .started && engineOf s p.1 o == g).length).sum

/-- WAYBILL_ARRIVAL: the waybill is queued at its engine in the order of arrival. -/
def execWaybillArrival (u n : Nat) (s : State) : Host.Outcome State Fault Refusal :=
  match findOp s u (BitVec.ofNat 16 n) with
  | some o =>
    if o.phase = .sent then
      let g := engineOf s u o
      let t := modOp s u o.serial fun o => { o with phase := .queued }
      .next (if g < 18 then t.modStation (g / 3) fun m => { m with waybills := m.waybills ++ [(u, o.serial)] } else t)
    else .next s
  | none => .next s

/-- The operation whose turn it is at an engine. -/
def engineNext (s : State) (g : Nat) : Option (Nat × BitVec 16) :=
  if g < 18 then
    (s.station (g / 3)).waybills.find? fun p =>
      match findOp s p.1 p.2 with
      | some o => engineOf s p.1 o == g
      | none => false
  else ((s.unit (g - 100)).ops.find? fun o => o.phase == .queued && engineOf s (g - 100) o == g).map fun o => (g - 100, o.serial)

/-- ENGINE_START: the first source read issues. A streamer and a gather pool run 8 operations (R283). A copy engine runs one at a time, in
the order of their issue: of it the spec says nothing (DESIGN CHOICE, log entry 16). -/
def execEngineStart (u n : Nat) (s : State) : Host.Outcome State Fault Refusal :=
  match findOp s u (BitVec.ofNat 16 n) with
  | some o =>
    let g := engineOf s u o
    if o.phase = .queued ∧ engineNext s g = some (u, o.serial) ∧ engineLoad s g < (if g < 18 then 8 else 1) then
      let t := modOp s u o.serial fun o => { o with phase := .started }
      .next (if g < 18 then t.modStation (g / 3) fun m => { m with waybills := m.waybills.filter fun p => p != (u, o.serial) } else t)
    else .next s
  | none => .next s

/-- The order that has begun to switch a range outbound; a write of the range that comes then is too late to cancel it and
waits for the switch (15 R364). The switch waits in turn for the locks of an operation that is still under way (R353). -/
def switching (s : State) (e : RangeEntry) : Bool :=
  (findOrder s e.job e.vbase fun o => o.form == .offload && o.phase == .switched).isSome

/-- The place of a byte for an engine, and whether no cache keeps it (PERM N): the translation of the issue, with what the
range's state adds (R280). Only an operation that issued with the NOFF of a returning range waits for the cursor; one that
issued before goes on at its OFFSET (15 R350). None while it waits. -/
def enginePa (s : State) (u va : Nat) (off : Option Word) (write : Bool) : Option (State × Nat × Bool) :=
  match off with
  | none => some (s, windowStore u va, false)
  | some f =>
    match findRange s u (s.unit u).job va with
    | (t, none) => some (t, addOff va f, false)
    | (t, some e) =>
      if write && switching t e then none
      else if (e.state = stReturning && f == e.noff) || (e.state = stOutbound && write) then
        match stateRule t u e va (if write then .store else .load) with
        | (t, .ok pa _) => some (t, pa, e.n)
        | _ => none
      else some (t, redirectPa t (addOff va f), e.n)

/-- The spans of [va, va + n - 1] that lie in poisoned flits, as offset and length; its bytes lie at pa onward. -/
def badSpans (s : State) (va pa n : Nat) (nc : Bool) : List (Nat × Nat) :=
  (flits pa n).filterMap fun f =>
    let a := max pa (64 * f)
    if homeBadAs s nc f then some (va + a - pa, min (pa + n) (64 * f + 64) - a) else none

/-- n bytes read by an engine at a VA, with the spans of them that are poisoned (20 R457). -/
def engineRead (s : State) (u va n : Nat) (off : Option Word) : Option (State × Nat × List (Nat × Nat)) :=
  (blocks va (n / 256 + 2) n).foldlM (fun (st : State × Nat × List (Nat × Nat)) p => do
    let (t, pa, nc) ← enginePa st.1 u p.1 off false
    if pairLocked t (lineOf pa) then none
    else
      let (t, v) := t.engineLoad pa p.2 nc
      let bad := badSpans t (p.1 - va) pa p.2 nc
      some (t, st.2.1 + v * 2 ^ (8 * (p.1 - va)), st.2.2 ++ bad)) (s, 0, [])

/-- The flits of [pa, pa + n - 1] marked poisoned. -/
def poisonSpan (s : State) (pa n : Nat) : State :=
  (upTo ((pa + n - 1) / 64 - pa / 64 + 1)).foldl (fun t i => t.addPoison (pa / 64 + i)) s

/-- n bytes written by an engine; the flits that take bytes of a poisoned source flit are written poisoned (R285, 20 R457). -/
def engineWrite (s : State) (u va n v : Nat) (bad : List (Nat × Nat)) (off : Option Word) : Option State :=
  (blocks va (n / 256 + 2) n).foldlM (fun (t : State) p => do
    let (t, pa, nc) ← enginePa t u p.1 off true
    if pairLocked t (lineOf pa) then none
    else
      let k := p.1 - va
      let t := t.engineStore pa p.2 (v / 2 ^ (8 * k) % 2 ^ (8 * p.2)) nc
      some (bad.foldl (fun t b =>
        let lo := max k b.1
        let hi := min (k + p.2) (b.1 + b.2)
        if lo < hi then poisonSpan t (pa + (lo - k)) (hi - lo) else t) t)) s

/-- off(k) of an indexed form (R293). A poisoned element counts as the value it holds: the spec gives no effect (DESIGN CHOICE, log
entry 24). -/
def indexOff (s : State) (u : Nat) (o : EngineOp) (k : Nat) : Option (State × Word) :=
  let idx := (if o.form = .gather then o.sstride else o.dstride).toNat
  let z := if o.isz then 8 else 4
  match engineRead s u (idx + z * k) z o.ixOff with
  | none => none
  | some (t, v, _) => some (t, if o.isz then w64 v else w64 (v * o.rowBytes))

/-- Source and destination of row k: none while the engine waits, and no address for a row outside its span (R294). -/
def rowPlaces (s : State) (u : Nat) (o : EngineOp) (k : Nat) : Option (State × Option (Word × Word)) :=
  let inside (a : Word) : Bool := decide (o.ixLo ≤ a.toNat) && decide (a.toNat + o.rowBytes ≤ o.ixHi + 1)
  match o.form with
  | .copy | .clipped => some (s, some (o.src + o.sstride * w64 k, o.dst + o.dstride * w64 k))
  | .gather =>
    (indexOff s u o k).map fun (t, f) =>
      (t, if inside (o.src + f) then some (o.src + f, o.dst + o.dstride * w64 k) else none)
  | .scatter =>
    (indexOff s u o k).map fun (t, f) =>
      (t, if inside (o.dst + f) then some (o.src + o.sstride * w64 k, o.dst + f) else none)

/-- The bytes of a chunk moved: the state, and the lowest row found outside. None while the engine waits. -/
def moveChunk (s : State) (u : Nat) (o : EngineOp) (c : Nat) : Option (State × Option Nat) :=
  (chunkRuns o c).foldlM (fun (st : State × Option Nat) (i, j, n) => do
    let (t, pl) ← rowPlaces st.1 u o i
    match pl with
    | none => some (t, some ((st.2.map fun k => min k i).getD i))
    | some (sa, da) => do
      let (t, v, bad) ← engineRead t u (sa + w64 j).toNat n o.srcOff
      let t ← engineWrite t u (da + w64 j).toNat n v bad o.dstOff
      some (t, st.2)) (s, none)

/-- The lower of two rows. -/
def lowest (a b : Option Nat) : Option Nat :=
  match a, b with
  | some x, some y => some (min x y)
  | some x, none => some x
  | none, y => y

/-- The operations of the same slot issued before one. -/
def earlierOps (s : State) (u : Nat) (o : EngineOp) : List EngineOp :=
  ((s.unit u).ops.takeWhile fun p => !p.isOp o.serial).filter fun p => p.slot == o.slot

/-- A completion that the core itself owes and may write now: that of the oldest of a slot's operations. -/
def ownReport (s : State) (u : Nat) (n : BitVec 16) : Option EngineOp :=
  (s.unit u).ops.find? fun o =>
    o.phase == .own && o.serial == n && performed s u o.slot && decide ((opsOf s u o.slot).head? = some o)

/-- Only the first of those that an operation equals leaves. -/
def dropOwn (s : State) (u : Nat) (o : EngineOp) : State := s.modUnit u fun x => { x with ops := x.ops.erase o }

/-- ENGINE_CHUNK_LANDED: chunks land in any order, a scatter's in ascending order so that the higher row writes
last (R294). A chunk that a bitmap shows lands when a completion may (10 R268). -/
def execEngineChunkLanded (u n chunk : Nat) (s : State) : Host.Outcome State Fault Refusal :=
  match findOp s u (BitVec.ofNat 16 n) with
  | some o =>
    let due := o.phase == .started && !o.gq && decide (chunk < o.chunkCount) && !o.done.contains chunk
      && (o.form != .scatter || o.done.length == chunk) && !(o.bmen && completionWaits s u o.slot (earlierOps s u o))
    if due then
      match moveChunk s u o chunk with
      | none => .next s
      | some (t, out) =>
        let t := modOp t u o.serial fun o => { o with done := o.done ++ [chunk], outside := lowest o.outside out }
        .next (if out.isNone then setChunkBit t u o chunk else t)
    else .next s
  | none => .next s

/-- A queue of a slot takes words of a poisoned row: its register is poisoned (20 R455). The spec does not say what a poisoned row
does in a queue (DESIGN CHOICE, log entry 24). -/
def poisonQueue (s : State) (u k port : Nat) (bad : Bool) : State :=
  match bad, (s.hart u k).portQueue port with
  | true, some n => s.modHart u k fun h => { h with poison := if h.poison.contains (52 + n) then h.poison else h.poison ++ [52 + n] }
  | _, _ => s

/-- GATHER_ROW_DELIVERY: the next row enters the queue as words; a full queue holds the engine (R295). -/
def execGatherRowDelivery (u n : Nat) (s : State) : Host.Outcome State Fault Refusal :=
  match findOp s u (BitVec.ofNat 16 n) with
  | some o =>
    let k := o.done.length
    let port := 8 + o.gtag
    let blocked := (s.hart u o.slot).held.any fun p => p.1 == port
    if o.phase == .started && o.gq && decide (k < o.rows) && !blocked then
      match rowPlaces s u o k with
      | none => .next s
      | some (t, none) => .next (modOp t u o.serial fun o => { o with done := o.done ++ [k], outside := lowest o.outside (some k) })
      | some (t, some (sa, _)) =>
        match engineRead t u sa.toNat o.rowBytes o.srcOff with
        | none => .next s
        | some (t, v, bad) =>
          let t := poisonQueue (modOp t u o.serial fun o => { o with done := o.done ++ [k] }) u o.slot port (bad != [])
          .next ((wordsOf (o.rowBytes / 8) v).foldl (fun t w => deliverPort t u o.slot port w) t)
    else .next s
  | none => .next s

/-- OUTSIDE and CANCELLED (Table 11.6). -/
def outsideWord (k : Nat) : Word := w64 (0x8003000000000000 + k)
def cancelledWord : Word := 0x8001000000000000#64

/-- ENGINE_COMPLETE: after the last payload byte and chunk bit (R286). An empty box's completion, which the core writes itself, has its
turn here too (R291). -/
def execEngineComplete (u n : Nat) (s : State) : Host.Outcome State Fault Refusal :=
  match ownReport s u (BitVec.ofNat 16 n), findOp s u (BitVec.ofNat 16 n) with
  | some o, _ => .next (dropOwn (reportOp s u o o.cval) u o)
  | none, some o =>
    let all := if o.gq then o.done.length == o.rows && !(s.hart u o.slot).held.any fun p => p.1 == 8 + o.gtag
      else o.done.length == o.chunkCount
    if o.phase == .started && all && !completionWaits s u o.slot (earlierOps s u o) then
      .next (releaseOp (reportOp s u o ((o.outside.map outsideWord).getD o.cval)) u o.serial)
    else .next s
  | none, none => .next s

/-- An operation withdrawn before it started (R290). CANCELLED and its event come at once: they are no completion that MMREV 2 keeps in
issue order (10 R268; DESIGN CHOICE, log entry 16). -/
def withdrawOp (s : State) (u : Nat) (o : EngineOp) : State :=
  let g := engineOf s u o
  let t := if g < 18 then s.modStation (g / 3) fun m => { m with waybills := m.waybills.filter fun p => p != (u, o.serial) } else s
  releaseOp (reportOp t u o cancelledWord) u o.serial

/-- CANCEL_REQUEST: the request of slot k's BCANCEL reaches the engine after the operation's own waybill. -/
def execCancelRequest (u k : Nat) (s : State) : Host.Outcome State Fault Refusal :=
  match (s.hart u k).pipe with
  | .cancel n none =>
    let answer (t : State) (v : Nat) : State := t.modHart u k fun h => { h with pipe := .cancel n (some v) }
    match findOp s u (BitVec.ofNat 16 n) with
    | none => .next (answer s 1)
    | some o =>
      if o.phase = .sent then .next s
      else if o.phase = .queued then .next (answer (withdrawOp s u o) 0)
      else .next (answer s 1)
  | _ => .next s

def bcancelBody (d a : BitVec 5) (s : State) : Res State := do
  let (s, x) ← readX s a
  needValue (wfld x 63 16 == 0) a
  match s.me.pipe with
  | .cancel _ (some v) => writeX (s.modMe fun h => { h with pipe := .idle }) d (w64 v)
  | .cancel _ none => .error (.hold none)
  | _ =>
    if (findOp s s.cur.unit (x.setWidth 16)).isSome then .error (.hold (some (.cancel x.toNat none)))
    else writeX s d 2

def execBcancel (d a : BitVec 5) (s : State) : Host.Outcome State Fault Refusal :=
  issue (.bcancel d a) s.onCoreU s (bcancelBody d a)

/-- GATHER_ABANDON: a queue-mode gather that cannot deliver after the stop ends with no word and no event, and delivers nothing
of what it still held (18 R427). -/
def execGatherAbandon (u n : Nat) (s : State) : Host.Outcome State Fault Refusal :=
  match findOp s u (BitVec.ofNat 16 n) with
  | some o =>
    let blocked := (s.hart u o.slot).held.any fun p => p.1 == 8 + o.gtag
    if o.gq && o.phase == .started && (s.unit u).stopped && blocked then
      let t := (releaseOp s u o.serial).modUnit u fun x => { x with abandoned := x.abandoned ++ [o.serial] }
      .next (t.modHart u o.slot fun h => { h with held := h.held.filter fun p => p.1 != 8 + o.gtag })
    else .next s
  | none => .next s

/-! ### Chunk tests (R288, R289) -/

/-- The word of CTEST and CWAITM: an address in the core-store window, a multiple of 8. An update core's store ends at offset
0x4_0000, beyond which the load raises NO_RANGE (17 R405). -/
def testWord (a b : BitVec 5) (s : State) : Res (State × Nat × Word × Word) := do
  let (s, x, y) ← read2 s a b
  let va := x.toNat
  needValue (decide (coreWindow ≤ va) && decide (va < coreWindow + 0x80000) && va % 8 == 0) a
  let (s, v) ← loadWord s va
  .ok (s, va, v, y)

def execCtest (d a b : BitVec 5) (s : State) : Host.Outcome State Fault Refusal :=
  issue (.ctest d a b) s.onCoreU s fun s => do
    let (s, _, v, y) ← testWord a b s
    let ok := v &&& y == y
    (if ok && y != 0 then waitAcquire s 6 else .ok ())
    writeX (if ok && y != 0 then s.acquired else s) d (if ok then 1 else 0)

def execCwaitm (a b : BitVec 5) (s : State) : Host.Outcome State Fault Refusal :=
  issue (.cwaitm a b) s.onCoreU s fun s => do
    let (s, va, v, y) ← testWord a b s
    if v &&& y == y then do
      (if y != 0 then waitAcquire s 6 else .ok ())
      .ok (if y != 0 then s.acquired else s)
    else .error (.park 5 0 (some (lineOf (storeBase s.cur.unit + (va - coreWindow)))))

/-- The operations of a removed job end: nothing more of them is written, and their locks are released (R300). -/
def discardOps (s : State) (u : Nat) : State :=
  let t := (upTo 6).foldl (fun t m => t.modStation m fun x => { x with waybills := x.waybills.filter fun p => p.1 != u }) s
  wakePark (t.modUnit u fun x => { x with ops := [], locks := [] }) u 12

end Sys2Proof.Machine
end

