-- ==== Sys2Proof/Machine/Convoys.lean ====
section
/-! DEFINITION. Convoys (11 R296 to R299): requests, windows, lines sent down the tree, unicasts to late members,
arrivals and the end. -/

namespace Sys2Proof.Machine

open Sys2Proof

/-- A member: an entry of a core's reorder buffer. -/
def memberId (u r : Nat) : Nat := 32 * u + r

/-- The home slice that leads a box. -/
def leaderOf (s : State) (pa : Nat) : Nat × Nat := ((homeOf s pa).station, (homeOf s pa).slice)

/-- Distinct lines of an entry's pieces, ascending. -/
def placeLines (ps : List (Nat × Nat × Nat)) : List Nat := sortNat (ps.map fun p => lineOf p.2.1).dedup

/-- The box's first byte. -/
def firstPlace (ps : List (Nat × Nat × Nat)) : Nat := (ps.head?.map (·.2.1)).getD 0

/-- The convoy that a request would open (R296). -/
def convoyOf (u : Nat) (r : RobEntry) : Convoy :=
  let t : Tcw := ⟨r.e.tcw⟩
  { cluster := u / 16, pa := firstPlace r.places, stride := r.e.stride, rows := tcwRows t, cols := tcwCols t,
    mask := BitVec.ofNat 16 r.e.aux.toNat, tag := BitVec.ofNat 32 r.e.aux2.toNat, open_ := true, ended := false,
    lines := placeLines r.places, sent := 0, members := [memberId u r.id], late := [], inFlight := [] }

/-- Two requests match: every part of the key is the same. -/
def Convoy.sameKey (a b : Convoy) : Bool :=
  a.cluster == b.cluster && a.pa == b.pa && a.stride == b.stride && a.rows == b.rows && a.cols == b.cols
    && a.mask == b.mask && a.tag == b.tag

/-- A member's request is at the leader: it awaits every line. -/
def joinConvoy (s : State) (u : Nat) (r : RobEntry) : State :=
  s.modRob u r.id fun x => { x with joined := true, await := placeLines r.places, result := some (narrowTile 0) }

/-- CONVOY_REQUEST: joins a matching convoy, late once its window has closed, or opens one at a leader that runs
fewer than 4. -/
def execConvoyRequest (u r : Nat) (s : State) : Host.Outcome State Fault Refusal :=
  match (s.fe u).entry r with
  | some x =>
    let isTldm := match x.i with | .tldm _ => true | _ => false
    if !isTldm || x.phase != .issued || x.joined then .next s
    else
      let c := convoyOf u x
      match findPos (fun v : Convoy => !v.ended && c.sameKey v) s.convoys with
      | some i =>
        match s.convoys[i]? with
        | none => .next s
        | some v =>
          let w := if v.open_ then { v with members := v.members ++ c.members }
            else { v with members := v.members ++ c.members, late := v.late ++ [(memberId u r, v.lines.take v.sent)] }
          .next (joinConvoy { s with convoys := setAt s.convoys i w } u x)
      | none =>
        if (s.convoys.filter fun v => !v.ended && leaderOf s v.pa == leaderOf s c.pa).length < 4 then
          .next (joinConvoy { s with convoys := s.convoys ++ [c] } u x)
        else .next s
  | none => .next s

/-- CONVOY_WINDOW_CLOSE. -/
def execConvoyWindowClose (i : Nat) (s : State) : Host.Outcome State Fault Refusal :=
  match s.convoys[i]? with
  | some c => .next { s with convoys := setAt s.convoys i { c with open_ := false } }
  | none => .next s

/-- The pin of a convoy, one for each key, apart from those of TMMAD boxes. -/
def convoyPin (c : Convoy) : Nat :=
  [(2 ^ 64, c.stride.toNat), (2 ^ 7, c.rows), (2 ^ 8, c.cols), (2 ^ 16, c.mask.toNat), (2 ^ 32, c.tag.toNat), (2 ^ 4, c.cluster), (2 ^ 52, c.pa)].foldl
    (fun a p => a * p.1 + p.2) (2 ^ 20)

/-- A line as its home slice reads it, with its poisoned flits. -/
def homeLine (s : State) (line : Nat) : State × BitVec 2048 × BitVec 4 :=
  let (t, v) := s.homeLoad (linePa line) 256
  (t, BitVec.ofNat 2048 v, t.lineBad line)

/-- Where a line of a convoy lies now: at its new home once a running move has copied it (15 R363). -/
def movedLine (s : State) (line : Nat) : Nat := lineOf (redirectPa s (linePa line))

/-- CONVOY_LINE_SEND: the next line is read at its home, pinned there and sent once to every member; a late member
present receives it too (R297, R298). -/
def execConvoyLineSend (i : Nat) (s : State) : Host.Outcome State Fault Refusal :=
  match s.convoys[i]? with
  | some c =>
    match c.lines[c.sent]? with
    | some line =>
      let home := movedLine s line
      if c.open_ || c.ended || !canPin s home || pairLocked s home then .next s
      else
        let (t, d, p) := homeLine s home
        let t := t.pinLines (convoyPin c) [home]
        let c2 := { c with sent := c.sent + 1, inFlight := c.inFlight ++ c.members.map fun m => (m, line, d, p) }
        .next { t with convoys := setAt t.convoys i c2 }
    | none => .next s
  | none => .next s

/-- CONVOY_UNICAST: after the last convoy line, the first late member's next missed line, read when it is sent. -/
def execConvoyUnicast (i : Nat) (s : State) : Host.Outcome State Fault Refusal :=
  match s.convoys[i]? with
  | some c =>
    if c.open_ || c.ended || c.sent < c.lines.length then .next s
    else
      match c.late with
      | [] => .next s
      | (_, []) :: rest => .next { s with convoys := setAt s.convoys i { c with late := rest } }
      | (m, line :: more) :: rest =>
        if pairLocked s (movedLine s line) then .next s
        else
          let (t, d, p) := homeLine s (movedLine s line)
          let c2 := { c with late := if more == [] then rest else (m, more) :: rest, inFlight := c.inFlight ++ [(m, line, d, p)] }
          .next { t with convoys := setAt t.convoys i c2 }
  | none => .next s

/-- The bytes of a line that an entry's box takes. -/
def takeLine (x : RobEntry) (line : Nat) (d : BitVec 2048) : Nat :=
  (x.places.filter fun p => lineOf p.2.1 == line).foldl
    (fun a p => a + d.toNat / 2 ^ (8 * (p.2.1 % 256)) % 2 ^ (8 * p.2.2) * 2 ^ (8 * p.1)) 0

/-- The first poisoned byte that an entry reads of a line, by its place in the box. -/
def linePoison (x : RobEntry) (line : Nat) (p : BitVec 4) : Option Nat :=
  (x.places.filter fun y => lineOf y.2.1 == line).findSome? fun y =>
    ((upTo 4).filter fun f => p.getLsbD f && decide (y.2.1 % 256 < 64 * f + 64) && decide (64 * f < y.2.1 % 256 + y.2.2)).head?.map
      fun f => linePa line + 64 * f

/-- The VA of a byte of an entry's box from its PA. -/
def placeVa (x : RobEntry) (pa : Nat) : Nat :=
  match x.spans.find? fun q => lineOf q.2.1 == lineOf pa with
  | some q => q.1 + pa - q.2.1
  | none => pa

/-- CONVOY_LINE_ARRIVAL: the oldest line on its way to a core arrives, after the invalidations that were sent before it (10 R259); an
entry that was discarded takes nothing.
A poisoned flit of the box is a fault of the entry (20 Table 20.8). -/
def execConvoyLineArrival (i u : Nat) (s : State) : Host.Outcome State Fault Refusal :=
  match s.convoys[i]? with
  | some c =>
    match findPos (fun f : Nat × Nat × BitVec 2048 × BitVec 4 => f.1 / 32 == u) c.inFlight with
    | some j =>
      match c.inFlight[j]? with
      | some (m, line, d, p) =>
        let left := dropAt c.inFlight j
        let t := { s with convoys := if c.ended && left == [] then dropAt s.convoys i else setAt s.convoys i { c with inFlight := left } }
        match (t.fe u).entry (m % 32) with
        | some x =>
          if !x.joined || !x.await.contains line || x.phase != .issued || !Convoy.sameKey c (convoyOf u x) then .next t
          else
            match linePoison x line p with
            | some pa => .next (faultEntry t u x.id cPoison (w64 (placeVa x pa)))
            | none =>
              .next (((t.applyInvals (unitDie u)).modHart u 0 fun h => h.hasRead (linePa line) 256).modRob u x.id fun x =>
                { x with await := x.await.filter fun l => l != line,
                         result := x.result.map fun r => { r with img := r.img ||| BitVec.ofNat 196608 (takeLine x line d) } })
        | none => .next t
      | none => .next s
    | none => .next s
  | none => .next s

/-- Every core of the mask has joined. -/
def Convoy.full (c : Convoy) : Bool :=
  (upTo 16).all fun k => !c.mask.getLsbD k || c.members.any fun m => m / 32 == 16 * c.cluster + k

/-- Every core of the mask has joined and the last line, convoy or unicast, has left. -/
def Convoy.over (c : Convoy) : Bool := !c.open_ && !c.ended && c.full && c.sent == c.lines.length && c.late == []

/-- CONVOY_END: at the last line that leaves, when every core of the mask has joined, or at the limit of 4,096 cycles after
its window, whatever it has still to send. Its pins are released; lines that have left arrive. -/
def execConvoyEnd (i : Nat) (s : State) : Host.Outcome State Fault Refusal :=
  match s.convoys[i]? with
  | some c =>
    if c.open_ || c.ended then .next s
    else
      let t := s.unpin (convoyPin c)
      .next { t with convoys := if c.inFlight == [] then dropAt t.convoys i else setAt t.convoys i { c with ended := true } }
  | none => .next s

end Sys2Proof.Machine
end

