-- ==== Sys2Proof/Machine/Ranges.lean ====
section
/-! DEFINITION. The range instructions and the compaction engines' orders (15 R353 to R365). -/

namespace Sys2Proof.Machine

open Sys2Proof

/-! ### Blocks read at their home slice -/

/-- An address that R354 allows for a descriptor, an order block or a window block. -/
def needHomePa (s : State) (pa al : Nat) : Res Unit := need (homePaOk s pa al && backed s (pa + al - 1)) (.trap cIllegal pa)

/-- n bytes of region 0 or 1 read at the home slice, as words; the read waits for a line that is locked for a joint commit (17 R410). -/
def homeBlock (s : State) (pa n : Nat) : Res (State × List Word) := do
  need (!pairLocked s (lineOf pa) && !pairLocked s (lineOf (pa + n - 1))) (.hold none)
  let (t, v) := s.homeLoad pa n
  (match t.poisonIn pa n with
   | some f => raise cPoison (64 * f)
   | none => .ok ())
  .ok (t, wordsOf (n / 8) v)

/-- The word of a descriptor that breaks R348, if any. -/
def descBadWord (s : State) (v : Nat) : Option Nat :=
  let e := descOf 0 v
  let hz (i : Nat) : Bool := v / 2 ^ (64 * i) % 2 ^ 64 &&& descHz i != 0
  let win := !e.nowin
  let bad : List Bool :=
    [ hz 0, hz 1 || decide (e.vlimit < e.vbase) || decide (windowBlock ≤ e.last),
      hz 2 || !spanBacked s (addOff e.vbase e.offset) (addOff e.last e.offset),
      hz 3 || ((e.state == stMoving || e.state == stReturning)
        && !spanBacked s (addOff e.vbase e.noff) (addOff e.last e.noff)),
      hz 4 || (win && decide (e.rlo < e.vbase)), hz 5 || (win && (decide (e.rhi < e.rlo) || decide (e.vlimit < e.rhi))),
      hz 6 || decide (4 < e.state.toNat) || (e.s && e.x) || (e.s && e.n), hz 7 ]
  findPos id bad

/-- The fields at a descriptor's PA, whatever they are. -/
def rawDesc (s : State) (pa : Nat) : Res (State × RangeEntry) := do
  needHomePa s pa 64
  let (t, ws) ← homeBlock s pa 64
  .ok (t, descOf pa (ofWords ws))

/-- A well-formed descriptor at a PA, or ILLEGAL with the PA of the word that breaks a rule. -/
def goodDesc (s : State) (pa : Nat) : Res (State × RangeEntry) := do
  let (t, e) ← rawDesc s pa
  match descBadWord t (t.get pa 64) with
  | some i => raise cIllegal (pa + 8 * i)
  | none => .ok (t, e)

/-- A well-formed descriptor in state normal. -/
def normalDesc (s : State) (pa : Nat) : Res (State × RangeEntry) := do
  let (t, e) ← goodDesc s pa
  need (e.state == stNormal) (.trap cIllegal (pa + 48))
  .ok (t, e)

/-! ### Broadcasts of an instruction (R353) -/

/-- FENCE.S at system scope. -/
def fenceSystem (s : State) : Res State := do
  waitRelease s
  waitAcquire s 6
  .ok s.acquired

/-- The broadcast is sent, and the instruction stays in the pipe for its drain. -/
def sendAndWait (s : State) (b : Bcast) (job : BitVec 16) (vbase : Option Nat) (off : Option Word)
    (spans : List (Nat × Nat)) : State :=
  let t := s.broadcast b
  (t.again 4).modMe fun h => { h with pipe := .broadcast t.bcasts.length job vbase off spans }

/-- The end of a range instruction: every table has applied the broadcast and its spans are drained. -/
def drainDone (s : State) : Res State :=
  match s.me.pipe with
  | .broadcast n job vbase off spans =>
    if allSeen s n && spans.all fun p => drained s job vbase off p.1 p.2 n false then
      .ok (s.modMe fun h => { h with pipe := .idle })
    else .error (.hold none)
  | _ => .ok s

/-- A range instruction: its first part, then the wait for its broadcast. -/
def rangeInstr (i : Instr) (s : State) (first : State → Res State) : Host.Outcome State Fault Refusal :=
  issue i s.onSys s fun t =>
    match t.me.pipe with
    | .broadcast _ _ _ _ _ => drainDone t
    | _ => first t

/-! ### RINS, RSPLIT, RMERGE, RINVAL, RRES, RPROBE (R355 to R359) -/

/-- The bytes of the entries that a new range drops, in every table: the drain rule is theirs (R355). -/
def staleSpans (s : State) (e : RangeEntry) : List (Nat × Nat) :=
  ((upTo tableUnits).flatMap fun u => ((s.tableOf u).filter fun f => f.job == e.job && f.meets e.vbase e.last).map fun f => (f.vbase, f.last)).dedup

def rinsBody (a : BitVec 5) (s : State) : Res State := do
  let (s, x) ← readX s a
  let (s, e) ← normalDesc s x.toNat
  let s ← fenceSystem s
  .ok (sendAndWait s (.drop e.job e.vbase e.last) e.job none none ((e.vbase, e.last) :: staleSpans s e))

def execRins (a : BitVec 5) (s : State) : Host.Outcome State Fault Refusal := rangeInstr (.rins a) s (rinsBody a)

/-- RSPLIT. The upper part's descriptor is the one that a walk of its first byte finds, where software has placed it. -/
def rsplitBody (a b : BitVec 5) (s : State) : Res State := do
  let (s, x, y) ← read2 s a b
  let (s, e) ← normalDesc s x.toNat
  need (y.toNat % 256 == 0 && e.vlimit + 256 == y.toNat) (.trap cIllegal (x.toNat + 8))
  let s ← fenceSystem s
  .ok (sendAndWait s (.split e y.toNat (((walk? s y.toNat e.job).map (·.desc)).getD e.desc)) e.job none none [])

def execRsplit (a b : BitVec 5) (s : State) : Host.Outcome State Fault Refusal :=
  rangeInstr (.rsplit a b) s (rsplitBody a b)

/-- The window covers the whole range. -/
def RangeEntry.wholeWindow (e : RangeEntry) : Bool := !e.nowin && decide (e.rlo ≤ e.vbase) && decide (e.vlimit ≤ e.rhi)

def rmergeBody (a b : BitVec 5) (s : State) : Res State := do
  let (s, x, y) ← read2 s a b
  let xb := y.toNat
  let (s, e) ← normalDesc s x.toNat
  let (s, u) ← rawDesc s xb
  need (decide (e.vbase < u.vbase)) (.trap cIllegal xb)
  need (u.vlimit == e.vlimit) (.trap cIllegal (xb + 8))
  need (u.offset == e.offset) (.trap cIllegal (xb + 16))
  need ((u.nowin && e.nowin) || (u.wholeWindow && e.wholeWindow)) (.trap cIllegal (xb + 32))
  need (u.state == stInvalid && u.job == e.job && u.r == e.r && u.w == e.w && u.x == e.x && u.s == e.s && u.n == e.n)
    (.trap cIllegal (xb + 48))
  let s ← fenceSystem s
  .ok (sendAndWait s (.merge u.vbase e) e.job none none [])

def execRmerge (a b : BitVec 5) (s : State) : Host.Outcome State Fault Refusal :=
  rangeInstr (.rmerge a b) s (rmergeBody a b)

def rinvalBody (a : BitVec 5) (s : State) : Res State := do
  let (s, x) ← readX s a
  let (s, e) ← rawDesc s x.toNat
  need (e.state == stInvalid) (.trap cIllegal (x.toNat + 48))
  need (findOrder s e.job e.vbase fun _ => true).isNone (.trap cIllegal x.toNat)
  let s ← fenceSystem s
  .ok (sendAndWait s (.dropBase e.job e.vbase) e.job (some e.vbase) (some e.offset) [(e.vbase, e.last)])

def execRinval (a : BitVec 5) (s : State) : Host.Outcome State Fault Refusal := rangeInstr (.rinval a) s (rinvalBody a)

/-- The bytes of [a, b] outside a window. -/
def lostBytes (lo hi : Nat) (n : RangeEntry) : List (Nat × Nat) :=
  if n.nowin then [(lo, hi)]
  else (if lo < n.rlo then [(lo, min hi (n.rlo - 1))] else []) ++ (if n.rhi + 255 < hi then [(max lo (n.rhi + 256), hi)] else [])

def rresBody (a b : BitVec 5) (s : State) : Res State := do
  let (s, x, y) ← read2 s a b
  let xb := y.toNat
  let (s, e) ← normalDesc s x.toNat
  needHomePa s xb 16
  let (s, ws) ← homeBlock s xb 16
  let w0 := nthWord ws 0
  let w1 := nthWord ws 1
  let n := { e with nowin := wbit w0 63, rlo := wfld w0 55 8 * 256, rhi := wfld w1 55 8 * 256 }
  need (w0 &&& 0x7F000000000000FF#64 == 0 && (n.nowin || decide (e.vbase ≤ n.rlo))) (.trap cIllegal xb)
  need (w1 &&& 0xFF000000000000FF#64 == 0 && (n.nowin || (decide (n.rlo ≤ n.rhi) && decide (n.rhi ≤ e.vlimit)))) (.trap cIllegal (xb + 8))
  let s ← fenceSystem s
  let s := writeDesc s n
  let lost := if e.nowin then [] else lostBytes e.rlo (e.rhi + 255) n
  .ok (sendAndWait s (.update n) e.job (some e.vbase) (some e.offset) lost)

def execRres (a b : BitVec 5) (s : State) : Host.Outcome State Fault Refusal := rangeInstr (.rres a b) s (rresBody a b)

def rprobeBody (d a : BitVec 5) (s : State) : Res State := do
  let (s, x) ← readX s a
  needHomePa s x.toNat 16
  let (s, ws) ← homeBlock s x.toNat 16
  need (wfld (nthWord ws 1) 63 16 == 0) (.trap cIllegal (x.toNat + 8))
  match walk? s (nthWord ws 0).toNat ((nthWord ws 1).setWidth 16) with
  | none => writeX s d (w64 (2 ^ 63))
  | some e => writeX s d (w64 (e.desc % 2 ^ 52 / 64 * 64 + e.state.toNat))

def execRprobe (d a : BitVec 5) (s : State) : Host.Outcome State Fault Refusal :=
  issue (.rprobe d a) s.onSys s (rprobeBody d a)

/-! ### Orders (R360, R361) -/

/-- Whether a range's span under an offset lies in backed bytes of one region that satisfies p. -/
def mapsInto (s : State) (e : RangeEntry) (off : Word) (p : Nat → Bool) : Bool :=
  let lo := addOff e.vbase off
  spanBacked s lo (addOff e.last off) && p (regionOf lo)

/-- The region rule of a form. -/
def regionRule (s : State) (form : OrderForm) (e : RangeEntry) (noff : Word) : Bool :=
  let hbm (r : Nat) : Bool := decide (r < 2)
  match form with
  | .move => mapsInto s e e.offset hbm && mapsInto s e noff hbm
      && !spansMeet (addOff e.vbase e.offset, addOff e.last e.offset) (addOff e.vbase noff, addOff e.last noff)
  | .offload => mapsInto s e e.offset hbm && mapsInto s e noff (· == 2)
  | .back => mapsInto s e e.offset (· == 2) && mapsInto s e noff hbm

/-- The state of the range during an order. -/
def orderState (form : OrderForm) : BitVec 3 :=
  match form with
  | .move => stMoving
  | .offload => stOutbound
  | .back => stReturning

/-- A descriptor for an order: one that is not in state normal is answered, and any other must be well formed. -/
def orderDesc (s : State) (pa : Nat) : Res (State × RangeEntry) := do
  let (t, e) ← rawDesc s pa
  if e.state = stNormal then goodDesc s pa else .ok (t, e)

/-- The descriptor word or order word that breaks a form's region rule: the descriptor's OFFSET, else NOFF. -/
def regionWord (s : State) (form : OrderForm) (e : RangeEntry) (xa xb : Nat) : Nat :=
  let home := mapsInto s e e.offset fun r => decide (r < 2)
  let far := mapsInto s e e.offset (· == 2)
  if (if form = .back then far else home) then xb else xa + 16

/-- The body of RMOVE, BOFFL and BRET. -/
def orderBody (form : OrderForm) (d a b : BitVec 5) (s : State) : Res State := do
  let (s, x, y) ← read2 s a b
  let xb := y.toNat
  let (s, e) ← orderDesc s x.toNat
  needHomePa s xb 32
  let (s, ws) ← homeBlock s xb 32
  let noff := nthWord ws 0
  let cword := (nthWord ws 1).toNat
  need (wfld noff 7 0 == 0) (.trap cIllegal xb)
  need (homePaOk s cword 8) (.trap cIllegal (xb + 8))
  need (!wbit (nthWord ws 2) 63) (.trap cIllegal (xb + 16))
  need (nthWord ws 3 == 0) (.trap cIllegal (xb + 24))
  if e.state != stNormal || (form == .back && mapsInto s e e.offset fun r => decide (r < 2)) then writeX s d 1
  else do
    need (regionRule s form e noff) (.trap cIllegal (regionWord s form e x.toNat xb))
    let m := (homeOf s (addOff e.vbase (if form = .offload then e.offset else noff))).station
    if 4 ≤ (s.station m).orders.length then writeX s d 2
    else do
      let s ← fenceSystem s
      let n := { e with state := orderState form, noff := noff, cursor := e.vbase }
      let s := (writeDesc s n).broadcast (.update n)
      let o : Order := { form := form, entry := n, noff := noff, cword := cword, cval := nthWord ws 2, phase := .drain,
                         pos := e.vbase, seen := s.bcasts.length }
      writeX (s.modStation m fun t => { t with orders := t.orders ++ [o] }) d 0

def execRmove (d a b : BitVec 5) (s : State) : Host.Outcome State Fault Refusal :=
  issue (.rmove d a b) s.onSys s (orderBody .move d a b)

def execBoffl (d a b : BitVec 5) (s : State) : Host.Outcome State Fault Refusal :=
  issue (.boffl d a b) s.onSys s (orderBody .offload d a b)

def execBret (d a b : BitVec 5) (s : State) : Host.Outcome State Fault Refusal :=
  issue (.bret d a b) s.onSys s (orderBody .back d a b)

/-- RANGE_BROADCAST_ARRIVAL. The ports' tables take a broadcast with that of unit 0, and inbound requests that waited go on. -/
def execRangeBroadcastArrival (u : Nat) (s : State) : Host.Outcome State Fault Refusal :=
  onlyIf (decide (u < 244)) s (if u = 0 then drainPorts (s.bcastArrive u) else s.bcastArrive u)

/-- The i-th order of a station. -/
def orderAt (s : State) (m i : Nat) : Option Order := (s.station m).orders[i]?
def setOrder (s : State) (m i : Nat) (o : Order) : State := s.modStation m fun x => { x with orders := setAt x.orders i o }

/-- The drain of an order's entry; a BOFFL waits for destination locks only. Under the entry of a running order, accesses
in flight may have either offset. -/
def orderDrained (s : State) (o : Order) (destOnly : Bool) : Bool :=
  drained s o.entry.job (some o.entry.vbase) (some o.entry.offset) o.entry.vbase o.entry.last o.seen destOnly
    && (o.phase == .drain || o.form == .offload || !inFlight s o.entry.job (some o.noff) o.entry.vbase o.entry.last)

/-- ORDER_DRAIN_END. -/
def execOrderDrainEnd (m i : Nat) (s : State) : Host.Outcome State Fault Refusal :=
  match orderAt s m i with
  | some o =>
    if o.phase == .drain && orderDrained s o (o.form == .offload) then .next (setOrder s m i { o with phase := .copy })
    else .next s
  | none => .next s

/-- A line locked at its old home: every L1 and RDC copy is invalidated and its data taken (R363). -/
def lockOld (s : State) (line : Nat) : State :=
  let s1 := s.l2Fill line false
  let x := s1.dirOf line
  let d := homeDie s (linePa line)
  let s2 := s1.dropQuads d x.quads line none
  let s3 := if x.remote then s2.rdcDrop (otherDie d) line else s2
  s3.l2Set { x with presence := 0, owner := none, remote := false, dirty := x.dirty || x.owner.isSome }

/-- The cursor published: written into the descriptor and broadcast (R361). -/
def publishCursor (s : State) (o : Order) : State :=
  (writeDesc s { o.entry with cursor := o.pos }).broadcast (.cursor o.entry.job o.entry.vbase o.pos)

/-- Whether a sweep has visited the word at a place (17 R404). -/
def sweepSeen (s : State) (w : Sweep) (pa : Nat) : Bool :=
  (decide (pa < fget w.pos (homeOf s pa).station 0) || w.skip.contains pa) && !w.extra.contains pa

/-- The word at a place counts as visited by a sweep, or as still to be visited. -/
def sweepMark (s : State) (w : Sweep) (pa : Nat) (seen : Bool) : Sweep :=
  let w := { w with extra := w.extra.filter fun x => x != pa, skip := w.skip.filter fun x => x != pa }
  if decide (pa < fget w.pos (homeOf s pa).station 0) == seen then w
  else if seen then { w with skip := pa :: w.skip } else { w with extra := pa :: w.extra }

/-- The words of a line that an order of a range with S copies are to a running sweep of the job's domain what they were at their old
place (17 R404). -/
def sweepMove (s : State) (o : Order) (src dst : Nat) : State :=
  match (if o.entry.s then jobWord? s o.entry.job 0 else none) with
  | some j =>
    let d := wfld j 20 18
    let w := fget s.pkg.sweep d Sweep.reset
    if w.run then
      let w := (upTo 32).foldl (fun w i => sweepMark s w (dst + 8 * i) (sweepSeen s w (src + 8 * i))) w
      s.modPkg fun p => { p with sweep := fset p.sweep d w }
    else s
  | none => s

/-- ORDER_COPY_LINE: one line read at its old PA and written at its new one; the cursor is published after every 16
lines and after the last. -/
def execOrderCopyLine (m i : Nat) (s : State) : Host.Outcome State Fault Refusal :=
  match orderAt s m i with
  | some o =>
    let src := addOff o.pos o.entry.offset
    let dst := addOff o.pos o.noff
    if o.phase != .copy || o.entry.last < o.pos || pairLocked s (lineOf src) || pairLocked s (lineOf dst)
        || pairLocked s (lineOf o.entry.desc) then .next s
    else
      let t := if o.form = .move then lockOld s (lineOf src) else s
      let (t, d, p) := homeLine t (lineOf src)
      let t := t.homeStore dst 256 d.toNat
      let t := (upTo 4).foldl (fun t f => if p.getLsbD f then t.addPoison (dst / 64 + f) else t) t
      let t := sweepMove t o src dst
      let o := { o with pos := o.pos + 256 }
      let t := if (o.pos - o.entry.vbase) / 256 % 16 = 0 || o.entry.last < o.pos then publishCursor t o else t
      .next (setOrder t m i o)
  | none => .next s

/-- The final fields of a range (R360). -/
def finalEntry (o : Order) : RangeEntry :=
  let e := { o.entry with state := stNormal, offset := o.noff, cursor := o.pos }
  match o.form with
  | .move => e
  | .offload => { e with nowin := true }
  | .back => { e with nowin := false, rlo := e.vbase, rhi := e.vlimit }

/-- ORDER_SWITCH: after the last line. -/
def execOrderSwitch (m i : Nat) (s : State) : Host.Outcome State Fault Refusal :=
  match orderAt s m i with
  | some o =>
    if o.phase == .copy && decide (o.entry.last < o.pos) && !pairLocked s (lineOf o.entry.desc) then
      let t := (writeDesc s (finalEntry o)).broadcast (.update (finalEntry o))
      .next (setOrder t m i { o with phase := .switched, seen := t.bcasts.length })
    else .next s
  | none => .next s

/-- ORDER_COMPLETION: the switch has completed under the drain rule for the old entry; CVAL is written. -/
def execOrderCompletion (m i : Nat) (s : State) : Host.Outcome State Fault Refusal :=
  match orderAt s m i with
  | some o =>
    if o.phase == .switched && orderDrained s o false && !pairLocked s (lineOf o.cword) then
      .next ((s.homeStore o.cword 8 o.cval.toNat).modStation m fun x => { x with orders := dropAt x.orders i })
    else .next s
  | none => .next s

/-- REDIRECT: a unit's entry takes the engine's cursor (R363). -/
def execRedirect (u : Nat) (va : Word) (s : State) : Host.Outcome State Fault Refusal :=
  match lookup? s u (s.unit u).job va.toNat with
  | some e =>
    match (if e.state = stMoving && decide (e.cursor ≤ va.toNat) then redirectCursor s e va.toNat else none) with
    | some c => .next (s.setTable u ((s.tableOf u).map fun f => if f = e then { e with cursor := c } else f))
    | none => .next s
  | none => .next s

/-- ORDER_CANCEL: a write under an outbound entry cancels its order before the switch; after it, the answer is too
late and changes nothing (R364). -/
def execOrderCancel (u : Nat) (va : Word) (s : State) : Host.Outcome State Fault Refusal :=
  match lookup? s u (s.unit u).job va.toNat with
  | some e =>
    if e.state = stOutbound ∧ e.w then
      match orderOf s .offload e with
      | some (m, i, o) => .next (if o.phase = .switched || cancelWaits s o then s else cancelOrder s m i o va.toNat)
      | none => .next s
    else .next s
  | none => .next s

/-- A removed job's orders stop after the line being copied, with their last cursor published (20 R446). -/
def stopOrders (s : State) (job : BitVec 16) : State :=
  (upTo 6).foldl (fun t m =>
    let mine := (t.station m).orders.filter fun o => o.entry.job == job
    let t := mine.foldl (fun t o => if o.phase = .copy then publishCursor t o else t) t
    t.modStation m fun x => { x with orders := x.orders.filter fun o => o.entry.job != job }) s

end Sys2Proof.Machine
end

