-- ==== Sys2Proof/Machine/Images.lean ====
section
/-! DEFINITION. Slot images, tile parts and core blocks: their contents, their checks and their restoration
(18 R421 to R426, Tables 18.5 to 18.8), and the device's access to them. -/

namespace Sys2Proof.Machine

open Sys2Proof

/-! ### Saved park state (Table 18.5) -/

/-- PARK, AWAIT and PC of a stopped slot as its image holds them. -/
def Slot.parkSaved (h : Slot) : Nat × Nat × Word :=
  match h.park.toNat with
  | 0 => (0, 0, h.pc)
  | 4 => (0, 0, h.pc + 4)
  | 9 => (9, 0, h.hxepc)
  | 10 => (0, 0, h.pc)
  | 11 => (0, 0, h.pc)
  | 12 => (0, 0, h.pc)
  | p => (p, h.await.toNat, h.pc)

/-- The PARK codes that an image may hold. -/
def parkSavedOk (p : Nat) : Bool := [0, 1, 2, 3, 5, 6, 8, 9, 13].contains p

/-! ### The slot image (Table 18.6) -/

/-- Bytes of a slot image. -/
def imageSize : Nat := 0x2000

/-- Words 0 to 511: everything but the vector registers. -/
def imageHead (h : Slot) : List Word :=
  let (park, await, pc) := h.parkSaved
  let stat := statWord { h with park := BitVec.ofNat 4 park, await := BitVec.ofNat 6 await }
  let q (n : Nat) : List Word := (h.queue n).take 8
  (upTo 32).map (fun i => h.reg i)
    ++ [pc, w64 stat, h.vl.setWidth 64, w64 (bitAt h.vill 63 + h.ew.toNat), h.fflags.setWidth 64, h.frm.setWidth 64,
        h.qbind, h.stage.setWidth 64]
    ++ (upTo 4).map (fun i => (h.gen i).cfg)
    ++ (upTo 4).map (fun i => if (h.gen i).bound then (h.gen i).next else (h.gen i).last)
    ++ [h.hxtrap, h.hxtval, h.hxepc, h.cont, w64 ((upTo 8).map fun n => put (q n).length (8 * n)).sum, 0, 0, 0]
    ++ (upTo 8).map (fun i => if park = 9 then nthWord h.trapRec i else 0)
    ++ (upTo 8).flatMap (fun n => (upTo 8).map fun i => nthWord (q n) i)
    ++ (upTo 4).map (fun i => fget h.m i 0)

/-- An active slot's image, as a little-endian number. -/
def slotImage (h : Slot) : Nat :=
  ofWords (imageHead h) + ((upTo 16).map fun r => put (fget h.v r 0).toNat (8 * (0x800 + 256 * r))).sum

/-- The 64-byte flits of an image that a poisoned register makes poisoned (20 R457). -/
def poisonFlits (p : Nat) : List Nat :=
  if p < 32 then [p / 8]
  else if p < 48 then (upTo 4).map fun i => 32 + 4 * (p - 32) + i
  else if p < 52 then [16]
  else [8 + (p - 52)]

def imageFlits (h : Slot) : List Nat := (h.poison.flatMap poisonFlits).dedup

/-- Word i of an image. -/
def imgWord (v i : Nat) : Word := w64 (v / 2 ^ (64 * i))

/-- The bits of word i of a trap record that are held zero or not listed (Table 18.2). -/
def recordHz (i : Nat) : Nat :=
  if i = 0 then 0xE00000
  else if i = 4 then 0xFFFFFFFF00000000
  else if i = 5 then 0xFFFF000000000000
  else if i = 6 then 0xFF00000000000000
  else 0

/-- The bits of word i of a slot image that are held zero; `rec`: the image holds a trap record. -/
def imageHz (rec : Bool) (i : Nat) : Nat :=
  let all := 2 ^ 64 - 1
  if i = 0 then all
  else if i < 33 then 0
  else if i = 33 then all - 0xFFF03FFF
  else if i = 34 then all - 0x1FF
  else if i = 35 then all - (2 ^ 63 + 3)
  else if i = 36 then all - 0xFF
  else if i = 37 then all - 3
  else if i = 38 then 0
  else if i = 39 then all - 0xFF
  else if i < 44 then 0xFFF0
  else if i < 48 then 0
  else if i = 48 then all - trapMask.toNat
  else if i = 50 then 3
  else if i < 53 then 0
  else if i < 56 then all
  else if i < 64 then (if rec then recordHz (i - 56) else all)
  else if i < 132 then 0
  else if i < 256 then all
  else if i < 768 then 0
  else all

/-- The first word of a slot image that SLOTREST refuses. -/
def imageBad (v : Nat) : Option Nat :=
  let stat := imgWord v 33
  (upTo 1024).find? fun i =>
    (imgWord v i).toNat &&& imageHz (wfld stat 25 22 == 9) i != 0
      || (i == 33 && (wfld stat 21 20 == 3 || !parkSavedOk (wfld stat 25 22)))

/-- A stream generator from its configuration and address words. The image of a bound stream holds its next address only, which stands for
the last address used until the next pop (what SGSTAT then reads the spec leaves open: DESIGN CHOICE, log entry 44). -/
def genOf (c a : Word) : StreamGen :=
  { count := BitVec.ofNat 32 (wfld c 63 32), stride := BitVec.ofNat 16 (wfld c 31 16), ew := BitVec.ofNat 2 (wfld c 3 2),
    dir := wbit c 1, bound := wbit c 0, next := a, last := a, ahead := [], unaccepted := 0 }

/-- A slot as an image describes it, on top of the place's own slot h; `lanes` 32-bit lanes (05 R135). -/
def slotOfImage (h : Slot) (v lanes : Nat) : Slot :=
  let w := imgWord v
  let stat := w 33
  { Slot.reset with
    x := (upTo 31).map fun i => (i + 1, w (i + 1))
    v := (upTo 16).map fun r => (r, BitVec.ofNat 2048 (v / 2 ^ (8 * (0x800 + 256 * r)) % 2 ^ (32 * lanes)))
    m := (upTo 4).map fun i => (i, w64 ((w (128 + i)).toNat % 2 ^ lanes))
    q := (upTo 8).map fun n => (n, (upTo (min 8 (wfld (w 52) (8 * n + 7) (8 * n)))).map fun i => w (64 + 8 * n + i))
    pc := w 32 &&& 0xFFFFFFFFFFFFFFFC#64, active := wbit stat 0, park := BitVec.ofNat 4 (wfld stat 25 22),
    await := BitVec.ofNat 6 (wfld stat 31 26), kind := BitVec.ofNat 2 (wfld stat 21 20), pfx := BitVec.ofNat 12 (wfld stat 13 2),
    pp := wbit stat 1, fflags := (w 36).setWidth 8, frm := (w 37).setWidth 2, vill := wbit (w 35) 63, ew := (w 35).setWidth 2,
    vl := (w 34).setWidth 9, qbind := w 38, stage := (w 39).setWidth 8,
    sg := (upTo 4).map fun i => (i, genOf (w (40 + i)) (w (44 + i)))
    hxtrap := w 48 &&& trapMask, hxtval := w 49, hxepc := w 50 &&& 0xFFFFFFFFFFFFFFFC#64, cont := w 51,
    trapRec := (upTo 8).map fun i => w (56 + i)
    instret := h.instret, held := h.held }

/-! ### The tile part (Table 18.7) -/

def shapeCode (sh : Shape) : Nat :=
  match sh with
  | .unmapped => 0
  | .narrow => 1
  | .halo => 2
  | .wide => 3

def shapeOfCode (n : Nat) : Shape := [Shape.unmapped, .narrow, .halo, .wide].getD n .unmapped

/-- Bytes of a tile's image by its shape. -/
def shapeBytes (sh : Shape) : Nat := [0, 8192, 16384, 24576].getD (shapeCode sh) 0

/-- The 96 bytes of a replay entry. -/
def replayWords (e : TcwEntry) (faulting : Bool) : List Word :=
  wordsOf 4 e.tcw.toNat ++ [e.base, e.stride, e.aux, e.aux2, e.cbr, e.cvr, e.addr, w64 (b2n faulting)]

/-- Bytes of a tile part for MAXTILES. -/
def tilePartSize (n : Nat) : Nat := 0x2000 + 0x6000 * n

/-- A front end's tile part; `faulted`: its first replay entry is the faulting one of a reported
fault; that of a recorded fault is marked too. -/
def tilePart (fe : TileFE) (n : Nat) (faulted : Bool) : Nat :=
  let tile (i : Nat) : Tile := fget fe.tiles i Tile.reset
  let shapes := ((upTo 16).map fun i => put (shapeCode (tile i).shape + put ((tile i).h % 8) 4) (8 * i)).sum
  let es := ((upTo 8).map fun i => put (fget fe.eRet i eReset).toNat (32 * i)).sum
  let sks := ((upTo 2).map fun i => put (fget fe.skRet i 0).toNat (64 * i)).sum
  let (c, a) := fe.recorded.getD (0, 0)
  let rep := (upTo fe.replay.length).flatMap fun i =>
    replayWords (fe.replay.getD i { tcw := 0, addr := 0, base := 0, stride := 0, aux := 0, aux2 := 0, cbr := 0, cvr := 0, step := 0 })
      (i == 0 && (faulted || fe.recorded.isSome))
  shapes + put es (8 * 0x10) + put sks (8 * 0x30) + put fe.replay.length (8 * 0x40) + put c (8 * 0x48)
    + put a.toNat (8 * 0x50) + put (ofWords rep) (8 * 0x100)
    + ((upTo n).map fun i => put ((tile i).img.toNat % 2 ^ (8 * shapeBytes (tile i).shape)) (8 * (0x2000 + 0x6000 * i))).sum

/-- The flits of a tile part that a poisoned row makes poisoned. -/
def tileFlits (fe : TileFE) (n : Nat) : List Nat :=
  (upTo n).flatMap fun i =>
    match (fget fe.tiles i Tile.reset).poison with
    | none => []
    | some _ => (upTo (shapeBytes (fget fe.tiles i Tile.reset).shape / 64)).map fun f => (0x2000 + 0x6000 * i) / 64 + f

/-- The first word of a tile part that SLOTREST refuses: held-zero bits of the shapes, RCOUNT, recorded fault and
flags. -/
def tilePartBad (v : Nat) : Option Nat :=
  let w := imgWord v
  let n := (w 8).toNat
  if (w 0).toNat &&& 0x8C8C8C8C8C8C8C8C != 0 then some 0
  else if (w 1).toNat &&& 0x8C8C8C8C8C8C8C8C != 0 then some 1
  else if 40 < n then some 8
  else if wfld (w 9) 63 8 != 0 then some 9
  else ((upTo n).map fun i => 32 + 12 * i + 11).find? fun j => decide (2 ≤ (w j).toNat)

/-- The row of a tile in which a flit of its image begins. -/
def flitRow (sh : Shape) (f : Nat) : Nat := 64 * f / [128, 128, haloPitch, 384].getD (shapeCode sh) 128

/-- A front end as a tile part with poisoned flits describes it: a tile with a poisoned flit holds poison again (20 R457). -/
def tileFEOf (v n : Nat) (step : BitVec 48) (bad : List Nat) : TileFE :=
  let w := imgWord v
  let tile (i : Nat) : Tile :=
    let b := fld v (8 * i + 7) (8 * i)
    let sh := shapeOfCode (b % 4)
    { shape := sh, h := b / 16 % 8, img := BitVec.ofNat 196608 (v / 2 ^ (8 * (0x2000 + 0x6000 * i)) % 2 ^ (8 * shapeBytes sh))
      poison := ((upTo (shapeBytes sh / 64)).find? fun f => bad.contains ((0x2000 + 0x6000 * i) / 64 + f)).map (flitRow sh) }
  let tiles := (upTo (min n 16)).map fun i => (i, tile i)
  let e := (upTo 8).map fun i => (i, BitVec.ofNat 32 (v / 2 ^ (8 * 0x10 + 32 * i)))
  let sk := (upTo 2).map fun i => (i, w (6 + i))
  let entry (i : Nat) : TcwEntry :=
    let k := 32 + 12 * i
    { tcw := BitVec.ofNat 256 (v / 2 ^ (64 * k)), base := w (k + 4), stride := w (k + 5), aux := w (k + 6), aux2 := w (k + 7),
      cbr := w (k + 8), cvr := w (k + 9), addr := w (k + 10), step := step }
  { TileFE.reset with
    replay := (upTo (w 8).toNat).map entry
    recorded := if wfld (w 9) 7 0 = 0 then none else some (wfld (w 9) 7 0, w 10)
    free := Config.tileSlots - (tiles.map fun p => slotsOf p.2.shape).sum
    tiles := tiles, e := e, sk := sk, eRet := e, skRet := sk }

/-! ### The core block (Table 18.8) -/

def coreBlockSize : Nat := 0x4000

/-- The block of a unit's per-core context; `mask`: the saved active slots. -/
def coreBlock (x : UnitSt) (mask : Nat) : Nat :=
  let at8 (off : Nat) (w : Nat) : Nat := put w (8 * off)
  let locked := ((x.icache.filter fun l => l.locked).map (fun l => l.line) ++ x.relock).map fun l => 256 * l
  at8 0 x.job.toNat + at8 8 mask + at8 16 x.serial.toNat + at8 24 x.lfsr.toNat + at8 0x40 x.step.toNat
    + ((upTo 16).map fun c => put (fget x.dt c lambdaReset).toNat (8 * (0x48 + 4 * c))).sum
    + at8 0x100 x.ni.myrank.toNat + at8 0x1F8 locked.length + put (ofWords (locked.map w64)) (8 * 0x200)
    + put (ofWords ((upTo 256).map fun b => (fget x.barriers b Barrier.reset).word)) (8 * 0x800)
    + put (ofWords ((upTo 1024).map fun r => fget x.ni.rank r 0)) (8 * 0x1000)
    + put (ofWords ((x.abandoned.take 32).map fun n => n.setWidth 64)) (8 * 0x3000)

/-- The bits of word i of a core block that are held zero. -/
def coreBlockHz (i : Nat) : Nat :=
  let all := 2 ^ 64 - 1
  if i = 0 then all - 0xFFFF
  else if i = 1 then all - 0x7F
  else if i = 2 then all - 0xFFFF
  else if i = 3 then all - 0xFFFFFFFF
  else if i < 8 then all
  else if i = 8 then all - 0xFFFFFFFFFFFF
  else if i < 17 then 0
  else if i < 32 then all
  else if i = 32 then all - 0x3FF
  else if i < 63 then all
  else if i = 63 then all - 0xFF
  else if i < 192 then 0xFF
  else if i < 256 then all
  else if i < 512 then 0xFFFC
  else if i < 1536 then 0x3FFFFFFFFF0000FF
  else if i < 1568 then all - 0xFFFF
  else all

/-- The first word of a core block that SLOTREST refuses. -/
def coreBlockBad (v : Nat) : Option Nat :=
  (upTo 2048).find? fun i => (imgWord v i).toNat &&& coreBlockHz i != 0 || (i == 63 && decide (128 < (imgWord v i).toNat))

/-- A barrier record from BSTAT's word. -/
def barrierOfWord (w : Word) : Barrier :=
  { narr := BitVec.ofNat 16 (wfld w 63 48), arr := BitVec.ofNat 16 (wfld w 47 32), mask := BitVec.ofNat 16 (wfld w 31 16),
    myph := wbit w 1, phase := wbit w 0 }

/-- Every field of a core block loaded into a unit that already has its job (R426). -/
def loadCoreBlock (x : UnitSt) (v : Nat) : UnitSt :=
  let w := imgWord v
  { x with
    serial := (w 2).setWidth 16, lfsr := (w 3).setWidth 32, step := (w 8).setWidth 48
    dt := (upTo 16).map fun c => (c, BitVec.ofNat 32 (v / 2 ^ (8 * (0x48 + 4 * c))))
    barriers := (upTo 256).map fun b => (b, barrierOfWord (w (256 + b)))
    abandoned := ((upTo 32).map fun i => (w (1536 + i)).setWidth 16).filter fun n => n != 0
    ni := { x.ni with myrank := (w 32).setWidth 10, rank := (upTo 1024).map fun r => (r, w (512 + r)) } }

/-- The lines whose locks a core block lists. -/
def lockedLines (v : Nat) : List Nat := (upTo (imgWord v 63).toNat).map fun i => (imgWord v (64 + i)).toNat / 256

/-- The saved locked lines fetched and locked again (04 R132): no line still present serves. A line that has to wait, at a return
cursor or for a VSTPAIR, is locked when it is fetched; one that does not translate is left out. -/
def relockLines (s : State) (u : Nat) (lines : List Nat) : State :=
  let j := (s.unit u).job
  let t := s.modUnit u fun x =>
    { x with relock := [], icache := (x.icache.filter fun l => !(l.job == j && lines.contains l.line)).map fun l => { l with locked := false } }
  lines.foldl (fun t line =>
    match lockTranslate (t.asHart u 7) (256 * line) line with
    | .ok (r, pa, n) => s.back (lockLine r line pa n)
    | .error (.hold _) => t.modUnit u fun x => { x with relock := x.relock ++ [line] }
    | .error _ => t) t

/-! ### Images in memory -/

/-- The places of [va, va + n - 1] for slot 7's image stores and loads: no window, no region 3 (R425). -/
def blockPlaces (s : State) (va n : Nat) (a : Acc) : Res (State × List (Nat × Nat × Nat)) :=
  (blocks va (n / 256 + 2) n).foldlM (fun st b => do
    let (t, p) ← locate st.1 b.1 b.2 a true
    need (!p.win && !p.dev) (.trap cPermission b.1)
    .ok (t, st.2 ++ [(b.1 - va, p.pa, b.2)])) (s, [])

/-- A number written at places (byte of the number, PA, bytes), with poisoned flits of the number. -/
def writePlaces (s : State) (ps : List (Nat × Nat × Nat)) (v : Nat) (bad : List Nat) : State :=
  ps.foldl (fun t p =>
    let t := t.homeStore p.2.1 p.2.2 (v / 2 ^ (8 * p.1) % 2 ^ (8 * p.2.2))
    ((upTo (ceilDiv p.2.2 64)).filter fun i => bad.contains (p.1 / 64 + i)).foldl (fun t i => t.addPoison (p.2.1 / 64 + i)) t) s

/-- The number read at places. -/
def readPlaces (s : State) (ps : List (Nat × Nat × Nat)) : State × Nat :=
  ps.foldl (fun st p =>
    let (t, v) := st.1.homeLoad p.2.1 p.2.2
    (t, st.2 + put v (8 * p.1))) (s, 0)

/-- The poisoned flits (by place in the number) of a list of places. -/
def placesFlits (s : State) (ps : List (Nat × Nat × Nat)) : List Nat :=
  ps.flatMap fun p => ((upTo (ceilDiv p.2.2 64)).filter fun i => s.homeBad (p.2.1 / 64 + i)).map fun i => p.1 / 64 + i

/-- The outcome of a device access to n bytes of a job's memory by unit u (16 R476). -/
inductive DevAcc where
  | ok (s : State) (ps : List (Nat × Nat × Nat))
  | wait
  | refused (s : State) (cause va : Nat)

/-- The places of a device access: translated under the job's ranges, whole before anything is done. -/
def deviceAccess (s : State) (u : Nat) (j : BitVec 16) (va n : Nat) (a : Acc) : DevAcc :=
  match spanPlaces s u j a (blocks va (n / 256 + 2) n) with
  | (t, ps, .ok _ _) => .ok t (ps.map fun p => (p.1 - va, p.2.1, p.2.2))
  | (_, _, .wait) => .wait
  | (t, _, .raise c v) => .refused t c v

/-! ### Restoring a slot (R370, R426) -/

/-- The line of a CWAITM's mask word, unless the mask is satisfied. -/
def rearmMask (s : State) (u : Nat) (va mask : Word) : Option Nat :=
  let pa := storeBase u + (va.toNat - coreWindow)
  if decide (coreWindow ≤ va.toNat) && decide (va.toNat < coreWindow + storeSize u) && va.toNat % 8 == 0 && s.getW pa &&& mask != mask then
    some (lineOf pa)
  else none

/-- The line that a WAITA watches. -/
def rearmWatch (s : State) (u k : Nat) : Option Nat :=
  let t := s.asHart u k
  match fetchInstr t with
  | .ok (_, .waita a) =>
    match watchedLine t (t.me.reg a.toNat).toNat with
    | .ok (_, l) => some l
    | .error _ => none
  | _ => none

/-- What a restored wait waits on, from the instruction at the saved PC and the saved registers (01 R18). A wait that
has no such condition, or whose condition holds, is tested by issuing the instruction again. -/
def rearmOn (s : State) (u k : Nat) : Option Nat :=
  let h := s.hart u k
  match h.park.toNat with
  | 3 =>
    match fetchInstr (s.asHart u k) with
    | .ok (_, .bwait a _) => some (h.reg a.toNat).toNat
    | .ok (_, .barw _ a) => some (h.reg a.toNat).toNat
    | _ => none
  | 4 => rearmWatch s u k
  | 5 =>
    match fetchInstr (s.asHart u k) with
    | .ok (_, .cwaitm a b) => rearmMask s u (h.reg a.toNat) (h.reg b.toNat)
    | _ => none
  | 6 =>
    match fetchInstr (s.asHart u k) with
    | .ok (_, .sendr _ _) => some 1
    | _ => some 0
  | 8 => if (s.ni u).inbox.any (takeable s u k) then none else some 0
  | 13 =>
    match fetchInstr (s.asHart u k) with
    | .ok (_, .gswait a) => if (h.reg a.toNat).toNat < (s.unit u).gstep.toNat then none else some 0
    | .ok (_, .stepinc a) => if stepAllowed s u ((s.unit u).step.toNat + (h.reg a.toNat).toNat) then none else some 0
    | _ => none
  | _ => none

/-- A slot's wait armed again, and with PARK 4 its watch. -/
def rearm (s : State) (u k : Nat) : State :=
  let on := rearmOn s u k
  s.modHart u k fun h =>
    if h.park = 4 ∧ on.isSome then { h with waitOn := on, wline := on, whit := false } else { h with waitOn := on }

/-- The registers that poisoned flits of an image make poisoned. -/
def poisonOfFlits (fs : List Nat) : List Nat :=
  (upTo 60).filter fun p => p != 0 && (poisonFlits p).any fun f => fs.contains f

end Sys2Proof.Machine
end

