-- ==== Sys2Proof/Machine/Tasks.lean ====
section
/-! DEFINITION. Jobs, continuations, the bazaar, dependency counters and the task instructions (16 R366 to R384,
R476, R477), and the operating points that tasks request (21 R459 to R462). -/

namespace Sys2Proof.Machine

open Sys2Proof

/-! ### Operating points (16 R383, R384, 21 R460 to R462) -/

/-- The highest of some points. -/
def maxPoint (xs : List (BitVec 3)) : BitVec 3 := xs.foldl (fun a b => if a.toNat < b.toNat then b else a) 0
def minPoint (a b : BitVec 3) : BitVec 3 := if b.toNat < a.toNat then b else a

/-- The point that a quad's cores request: P0 for a core that holds no job, P5 where no valid entry was named. -/
def requestedPoint (s : State) (q : Nat) : BitVec 3 :=
  maxPoint ((upTo 4).map fun k => if (s.unit (4 * q + k)).job = 0 then 0 else fget (s.quad q).req k 5)

/-- The point granted under the caps and the thermal trip; a boost point, above P5, needs headroom of the package too (21 R462). -/
def grantedPoint (s : State) (q : Nat) : BitVec 3 :=
  let p := minPoint (requestedPoint s q) (minPoint (s.quad q).thermalCap (s.quad q).currentCap)
  if (s.quad q).trip then 0 else if s.pkg.headroom then p else minPoint p 5

/-- A quad starts a change toward its granted point, when it runs at another one. -/
def retarget (s : State) (q : Nat) : State :=
  s.modQuad q fun x => { x with changingTo := if grantedPoint s q = x.point then none else some (grantedPoint s q) }

/-- Where the highest index that the quads of a die ask for has changed at a boundary that began in state `old`, the die's index follows
it, which the budget tree may lower then, by how much is open (21 R461, log entry 23). -/
def hbmFollow (old t : State) (d : Nat) : State :=
  if hbmIndex t d = hbmIndex old d then t
  else (t.modDie d fun x => { x with hbmNext := minPoint (hbmIndex t d) (t.freeWord.setWidth 3) }).took

/-- Core u's request of entry i of the operating-point table (Table 16.7), at a boundary that began in state `old`. An entry that is not
VALID changes no request; what a core that has taken a job asks for counts from then on. -/
def phaseFrom (old s : State) (u i : Nat) : State :=
  let w := fget s.pkg.optab i 0
  let q := quadOf u
  if !wbit w 7 then
    let t := hbmFollow old s (unitDie u)
    if requestedPoint s q = requestedPoint old q then t else retarget t q
  else
    let t := s.modQuad q fun x =>
      { x with req := fset x.req (u % 4) (BitVec.ofNat 3 (wfld w 2 0)), hbmReq := some (BitVec.ofNat 3 (wfld w 6 4)) }
    retarget (hbmFollow old t (unitDie u)) q

/-- The request of PHASE. -/
def phaseRequest (s : State) (u i : Nat) : State := phaseFrom s s u i

/-! ### Stations (R372, R477) -/

/-- The physical station of a unit, as 12·y + x. -/
def unitStation (u : Nat) : Nat :=
  if isCore u then coreStation u
  else if isCmc u then 12 * (2 * ((u - 192) / 6)) + 2 * ((u - 192) % 6)
  else if isUcore u then stationRouter (ucoreStation u)
  else if u < 236 then 12 * 3 + 4 else 12 * 3 + 7

/-- The cluster whose CMC takes a unit's notices. -/
def noticeCluster (u : Nat) : Nat := clusterOf (unitStation u)

/-- Hops between two quad stations (11 R283): the die crossing counts 6. -/
def hops (a b : Nat) : Nat :=
  let d (x y : Nat) : Nat := if x < y then y - x else x - y
  d (a % 12) (b % 12) + d (a / 12) (b / 12) + (if decide (a % 12 < 6) == decide (b % 12 < 6) then 0 else 5)

/-- One hop toward a station, x first and then y. -/
def hopToward (a b : Nat) : Nat :=
  if a % 12 < b % 12 then a + 1 else if b % 12 < a % 12 then a - 1 else if a < b then a + 12 else if b < a then a - 12 else a

/-- The physical station that serves a job's logical station (R368). Where no byte of the map can be read, or it is vacant, the spec
names none: the model takes the logical station's own number (DESIGN CHOICE, log entry 17). -/
def physicalStation (s : State) (j : BitVec 16) (st : Nat) : Nat :=
  match jobDescPa? s j (96 + st) with
  | some pa => if s.get pa 1 < 48 then s.get pa 1 else st
  | none => st

/-- A notice of the device for an acting unit (R367, R476, 19 R437). -/
def unitNotice (s : State) (u : Nat) (j : BitVec 16) (cause va : Nat) : State :=
  let x := s.unit u
  postNotice (s.modUnit u fun y => { y with trapSeq := y.trapSeq + 1 }) (noticeCluster u) (512 + u)
    (noticeRecord x.trapSeq j cause 0 (w64 va) (x.step.setWidth 64))

/-! ### Job descriptors (R366, R367) -/

/-- The device's read of a job descriptor; a refusal names the descriptor's address. -/
inductive JobRead where
  | absent
  | wait
  | refused (s : State) (cause va : Nat)
  | ok (s : State) (va v : Nat)

def readJob (s : State) (u : Nat) (j : BitVec 16) : JobRead :=
  match jobDescVa? s j with
  | none => .absent
  | some va =>
    match deviceAccess s u 0 va 4096 .load with
    | .wait => .wait
    | .refused t c _ => .refused t c va
    | .ok t ps =>
      let (t, v) := readPlaces t ps
      .ok t va v

/-- Whether a descriptor of job j meets Table 16.1. -/
def jobDescOk (j : BitVec 16) (v : Nat) : Bool :=
  let w := imgWord v
  wfld (w 0) 15 0 == j.toNat && wfld (w 0) 63 29 == 0 && decide (1 ≤ wfld (w 0) 17 16) && decide (1 ≤ wfld (w 0) 23 21)
    && decide (wfld (w 0) 23 21 ≤ 6) && decide (wfld (w 0) 28 24 ≤ 16) && wfld (w 1) 63 56 == 0
    && wfld (w 2) 63 52 == 0 && wfld (w 2) 7 0 == 0 && wfld (w 3) 63 32 == 0
    && wfld (w 4) 62 19 == 0 && wfld (w 4) 9 0 == 0 && (!wbit (w 4) 63 || decide (1024 * wfld (w 4) 18 10 < residentBase))
    && wfld (w 5) 63 56 == 0 && wfld (w 5) 5 0 == 0 && wfld (w 6) 63 16 == 0 && wfld (w 7) 63 56 == 0 && wfld (w 8) 63 56 == 0
    && w 9 == 0 && w 10 == 0 && w 11 == 0 && ((upTo 48).all fun i => decide (v / 2 ^ (8 * (96 + i)) % 256 < 48))
    && v / 2 ^ (8 * 144) == 0

/-- CSZ and T of R430, from MAXTILES. -/
def coreRecordT (maxTiles : Nat) : Nat := ceilDiv (0x12000 + tilePartSize maxTiles) 0x10000 * 0x10000
def coreRecordSize (maxTiles : Nat) : Nat := coreRecordT maxTiles + 0x80000

/-- The VA of core u's record in its job's context area, from the descriptor (R430). -/
def coreRecordVa (v u : Nat) : Nat := wfld (imgWord v 7) 55 0 + u * coreRecordSize (wfld (imgWord v 0) 28 24)

/-! ### The change of job of a unit (R367, R430) -/

/-- The colour of a job at a unit that takes it: a core keeps the old one until it stops for an announced cut (18 R432). -/
def takenColour (s : State) (u : Nat) (j : BitVec 16) : Bool :=
  let c := fget s.colours j.toNat false
  match s.cut with
  | some k => if isCore u && k.announced && !k.closed && k.job == j then k.old else c
  | none => c

/-- The counts of an interface go into the job's residual when it takes another job (log entry 17). -/
def foldCounts (s : State) (u : Nat) (j : BitVec 16) : State :=
  let n := s.ni u
  let t := (s.addResidual n.cjob false ((n.sent0 : Int) - n.rcvd0)).addResidual n.cjob true ((n.sent1 : Int) - n.rcvd1)
  t.modNi u fun n => { n.stamped with sent0 := 0, sent1 := 0, rcvd0 := 0, rcvd1 := 0, cjob := j, colour := takenColour s u j }

/-- Late capture for a job ends on a unit (18 R429). -/
def endLate (s : State) (u : Nat) : State :=
  match (s.unit u).late with
  | none => s
  | some l =>
    ((s.addResidual l.job false ((l.sent0 : Int) - l.rcvd0)).addResidual l.job true ((l.sent1 : Int) - l.rcvd1)).modUnit u
      fun x => { x with late := none }

/-- hxjob and the global step loaded from the job table entry and the descriptor. -/
def loadHxjob (s : State) (u : Nat) (j : BitVec 16) (va v : Nat) : State :=
  (foldCounts s u j).modUnit u fun x =>
    { x with job := j, desc := BitVec.ofNat 44 (va / 4096), mmrev := BitVec.ofNat 2 (wfld (imgWord v 0) 17 16),
             gstep := fget s.pkg.g (wfld (imgWord v 0) 20 18) 0,
             blockIn := false, known := if x.known.contains j then x.known else j :: x.known, refused := x.refused.filter fun i => i != j }

/-- The per-core context of a job's first use of a core: the generator from SEED, everything else reset. -/
def freshContext (x : UnitSt) (seed : Nat) : UnitSt :=
  { x with step := 0, dt := [], barriers := [], serial := 0, abandoned := [],
           lfsr := if seed = 0 then 1 else BitVec.ofNat 32 seed, relock := [],
           icache := x.icache.map fun l => { l with locked := false } }

/-- A core block restored (R426): every field, the locked lines, the barrier arrivals held for the job. -/
def restoreBlock (s : State) (u v : Nat) : State :=
  let t := s.modUnit u fun x => { loadCoreBlock x v with blockIn := true }
  let t := if ((s.unit u).late.any fun l => l.job == (s.unit u).job) then endLate t u else t
  barrierRestore (relockLines t u (lockedLines v)) u

/-- The outcome of a device access that makes a unit ready or picks a task up. -/
inductive PickUp where
  | done (s : State)
  | wait
  | refused (s : State) (cause va : Nat)

/-- The core record of the job a core leaves without VACATE is written with its core block (log entry 17). -/
def saveLeft (s : State) (u : Nat) : PickUp :=
  let x := s.unit u
  if x.job = 0 || !isCore u then .done s
  else
    match readJob s u x.job with
    | .absent => .done s
    | .wait => .wait
    | .refused t c va => .refused t c va
    | .ok t _ v =>
      match deviceAccess t u x.job (coreRecordVa v u) coreBlockSize .store with
      | .ok t ps => .done (writePlaces t ps (coreBlock x 0) [])
      | .wait => .wait
      | .refused t c va => .refused t c va

/-- The values held for the slots of a unit stay with its job (04 R125). -/
def stowAll (s : State) (u : Nat) : State := (upTo 7).foldl (fun t k => t.stowHeld u k) s

/-- A unit takes its first task of another job (R367). Where the core records cannot be reached it keeps its own. -/
def switchJob (s : State) (u : Nat) (j : BitVec 16) (va v : Nat) : PickUp :=
  let was := (s.unit u).known.contains j
  let seed := wfld (imgWord v 3) 31 0
  match saveLeft s u with
  | .wait => .wait
  | .refused t c x => .refused t c x
  | .done t =>
    if !isCore u then
      .done ((loadHxjob (stowAll t u) u j va v).modUnit u fun x => { freshContext x seed with barriers := x.barriers })
    else
      match deviceAccess t u j (coreRecordVa v u) coreBlockSize .load with
      | .wait => .wait
      | .refused t c x => .refused t c x
      | .ok t ps =>
        let (t, b) := readPlaces t ps
        let t := loadHxjob (stowAll t u) u j va v
        .done (if was then restoreBlock t u b
          else
            t.modUnit u fun x =>
              let y := loadCoreBlock x b
              { freshContext x seed with ni := y.ni })

/-- Active task slots of a unit. -/
def taskSlots (s : State) (u : Nat) : Nat := ((upTo 6).filter fun k => (s.hart u k).active).length

/-- Whether a unit may take a task of a job as far as its own state goes (R367); the bazaar offers nothing on a die that an accepted
request is parking (21 R470). -/
def freeFor (s : State) (u : Nat) (j : BitVec 16) : Bool :=
  let x := s.unit u
  x.up && !x.halted && !x.stopped && !removing s j && (x.job == j || !(upTo 7).any fun k => (s.hart u k).active)
    && (!isCore u || ((s.quad (quadOf u)).up && !s.pkg.quadsRetired.getLsbD (coreStation u)))
    && !(isCore u && s.pkg.parkBusy && s.pkg.parkReq.toNat == unitDie u + 1)
    && !(upTo 7).any fun k => (s.hart u k).restored

/-- A refused descriptor is reported once, until it is next accepted (R367, R476). -/
def refuseJob (s : State) (u : Nat) (j : BitVec 16) (cause va : Nat) : State :=
  if (s.unit u).refused.contains j then s
  else (unitNotice s u j cause va).modUnit u fun x => { x with refused := j :: x.refused }

/-- A unit makes ready to take a task of a job: the state, and whether it takes it. -/
def claimJob (s : State) (u : Nat) (j : BitVec 16) : State × Bool :=
  match readJob s u j with
  | .absent => (s, false)
  | .wait => (s, false)
  | .refused t c va => (refuseJob t u j c va, false)
  | .ok t va v =>
    if !jobDescOk j v then (refuseJob t u j cIllegal va, false)
    else if isCore u && decide (wfld (imgWord v 0) 23 21 ≤ taskSlots s u) then (s, false)
    else if (s.unit u).job = j then (t, true)
    else
      match switchJob t u j va v with
      | .done t => (t, true)
      | .wait => (s, false)
      | .refused t c x => (refuseJob t u j c x, false)

/-! ### Continuations (R369, R370, R377) -/

def contKind (ws : List Word) : Nat := wfld (nthWord ws 2) 21 20
def contFresh (ws : List Word) : Bool := wbit (nthWord ws 7) 26
def contJob (ws : List Word) : BitVec 16 := (nthWord ws 7).setWidth 16
def contPrio (ws : List Word) : Nat := wfld (nthWord ws 7) 17 16

/-- Whether a placement word meets Table 16.4 for a kind. -/
def placementOk (kind : Nat) (p : Word) : Bool :=
  p.toNat &&& 0xFFFFFF00FFF8003F == 0 && placeHmode p != 3 && decide (placeX p ≤ 11)
    && (kind != 2 || (placeHmode p == 1 && decide (placeX p ≤ 5) && placeY p == 0))

/-- CheckContinuation: the first failing word. -/
def contBad (ws : List Word) : Option Nat :=
  let w := nthWord ws
  let park := wfld (w 2) 25 22
  let bad : List Bool :=
    [ wfld (w 0) 1 0 != 0, wfld (w 1) 5 0 != 0,
      (w 2).toNat &&& 0xFFFFFFFF000FC001 != 0 || contKind ws == 3 || !([0, 1, 2, 3, 4, 5, 6, 8, 13].contains park)
        || (contFresh ws && (wbit (w 2) 1 || park != 0)),
      !placementOk (contKind ws) (w 3), wfld (w 4) 3 0 != 0, false, wfld (w 6) 63 48 != 0,
      wfld (w 7) 63 27 != 0 || wfld (w 7) 25 24 != 0 ]
  findPos (fun b : Bool => b) bad

/-- A slot that holds nothing: its counters stay, and the values that wait for its ports (04 R124). -/
def Slot.idle (h : Slot) : Slot := { Slot.reset with instret := h.instret, held := h.held }

/-- A picked-up slot: registers from the frame, the continuation's words, a park armed again (R370). -/
def startTask (s : State) (u k va : Nat) (ws : List Word) (frame : Nat) (bad : List Nat) : State :=
  let w := nthWord ws
  let h := s.hart u k
  let base :=
    if contFresh ws then { h.idle with instret := 0, x := (upTo 31).map fun i => (i + 1, imgWord frame (i + 1)) }
    else slotOfImage h frame (lanesOf u)
  let t := s.setHart u k
    { base with
      active := true, pc := w 0 &&& 0xFFFFFFFFFFFFFFFC#64, park := BitVec.ofNat 4 (wfld (w 2) 25 22),
      await := BitVec.ofNat 6 (wfld (w 2) 31 26), kind := BitVec.ofNat 2 (contKind ws), pfx := BitVec.ofNat 12 (wfld (w 2) 13 2),
      pp := wbit (w 2) 1, stage := BitVec.ofNat 8 (wfld (w 3) 39 32),
      cont := w64 va, fp := w 1, ctr := w 4, place := w 3, jobword := w 7
      poison := (poisonOfFlits bad).filter fun p => !contFresh ws || decide (p < 32) }
  let t := t.modUnit u fun x =>
    let st : BitVec 48 := BitVec.ofNat 48 (wfld (w 6) 47 0)
    { x with step := if isUcore u then st else BitVec.ofNat 48 (max x.step.toNat (max st.toNat x.gstep.toNat)) }
  rearm (t.takeHeld u k) u k

/-- The leases that a lead slot's task holds end; a context resumes with none (07 R216). -/
def endLeases (s : State) (u : Nat) : State :=
  let drop (t : State) (a : Nat) : State :=
    if ((t.quad (quadOf u)).array a).holder = some (u % 4) then arrayFreed (t.modArray (quadOf u) a fun m => { m with holder := none }) (quadOf u) a else t
  drop (drop s 0) 1

/-- The pick-up of the continuation at va by slot k of unit u, which already holds its job; `before`: the state in which the unit had yet
to take it. A flit of the frame that holds poison gives it back to what it is restored to (20 R457). -/
def pickUp (before s : State) (u k va : Nat) : PickUp :=
  let j := (s.unit u).job
  match deviceAccess s u j va 64 .load with
  | .wait => .wait
  | .refused t c x => .refused t c x
  | .ok t ps =>
    let (t, v) := readPlaces t ps
    let ws := wordsOf 8 v
    let fp := (nthWord ws 1).toNat
    let tiles := maxTiles t u
    let lead := isCore u && k == 0
    match deviceAccess t u j fp (if contFresh ws then 256 else if lead then imageSize + tilePartSize tiles else imageSize) .load with
    | .wait => .wait
    | .refused t c x => .refused t c x
    | .ok t ps =>
      let (t, f) := readPlaces t ps
      let bad := placesFlits t ps
      let t := startTask t u k va ws (f % 2 ^ (8 * imageSize)) bad
      let t :=
        if !lead then t
        else if contFresh ws then t.modFe u fun fe => { TileFE.reset with writing := fe.writing }
        else
          t.modUnit u fun x =>
            { x with fe := { tileFEOf (f / 2 ^ (8 * imageSize)) tiles x.step (tileBad bad) with writing := x.fe.writing } }
      let t := if lead && !contFresh ws then endLeases t u else t
      .done (if contFresh ws && isCore u then phaseFrom before t u (16 * wfld (nthWord ws 7) 23 18) else t)
where
  /-- The flits of the tile part among those of a frame. -/
  tileBad (bad : List Nat) : List Nat := (bad.filter fun i => decide (imageSize / 64 ≤ i)).map fun i => i - imageSize / 64

/-! ### Queues (R371, R373) -/

/-- The queue of a place: a cluster's (0 to 11), or memory station m's (12 + m). -/
def State.queueOf (s : State) (key : Nat) : List BEntry := if key < 12 then (s.cluster key).queue else (s.station (key - 12)).queue
def State.setQueueOf (s : State) (key : Nat) (q : List BEntry) : State :=
  if key < 12 then s.modCluster key fun c => { c with queue := q } else s.modStation (key - 12) fun c => { c with queue := q }
def State.reservedOf (s : State) (key : Nat) : List (Nat × BitVec 16 × Nat) :=
  if key < 12 then (s.cluster key).reserved else (s.station (key - 12)).reserved
def State.setReservedOf (s : State) (key : Nat) (q : List (Nat × BitVec 16 × Nat)) : State :=
  if key < 12 then s.modCluster key fun c => { c with reserved := q } else s.modStation (key - 12) fun c => { c with reserved := q }

/-- Entries of a queue and priority that are reserved on the chip. -/
def onChip (s : State) (key prio : Nat) : Nat := ((s.reservedOf key).filter fun r => r.1 == prio && r.2.2 == 0).length

/-- Reserve: on chip first, then the lowest free entry of the job's spill list; none when both are full. -/
def reserve (s : State) (key prio : Nat) (j : BitVec 16) : Option (State × Nat) :=
  let rs := s.reservedOf key
  let n := ((jobWord? s j 6).map fun w => wfld w 15 0).getD 0
  if onChip s key prio < 256 then some (s.setReservedOf key (rs ++ [(prio, j, 0)]), 0)
  else
    match (upTo n).find? fun i => !rs.contains (prio, j, 2 + i) with
    | some i => some (s.setReservedOf key (rs ++ [(prio, j, 2 + i)]), 2 + i)
    | none => none

def unreserve (s : State) (key : Nat) (e : BEntry) : State :=
  if e.place = 1 then s else s.setReservedOf key ((s.reservedOf key).erase (e.prio, e.job, e.place))

/-- The device writes a LINK word of a continuation. Of a write of its own that is refused as a task joins or leaves a queue the spec
says nothing: it is left out, without a notice, and the queue keeps or drops the entry as it would (DESIGN CHOICE, log entry 17). -/
def writeLink (s : State) (u : Nat) (j : BitVec 16) (va : Nat) (v : Word) : State :=
  match deviceAccess s u j (va + 40) 8 .store with
  | .ok t ps => writePlaces t ps v.toNat []
  | _ => s

/-- Such a write has to wait, at a return cursor or for a line that a VSTPAIR holds. -/
def linkWaits (s : State) (u : Nat) (j : BitVec 16) (va : Nat) : Bool :=
  match deviceAccess s u j (va + 40) 8 .store with
  | .wait => true
  | _ => false

/-- The entries of a return list around a continuation: its predecessor and successor. -/
def returnOf (q : List BEntry) (prio : Nat) : List BEntry := q.filter fun e => e.place == 1 && e.prio == prio

/-- The device's access to an entry of a spill list; none where the descriptor cannot be read. -/
def spillAccess (s : State) (u key : Nat) (e : BEntry) : Option DevAcc :=
  match jobWord? s e.job 5, jobWord? s e.job 6 with
  | some a, some n => some (deviceAccess s u e.job (wfld a 55 0 + 8 * (wfld n 15 0 * (4 * key + e.prio) + (e.place - 2))) 8 .store)
  | _, _ => none

/-- The entry of a spill list is written; its word's format is an open value (log entry 17), and a write that is refused is left out, as
that of a LINK word is. -/
def writeSpill (s : State) (u key : Nat) (e : BEntry) : State :=
  match spillAccess s u key e with
  | some (.ok t ps) => (writePlaces t ps s.freeWord.toNat []).took
  | _ => s

/-- A task that joins a queue waits for what the device writes then. -/
def joinWaits (s : State) (u key : Nat) (e : BEntry) : Bool :=
  if e.place = 1 then
    linkWaits s u e.job e.cont.toNat || ((returnOf (s.queueOf key) e.prio).getLast?.map fun p => linkWaits s u p.job p.cont.toNat).getD false
  else
    decide (2 ≤ e.place)
      && (jobDescWaits s e.job 40 || jobDescWaits s e.job 48 || (match spillAccess s u key e with
        | some .wait => true
        | _ => false))

/-- A task joins a queue; `u` is the unit in whose name the device writes. -/
def joinQueue (s : State) (u key : Nat) (e : BEntry) : State :=
  let e := if e.place = 1 then e else { e with order := s.clock }
  let s1 := { s with clock := s.clock + 1 }
  let s2 :=
    if e.place = 1 then
      let t := writeLink s1 u e.job e.cont.toNat 0
      match (returnOf (s1.queueOf key) e.prio).getLast? with
      | some p => writeLink t u p.job p.cont.toNat e.cont
      | none => t
    else if 2 ≤ e.place then writeSpill s1 u key e else s1
  s2.setQueueOf key (s2.queueOf key ++ [e])

/-- An entry leaves its queue: its reservation is free, its return list is chained past it. -/
def leaveQueue (s : State) (u key : Nat) (e : BEntry) : State :=
  let q := s.queueOf key
  let list := returnOf q e.prio
  let s1 := (unreserve s key e).setQueueOf key (q.erase e)
  if e.place = 1 then
    match findPos (fun f => f == e) list with
    | some (i + 1) =>
      match list[i]? with
      | some p => writeLink s1 u p.job p.cont.toNat ((list[i + 2]?.map fun n => n.cont).getD 0)
      | none => s1
    | _ => s1
  else s1

/-- An entry that leaves waits for the LINK of the one before it. -/
def leaveWaits (s : State) (u key : Nat) (e : BEntry) : Bool :=
  let list := returnOf (s.queueOf key) e.prio
  e.place == 1 && match findPos (fun f => f == e) list with
    | some (i + 1) => (list[i]?.map fun p => linkWaits s u p.job p.cont.toNat).getD false
    | _ => false

/-- The priority that an entry counts with after ageing. -/
def BEntry.eff (e : BEntry) : Nat := min 3 (e.prio + e.boost)
/-- Entries in the order in which a queue is served. -/
def serveInsert (e : BEntry) : List BEntry → List BEntry
  | [] => [e]
  | f :: t => if f.eff < e.eff || (f.eff == e.eff && decide (e.order < f.order)) then e :: f :: t else f :: serveInsert e t
def serveOrder (q : List BEntry) : List BEntry := q.foldl (fun t e => serveInsert e t) []

/-- Whether slot k of a unit takes tasks of a kind (01 R13). -/
def kindFits (u k : Nat) (kind : BitVec 2) : Bool :=
  if isCore u then (kind == 0 && decide (1 ≤ k) && decide (k ≤ 5)) || (kind == 1 && k == 0)
  else isUcore u && kind == 2 && k == 0

/-- Whether a unit's slot may look at an entry: idle, of the kind, not of a job being removed; HMODE 2 names one core. -/
def mayTake (s : State) (u k : Nat) (e : BEntry) : Bool :=
  !(s.hart u k).active && kindFits u k e.kind && freeFor s u e.job && (e.hmode != 2 || e.core == u)
    && !(isUcore u && (upTo 8).any fun d => (fget s.pkg.sweep d Sweep.reset).run && ucoreIndex u == 0) && rdcClean s u

/-- A core that takes a task of the job under a cut counts as not stopped (18 R432). -/
def cutJoins (s : State) (u : Nat) (j : BitVec 16) : State :=
  match s.cut with
  | some c =>
    if c.announced && !c.closed && c.job == j && isCore u && !c.notStopped.contains u then
      { s with cut := some { c with notStopped := c.notStopped ++ [u] } }
    else s
  | none => s

/-- Slot k of unit u takes an entry already removed from where it was: picked up (true), or dropped with a notice, the unit
then as it was before it made ready (R476). None while the device waits. -/
def takeEntry (before s : State) (u k : Nat) (e : BEntry) : Option (State × Bool) :=
  match pickUp before s u k e.cont.toNat with
  | .done t => some (cutJoins (t.asHart u k).acquired u e.job |> s.back, true)
  | .wait => none
  | .refused _ c va => some (unitNotice before u e.job c va, false)

/-- The first entry of a queue that slot k of unit u takes: the state, and whether anything was taken. -/
def serveQueue (s : State) (u k key : Nat) (okEntry : BEntry → Bool) : State × Bool :=
  (serveOrder (s.queueOf key)).foldl (fun st e =>
    if st.2 || !(okEntry e && mayTake st.1 u k e) || leaveWaits st.1 u key e then st
    else
      match claimJob st.1 u e.job with
      | (t, false) => (t, false)
      | (t, true) =>
        match takeEntry (leaveQueue st.1 u key e) (leaveQueue t u key e) u k e with
        | some r => r
        | none => st) (s, false)

/-- The queue that serves a unit. -/
def queueKey (u : Nat) : Nat := if isUcore u then 12 + ucoreStation u else u / 16

/-- QUEUE_TAKE. -/
def execQueueTake (u k : Nat) (s : State) : Host.Outcome State Fault Refusal :=
  if (isCore u || isUcore u) && decide (k < 6) then .next (serveQueue s u k (queueKey u) fun _ => true).1 else .next s

/-- The clusters of a core's die other than its own, by distance and number (R373). -/
def stealOrder (u : Nat) : List Nat :=
  let c := u / 16
  let d (a : Nat) : Nat :=
    (if a % 6 < c % 6 then c % 6 - a % 6 else a % 6 - c % 6) + (if a / 6 < c / 6 then c / 6 - a / 6 else a / 6 - c / 6)
  let cs := (upTo 12).filter fun a => a != c && clusterDie a == clusterDie c
  (upTo 8).flatMap fun n => cs.filter fun a => d a == n

/-- BAZAAR_STEAL: entries with HMODE 2 are never stolen. -/
def execBazaarSteal (u k : Nat) (s : State) : Host.Outcome State Fault Refusal :=
  if !isCore u || 6 ≤ k then .next s
  else
    let (t, own) := serveQueue s u k (u / 16) fun _ => true
    if own then .next s
    else .next ((stealOrder u).foldl (fun st c => if st.2 then st else serveQueue st.1 u k c fun e => e.hmode != 2) (t, false)).1

/-- BAZAAR_AGEING: one priority higher, up to 3. -/
def execBazaarAgeing (place i : Nat) (s : State) : Host.Outcome State Fault Refusal :=
  match (s.queueOf place)[i]? with
  | some e => .next (if place < 18 then s.setQueueOf place (setAt (s.queueOf place) i { e with boost := min 3 (e.boost + 1) }) else s)
  | none => .next s

/-! ### Release and the walk (R372) -/

/-- The hint of a released continuation: its physical station under the releasing unit. -/
def hintStation (s : State) (u : Nat) (ws : List Word) : Nat :=
  let p := nthWord ws 3
  if placeHmode p = 0 then unitStation u else physicalStation s (contJob ws) (12 * placeY p + placeX p)

/-- The queue that a continuation joins: its hint cluster's, or its memory station's. -/
def hintKey (s : State) (u : Nat) (ws : List Word) : Nat :=
  if contKind ws = 2 then 12 + placeX (nthWord ws 3) else clusterOf (hintStation s u ws)

/-- Release: the task enters the mesh at its origin, or joins its memory station's queue. `place` is its reservation, or 1
for a return list. -/
def release (s : State) (u va : Nat) (ws : List Word) (place : Nat) : State :=
  let p := nthWord ws 3
  let h := hintStation s u ws
  let e : BEntry :=
    { cont := w64 va, job := contJob ws, kind := BitVec.ofNat 2 (contKind ws), hmode := placeHmode p,
      core := coreAt (h % 12) (h / 12) (wfld p 13 12), prio := contPrio ws, boost := 0, order := s.clock, place := place }
  let s1 := { s with clock := s.clock + 1 }
  if contKind ws = 2 then joinQueue s1 u (hintKey s u ws) { e with hmode := 1 }
  else
    let o := if placeHmode p = 0 || isCore u then unitStation u else h
    { s1 with walks := s1.walks ++ [{ e := e, x := o % 12, y := o / 12, hx := h % 12, hy := h / 12, radius := wfld p 18 16 }] }

/-- A release waits for what it reads or writes in the device's name: the station of its hint, or its queue's lists. -/
def releaseWaits (s : State) (u va : Nat) (ws : List Word) (place : Nat) : Bool :=
  let p := nthWord ws 3
  if contKind ws = 2 then
    joinWaits s u (hintKey s u ws)
      { cont := w64 va, job := contJob ws, kind := 2, hmode := 1, core := 0, prio := contPrio ws, boost := 0, order := 0, place := place }
  else placeHmode p != 0 && jobDescWaits s (contJob ws) (96 + (12 * placeY p + placeX p))

/-- The slot of core u on which a walking task may start: the lowest idle one of its kind. -/
def slotFor (s : State) (u : Nat) (e : BEntry) : Option Nat := (upTo 6).find? fun k => mayTake s u k e

/-- A walking task offered to the cores of a station, from the one after the station's last taker. None while the device
waits; the state and whether it was taken. -/
def offer (s : State) (w : Walk) : Option (State × Bool) :=
  let q := coreAt w.x w.y 0 / 4
  let ks := (upTo 4).map fun i => ((s.quad q).lastTaker + 1 + i) % 4
  ks.foldl (fun st k =>
    match st with
    | none => none
    | some (t, true) => some (t, true)
    | some (t, false) =>
      let u := 4 * q + k
      match slotFor t u w.e with
      | none => some (t, false)
      | some slot =>
        match claimJob t u w.e.job with
        | (r, false) => some (r, false)
        | (r, true) =>
          let free (s : State) : State := unreserve s (clusterOf (12 * w.hy + w.hx)) w.e
          match takeEntry (free t) (free r) u slot w.e with
          | none => none
          | some (r, got) => some (if got then r.modQuad q fun x => { x with lastTaker := k } else r, true)) (some (s, false))

/-- TASK_WALK_OFFER: an offer within RADIUS, then one hop, or the queue at the hint. -/
def execTaskWalkOffer (i : Nat) (s : State) : Host.Outcome State Fault Refusal :=
  match s.walks[i]? with
  | none => .next s
  | some w =>
    let here := 12 * w.y + w.x
    let hint := 12 * w.hy + w.hx
    let near := decide (hops here hint ≤ w.radius)
    if removing s w.e.job then .next s
    else
      match (if near then offer s w else some (s, false)) with
      | none => .next s
      | some (t, true) => .next { t with walks := dropAt t.walks i }
      | some (t, false) =>
        if here = hint then
          if joinWaits t (16 * clusterOf hint) (clusterOf hint) w.e then .next s
          else .next (joinQueue { t with walks := dropAt t.walks i } (16 * clusterOf hint) (clusterOf hint) w.e)
        else
          let n := hopToward here hint
          .next { t with walks := setAt t.walks i { w with x := n % 12, y := n / 12 } }

/-! ### Dependency counters (R375, R378, 19 R437) -/

/-- LINK of a continuation whose access is refused: the word at its place, where a range covers it (log entry 25). -/
def refusedLink (s : State) (u : Nat) (j : BitVec 16) (va : Nat) : Word :=
  match (findRange s u j va).2 with
  | none => 0
  | some e => if regionOf (e.pa va) < 3 && backed s (e.pa va) then s.getW (e.pa va + 40) else 0

/-- Whether a continuation at va of a wait list fails the checks of TSPAWN in the name of the executing agent (R377, 19 R437). One that
TWAIT has put on the list has FRESH = 0 (R379), which is no fault of it (DEDUCED, log entry 17). -/
def listBad (s : State) (va : Nat) (ws : List Word) : Bool :=
  va % 64 != 0 || (contBad ws).isSome
    || (s.mode == 0 && (contJob ws != s.mine.job || (!contFresh ws && !s.twaits.contains (contJob ws, va))))

/-- Every continuation of a wait list released in list order; none while the device waits. A continuation that cannot be
read or that fails the checks brings a notice, and the list goes on. -/
def releaseList (s : State) (u : Nat) : Nat → Word → Option State
  | 0, _ => some s
  | fuel + 1, c =>
    if c = 0 then some s
    else
      let j := (s.unit u).job
      match deviceAccess s u j c.toNat 64 .load with
      | .wait => none
      | .refused t x va => releaseList (unitNotice t u j x va) u fuel (refusedLink t u j c.toNat)
      | .ok t ps =>
        let (t, v) := readPlaces t ps
        let ws := wordsOf 8 v
        if removing t (contJob ws) then releaseList t u fuel (nthWord ws 5)
        else if listBad t c.toNat ws then releaseList (unitNotice t u j cIllegal c.toNat) u fuel (nthWord ws 5)
        else if releaseWaits t u c.toNat ws 1 then none
        else
          releaseList (release { t with twaits := t.twaits.filter fun w => w != (contJob ws, c.toNat) } u c.toNat ws 1) u fuel (nthWord ws 5)

/-- A counter's address passes the checks of TDEP. -/
def needCounter (s : State) (va : Nat) : Res State := do
  needAligned va 16
  let (t, p) ← locate s va 16 .both false
  need (!p.win && !p.dev) (.trap cPermission va)
  needClean t p 16
  .ok t

/-- The decrement of a counter at its home slice, with what it releases. -/
def decrement (s : State) (va : Nat) : Res State := do
  needAligned va 16
  waitRelease s
  let (t, old) ← atomicAt s va 16 .both false fun v =>
    if v % 2 ^ 64 = 0 then none else if v % 2 ^ 64 = 1 then some 0 else some (v - 1)
  if old % 2 ^ 64 = 1 then
    match releaseList t s.cur.unit (2 ^ 50) (w64 (old / 2 ^ 64)) with
    | some r => .ok r
    | none => .error (.hold none)
  else .ok t

def execTdep (a : BitVec 5) (s : State) : Host.Outcome State Fault Refusal :=
  issue (.tdep a) s.onAny s fun s => do
    let (s, x) ← readX s a
    decrement s x.toNat

/-! ### TSPAWN (R377) -/

def tspawnBody (d a : BitVec 5) (s : State) : Res State := do
  let u := s.cur.unit
  let (s, x) ← readX s a
  let va := x.toNat
  needAligned va 64
  (match ← windowAddr s va 64 .load with
   | some _ => raise cPermission va
   | none => .ok ())
  let (s, ws) ← loadWords s va 8
  (match contBad ws with
   | some i => raise cIllegal (va + 8 * i)
   | none => .ok ())
  need (s.mode != 0 || (contJob ws == s.mine.job && contFresh ws)) (.trap cIllegal (va + 56))
  need (!releaseWaits s u va ws 0 && !(decide (256 ≤ onChip s (hintKey s u ws) (contPrio ws)) && jobDescWaits s (contJob ws) 48)) (.hold none)
  match reserve s (hintKey s u ws) (contPrio ws) (contJob ws) with
  | none => writeX s d 0x15
  | some (t, place) => do
    need (!releaseWaits t u va ws place) (.hold none)
    waitRelease s
    writeX (release t u va ws place) d 0

def execTspawn (d a : BitVec 5) (s : State) : Host.Outcome State Fault Refusal :=
  issue (.tspawn d a) s.onSpawn s (tspawnBody d a)

/-! ### TWAIT, TSUSP and TEXIT (R379 to R382) -/

/-- The slots that hold a task. -/
def needTaskSlot (s : State) : Res Unit := need (!(isCore s.cur.unit && decide (6 ≤ s.cur.slot))) .illegal

/-- The drain: the tile stream, the slot's accesses and appended elements, and its engine operations. -/
def waitDrain (s : State) : Res Unit := do
  let u := s.cur.unit
  let k := s.cur.slot
  need (!(isCore u && k == 0) || streamStill s u) (.hold none)
  waitRelease s
  need (s.me.sg.all fun p => p.2.unaccepted == 0) (.hold none)
  need (s.mine.ops.all fun o => o.slot != k) (.hold none)

/-- Whether the executing slot's task holds a lease. -/
def holdsLease (s : State) : Bool :=
  s.onCore && s.cur.slot == 0 &&
    (upTo 2).any fun a => ((s.quad (quadOf s.cur.unit)).array a).holder == some (s.cur.unit % 4)

/-- The end of the leases in a drain, after which the instruction issues again, so that a trap that it then takes keeps it (R379); its
operand, which may be a stream's next element, is read then: the registers stand as in state `old`, before it was read. -/
def drainLeases (old s : State) : State := ((endLeases s s.cur.unit).modMe fun h => { h with sg := old.me.sg, x := old.me.x }).again 4

/-- A slot becomes idle, and with slot 0 its tiles and its replay list. -/
def freeSlot (s : State) (u k : Nat) : State :=
  let t := s.modHart u k Slot.idle
  if isCore u && k == 0 then
    (discardFrom t u (t.fe u).rob).modFe u fun fe => { TileFE.reset with writing := fe.writing }
  else t

/-- The continuation's words at suspension. -/
def suspendWords (s : State) (ws : List Word) (place link : Word) : List Word :=
  let h := s.me
  [h.pc, nthWord ws 1, w64 (put h.kind.toNat 20 + put h.pfx.toNat 2 + bitAt h.pp 1), place, nthWord ws 4, link,
   s.mine.step.setWidth 64, nthWord ws 7 &&& 0xFFFFFFFFFBFFFFFF#64]

/-- The device's access in the name of the executing task: a refusal is the instruction's own trap (R476). -/
def taskAccess (s : State) (va n : Nat) (a : Acc) : Res (State × List (Nat × Nat × Nat)) :=
  match deviceAccess s s.cur.unit s.mine.job va n a with
  | .wait => .error (.hold none)
  | .refused _ c x => raise c x
  | .ok t ps => .ok (t, ps)

/-- The task's state saved to its frame and continuation; its words as saved. `link` names the new LINK. -/
def suspend (s : State) (place : Option Word) (link : Word) : Res (State × List Word) := do
  let u := s.cur.unit
  let lead := isCore u && s.cur.slot == 0
  let va := s.me.cont.toNat
  let (s, cs) ← taskAccess s va 64 .both
  let (s, v) := readPlaces s cs
  let ws := wordsOf 8 v
  let s := if lead then endDrain s u else s
  let tiles := maxTiles s u
  let n := if lead then imageSize + tilePartSize tiles else imageSize
  let (s, fs) ← taskAccess s (nthWord ws 1).toNat n .store
  let img := slotImage { s.me with park := 0, await := 0 }
  let part := if lead then put (tilePart (s.fe u) tiles false) (8 * imageSize) else 0
  let bad := imageFlits s.me ++ (if lead then (tileFlits (s.fe u) tiles).map (· + imageSize / 64) else [])
  let s := writePlaces s fs (img + part) bad
  let nw := suspendWords s ws (place.getD (nthWord ws 3)) link
  .ok (writePlaces s cs (ofWords nw) [], nw)

def twaitBody (a : BitVec 5) (s : State) : Res State := do
  needTaskSlot s
  let old := s
  let (s, x) ← readX s a
  let va := x.toNat
  let s ← needCounter s va
  waitDrain s
  if holdsLease s then .ok (drainLeases old s)
  else do
  let (s, v) ← atomicAt s va 16 .both false fun _ => none
  if v % 2 ^ 64 = 0 then do
    waitAcquire s 6
    .ok s.acquired
  else do
    let (s, _) ← suspend s none (w64 (v / 2 ^ 64))
    let c := s.me.cont
    let (s, _) ← atomicAt s va 16 .both false fun v => some (v % 2 ^ 64 + put c.toNat 64)
    let s := { s with twaits := (s.mine.job, c.toNat) :: s.twaits.filter fun w => w != (s.mine.job, c.toNat) }
    .ok (freeSlot (s.stowHeld s.cur.unit s.cur.slot) s.cur.unit s.cur.slot)

def execTwait (a : BitVec 5) (s : State) : Host.Outcome State Fault Refusal :=
  issue (.twait a) s.onCore s (twaitBody a)

def tsuspBody (a : BitVec 5) (s : State) : Res State := do
  needTaskSlot s
  let old := s
  let (s, x) ← readX s a
  let p : Word := x &&& 0x7FFFFFFFFFFFFFFF#64
  needValue (if wbit x 63 then placementOk s.me.kind.toNat p else x == 0) a
  waitDrain s
  if holdsLease s then .ok (drainLeases old s)
  else do
  let (s, ws) ← suspend s (if wbit x 63 then some p else none) 0
  let va := s.me.cont.toNat
  need (!releaseWaits s s.cur.unit va ws 1) (.hold none)
  .ok (release (freeSlot (s.stowHeld s.cur.unit s.cur.slot) s.cur.unit s.cur.slot) s.cur.unit va ws 1)

def execTsusp (a : BitVec 5) (s : State) : Host.Outcome State Fault Refusal :=
  issue (.tsusp a) s.onCoreU s (tsuspBody a)

def texitBody (s : State) : Res State := do
  needTaskSlot s
  waitDrain s
  let ctr := s.me.ctr
  let s ← if ctr = 0 then .ok s else decrement s ctr.toNat
  .ok (freeSlot s s.cur.unit s.cur.slot)

def execTexit (s : State) : Host.Outcome State Fault Refusal := issue .texit s.onCoreU s texitBody

/-! ### PHASE (R383) -/

def execPhase (a : BitVec 5) (s : State) : Host.Outcome State Fault Refusal :=
  issue (.phase a) s.onCore s fun s => do
    let (s, x) ← readX s a
    needValue (wfld x 63 4 == 0) a
    .ok (phaseRequest s s.cur.unit (16 * wfld s.me.jobword 23 18 + x.toNat))

end Sys2Proof.Machine
end

