-- ==== Sys2Proof/Machine/Publish.lean ====
section
/-! DEFINITION. The publication of the global steps and of a cut's counts, writes of GSTEPd, and the wrap sweep
(17 R389 to R392, R404, 18 R431, R432, 21 R472). -/

namespace Sys2Proof.Machine

open Sys2Proof

/-! ### Reports (R389) -/

/-- A core is live in a domain while its job is of the domain and one of its slots 0 to 5 is active. -/
def liveIn (s : State) (d u : Nat) : Bool :=
  isCore u && stepDomain s u == some d && (upTo 6).any fun k => (s.hart u k).active

/-- A vector instruction that stores. -/
def vStores (i : Instr) : Bool :=
  match vkind i with
  | some (.mem store _ _ _ _) => store
  | some (.stamped o _ _ _) => match o with | .ld => false | _ => true
  | _ => false

/-- The issue steps of a core's unperformed stores, atomics and stamped writes, undelivered messages and incomplete engine operations. -/
def openSteps (s : State) (u : Nat) : List Nat :=
  let x := s.unit u
  let q := s.quad (quadOf u)
  let vops := (q.vwait ++ q.vunit).filter fun o => o.agent.unit == u && vStores o.i
  let queued := (x.fe.inq ++ x.fe.replay).filter fun e => tileWrites (decodeTcw e.tcw)
  let flights := (s.mesh.filter fun f => f.msg.src == u).map fun f => f.msg
  let waiting := s.units.flatMap fun p => p.2.ni.inbuf.filter fun m => m.src == u
  x.wt.map (fun w => w.step.toNat) ++ vops.map (fun o => o.step.toNat) ++ queued.map (fun e => e.step.toNat)
    ++ ((x.fe.rob.filter fun r => r.writes).map fun r => r.e.step.toNat) ++ x.fe.writing.map (fun w => w.step.toNat)
    ++ (x.ni.reqQ ++ x.ni.rplQ ++ x.ni.heldBuf ++ flights ++ waiting).map (fun m => m.stamp.toNat)
    ++ x.ops.map (fun o => o.step.toNat)

/-- A core's report. -/
def report (s : State) (u : Nat) : Nat := (openSteps s u).foldl min (s.unit u).step.toNat

/-- The G that the next publication gives a domain. -/
def nextG (s : State) (d : Nat) : BitVec 48 :=
  let g := fget s.pkg.g d 0
  match (s.pkg.gwrite.find? fun p => p.1 == d) with
  | some p => p.2
  | none =>
    match ((upTo 192).filter fun u => liveIn s d u).map (report s) with
    | [] => g
    | r :: rs => BitVec.ofNat 48 (max g.toNat (rs.foldl min r))

/-! ### The wrap sweep (R404, 21 R472) -/

/-- Every descriptor of a range tree. -/
def treeLeaves (s : State) : Nat → Nat → List RangeEntry
  | 0, _ => []
  | fuel + 1, n =>
    if !homePaOk s n 256 then []
    else
      let h := s.getW n
      let cnt := wfld h 55 48
      if wfld h 63 56 = 2 then (upTo (min cnt 16)).flatMap fun i => treeLeaves s fuel (s.getW (n + 8 * (16 + i))).toNat
      else if wfld h 63 56 = 1 then (upTo (min cnt 3)).filterMap fun j => readDesc s (n + 64 * (j + 1))
      else []

/-- Up to where a running move or return has copied a range: its engine's position, which a published cursor may lie behind. -/
def livePos (s : State) (e : RangeEntry) : Nat :=
  let o := if e.state = stMoving then orderOf s .move e else if e.state = stReturning then orderOf s .back e else none
  match o with
  | some (_, _, o) => max e.cursor o.pos
  | none => e.cursor

/-- The places (first and last byte) of a range that hold its bytes now. -/
def rangeSpans (s : State) (e : RangeEntry) : List (Nat × Nat) :=
  let c := livePos s e
  if (e.state = stMoving || e.state = stReturning) && decide (e.vbase < c) then
    [(addOff e.vbase e.noff, addOff (min e.last (c - 1)) e.noff)]
      ++ (if c ≤ e.last then [(addOff c e.offset, addOff e.last e.offset)] else [])
  else [(addOff e.vbase e.offset, addOff e.last e.offset)]

/-- The addresses whose byte may lie at a memory cell. -/
def cellAddrs (s : State) (c : Nat) : List Nat :=
  c :: (upTo 16).map fun n =>
    let w := fget s.pkg.capwin n 0
    2 ^ 49 + (c - portCell (windowPort w)) + wfld w 11 0 * 2 ^ 30

/-- The job numbers whose entry of the job table holds some byte that is not 0: every valid entry is one of them. -/
def tableJobs (s : State) : List Nat :=
  let base := wfld s.pkg.jobtab 51 12 * 4096
  (s.mem.flatMap fun c => (cellAddrs s c.1).filterMap fun a =>
    if base ≤ a ∧ a < base + 2 ^ 19 then some ((a - base) / 8) else none).dedup

/-- The ranges with S of a domain's jobs. -/
def stampedRanges (s : State) (d : Nat) : List RangeEntry :=
  ((tableJobs s).filter fun j => ((jobWord? s (BitVec.ofNat 16 j) 0).map fun w => wfld w 20 18) == some d).flatMap fun j =>
    match rootOf? s (BitVec.ofNat 16 j) with
    | some root => (treeLeaves s 8 root).filter fun e => e.s && e.state != stInvalid && e.job == BitVec.ofNat 16 j
    | none => []

/-- The stamped places of a domain's jobs. -/
def stampedSpans (s : State) (d : Nat) : List (Nat × Nat) := (stampedRanges s d).flatMap (rangeSpans s)

/-- The lower of two places, where there are any. -/
def lowerPlace (b : Option Nat) (x : Nat) : Option Nat :=
  match b with
  | none => some x
  | some y => some (min x y)

/-- The places at which a capacity window may begin or have ended (09 R229). -/
def windowEdges (s : State) : List Nat :=
  (upTo 16).flatMap fun n =>
    let w := fget s.pkg.capwin n 0
    [2 ^ 49 + 2 ^ 30 * wfld w 11 0, 2 ^ 49 + 2 ^ 30 * (wfld w 43 32 + 1)]

/-- The first word at or after pos of a span whose line is homed at station m. Between two edges of windows one die is
home, and one of any 48 lines in a row is homed at each of its stations. -/
def nextIn (s : State) (m pos : Nat) (p : Nat × Nat) : Option Nat :=
  let a := max pos p.1
  let after (b : Nat) : Option Nat :=
    (b :: (upTo 64).map fun i => 256 * (b / 256 + 1 + i)).find? fun x => decide (x ≤ p.2) && (homeOf s x).station == m
  ((a :: (windowEdges s).filter fun b => decide (a < b) && decide (b ≤ p.2)).filterMap after).foldl lowerPlace none

/-- The first word at or after pos of some spans that is homed at station m, those already visited passed over. -/
def nextFrom (s : State) (m : Nat) (spans : List (Nat × Nat)) (skip : List Nat) : Nat → Nat → Option Nat
  | 0, _ => none
  | fuel + 1, pos =>
    match (spans.filterMap (nextIn s m pos)).foldl lowerPlace none with
    | some x => if skip.contains x then nextFrom s m spans skip fuel (x + 8) else some x
    | none => none

/-- The next stamped word that station m visits in a sweep of domain d: one that a range order has brought behind its position, else
the next in order. -/
def nextStamped (s : State) (d m : Nat) : Option Nat :=
  let w := fget s.pkg.sweep d Sweep.reset
  let spans := stampedSpans s d
  let back := w.extra.filter fun x => (homeOf s x).station == m && spans.any fun p => decide (p.1 ≤ x) && decide (x ≤ p.2)
  match back.foldl lowerPlace none with
  | some x => some x
  | none => nextFrom s m spans w.skip (w.skip.length + 1) (fget w.pos m 0)

def modSweep (s : State) (d : Nat) (f : Sweep → Sweep) : State :=
  s.modPkg fun p => { p with sweep := fset p.sweep d (f (fget p.sweep d Sweep.reset)) }

/-- Units whose job is of a domain. -/
def domainUnits (s : State) (d : Nat) : List Nat := (upTo 228).filter fun u => stepDomain s u == some d

/-- The sweep for a crossing point begins. -/
def Sweep.start (w : Sweep) (k : BitVec 48) : Sweep := { w with run := true, point := k, pos := [], extra := [], skip := [] }

/-- A sweep ends when no station has a word left, and that of the next point passed begins: a STEPINC that it held back tests its bound
again (R399). -/
def endSweep (s : State) (d : Nat) : State :=
  let w := fget s.pkg.sweep d Sweep.reset
  if w.run && (upTo 6).all fun m => (nextStamped s d m).isNone then
    (domainUnits s d).foldl (fun t u => wakePark t u 13)
      (modSweep s d fun w => if w.point.toNat < w.last.toNat then w.start (w.point + 2 ^ 22) else { w with run := false })
  else s

/-- A sweep starts for each multiple of 2^22 that G first reaches or passes, one after another; one whose words are all gone ends. Where a
write has lowered G, the sweeps that run and those that follow them go on, and a multiple that G has reached before starts none when G
passes it again (DESIGN CHOICE, log entry 44). -/
def startSweep (s : State) (d : Nat) (old new : BitVec 48) : State :=
  let a := max (old.toNat / 2 ^ 22) ((fget s.pkg.sweep d Sweep.reset).last.toNat / 2 ^ 22)
  let k := new.toNat / 2 ^ 22
  let go (w : Sweep) : Sweep :=
    let w := { w with last := BitVec.ofNat 48 (k * 2 ^ 22) }
    if w.run then w else w.start (BitVec.ofNat 48 ((a + 1) * 2 ^ 22))
  endSweep (if a < k then modSweep s d go else s) d

/-- What the sweep for crossing point k makes of a word (R404): the word, and whether it is counted. -/
def sweepWord (lambda : Nat → Nat) (k w : Nat) : Nat × Bool :=
  let a := ageOf k (swStamp w)
  if swSettled w then (w, false)
  else if 2 ^ 21 ≤ a ∧ a < 2 ^ 23 then
    (swWord (canonFp32 (decayValue (swValue w) (lambda (swClass w)) a)) k (swClass w) false, false)
  else if a < 2 ^ 21 ∨ 2 ^ 24 - 2 ^ 22 ≤ a then (w, false)
  else (w, true)

/-- λ of a class in the sweep's decay table of a domain. -/
def sweepLambda (s : State) (d c : Nat) : Nat := (fget s.pkg.decay (16 * d + c) 0).toNat

/-- The outbound order, not yet switched, of the range that holds the word at pa: its place, the order, and the word's address. -/
def sweepOrder (s : State) (d pa : Nat) : Option (Nat × Nat × Order × Nat) := do
  let e ← (stampedRanges s d).find? fun e => e.state = stOutbound && (rangeSpans s e).any fun p => decide (p.1 ≤ pa) && decide (pa ≤ p.2)
  let (m, i, o) ← orderOf s .offload e
  if o.phase = .switched then none else some (m, i, o, e.vbase + (pa - addOff e.vbase e.offset))

/-- The sweep's restamp of a word, at pa, of a range on its way out is a write that cancels the order (15 R364; DEDUCED, log entry 44). -/
def sweepCancel (s : State) (d pa : Nat) : State :=
  match sweepOrder s d pa with
  | some (m, i, o, va) => cancelOrder s m i o va
  | none => s

/-- A word of the sweep waits while a line that it writes is locked for a joint commit (R410). -/
def sweepHeld (s : State) (d pa : Nat) : Bool :=
  pairLocked s (lineOf pa) || (sweepOrder s d pa).any fun x => cancelWaits s x.2.2.1

/-- WRAP_SWEEP_WORD: the next word of station m. -/
def execWrapSweepWord (d m pa : Nat) (s : State) : Host.Outcome State Fault Refusal :=
  let sw := fget s.pkg.sweep d Sweep.reset
  if sw.run && decide (d < 8) && nextStamped s d m == some pa && !sweepHeld s d pa then
    let (t, old) := s.homeLoad pa 8
    let (w, counted) := sweepWord (sweepLambda s d) sw.point.toNat old
    let t := if w = old then t else (sweepCancel t d pa).homeStore pa 8 w
    .next (endSweep (modSweep t d fun x =>
      { x with extra := x.extra.erase pa, pos := if x.extra.contains pa then x.pos else fset x.pos m (pa + 8),
               outwin := if counted then x.outwin + 1 else x.outwin }) d)
  else .next (endSweep s d)

/-! ### Publication (R389, R390, 18 R431, R432) -/

/-- One domain's publication. -/
def publishDomain (s : State) (d : Nat) : State :=
  let old := fget s.pkg.g d 0
  let g := nextG s d
  let t := s.modPkg fun p => { p with g := fset p.g d g, gwrite := p.gwrite.filter fun q => q.1 != d }
  let t := (domainUnits s d).foldl (fun t u =>
    if (t.unit u).gstep = g then t else wakePark (t.modUnit u fun x => { x with gstep := g }) u 13) t
  startSweep t d old g

/-- SENT minus RCVD of a job's colour over every interface (R431). -/
def inTransit (s : State) (j : BitVec 16) (c : Bool) : Int :=
  let pick (a b : Int) : Int := if c then b else a
  let r := fget s.residual j.toNat (0, 0)
  pick r.1 r.2
    + (s.units.map fun p =>
        (if p.2.ni.cjob = j then pick ((p.2.ni.sent0 : Int) - p.2.ni.rcvd0) ((p.2.ni.sent1 : Int) - p.2.ni.rcvd1) else 0)
          + (match p.2.late with
             | some l => if l.job = j then pick ((l.sent0 : Int) - l.rcvd0) ((l.sent1 : Int) - l.rcvd1) else 0
             | none => 0)).sum

/-- The cut's counts are published, and it closes when every core has stopped and D is 0. -/
def publishCut (s : State) : State :=
  match s.cut with
  | some c =>
    if c.announced && !c.closed then
      let d := inTransit s c.job c.old
      { s with cut := some { c with d := d, closed := c.notStopped.isEmpty && d == 0 } }
    else s
  | none => s

/-- GSTEP_PUBLISH. -/
def execGstepPublish (s : State) : Host.Outcome State Fault Refusal :=
  .next (publishCut ((upTo 8).foldl publishDomain s))

/-- A write of GSTEPd (R390). -/
def gstepWrite (s : State) (d : Nat) (v : Word) : State :=
  let g : BitVec 48 := v.setWidth 48
  let s1 := if wbit v 63 then s.modPkg fun p => { p with gbadw := fset p.gbadw d false } else s
  if g = fget s.pkg.g d 0 then s1
  else
    let idle := (upTo 192).all (fun u => !liveIn s d u)
      && (upTo 24).all fun i => !(stepDomain s (204 + i) == some d && (s.hart (204 + i) 0).active)
    if idle then s1.modPkg fun p => { p with gwrite := fset p.gwrite d g }
    else s1.modPkg fun p => { p with gbadw := fset p.gbadw d true }

/-- GSTEP_WRITE. -/
def execGstepWrite (d : Nat) (v : Word) (s : State) : Host.Outcome State Fault Refusal :=
  onlyIf (decide (d < 8)) s (gstepWrite s d v)

end Sys2Proof.Machine
end

