-- ==== Sys2Proof/Machine/Removal.lean ====
section
/-! DEFINITION. Fatal removal, its dump and the seal, double faults and watchdogs, soft errors (20 R443 to R457). -/

namespace Sys2Proof.Machine

open Sys2Proof

/-! ### The dump area (Table 20.3) -/

/-- DUMP and MAXTILES of a job's descriptor. -/
def dumpBase (s : State) (j : BitVec 16) : Nat := ((jobWord? s j 8).map fun w => wfld w 55 0).getD 0
def jobTiles (s : State) (j : BitVec 16) : Nat := ((jobWord? s j 0).map fun w => wfld w 28 24).getD 0

/-- n bytes written at an offset of a job's dump area, under the ranges of job 0, by a unit (R447, R450): the state after it and,
of a refused write, the cause and address; none where the write waits. -/
def dumpWrite (s : State) (u : Nat) (j : BitVec 16) (off n v : Nat) (bad : List Nat) : Option (State × Option (Nat × Nat)) :=
  match deviceAccess s u 0 (dumpBase s j + off) n .store with
  | .ok t ps => some (writePlaces t ps v bad, none)
  | .wait => none
  | .refused t c x => some (t, some (c, x))

/-- The unit in whose name a die's management station writes: the first CMC of its die. -/
def stationOf (d : Nat) : Nat := if d = 0 then 192 else 195

def findRemoval (s : State) (j : BitVec 16) : Option Removal := (s.removals.find? fun p => p.1 == j.toNat).map (·.2)
def modRemoval (s : State) (j : BitVec 16) (f : Removal → Removal) : State :=
  { s with removals := s.removals.map fun p => if p.1 = j.toNat then (p.1, f p.2) else p }

/-- A write of the dump that waits is held behind those that wait already, and made later (log entry 25). -/
def dumpHold (s : State) (j : BitVec 16) (w : DumpWrite) : State := modRemoval s j fun r => { r with pend := r.pend ++ [w] }
def dumpHeld (s : State) (j : BitVec 16) : Bool := (findRemoval s j).any fun r => r.pend != []

/-- A write that appends no cause of its own: a refused one is not made. -/
def dumpTry (s : State) (u : Nat) (j : BitVec 16) (off n v : Nat) : State :=
  let later := dumpHold s j { unit := u, off := off, n := n, v := v, quiet := true }
  if dumpHeld s j then later
  else
    match dumpWrite s u j off n v [] with
    | some (t, _) => t
    | none => later

/-- The second header word. -/
def dumpFlags (j : BitVec 16) (r : Removal) : Nat :=
  put r.ncause 32 + bitAt r.writer 18 + bitAt r.sealed 17 + bitAt r.incomplete 16 + j.toNat

/-! ### The cause chain (R448, R449) -/

/-- A cause record's fields. -/
structure Cause where
  cause : Nat
  slot : Nat
  tile : Bool
  unit : Nat
  source : Nat
  pc : Word
  addr : Word
  step : BitVec 48
  deriving DecidableEq, Repr

/-- The 32 bytes of a cause record. -/
def Cause.bits (c : Cause) (parent : Nat) : Nat :=
  ofWords [w64 (put (parent % 65536) 48 + put c.source 25 + put c.unit 16 + bitAt c.tile 11 + put c.slot 8 + c.cause),
           c.pc, c.addr, c.step.setWidth 64]

/-- UNIT and SOURCE of a unit. -/
def causeUnit (u : Nat) : Nat × Nat :=
  if isCore u then (u, 0) else if isUcore u then (u - 204, 1) else (u - 192, 2)

/-- The header's words that change while a removal runs: offset, bytes and value. -/
def headerWords (j : BitVec 16) (r : Removal) : List (Nat × Nat × Nat) :=
  [(8, 8, dumpFlags j r), (0x20, 40, r.cores.toNat + put r.ucores.toNat 192 + put r.dropped 256)]

/-- The cause that a refused write of the dump appends, with PARENT 0 (R449, R450); what of its own record and header is refused in turn
is not made. -/
def refusedWrite (s : State) (u : Nat) (j : BitVec 16) (cause va : Nat) : State :=
  match findRemoval s j with
  | none => s
  | some r =>
    let (n, src) := causeUnit u
    let c : Cause := { cause := cause, slot := 0, tile := false, unit := n, source := src, pc := 0, addr := w64 va, step := (s.unit u).step }
    let t := if r.ncause < 128 then dumpTry s u j (0x1000 + 32 * r.ncause) 32 (c.bits 0) else s
    let r := { r with ncause := r.ncause + 1, incomplete := true }
    (headerWords j r).foldl (fun t h => dumpTry t 192 j h.1 h.2.1 h.2.2) (modRemoval t j fun _ => r)

/-- A write of the header, of a cause or of the seal: a refused one appends a cause. -/
def dumpPut (s : State) (u : Nat) (j : BitVec 16) (off n v : Nat) : State :=
  let later := dumpHold s j { unit := u, off := off, n := n, v := v, quiet := false }
  if dumpHeld s j then later
  else
    match dumpWrite s u j off n v [] with
    | some (t, none) => t
    | some (t, some (c, x)) => refusedWrite t u j c x
    | none => later

/-- The header's fields that change while the removal runs, written. -/
def writeHeader (s : State) (j : BitVec 16) : State :=
  match findRemoval s j with
  | none => s
  | some r => (headerWords j r).foldl (fun t h => dumpPut t 192 j h.1 h.2.1 h.2.2) s

/-- The writes that wait are made, in their order, up to one that still waits; the header follows with what it says now. -/
def flushDump (s : State) (j : BitVec 16) : State :=
  match findRemoval s j with
  | none => s
  | some r =>
    if r.pend == [] then s
    else
      let again (t : State) (w : DumpWrite) : State := if w.quiet then dumpTry t w.unit j w.off w.n w.v else dumpPut t w.unit j w.off w.n w.v
      writeHeader (r.pend.foldl again (modRemoval s j fun r => { r with pend := [] })) j

/-- A cause appended with its parent; those beyond record 127 are only counted. -/
def appendCause (s : State) (u : Nat) (j : BitVec 16) (c : Cause) (parent : Nat) : State :=
  match findRemoval s j with
  | none => s
  | some r =>
    let t := modRemoval s j fun r => { r with ncause := r.ncause + 1 }
    writeHeader (if r.ncause < 128 then dumpPut t u j (0x1000 + 32 * r.ncause) 32 (c.bits parent) else t) j

/-- The cause that a trap record tells. -/
def causeOfRecord (r : List Word) : Cause :=
  let w := nthWord r 0
  { cause := wfld w 7 0, slot := wfld w 10 8, tile := wbit w 11, unit := wfld w 31 24, source := wfld w 18 17,
    pc := nthWord r 1, addr := nthWord r 2, step := (nthWord r 5).setWidth 48 }

/-- JOB of a record. -/
def recordJob (r : List Word) : BitVec 16 := BitVec.ofNat 16 (wfld (nthWord r 0) 47 32)

/-- A cause of a die's management station. -/
def stationCause (d cause : Nat) (pc addr : Word) : Cause :=
  { cause := cause, slot := 0, tile := false, unit := d, source := 3, pc := pc, addr := addr, step := 0 }

/-! ### The stop (R445, R446) -/

/-- A slot's wait in the pipe, its hand-off still waiting and its reservations are abandoned; what the hand-off popped is put back. -/
def abandonSlot (s : State) (u k : Nat) : State :=
  let t := if isUcore u then pairRelease s u .idle else s
  let waiting (o : VOp) : Bool := o.agent.unit == u && o.agent.slot == k
  let vw := (t.quad (quadOf u)).vwait.filter waiting
  let t := if isCore u then t.modQuad (quadOf u) fun q => { q with vwait := q.vwait.filter fun o => !waiting o } else t
  let t := t.modHart u k fun h => { h with pipe := .idle, resv := none }
  vw.foldl (fun t o => t.modHart u k fun h => { (o.unpop h).unpark with pp := o.pp, pfx := o.pfx }) t

/-- Requests of a core's tile stream to convoys are withdrawn; a convoy that no member is left of ends, and its pins with it. -/
def leaveConvoys (s : State) (u : Nat) : State :=
  let left := s.convoys.map fun c =>
    { c with members := c.members.filter fun m => m / 32 != u, late := c.late.filter fun m => m.1 / 32 != u,
             inFlight := c.inFlight.filter fun m => m.1 / 32 != u }
  (left.filter fun c => c.members == [] && !c.ended).foldl (fun t c => t.unpin (convoyPin c))
    { s with convoys := left.filter fun c => c.members != [] && !(c.ended && c.inFlight == []) }

/-- A unit that holds the job stops (R445): slots 0 to 6 issue nothing further, the tile stream is discarded into its
replay list, a resident-handler run is abandoned; no value held for a slot's port is delivered any more (11 R300). -/
def stopUnit (s : State) (j : BitVec 16) (u : Nat) : State :=
  let t := (upTo 7).foldl (fun t k => abandonSlot t u k) s
  let t := if isCore u then leaveConvoys (discardFrom t u (t.fe u).rob) u else t
  let t := discardOps t u
  let t := (upTo 8).foldl (fun t k => t.modHart u k fun h => { h with held := [] }) t
  let h := t.hart u 7
  let t :=
    if isCore u && h.active then
      let t := if (t.unit u).forTrap then
          appendCause t u j { cause := wfld h.hxtrap 7 0, slot := wfld h.hxtrap 10 8, tile := wbit h.hxtrap 11, unit := u, source := 0, pc := h.pc, addr := h.hxepc,
                              step := (t.unit u).step } 0
        else t
      t.modHart u 7 fun h => { h with active := false, park := 0, await := 0, waitOn := none, pipe := .idle }
    else t
  t.modUnit u fun x => { x with pendLocal := [], preempt := none, inboxOvf := false, wake := false, stopped := false }

/-- The cores and update cores that hold a job. -/
def holders (s : State) (j : BitVec 16) : List Nat := (upTo 228).filter fun u => !isCmc u && (s.unit u).job == j

/-- The CUTREQ that waits for the announcement of a job's cut goes on with the PREEMPTs that still wait; one of a cut that is abandoned
has nothing to send (20 R446). -/
def cutGoesOn (s : State) (j : BitVec 16) (waits : List Nat) (dir : Word) : State :=
  ((upTo 52).map (· + 192)).foldl (fun t u =>
    if (t.hart u 0).pipe = .cutRun then t.modHart u 0 fun h => { h with pipe := .cutSend j waits dir } else t) s
def cutAbandoned (s : State) (j : BitVec 16) : State :=
  ((upTo 52).map (· + 192)).foldl (fun t u =>
    match (t.hart u 0).pipe with
    | .cutSend i (_ :: _) dir => if i = j then t.modHart u 0 fun h => { h with pipe := .cutSend j [] dir } else t
    | _ => t)
    (match s.cut with
     | some c => if c.job = j then { cutGoesOn s j [] 0 with cut := none } else s
     | none => s)

/-- Fatal removal starts (R443), or a further trigger appends its cause (R453). Job 0, the system's own, is never removed (log
entry 25). -/
def startRemoval (s : State) (j : BitVec 16) (c : Cause) (writer reg : Bool) : State :=
  if j = 0 then s
  else if removing s j then appendCause s 192 j c 0
  else
    let us := holders s j
    let r : Removal :=
      { ncause := 0, writer := writer, incomplete := false, held := us, todo := us, cores := 0, ucores := 0, dropped := 0, sealed := false, reg := reg, pend := [] }
    let t := { s with removals := fset s.removals j.toNat r }
    let t := appendCause t 192 j c 0xFFFF
    let t := dumpPut t 192 j 0 8 0x504D5544
    let t := (dumpPut t 192 j 0x10 16 t.freeWord.toNat).took
    let t := { t with heldAway := t.heldAway.filter fun e => e.job != j }
    let t := us.foldl (fun t u => stopUnit t j u) t
    cutAbandoned (stopOrders t j) j

/-! ### Records of stopped units (R447, R450) -/

/-- The records that NISPILL spills, in its order (18 R428). -/
def spillBits (m : Msg) (outgoing : Bool) : Nat :=
  if outgoing then
    ofWords ([(m.hdr &&& 0xFFFFFFFFFFFFFC00#64) ||| w64 (m.rank % 1024),
              w64 (m.stamp.toNat + 2 ^ 62 + bitAt m.reply 63)] ++ m.payload) % 2 ^ 640
  else m.bits % 2 ^ 640

def spillList (n : Ni) : List Nat :=
  n.inbox.map (fun m => spillBits m false) ++ (n.heldBuf ++ n.reqQ ++ n.rplQ).map fun m => spillBits m true

/-- An interface with its first k spilled messages gone. -/
def spilled (n : Ni) (k : Nat) : Ni :=
  let a := n.inbox.length
  let b := n.heldBuf.length
  let c := n.reqQ.length
  { n with inbox := n.inbox.drop k, heldBuf := n.heldBuf.drop (k - a), reqQ := n.reqQ.drop (k - a - b), rplQ := n.rplQ.drop (k - a - b - c) }

/-- Consecutive 80-byte records as one number. -/
def recordsBits : List Nat → Nat
  | [] => 0
  | r :: t => r + 2 ^ 640 * recordsBits t

/-- The mask of a unit's active slots. -/
def activeMask (s : State) (u : Nat) : Nat := ((upTo 7).map fun k => bitAt (s.hart u k).active k).sum

/-- The pieces of a core record (R430) by offset: size, bits and poisoned flits. -/
def coreRecordPieces (s : State) (u : Nat) (tiles : Nat) : List (Nat × Nat × Nat × List Nat) :=
  let x := s.unit u
  let image (k : Nat) : Nat × Nat × Nat × List Nat :=
    let h := s.hart u k
    (0x4000 + 0x2000 * k, imageSize, if h.active then slotImage h else 0, if h.active then imageFlits h else [])
  let t := coreRecordT tiles
  let recs := (spillList x.ni).take 819
  [(0, coreBlockSize, coreBlock x (activeMask s u), [])] ++ (upTo 7).map image
    ++ (if tiles = 0 then [] else [(0x12000, tilePartSize tiles, tilePart x.fe tiles (tileFaulted s u), tileFlits x.fe tiles)])
    ++ [(t, residentBase, s.get (storeBase u) residentBase, placesFlits s [(0, storeBase u, residentBase)])]
    ++ (if recs == [] then [] else [(t + residentBase, 80 * recs.length, recordsBits recs, [])])

/-- The pieces of an update core's record. -/
def ucoreRecordPieces (s : State) (u : Nat) : List (Nat × Nat × Nat × List Nat) :=
  let h := s.hart u 0
  [(0, imageSize, if h.active then slotImage h else 0, imageFlits h),
   (imageSize, 0x40000, s.get (storeBase u) 0x40000, placesFlits s [(0, storeBase u, 0x40000)])]

/-- Where a unit's record lies in the dump area. -/
def recordOffset (s : State) (j : BitVec 16) (u : Nat) : Nat :=
  let csz := coreRecordSize (jobTiles s j)
  if isCore u then 0x2000 + u * csz else 0x2000 + 192 * csz + (u - 204) * 0x42000

/-- Pieces written in order until one is refused: the state, and the refusal; none while one of them waits. -/
def writePieces (s : State) (u : Nat) (j : BitVec 16) (base : Nat) :
    List (Nat × Nat × Nat × List Nat) → Option (State × Option (Nat × Nat))
  | [] => some (s, none)
  | (off, n, v, bad) :: rest =>
    match dumpWrite s u j (base + off) n v bad with
    | some (t, none) => writePieces t u j base rest
    | r => r

/-- The pieces of a stopped unit's record. -/
def recordPieces (s : State) (u : Nat) (j : BitVec 16) : List (Nat × Nat × Nat × List Nat) :=
  if isCore u then coreRecordPieces s u (jobTiles s j) else ucoreRecordPieces s u

/-- A unit holds nothing of the job any more but range-table entries (R450). What empties of its interface may wake slot 7
(12 R318, R321). -/
def leaveJob (s : State) (u : Nat) (j : BitVec 16) : State :=
  let n := s.ni u
  let kept := if isCore u then (spillList n).length - 819 else (spillList n).length
  let t := (upTo 7).foldl (fun t k => freeSlot t u k) (endLeases s u)
  let t := (upTo 8).foldl (fun t k => t.modHart u k fun h => { h with held := [] }) t
  let t := (foldCounts t u 0).modUnit u fun x =>
    { x with job := 0, desc := 0, records := [], barriers := [], abandoned := [],
             relock := [], icache := x.icache.map fun l => { l with locked := false },
             ni := { x.ni with inbox := [], heldBuf := [], reqQ := [], rplQ := [], inbuf := x.ni.inbuf.filter fun m => m.job != j },
             blockIn := false }
  let t := replayCheck (if n.reqQ == [] && n.rplQ == [] then t else sendqFreed t u) u
  modRemoval t j fun r => { r with todo := r.todo.filter fun v => v != u, dropped := r.dropped + kept + (n.inbuf.filter fun m => m.job == j).length }

/-- A unit's record is noted in the header's mask, or a refused write of it as a cause (R450). -/
def recordWritten (s : State) (u : Nat) (j : BitVec 16) (bad : Option (Nat × Nat)) : State :=
  match bad with
  | none =>
    modRemoval s j fun r =>
      if isCore u then { r with cores := r.cores ||| (1#192 <<< u) } else { r with ucores := r.ucores ||| (1#24 <<< (u - 204)) }
  | some (c, x) =>
    let (n, src) := causeUnit u
    appendCause (modRemoval s j fun r => { r with incomplete := true }) u j
      { cause := c, slot := 0, tile := false, unit := n, source := src, pc := 0, addr := w64 x, step := (s.unit u).step } 0

/-- DUMP_RECORD_WRITTEN: once its vector operations have ended and its retired stores are written, a stopped unit writes
its record, which waits where a place of it waits at a return cursor. -/
def execDumpRecordWritten (u : Nat) (s : State) : Host.Outcome State Fault Refusal :=
  let j := (s.unit u).job
  match findRemoval s j with
  | none => .next s
  | some r =>
    let busy := (s.quad (quadOf u)).vunit.any (fun o => o.agent.unit == u) && isCore u
    if r.sealed || !r.todo.contains u || busy || (s.fe u).writing != [] then .next s
    else
      let s := flushDump s j
      match writePieces s u j (recordOffset s j u) (recordPieces s u j) with
      | none => .next s
      | some (t, bad) => .next (writeHeader (leaveJob (recordWritten t u j bad) u j) j)

/-- What a core has in its quad's vector unit is lost when the core is reset. -/
def dropVector (s : State) (u : Nat) : State :=
  let other (o : VOp) : Bool := o.agent.unit != u
  s.modQuad (quadOf u) fun q => { q with vwait := q.vwait.filter other, vunit := q.vunit.filter other }

/-- DUMP_WRITE_TIMEOUT: the core is reset by the management station, which appends a WATCHDOG record. -/
def execDumpWriteTimeout (u : Nat) (s : State) : Host.Outcome State Fault Refusal :=
  let j := (s.unit u).job
  match findRemoval s j with
  | none => .next s
  | some r =>
    if r.sealed || !r.todo.contains u || !isCore u then .next s
    else
      let d := unitDie u
      let t := appendCause s (stationOf d) j (stationCause d cWatchdog 0 0) 0
      let t := dropVector ((upTo 7).foldl (fun t k => abandonSlot t u k) (leaveJob t u j)) u
      let t := (upTo 8).foldl (fun t k => t.setHart u k Slot.reset) t
      .next (writeHeader (t.setUnit u { UnitSt.reset with bseen := (s.unit u).bseen, known := (t.unit u).known }) j)

/-! ### The seal (R451, 18 R435) -/

/-- Messages of a job that are still on their way, or wait at an interface, are discarded and counted (R446). -/
def dropStray (s : State) (j : BitVec 16) : State :=
  let n := (s.mesh.filter fun f => f.msg.job == j).length + (s.units.map fun p => (p.2.ni.inbuf.filter fun m => m.job == j).length).sum
  let without (p : Nat × UnitSt) : Nat × UnitSt := (p.1, { p.2 with ni := { p.2.ni with inbuf := p.2.ni.inbuf.filter fun m => m.job != j } })
  modRemoval { s with mesh := s.mesh.filter fun f => f.msg.job != j, units := s.units.map without } j fun r =>
    { r with dropped := r.dropped + n }

/-- SEAL and SEALED are written, after every write that waited; a removal started through JOBREMOVE is no longer BUSY. None while a write
of the dump waits: nothing of the job is released before. -/
def sealDump (s : State) (j : BitVec 16) : Option State :=
  match findRemoval s j with
  | none => some s
  | some r =>
    let s := flushDump (dropStray s j) j
    let t := (dumpPut s 192 j 0x18 8 s.freeWord.toNat).took
    let t := modRemoval t j fun r => { r with sealed := true, todo := [] }
    let t := writeHeader t j
    if dumpHeld t j then none else some (if r.reg then t.modPkg fun p => { p with jrBusy := false } else t)

/-- A cluster's mailbox without the records of a job. -/
def mailboxWithout (m : FMap MboxSlot) (j : BitVec 16) : FMap MboxSlot :=
  m.map fun p : Nat × MboxSlot =>
    if p.2.state != .empty && recordJob p.2.record == j then (p.1, MboxSlot.reset) else p

/-- The resources of R435, the range-table entries apart, whose drop is broadcast. -/
def releaseJob (s : State) (j : BitVec 16) : State :=
  let other (e : BEntry) : Bool := e.job != j
  let t := (upTo 12).foldl (fun t c => t.modCluster c fun k =>
    { k with queue := k.queue.filter other, reserved := k.reserved.filter fun r => r.2.1 != j
             barrHeld := k.barrHeld.filter fun e => e.job != j, mailbox := mailboxWithout k.mailbox j }) s
  let t := (upTo 6).foldl (fun t m => t.modStation m fun k =>
    { k with queue := k.queue.filter other, reserved := k.reserved.filter fun r => r.2.1 != j }) t
  let t := { t with pendRecords := t.pendRecords.filter fun p => recordJob p.record != j }
  let t := { t with walks := t.walks.filter fun w => w.e.job != j, heldAway := t.heldAway.filter fun e => e.job != j, residual := fset t.residual j.toNat (0, 0),
                    twaits := t.twaits.filter fun w => w.1 != j }
  let forget (p : Nat × UnitSt) : Nat × UnitSt :=
    (p.1, { p.2 with late := p.2.late.filter fun l => l.job != j, known := p.2.known.filter fun i => i != j,
                     refused := p.2.refused.filter fun i => i != j })
  let t := { t with units := t.units.map forget }
  t.broadcast (.drop j 0 (2 ^ 56 - 1))

/-- The boot firmware of a CMC or application core starts, in M-mode; its address is an open value (21 R473). -/
def bootHart (s : State) (u : Nat) : State :=
  (s.setHart u 0 { Slot.reset with active := true, priv := 3, pc := s.freeWord &&& 0xFFFFFFFFFFFFFFFC#64 }).took

/-- A stopped CMC whose jobs are all sealed is reset: its private memory cleared, its mailbox EMPTY, from its boot
firmware. -/
def resetCmc (s : State) (c : Nat) : State :=
  let u := cmcOf c
  if (s.unit u).halted && (s.removals.all fun p => p.2.sealed || !p.2.writer) then
    let t := (s.emptySpan (storeBase u) 0x40000).modCluster c fun k => { k with mailbox := [] }
    bootHart (t.setUnit u { UnitSt.reset with bseen := (s.unit u).bseen }) u
  else s

/-- DUMPSEAL holds while a write of the dump waits. -/
def needDump (t : Option State) : Res State :=
  match t with
  | some t => .ok t
  | none => .error (.hold none)

/-- DUMPSEAL. The last seal of the dumps that the management station writes for a CMC lets that CMC be reset (R452). -/
def dumpsealBody (a : BitVec 5) (s : State) : Res State := do
  let (s, x) ← readX s a
  let j : BitVec 16 := x.setWidth 16
  match s.me.pipe with
  | .broadcast n _ _ _ _ => do
    need (allSeen s n && !locksUnder s j none 0 (2 ^ 56 - 1) false && !inFlight s j none 0 (2 ^ 56 - 1)) (.hold none)
    .ok (s.modMe fun h => { h with pipe := .idle })
  | _ => do
    needValue (wfld x 63 16 == 0 && removing s j) a
    need (((findRemoval s j).map fun r => r.todo == []).getD true) (.hold none)
    waitRelease s
    let t ← needDump (sealDump s j)
    let t := (upTo 12).foldl resetCmc (releaseJob t j)
    .ok ((t.modMe fun h => { h with pipe := .broadcast t.bcasts.length j none none [] }).again 4)

def execDumpseal (a : BitVec 5) (s : State) : Host.Outcome State Fault Refusal :=
  issue (.dumpseal a) s.onCmcS s (dumpsealBody a)

/-! ### Double faults (R452) -/

/-- Jobs that hold a core of a cluster or an update core whose records go to its CMC. -/
def clusterJobs (s : State) (c : Nat) : List (BitVec 16) :=
  (((upTo 228).filter fun u =>
      ((isCore u && u / 16 == c) || (isUcore u && noticeCluster u == c)) && (s.unit u).job != 0).map
    fun u => (s.unit u).job).dedup

/-- The record that a CMC was handling, the READ slot that arrived first, where it belongs to a job. -/
def handled (s : State) (c : Nat) (j : BitVec 16) : Option (List Word) :=
  ((((s.cluster c).mailbox.filter fun p => p.2.state == .read).foldl
    (fun b p => match b with
      | none => some p.2
      | some m => if p.2.order < m.order then some p.2 else some m) none).map fun m => m.record).filter fun r => recordJob r == j

/-- A job's removal, started by the management station or handed to it (R452, R453). -/
def removeByStation (s : State) (c : Nat) (k : Cause) (j : BitVec 16) : State :=
  if removing s j then startRemoval (modRemoval s j fun r => { r with writer := true }) j k true false
  else
    match handled s c j with
    | some r => appendCause (startRemoval s j (causeOfRecord r) true false) (cmcOf c) j k 0
    | none => startRemoval s j k true false

/-- The management station stops a CMC after a double fault or a missing heartbeat, removes every job whose records go to it, and
resets it, at once where no dump is to be sealed (R452). -/
def removeForCmc (s : State) (c : Nat) (k : Cause) : State :=
  resetCmc ((clusterJobs s c).foldl (fun t j => removeByStation t c k j) (s.modUnit (cmcOf c) fun x => { x with halted := true })) c

/-- DOUBLE_FAULT: the vector address and the faulting fetch address are the CMC's PC. -/
def execDoubleFault (c : Nat) (s : State) : Host.Outcome State Fault Refusal :=
  if c < 12 then
    let pc := (s.hart (cmcOf c) 0).pc
    .next (removeForCmc s c { cause := cDoubleFault, slot := 0, tile := false, unit := c, source := 2, pc := pc, addr := pc, step := 0 })
  else .next s

/-- DUMP_SEAL_BY_STATION: the management station seals a dump it writes, releases the job's resources, and resets the
CMCs it has stopped once no such removal is left. -/
def execDumpSealByStation (j : Nat) (s : State) : Host.Outcome State Fault Refusal :=
  let job : BitVec 16 := BitVec.ofNat 16 j
  match findRemoval s job with
  | none => .next s
  | some r =>
    if r.sealed || !r.writer || r.todo != [] then .next s
    else
      match sealDump s job with
      | some t => .next ((upTo 12).foldl resetCmc (releaseJob t job))
      | none => .next s

/-! ### Watchdogs (R454) -/

def hrun (s : State) (c : Nat) : Nat := wfld (s.cluster c).wdctl 47 32
def mboxLimit (s : State) (c : Nat) : Nat := wfld (s.cluster c).wdctl 31 16
def beatLimit (s : State) (c : Nat) : Nat := wfld (s.cluster c).wdctl 15 8

/-- HRUN_WATCHDOG: a resident-handler run took too long. -/
def execHrunWatchdog (u : Nat) (s : State) : Host.Outcome State Fault Refusal :=
  if isCore u && (s.hart u 7).active && hrun s (u / 16) != 0 then
    .next (startRemoval s (s.unit u).job (stationCause (unitDie u) cWatchdog 0 (s.hart u 7).pc) true false)
  else .next s

/-- MBOX_WATCHDOG: a mailbox slot was held too long. -/
def execMboxWatchdog (c i : Nat) (s : State) : Host.Outcome State Fault Refusal :=
  let m := fget (s.cluster c).mailbox i MboxSlot.reset
  if (m.state == .full || m.state == .read || m.state == .replied) && mboxLimit s c != 0 then
    .next (startRemoval s (recordJob m.record) (stationCause (clusterDie c) cWatchdog 0 (w64 i)) true false)
  else .next s

/-- HEARTBEAT_WATCHDOG: the heartbeat period ends; without a write in it the CMC is handled as for a double fault. -/
def execHeartbeatWatchdog (c : Nat) (s : State) : Host.Outcome State Fault Refusal :=
  if 12 ≤ c || beatLimit s c == 0 then .next s
  else if (s.cluster c).beatSeen then .next (s.modCluster c fun k => { k with beatSeen := false })
  else .next (removeForCmc s c (stationCause (clusterDie c) cWatchdog 0 0))

/-- A write of CMCBEAT restarts the timer. -/
def beatWrite (s : State) (c : Nat) (v : Word) : State := s.modCluster c fun k => { k with beat := v, beatSeen := true }

def execCmcbeatWrite (c : Nat) (v : Word) (s : State) : Host.Outcome State Fault Refusal :=
  onlyIf (decide (c < 12)) s (beatWrite s c v)

/-! ### JOBREMOVE (R444) -/

def jobremoveWrite (s : State) (v : Word) : State :=
  let p := s.pkg
  let j : BitVec 16 := v.setWidth 16
  if p.jrBusy then s
  else if wbit v 63 then
    if j = 0 then s
    else
      let c : Cause := { cause := wfld v 23 16, slot := 0, tile := false, unit := 0, source := 0, pc := 0, addr := 0, step := 0 }
      let t := s.modPkg fun p => { p with jrCause := BitVec.ofNat 8 (wfld v 23 16), jrJob := j }
      if removing s j then startRemoval t j c false false
      else (startRemoval t j c false true).modPkg fun p => { p with jrBusy := true }
  else s.modPkg fun p => { p with jrCause := BitVec.ofNat 8 (wfld v 23 16), jrJob := j }

/-- JOBREMOVE_GO. -/
def execJobremoveGo (v : Word) (s : State) : Host.Outcome State Fault Refusal := .next (jobremoveWrite s v)

/-! ### Soft errors (R455, R456) -/

/-- CORRECTED_ERROR: CECNT counts, saturating. -/
def execCorrectedError (s : State) : Host.Outcome State Fault Refusal :=
  .next (s.modPkg fun p => { p with cecnt := if p.cecnt = ones64 then p.cecnt else p.cecnt + 1 })

end Sys2Proof.Machine
end

