-- ==== Sys2Proof/Machine/Traps.lean ====
section
/-! DEFINITION. The mailbox and its replies, pre-emption, the save and the restore of a core, the spill of its network
interface, consistent cuts, and the return from a trap (01 R53, 18 R414 to R434). -/

namespace Sys2Proof.Machine

open Sys2Proof

/-! ### The mailbox (R414, Table 18.3) -/

def mbox (s : State) (c i : Nat) : MboxSlot := fget (s.cluster c).mailbox i MboxSlot.reset
def setMbox (s : State) (c i : Nat) (m : MboxSlot) : State := s.modCluster c fun k => { k with mailbox := fset k.mailbox i m }

/-- The lowest free shared slot of a cluster. -/
def freeShared (s : State) (c : Nat) : Option Nat := ((upTo 16).map (· + 16)).find? fun i => (mbox s c i).state == .empty

/-- A record lands: its slot is FULL, and the CMC's `wfi` wakes. -/
def landRecord (s : State) (c i src : Nat) (r : List Word) : State :=
  wakeWfi (setMbox { s with clock := s.clock + 1 } c i { state := .full, record := r, order := s.clock, src := src, reply := [] })
    (cmcOf c)

/-- The oldest record of a core or an update core. -/
def popRecord (s : State) (u : Nat) : State := s.modUnit u fun x => { x with records := x.records.drop 1 }

/-- MAILBOX_RECORD_ARRIVAL: `src` is a core or an update core, or the source number of a notice. A stopped CMC takes
none. -/
def execMailboxRecordArrival (c src : Nat) (s : State) : Host.Outcome State Fault Refusal :=
  if 12 ≤ c || (s.unit (cmcOf c)).halted then .next s
  else if src < 228 && !isCmc src then
    let slot :=
      if isCore src then (if src / 16 == c && (mbox s c (src % 16)).state == .empty then some (src % 16) else none)
      else if noticeCluster src == c then freeShared s c else none
    match slot, (s.unit src).records with
    | some i, r :: _ => .next (landRecord (popRecord s src) c i src r)
    | _, _ => .next s
  else
    match findPos (fun p : PendRecord => p.cluster == c && p.src == src) s.pendRecords, freeShared s c with
    | some n, some i =>
      match s.pendRecords[n]? with
      | some p => .next (landRecord { s with pendRecords := dropAt s.pendRecords n } c i src p.record)
      | none => .next s
    | _, _ => .next s

/-- Whether a record's source waits for a reply. -/
def needReply (r : List Word) : Bool := wbit (nthWord r 0) 20

/-- The cluster of the executing CMC. -/
def State.myCluster (s : State) : Nat := s.cur.unit - 192

/-- n bytes at va in the CMC's private memory, va a multiple of n. -/
def privatePlace (s : State) (va n : Nat) : Res Nat := do
  needAligned va n
  need (decide (coreWindow ≤ va) && decide (va + n ≤ coreWindow + 0x40000)) (.trap cPermission va)
  .ok (storeBase s.cur.unit + (va - coreWindow))

/-- The slot number of an operand, whose bits 63:5 are held zero. -/
def mboxNumber (s : State) (a : BitVec 5) : Res (State × Nat) := do
  let (s, x) ← readX s a
  needValue (wfld x 63 5 == 0) a
  .ok (s, x.toNat)

/-! ### MBXRD, MBXACK and MBXPOST (R416 to R418) -/

/-- The FULL record that arrived first, the lower slot among equals. -/
def oldestFull (s : State) (c : Nat) : Option Nat :=
  ((upTo 32).filter fun i => (mbox s c i).state == .full).foldl
    (fun b i => match b with
      | none => some i
      | some j => if (mbox s c i).order < (mbox s c j).order then some i else some j) none

def mbxrdBody (d a : BitVec 5) (s : State) : Res State := do
  let (s, x) ← readX s a
  let pa ← privatePlace s x.toNat 64
  let c := s.myCluster
  match oldestFull s c with
  | none => writeX s d ones64
  | some i => do
    let m := mbox s c i
    let t := ((s.put pa 64 (ofWords m.record)).clearPoison pa 64).wrote (hartKey s.cur.unit s.cur.slot) (lineOf pa)
    writeX (setMbox t c i { m with state := .read }) d (w64 i)

def execMbxrd (d a : BitVec 5) (s : State) : Host.Outcome State Fault Refusal :=
  issue (.mbxrd d a) s.onCmcS s (mbxrdBody d a)

def execMbxack (a : BitVec 5) (s : State) : Host.Outcome State Fault Refusal :=
  issue (.mbxack a) s.onCmcS s fun s => do
    let (s, i) ← mboxNumber s a
    let m := mbox s s.myCluster i
    needValue (m.state == .withdrawn
      || (m.state == .read && (!needReply m.record || removing s (recordJob m.record)))) a
    .ok (setMbox s s.myCluster i MboxSlot.reset)

def mbxpostBody (a b : BitVec 5) (s : State) : Res State := do
  let (s, i) ← mboxNumber s a
  let c := s.myCluster
  let m := mbox s c i
  needValue ((m.state == .read || m.state == .withdrawn) && needReply m.record) a
  let (s, y) ← readX s b
  let va := y.toNat
  let pa ← privatePlace s va 32
  let ws := wordsOf 4 (s.get pa 32)
  (match s.poisonIn pa 32 with
   | some f => raise cPoison (va + 64 * f - pa)
   | none => .ok ())
  needHeldZero va ws [0xFFFFFFFFFFFFE0FC, 3, 0, 0xFFFFFFFFFFFFFFFF]
  need (!(wfld (nthWord ws 0) 1 0 == 2 && wbit (nthWord m.record 0) 11)) (.trap cIllegal va)
  .ok (if m.state == .read then setMbox s c i { m with state := .replied, reply := ws } else s)

def execMbxpost (a b : BitVec 5) (s : State) : Host.Outcome State Fault Refusal :=
  issue (.mbxpost a b) s.onCmcS s (mbxpostBody a b)

/-! ### RESUME (R419) -/

/-- A WITHDRAWN slot is emptied; the reply of a REPLIED one is on its way until its source has acknowledged it. -/
def resumeBody (a : BitVec 5) (s : State) : Res State := do
  let c := s.myCluster
  let ended (s : State) (i : Nat) : State := (setMbox s c i MboxSlot.reset).modMe fun h => { h with pipe := .idle }
  match s.me.pipe with
  | .resume i done => do
    let (s, _) ← mboxNumber s a
    let st := (mbox s c i).state
    need (done || st != .replied) (.hold none)
    .ok (if st == .replied || st == .withdrawn then ended s i else s.modMe fun h => { h with pipe := .idle })
  | _ => do
    let (s, i) ← mboxNumber s a
    let st := (mbox s c i).state
    needValue (st == .replied || st == .withdrawn) a
    need (st == .withdrawn) (.hold (some (.resume i false)))
    .ok (ended s i)

def execResume (a : BitVec 5) (s : State) : Host.Outcome State Fault Refusal :=
  issue (.resume a) s.onCmcS s (resumeBody a)

/-- The slot of a unit that is parked on a record. -/
def parkedOn (s : State) (u : Nat) (r : List Word) : Option Nat :=
  (upTo 8).find? fun k => (s.hart u k).park == 9 && (s.hart u k).trapRec == r

/-- A reply applied by the parked slot (Table of R419). -/
def applyReply (s : State) (u k : Nat) (r ws : List Word) : State :=
  let act := wfld (nthWord ws 0) 1 0
  let tile := wbit (nthWord r 0) 11
  let epc := nthWord r 1
  if act = 3 then startRemoval s (recordJob r) (causeOfRecord r) false false
  else
    let pc (h : Slot) : Word :=
      if tile then h.pc else if act = 0 then epc else if act = 1 then epc + 4 else nthWord ws 1
    let t := s.modHart u k fun h =>
      { (h.setReg (wfld (nthWord ws 0) 12 8) (nthWord ws 2)).unpark with pc := pc h, trapRec := [] }
    if tile && act == 1 then t.modFe u fun fe => { fe with replay := fe.replay.drop 1 } else t

/-- RESUME_REPLY_APPLY: the reply of slot i of cluster c's mailbox reaches its source, which acknowledges it. -/
def execResumeReplyApply (c i : Nat) (s : State) : Host.Outcome State Fault Refusal :=
  let u := cmcOf c
  let m := mbox s c i
  if (s.hart u 0).pipe == .resume i false && m.state == .replied && decide (c < 12) then
    let t := s.modHart u 0 fun h => { h with pipe := .resume i true }
    match parkedOn s m.src m.record with
    | some k => .next (applyReply t m.src k m.record m.reply)
    | none => .next t
  else .next s

/-! ### Pre-emption (R420) -/

/-- Every hand-off and pipe of slots 0 to 6 has ended. -/
def pipesIdle (s : State) (u : Nat) : Bool :=
  (upTo 7).all fun k => (s.hart u k).pipe == .idle && (s.hart u k).park != 7

/-- PREEMPT_STOP: first slots 0 to 6 stop issuing; once their pipes, the vector unit and the tile stream are done, the
event is taken (R52). -/
def execPreemptStop (u : Nat) (s : State) : Host.Outcome State Fault Refusal :=
  let x := s.unit u
  match x.preempt with
  | none => .next s
  | some dir =>
    if !isCore u || (s.hart u 7).active || x.duty == 0 || removing s x.job || !x.up then .next s
    else if !x.stopped then
      .next ((upTo 7).foldl (fun t k => t.modHart u k fun h => { h with saved := false, tileSaved := false })
        (s.modUnit u fun y => { y with stopped := true }))
    else if pipesIdle s u && streamStill s u then
      let t := (endLeases (endDrain s u) u).modUnit u fun y => { y with preempt := none }
      .next (enterHandler (t.modUnit u fun y => { y with drained := true }) u 7 cPreempt dir 0)
    else .next s

/-- A PREEMPT reaches a core, unless one is already pending there. -/
def sendPreempt (s : State) (u : Nat) (dir : Word) : Option State :=
  if (s.unit u).preempt.isSome then none else some (wakeWfi (s.modUnit u fun x => { x with preempt := some dir }) u)

/-- PREEMPTs sent to cores: the state, and the cores whose PREEMPT still waits at the sender. -/
def sendPreempts (s : State) (dir : Word) : List Nat → State × List Nat
  | [] => (s, [])
  | u :: rest =>
    match sendPreempt s u dir with
    | some t => sendPreempts t dir rest
    | none => let (t, w) := sendPreempts s dir rest; (t, u :: w)

/-- A core stops for the cut of its job: its interface takes the new colour, and a RECV may take what the cut's guard held back (R432). -/
def cutStop (s : State) (u : Nat) : State :=
  match s.cut with
  | some c =>
    if c.announced && !c.closed && c.notStopped.contains u then
      let t := { s with cut := some { c with notStopped := c.notStopped.filter fun v => v != u } }
      if (s.unit u).job = c.job then wakePark (t.modNi u fun n => { n with colour := !c.old }) u 8 else t
    else s
  | none => s

/-! ### The return from a trap (01 R53) -/

/-- Whether an event is pending for slot 7. -/
def pendingEvent (s : State) (u : Nat) : Bool :=
  let x := s.unit u
  x.preempt.isSome || x.inboxOvf || x.pendLocal != [] || x.wake

/-- A restored slot goes on: its wait is armed again, its trap record is posted again with REPOST (R426). -/
def releaseRestored (s : State) (u k : Nat) : State :=
  let h := s.hart u k
  if !h.restored then s
  else if h.park = 9 then
    let r := match h.trapRec with
      | w :: ws => (w ||| 0x80000#64) :: ws
      | [] => []
    (s.modHart u k fun h => { h with restored := false, trapRec := r }).modUnit u fun x => { x with records := x.records ++ [r] }
  else rearm (s.modHart u k fun h => { h with restored := false }) u k

/-- The end of a handler run: slots 0 to 6 issue again. -/
def endRun (s : State) (u : Nat) : State :=
  let t := if (s.unit u).stopped then cutStop (s.modUnit u fun x => { x with stopped := false, drained := false }) u else s
  (upTo 7).foldl (fun t k => releaseRestored t u k) t

/-- mret of slot 7 of core u. -/
def mretCore (s : State) (u : Nat) : State :=
  let h := s.hart u 7
  let k := wfld h.hxtrap 10 8
  let t :=
    if k < 7 && (s.hart u k).park == 10 then s.modHart u k fun g => { g.unpark with pc := h.hxepc } else s
  let t := t.modHart u 7 fun g => { g with active := false }
  if pendingEvent t u then enterPending t u else endRun t u

def execMret (s : State) : Host.Outcome State Fault Refusal :=
  issue .mret s.onAny s fun t => do
    if isCore s.cur.unit then
      need (s.cur.slot == 7) .illegal
      .ok (mretCore t s.cur.unit)
    else
      need (!isUcore s.cur.unit && s.mode == 3) .illegal
      .ok (t.modMe Slot.mretTo)

/-! ### SLOTSAVE (R421 to R425) -/

/-- The fields of SLOTSAVE's and SLOTREST's first operand. -/
def saveForm (x : Word) (vacate : Bool) : Bool :=
  let n := wfld x 2 0
  let tile := wbit x 3
  wfld x 63 5 == 0 && (!wbit x 4 || (vacate && n == 7)) && (if tile then n == 0 else true)

/-- The record on which a saved slot is parked is withdrawn (Table 18.3). -/
def withdraw (s : State) (u k : Nat) : State :=
  let h := s.hart u k
  if h.park != 9 then s
  else
    let c := u / 16
    let i := u % 16
    let m := mbox s c i
    if m.record == h.trapRec && m.src == u && m.state != .empty then
      match m.state with
      | .full => setMbox s c i MboxSlot.reset
      | _ => setMbox s c i { m with state := .withdrawn }
    else s.modUnit u fun x => { x with records := x.records.erase h.trapRec }

/-- The bytes at va stored by slot 7, all or nothing (R425). -/
def saveBytes (s : State) (va n v : Nat) (bad : List Nat) : Res State := do
  let (t, ps) ← blockPlaces s va n .store
  .ok (writePlaces t ps v bad)

/-- The active slots whose images have been saved since the stop. -/
def savedMask (s : State) (u : Nat) : Nat :=
  ((upTo 7).map fun k => bitAt ((s.hart u k).active && (s.hart u k).saved && (s.unit u).stopped) k).sum

/-- Whether a core may be vacated. -/
def mayVacate (s : State) (u : Nat) : Bool :=
  savedMask s u == activeMask s u
    && (!(s.hart u 0).active || (s.hart u 0).kind != 1 || (s.hart u 0).tileSaved)

/-- The counts of the interface go to the late capture of the vacated job, or are kept for the job (R431). -/
def handCounts (s : State) (u : Nat) : State :=
  let n := s.ni u
  match (s.unit u).late with
  | some l =>
    if l.job = n.cjob then
      let l2 := { l with sent0 := l.sent0 + n.sent0, sent1 := l.sent1 + n.sent1, rcvd0 := l.rcvd0 + n.rcvd0, rcvd1 := l.rcvd1 + n.rcvd1 }
      (s.modUnit u fun x => { x with late := some l2 }).modNi u fun n =>
        { n.stamped with sent0 := 0, sent1 := 0, rcvd0 := 0, rcvd1 := 0, cjob := 0, colour := takenColour s u 0 }
    else foldCounts s u 0
  | none => foldCounts s u 0

/-- VACATE: the core is left by its job. -/
def vacate (s : State) (u : Nat) : State :=
  let t := endLeases (stowAll (handCounts (cutStop s u) u) u) u
  let t := (upTo 7).foldl (fun t k => freeSlot t u k) t
  lateFull (t.modUnit u fun x =>
    { x with job := 0, blockIn := false, pendLocal := [], barriers := [], abandoned := [], relock := [], icache := x.icache.map fun l => { l with locked := false } }) u

/-- One slot's image, or the eight bytes of an idle one. -/
def saveSlot (s : State) (u k va : Nat) : Res State := do
  let h := s.hart u k
  need (h.sg.all fun p => p.2.unaccepted == 0) (.hold none)
  let t ← if h.active then saveBytes s va imageSize (slotImage h) (imageFlits h) else saveBytes s (va + 0x108) 8 0 []
  .ok ((withdraw t u k).modHart u k fun h => { h with saved := true })

def slotsaveBody (a b : BitVec 5) (s : State) : Res State := do
  let u := s.cur.unit
  let (s, x, y) ← read2 s a b
  let va := y.toNat
  let k := wfld x 2 0
  needValue (saveForm x true && (k == 7 || s.mine.stopped)) a
  needAligned va 256
  if wbit x 3 then
    let n := maxTiles s u
    let t ← saveBytes s va (tilePartSize n) (tilePart (s.fe u) n (tileFaulted s u)) (tileFlits (s.fe u) n)
    .ok (t.modHart u 0 fun h => { h with tileSaved := true })
  else if k < 7 then saveSlot s u k va
  else
    needValue (!wbit x 4 || mayVacate s u) a
    let t ← saveBytes s va coreBlockSize (coreBlock s.mine (savedMask s u)) []
    .ok (if wbit x 4 then vacate t u else t)

def execSlotsave (a b : BitVec 5) (s : State) : Host.Outcome State Fault Refusal :=
  issue (.slotsave a b) s.onService s (slotsaveBody a b)

/-! ### SLOTREST (R426) -/

/-- The first failing word of an image makes SLOTREST ILLEGAL. -/
def needWord (va : Nat) (bad : Option Nat) : Res Unit :=
  match bad with
  | some i => raise cIllegal (va + 8 * i)
  | none => .ok ()

/-- The words of the continuation of a restored slot: FP, placement, counter and job words (16 R369). -/
def contWords (s : State) (u : Nat) (va : Nat) : Res (State × List Word) :=
  if va = 0 then .ok (s, [])
  else
    match deviceAccess s u (s.unit u).job va 64 .load with
    | .wait => .error (.hold none)
    | .refused _ c x => raise c x
    | .ok t ps => let (t, v) := readPlaces t ps; .ok (t, wordsOf 8 v)

/-- A core block restored. A core that takes up the job in a cut counts as not stopped (R432). -/
def restBlock (a : BitVec 5) (s : State) (u va : Nat) : Res State := do
  let (s, v) ← loadSpan s va coreBlockSize true
  needWord va (coreBlockBad v)
  needValue (!(upTo 7).any fun k => (s.hart u k).active) a
  let j : BitVec 16 := BitVec.ofNat 16 v
  match readJob s u j with
  | .absent => raise cIllegal va
  | .wait => .error (.hold none)
  | .refused _ c x => raise c x
  | .ok t dva d => do
    need (j != 0 && jobDescOk j d) (.trap cIllegal va)
    .ok (cutJoins (restoreBlock (loadHxjob t u j dva d) u v) u j)

/-- A slot image restored, after the core block of its job: a core that it makes live reaches the global step (17 R391), and the
values held for the context come back. An image whose hxstat is 0 is that of an idle slot, and holds nothing else. -/
def restSlot (a : BitVec 5) (s : State) (u k va : Nat) : Res State := do
  let (s, v) ← loadSpan s va imageSize true
  let idle := imgWord v 33 == 0
  needWord va (if idle then none else imageBad v)
  needValue (!(s.hart u k).active && (s.unit u).blockIn) a
  if idle then .ok s
  else do
    let (s, ws) ← contWords s u (if k < 6 then (imgWord v 51).toNat else 0)
    let p := nthWord ws 3
    let t := s.modHart u k fun h =>
      { slotOfImage h v (lanesOf u) with
        fp := nthWord ws 1, ctr := nthWord ws 4, place := p, jobword := nthWord ws 7, restored := true }
    let live (x : UnitSt) : UnitSt := if k < 6 then { x with step := BitVec.ofNat 48 (max x.step.toNat x.gstep.toNat) } else x
    .ok ((t.modUnit u live).takeHeld u k)

/-- A tile part restored, after slot 0's image with KIND 1. -/
def restTile (a : BitVec 5) (s : State) (u va : Nat) : Res State := do
  let n := maxTiles s u
  let (s, v) ← loadSpan s va (tilePartSize n) true
  needWord va (tilePartBad v)
  needValue ((s.hart u 0).restored && (s.hart u 0).kind == 1) a
  .ok (s.modUnit u fun x => { x with fe := { tileFEOf v n x.step [] with writing := x.fe.writing } })

def slotrestBody (a b : BitVec 5) (s : State) : Res State := do
  let u := s.cur.unit
  let (s, x, y) ← read2 s a b
  let va := y.toNat
  let k := wfld x 2 0
  needValue (saveForm x false) a
  needAligned va 256
  if wbit x 3 then restTile a s u va
  else if k < 7 then restSlot a s u k va
  else restBlock a s u va

def execSlotrest (a b : BitVec 5) (s : State) : Host.Outcome State Fault Refusal :=
  issue (.slotrest a b) s.onService s (slotrestBody a b)

/-! ### NISPILL (R428, R429) -/

/-- Late capture armed for the core's job into a spill buffer. -/
def armLate (s : State) (u : Nat) (desc buf : Word) (used cap : Nat) : State :=
  s.modUnit u fun x =>
    { x with late := some { job := x.job, buf := buf, used := used, cap := cap, notified := false, desc := desc,
                            sent0 := 0, sent1 := 0, rcvd0 := 0, rcvd1 := 0 } }

def nispillBody (d a : BitVec 5) (s : State) : Res State := do
  let u := s.cur.unit
  need s.mine.stopped .illegal
  let (s, x) ← readX s a
  let va := x.toNat
  let (s, ws) ← loadBlock s va 16 16
  needHeldZero va ws [0xFF00000000000000, 0x7FFF0000FFFF0000]
  let buf := nthWord ws 0
  let w := nthWord ws 1
  let used := wfld w 47 32
  let cap := wfld w 15 0
  need (cap != 0) (.trap cIllegal (va + 8))
  needAligned buf.toNat 16
  let recs := spillList (s.ni u)
  let n := min recs.length (cap - used)
  let (s, ps) ← if n = 0 then .ok (s, []) else blockPlaces s (buf.toNat + 80 * used) (80 * n) .both
  let t := writePlaces s ps (recordsBits (recs.take n)) []
  let t ← storeAt t (va + 12) 2 (used + n)
  let t := (endLate t u).modNi u fun q => spilled q n
  let t := lateFull (if wbit w 63 then armLate t u x buf (used + n) cap else t) u
  let t := if n = 0 then t else sendqSpilled s t u
  writeX (replayCheck t u) d (w64 (bitAt (decide (n < recs.length)) 63 + n))
where
  /-- Entries of a send queue that a spill frees wake slot 7 (12 R321). -/
  sendqSpilled (before after : State) (u : Nat) : State :=
    if (after.ni u).reqQ.length < (before.ni u).reqQ.length || (after.ni u).rplQ.length < (before.ni u).rplQ.length then sendqFreed after u
    else after

def execNispill (d a : BitVec 5) (s : State) : Host.Outcome State Fault Refusal :=
  issue (.nispill d a) s.onService s (nispillBody d a)

/-! ### Cuts (R431 to R434) -/

/-- The cores that hold a job. -/
def coresOf (s : State) (j : BitVec 16) : List Nat := if j = 0 then [] else (upTo 192).filter fun u => (s.unit u).job == j

/-- CUTREQ issues again with its progress. -/
def cutAgain (s : State) (p : Pipe) : Res State := .ok ((s.modMe fun h => { h with pipe := p }).again 4)
def cutDone (s : State) (d : BitVec 5) : Res State := writeX (s.modMe fun h => { h with pipe := .idle }) d 0

/-- CUTREQ's first issue. A cut of a job whose removal runs is accepted and abandoned at once (20 R446). -/
def cutStart (d a : BitVec 5) (s : State) : Res State := do
  let (s, x) ← readX s a
  let va := x.toNat
  let (s, ws) ← loadBlock s va 32 32
  let w0 := nthWord ws 0
  let w2 := nthWord ws 2
  needHeldZero va ws [0xFFFFFFFFFFFE0000, 0, 0x7FFFFFFFFFFFFF00, 0xFFFFFFFFFFFFFFFF]
  need (decide (wfld w2 7 0 ≤ 191)) (.trap cIllegal (va + 16))
  let j : BitVec 16 := w0.setWidth 16
  waitRelease s
  waitAcquire s 6
  let s := s.acquired
  if (s.cut.map fun c => !c.closed).getD false then writeX s d 1
  else if wbit w0 16 then
    let (t, waits) := sendPreempts s (nthWord ws 1) (if wbit w2 63 then coresOf s j else [wfld w2 7 0])
    if waits == [] then cutDone t d else cutAgain t (.cut waits (nthWord ws 1))
  else if coresOf s j == [] then writeX s d 2
  else if removing s j then cutDone s d
  else
    cutAgain { s with cut := some { job := j, old := fget s.colours j.toNat false, dir := nthWord ws 1, announced := false,
                                    notStopped := coresOf s j, d := 0, closed := false } } .cutRun

/-- CUTREQ's PREEMPTs that wait for cores with one pending are sent again; it ends when every one has been accepted (R433). -/
def cutSending (d : BitVec 5) (s : State) (pending : List Nat) (dir : Word) (goesOn : List Nat → Pipe) : Res State :=
  let (t, waits) := sendPreempts s dir pending
  if waits == [] then cutDone t d
  else if waits == pending then .error (.hold none)
  else cutAgain t (goesOn waits)

def cutreqBody (d a : BitVec 5) (s : State) : Res State :=
  match s.me.pipe with
  | .cut pending dir => cutSending d s pending dir fun waits => .cut waits dir
  | .cutSend j pending dir => cutSending d s pending dir fun waits => .cutSend j waits dir
  | .cutRun => .error (.hold none)
  | _ => cutStart d a s

def execCutreq (d a : BitVec 5) (s : State) : Host.Outcome State Fault Refusal :=
  issue (.cutreq d a) s.onSys s (cutreqBody d a)

/-- An interface's counts of a colour zeroed. -/
def Ni.zeroColour (n : Ni) (c : Bool) : Ni := if c then { n with sent1 := 0, rcvd1 := 0 } else { n with sent0 := 0, rcvd0 := 0 }
def LateCapture.zeroColour (l : LateCapture) (c : Bool) : LateCapture :=
  if c then { l with sent1 := 0, rcvd1 := 0 } else { l with sent0 := 0, rcvd0 := 0 }

/-- What the announcement does at a unit: counts of the new colour are zero, and a CMC or an update core of the job flips. -/
def announceAt (j : BitVec 16) (old : Bool) (u : Nat) (x : UnitSt) : UnitSt :=
  let l := x.late.map fun l => if l.job = j then l.zeroColour !old else l
  let n := if x.ni.cjob = j then x.ni.zeroColour !old else x.ni
  { x with late := l, ni := if x.job = j && (isCmc u || isUcore u) then { n with colour := !old } else n }

/-- CUT_ANNOUNCE. -/
def execCutAnnounce (s : State) : Host.Outcome State Fault Refusal :=
  match s.cut with
  | none => .next s
  | some c =>
    if c.announced then .next s
    else
      let p := fget s.residual c.job.toNat (0, 0)
      let cores := coresOf s c.job
      let at_ (q : Nat × UnitSt) : Nat × UnitSt := (q.1, announceAt c.job c.old q.1 q.2)
      let t := { s with units := s.units.map at_
                        residual := fset s.residual c.job.toNat (if c.old then (0, p.2) else (p.1, 0))
                        colours := fset s.colours c.job.toNat (!c.old) }
      let (t, waits) := sendPreempts t c.dir cores
      .next (cutGoesOn { t with cut := some { c with announced := true, notStopped := cores } } c.job waits c.dir)

/-- CUTSTAT's word. -/
def cutWord (s : State) (j : BitVec 16) : Word :=
  let colour := bitAt (fget s.colours j.toNat false) 48
  match s.cut with
  | some c =>
    if c.job = j then
      w64 (colour + put (BitVec.ofInt 32 c.d).toNat 16 + put c.notStopped.length 8 + (if c.closed then 2 else 1))
    else w64 colour
  | none => w64 colour

def execCutstat (d a : BitVec 5) (s : State) : Host.Outcome State Fault Refusal :=
  issue (.cutstat d a) s.onSys s fun s => do
    let (s, x) ← readX s a
    needValue (wfld x 63 16 == 0) a
    writeX s d (cutWord s (x.setWidth 16))

end Sys2Proof.Machine
end

