-- ==== Sys2Proof/Machine/Power.lean ====
section
/-! DEFINITION. Uncorrectable errors, the power tree and its limits, die parking, reset, attestation, and writes of the
device registers (01 R9, 20 R455, 21 R458 to R474). -/

namespace Sys2Proof.Machine

open Sys2Proof

/-! ### Uncorrectable errors (20 R455, Table 20.7) -/

/-- A tile with its slots marked poisoned; the first row found stays. -/
def Tile.bad (t : Tile) (row : Nat) : Tile := { t with poison := some (t.poison.getD row) }

/-- A source captured from the slots of an architectural tile whose slots are marked; `hit`: it is that tile. -/
def Src.bad (row : Nat) (hit : Bool) (x : Src) : Src :=
  match x with
  | .arch t => if hit then .arch (t.bad row) else x
  | x => x

/-- The slots of architectural tile t marked: the retired mapping, and what entries have captured of it (07 R202). -/
def TileFE.badTile (fe : TileFE) (t row : Nat) : TileFE :=
  let hit (r : BitVec 4) : Bool := r.toNat == t
  let entry (r : RobEntry) : RobEntry :=
    let w : Tcw := ⟨r.e.tcw⟩
    { r with a := r.a.bad row (hit w.ta), b := r.b.bad row (hit w.tb), c := r.c.bad row (hit w.tc), acc := r.acc.bad row (hit w.td) }
  { fe with tiles := fset fe.tiles t ((fget fe.tiles t Tile.reset).bad row), rob := fe.rob.map entry }

/-- The flits of a line with that of pa poisoned. -/
def struck (bad : BitVec 4) (pa : Nat) : BitVec 4 := bad ||| (1#4 <<< (pa / 64 % 4))

/-- UNCORRECTABLE_ERROR: poison on a flit, of memory, of a core's L1 (whose lines of its own die are their home's) or of a remote-data
cache, on a register or a tile; or the clean copy is fetched again, which changes no value. -/
def execUncorrectableError (e : ErrSite) (s : State) : Host.Outcome State Fault Refusal :=
  match e with
  | .flit pa => .next (s.addPoison (pa / 64))
  | .l1 u pa =>
    onlyIf (isCore u) s
      (match s.l1Hit u pa with
       | some y => if y.copy.isSome then s.modUnit u fun x => { x with l1 := x.l1.map fun z => if z = y then { z with bad := struck z.bad pa } else z }
         else s.addPoison (pa / 64)
       | none => s)
  | .rdc d pa =>
    onlyIf (decide (d < 2)) s
      (s.modDie d fun x => { x with rdc := x.rdc.map fun r => if r.line = lineOf pa then { r with bad := struck r.bad pa } else r })
  | .clean => .next s
  | .reg u k n =>
    onlyIf (decide (u < 244) && decide (k < 8) && decide (1 ≤ n) && decide (n < 60)) s
      (s.modHart u k fun h => { h with poison := if h.poison.contains n then h.poison else n :: h.poison })
  | .tile u t row =>
    onlyIf (isCore u && decide (t < 16)) s
      (s.modFe u fun fe => fe.badTile t row)
  | .result u r row =>
    onlyIf (isCore u) s (s.modRob u r fun x => { x with result := x.result.map fun t => t.bad row })
  | .transit u r row =>
    onlyIf (isCore u) s
      (s.modRob u r fun x => { x with acc := if x.phase = .started then ((s.fe u).value x.acc).elim x.acc fun t => .arch (t.bad row) else x.acc })

/-! ### Duty and points (21 R459 to R465) -/

/-- The duty in force for a core: the budget tree's, under the caps of its quad. -/
def dutyInForce (s : State) (u : Nat) : BitVec 5 :=
  let q := s.quad (quadOf u)
  let cap := if q.trip then min 1 q.dutyCap.toNat else q.dutyCap.toNat
  BitVec.ofNat 5 (min (min 16 (s.unit u).dutySet.toNat) cap)

/-- A core's duty in force is written; it takes effect at the next frame (07 R220). -/
def setDuty (s : State) (u : Nat) : State :=
  let d := dutyInForce s u
  s.modUnit u fun x => { x with dutyNext := if d = x.duty then none else some d }
def setDuties (s : State) (q : Nat) : State := (upTo 4).foldl (fun t k => setDuty t (4 * q + k)) s

/-- Whether DUTY 0 may be written to a core: no active slot and no pending event. -/
def mayRest (s : State) (u : Nat) : Bool := !((upTo 8).any fun k => (s.hart u k).active) && !pendingEvent s u

/-- BUDGET_PERIOD: the caps, the granted point and the duties of a quad; the fallback and the comparator's caps end. -/
def execBudgetPeriod (q : Nat) (thermal current : BitVec 3) (d0 d1 d2 d3 : BitVec 5) (s : State) :
    Host.Outcome State Fault Refusal :=
  let duty (t : State) (k : Nat) : State :=
    let d := [d0, d1, d2, d3].getD k 0
    let d : BitVec 5 := if d = 0 && !mayRest s (4 * q + k) then 1 else if 16 < d.toNat then 16 else d
    t.modUnit (4 * q + k) fun x => { x with dutySet := d }
  let t := (upTo 4).foldl duty s
  let t := t.modQuad q fun x => { x with thermalCap := thermal, currentCap := current, dutyCap := 16 }
  let t := (t.modPkg fun p => { p with fwhold := false, pkgw := s.freeWord.setWidth 8, headroom := s.freeWord.getLsbD 8 }).took
  onlyIf (decide (q < 48)) s (retarget (setDuties t q) q)

/-- POINT_CHANGE_DONE: the quad runs at its granted point. -/
def execPointChangeDone (q : Nat) (s : State) : Host.Outcome State Fault Refusal :=
  onlyIf (decide (q < 48) && grantedPoint s q != (s.quad q).point) s
    (s.modQuad q fun x => { x with point := grantedPoint s q, changingTo := none })

/-- SAG_SLOWING: halved clocks change no result, only time. -/
def execSagSlowing (q : Nat) (s : State) : Host.Outcome State Fault Refusal :=
  onlyIf (decide (q < 48)) s ((s.modQuad q fun x => { x with sag := true }).modPkg fun p => { p with sagged := true })

def execSagRecover (q : Nat) (s : State) : Host.Outcome State Fault Refusal :=
  onlyIf (decide (q < 48)) s (s.modQuad q fun x => { x with sag := false })

/-- CURRENT_COMPARATOR: every quad falls one point, at P0 no lower, and DUTY is capped at 8. -/
def execCurrentComparator (s : State) : Host.Outcome State Fault Refusal :=
  let fall (t : State) (q : Nat) : State :=
    let t := t.modQuad q fun x => { x with currentCap := minPoint x.currentCap (if x.point = 0 then 0 else x.point - 1), dutyCap := 8 }
    retarget (setDuties t q) q
  .next (((upTo 48).foldl fall s).modPkg fun p => { p with icomp := true })

/-- THERMAL_TRIP: the quad runs at P0 with DUTY capped at 1. -/
def execThermalTrip (q : Nat) (s : State) : Host.Outcome State Fault Refusal :=
  let t := (s.modQuad q fun x => { x with trip := true }).modPkg fun p => { p with trip := true }
  onlyIf (decide (q < 48)) s (retarget (setDuties t q) q)

def execThermalTripEnd (q : Nat) (s : State) : Host.Outcome State Fault Refusal :=
  onlyIf (decide (q < 48)) s (retarget (setDuties (s.modQuad q fun x => { x with trip := false }) q) q)

/-- FIRMWARE_HOLD: the quad falls to P2 and its cores' DUTY to 8. -/
def execFirmwareHold (q : Nat) (s : State) : Host.Outcome State Fault Refusal :=
  let t := (upTo 4).foldl (fun t k => t.modUnit (4 * q + k) fun x => { x with dutySet := 8 }) s
  let t := t.modQuad q fun x => { x with thermalCap := minPoint x.thermalCap 2 }
  let t := t.modPkg fun p => { p with fwhold := true }
  onlyIf (decide (q < 48)) s (retarget (setDuties t q) q)

/-- AGE_PREDICTION_UPDATE: HOURS of a quad of the package. -/
def execAgePredictionUpdate (q hours : Nat) (s : State) : Host.Outcome State Fault Refusal :=
  onlyIf (decide (q < 48)) s (s.modCluster (q / 4) fun k => { k with ages := fset k.ages (q % 4) (BitVec.ofNat 32 hours) })

/-! ### Die parking (21 R469 to R471, 20 R453) -/

/-- The cores of a die. -/
def dieCores (d : Nat) : List Nat := (upTo 192).filter fun u => unitDie u == d

/-- Whether some core of a die holds a job or an active slot. -/
def dieBusy (s : State) (d : Nat) : Bool :=
  (dieCores d).any fun u => (s.unit u).job != 0 || (upTo 8).any fun k => (s.hart u k).active

/-- Whether a removal of a job of a die is unsealed. -/
def dieRemoving (s : State) (d : Nat) : Bool :=
  s.removals.any fun p => !p.2.sealed && p.2.held.any fun u => unitDie u == d

/-- A request to park die d, which waits while a removal of one of its jobs is unsealed; a refused one has no other effect. -/
def parkDie (s : State) (d : Nat) : State :=
  let s1 := s.modPkg fun p => { p with parkReq := BitVec.ofNat 2 (d + 1), parkWait := false }
  let refused := s.modPkg fun p => { p with parkRefused := true }
  if s.pkg.parkState = BitVec.ofNat 2 (d + 1) && !s.pkg.parkBusy then s1
  else if s.pkg.parkBusy || s.pkg.parkState != 0 then refused
  else if dieRemoving s d then s1.modPkg fun p => { p with parkWait := true }
  else if dieBusy s d then refused
  else s1.modPkg fun p => { p with parkBusy := true }

def execParkDieW (s : State) : Host.Outcome State Fault Refusal := .next (parkDie s 0)
def execParkDieE (s : State) : Host.Outcome State Fault Refusal := .next (parkDie s 1)

/-- A request to unpark; while a park or unpark is in progress it has no effect. -/
def unparkDie (s : State) : State :=
  if s.pkg.parkBusy then s
  else
    let s1 := s.modPkg fun p => { p with parkReq := 0, parkWait := false }
    if s.pkg.parkState = 0 then s1
    else if dieRemoving s (s.pkg.parkState.toNat - 1) then s1.modPkg fun p => { p with parkWait := true }
    else s1.modPkg fun p => { p with parkBusy := true }

def execUnpark (s : State) : Host.Outcome State Fault Refusal := .next (unparkDie s)

/-- The quads of a die. -/
def quadsOfDie (d : Nat) : List Nat := (upTo 48).filter fun q => unitDie (4 * q) == d

/-- A waiting request is tried again. -/
def parkRetry (s : State) : State :=
  let t := s.modPkg fun p => { p with parkWait := false }
  if !s.pkg.parkWait then s
  else if s.pkg.parkReq = 0 then unparkDie t
  else parkDie t (s.pkg.parkReq.toNat - 1)

/-- PARK_COMPLETE: the cores, arrays, vector units and quad stores of the die are down. -/
def execParkComplete (s : State) : Host.Outcome State Fault Refusal :=
  let p := s.pkg
  if p.parkBusy && p.parkReq != 0 && p.parkState == 0 then
    let d := p.parkReq.toNat - 1
    let t := (dieCores d).foldl (fun t u => t.modUnit u fun x => { x with up := false, l1 := [], icache := [] }) s
    let t := (quadsOfDie d).foldl (fun t q => t.modQuad q fun x => { x with up := false, arrays := [], vwait := [], vunit := [] }) t
    .next (t.modPkg fun p => { p with parkBusy := false, parkState := p.parkReq })
  else .next (parkRetry s)

/-- A core comes up as after reset, with no job; the broadcasts it has seen are those sent. -/
def coreUp (s : State) (u : Nat) : State :=
  let t := (upTo 8).foldl (fun t k => t.setHart u k Slot.reset) s
  (t.emptySpan (storeBase u) 0x80000).setUnit u { UnitSt.reset with bseen := (s.unit u).bseen, known := (s.unit u).known }

/-- A quad that is retired, by the package's list (R467). -/
def quadRetired (s : State) (q : Nat) : Bool := s.pkg.quadsRetired.getLsbD (coreStation (4 * q))

/-- Retired quads stay down: their cores, arrays, vector units and stores (R467). -/
def retireQuads (s : State) : State :=
  (upTo 48).foldl (fun t q =>
    if quadRetired t q then
      (upTo 4).foldl (fun t k => t.modUnit (4 * q + k) fun x => { x with up := false }) (t.modQuad q fun x => { x with up := false })
    else t) s

/-- UNPARK_COMPLETE: the cores come up as after reset, and the quad stores hold zero. -/
def execUnparkComplete (s : State) : Host.Outcome State Fault Refusal :=
  let p := s.pkg
  if p.parkBusy && p.parkReq == 0 && p.parkState != 0 then
    let d := p.parkState.toNat - 1
    let t := (dieCores d).foldl coreUp s
    let t := (quadsOfDie d).foldl (fun t q => (t.modQuad q fun _ => Quad.reset).emptySpan (quadBase q) 0x200000) t
    .next (retireQuads (t.modPkg fun p => { p with parkBusy := false, parkState := 0 }))
  else .next (parkRetry s)

/-! ### Reset and measurement (21 R473) -/

/-- The reset sequence: every register at its reset value, the firmware measured, the CMCs and application core 0 of
die W started at open addresses, units retired as the boot configuration lists them (R467). Memory and stores keep their bytes. No port
is in CXL mode then, so none is trained (log entry 3). -/
def resetSequence (s : State) : State :=
  let t := { State.reset with mem := s.mem, poison := s.poison, free := s.free + 1 }
  let t := t.modPkg fun p =>
    { p with meas := (upTo 8).map fun i => (i, Config.measure 0 (8 * s.free + i)),
             quadsRetired := s.pkg.bootQuads, slicesRetired := s.pkg.bootSlices, channels := s.pkg.bootChannels,
             bootQuads := s.pkg.bootQuads, bootSlices := s.pkg.bootSlices, bootChannels := s.pkg.bootChannels }
  ((upTo 12).map cmcOf ++ [228]).foldl bootHart (retireQuads t)

/-- POWER_ON: nothing has written memory yet. -/
def execPowerOn (s : State) : Host.Outcome State Fault Refusal := .next (resetSequence { s with mem := [], poison := [] })

def execResetctlReset (s : State) : Host.Outcome State Fault Refusal := .next (resetSequence s)

/-! ### Attestation (21 R474) -/

/-- A write of 1 to ATTGO, which takes the nonce; ignored while a report is being made. -/
def attestRequest (s : State) : State := if s.pkg.attgo = 1 then s else s.modPkg fun p => { p with attgo := 1, attNonce := p.nonce }
def execAttestationRequest (s : State) : Host.Outcome State Fault Refusal := .next (attestRequest s)

/-- The body of the report (Table 21.9), as a number of 512 bytes. -/
def attestBody (p : Pkg) : Nat :=
  ((upTo 8).map fun i => put (fget p.meas i 0).toNat (384 * i)).sum + put p.attNonce.toNat (8 * 0x180)
    + put p.quadsRetired.toNat (8 * 0x1B0) + put p.slicesRetired.toNat (8 * 0x1B8)
    + ((upTo 6).map fun m => put (fget p.channels m 0).toNat (8 * (0x1C0 + 8 * m))).sum
    + put (Config.deviceWord 1024).toNat (8 * 0x1F0) + put (Config.deviceWord 1025).toNat (8 * 0x1F8)

/-- ATTESTATION_DONE: the body, and a signature whose value is open (log entry 2). -/
def execAttestationDone (s : State) : Host.Outcome State Fault Refusal :=
  let v := attestBody s.pkg + put ((Config.freeBits s.free).toNat % 2 ^ 768) (8 * 512)
  onlyIf (s.pkg.attgo == 1) s
    (s.modPkg fun p => { p with attgo := 2, report := (upTo 608).map fun i => (0xA00 + i, byteOf v i) }).took

/-! ### Writes of the device registers (01 R9, 21 R458) -/

/-- A write of some bits of a register: the bits written, and those written as ones. -/
structure RegWrite where
  mask : Nat
  ones : Nat
  deriving DecidableEq, Repr

/-- Read-write fields after a write; the bits outside `field` stay. -/
def RegWrite.rw (w : RegWrite) (old field : Nat) : Nat :=
  let m := w.mask &&& field
  (old - (old &&& m)) + (w.ones &&& m)

/-- Whether a 1 is written to a bit. -/
def RegWrite.bit (w : RegWrite) (i : Nat) : Bool := w.ones.testBit i

/-- A write of PORTCTL. One that changes MODE while the link is up or in training is ignored (09 R246). -/
def portWrite (s : State) (p : Nat) (w : RegWrite) : State :=
  let v := w.rw (portctl (s.port p)) (2 ^ 64 - 1)
  let y := s.port p
  if (y.linkup || y.train) && fld v 1 0 != 3 && fld v 1 0 != y.mode.toNat then s
  else
  let t := s.modPort p fun x =>
    { x with err := x.err && !w.bit 61, dmajob := BitVec.ofNat 16 (fld v 39 24),
             ncmc := if fld v 23 20 < 12 then BitVec.ofNat 4 (fld v 23 20) else x.ncmc }
  let t := setPortMode t p (BitVec.ofNat 2 (fld v 1 0))
  if w.bit 62 then startTraining t p else t

/-- A write of PARKCTL. -/
def parkWrite (s : State) (w : RegWrite) : State :=
  let t := if w.bit 62 then s.modPkg fun p => { p with parkRefused := false } else s
  if w.mask % 4 ≠ 3 then t
  else
    match w.ones % 4 with
    | 0 => unparkDie t
    | 1 => parkDie t 0
    | 2 => parkDie t 1
    | _ => t

/-- A write of the 8 bytes at an 8-aligned offset of the package control block. -/
def pkgWrite (s : State) (o : Nat) (w : RegWrite) : State :=
  let all := 2 ^ 64 - 1
  let new (field : Nat) : Word := w64 (w.rw (pkgRead s o) field)
  if 0x200 ≤ o ∧ o < 0x280 then
    s.modPkg fun p => { p with capwin := fset p.capwin ((o - 0x200) / 8) (new 0x87000FFF00000FFF) }
  else if o = 0x300 then s.modPkg fun p => { p with jobtab := new 0x800FFFFFFFFFF000 }
  else if o = 0x308 then jobremoveWrite s (w64 (w.rw (pkgRead s o) 0x8000000000FFFFFF))
  else if o = 0x310 then (if w.bit 0 then resetSequence s else s)
  else if o = 0x318 then s.modPkg fun p => { p with cecnt := new all }
  else if o = 0x320 then s.modPkg fun p => { p with sysroot := new 0x800FFFFFFFFFFF00 }
  else if o = 0x340 then parkWrite s w
  else if o = 0x348 then
    s.modPkg fun p => { p with trip := p.trip && !w.bit 10, icomp := p.icomp && !w.bit 9, sagged := p.sagged && !w.bit 8 }
  else if 0x400 ≤ o ∧ o < 0x600 then
    let i := (o - 0x400) / 4
    let d := fset (fset s.pkg.decay i ((new all).setWidth 32)) (i + 1) ((new all >>> 32).setWidth 32)
    s.modPkg fun p => { p with decay := d }
  else if 0x600 ≤ o ∧ o < 0x640 then
    modSweep s ((o - 0x600) / 8) fun x => { x with outwin := x.outwin &&& ~~~(BitVec.ofNat 24 w.ones) }
  else if 0x640 ≤ o ∧ o < 0x680 then
    gstepWrite s ((o - 0x640) / 8) (w64 (w.rw (pkgRead s o % 2 ^ 48) 0xFFFFFFFFFFFF + bitAt (w.bit 63) 63))
  else if 0x900 ≤ o ∧ o < 0x930 then
    let k := o - 0x900
    s.modPkg fun p => { p with nonce := BitVec.ofNat 384 (p.nonce.toNat - put (pkgRead s o) (8 * k) + put (new all).toNat (8 * k)) }
  else if o = 0x938 then (if w.ones % 2 ^ 32 = 1 && w.ones == 1 then attestRequest s else s)
  else if 0x1000 ≤ o ∧ o < 0x3000 then s.modPkg fun p => { p with optab := fset p.optab ((o - 0x1000) / 8) (new 0xF7) }
  else if 0x3000 ≤ o ∧ o < 0x3200 ∧ (o - 0x3000) % 64 = 0 then portWrite s ((o - 0x3000) / 64) w
  else s

/-- A write of the 8 bytes at an 8-aligned offset of a cluster control block. -/
def clusterWrite (s : State) (c o : Nat) (w : RegWrite) : State :=
  let v (old : Nat) : Word := w64 (w.rw old (2 ^ 64 - 1))
  let k := s.cluster c
  if o = 0x400 then
    if w.mask % 2 ^ 32 = 0 then s else slewWrite s c (w64 (w.rw (slewctl k % 2 ^ 20) 0xFFFFF + bitAt (w.bit 31) 31))
  else if o = 0x408 then
    if w.ones &&& 0xFFFF0000000000FF != 0 then s else s.modCluster c fun k => { k with wdctl := v k.wdctl.toNat }
  else if o = 0x410 then beatWrite s c (v k.beat.toNat)
  else s

/-- REGISTER_WRITE: n bytes, 4 or 8, naturally aligned. What no register holds is ignored. -/
def execRegisterWrite (pa : Nat) (n : Nat) (v : Word) (s : State) : Host.Outcome State Fault Refusal :=
  let o := regionOff pa
  let lo := 8 * (o % 8)
  let w : RegWrite := { mask := put (2 ^ (8 * n) - 1) lo, ones := put (v.toNat % 2 ^ (8 * n)) lo }
  if regionOf pa != 3 || !(n == 4 || n == 8) || o % n != 0 then .next s
  else
    match regPlace o with
    | .pkg x => .next (pkgWrite s (x / 8 * 8) w)
    | .cluster c x => .next (clusterWrite s c (x / 8 * 8) w)
    | .ifile f x => .next (if n = 4 then ifilePut s f x (v.toNat % 2 ^ 32) else s)
    | .aplic d x =>
      let t := aplicWrite s d x (v.toNat % 2 ^ 32)
      .next (if n = 8 then aplicWrite t d (x + 4) (v.toNat / 2 ^ 32) else t)
    | _ => .next s

end Sys2Proof.Machine
end

