-- ==== Sys2Proof/Machine/VectorUnit.lean ====
section
/-! DEFINITION. The steps of the quad's vector unit: entry with its check, and completion (01 R49, 05 R142, R163). They stand after the
fatal removal, whose causes they append (20 R445, R453). -/

namespace Sys2Proof.Machine

open Sys2Proof

/-! ### The unit's steps -/

/-- The slot as it stands when its instruction leaves the unit: no longer parked, the prefix as it was. -/
def VOp.leave (o : VOp) (s : State) : State :=
  (s.asHart o.agent.unit o.agent.slot).modMe fun h => { h.unpark with pp := o.pp, pfx := o.pfx }

/-- A management trap of the executing slot during its job's removal is discarded, and a cause of the removal (20 R445, R449, R453). -/
def discardedTrap (s : State) (cause : Nat) (addr : Word) : State :=
  let (n, src) := causeUnit s.cur.unit
  appendCause s s.cur.unit s.mine.job
    { cause := cause, slot := s.cur.slot, tile := false, unit := n, source := src, pc := s.me.pc, addr := addr, step := s.mine.step } 0

/-- VECTOR_UNIT_ENTER (R142, R163): the instruction that has waited longest takes a free place of the four; one that
the unit's check rejects traps. -/
def execVectorUnitEnter (q : Nat) (s : State) : Host.Outcome State Fault Refusal :=
  match (s.quad q).vwait with
  | [] => .next s
  | o :: rest =>
    if 4 ≤ (s.quad q).vunit.length then .next s
    else
      match vkind o.i with
      | none => .next s
      | some k =>
        match vCheck k o with
        | some _ => .next (s.modQuad q fun x => { x with vwait := rest, vunit := x.vunit ++ [o] })
        | none =>
          let t := o.putBack (o.leave (s.modQuad q fun x => { x with vwait := rest }))
          if removing s (s.unit o.agent.unit).job then .next (s.back (discardedTrap t cIllegal (instrWord o.i)))
          else .next (s.back (takeTrap t cIllegal (instrWord o.i) (instrWord o.i)))

/-- The state that an outcome goes on in, with the hart that was executing restored. -/
def backOutcome (s : State) (r : Host.Outcome State Fault Refusal) : Host.Outcome State Fault Refusal :=
  match r with
  | .next t => .next (s.back t)
  | .fault f => .fault f
  | .refused x => .refused x

/-- VECTOR_COMPLETE (R49): instruction i of a unit writes its results and flags and the slot's PC advances, or it
traps and writes nothing; an access that must wait leaves it in the unit. A trap is discarded once the
job's removal has started (20 R445), a management trap with a cause (R453). -/
def execVectorComplete (q i : Nat) (s : State) : Host.Outcome State Fault Refusal :=
  match (s.quad q).vunit[i]? with
  | none => .next s
  | some o =>
    match vkind o.i with
    | none => .next s
    | some k =>
      match vCheck k o with
      | none => .next s
      | some f =>
        let t := o.leave (s.modQuad q fun x => { x with vunit := dropAt x.vunit i })
        let r := vRun k o f ((t.advance 4).modMe fun h => { h with pp := false, pfx := 0 })
        let t := o.putBack t
        match r with
        | .error (.hold _) => .next s
        | .error .request => .next (s.waitTurn o.agent.unit (o.agent.slot, (s.hart o.agent.unit o.agent.slot).instret.toNat))
        | .error (.trap c v) =>
          if removing s (s.unit o.agent.unit).job then .next (s.back (discardedTrap t c v))
          else backOutcome s (finish (instrWord o.i) t (.error (.trap c v)))
        | .error (.loc c d k) =>
          if removing s (s.unit o.agent.unit).job then .next (s.back t)
          else backOutcome s (finish (instrWord o.i) t (.error (.loc c d k)))
        | r => backOutcome s (finish (instrWord o.i) t r)

end Sys2Proof.Machine
end

