-- ==== Sys2Proof/Machine/Dispatch.lean ====
section
/-! DEFINITION. The dispatcher: one arm per constructor of `Instr`, each a direct call of its meaning. -/

namespace Sys2Proof.Machine

open Sys2Proof

def exec (i : Instr) (s : State) : Host.Outcome State Fault Refusal :=
  match i with
  | .vacantEncoding w tcw => Sys2Proof.Machine.execVacantEncoding w tcw s
  | .rvAluOrBranch op => Sys2Proof.Machine.execRvAluOrBranch op s
  | .rvLoad op d a iv => Sys2Proof.Machine.execRvLoad op d a iv s
  | .rvStore op a b iv => Sys2Proof.Machine.execRvStore op a b iv s
  | .rvAmo op dbl aq rl d a b => Sys2Proof.Machine.execRvAmo op dbl aq rl d a b s
  | .lr dbl aq rl d a => Sys2Proof.Machine.execLr dbl aq rl d a s
  | .sc dbl aq rl d a b => Sys2Proof.Machine.execSc dbl aq rl d a b s
  | .csrAccess op imm d a csr => Sys2Proof.Machine.execCsrAccess op imm d a csr s
  | .fence fm pred succ d a => Sys2Proof.Machine.execFence fm pred succ d a s
  | .fenceI d a iv => Sys2Proof.Machine.execFenceI d a iv s
  | .ecall => Sys2Proof.Machine.execEcall s
  | .ebreak => Sys2Proof.Machine.execEbreak s
  | .wfi => Sys2Proof.Machine.execWfi s
  | .mret => Sys2Proof.Machine.execMret s
  | .fmt p => Sys2Proof.Machine.execFmt p s
  | .sbind g a b => Sys2Proof.Machine.execSbind g a b s
  | .sunbind g => Sys2Proof.Machine.execSunbind g s
  | .sgstat d g => Sys2Proof.Machine.execSgstat d g s
  | .streamFetch u k iv => Sys2Proof.Machine.execStreamFetch u k iv s
  | .streamStoreAccept u k iv => Sys2Proof.Machine.execStreamStoreAccept u k iv s
  | .qbind n a => Sys2Proof.Machine.execQbind n a s
  | .qpush n a => Sys2Proof.Machine.execQpush n a s
  | .qpop d n => Sys2Proof.Machine.execQpop d n s
  | .qpoll d n => Sys2Proof.Machine.execQpoll d n s
  | .qcnt d n => Sys2Proof.Machine.execQcnt d n s
  | .queueHeldDelivery u k port => Sys2Proof.Machine.execQueueHeldDelivery u k port s
  | .bmove d a b => Sys2Proof.Machine.execBmove d a b s
  | .bfillw d a b => Sys2Proof.Machine.execBfillw d a b s
  | .repb d a b => Sys2Proof.Machine.execRepb d a b s
  | .iclock d a b => Sys2Proof.Machine.execIclock d a b s
  | .icunlk a b => Sys2Proof.Machine.execIcunlk a b s
  | .ldna d a iv => Sys2Proof.Machine.execLdna d a iv s
  | .stby a b iv => Sys2Proof.Machine.execStby a b iv s
  | .pref a iv => Sys2Proof.Machine.execPref a iv s
  | .ldaq d a sc => Sys2Proof.Machine.execLdaq d a sc s
  | .strl a b sc => Sys2Proof.Machine.execStrl a b sc s
  | .fenceRg a sc => Sys2Proof.Machine.execFenceRg a sc s
  | .fenceS sc => Sys2Proof.Machine.execFenceS sc s
  | .fenceE => Sys2Proof.Machine.execFenceE s
  | .amosc op d a b => Sys2Proof.Machine.execAmosc op d a b s
  | .bcopy d a => Sys2Proof.Machine.execBcopy d a s
  | .bcopyc d a => Sys2Proof.Machine.execBcopyc d a s
  | .bgath d a => Sys2Proof.Machine.execBgath d a s
  | .bscat d a => Sys2Proof.Machine.execBscat d a s
  | .bcancel d a => Sys2Proof.Machine.execBcancel d a s
  | .ctest d a b => Sys2Proof.Machine.execCtest d a b s
  | .cwaitm a b => Sys2Proof.Machine.execCwaitm a b s
  | .waybillArrival u n => Sys2Proof.Machine.execWaybillArrival u n s
  | .engineStart u n => Sys2Proof.Machine.execEngineStart u n s
  | .engineChunkLanded u n chunk => Sys2Proof.Machine.execEngineChunkLanded u n chunk s
  | .engineComplete u n => Sys2Proof.Machine.execEngineComplete u n s
  | .gatherRowDelivery u n => Sys2Proof.Machine.execGatherRowDelivery u n s
  | .cancelRequest u k => Sys2Proof.Machine.execCancelRequest u k s
  | .send a b => Sys2Proof.Machine.execSend a b s
  | .sendr a b => Sys2Proof.Machine.execSendr a b s
  | .amsg a b => Sys2Proof.Machine.execAmsg a b s
  | .recv d a => Sys2Proof.Machine.execRecv d a s
  | .recvp d a => Sys2Proof.Machine.execRecvp d a s
  | .loopbk a b => Sys2Proof.Machine.execLoopbk a b s
  | .hret => Sys2Proof.Machine.execHret s
  | .rankget d a => Sys2Proof.Machine.execRankget d a s
  | .rankset a b => Sys2Proof.Machine.execRankset a b s
  | .barr d a => Sys2Proof.Machine.execBarr d a s
  | .bwait a b => Sys2Proof.Machine.execBwait a b s
  | .barw d a => Sys2Proof.Machine.execBarw d a s
  | .bcfg a b => Sys2Proof.Machine.execBcfg a b s
  | .bstat d a => Sys2Proof.Machine.execBstat d a s
  | .waita a => Sys2Proof.Machine.execWaita a s
  | .barrierRelease c b => Sys2Proof.Machine.execBarrierRelease c b s
  | .messageInject u reply => Sys2Proof.Machine.execMessageInject u reply s
  | .messageArrival src dst vn => Sys2Proof.Machine.execMessageArrival src dst vn s
  | .inboxHeldEntry u => Sys2Proof.Machine.execInboxHeldEntry u s
  | .handlerStart u => Sys2Proof.Machine.execHandlerStart u s
  | .mailboxRecordArrival c src => Sys2Proof.Machine.execMailboxRecordArrival c src s
  | .mbxrd d a => Sys2Proof.Machine.execMbxrd d a s
  | .mbxack a => Sys2Proof.Machine.execMbxack a s
  | .mbxpost a b => Sys2Proof.Machine.execMbxpost a b s
  | .resume a => Sys2Proof.Machine.execResume a s
  | .resumeReplyApply c iv => Sys2Proof.Machine.execResumeReplyApply c iv s
  | .slotsave a b => Sys2Proof.Machine.execSlotsave a b s
  | .slotrest a b => Sys2Proof.Machine.execSlotrest a b s
  | .nispill d a => Sys2Proof.Machine.execNispill d a s
  | .cutreq d a => Sys2Proof.Machine.execCutreq d a s
  | .cutstat d a => Sys2Proof.Machine.execCutstat d a s
  | .cutAnnounce => Sys2Proof.Machine.execCutAnnounce s
  | .preemptStop u => Sys2Proof.Machine.execPreemptStop u s
  | .dumpseal a => Sys2Proof.Machine.execDumpseal a s
  | .tspawn d a => Sys2Proof.Machine.execTspawn d a s
  | .tdep a => Sys2Proof.Machine.execTdep a s
  | .twait a => Sys2Proof.Machine.execTwait a s
  | .tsusp a => Sys2Proof.Machine.execTsusp a s
  | .texit => Sys2Proof.Machine.execTexit s
  | .phase a => Sys2Proof.Machine.execPhase a s
  | .taskWalkOffer iv => Sys2Proof.Machine.execTaskWalkOffer iv s
  | .queueTake u k => Sys2Proof.Machine.execQueueTake u k s
  | .stepinc a => Sys2Proof.Machine.execStepinc a s
  | .gswait a => Sys2Proof.Machine.execGswait a s
  | .sld d a => Sys2Proof.Machine.execSld d a s
  | .sst a b => Sys2Proof.Machine.execSst a b s
  | .sadd a b => Sys2Proof.Machine.execSadd a b s
  | .smerge a b => Sys2Proof.Machine.execSmerge a b s
  | .vsld d a mk => Sys2Proof.Machine.execVsld d a mk s
  | .vsst vs a mk => Sys2Proof.Machine.execVsst vs a mk s
  | .vsadd vs a mk => Sys2Proof.Machine.execVsadd vs a mk s
  | .vstpair vs a x mk => Sys2Proof.Machine.execVstpair vs a x mk s
  | .pairReserveGrant u => Sys2Proof.Machine.execPairReserveGrant u s
  | .pairLineLock u => Sys2Proof.Machine.execPairLineLock u s
  | .pairCommit u => Sys2Proof.Machine.execPairCommit u s
  | .winset a b => Sys2Proof.Machine.execWinset a b s
  | .gstepPublish => Sys2Proof.Machine.execGstepPublish s
  | .rins a => Sys2Proof.Machine.execRins a s
  | .rsplit a b => Sys2Proof.Machine.execRsplit a b s
  | .rmerge a b => Sys2Proof.Machine.execRmerge a b s
  | .rinval a => Sys2Proof.Machine.execRinval a s
  | .rprobe d a => Sys2Proof.Machine.execRprobe d a s
  | .rmove d a b => Sys2Proof.Machine.execRmove d a b s
  | .rres a b => Sys2Proof.Machine.execRres a b s
  | .boffl d a b => Sys2Proof.Machine.execBoffl d a b s
  | .bret d a b => Sys2Proof.Machine.execBret d a b s
  | .rangeBroadcastArrival u => Sys2Proof.Machine.execRangeBroadcastArrival u s
  | .orderDrainEnd m iv => Sys2Proof.Machine.execOrderDrainEnd m iv s
  | .orderCopyLine m iv => Sys2Proof.Machine.execOrderCopyLine m iv s
  | .orderSwitch m iv => Sys2Proof.Machine.execOrderSwitch m iv s
  | .orderCompletion m iv => Sys2Proof.Machine.execOrderCompletion m iv s
  | .vlgr d a w => Sys2Proof.Machine.execVlgr d a w s
  | .vectorUnitEnter q => Sys2Proof.Machine.execVectorUnitEnter q s
  | .vectorComplete q iv => Sys2Proof.Machine.execVectorComplete q iv s
  | .vadd d a b mk => Sys2Proof.Machine.execVadd d a b mk s
  | .vaddX d a b mk => Sys2Proof.Machine.execVaddX d a b mk s
  | .vsub d a b mk => Sys2Proof.Machine.execVsub d a b mk s
  | .vsubX d a b mk => Sys2Proof.Machine.execVsubX d a b mk s
  | .vmul d a b mk => Sys2Proof.Machine.execVmul d a b mk s
  | .vmulX d a b mk => Sys2Proof.Machine.execVmulX d a b mk s
  | .vfma d a b mk => Sys2Proof.Machine.execVfma d a b mk s
  | .vfmaX d a b mk => Sys2Proof.Machine.execVfmaX d a b mk s
  | .vfnma d a b mk => Sys2Proof.Machine.execVfnma d a b mk s
  | .vfnmaX d a b mk => Sys2Proof.Machine.execVfnmaX d a b mk s
  | .vdiv d a b mk => Sys2Proof.Machine.execVdiv d a b mk s
  | .vdivX d a b mk => Sys2Proof.Machine.execVdivX d a b mk s
  | .vsqrt d b mk => Sys2Proof.Machine.execVsqrt d b mk s
  | .vrsq d b mk => Sys2Proof.Machine.execVrsq d b mk s
  | .vexp2 d b mk => Sys2Proof.Machine.execVexp2 d b mk s
  | .vlog2 d b mk => Sys2Proof.Machine.execVlog2 d b mk s
  | .vmax d a b mk => Sys2Proof.Machine.execVmax d a b mk s
  | .vmaxX d a b mk => Sys2Proof.Machine.execVmaxX d a b mk s
  | .vmin d a b mk => Sys2Proof.Machine.execVmin d a b mk s
  | .vminX d a b mk => Sys2Proof.Machine.execVminX d a b mk s
  | .vabs d b mk => Sys2Proof.Machine.execVabs d b mk s
  | .vneg d b mk => Sys2Proof.Machine.execVneg d b mk s
  | .vcmp k a b p mk => Sys2Proof.Machine.execVcmp k a b p mk s
  | .vcmpX k a b p mk => Sys2Proof.Machine.execVcmpX k a b p mk s
  | .vsel d a b k => Sys2Proof.Machine.execVsel d a b k s
  | .vselX d a b k => Sys2Proof.Machine.execVselX d a b k s
  | .vand d a b mk => Sys2Proof.Machine.execVand d a b mk s
  | .vandX d a b mk => Sys2Proof.Machine.execVandX d a b mk s
  | .vor d a b mk => Sys2Proof.Machine.execVor d a b mk s
  | .vorX d a b mk => Sys2Proof.Machine.execVorX d a b mk s
  | .vxor d a b mk => Sys2Proof.Machine.execVxor d a b mk s
  | .vxorX d a b mk => Sys2Proof.Machine.execVxorX d a b mk s
  | .vshl d a b mk => Sys2Proof.Machine.execVshl d a b mk s
  | .vshlX d a b mk => Sys2Proof.Machine.execVshlX d a b mk s
  | .vshr d a b mk => Sys2Proof.Machine.execVshr d a b mk s
  | .vshrX d a b mk => Sys2Proof.Machine.execVshrX d a b mk s
  | .vsra d a b mk => Sys2Proof.Machine.execVsra d a b mk s
  | .vsraX d a b mk => Sys2Proof.Machine.execVsraX d a b mk s
  | .vcvt d b mk => Sys2Proof.Machine.execVcvt d b mk s
  | .vqnt d a b mk => Sys2Proof.Machine.execVqnt d a b mk s
  | .vrsum d a b mk => Sys2Proof.Machine.execVrsum d a b mk s
  | .vrmax d a b mk => Sys2Proof.Machine.execVrmax d a b mk s
  | .vrmin d a b mk => Sys2Proof.Machine.execVrmin d a b mk s
  | .vslide d a b mk => Sys2Proof.Machine.execVslide d a b mk s
  | .vslideX d a b mk => Sys2Proof.Machine.execVslideX d a b mk s
  | .vperm d a b mk => Sys2Proof.Machine.execVperm d a b mk s
  | .vbcst d a mk => Sys2Proof.Machine.execVbcst d a mk s
  | .vmvxv d a => Sys2Proof.Machine.execVmvxv d a s
  | .vmvvx d b => Sys2Proof.Machine.execVmvvx d b s
  | .vld d a mk => Sys2Proof.Machine.execVld d a mk s
  | .vst vs a mk => Sys2Proof.Machine.execVst vs a mk s
  | .vlds d a x mk => Sys2Proof.Machine.execVlds d a x mk s
  | .vsts vs a x mk => Sys2Proof.Machine.execVsts vs a x mk s
  | .vldx d a iv mk => Sys2Proof.Machine.execVldx d a iv mk s
  | .vstx vs a iv mk => Sys2Proof.Machine.execVstx vs a iv mk s
  | .vlut d a iv mk => Sys2Proof.Machine.execVlut d a iv mk s
  | .mand d a b => Sys2Proof.Machine.execMand d a b s
  | .mor d a b => Sys2Proof.Machine.execMor d a b s
  | .mnot d a => Sys2Proof.Machine.execMnot d a s
  | .mpop d a => Sys2Proof.Machine.execMpop d a s
  | .tld t => Sys2Proof.Machine.execTld t s
  | .tst t => Sys2Proof.Machine.execTst t s
  | .tldh t => Sys2Proof.Machine.execTldh t s
  | .tldm t => Sys2Proof.Machine.execTldm t s
  | .tgath t => Sys2Proof.Machine.execTgath t s
  | .tsave t => Sys2Proof.Machine.execTsave t s
  | .trest t => Sys2Proof.Machine.execTrest t s
  | .tmov t => Sys2Proof.Machine.execTmov t s
  | .tzero t => Sys2Proof.Machine.execTzero t s
  | .tfill t => Sys2Proof.Machine.execTfill t s
  | .tadd t => Sys2Proof.Machine.execTadd t s
  | .tsub t => Sys2Proof.Machine.execTsub t s
  | .tmul t => Sys2Proof.Machine.execTmul t s
  | .tmax t => Sys2Proof.Machine.execTmax t s
  | .tmin t => Sys2Proof.Machine.execTmin t s
  | .tscl t => Sys2Proof.Machine.execTscl t s
  | .ttrn t => Sys2Proof.Machine.execTtrn t s
  | .tred t => Sys2Proof.Machine.execTred t s
  | .tredQueue t => Sys2Proof.Machine.execTredQueue t s
  | .tcvt t => Sys2Proof.Machine.execTcvt t s
  | .tqnt t => Sys2Proof.Machine.execTqnt t s
  | .tdeq t => Sys2Proof.Machine.execTdeq t s
  | .tfence t => Sys2Proof.Machine.execTfence t s
  | .tmma t => Sys2Proof.Machine.execTmma t s
  | .tmmas t => Sys2Proof.Machine.execTmmas t s
  | .tmmaw t => Sys2Proof.Machine.execTmmaw t s
  | .tmmad t => Sys2Proof.Machine.execTmmad t s
  | .eset t => Sys2Proof.Machine.execEset t s
  | .esetImm t => Sys2Proof.Machine.execEsetImm t s
  | .skset t => Sys2Proof.Machine.execSkset t s
  | .skget t => Sys2Proof.Machine.execSkget t s
  | .tileRename u => Sys2Proof.Machine.execTileRename u s
  | .tileIssue u r => Sys2Proof.Machine.execTileIssue u r s
  | .tileComplete u r => Sys2Proof.Machine.execTileComplete u r s
  | .tileRetire u => Sys2Proof.Machine.execTileRetire u s
  | .tileStoreWritten u => Sys2Proof.Machine.execTileStoreWritten u s
  | .tileFault u => Sys2Proof.Machine.execTileFault u s
  | .matrixStart u r a => Sys2Proof.Machine.execMatrixStart u r a s
  | .leaseGrant q a => Sys2Proof.Machine.execLeaseGrant q a s
  | .leaseEnd q a => Sys2Proof.Machine.execLeaseEnd q a s
  | .slewStep c => Sys2Proof.Machine.execSlewStep c s
  | .dutyFrame u => Sys2Proof.Machine.execDutyFrame u s
  | .convoyRequest u r => Sys2Proof.Machine.execConvoyRequest u r s
  | .convoyWindowClose iv => Sys2Proof.Machine.execConvoyWindowClose iv s
  | .convoyLineSend iv => Sys2Proof.Machine.execConvoyLineSend iv s
  | .convoyUnicast iv => Sys2Proof.Machine.execConvoyUnicast iv s
  | .convoyLineArrival iv u => Sys2Proof.Machine.execConvoyLineArrival iv u s
  | .convoyEnd iv => Sys2Proof.Machine.execConvoyEnd iv s
  | .rdcInvalidateApply d => Sys2Proof.Machine.execRdcInvalidateApply d s
  | .writeThroughReply u k => Sys2Proof.Machine.execWriteThroughReply u k s
  | .dumpRecordWritten u => Sys2Proof.Machine.execDumpRecordWritten u s
  | .doubleFault c => Sys2Proof.Machine.execDoubleFault c s
  | .pointChangeDone q => Sys2Proof.Machine.execPointChangeDone q s
  | .parkComplete => Sys2Proof.Machine.execParkComplete s
  | .unparkComplete => Sys2Proof.Machine.execUnparkComplete s
  | .registerWrite pa n v => Sys2Proof.Machine.execRegisterWrite pa n v s
  | .rangeWalk u va => Sys2Proof.Machine.execRangeWalk u va s
  | .redirect u va => Sys2Proof.Machine.execRedirect u va s
  | .orderCancel u va => Sys2Proof.Machine.execOrderCancel u va s
  | .homeRead u line => Sys2Proof.Machine.execHomeRead u line s
  | .homeOwnership u line => Sys2Proof.Machine.execHomeOwnership u line s
  | .homeRdcRead d line => Sys2Proof.Machine.execHomeRdcRead d line s
  | .homeWrite u line => Sys2Proof.Machine.execHomeWrite u line s
  | .l1Fill u pa => Sys2Proof.Machine.execL1Fill u pa s
  | .rdcFill u pa => Sys2Proof.Machine.execRdcFill u pa s
  | .icacheFill u va => Sys2Proof.Machine.execIcacheFill u va s
  | .l2Fill line bad => Sys2Proof.Machine.execL2Fill line bad s
  | .loadReplyNoAllocate u pa => Sys2Proof.Machine.execLoadReplyNoAllocate u pa s
  | .hbmClockChange d => Sys2Proof.Machine.execHbmClockChange d s
  | .portSetMode p mode => Sys2Proof.Machine.execPortSetMode p mode s
  | .portTrain p => Sys2Proof.Machine.execPortTrain p s
  | .portTrainingEnd p ok speed width => Sys2Proof.Machine.execPortTrainingEnd p ok speed width s
  | .portLinkDown p => Sys2Proof.Machine.execPortLinkDown p s
  | .portRequestTimeout u k => Sys2Proof.Machine.execPortRequestTimeout u k s
  | .inboundRead p va n rid => Sys2Proof.Machine.execInboundRead p va n rid s
  | .inboundWrite p va n rid v ro => Sys2Proof.Machine.execInboundWrite p va n rid v ro s
  | .msiDelivery p va id => Sys2Proof.Machine.execMsiDelivery p va id s
  | .portEventInterrupt p kind => Sys2Proof.Machine.execPortEventInterrupt p kind s
  | .portRequestCompletion u k ok v => Sys2Proof.Machine.execPortRequestCompletion u k ok v s
  | .chunkConditionTimeout u r => Sys2Proof.Machine.execChunkConditionTimeout u r s
  | .tmmadBoxTimeout u r => Sys2Proof.Machine.execTmmadBoxTimeout u r s
  | .jobremoveGo v => Sys2Proof.Machine.execJobremoveGo v s
  | .dumpWriteTimeout u => Sys2Proof.Machine.execDumpWriteTimeout u s
  | .hrunWatchdog u => Sys2Proof.Machine.execHrunWatchdog u s
  | .mboxWatchdog c iv => Sys2Proof.Machine.execMboxWatchdog c iv s
  | .heartbeatWatchdog c => Sys2Proof.Machine.execHeartbeatWatchdog c s
  | .cmcbeatWrite c v => Sys2Proof.Machine.execCmcbeatWrite c v s
  | .correctedError => Sys2Proof.Machine.execCorrectedError s
  | .uncorrectableError e => Sys2Proof.Machine.execUncorrectableError e s
  | .budgetPeriod q thermal current d0 d1 d2 d3 => Sys2Proof.Machine.execBudgetPeriod q thermal current d0 d1 d2 d3 s
  | .sagSlowing q => Sys2Proof.Machine.execSagSlowing q s
  | .sagRecover q => Sys2Proof.Machine.execSagRecover q s
  | .currentComparator => Sys2Proof.Machine.execCurrentComparator s
  | .thermalTrip q => Sys2Proof.Machine.execThermalTrip q s
  | .thermalTripEnd q => Sys2Proof.Machine.execThermalTripEnd q s
  | .firmwareHold q => Sys2Proof.Machine.execFirmwareHold q s
  | .parkDieW => Sys2Proof.Machine.execParkDieW s
  | .parkDieE => Sys2Proof.Machine.execParkDieE s
  | .unpark => Sys2Proof.Machine.execUnpark s
  | .powerOn => Sys2Proof.Machine.execPowerOn s
  | .resetctlReset => Sys2Proof.Machine.execResetctlReset s
  | .attestationRequest => Sys2Proof.Machine.execAttestationRequest s
  | .attestationDone => Sys2Proof.Machine.execAttestationDone s
  | .agePredictionUpdate q hours => Sys2Proof.Machine.execAgePredictionUpdate q hours s
  | .gatherAbandon u n => Sys2Proof.Machine.execGatherAbandon u n s
  | .slewctlWrite c v => Sys2Proof.Machine.execSlewctlWrite c v s
  | .gstepWrite d v => Sys2Proof.Machine.execGstepWrite d v s
  | .bazaarAgeing place iv => Sys2Proof.Machine.execBazaarAgeing place iv s
  | .bazaarSteal u k => Sys2Proof.Machine.execBazaarSteal u k s
  | .dumpSealByStation j => Sys2Proof.Machine.execDumpSealByStation j s
  | .wrapSweepWord d m pa => Sys2Proof.Machine.execWrapSweepWord d m pa s

end Sys2Proof.Machine
end

