-- ==== Sys2Proof/Machine/Place.lean ====
section
/-! DEFINITION. Placing one instruction for a hart that may run it (log entry 7). -/

namespace Sys2Proof.Machine

open Sys2Proof

/-- The hart that Table 3.11 lets run an instruction. -/
def placeAgent (i : Option Instr) : Agent :=
  match i with
  | some (.slotsave _ _) | some (.slotrest _ _) | some (.nispill _ _) | some (.loopbk _ _) | some (.rankset _ _)
  | some .mret => { unit := 0, slot := 7 }
  | some .hret => { unit := 0, slot := 6 }
  | some (.rins _) | some (.rsplit _ _) | some (.rmerge _ _) | some (.rinval _) | some (.rprobe _ _) | some (.rmove _ _ _)
  | some (.rres _ _) | some (.boffl _ _ _) | some (.bret _ _ _) | some (.mbxrd _ _) | some (.mbxack _) | some (.mbxpost _ _)
  | some (.resume _) | some (.cutreq _ _) | some (.cutstat _ _) | some (.dumpseal _) | some (.winset _ _) => { unit := 192, slot := 0 }
  | some (.vstpair _ _ _ _) => { unit := 204, slot := 0 }
  | some j => if (tcwOf? j).isSome then { unit := 0, slot := 0 } else { unit := 0, slot := 1 }
  | none => { unit := 0, slot := 1 }

/-- Where the word lies: an address of HBM, in a range of job 0 that maps it to itself. -/
def placeAt : Nat := 0x10000

/-- The range of the placed word: the first MiB of region 0, readable, writable, executable. -/
def placeRange : RangeEntry :=
  { desc := 0, vbase := 0, vlimit := 0xFFF00, offset := 0, noff := 0, rlo := 0, rhi := 0xFFF00, nowin := false,
    r := true, w := true, x := true, s := false, n := false, state := 0, job := 0, cursor := 0 }

/-- The word placed at `placeAt` in the memory of a hart that may run it, its hart active and next to issue. -/
def placeWord (s : State) (nbits w : Nat) : State :=
  let a := placeAgent (decodeTableWord nbits w)
  let s1 := { s with cur := a, agenda := [.issue a] }
  let s2 := s1.put placeAt 32 (w % 2 ^ nbits)
  let s3 := { s2 with poison := [] }
  let s4 := s3.modUnit a.unit fun x =>
    { x with ranges := [placeRange], job := 0, icache := [], locks := [], wt := [], up := true, halted := false,
             stopped := false, duty := 16, fe := TileFE.reset }
  s4.modMe fun h => { h with active := true, park := 0, await := 0, waitOn := none, pp := false, pfx := 0, pc := w64 placeAt,
                             pipe := .idle, priv := 3 }

end Sys2Proof.Machine
end

