-- ==== Sys2Proof/Machine/Sched.lean ====
section
/-! DEFINITION. What the devices of the package do on their own when nothing is on the agenda (log entry 1): the first
step of a fixed list of due device steps that changes the state. -/

namespace Sys2Proof.Machine

open Sys2Proof

/-- Candidates of a hart: its streams, held queue values and requests in the pipe. -/
def hartEvents (u k : Nat) (h : Slot) : List Instr :=
  (h.sg.flatMap fun p => if p.2.bound || p.2.unaccepted != 0 then [.streamStoreAccept u k p.1, .streamFetch u k p.1] else [])
    ++ (h.held.map fun p => .queueHeldDelivery u k p.1)
    ++ (match h.pipe with
        | .cancel _ none => [.cancelRequest u k]
        | .pair _ _ _ _ => [.pairReserveGrant u, .pairLineLock u, .pairCommit u]
        | .resume i false => [.resumeReplyApply (u - 192) i]
        | _ => [])

/-- Candidates of a tile front end. -/
def tileEvents (u : Nat) (fe : TileFE) : List Instr :=
  (if fe.rob == [] && fe.inq == [] && fe.replay == [] && fe.writing == [] && fe.recorded.isNone then []
   else [.tileRetire u, .tileStoreWritten u, .tileFault u])
    ++ (fe.rob.flatMap fun r =>
      match r.phase with
      | .complete => []
      | .renamed => [.tileIssue u r.id, .matrixStart u r.id 0, .matrixStart u r.id 1, .tileComplete u r.id]
      | .issued => [.tileComplete u r.id, .matrixStart u r.id 0, .matrixStart u r.id 1, .convoyRequest u r.id]
      | .started => [.tileComplete u r.id])
    ++ (if fe.inq == [] && fe.replay == [] then [] else [.tileRename u])

/-- Candidates of an engine operation. -/
def opEvents (u : Nat) (o : EngineOp) : List Instr :=
  let n := o.serial.toNat
  match o.phase with
  | .sent => [.waybillArrival u n]
  | .queued => [.engineStart u n]
  | _ =>
    if o.gq then [.gatherRowDelivery u n, .engineComplete u n]
    else
      match (upTo o.chunkCount).find? fun c => !o.done.contains c with
      | some c => [.engineChunkLanded u n c]
      | none => [.engineComplete u n]

/-- Candidates of a unit. -/
def unitEvents (u : Nat) (x : UnitSt) : List Instr :=
  (x.wt.map fun w => .writeThroughReply u w.slot) ++ tileEvents u x.fe ++ x.ops.flatMap (opEvents u)
    ++ (if x.ni.inbuf == [] then [] else [.inboxHeldEntry u])
    ++ (if x.ni.inbox.any fun m => m.kind == 2 then [.handlerStart u] else [])
    ++ (if x.ni.rplQ == [] then [] else [.messageInject u true]) ++ (if x.ni.reqQ == [] then [] else [.messageInject u false])
    ++ (if x.records == [] then [] else [.mailboxRecordArrival (if isCore u then u / 16 else noticeCluster u) u])
    ++ (if x.preempt.isSome then [.preemptStop u] else []) ++ (if x.dutyNext.isSome then [.dutyFrame u] else [])

/-- Candidates of a quad: its vector unit and its arrays. -/
def quadEvents (q : Nat) (x : Quad) : List Instr :=
  (if x.vwait == [] then [] else [.vectorUnitEnter q]) ++ ((upTo x.vunit.length).map fun i => .vectorComplete q i)

/-- Candidates of the arrays of a quad whose cores use them. -/
def arrayEvents (s : State) (q : Nat) : List Instr :=
  if (quadCores q).any (fun u => (s.fe u).rob != []) || (s.quad q).arrays.any fun p => p.2.holder.isSome then
    [.leaseEnd q 0, .leaseEnd q 1, .leaseGrant q 0, .leaseGrant q 1]
  else []

/-- A slew step is due: an array is in issue cycles or in a filler, a start is held, a write waits, or the count must change. -/
def slewDue (s : State) (c : Nat) : Bool :=
  let k := s.cluster c
  arraysRunning s c != [] || arraysFilling s c != [] || k.heldStarts != [] || k.heldNew != [] || k.slewNext.isSome || k.active != []

/-- Candidates of a cluster. -/
def clusterEvents (s : State) (c : Nat) : List Instr :=
  (if slewDue s c then [.slewStep c] else [])
    ++ (((upTo 16).flatMap fun k => (s.unit (16 * c + k)).barriers.filterMap fun p => if p.2.due then some p.1 else none).dedup.map
        fun b => .barrierRelease c b)

/-- Candidates of a memory station's orders. -/
def stationEvents (m : Nat) (x : Station) : List Instr :=
  (upTo x.orders.length).flatMap fun i => [.orderDrainEnd m i, .orderCopyLine m i, .orderSwitch m i, .orderCompletion m i]

/-- Candidates of the wrap sweeps that run (17 R404). -/
def sweepEvents (s : State) : List Instr :=
  (upTo 8).flatMap fun d =>
    if (fget s.pkg.sweep d Sweep.reset).run then
      (upTo 6).filterMap fun m => (nextStamped s d m).map fun pa => .wrapSweepWord d m pa
    else []

/-- Candidates for taking tasks from a queue. -/
def queueEvents (s : State) (key : Nat) : List Instr :=
  if s.queueOf key == [] then []
  else
    let us := if key < 12 then (upTo 16).map (· + 16 * key) else (upTo 4).map (· + 204 + 4 * (key - 12))
    us.flatMap fun u => (upTo (if key < 12 then 6 else 1)).map fun k => .queueTake u k

/-- Every candidate, in the order in which they are tried. -/
def deviceEvents (s : State) : List Instr :=
  ((upTo 2).flatMap fun d => if (s.die d).inval == [] then [] else [.rdcInvalidateApply d])
    ++ ((upTo 244).flatMap fun u => if (s.unit u).bseen < s.bcasts.length then [.rangeBroadcastArrival u] else [])
    ++ (s.harts.flatMap fun p => hartEvents (p.1 / 8) (p.1 % 8) p.2) ++ (s.units.flatMap fun p => unitEvents p.1 p.2)
    ++ (s.quads.flatMap fun p => quadEvents p.1 p.2) ++ ((upTo 48).flatMap (arrayEvents s))
    ++ (s.mesh.map fun f => .messageArrival f.msg.src f.dst (b2n f.msg.reply))
    ++ ((upTo 12).flatMap (clusterEvents s)) ++ (s.stations.flatMap fun p => stationEvents p.1 p.2)
    ++ (s.pendRecords.map fun p => .mailboxRecordArrival p.cluster p.src)
    ++ ((upTo s.convoys.length).flatMap fun i => [.convoyLineSend i, .convoyUnicast i])
    ++ ((upTo s.convoys.length).flatMap fun i =>
        ((s.convoys[i]?.map fun c => c.inFlight.map fun f => f.1 / 32).getD []).map fun u => .convoyLineArrival i u)
    ++ ((upTo s.walks.length).map fun i => .taskWalkOffer i) ++ ((upTo 18).flatMap (queueEvents s))
    ++ (if (s.cut.map fun c => !c.announced).getD false then [.cutAnnounce] else [])
    ++ (s.removals.flatMap fun p => if p.2.sealed then [] else p.2.todo.map fun u => .dumpRecordWritten u)
    ++ (s.removals.filterMap fun p => if p.2.sealed || !p.2.writer then none else some (.dumpSealByStation p.1))
    ++ (if s.pkg.attgo = 1 then [.attestationDone] else [])
    ++ ((upTo 2).filterMap fun d => if (s.die d).hbmIdx = (s.die d).hbmNext then none else some (.hbmClockChange d))
    ++ ((upTo 48).flatMap fun q => if grantedPoint s q == (s.quad q).point then [] else [.pointChangeDone q])
    ++ (if s.pkg.parkBusy || s.pkg.parkWait then [.parkComplete, .unparkComplete] else [])
    ++ sweepEvents s ++ [.gstepPublish]
    ++ ((upTo s.convoys.length).flatMap fun i =>
        match s.convoys[i]? with
        | some c => if c.open_ then [.convoyWindowClose i] else if c.over then [.convoyEnd i] else []
        | none => [])

/-- Whether a device step changes the state. -/
def changes (s : State) (i : Instr) : Bool :=
  match exec i s with
  | .next t => t != s
  | _ => false

/-- The device step that is due, if any. -/
def autoEvent (s : State) : Option Instr := (deviceEvents s).find? (changes s)

end Sys2Proof.Machine
end

