-- ==== Sys2Proof/Machine/Step.lean ====
section
/-! DEFINITION. One step of the machine, and the placing of an instruction where the next step fetches. -/

namespace Sys2Proof.Machine

open Sys2Proof

/-- One instruction of the executing hart: fetched, decoded and executed. -/
def runHart (s : State) : Host.Outcome State Fault Refusal :=
  match fetchInstr s with
  | .error e => fetchStop s e
  | .ok (t, i) => exec i t

/-- One step: what the agenda asks for, where a hart that it names issues only as a candidate (01 R15); else the device step that is due; else the next instruction of a hart;
else nothing happens (log entry 1). -/
def step (s : State) : Host.Outcome State Fault Refusal :=
  match s.agenda with
  | .event i :: rest => exec i { s with agenda := rest }
  | .issue a :: rest =>
    let t := { s with agenda := rest }
    if candidate t a.unit a.slot then runHart (t.issuing a) else .next t
  | [] =>
    match autoEvent s with
    | some i => exec i s
    | none =>
      match nextHart s with
      | some a => runHart (s.issuing a)
      | none => .next s

/-- The state with an instruction placed where the next step fetches it, on a hart that may run it. -/
def State.withFetchWord (s : State) (nbits w : Nat) : State := placeWord s nbits w

end Sys2Proof.Machine
end

