-- ==== Sys2Proof/Safety.lean ====
section
/-! DEFINITION. The terms in which statements about the machine are written: a safe run, the hart that may issue an
instruction, its plain registers, and what a step leaves alone. -/

namespace Sys2Proof.Machine

open Sys2Proof

/-- A step that goes on or declines; never a fault. -/
def goesOn (o : Host.Outcome State Fault Refusal) : Bool :=
  match o with
  | .fault _ => false
  | _ => true

/-- The invariant of the state's data: memory is in its canonical form. -/
abbrev State.Inv (s : State) : Prop := memWf s.mem = true

/-- The state on which an instruction of n bytes runs: its hart not parked, the PC past it, it is counted. -/
def State.begun (s : State) (n : Nat) : State := (s.modMe Slot.unpark).advance n

/-- No format prefix is pending on the executing hart (04 R113). -/
abbrev State.ready (s : State) : Prop := s.me.pp = false

/-- An instruction that takes no format prefix and that its unit decodes (04 R114, Table 3.11). -/
def State.formatless (s : State) (i : Instr) : Bool :=
  match i with
  | .rvAluOrBranch op => s.onBase op
  | .rvLoad .. | .rvStore .. | .rvAmo .. | .lr .. | .sc .. | .csrAccess .. | .fence .. | .fenceI .. | .ecall | .ebreak | .wfi | .mret
  | .ldaq .. | .strl .. | .fenceRg .. | .fenceS .. | .fenceE | .amosc .. | .tdep .. => true
  | .fmt .. | .bcopy .. | .bcopyc .. | .bgath .. | .bscat .. | .bcancel .. | .ctest .. | .cwaitm .. | .tsusp .. | .texit | .stepinc ..
  | .gswait .. | .sld .. | .sst .. | .sadd .. | .smerge .. | .vlgr .. => s.onCoreU
  | .vsel .. | .vselX .. | .vand .. | .vandX .. | .vor .. | .vorX .. | .vxor .. | .vxorX .. | .vshl .. | .vshlX .. | .vshr .. | .vshrX ..
  | .vsra .. | .vsraX .. | .vslide .. | .vslideX .. | .vperm .. | .vbcst .. | .vmvxv .. | .vmvvx .. | .vld .. | .vst .. | .vlds ..
  | .vsts .. | .vldx .. | .vstx .. | .vlut .. | .mand .. | .mor .. | .mnot .. | .mpop .. | .vsld .. | .vsst .. | .vsadd .. => s.onCoreU
  | .sbind .. | .sunbind .. | .sgstat .. | .qbind .. | .qpush .. | .qpop .. | .qpoll .. | .qcnt .. | .bmove .. | .bfillw .. | .repb ..
  | .iclock .. | .icunlk .. | .sendr .. | .amsg .. | .loopbk .. | .hret | .rankget .. | .barr .. | .bwait .. | .barw .. | .bcfg ..
  | .bstat .. | .twait .. | .phase .. => s.onCore
  | .ldna .. | .stby .. | .pref .. | .send .. | .recv .. | .recvp .. | .waita .. => s.onCoreUC
  | .rankset .. => s.onRankset
  | .mbxrd .. | .mbxack .. | .mbxpost .. | .resume .. | .dumpseal .. => s.onCmcS
  | .slotsave .. | .slotrest .. | .nispill .. => s.onService
  | .cutreq .. | .cutstat .. | .winset .. | .rprobe .. | .rmove .. | .boffl .. | .bret .. | .rins .. | .rsplit .. | .rmerge .. | .rinval ..
  | .rres .. => s.onSys
  | .tspawn .. => s.onSpawn
  | .vstpair .. => s.onUcore
  | .tld .. | .tst .. | .tldh .. | .tldm .. | .tgath .. | .tsave .. | .trest .. | .tmov .. | .tzero .. | .tfill .. | .tadd .. | .tsub ..
  | .tmul .. | .tmax .. | .tmin .. | .tscl .. | .ttrn .. | .tred .. | .tredQueue .. | .tcvt .. | .tqnt .. | .tdeq .. | .tfence .. | .tmma ..
  | .tmmas .. | .tmmaw .. | .tmmad .. | .eset .. | .esetImm .. | .skset .. | .skget .. => s.onTile
  | _ => false

/-- An x-register that is not bound to a stream generator. -/
abbrev Slot.free (h : Slot) (r : BitVec 5) : Prop := h.isBound r.toNat = false

/-- An x-register whose read yields its value: not bound, and not poisoned (01 R21, 20 R457). -/
abbrev Slot.plain (h : Slot) (r : BitVec 5) : Prop := h.isBound r.toNat = false ∧ (h.poison.contains r.toNat = false ∨ r = 0)

/-- The state in which instruction i has trapped, with no effect of its own (01 R8, 18 R413). -/
def State.trapped (s : State) (cause tval : Nat) (i : Instr) : State := takeTrap (s.modMe Slot.unpark) cause tval (instrWord i)

/-- The executing hart's x-register r set to v, all else as it is. -/
def State.setX (s : State) (r : BitVec 5) (v : Word) : State := s.modMe fun h => h.setReg r.toNat v

/-- The executing hart at another PC. -/
def State.jumped (s : State) (t : Word) : State := s.modMe fun h => { h with pc := t }

/-- The waits of aq and rl, and of an acquire at a scope code, are over (10 R240, R258). -/
abbrev orderOk (s : State) (scope : Nat) (aq rl : Bool) : Prop :=
  (rl = true → performed s s.cur.unit s.cur.slot = true) ∧ (aq = true → scope < 4 ∨ rdcClean s s.cur.unit = true)

/-- A store of this core need not wait for its earlier ones, nor for copies that they superseded (10 R268). -/
abbrev mmrevOk (s : State) : Prop :=
  isCore s.cur.unit = true → s.mine.mmrev = 1 →
    performed s s.cur.unit s.cur.slot = true ∧ (s.die 0).inval = [] ∧ (s.die 1).inval = []

/-- An access of a core that misses its cache finds one of the 48 requests free (09 R241). -/
abbrev requestOk (s : State) (hit : Bool) : Prop :=
  isCore s.cur.unit = true → hit = true ∨ requestFree s s.cur.unit s.request s.waiter = true

/-- The acquire that goes with an access, if it is one. -/
def State.acquiredIf (s : State) (aq : Bool) : State := if aq then s.acquired else s

/-- Two states agree but for what the executing hart's slot holds. -/
def onlyMe (s t : State) : Prop :=
  { t with harts := s.harts } = s
    ∧ ∀ u k, hartKey u k ≠ hartKey s.cur.unit s.cur.slot → t.hart u k = s.hart u k

/-- Two slots agree but for the PC, the counts of instructions and the park. -/
abbrev sameBut (h g : Slot) : Prop :=
  { g with pc := h.pc, instret := h.instret, resv := h.resv, park := h.park, await := h.await, waitOn := h.waitOn } = h

/-- The drain of a task's slot is over (16 R379): the lead slot's tile stream is still, the slot's accesses have performed, its
appended elements are accepted, and no engine operation of it is outstanding. -/
abbrev taskDrained (s : State) : Prop :=
  (isCore s.cur.unit = true → s.cur.slot = 0 → streamStill s s.cur.unit = true) ∧ performed s s.cur.unit s.cur.slot = true
    ∧ s.me.sg.all (fun p => p.2.unaccepted == 0) = true ∧ s.mine.ops.all (fun o => o.slot != s.cur.slot) = true

/-! ### The vector forms, by what they do (05) -/

/-- The arithmetic forms, with their operation and what stands in Va's place. -/
def vectorArithForms (d a b : BitVec 4) (x : BitVec 5) (mk : VMask) : List (Instr × VArith × VSrc) :=
  [ (.vadd d a b mk, .add, .v a), (.vaddX d x b mk, .add, .x x), (.vsub d a b mk, .sub, .v a), (.vsubX d x b mk, .sub, .x x),
    (.vmul d a b mk, .mul, .v a), (.vmulX d x b mk, .mul, .x x), (.vfma d a b mk, .fma, .v a), (.vfmaX d x b mk, .fma, .x x),
    (.vfnma d a b mk, .fnma, .v a), (.vfnmaX d x b mk, .fnma, .x x), (.vdiv d a b mk, .div, .v a), (.vdivX d x b mk, .div, .x x),
    (.vsqrt d b mk, .sqrt, .none), (.vrsq d b mk, .rsq, .none), (.vexp2 d b mk, .exp2, .none), (.vlog2 d b mk, .log2, .none),
    (.vmax d a b mk, .max, .v a), (.vmaxX d x b mk, .max, .x x), (.vmin d a b mk, .min, .v a), (.vminX d x b mk, .min, .x x),
    (.vabs d b mk, .abs, .none), (.vneg d b mk, .neg, .none) ]

/-- The logic forms, and the shifts. -/
def vectorBitForms (d a b : BitVec 4) (x : BitVec 5) (mk : VMask) : List (Instr × VBit × VSrc) :=
  [ (.vand d a b mk, .and, .v a), (.vandX d x b mk, .and, .x x), (.vor d a b mk, .or, .v a), (.vorX d x b mk, .or, .x x),
    (.vxor d a b mk, .xor, .v a), (.vxorX d x b mk, .xor, .x x) ]
def vectorShiftForms (d a b : BitVec 4) (x : BitVec 5) (mk : VMask) : List (Instr × VShift × VSrc) :=
  [ (.vshl d a b mk, .shl, .v a), (.vshlX d x b mk, .shl, .x x), (.vshr d a b mk, .shr, .v a), (.vshrX d x b mk, .shr, .x x),
    (.vsra d a b mk, .sra, .v a), (.vsraX d x b mk, .sra, .x x) ]

/-- Every form that the vector unit executes, with its shape. -/
def vectorForms (d a b : BitVec 4) (x y r : BitVec 5) (k l n : BitVec 2) (p : Pred) (mk : VMask) : List (Instr × VKind) :=
  (vectorArithForms d a b x mk).map (fun q => (q.1, .arith q.2.1 d q.2.2 b mk))
    ++ (vectorBitForms d a b x mk).map (fun q => (q.1, .bit q.2.1 d q.2.2 b mk))
    ++ (vectorShiftForms d a b x mk).map (fun q => (q.1, .shift q.2.1 d q.2.2 b mk))
    ++ [ (.vcmp k a b p mk, .cmp k (.v a) b p mk), (.vcmpX k x b p mk, .cmp k (.x x) b p mk),
         (.vsel d a b k, .sel d (.v a) b k), (.vselX d x b k, .sel d (.x x) b k), (.vcvt d b mk, .cvt d b mk), (.vqnt d a b mk, .qnt d a b mk),
         (.vrsum d a b mk, .red .sum d a b mk), (.vrmax d a b mk, .red .max d a b mk), (.vrmin d a b mk, .red .min d a b mk),
         (.vslide d a b mk, .slide d (.v a) b mk), (.vslideX d x b mk, .slide d (.x x) b mk), (.vperm d a b mk, .perm d a b mk),
         (.vbcst d x mk, .bcst d x mk), (.vmvxv d x, .mvxv d x), (.vmvvx r b, .mvvx r b),
         (.vld d x mk, .mem false d x .unit mk), (.vst d x mk, .mem true d x .unit mk), (.vlds d x y mk, .mem false d x (.stride y) mk),
         (.vsts d x y mk, .mem true d x (.stride y) mk), (.vldx d x a mk, .mem false d x (.index a) mk),
         (.vstx d x a mk, .mem true d x (.index a) mk), (.vlut d x a mk, .lut d x a mk),
         (.mand k l n, .mask .and k l n), (.mor k l n, .mask .or k l n), (.mnot k l, .mnot k l), (.mpop r k, .mpop r k),
         (.vsld d x mk, .stamped .ld d x mk), (.vsst d x mk, .stamped .st d x mk), (.vsadd d x mk, .stamped .add d x mk) ]

/-- The forms that take a format prefix (05 R139). -/
def takesFormats (k : VKind) : Bool :=
  match k with
  | .arith _ _ _ _ _ | .cmp _ _ _ _ _ | .red _ _ _ _ _ | .cvt _ _ _ | .qnt _ _ _ _ => true
  | _ => false

/-- What the executing hart hands over for a form: its registers' values captured, the vector state at its issue. -/
def handedOver (i : Instr) (k : VKind) (s : State) : VOp :=
  let v (r : Option (BitVec 5)) : Word := (r.map fun r => s.me.reg r.toNat).getD 0
  vOpOf i s (v k.xRegs.1) (v k.xRegs.2)

/-- The prefix of a form that has used it is gone. -/
def State.noPrefix (s : State) : State := s.modMe fun h => { h with pp := false, pfx := 0 }

/-- The forms of a tile command word (06, 07). -/
def tileForms (t : Tcw) : List Instr :=
  [ .tld t, .tst t, .tldh t, .tldm t, .tgath t, .tsave t, .trest t, .tmov t, .tzero t, .tfill t, .tadd t, .tsub t, .tmul t, .tmax t,
    .tmin t, .tscl t, .ttrn t, .tred t, .tredQueue t, .tcvt t, .tqnt t, .tdeq t, .tfence t, .tmma t, .tmmas t, .tmmaw t, .tmmad t,
    .eset t, .esetImm t, .skset t, .skget t ]

/-- A tile command word as it is captured at address pc: the registers that its form names, zero for the other fields (01 R36). -/
def captured (s : State) (i : Instr) (t : Tcw) : TcwEntry :=
  let v (use : Bool) (r : BitVec 5) : Word := if use then s.me.reg r.toNat else 0
  let (b, st, a, a2, cb, cv) := tcwReads i
  { tcw := t.raw, addr := s.me.pc, base := v b t.base, stride := v st t.stride, aux := v a t.aux, aux2 := v a2 t.aux2,
    cbr := v cb t.cbr, cvr := v cv t.cvr, step := s.mine.step }

/-- The registers that a form captures are plain. -/
abbrev capturesPlain (s : State) (i : Instr) (t : Tcw) : Prop :=
  let (b, st, a, a2, cb, cv) := tcwReads i
  (b = true → s.me.plain t.base) ∧ (st = true → s.me.plain t.stride) ∧ (a = true → s.me.plain t.aux)
    ∧ (a2 = true → s.me.plain t.aux2) ∧ (cb = true → s.me.plain t.cbr) ∧ (cv = true → s.me.plain t.cvr)

end Sys2Proof.Machine
end

