-- ==== Sys2Proof/Certificates/Slice0/Obligations.lean ====
section
/-! DEFINITION. The statements for the provers. -/

open Sys2Proof Sys2Proof.Machine

/-- A computational, branch or jump instruction of the RISC-V base (03 R91, 01 R8): with plain sources and a
destination that no stream is bound to, it writes the destination, moves the PC, and changes nothing else. x0 as
the destination is covered: setting it changes nothing. Zba, Zbb and Zicond are vacant on update and application cores (03 R92, 17 R405),
where their words raise ILLEGAL; that a CMC has them is the model's choice (log entry 15). The values are those that RISC-V gives each
operation. -/
def Obligations.ComputeInstructionsComplete : Prop :=
  (∀ (s : State) (rd a b : BitVec 5), s.ready → s.me.free rd → s.me.plain a → s.me.plain b →
    let x := s.me.reg a.toNat
    let y := s.me.reg b.toNat
    (∀ imm, exec (.rvAluOrBranch (.lui rd imm)) s = .next ((s.begun 4).setX rd ((imm ++ 0#12).signExtend 64)))
    ∧ (∀ imm, exec (.rvAluOrBranch (.auipc rd imm)) s
        = .next ((s.begun 4).setX rd (s.me.pc + (imm ++ 0#12).signExtend 64)))
    ∧ (∀ op, s.onBase (.alu op rd a b) = true →
      exec (.rvAluOrBranch (.alu op rd a b)) s = .next ((s.begun 4).setX rd (aluVal op x y)))
    ∧ (∀ op, s.onBase (.aluW op rd a b) = true →
      exec (.rvAluOrBranch (.aluW op rd a b)) s = .next ((s.begun 4).setX rd (aluWVal op x y)))
    ∧ (∀ op imm, exec (.rvAluOrBranch (.aluI op rd a imm)) s
        = .next ((s.begun 4).setX rd (aluIVal op x (imm.signExtend 64))))
    ∧ (∀ op n, s.onBase (.shift op rd a n) = true →
      exec (.rvAluOrBranch (.shift op rd a n)) s = .next ((s.begun 4).setX rd (shiftVal op x n.toNat)))
    ∧ (∀ op, s.onBase (.unary op rd a) = true →
      exec (.rvAluOrBranch (.unary op rd a)) s = .next ((s.begun 4).setX rd (unaryVal op x)))
    ∧ (∀ off, let t := s.me.pc + (off ++ 0#1).signExtend 64
        t.toNat % 4 = 0 → exec (.rvAluOrBranch (.jal rd off)) s
          = .next (((s.begun 4).jumped t).setX rd (s.me.pc + 4)))
    ∧ (∀ imm, let t := (x + imm.signExtend 64) &&& ~~~1#64
        t.toNat % 4 = 0 → exec (.rvAluOrBranch (.jalr rd a imm)) s
          = .next (((s.begun 4).jumped t).setX rd (s.me.pc + 4)))
    ∧ (∀ c off, brTaken c x y = false → exec (.rvAluOrBranch (.branch c a b off)) s = .next (s.begun 4))
    ∧ (∀ c off, let t := s.me.pc + (off ++ 0#1).signExtend 64
        brTaken c x y = true → t.toNat % 4 = 0 → exec (.rvAluOrBranch (.branch c a b off)) s
          = .next ((s.begun 4).jumped t)))
  ∧ (∀ (s : State) (op : RvOp),
    ((isCore s.cur.unit = true ∨ isCmc s.cur.unit = true ∨ rvExtended op = false) → s.onBase op = true)
    ∧ (rvExtended op = true → isUcore s.cur.unit = true ∨ isApp s.cur.unit = true →
      exec (.rvAluOrBranch op) s = .next (s.trapped cIllegal (2 ^ 63 + instrWord (.rvAluOrBranch op)) (.rvAluOrBranch op))))
  ∧ (∀ (x y : Word),
    let a := x.toNat
    let b := y.toNat
    let n := b % 64
    let v := fun (op : AluOp) => aluVal op x y
    ((v .add).toNat = (a + b) % 2 ^ 64 ∧ (v .sub).toNat = (a + (2 ^ 64 - b)) % 2 ^ 64
      ∧ (v .slt).toNat = (if x.toInt < y.toInt then 1 else 0) ∧ (v .sltu).toNat = (if a < b then 1 else 0)
      ∧ (v .sll).toNat = a * 2 ^ n % 2 ^ 64 ∧ (v .srl).toNat = a / 2 ^ n ∧ (v .sra).toInt = x.toInt / 2 ^ n)
    ∧ (∀ i, i < 64 → let p := x.getLsbD i
        let q := y.getLsbD i
        (v .xor).getLsbD i = (p != q) ∧ (v .or).getLsbD i = (p || q) ∧ (v .and).getLsbD i = (p && q) ∧ (v .andn).getLsbD i = (p && !q)
          ∧ (v .orn).getLsbD i = (p || !q) ∧ (v .xnor).getLsbD i = (p == q))
    ∧ ((v .mul).toNat = a * b % 2 ^ 64 ∧ (v .mulhu).toNat = a * b / 2 ^ 64 ∧ (v .mulh).toInt = x.toInt * y.toInt / 2 ^ 64
      ∧ (v .mulhsu).toInt = x.toInt * b / 2 ^ 64)
    ∧ (y = 0 → v .div = BitVec.allOnes 64 ∧ v .divu = BitVec.allOnes 64 ∧ v .rem = x ∧ v .remu = x)
    ∧ (y ≠ 0 → (v .divu).toNat = a / b ∧ (v .remu).toNat = a % b
      ∧ (x.toInt ≠ -2 ^ 63 ∨ y.toInt ≠ -1 → (v .div).toInt = x.toInt.tdiv y.toInt ∧ (v .rem).toInt = x.toInt.tmod y.toInt)
      ∧ (x.toInt = -2 ^ 63 → y.toInt = -1 → v .div = x ∧ v .rem = 0))
    ∧ ((v .sh1add).toNat = (2 * a + b) % 2 ^ 64 ∧ (v .sh2add).toNat = (4 * a + b) % 2 ^ 64 ∧ (v .sh3add).toNat = (8 * a + b) % 2 ^ 64
      ∧ (v .min).toInt = min x.toInt y.toInt ∧ (v .max).toInt = max x.toInt y.toInt ∧ (v .minu).toNat = min a b ∧ (v .maxu).toNat = max a b
      ∧ (v .rol).toNat = a * 2 ^ n % 2 ^ 64 + a / 2 ^ (64 - n) ∧ (v .ror).toNat = a / 2 ^ n + a * 2 ^ (64 - n) % 2 ^ 64
      ∧ v .czeroEqz = (if y = 0 then 0 else x) ∧ v .czeroNez = (if y = 0 then x else 0)))
  ∧ (∀ (x y : Word),
    let a := x.toNat % 2 ^ 32
    let b := y.toNat % 2 ^ 32
    let n := b % 32
    let sx := fun (k : Nat) => if k % 2 ^ 32 < 2 ^ 31 then ((k % 2 ^ 32 : Nat) : Int) else ((k % 2 ^ 32 : Nat) : Int) - 2 ^ 32
    let v := fun (op : AluWOp) => (aluWVal op x y).toInt
    (v .addw = sx (a + b) ∧ v .subw = sx (a + (2 ^ 32 - b)) ∧ v .mulw = sx (a * b) ∧ v .sllw = sx (a * 2 ^ n) ∧ v .srlw = sx (a / 2 ^ n)
      ∧ v .sraw = sx a / 2 ^ n ∧ v .rolw = sx (a * 2 ^ n % 2 ^ 32 + a / 2 ^ (32 - n)) ∧ v .rorw = sx (a / 2 ^ n + a * 2 ^ (32 - n) % 2 ^ 32))
    ∧ (b = 0 → v .divw = -1 ∧ v .divuw = -1 ∧ v .remw = sx a ∧ v .remuw = sx a)
    ∧ (b ≠ 0 → v .divuw = sx (a / b) ∧ v .remuw = sx (a % b)
      ∧ (sx a ≠ -2 ^ 31 ∨ sx b ≠ -1 → v .divw = (sx a).tdiv (sx b) ∧ v .remw = (sx a).tmod (sx b))
      ∧ (sx a = -2 ^ 31 → sx b = -1 → v .divw = sx a ∧ v .remw = 0))
    ∧ ((aluWVal .addUw x y).toNat = (a + y.toNat) % 2 ^ 64 ∧ (aluWVal .sh1addUw x y).toNat = (2 * a + y.toNat) % 2 ^ 64
      ∧ (aluWVal .sh2addUw x y).toNat = (4 * a + y.toNat) % 2 ^ 64 ∧ (aluWVal .sh3addUw x y).toNat = (8 * a + y.toNat) % 2 ^ 64))
  ∧ (∀ (x i : Word) (n : Nat),
    (aluIVal .addi x i = aluVal .add x i ∧ aluIVal .slti x i = aluVal .slt x i ∧ aluIVal .sltiu x i = aluVal .sltu x i
      ∧ aluIVal .xori x i = aluVal .xor x i ∧ aluIVal .ori x i = aluVal .or x i ∧ aluIVal .andi x i = aluVal .and x i
      ∧ aluIVal .addiw x i = aluWVal .addw x i)
    ∧ (n < 64 → let y := BitVec.ofNat 64 n
      shiftVal .slli x n = aluVal .sll x y ∧ shiftVal .srli x n = aluVal .srl x y ∧ shiftVal .srai x n = aluVal .sra x y
        ∧ shiftVal .rori x n = aluVal .ror x y ∧ (shiftVal .slliUw x n).toNat = x.toNat % 2 ^ 32 * 2 ^ n % 2 ^ 64)
    ∧ (n < 32 → let y := BitVec.ofNat 64 n
      shiftVal .slliw x n = aluWVal .sllw x y ∧ shiftVal .srliw x n = aluWVal .srlw x y ∧ shiftVal .sraiw x n = aluWVal .sraw x y
        ∧ shiftVal .roriw x n = aluWVal .rorw x y))
  ∧ (∀ (x : Word),
    let v := fun (op : UnaryOp) => (unaryVal op x).toNat
    let a := x.toNat
    let w := a % 2 ^ 32
    let byte := fun (k i : Nat) => k / 256 ^ i % 256
    (v .clz ≤ 64 ∧ a < 2 ^ (64 - v .clz) ∧ (v .clz < 64 → 2 ^ (63 - v .clz) ≤ a))
    ∧ (v .clzw ≤ 32 ∧ w < 2 ^ (32 - v .clzw) ∧ (v .clzw < 32 → 2 ^ (31 - v .clzw) ≤ w))
    ∧ (v .ctz ≤ 64 ∧ a % 2 ^ v .ctz = 0 ∧ (v .ctz < 64 → a / 2 ^ v .ctz % 2 = 1))
    ∧ (v .ctzw ≤ 32 ∧ w % 2 ^ v .ctzw = 0 ∧ (v .ctzw < 32 → w / 2 ^ v .ctzw % 2 = 1))
    ∧ v .cpop = ((List.range 64).filter fun i => x.getLsbD i).length ∧ v .cpopw = ((List.range 32).filter fun i => x.getLsbD i).length
    ∧ (unaryVal .sextb x).toInt = (if a % 2 ^ 8 < 2 ^ 7 then ((a % 2 ^ 8 : Nat) : Int) else ((a % 2 ^ 8 : Nat) : Int) - 2 ^ 8)
    ∧ (unaryVal .sexth x).toInt = (if a % 2 ^ 16 < 2 ^ 15 then ((a % 2 ^ 16 : Nat) : Int) else ((a % 2 ^ 16 : Nat) : Int) - 2 ^ 16)
    ∧ v .zexth = a % 2 ^ 16
    ∧ (∀ i, i < 8 → byte (v .orcb) i = (if byte a i = 0 then 0 else 255) ∧ byte (v .rev8) i = byte a (7 - i)))
  ∧ (∀ (x y : Word), brTaken .eq x y = decide (x.toNat = y.toNat) ∧ brTaken .ne x y = decide (x.toNat ≠ y.toNat)
    ∧ brTaken .lt x y = decide (x.toInt < y.toInt) ∧ brTaken .ge x y = decide (y.toInt ≤ x.toInt)
    ∧ brTaken .ltu x y = decide (x.toNat < y.toNat) ∧ brTaken .geu x y = decide (y.toNat ≤ x.toNat))

/-- A jump or taken branch to an address that is not a multiple of 4 raises MISALIGNED with the target, on every unit but an application core (03 R87,
R92); a base load, store or atomic at an address that is not naturally aligned raises MISALIGNED with the address (03 R91). That it does so on an
application core too (log entry 15), and before any other check of the access (log entry 13), is the model's choice. -/
def Obligations.MisalignedTraps : Prop :=
  (∀ (s : State) (rd a b : BitVec 5), s.ready → s.me.plain a → s.me.plain b → isApp s.cur.unit = false →
    let x := s.me.reg a.toNat
    let y := s.me.reg b.toNat
    (∀ off, let t := s.me.pc + (off ++ 0#1).signExtend 64
      t.toNat % 4 ≠ 0 → exec (.rvAluOrBranch (.jal rd off)) s
        = .next (s.trapped cMisaligned t.toNat (.rvAluOrBranch (.jal rd off))))
    ∧ (∀ imm, let t := (x + imm.signExtend 64) &&& ~~~1#64
      t.toNat % 4 ≠ 0 → exec (.rvAluOrBranch (.jalr rd a imm)) s
        = .next (s.trapped cMisaligned t.toNat (.rvAluOrBranch (.jalr rd a imm))))
    ∧ (∀ c off, let t := s.me.pc + (off ++ 0#1).signExtend 64
      brTaken c x y = true → t.toNat % 4 ≠ 0 → exec (.rvAluOrBranch (.branch c a b off)) s
        = .next (s.trapped cMisaligned t.toNat (.rvAluOrBranch (.branch c a b off)))))
  ∧ (∀ (s : State) (d a b : BitVec 5) (i : BitVec 12), s.ready → s.me.plain a → s.me.plain b →
    let va := (s.me.reg a.toNat + i.signExtend 64).toNat
    let x := (s.me.reg a.toNat).toNat
    (∀ op, va % loadSize op ≠ 0 → exec (.rvLoad op d a i) s = .next (s.trapped cMisaligned va (.rvLoad op d a i)))
    ∧ (∀ op, va % storeSizeOf op ≠ 0 → exec (.rvStore op a b i) s = .next (s.trapped cMisaligned va (.rvStore op a b i)))
    ∧ (∀ dbl aq rl, x % (if dbl then 8 else 4) ≠ 0 →
      exec (.lr dbl aq rl d a) s = .next (s.trapped cMisaligned x (.lr dbl aq rl d a))
      ∧ exec (.sc dbl aq rl d a b) s = .next (s.trapped cMisaligned x (.sc dbl aq rl d a b))
      ∧ ∀ op, exec (.rvAmo op dbl aq rl d a b) s = .next (s.trapped cMisaligned x (.rvAmo op dbl aq rl d a b))))

/-- Base loads and stores, LDNA and STBY (09 R232, 04 R133) complete when their address is naturally aligned and the
access itself is allowed and need not wait (`loadAt`, `storeAt`: see AccessPlaces for when it is). A load writes the
sign- or zero-extended value; nothing but the access and the destination changes. The value that each base load writes is the bytes, sign-extended for LB, LH and
LW, zero-extended for LBU, LHU, LWU and LD (03 R91). -/
def Obligations.LoadsAndStoresComplete : Prop :=
  (∀ (s t : State) (d a b : BitVec 5) (i : BitVec 12) (v : Nat), s.ready → s.me.plain a → s.me.plain b → t.me.free d →
    let va := (s.me.reg a.toNat + i.signExtend 64).toNat
    let y := (s.me.reg b.toNat).toNat
    (∀ op, va % loadSize op = 0 → loadAt (s.begun 4) va (loadSize op) = .ok (t, v) →
      exec (.rvLoad op d a i) s = .next (t.setX d (loadVal op v)))
    ∧ (∀ op, va % storeSizeOf op = 0 → storeAt (s.begun 4) va (storeSizeOf op) (y % 2 ^ (8 * storeSizeOf op)) = .ok t →
      exec (.rvStore op a b i) s = .next t)
    ∧ (s.onCoreUC = true → va % 8 = 0 → loadAcc (s.begun 4) va 8 .load false false = .ok (t, v) →
      exec (.ldna d a i) s = .next (t.setX d (w64 v)))
    ∧ (s.onCoreUC = true → va % 8 = 0 → storeAcc (s.begun 4) va 8 y .store true false = .ok t →
      exec (.stby a b i) s = .next t))
  ∧ (∀ v : Nat,
    (v < 2 ^ 8 → (loadVal .lb v).toInt = (if v < 2 ^ 7 then (v : Int) else v - 2 ^ 8) ∧ (loadVal .lbu v).toNat = v)
    ∧ (v < 2 ^ 16 → (loadVal .lh v).toInt = (if v < 2 ^ 15 then (v : Int) else v - 2 ^ 16) ∧ (loadVal .lhu v).toNat = v)
    ∧ (v < 2 ^ 32 → (loadVal .lw v).toInt = (if v < 2 ^ 31 then (v : Int) else v - 2 ^ 32) ∧ (loadVal .lwu v).toNat = v)
    ∧ (v < 2 ^ 64 → (loadVal .ld v).toNat = v))

/-- AMOs, LR and SC (09 R235, 03 R91, Table 3.2). An AMO writes the old value, sign-extended, and the home slice holds
what the operation makes of it; LR reads past every copy that an invalidation on its way supersedes, and records its line, as
`loadAcc` watches it; SC stores and writes 0 when the reservation of the line still holds, else writes 1, and the reservation
is gone either way. What each AMO makes of the old value x and the operand y is as RISC-V has it. -/
def Obligations.AtomicsComplete : Prop :=
  (∀ (s t : State) (aq rl : Bool) (d a b : BitVec 5) (v : Nat), s.ready → s.me.plain a → s.me.plain b →
    orderOk s 6 aq rl → t.me.free d →
    let x := (s.me.reg a.toNat).toNat
    let y := s.me.reg b.toNat
    (∀ op, x % 8 = 0 →
      atomicAt (s.begun 4) x 8 .both true (fun o => some (amoVal op 64 (BitVec.ofNat 64 o) y).toNat) = .ok (t, v) →
      exec (.rvAmo op true aq rl d a b) s = .next ((t.acquiredIf aq).setX d (BitVec.ofNat 64 v)))
    ∧ (∀ op, x % 4 = 0 →
      atomicAt (s.begun 4) x 4 .both true (fun o => some (amoVal op 32 (BitVec.ofNat 32 o) (y.setWidth 32)).toNat) = .ok (t, v) →
      exec (.rvAmo op false aq rl d a b) s = .next ((t.acquiredIf aq).setX d ((BitVec.ofNat 32 v).signExtend 64)))
    ∧ (x % 8 = 0 → loadAcc ((s.begun 4).applyInvals (unitDie s.cur.unit)) x 8 .load true true = .ok (t, v) →
      exec (.lr true aq rl d a) s = .next
        (((t.acquiredIf aq).modMe fun h => { h with resv := h.wline.map fun l => { line := l, age := 0 } }).setX d (w64 v)))
    ∧ (x % 4 = 0 → loadAcc ((s.begun 4).applyInvals (unitDie s.cur.unit)) x 4 .load true true = .ok (t, v) →
      exec (.lr false aq rl d a) s = .next
        (((t.acquiredIf aq).modMe fun h => { h with resv := h.wline.map fun l => { line := l, age := 0 } }).setX d
          ((BitVec.ofNat 32 v).signExtend 64)))
    ∧ (∀ (dbl : Bool) (p : Place), x % (if dbl then 8 else 4) = 0 →
      locate (s.begun 4) x (if dbl then 8 else 4) .store false = .ok (t, p) → p.dev = false → mmrevOk t →
      let n := if dbl then 8 else 4
      let stored := replied (storePlace t p n (y.toNat % 2 ^ (8 * n)) false) t.cur.unit t.cur.slot
      let held := resvHolds t.me (lineOf p.pa)
      requestOk t (!held || p.win || (!p.bypass && storeHit t t.cur.unit p.pa)) →
      let last := ((if held then stored else t).acquiredIf aq).modMe fun h => { h with resv := none }
      last.me.free d → exec (.sc dbl aq rl d a b) s = .next (last.setX d (if held then 0 else 1))))
  ∧ (∀ (n : Nat) (x y : BitVec n),
    amoVal .swap n x y = y ∧ (amoVal .add n x y).toNat = (x.toNat + y.toNat) % 2 ^ n
    ∧ (∀ i, (amoVal .xor n x y).getLsbD i = (x.getLsbD i != y.getLsbD i) ∧ (amoVal .and n x y).getLsbD i = (x.getLsbD i && y.getLsbD i)
      ∧ (amoVal .or n x y).getLsbD i = (x.getLsbD i || y.getLsbD i))
    ∧ (amoVal .min n x y).toInt = min x.toInt y.toInt ∧ (amoVal .max n x y).toInt = max x.toInt y.toInt
    ∧ (amoVal .minu n x y).toNat = min x.toNat y.toNat ∧ (amoVal .maxu n x y).toNat = max x.toNat y.toNat)

/-- LDAQ, STRL, FENCE, FENCE.I, FENCE.RG, FENCE.S, FENCE.E and AMOSC complete once their waits are over (10 R270 to R275, 03
Table 3.2). An acquire discards the stream elements fetched ahead (04 R117); a FENCE with an empty set has no
effect; FENCE.I drops the lines of code that are not locked and fetches the locked ones again, which must not have to wait; FENCE.RG waits for the
accesses of its range alone, and a fence of slot 0 for an earlier TFENCE, whose accesses it covers (10 R264); STRL's slot goes on once its store
has its reply; AMOSC takes its place in the order S. -/
def Obligations.OrderingInstructionsComplete : Prop :=
  ∀ (s t : State) (d a b : BitVec 5) (sc : Scope) (v : Nat), s.ready → s.me.plain a → s.me.plain b → s.me.plain d →
    let x := (s.me.reg a.toNat).toNat
    let y := s.me.reg b.toNat
    let covered := tfencePending s s.cur.unit s.cur.slot = false
    (x % 8 = 0 → orderOk s sc.code.toNat true false → loadAt (s.begun 4) x 8 = .ok (t, v) → t.me.free d →
      exec (.ldaq d a sc) s = .next (t.acquired.setX d (w64 v)))
    ∧ (x % 8 = 0 → orderOk s 0 false true → storeAt (s.begun 4) x 8 y.toNat = .ok t →
      exec (.strl a b sc) s = .next (replied t t.cur.unit t.cur.slot))
    ∧ (∀ fm pred succ, pred = 0 ∨ succ = 0 → exec (.fence fm pred succ d a) s = .next (s.begun 4))
    ∧ (∀ fm pred succ, pred ≠ 0 → succ ≠ 0 → covered → orderOk s 6 true true →
      exec (.fence fm pred succ d a) s = .next (s.begun 4).acquired)
    ∧ (∀ i, s.mine.wt = [] →
      let locked := s.mine.icache.filter fun l => l.locked
      (∀ l ∈ locked, icWaits (s.begun 4) s.cur.unit l = false) → exec (.fenceI d a i) s = .next (locked.reverse.foldl (fun t l => icRefetch t t.cur.unit l)
        ((s.begun 4).modMine fun x => { x with icache := locked })))
    ∧ (covered → orderOk s sc.code.toNat true true → exec (.fenceS sc) s = .next (s.begun 4).acquired)
    ∧ (∀ e, rangeOfAddress (s.begun 4) x = .ok (t, e) → tfencePending t t.cur.unit t.cur.slot = false → performedIn t e = true → orderOk t sc.code.toNat true false →
      exec (.fenceRg a sc) s = .next t.acquired)
    ∧ (s.mine.ops = [] → orderOk s 6 true false →
      exec .fenceE s = .next ((s.begun 4).acquired.modMe fun h => { h with pipe := .idle }))
    ∧ (∀ op, x % 8 = 0 → orderOk s 5 true true →
      atomicAt (s.begun 4) x 8 .both false (fun o => (scVal op (w64 o) y (s.me.reg d.toNat)).map BitVec.toNat) = .ok (t, v) →
      op = .cas → t.me.free d →
      exec (.amosc op d a b) s = .next (({ t with scOrder := t.cur :: t.scOrder }).acquired.setX d (w64 v)))
    ∧ (∀ op, x % 8 = 0 → orderOk s 5 true true →
      atomicAt (s.begun 4) x 8 .both false (fun o => (scVal op (w64 o) y 0).map BitVec.toNat) = .ok (t, v) →
      op ≠ .cas → t.me.free d →
      exec (.amosc op d a b) s = .next (({ t with scOrder := t.cur :: t.scOrder }).acquired.setX d (w64 v)))

/-- While an earlier write-through access of the slot awaits its reply, a release, a full fence and STRL only wait: the
slot's state is as before but for its park (10 R257, R271, R273). -/
def Obligations.ReleasesWait : Prop :=
  ∀ (s : State) (a b : BitVec 5) (sc : Scope), s.ready → s.me.plain a → s.me.plain b →
    performed s s.cur.unit s.cur.slot = false →
    exec (.fenceS sc) s = .next (s.modMe Slot.unpark)
    ∧ ((s.me.reg a.toNat).toNat % 8 = 0 → exec (.strl a b sc) s = .next (s.modMe Slot.unpark))
    ∧ ∀ fm pred succ d e, pred ≠ 0 → succ ≠ 0 → exec (.fence fm pred succ d e) s = .next (s.modMe Slot.unpark)

/-- A management trap of a slot of a core, or of an update core (18 R413, Table 18.2): the instruction has no effect of
its own; hxtrap (LOCAL 0), hxtval and hxepc are written; the slot parks with PARK 9 and loses its reservation; the
trap record goes to the unit's records, with the next serial number. Nothing else changes. -/
def Obligations.ManagementTrapEntry : Prop :=
  ∀ (s : State) (c v w : Nat), isCore s.cur.unit = true ∨ isUcore s.cur.unit = true → s.cur.slot < 8 → c < 2 ^ 8 →
    let t := takeTrap s c v w
    let u := s.cur.unit
    t.me = { s.me with hxtrap := BitVec.ofNat 64 (256 * s.cur.slot + c), hxtval := BitVec.ofNat 64 v,
                       hxepc := s.me.pc &&& ~~~3#64, park := 9, await := 0, waitOn := none, resv := none, pipe := .idle,
                       trapRec := t.me.trapRec }
    ∧ (∃ w0 : Word, t.me.trapRec =
        [w0, s.me.pc, BitVec.ofNat 64 v, BitVec.ofNat 64 (statWord s.me), BitVec.ofNat 64 (w % 2 ^ 32), s.mine.step.setWidth 64,
          if isCore u = true ∧ 6 ≤ s.cur.slot then 0 else s.me.cont, 0]
      ∧ w0.toNat / 2 ^ 48 = s.mine.trapSeq.toNat ∧ w0.toNat / 2 ^ 32 % 2 ^ 16 = s.mine.job.toNat
      ∧ w0.toNat / 2 ^ 24 % 2 ^ 8 = (if isUcore u then u - 204 else u)
      ∧ w0.toNat / 2 ^ 17 % 2 ^ 7 = 8 + (if isUcore u then 1 else 0)
      ∧ w0.toNat % 2 ^ 17 = 256 * s.cur.slot + c)
    ∧ t.mine = { s.mine with trapSeq := s.mine.trapSeq + 1, records := s.mine.records ++ [t.me.trapRec] }
    ∧ { t with harts := s.harts, units := s.units } = s
    ∧ (∀ i, i ≠ u → t.unit i = s.unit i)
    ∧ (∀ i k, hartKey i k ≠ hartKey u s.cur.slot → t.hart i k = s.hart i k)

/-- A trap of a CMC or an application core goes to its own RISC-V trap vector (18 R413): a cause that is an exception of
the base enters the level that the delegation registers name, and every other cause enters M-mode with an open cause value.
That mepc, mtval, the previous privilege and mtvec, and their S-level like, do this as RISC-V has them is the model's choice
(log entries 2, 9 and 15). -/
def Obligations.VectorTrapEntry : Prop :=
  (∀ (s : State) (c v w : Nat), isCmc s.cur.unit = true ∨ isApp s.cur.unit = true → c < 512 →
    let code := rvCode s.me c w
    let gva := s.me.pv.virt && (code.isNone || code == some 0 || code == some 4 || code == some 6)
    (code = none →
      takeTrap s c v w = { s.modMe fun h => h.trapTo 3 s.freeWord (BitVec.ofNat 64 v) h.pc gva with free := s.free + 1 })
    ∧ (∀ e, code = some e → takeTrap s c v w = s.modMe fun h =>
        h.trapTo (trapLevel (isApp s.cur.unit) h false (some e)) (BitVec.ofNat 64 e) (BitVec.ofNat 64 v) h.pc gva))
  ∧ (∀ (app : Bool) (h : Slot) (intr : Bool) (code : Option Nat), h.priv = 3 → trapLevel app h intr code = 3)
  ∧ (∀ (h : Slot) (v tval pc : Word) (g : Bool),
    let m := h.trapTo 3 v tval pc g
    let x := h.trapTo 1 v tval pc g
    (m.mepc = pc ∧ m.mcause = v ∧ m.mtval = tval ∧ m.mpp = h.priv ∧ m.priv = 3 ∧ m.pc = h.mtvec &&& ~~~3#64 ∧ m.x = h.x)
    ∧ (x.pv.sepc = pc ∧ x.pv.scause = v ∧ x.pv.stval = tval ∧ x.priv = 1 ∧ x.pc = h.pv.stvec &&& ~~~3#64 ∧ x.mepc = h.mepc
      ∧ x.x = h.x))

/-- Vacant encodings, ecall, ebreak, and mret outside slot 7, take the traps that the spec names: a vacant word ILLEGAL
at decode with the word and bit 63 (03 R90), where the word is not one of the unit's own base (03 R92); ecall ECALL on every
hart but slot 7 of a core, and ILLEGAL there; ebreak BREAK (03 R91, Table 3.2). With a format prefix pending, any instruction that takes
no format traps PREFIX with the pending PFX, clears PP and PFX and has no other effect, and an ILLEGAL at decode leaves the prefix as it is
(04 R114). -/
def Obligations.SystemCallsTrap : Prop :=
  ∀ (s : State),
    (∀ i, s.me.pp = true → s.formatless i = true →
      exec i s = .next (takeTrap ((s.modMe Slot.unpark).modMe fun h => { h with pp := false, pfx := 0 }) cPrefix s.me.pfx.toNat (instrWord i)))
    ∧ (∀ v i, (s.trapped cIllegal v i).me.pp = s.me.pp ∧ (s.trapped cIllegal v i).me.pfx = s.me.pfx)
    ∧ (∀ w, ownWord s.cur.unit w.toNat = none → exec (.vacantEncoding w false) s
      = .next (s.trapped cIllegal (2 ^ 63 + w.toNat % 2 ^ 32) (.vacantEncoding w false)))
    ∧ (s.ready → (isCore s.cur.unit = true → s.cur.slot ≠ 7) → exec .ecall s = .next (s.trapped cEcall 0 .ecall))
    ∧ (s.ready → isCore s.cur.unit = true → s.cur.slot = 7 → exec .ecall s = .next (s.trapped cIllegal 0x73 .ecall))
    ∧ (s.ready → exec .ebreak s = .next (s.trapped cBreak 0 .ebreak))
    ∧ (s.ready → isCore s.cur.unit = true → s.cur.slot ≠ 7 → exec .mret s = .next (s.trapped cIllegal 0x30200073 .mret))

/-- mret of slot 7 restarts the slot named in hxtrap at hxepc and leaves slot 7 idle when no event is pending (01 R53),
and no slot was stopped or restored; on a CMC or application core in M-mode it returns as RISC-V does (log entry 9).
wfi completes once a wake has come, and else parks with PARK 4 on no address (12 R323); that a CMC's or application core's wfi completes at once where
an interrupt is pending and enabled, and that TW and VTW trap it, is the model's choice (log entry 15). -/
def Obligations.ReturnsAndWaitsComplete : Prop :=
  ∀ (s : State) (u k : Nat), s.ready →
    (s.cur = { unit := u, slot := 7 } → isCore u = true → k < 7 → s.me.hxtrap.toNat / 2 ^ 8 % 8 = k →
      (s.hart u k).park = 10 → pendingEvent s u = false → (s.unit u).stopped = false →
      (∀ j, j < 7 → (s.hart u j).restored = false) →
      ∃ t, exec .mret s = .next t
        ∧ t.hart u k = { s.hart u k with park := 0, await := 0, waitOn := none, pc := s.me.hxepc }
        ∧ (t.hart u 7).active = false
        ∧ (∀ i j, hartKey i j ≠ hartKey u k → hartKey i j ≠ hartKey u 7 → t.hart i j = s.hart i j)
        ∧ { t with harts := s.harts } = s)
    ∧ ((isCmc s.cur.unit = true ∨ isApp s.cur.unit = true) → s.me.priv = 3 →
      exec .mret s = .next ((s.begun 4).modMe Slot.mretTo))
    ∧ (s.me.mretTo.pc = s.me.mepc ∧ s.me.mretTo.priv = s.me.mpp ∧ s.me.mretTo.mpp = 0)
    ∧ ((isCmc s.cur.unit = true ∨ isApp s.cur.unit = true →
        (s.me.priv = 3 ∨ s.me.pv.mstatus.getLsbD bTW = false) ∧ (s.me.pv.virt = false ∨ s.me.pv.hstatus.getLsbD bTW = false)) →
      (s.me.park = 4 ∧ s.me.woken = true ∨ pendingIntrs (s.begun 4) s.cur.unit s.cur.slot ≠ [] →
        exec .wfi s = .next ((s.begun 4).modMe fun h => { h with woken := false }))
      ∧ (s.me.park ≠ 4 ∨ s.me.woken = false → pendingIntrs (s.begun 4) s.cur.unit s.cur.slot = [] →
        (isCore s.cur.unit = true → s.cur.slot ≠ 6) → exec .wfi s = .next (s.modMe fun h =>
          { h with park := 4, await := 0, waitOn := none, woken := false, resv := none })))

/-- A Zicsr instruction reads the CSR, writes it unless it is CSRRS or CSRRC with x0 or a zero immediate, and writes the
old value to its destination; where the CSR cannot be read, or written when it would be, it raises ILLEGAL with its
first word (01 R23, 03 R90). The write that claims an interrupt's identity on an application core is an acquire, which waits
as one (09 R248). A virtual machine's access that its hypervisor would be allowed takes the base's own exception, which is the
model's choice (log entry 15). -/
def Obligations.CsrInstructionsComplete : Prop :=
  ∀ (s s1 s2 : State) (op : CsrOp) (imm : Bool) (d a : BitVec 5) (n : BitVec 12) (old : Word), s.ready → s.me.plain a →
    let i : Instr := .csrAccess op imm d a n
    let x : Word := if imm then a.setWidth 64 else s.me.reg a.toNat
    let claims := isApp s.cur.unit && csrClaims (csrNumber s.me n.toNat)
    (csrVirtual (s.begun 4) n.toNat = true → exec i s = .next (s.trapped cVirtual 0 i)) ∧
    (csrVirtual (s.begun 4) n.toNat = false → (op = .rw ∨ a ≠ 0 → claims = true → rdcClean s s.cur.unit = true) →
    (csrRead (s.begun 4) n.toNat = some (s1, old) → op ≠ .rw → a = 0 → s1.me.free d → exec i s = .next (s1.setX d old))
    ∧ (csrRead (s.begun 4) n.toNat = some (s1, old) → op = .rw ∨ a ≠ 0 →
      csrWrite s1 n.toNat (csrNew op old x) = some s2 → s2.me.free d →
      exec i s = .next ((s2.acquiredIf claims).setX d old))
    ∧ (csrRead (s.begun 4) n.toNat = none → exec i s = .next (s.trapped cIllegal (instrWord i) i))
    ∧ (csrRead (s.begun 4) n.toNat = some (s1, old) → op = .rw ∨ a ≠ 0 → csrWrite s1 n.toNat (csrNew op old x) = none →
      exec i s = .next (s.trapped cIllegal (instrWord i) i)))

/-- Which Hexaloth CSRs a core's slot can read and write, and what they read as (01 R23 to R34, Tables 1.5 to 1.15). hxcoord gives the logical
station that the job's STATIONMAP maps to the core's own, the hinted one if it does, else the lowest (16 R368). It reads 0 while the core holds
no job and no task, and gives the core's own station where the map cannot be read: both are the model's choices (log entries 3 and 17). -/
def Obligations.CsrNumbers : Prop :=
  ∀ (s : State) (v : Word), isCore s.cur.unit = true →
    csrRead s 0x800 = some (s, s.me.fflags.setWidth 64)
    ∧ csrRead s 0x801 = some (s, s.me.frm.setWidth 64)
    ∧ csrRead s 0xCC0 = some (s, BitVec.ofNat 64 (s.me.await.toNat * 2 ^ 26 + s.me.park.toNat * 2 ^ 22 + s.me.kind.toNat * 2 ^ 20
        + s.me.pfx.toNat * 2 ^ 2 + (if s.me.pp then 2 else 0) + if s.me.active then 1 else 0))
    ∧ csrRead s 0xCC1 = some (s, coordWord s s.cur.unit s.cur.slot)
    ∧ csrRead s 0xCC2 = some (s, s.me.stage.setWidth 64)
    ∧ csrRead s 0xCC3 = some (s, s.me.vl.setWidth 64)
    ∧ (s.mine.job = 0 → (∀ i, i < 6 → (s.hart s.cur.unit i).active = false) → coordWord s s.cur.unit s.cur.slot = 0)
    ∧ (s.cur.slot < 8 → ¬(s.mine.job = 0 ∧ ∀ i, i < 6 → (s.hart s.cur.unit i).active = false) →
        let w := coordWord s s.cur.unit s.cur.slot
        let st := logicalStation s s.mine.job (coreStation s.cur.unit) (if s.cur.slot < 6 then placeHint s.me.place else none)
        let x := st % 12
        let y := st / 12
        st < 48 ∧ wfld w 63 18 = 0 ∧ wfld w 17 17 = (if x < 6 then 0 else 1) ∧ wfld w 16 15 = y ∧ wfld w 14 11 = x
          ∧ wfld w 10 7 = x / 2 + 6 * (y / 2) ∧ wfld w 6 5 = x % 2 + 2 * (y % 2) ∧ wfld w 4 3 = s.cur.unit % 4 ∧ wfld w 2 0 = s.cur.slot)
    ∧ (∀ j phys hint, (jobDescPa? s j 96 = none → logicalStation s j phys hint = phys)
      ∧ ∀ pa, jobDescPa? s j 96 = some pa →
        let maps (i : Nat) : Prop := i < 48 ∧ s.get (pa + i) 1 = phys
        (∀ h, hint = some h → maps h → logicalStation s j phys hint = h)
        ∧ (∀ i, (∀ h, hint = some h → ¬ maps h) → maps i → (∀ k, k < i → ¬ maps k) → logicalStation s j phys hint = i)
        ∧ ((∀ i, ¬ maps i) → logicalStation s j phys hint = phys))
    ∧ csrRead s 0xCC4 = some (s, BitVec.ofNat 64 ((if s.me.vill then 2 ^ 63 else 0) + s.me.ew.toNat))
    ∧ csrRead s 0xCC5 = some (s, s.me.qbind)
    ∧ (∀ j, j < 4 → let g := s.me.gen j
        csrRead s (0xCC8 + j) = some (s, BitVec.ofNat 64 (g.count.toNat * 2 ^ 32 + g.stride.toNat * 2 ^ 16 + g.ew.toNat * 4 + (if g.dir then 2 else 0)
          + if g.bound then 1 else 0)))
    ∧ csrRead s 0xCD3 = some (s, BitVec.ofNat 64 (s.mine.desc.toNat * 2 ^ 20 + s.mine.mmrev.toNat * 2 ^ 18 + s.mine.job.toNat))
    ∧ (let q := s.quad (quadOf s.cur.unit)
        let holds := fun (j : Nat) => (q.array j).holder = some (s.cur.unit % 4)
        let part := fun (j n : Nat) => if holds j then n else 0
        let waits := if waitsArray s s.cur.unit then 3 * 2 ^ 30 else 0
        csrRead s 0xCD4 = some (s, BitVec.ofNat 64 (part 0 (q.array 0).left + part 0 (2 ^ 5) + part 1 (q.array 1).left * 2 ^ 6 + part 1 (2 ^ 11)
          + part 0 (q.array 0).cyc * 2 ^ 12 + part 1 (q.array 1).cyc * 2 ^ 21 + waits)))
    ∧ (∀ j, j < 16 → csrRead s (0x810 + j) = some (s, (fget s.mine.dt j 0x3F800000).setWidth 64))
    ∧ csrRead s 0xCD0 = some (s, s.mine.step.setWidth 64)
    ∧ csrRead s 0xCD1 = some (s, s.mine.gstep.setWidth 64)
    ∧ csrRead s 0xCD2 = some (s, s.mine.duty.setWidth 64)
    ∧ (s.cur.slot = 7 → csrRead s 0x7C0 = some (s, s.me.hxtrap) ∧ csrRead s 0x7C1 = some (s, s.me.hxtval)
        ∧ csrRead s 0x7C2 = some (s, s.me.hxepc)
        ∧ csrWrite s 0x7C0 v = some (s.modMe fun h => { h with hxtrap := v &&& 0x800000000001FFFF#64 })
        ∧ csrWrite s 0x7C1 v = some (s.modMe fun h => { h with hxtval := v })
        ∧ csrWrite s 0x7C2 v = some (s.modMe fun h => { h with hxepc := v &&& ~~~3#64 }))
    ∧ (s.cur.slot ≠ 7 → csrRead s 0x7C0 = none ∧ csrRead s 0x7C1 = none ∧ csrRead s 0x7C2 = none
        ∧ csrWrite s 0x7C0 v = none ∧ csrWrite s 0x7C1 v = none ∧ csrWrite s 0x7C2 v = none)
    ∧ csrWrite s 0x800 v = some (s.modMe fun h => { h with fflags := v.setWidth 8 })
    ∧ csrWrite s 0x801 v = some (s.modMe fun h => { h with frm := v.setWidth 2 })
    ∧ (∀ j, j < 16 → csrWrite s (0x810 + j) v = some (s.modMine fun x => { x with dt := fset x.dt j (v.setWidth 32) }))
    ∧ (∀ n, 0xCC0 ≤ n → n ≤ 0xCFF → csrWrite s n v = none)
    ∧ (∀ n, (0x802 ≤ n ∧ n ≤ 0x80F) ∨ (0x820 ≤ n ∧ n ≤ 0x8FF) ∨ (0xCD5 ≤ n ∧ n ≤ 0xCFF) ∨ (0x7C3 ≤ n ∧ n ≤ 0x7FF)
        ∨ (0xCCC ≤ n ∧ n ≤ 0xCCF) ∨ n = 0xCC6 ∨ n = 0xCC7 → csrRead s n = none)

/-- Where an access of n bytes goes (09 R226, R227, 15 R350). (1) In the core-store window of a core, below the resident
handler's area, a load or store of slots 0 to 6 whose span no tile operation holds goes to that byte of the core
store, with no range. (2) An address that a range of the unit's table covers, of the running job, STATE normal, with
the permission and inside its residency window, in backed memory of regions 0 to 2, goes to VA + OFFSET, and the entry becomes the most recently
used, when no range lock meets it, no write-through of the bytes awaits its reply, and its line is in no pair buffer. (3) An address no range
covers raises NO_RANGE (the walk's read of the job descriptor not having to wait), and a range without the permission PERMISSION, each with the address. -/
def Obligations.AccessPlaces : Prop :=
  ∀ (s : State) (va n : Nat) (a : Acc) (big : Bool) (e : RangeEntry), isCore s.cur.unit = true → 0 < n →
    (s.cur.slot = 0 → tileHolds s s.cur.unit va (va + n - 1) = false) →
    a.x = false → a.s = false →
    (coreWindow ≤ va → va + n ≤ coreWindow + residentBase → s.cur.slot ≠ 7 →
      locate s va n a big = .ok (s, { va := va, pa := storeBase s.cur.unit + (va - coreWindow), win := true, dev := false,
                                      bypass := false, vbase := 0 }))
    ∧ (va < windowBlock → lookup? s s.cur.unit s.mine.job va = some e → e.state = stNormal →
      (a.r = true → e.r = true) → (a.w = true → e.w = true) → e.s = false → e.nowin = false → e.rlo ≤ va → va ≤ e.rhi + 255 →
      regionOf (addOff va e.offset) < 3 →
      let t := touchRange s s.cur.unit e
      backed t (addOff va e.offset) = true → lockedByte t s.cur.unit va (va + n - 1) a.w = none →
      overlapReplied t s.cur.unit (addOff va e.offset) n = t → pairLocked t (lineOf (addOff va e.offset)) = false →
      locate s va n a big = .ok (t, { va := va, pa := addOff va e.offset, win := false, dev := false, bypass := e.n,
                                      vbase := e.vbase }))
    ∧ (va < windowBlock → lookup? s s.cur.unit s.mine.job va = none → walk? s va s.mine.job = none →
      s.mine.job = 0 ∨ jobDescWaits s s.mine.job 16 = false →
      locate s va n a big = .error (.trap cNoRange va))
    ∧ (va < windowBlock → lookup? s s.cur.unit s.mine.job va = some e → e.state ≠ stInvalid →
      (a.r = true ∧ e.r = false ∨ a.w = true ∧ e.w = false ∨ e.s = true) →
      locate s va n a big = .error (.trap cPermission va))

/-- At a place that is no device register, a load with a request free reads the place's bytes and watches its line (12 R323), or
raises POISON with the first flit that its copy holds poisoned; a store writes exactly its bytes, so that every other byte of memory is
as before, and the canonical form stays (09 R232, R234). The bytes of memory are those at their cells. The place is the one that
`locate` gives the instruction. What `locate` does to memory: nothing, unless a store meets a range that is being sent out to capacity
memory, whose order it cancels (15 R364). An atomic yields the bytes that were at its place, writes there what its operation makes of them, or nothing
where that fails, and leaves every other byte as before (09 R235). -/
def Obligations.AccessEffects : Prop :=
  (∀ (s t : State) (p : Place) (va n v : Nat), p.dev = false →
    (locate s va n .load false = .ok (t, p) → requestOk t (p.win || sectorsHit (fun a => (t.l1Hit t.cur.unit a).isSome) p.pa n) →
      let r := t.readSpan t.cur.unit p.pa n true p.bypass
      ((flits p.pa n).find? (copyBad r.1 r.1.cur.unit p.bypass) = none →
        loadAt s va n = .ok (r.1.watchLine p.pa n, r.2) ∧ (r.1.watchLine p.pa n).mem = t.mem ∧ r.1.harts = t.harts)
      ∧ (∀ f, (flits p.pa n).find? (copyBad r.1 r.1.cur.unit p.bypass) = some f →
        loadAt s va n = .error (.trap cPoison (p.va + 64 * f - p.pa))))
    ∧ (locate s va n .store false = .ok (t, p) → mmrevOk s →
      requestOk t (p.win || (!p.bypass && sectorsHit (storeHit t t.cur.unit) p.pa n)) → memWf t.mem = true →
      ∃ r, storeAt s va n v = .ok r ∧ memWf r.mem = true
        ∧ (∀ a, (∀ i, i < n → a ≠ t.cell (p.pa + i)) → r.byteAt a = t.byteAt a)
        ∧ (∀ i k, { r.hart i k with whit := (t.hart i k).whit, resv := (t.hart i k).resv, waitOn := (t.hart i k).waitOn,
                                    sg := (t.hart i k).sg } = t.hart i k)
        ∧ (p.bypass = false → 0 < n → p.pa % 128 + n ≤ 128 → v < 2 ^ (8 * n) → r.get p.pa n = v)))
  ∧ (∀ (s t : State) (p : Place) (va n : Nat) (a : Acc) (big : Bool), locate s va n a big = .ok (t, p) →
    (a.w = true → ∀ e, (findRange s s.cur.unit s.mine.job va).2 = some e → e.state ≠ stOutbound) →
    t.mem = s.mem ∧ t.cur = s.cur ∧ t.harts = s.harts)
  ∧ (∀ (s t : State) (p : Place) (va n : Nat) (a : Acc) (win : Bool) (f : Nat → Option Nat), locate s va n a false = .ok (t, p) → p.dev = false →
    (p.win = true → win = true) → requestOk t p.win → mmrevOk s →
    (if p.win then t else t.homePeek (lineOf p.pa)).poisonIn p.pa n = none → memWf t.mem = true →
    ∃ r, atomicAt s va n a win f = .ok (r, t.get p.pa n) ∧ memWf r.mem = true
      ∧ (f (t.get p.pa n) = none → r.mem = t.mem)
      ∧ (p.pa % 128 + n ≤ 128 → ∀ b, (∀ i, i < n → b ≠ t.cell (p.pa + i)) → r.byteAt b = t.byteAt b)
      ∧ (∀ v, f (t.get p.pa n) = some v → 0 < n → p.pa % 128 + n ≤ 128 → v < 2 ^ (8 * n) → r.get p.pa n = v))

/-- A bound stream register (01 R21, 04 R117 to R119): a read pops the first element fetched ahead, which the register
then holds, and the last pop ends the binding; with nothing fetched ahead the slot parks with PARK 1 on that
register; an element whose fetch found a fault raises it. On slot 0 a pop waits, as any access, behind older tile operations on the
element's bytes (01 R45, 10 R253); an element whose bytes a later access has read meanwhile is loaded anew (10 R252), both as log entry 30
has it. A write is one store of the element's width to the next
address and counts the element; with 8 appended elements not yet accepted it parks with PARK 2. A read of a write stream and
a write of a read stream are ILLEGAL. -/
def Obligations.StreamRegisters : Prop :=
  ∀ (s t : State) (r : BitVec 5) (v : Word), 28 ≤ r.toNat → (s.me.gen (r.toNat - 28)).bound = true →
    let i := r.toNat - 28
    let g := s.me.gen i
    let n := 2 ^ g.ew.toNat
    let held := isCore s.cur.unit = true ∧ s.cur.slot = 0 ∧ tileHolds s s.cur.unit g.next.toNat (g.next.toNat + n - 1) = true
    let popped (pa : Nat) (later : List StreamElt) (x : Word) (h : Slot) : Slot := ((h.hasRead pa n).setGen i
      { g with count := g.count - 1, bound := g.count != 1, last := g.next, next := g.next + g.stride.signExtend 64,
               ahead := if g.count = 1 then [] else later }).setReg r.toNat x
    (g.dir = true → readX s r = .error .illegal)
    ∧ (g.dir = false → writeX s r v = .error .illegal)
    ∧ (g.dir = false → g.ahead = [] → readX s r = .error (.park 1 r.toNat none))
    ∧ (∀ e rest, g.dir = false → g.ahead = e :: rest → held → readX s r = .error (.park 11 0 (some 0)))
    ∧ (∀ e rest, g.dir = false → g.ahead = e :: rest → ¬ held → e.fault = none → e.stale = false →
      readX s r = .ok (s.modMe (popped e.pa rest e.value), e.value))
    ∧ (∀ e rest x, g.dir = false → g.ahead = e :: rest → ¬ held → e.fault = none → e.stale = true → loadAt s g.next.toNat n = .ok (t, x) →
      readX s r = .ok (t.modMe (popped e.pa (({ g with ahead := rest } : StreamGen).overtaken e.pa n).ahead (BitVec.ofNat 64 x)),
        BitVec.ofNat 64 x))
    ∧ (∀ e rest c a, g.dir = false → g.ahead = e :: rest → ¬ held → e.fault = some (c, a) → c ≠ cRangeConflict →
      readX s r = .error (.trap c a.toNat))
    ∧ (∀ e rest a, g.dir = false → g.ahead = e :: rest → ¬ held → e.fault = some (cRangeConflict, a) →
      readX s r = .error (.loc cRangeConflict a none))
    ∧ (g.dir = true → 8 ≤ g.unaccepted → writeX s r v = .error (.park 2 (32 + r.toNat) none))
    ∧ (g.dir = true → g.unaccepted < 8 → storeAt s g.next.toNat (2 ^ g.ew.toNat) v.toNat = .ok t →
      writeX s r v = .ok (t.modMe fun h => (h.setGen i
        { g with count := g.count - 1, bound := g.count != 1, last := g.next, next := g.next + g.stride.signExtend 64,
                 unaccepted := g.unaccepted + 1 }).setReg r.toNat v))

/-- FMT, SBIND, SUNBIND and SGSTAT (04 R113, R116, R120), and the two steps of a stream (04 R117, R119): a fetch ahead, with a request free if it needs one,
adds the element that the load of the slot gives, and an accepted store frees its entry. -/
def Obligations.StreamInstructionsComplete : Prop :=
  ∀ (s t : State) (a b d : BitVec 5) (g : BitVec 2) (v u k : Nat), s.ready → s.me.plain a → s.me.plain b → s.me.free d →
    let x := s.me.reg a.toNat
    let c := (s.me.reg b.toNat).toNat
    let old := s.me.gen g.toNat
    (∀ p, s.onCoreU = true → exec (.fmt p) s = .next ((s.begun 4).modMe fun h => { h with pp := true, pfx := p }))
    ∧ (s.onCore = true → c / 2 ^ 32 ≠ 0 → c / 2 ^ 4 % 2 ^ 12 = 0 → c % 2 = 0 → x.toNat % 2 ^ (c / 4 % 4) = 0 →
      c / 2 ^ 16 % 2 ^ 16 % 2 ^ (c / 4 % 4) = 0 →
      exec (.sbind g a b) s = .next ((s.begun 4).modMe fun h => h.setGen g.toNat
        { old with count := BitVec.ofNat 32 (c / 2 ^ 32), stride := BitVec.ofNat 16 (c / 2 ^ 16), ew := BitVec.ofNat 2 (c / 4),
                   dir := c / 2 % 2 == 1, bound := true, next := x, ahead := [] }))
    ∧ (s.onCore = true → exec (.sunbind g) s = .next ((s.begun 4).modMe fun h => h.setGen g.toNat
        (if old.bound then { old with bound := false, count := 0, ahead := [] } else old)))
    ∧ (s.onCore = true → exec (.sgstat d g) s = .next ((s.begun 4).setX d (if old.bound then old.next else old.last)))
    ∧ (∀ i, let f := (s.hart u k).gen i
      f.bound = true → f.dir = false → f.ahead.all (fun e => e.fault.isNone) = true → f.ahead.length < 8 →
      f.ahead.length < f.count.toNat →
      streamWaits { s with cur := { unit := u, slot := k } } (f.next + f.stride.signExtend 64 * BitVec.ofNat 64 f.ahead.length).toNat (2 ^ f.ew.toNat) = false →
      loadAt { s with cur := { unit := u, slot := k } } (f.next + f.stride.signExtend 64 * BitVec.ofNat 64 f.ahead.length).toNat
        (2 ^ f.ew.toNat) = .ok (t, v) →
      let place := streamPa { s with cur := { unit := u, slot := k } }
        (f.next + f.stride.signExtend 64 * BitVec.ofNat 64 f.ahead.length).toNat (2 ^ f.ew.toNat)
      let e : StreamElt :=
        { value := BitVec.ofNat 64 v, fault := none, line := (t.hart u k).wline, pa := place, stale := false }
      exec (.streamFetch u k i) s = .next
        (({ t.modHart u k (fun h => { h with sg := (s.hart u k).sg }) with cur := s.cur } : State).modHart u k fun h =>
          h.setGen i { h.gen i with ahead := (h.gen i).ahead ++ [e] }))
    ∧ (∀ i, 0 < ((s.hart u k).gen i).unaccepted → exec (.streamStoreAccept u k i) s = .next (s.modHart u k fun h =>
        h.setGen i { (s.hart u k).gen i with unaccepted := ((s.hart u k).gen i).unaccepted - 1 }))

/-- The queue instructions and the delivery of a held value (04 R122 to R124, 01 R31). On an unbound queue they raise QUEUE_UNBOUND; a push to a
queue that is not LOCAL is ILLEGAL; a push to a full queue parks with PARK 2, and a pop of an empty one with PARK 1, on that queue, or on slot 6 is
ILLEGAL with that code (01 R19). QBIND binds the ports of Table 4.2 that the slot may bind and that no other of its queues binds; any other
port is ILLEGAL. -/
def Obligations.QueueInstructionsComplete : Prop :=
  ∀ (s : State) (n : BitVec 3) (a d : BitVec 5), s.ready → s.me.plain a → s.me.free d → s.onCore = true →
    let x := s.me.reg a.toNat
    let q := s.me.queue n.toNat
    let bound := s.me.qValid n.toNat = true
    let clean := s.me.poison.contains (52 + n.toNat) = false
    (x = 0 → exec (.qbind n a) s = .next ((s.begun 4).modMe fun h =>
        { (h.setQueue n.toNat []) with qbind := h.qbind &&& ~~~(255#64 <<< (8 * n.toNat)),
                                        poison := h.poison.filter fun r => r != 52 + n.toNat }))
    ∧ (x = 0x80 → exec (.qbind n a) s = .next ((s.begun 4).modMe fun h =>
        { (h.setQueue n.toNat []) with qbind := (h.qbind &&& ~~~(255#64 <<< (8 * n.toNat))) ||| (0x80#64 <<< (8 * n.toNat)),
                                        poison := h.poison.filter fun r => r != 52 + n.toNat }))
    ∧ (∀ p, p = 1 ∧ s.cur.slot = 0 ∨ p = 2 ∨ 8 ≤ p ∧ p ≤ 15 → x = BitVec.ofNat 64 (128 + p) →
      ((∀ m, m < 8 → m ≠ n.toNat → ¬(s.me.qValid m = true ∧ s.me.qPort m = p)) → exec (.qbind n a) s = .next ((s.begun 4).modMe fun h =>
        { (h.setQueue n.toNat []) with qbind := (h.qbind &&& ~~~(255#64 <<< (8 * n.toNat))) ||| (x <<< (8 * n.toNat)),
                                        poison := h.poison.filter fun r => r != 52 + n.toNat }))
      ∧ (∀ m, m < 8 → m ≠ n.toNat → s.me.qValid m = true → s.me.qPort m = p →
        exec (.qbind n a) s = .next (s.trapped cIllegal a.toNat (.qbind n a))))
    ∧ (∀ p, p < 128 → x = BitVec.ofNat 64 (128 + p) → p = 1 ∧ s.cur.slot ≠ 0 ∨ 3 ≤ p ∧ p ≤ 7 ∨ 16 ≤ p →
      exec (.qbind n a) s = .next (s.trapped cIllegal a.toNat (.qbind n a)))
    ∧ (bound → s.me.qPort n.toNat = portLocal → q.length < 8 →
      exec (.qpush n a) s = .next ((s.begun 4).modMe fun h => h.setQueue n.toNat (q ++ [x])))
    ∧ (∀ v rest, bound → clean → s.me.qPort n.toNat ≠ portCompl → q = v :: rest →
      exec (.qpop d n) s = .next (((s.begun 4).modMe fun h => h.setQueue n.toNat rest).setX d v)
      ∧ exec (.qpoll d n) s = .next (((s.begun 4).modMe fun h => h.setQueue n.toNat rest).setX d v))
    ∧ (∀ v rest, bound → clean → s.me.qPort n.toNat = portCompl → rdcClean s s.cur.unit = true → q = v :: rest →
      exec (.qpop d n) s = .next (((s.begun 4).modMe fun h => h.setQueue n.toNat rest).acquired.setX d v)
      ∧ exec (.qpoll d n) s = .next (((s.begun 4).modMe fun h => h.setQueue n.toNat rest).acquired.setX d v))
    ∧ (bound → q = [] → exec (.qpoll d n) s = .next (s.begun 4))
    ∧ (bound → s.me.qPort n.toNat ≠ portLocal → exec (.qpush n a) s = .next (s.trapped cIllegal n.toNat (.qpush n a)))
    ∧ (bound → s.me.qPort n.toNat = portLocal → 8 ≤ q.length →
      (s.cur.slot ≠ 6 → exec (.qpush n a) s = .next (s.modMe fun h =>
        { h with park := 2, await := BitVec.ofNat 6 (32 + n.toNat), waitOn := none, woken := false, resv := none }))
      ∧ (s.cur.slot = 6 → exec (.qpush n a) s = .next (s.trapped cIllegal 2 (.qpush n a))))
    ∧ (bound → q = [] →
      (s.cur.slot ≠ 6 → exec (.qpop d n) s = .next (s.modMe fun h =>
        { h with park := 1, await := n.setWidth 6, waitOn := none, woken := false, resv := none }))
      ∧ (s.cur.slot = 6 → exec (.qpop d n) s = .next (s.trapped cIllegal 1 (.qpop d n))))
    ∧ (bound → exec (.qcnt d n) s = .next ((s.begun 4).setX d (BitVec.ofNat 64 q.length)))
    ∧ (¬ bound → exec (.qpush n a) s = .next (s.trapped cQueueUnbound n.toNat (.qpush n a))
      ∧ exec (.qpop d n) s = .next (s.trapped cQueueUnbound n.toNat (.qpop d n))
      ∧ exec (.qpoll d n) s = .next (s.trapped cQueueUnbound n.toNat (.qpoll d n))
      ∧ exec (.qcnt d n) s = .next (s.trapped cQueueUnbound n.toNat (.qcnt d n)))
    ∧ (∀ u k port m i v, (s.hart u k).portQueue port = some m → ((s.hart u k).queue m).length < 8 →
      findPos (fun p : Nat × Word => p.1 == port) (s.hart u k).held = some i → (s.hart u k).held[i]? = some (port, v) →
      exec (.queueHeldDelivery u k port) s = .next (s.modHart u k fun h =>
        { h.setQueue m ((s.hart u k).queue m ++ [v]) with held := dropAt h.held i, woken := h.woken || h.park == 4 }))

/-- One restartable step of a block instruction, of at most 256 bytes, and its end (04 R126, R127); ICLOCK, ICUNLK and PREF (04
R130, R131, R134). ICLOCK takes the lines of its span, once all have translated, in ascending order: one that is locked stays so, one whose set
has 2 locked ways, or at 128 locked lines, is skipped, any other is locked; the destination counts those that are locked then. A step that leaves bytes to do sets the registers and issues again; the last one goes on. -/
def Obligations.BlockInstructionsComplete : Prop :=
  ∀ (s t r : State) (d a b : BitVec 5) (v : Nat), s.ready → s.onCore = true →
    s.me.plain d → s.me.plain a → s.me.plain b → d ≠ 0 → a ≠ 0 → d ≠ a → d ≠ b → a ≠ b →
    let xd := s.me.reg d.toNat
    let xa := s.me.reg a.toNat
    let xb := s.me.reg b.toNat
    (b ≠ 0 → xb = 0 → exec (.bmove d a b) s = .next (s.begun 4))
    ∧ (xa = 0 → exec (.bfillw d a b) s = .next (s.begun 4) ∧ exec (.repb d a b) s = .next (s.begun 4))
    ∧ (b ≠ 0 → xb ≠ 0 → ¬(xa.toNat < xd.toNat ∧ xd.toNat < xa.toNat + xb.toNat) →
      let n := min xb.toNat (256 - xd.toNat % 256)
      loadSpan (s.begun 4) xa.toNat n true = .ok (t, v) → storeAcc t xd.toNat n v .store false true = .ok r →
      exec (.bmove d a b) s = .next (blockNext (((r.setX d (xd + BitVec.ofNat 64 n)).setX a (xa + BitVec.ofNat 64 n)).setX b
        (xb - BitVec.ofNat 64 n)) (xb.toNat - n)))
    ∧ (b ≠ 0 → xa.toNat < xd.toNat ∧ xd.toNat < xa.toNat + xb.toNat →
      let e := xd.toNat + xb.toNat
      let n := min xb.toNat (e - 256 * ((e - 1) / 256))
      loadSpan (s.begun 4) (xa.toNat + (e - n - xd.toNat)) n true = .ok (t, v) →
      storeAcc t (e - n) n v .store false true = .ok r →
      exec (.bmove d a b) s = .next (blockNext (r.setX b (xb - BitVec.ofNat 64 n)) (xb.toNat - n)))
    ∧ (xa ≠ 0 → xd.toNat % 8 = 0 → xa.toNat % 8 = 0 →
      let n := min xa.toNat (256 - xd.toNat % 256)
      storeAcc (s.begun 4) xd.toNat n (repeated xb.toNat 8 (n / 8)) .store false true = .ok r →
      exec (.bfillw d a b) s = .next (blockNext ((r.setX d (xd + BitVec.ofNat 64 n)).setX a (xa - BitVec.ofNat 64 n))
        (xa.toNat - n)))
    ∧ (xa ≠ 0 →
      let n := min xa.toNat (256 - xd.toNat % 256)
      storeAcc (s.begun 4) xd.toNat n (repeated (xb.toNat % 256) 1 n) .store false true = .ok r →
      exec (.repb d a b) s = .next (blockNext ((r.setX d (xd + BitVec.ofNat 64 n)).setX a (xa - BitVec.ofNat 64 n))
        (xa.toNat - n)))
    ∧ (xb = 0 → exec (.iclock d a b) s = .next ((s.begun 4).setX d 0))
    ∧ (∀ ps, xb.toNat ≤ 0x8000 → let lines := spanLines xa.toNat xb.toNat
      lockPlaces (s.begun 4) xa.toNat lines = .ok (t, ps) → requestOk t (ps.all fun p => (icFind t.mine p.1).isSome) →
      let q := lockLines t ps
      q.me.free d →
      exec (.iclock d a b) s = .next (q.setX d
        (BitVec.ofNat 64 (lines.filter fun l => q.mine.icache.any fun y => y.locked && y.line == l).length)))
    ∧ (xb.toNat ≤ 0x8000 → exec (.icunlk a b) s = .next ((s.begun 4).modMine fun x =>
        { x with relock := x.relock.filter fun l => decide (l ∉ spanLines xa.toNat xb.toNat)
                 icache := x.icache.map fun l =>
            (if l.line ∈ spanLines xa.toNat xb.toNat then { l with locked := false } else l) }))
    ∧ (∀ i, exec (.pref a i) s = .next (prefetch (s.begun 4) (xa + i.signExtend 64).toNat))
    ∧ (∀ xa n l, l ∈ spanLines xa n ↔ ∃ i, i < n ∧ l = (xa + i) / 256)
    ∧ (∀ (s t : State) (xa : Nat) (ls : List Nat) ps, lockPlaces s xa ls = .ok (t, ps) → ps.map (fun p => p.1) = ls)
    ∧ (∀ (s : State) (l pa : Nat) (bypass : Bool),
      let m := s.mine
      let locked := (m.icache.filter fun y => y.locked).map (fun y => y.line) ++ m.relock.filter fun y => y != l
      let isLocked (t : State) : Bool := (t.unit s.cur.unit).icache.any fun y => y.locked && y.line == l
      let full := 2 ≤ (locked.filter fun y => y % 64 == l % 64).length ∨ 128 ≤ locked.length
      (isLocked s = true → lockLine s l pa bypass = s)
      ∧ (isLocked s = false → full → lockLine s l pa bypass = s)
      ∧ (isLocked s = false → ¬ full → isLocked (lockLine s l pa bypass) = true))

/-- BCOPY, BCOPYC, BGATH and BSCAT (11 R278 to R282, R291 to R293): with a well-formed descriptor, spans that pass their checks, a
bound port for each event asked for, and room for the operation and its locks, the operation is outstanding under the
next serial number, its spans are locked, and the destination holds the handle. A BCOPYC also posts its box message, and with
nothing in the tensor no operation is sent: its word and event come at once, or, where MMREV 2 makes them wait for the slot's earlier operations
and stores (10 R268), they stand by as the core's own (log entry 16). -/
def Obligations.EngineIssueCompletes : Prop :=
  ∀ (s s1 s2 s3 : State) (d a : BitVec 5) (form : OpForm) (i : Instr) (ws : List Word)
    (sp : List (ESpan × Option (Word × Nat))), s.ready → s.onCoreU = true → s.me.plain a →
    (form, i) ∈ [(OpForm.copy, Instr.bcopy d a), (.clipped, .bcopyc d a), (.gather, .bgath d a), (.scatter, .bscat d a)] →
    let xa := (s.me.reg a.toNat).toNat
    let u := s.cur.unit
    let spans := opSpans s1 form ws
    let o := captureOp s2 form ws sp
    let later := completionWaits s3 u s3.cur.slot (opsOf s3 u s3.cur.slot)
    let gone := if form = .clipped then (upTo o.chunkCount).filter fun c => chunkRuns o c == [] else []
    let s4 := gone.foldl (fun t c => setChunkBit t u o c) s3
    let s5 := if form = .clipped then boxMessage s4 (clipBox form ws) o.cval o.serial else s4
    let t := if form = .clipped ∧ spans = [] then
        (if later then s5.modMine fun m => { m with ops := m.ops ++ [{ o with done := gone, phase := .own }] } else reportOp s5 u o o.cval)
      else s5.modMine fun m => { m with ops := m.ops ++ [{ o with done := gone }], locks := m.locks ++ opLocks o.serial sp,
                                        serial := m.serial + 1 }
    xa % 64 = 0 → loadWords (s.begun 4) xa (if form = .clipped then 16 else 8) = .ok (s1, ws) → s1.cur = s.cur →
    (descBad u form ws).all (fun b => !b) = true →
    (form = .gather ∨ form = .scatter → (idxVa form ws).toNat % idxSize ws = 0) →
    (∀ p ∈ spans, ∀ q ∈ spans, p.dest = false → q.dest = true → p.meets q = false) →
    checkSpans s1 spans = .ok (s2, sp) →
    (wbit (dCtl ws) 60 = true → (s2.me.portQueue portCompl).isSome = true) →
    (dGq ws = true → (s2.me.portQueue (8 + wfld (dCtl ws) 58 56)).isSome = true) →
    (s2.mine.ops.filter fun p => p.phase != .own).length < 32 → s2.mine.locks.length + (opLocks o.serial sp).length ≤ 16 →
    (o.bmen = false → s3 = s2) →
    (o.bmen = true → storeWords s2 (coreWindow + o.bmoff) (List.replicate (dBmBytes ws / 8) 0) = .ok s3) →
    t.me.free d → exec i s = .next (t.setX d (o.serial.setWidth 64))

/-- The steps of an engine operation (11 R283 to R290, R295, 18 R427): its waybill is queued in order of arrival, it starts in turn when
its engine has a place, its chunks land and set their bits, a queue-mode row is delivered (a poisoned one poisons the queue register, the model's choice:
log entry 24), it completes with its completion word and event and gives up its locks, under MMREV 2 after the slot's earlier operations and stores (10 R268),
or it is cancelled or abandoned. A completion that the core itself owes is written in its turn. That a copy engine runs one operation at a time, in
issue order, and that CANCELLED comes at once under MMREV 2, are the model's choices (log entry 16). -/
def Obligations.EngineSteps : Prop :=
  (∀ (s : State) (u n : Nat) (o : EngineOp), ownReport s u (BitVec.ofNat 16 n) = some o →
    exec (.engineComplete u n) s = .next (dropOwn (reportOp s u o o.cval) u o))
  ∧ ∀ (s t : State) (u n : Nat) (o : EngineOp), findOp s u (BitVec.ofNat 16 n) = some o →
    let g := engineOf s u o
    let blocked := (s.hart u o.slot).held.any (fun p => p.1 == 8 + o.gtag) = true
    (o.phase = .sent → g < 18 → exec (.waybillArrival u n) s = .next ((modOp s u o.serial fun o => { o with phase := .queued }).modStation
      (g / 3) fun m => { m with waybills := m.waybills ++ [(u, o.serial)] }))
    ∧ (o.phase = .sent → 18 ≤ g → exec (.waybillArrival u n) s = .next (modOp s u o.serial fun o => { o with phase := .queued }))
    ∧ (o.phase = .queued → engineNext s g = some (u, o.serial) → g < 18 → engineLoad s g < 8 →
      exec (.engineStart u n) s = .next ((modOp s u o.serial fun o => { o with phase := .started }).modStation (g / 3) fun m =>
        { m with waybills := m.waybills.filter fun p => p != (u, o.serial) }))
    ∧ (o.phase = .queued → engineNext s g = some (u, o.serial) → 18 ≤ g → engineLoad s g = 0 →
      exec (.engineStart u n) s = .next (modOp s u o.serial fun o => { o with phase := .started }))
    ∧ (∀ c, o.phase = .started → o.gq = false → c < o.chunkCount → c ∉ o.done → (o.form = .scatter → o.done.length = c) →
      (o.bmen = true → completionWaits s u o.slot (earlierOps s u o) = false) → moveChunk s u o c = some (t, none) →
      exec (.engineChunkLanded u n c) s
        = .next (setChunkBit (modOp t u o.serial fun x => { x with done := x.done ++ [c], outside := lowest x.outside none }) u o c))
    ∧ (∀ t1 sa da v bad t2, o.phase = .started → o.gq = true → o.done.length < o.rows → ¬ blocked →
      rowPlaces s u o o.done.length = some (t1, some (sa, da)) →
      engineRead t1 u sa.toNat o.rowBytes o.srcOff = some (t2, v, bad) →
      exec (.gatherRowDelivery u n) s = .next ((wordsOf (o.rowBytes / 8) v).foldl
        (fun t w => deliverPort t u o.slot (8 + o.gtag) w)
        (poisonQueue (modOp t2 u o.serial fun x => { x with done := x.done ++ [o.done.length] }) u o.slot (8 + o.gtag) (bad != []))))
    ∧ ((s.unit u).mmrev ≠ 2 ∨ isCore u = false → completionWaits s u o.slot (earlierOps s u o) = false)
    ∧ (o.phase = .started → completionWaits s u o.slot (earlierOps s u o) = false → ownReport s u (BitVec.ofNat 16 n) = none →
      (o.gq = false ∧ o.done.length = o.chunkCount ∨ o.gq = true ∧ o.done.length = o.rows ∧ ¬ blocked) →
      ∃ r, exec (.engineComplete u n) s = .next r ∧ r = releaseOp (reportOp s u o ((o.outside.map outsideWord).getD o.cval)) u o.serial
        ∧ (∀ p ∈ (r.unit u).ops, p.isOp o.serial = false) ∧ (∀ l ∈ (r.unit u).locks, l.serial ≠ o.serial))
    ∧ (∀ k, (s.hart u k).pipe = .cancel n none → o.phase = .queued →
      exec (.cancelRequest u k) s = .next ((withdrawOp s u o).modHart u k fun h => { h with pipe := .cancel n (some 0) }))
    ∧ (∀ k, (s.hart u k).pipe = .cancel n none → o.phase = .started →
      exec (.cancelRequest u k) s = .next (s.modHart u k fun h => { h with pipe := .cancel n (some 1) }))
    ∧ (o.gq = true → o.phase = .started → (s.unit u).stopped = true → blocked →
      exec (.gatherAbandon u n) s = .next (((releaseOp s u o.serial).modUnit u fun x =>
        { x with abandoned := x.abandoned ++ [o.serial] }).modHart u o.slot fun h =>
          { h with held := h.held.filter fun p => p.1 != 8 + o.gtag }))

/-- BCANCEL asks the engine once, and then writes its answer, or 2 when the handle is no outstanding operation's (11 R290); CTEST and
CWAITM test a word of the core store, acquire when the test succeeds on a nonzero mask, and CWAITM parks with PARK 5
on the word's line when it does not (11 R288, R289). -/
def Obligations.HandleInstructionsComplete : Prop :=
  ∀ (s t : State) (d a b : BitVec 5) (v : Word), s.ready → s.onCoreU = true → s.me.plain a → s.me.plain b →
    let x := s.me.reg a.toNat
    let y := s.me.reg b.toNat
    let o := x.toNat - coreWindow
    let inStore := coreWindow ≤ x.toNat ∧ o < storeSize s.cur.unit ∧ x.toNat % 8 = 0
    (x.toNat < 2 ^ 16 → s.me.pipe = .idle → findOp s s.cur.unit (x.setWidth 16) = none → s.me.free d →
      exec (.bcancel d a) s = .next ((s.begun 4).setX d 2))
    ∧ (∀ p, x.toNat < 2 ^ 16 → s.me.pipe = .idle → findOp s s.cur.unit (x.setWidth 16) = some p →
      exec (.bcancel d a) s = .next ((s.modMe Slot.unpark).modMe fun h => { h with pipe := .cancel x.toNat none }))
    ∧ (∀ n r, x.toNat < 2 ^ 16 → s.me.pipe = .cancel n (some r) → s.me.free d →
      exec (.bcancel d a) s = .next (((s.begun 4).modMe fun h => { h with pipe := .idle }).setX d (BitVec.ofNat 64 r)))
    ∧ (inStore → loadWord (s.begun 4) x.toNat = .ok (t, v) → v &&& y = y → y ≠ 0 → rdcClean t t.cur.unit = true → t.me.free d →
      exec (.ctest d a b) s = .next (t.acquired.setX d 1) ∧ exec (.cwaitm a b) s = .next t.acquired)
    ∧ (inStore → loadWord (s.begun 4) x.toNat = .ok (t, v) → y = 0 → t.me.free d →
      exec (.ctest d a b) s = .next (t.setX d 1) ∧ exec (.cwaitm a b) s = .next t)
    ∧ (inStore → loadWord (s.begun 4) x.toNat = .ok (t, v) → v &&& y ≠ y → t.me.free d → t.cur = s.cur → s.cur.slot ≠ 6 →
      exec (.ctest d a b) s = .next (t.setX d 0)
      ∧ exec (.cwaitm a b) s = .next (s.modMe fun h => { h with park := 5, await := 0, woken := false, resv := none,
                                                                waitOn := some (lineOf (storeBase s.cur.unit + o)) }))

/-- SEND, SENDR and AMSG (12 R307 to R310): with a vacancy-free header, a valid rank (of a core, for AMSG), a readable payload and room in the send queue,
the message joins the end of its queue with the sender's rank, step, network and colour, on slot 0 once no earlier TFENCE is pending (10 R264); SENDR's is the
reply network, the others' the request network. -/
def Obligations.SendsComplete : Prop :=
  ∀ (s t : State) (a b : BitVec 5) (ps : List Word) (kind : Nat) (i : Instr), s.ready → s.me.plain a → s.me.plain b →
    (kind, i) ∈ [(0, Instr.send a b), (1, .sendr a b), (2, .amsg a b)] →
    (kind = 0 → s.onCoreUC = true) → (kind ≠ 0 → s.onCore = true) →
    let h := s.me.reg a.toNat
    let x := (s.me.reg b.toNat).toNat
    let n := wfld h 23 20
    let e := fget (s.ni s.cur.unit).rank (wfld h 9 0) 0
    let q := if kind = 1 then (t.ni t.cur.unit).rplQ else (t.ni t.cur.unit).reqQ
    wfld h 19 10 = 0 → n ≤ 8 → (if kind = 2 then wfld h 33 32 = 0 else wfld h 63 32 = 0) → rankValid e = true →
    (kind = 2 → rankKind e = 0) →
    (n = 0 → t = s.begun 4 ∧ ps = []) → (n ≠ 0 → x % 8 = 0 ∧ loadWords (s.begun 4) x n = .ok (t, ps)) → t.cur = s.cur →
    q.length < (if kind = 1 then 4 else 8) → tfencePending t t.cur.unit t.cur.slot = false →
    let m : Msg := { hdr := BitVec.ofNat 64 (wfld h 63 20 * 2 ^ 20 + kind * 2 ^ 18 + (t.ni t.cur.unit).myrank.toNat), stamp := t.mine.step,
                     payload := ps, rank := wfld h 9 0, reply := kind == 1, colour := (t.ni t.cur.unit).colour, job := t.mine.job,
                     src := t.cur.unit, slot := t.cur.slot, entry := e }
    exec i s = .next (t.modNi t.cur.unit fun r => if kind = 1 then { r with rplQ := r.rplQ ++ [m] } else { r with reqQ := r.reqQ ++ [m] })

/-- RECV and RECVP take the first message in the inbox that the slot may take, write its ten words and its header (12 R313, R315), as
an acquire unless it is a record of KIND 3 (12 R309);
with none, RECV parks with PARK 8 and RECVP returns all ones. LOOPBK with no records arms the replay wake (12 R318), and with records puts them
into the inbox in order (12 R317). HRET ends the handler (12 R320); that the values which engines hold for its queues outlive it is the model's
choice (log entry 16). RANKGET and RANKSET read and write the rank table and MYRANK (12 R303 to R305). -/
def Obligations.ReceivesAndRanksComplete : Prop :=
  ∀ (s t : State) (d a b : BitVec 5), s.ready → s.me.plain a → s.me.plain b → s.me.free d →
    let x := s.me.reg a.toNat
    let y := s.me.reg b.toNat
    let u := s.cur.unit
    let inbox := (s.ni u).inbox
    (∀ j m, s.onCoreUC = true → x.toNat % 16 = 0 → findPos (takeable (s.begun 4) u s.cur.slot) inbox = some j → inbox[j]? = some m →
      (m.kind ≠ 3 → rdcClean s u = true) → mmrevOk s →
      storeWords (if m.kind = 3 then s.begun 4 else (s.begun 4).acquired) x.toNat m.words = .ok t →
      let r := replayCheck (t.modNi u fun n => { n with inbox := dropAt n.inbox j }) u
      r.me.free d → exec (.recv d a) s = .next (r.setX d m.hdr) ∧ exec (.recvp d a) s = .next (r.setX d m.hdr))
    ∧ (s.onCoreUC = true → x.toNat % 16 = 0 → findPos (takeable (s.begun 4) u s.cur.slot) inbox = none →
      exec (.recvp d a) s = .next ((s.begun 4).setX d (BitVec.allOnes 64))
      ∧ (s.cur.slot ≠ 6 → exec (.recv d a) s = .next (s.modMe fun h =>
          { h with park := 8, await := 0, waitOn := some 0, woken := false, resv := none })))
    ∧ (s.onCore = true → s.cur.slot = 7 → x.toNat % 16 = 0 → y = 0 → inbox.length ≤ 64 →
      exec (.loopbk a b) s = .next (replayCheck ((s.begun 4).modNi u fun q => { q with replayarm := true }) u))
    ∧ (∀ ws, s.onCore = true → s.cur.slot = 7 → x.toNat % 16 = 0 → y.toNat ≤ 8 → y ≠ 0 → y.toNat + inbox.length ≤ 64 →
      loadWords (s.begun 4) x.toNat (10 * y.toNat) = .ok (t, ws) →
      let recs := (upTo y.toNat).map fun i => (ws.drop (10 * i)).take 10
      recs.all recordOk = true → exec (.loopbk a b) s = .next (recs.foldl (fun t r => enterInbox t u (replayMsg t u r)) t))
    ∧ (s.onCore = true → s.cur.slot = 6 → exec .hret s = .next ((s.begun 4).modMe fun h =>
        { Slot.reset with instret := h.instret, held := h.held }))
    ∧ (s.onCore = true → x.toNat < 0x400 → exec (.rankget d a) s = .next ((s.begun 4).setX d (fget (s.ni u).rank x.toNat 0)))
    ∧ (s.onCore = true → x = 0x400 → exec (.rankget d a) s = .next ((s.begun 4).setX d (niStatus (s.ni u))))
    ∧ (s.onService = true → x = 0x1000400 → y.toNat < 2 ^ 10 →
      exec (.rankset a b) s = .next ((s.begun 4).modNi u fun n => { n with myrank := y.setWidth 10 }))
    ∧ (s.onService = true → x.toNat / 2 ^ 10 = 0x4000 → rankOk y = true →
      exec (.rankset a b) s = .next (writeRank (s.begun 4) u (x.toNat % 2 ^ 10) y))
    ∧ (isCmc u = true → 1 ≤ s.mode → x.toNat / 2 ^ 16 < 192 → x.toNat / 2 ^ 16 / 16 = u - 192 → x.toNat % 2 ^ 16 < 2 ^ 10 → rankOk y = true →
      exec (.rankset a b) s = .next (writeRank (s.begun 4) (x.toNat / 2 ^ 16) (x.toNat % 2 ^ 10) y))

/-- The steps of the message system (12 R306, R312, R313, R316, R319, 20 R446): the head of a send queue leaves for the unit its rank names, or into the held
buffer while its rank is in transit; the oldest message between two places arrives; a held arrival enters the inbox, network 1 first; a
handler starts on an idle slot 6 with its header in x10, its record's address in x11 and every other register 0, and its record leaves the inbox
for offset 0x6_FF80 of the core store; a message of a job that is being removed stays
for its unit's record, or is discarded and counted where no record is to be written. -/
def Obligations.MessageSteps : Prop :=
  ∀ (s t : State) (u : Nat) (m : Msg) (rest : List Msg) (base : Word),
    let pop (reply : Bool) (r : State) : State :=
      sendqFreed (r.modNi u fun q => if reply then { q with rplQ := rest } else { q with reqQ := rest }) u
    (removing s m.job = true →
      (∀ reply, (if reply then (s.ni u).rplQ else (s.ni u).reqQ) = m :: rest → performed s u m.slot = true →
        exec (.messageInject u reply) s = .next (if recordOwed s u m.job then s else pop reply (dropForJob s m.job)))
      ∧ (∀ src dst vn j, vn ≤ 1 → findPos (fun f : Flight => f.msg.src == src && f.dst == dst && f.msg.reply == (vn == 1)) s.mesh = some j →
        s.mesh[j]? = some { msg := m, dst := dst } →
        exec (.messageArrival src dst vn) s = .next (dropForJob { s with mesh := dropAt s.mesh j } m.job)))
    ∧ (removing s m.job = false →
    (∀ reply, (if reply then (s.ni u).rplQ else (s.ni u).reqQ) = m :: rest → performed s u m.slot = true →
      rankTransit m.entry = false → exec (.messageInject u reply) s = .next (pop reply (injectTo s u m m.entry)))
    ∧ (∀ reply, (if reply then (s.ni u).rplQ else (s.ni u).reqQ) = m :: rest → performed s u m.slot = true →
      rankTransit m.entry = true → rankTransit (fget (s.ni u).rank m.rank 0) = true → (s.ni u).heldBuf.length < 16 →
      exec (.messageInject u reply) s = .next (pop reply (s.modNi u fun q => { q with heldBuf := q.heldBuf ++ [m] })))
    ∧ (∀ src dst vn j, vn ≤ 1 → findPos (fun f : Flight => f.msg.src == src && f.dst == dst && f.msg.reply == (vn == 1)) s.mesh = some j →
      s.mesh[j]? = some { msg := m, dst := dst } →
      exec (.messageArrival src dst vn) s = .next (arriveMsg { s with mesh := dropAt s.mesh j } dst m))
    ∧ (heldTaken s u true = some t → exec (.inboxHeldEntry u) s = .next t)
    ∧ (heldTaken s u true = none → heldTaken s u false = some t → exec (.inboxHeldEntry u) s = .next t)
    ∧ (∀ j, isCore u = true → (s.hart u 6).active = false → (s.unit u).stopped = false → removing s (s.unit u).job = false → rdcClean s u = true →
      findPos (fun m : Msg => m.kind == 2 && !guarded s u m) (s.ni u).inbox = some j → (s.ni u).inbox[j]? = some m →
      codeBase? s (s.unit u).job = some base →
      ∃ r, exec (.handlerStart u) s = .next r ∧ (r.hart u 6).active = true
        ∧ (r.hart u 6).pc = base + BitVec.ofNat 64 (wfld m.hdr 63 32)
        ∧ (r.hart u 6).reg 10 = m.hdr ∧ (r.hart u 6).reg 11 = 0x00FFFF000006FF80#64 ∧ (∀ i, i ≠ 10 → i ≠ 11 → (r.hart u 6).reg i = 0)
        ∧ statWord (r.hart u 6) = 1 ∧ (r.hart u 6).v = Slot.reset.v ∧ (r.hart u 6).m = Slot.reset.m ∧ (r.hart u 6).qbind = 0
        ∧ (∀ i, ((r.hart u 6).gen i).bound = false) ∧ (r.ni u).inbox = dropAt (s.ni u).inbox j
        ∧ r.mem = memPut s.mem (storeBase u + 0x6FF80) 80 m.bits))

/-- The named barriers (12 R325 to R329): BCFG sets a record's mask and clears its counts, and misuse traps; BARR counts the core's arrival in
every member's record and returns its phase; BARW also waits for the phase to end, and does not arrive again when it comes back (01 Table 1.3), BWAIT only waits; BSTAT returns the record, or is ILLEGAL for a number above 255; a release flips
PHASE and moves NARR into ARR in every member record whose arrivals are complete. WAITA completes on a watched line that was hit (12 R323). -/
def Obligations.BarrierInstructionsComplete : Prop :=
  ∀ (s t : State) (d a b : BitVec 5), s.ready → s.onCore = true → s.me.plain a → s.me.plain b → s.me.free d →
    let n := (s.me.reg a.toNat).toNat
    let y := s.me.reg b.toNat
    let u := s.cur.unit
    let r := s.barrier u n
    let mine := coreBit u
    let arrived := ((upTo 16).filter fun i => r.mask.getLsbD i).foldl
      (fun t i => barrierReach t s.mine.job (u / 16 * 16 + i) n mine r.myph)
      ((s.begun 4).setBarrier u n { r with myph := !r.myph })
    let mayArrive := r.mask &&& mine ≠ 0 ∧ (if r.myph = r.phase then r.arr else r.narr) &&& mine = 0
    (n < 2 ^ 8 → y.toNat < 2 ^ 16 → y = 0 ∨ y.setWidth 16 &&& mine ≠ 0 → r.arr = 0 → r.narr = 0 →
      exec (.bcfg a b) s = .next ((s.begun 4).setBarrier u n { Barrier.reset with mask := y.setWidth 16 }))
    ∧ (n < 2 ^ 8 → y = 0 → r.arr ≠ 0 ∨ r.narr ≠ 0 → exec (.bcfg a b) s = .next (s.trapped cBarrierMisuse n (.bcfg a b)))
    ∧ (n < 2 ^ 8 → mayArrive → arrived.me.free d → exec (.barr d a) s = .next (arrived.setX d (if r.myph then 1 else 0)))
    ∧ (n < 2 ^ 8 → ¬ mayArrive → exec (.barr d a) s = .next (s.trapped cBarrierMisuse n (.barr d a)))
    ∧ (n < 2 ^ 8 → mayArrive → arrived.me.free d → arrived.cur = s.cur → s.me.park = 0 → s.cur.slot ≠ 6 →
      let v := arrived.setX d (if r.myph then 1 else 0)
      ((v.barrier u n).phase ≠ r.myph → exec (.barw d a) s = .next v)
      ∧ ((v.barrier u n).phase = r.myph → exec (.barw d a) s = .next ((v.again 4).modMe fun h =>
          { h with park := 3, await := BitVec.ofNat 6 (32 + b2n r.myph), waitOn := some n, woken := false, resv := none })))
    ∧ (s.me.park = 3 → s.me.await.getLsbD 5 = true →
      (s.me.waitOn ≠ none ∨ r.phase ≠ s.me.await.getLsbD 0 → exec (.barw d a) s = .next (s.begun 4))
      ∧ (s.me.waitOn = none → r.phase = s.me.await.getLsbD 0 → s.cur.slot ≠ 6 → exec (.barw d a) s = .next (s.modMe fun h =>
          { h with waitOn := some n, woken := false, resv := none })))
    ∧ (n < 2 ^ 8 → y.toNat < 2 → r.phase ≠ (y == 1) → exec (.bwait a b) s = .next (s.begun 4))
    ∧ (n < 2 ^ 8 → y.toNat < 2 → r.phase = (y == 1) → s.cur.slot ≠ 6 → exec (.bwait a b) s = .next (s.modMe fun h =>
        { h with park := 3, await := y.setWidth 6, waitOn := some n, woken := false, resv := none }))
    ∧ (n < 2 ^ 8 → exec (.bstat d a) s = .next ((s.begun 4).setX d (BitVec.ofNat 64
        (r.narr.toNat * 2 ^ 48 + r.arr.toNat * 2 ^ 32 + r.mask.toNat * 2 ^ 16 + (if r.myph then 2 else 0) + if r.phase then 1 else 0))))
    ∧ (2 ^ 8 ≤ n → exec (.bstat d a) s = .next (s.trapped cIllegal a.toNat (.bstat d a)))
    ∧ (∀ l, watchedLine (s.begun 4) n = .ok (t, l) → t.me.wline = some l → t.me.whit = true → rdcClean t t.cur.unit = true →
      exec (.waita a) s = .next t.acquired)
    ∧ (∀ c m, c < 12 → ∃ w, exec (.barrierRelease c m) s = .next w
        ∧ ∀ k, k < 16 → (s.barrier (16 * c + k) m).due = true →
          w.barrier (16 * c + k) m = { s.barrier (16 * c + k) m with phase := !(s.barrier (16 * c + k) m).phase,
                                                                      arr := (s.barrier (16 * c + k) m).narr, narr := 0 })

/-- The mailbox (18 R414 to R419): a record lands FULL in its reserved or a free shared slot; MBXRD copies the oldest FULL record into private memory and
marks it READ, or returns all ones; MBXACK empties a READ slot whose record needs no reply or whose job is being removed, or a WITHDRAWN one, and else is
ILLEGAL; MBXPOST captures a reply; RESUME sends it,
waits, and empties its slot; the source applies the reply. -/
def Obligations.MailboxInstructionsComplete : Prop :=
  ∀ (s : State) (d a b : BitVec 5), s.ready → s.me.plain a → s.me.plain b → s.me.free d →
    let c := s.cur.unit - 192
    let x := (s.me.reg a.toNat).toNat
    let y := (s.me.reg b.toNat).toNat
    let pa := storeBase s.cur.unit + (x - coreWindow)
    let pb := storeBase s.cur.unit + (y - coreWindow)
    (∀ r rest u, isCore u = true → (s.unit (cmcOf (u / 16))).halted = false → (mbox s (u / 16) (u % 16)).state = .empty →
      (s.unit u).records = r :: rest →
      exec (.mailboxRecordArrival (u / 16) u) s = .next (landRecord (popRecord s u) (u / 16) (u % 16) u r))
    ∧ (∀ r u j k, k < 12 → (s.unit (cmcOf k)).halted = false → 228 ≤ u →
      findPos (fun p : PendRecord => p.cluster == k && p.src == u) s.pendRecords = some j → s.pendRecords[j]? = some r →
      ∀ n, freeShared s k = some n → exec (.mailboxRecordArrival k u) s
        = .next (landRecord { s with pendRecords := dropAt s.pendRecords j } k n u r.record))
    ∧ (∀ k n u r, (mbox (landRecord s k n u r) k n) = { state := .full, record := r, order := s.clock, src := u, reply := [] })
    ∧ (s.onCmcS = true → x % 64 = 0 → coreWindow ≤ x → x + 64 ≤ coreWindow + 0x40000 → oldestFull s c = none →
      exec (.mbxrd d a) s = .next ((s.begun 4).setX d (BitVec.allOnes 64)))
    ∧ (∀ n, s.onCmcS = true → x % 64 = 0 → coreWindow ≤ x → x + 64 ≤ coreWindow + 0x40000 → oldestFull s c = some n →
      ∃ t, exec (.mbxrd d a) s = .next t ∧ t.me.reg d.toNat = (if d = 0 then 0 else BitVec.ofNat 64 n)
        ∧ mbox t c n = { mbox s c n with state := .read }
        ∧ t.mem = memPut s.mem pa 64 (ofWords (mbox s c n).record))
    ∧ (s.onCmcS = true →
      let frees := x < 32 ∧ ((mbox s c x).state = .withdrawn ∨ (mbox s c x).state = .read ∧
        (needReply (mbox s c x).record = false ∨ removing s (recordJob (mbox s c x).record) = true))
      (frees → exec (.mbxack a) s = .next (setMbox (s.begun 4) c x MboxSlot.reset))
      ∧ (¬ frees → exec (.mbxack a) s = .next (s.trapped cIllegal a.toNat (.mbxack a))))
    ∧ (s.onCmcS = true → x < 32 → (mbox s c x).state = .read → needReply (mbox s c x).record = true → y % 32 = 0 → coreWindow ≤ y →
      y + 32 ≤ coreWindow + 0x40000 → s.poisonIn pb 32 = none →
      let ws := wordsOf 4 (s.get pb 32)
      needHeldZero y ws [0xFFFFFFFFFFFFE0FC, 3, 0, 0xFFFFFFFFFFFFFFFF] = .ok () →
      ¬(wfld (nthWord ws 0) 1 0 = 2 ∧ wbit (nthWord (mbox s c x).record 0) 11 = true) →
      exec (.mbxpost a b) s = .next (setMbox (s.begun 4) c x { mbox s c x with state := .replied, reply := ws }))
    ∧ (s.onCmcS = true → x < 32 → s.me.pipe = .idle → (mbox s c x).state = .withdrawn →
      exec (.resume a) s = .next ((setMbox (s.begun 4) c x MboxSlot.reset).modMe fun h => { h with pipe := .idle }))
    ∧ (s.onCmcS = true → x < 32 → s.me.pipe = .idle → (mbox s c x).state = .replied →
      exec (.resume a) s = .next ((s.modMe Slot.unpark).modMe fun h => { h with pipe := .resume x false }))
    ∧ (s.onCmcS = true → x < 32 → s.me.pipe = .resume x true → (mbox s c x).state = .replied →
      exec (.resume a) s = .next ((setMbox (s.begun 4) c x MboxSlot.reset).modMe fun h => { h with pipe := .idle }))
    ∧ (∀ k n u j, k < 12 → (s.hart (cmcOf k) 0).pipe = .resume n false → (mbox s k n).state = .replied → (mbox s k n).src = u →
      parkedOn s u (mbox s k n).record = some j →
      exec (.resumeReplyApply k n) s
        = .next (applyReply (s.modHart (cmcOf k) 0 fun h => { h with pipe := .resume n true }) u j (mbox s k n).record (mbox s k n).reply))

/-- What a reply does to the slot that is parked on its record (18 R419): RETRY restarts at the record's EPC, SKIP past it, REDIRECT at the reply's
address; each writes REG, and clears PARK. For a tile fault the PC stays and a SKIP drops the faulting replay entry. -/
def Obligations.RepliesApplied : Prop :=
  ∀ (s : State) (u k : Nat) (r ws : List Word), wfld (nthWord ws 0) 1 0 < 3 →
    let t := applyReply s u k r ws
    let act := wfld (nthWord ws 0) 1 0
    let tile := wbit (nthWord r 0) 11
    (t.hart u k).park = 0
    ∧ (t.hart u k).pc = (if tile then (s.hart u k).pc else if act = 0 then nthWord r 1 else if act = 1 then nthWord r 1 + 4 else nthWord ws 1)
    ∧ (t.hart u k).reg (wfld (nthWord ws 0) 12 8) = (if wfld (nthWord ws 0) 12 8 = 0 then 0 else nthWord ws 2)
    ∧ t.mem = s.mem
    ∧ (∀ i j, hartKey i j ≠ hartKey u k → t.hart i j = s.hart i j)
    ∧ ((tile = false ∨ act ≠ 1) → t.units = s.units)
    ∧ (tile = true → act = 1 → (t.fe u).replay = (s.fe u).replay.drop 1 ∧ ∀ i, i ≠ u → t.unit i = s.unit i)

/-- Pre-emption and the saving and restoring of a core (18 R420 to R429): a PREEMPT first stops slots 0 to 6, then slot 7 takes it once their
pipes and the tile stream are still, and the leases end (07 R216); SLOTSAVE writes an image of the slot, the tile part or the core block; SLOTREST restores one, that of a slot
once the core block is restored (that a core takes a block for restored until it is vacated is the model's reading, log entry 49); NISPILL writes
the records that its buffer has room for. -/
def Obligations.SwitchInstructionsComplete : Prop :=
  ∀ (s t : State) (d a b : BitVec 5) (v : Nat), s.ready → s.onService = true → s.me.plain a → s.me.plain b →
    let u := s.cur.unit
    let x := s.me.reg a.toNat
    let y := (s.me.reg b.toNat).toNat
    let begun := s.begun 4
    (∀ w dir, isCore w = true → (s.unit w).preempt = some dir → (s.hart w 7).active = false → (s.unit w).duty ≠ 0 →
      removing s (s.unit w).job = false → (s.unit w).up = true →
      ((s.unit w).stopped = false → ∃ r, exec (.preemptStop w) s = .next r ∧ (r.unit w).stopped = true ∧ r.mem = s.mem)
      ∧ ((s.unit w).stopped = true → pipesIdle s w = true → streamStill s w = true →
        exec (.preemptStop w) s = .next (enterHandler
          (((endLeases (endDrain s w) w).modUnit w fun z => { z with preempt := none }).modUnit w fun z => { z with drained := true }) w 7 cPreempt dir 0)))
    ∧ (∀ k, x = BitVec.ofNat 64 k → k < 7 → s.mine.stopped = true → y % 256 = 0 → (s.hart u k).active = true →
      (s.hart u k).sg.all (fun p => p.2.unaccepted == 0) = true →
      saveBytes begun y 0x2000 (slotImage (s.hart u k)) (imageFlits (s.hart u k)) = .ok t →
      exec (.slotsave a b) s = .next ((withdraw t u k).modHart u k fun h => { h with saved := true }))
    ∧ (x = 8 → s.mine.stopped = true → y % 256 = 0 →
      saveBytes begun y (tilePartSize (maxTiles begun u)) (tilePart (s.fe u) (maxTiles begun u) (tileFaulted begun u))
        (tileFlits (s.fe u) (maxTiles begun u)) = .ok t →
      exec (.slotsave a b) s = .next (t.modHart u 0 fun h => { h with tileSaved := true }))
    ∧ (x = 7 → y % 256 = 0 → saveBytes begun y 0x4000 (coreBlock s.mine (savedMask begun u)) [] = .ok t →
      exec (.slotsave a b) s = .next t)
    ∧ (x = 0x17 → y % 256 = 0 → mayVacate begun u = true →
      saveBytes begun y 0x4000 (coreBlock s.mine (savedMask begun u)) [] = .ok t →
      exec (.slotsave a b) s = .next (vacate t u))
    ∧ (∀ k r, x = BitVec.ofNat 64 k → k < 7 → y % 256 = 0 → restSlot a begun u k y = .ok r → exec (.slotrest a b) s = .next r)
    ∧ (∀ r, x = 7 → y % 256 = 0 → restBlock a begun u y = .ok r → exec (.slotrest a b) s = .next r)
    ∧ (∀ r, x = 8 → y % 256 = 0 → restTile a begun u y = .ok r → exec (.slotrest a b) s = .next r)
    ∧ (∀ k, k < 7 → loadSpan begun y 0x2000 true = .ok (t, v) → imgWord v 33 ≠ 0 → imageBad v = none → (t.hart u k).active = false →
      (t.unit u).blockIn = true → (imgWord v 51 = 0 ∨ k = 6) →
      ∃ r, restSlot a begun u k y = .ok r ∧ (r.hart u k).pc = imgWord v 32 &&& ~~~3#64 ∧ (r.hart u k).restored = true
        ∧ (∀ i, 0 < i → i < 32 → (r.hart u k).reg i = imgWord v i) ∧ r.mem = t.mem)
    ∧ (∀ ws t2 t3 ps, s.mine.stopped = true → loadBlock begun x.toNat 16 16 = .ok (t, ws) →
      needHeldZero x.toNat ws [0xFF00000000000000, 0x7FFF0000FFFF0000] = .ok () →
      let used := wfld (nthWord ws 1) 47 32
      let cap := wfld (nthWord ws 1) 15 0
      let recs := spillList (t.ni u)
      let n := min recs.length (cap - used)
      cap ≠ 0 → (nthWord ws 0).toNat % 16 = 0 → n ≠ 0 → wbit (nthWord ws 1) 63 = false →
      blockPlaces t ((nthWord ws 0).toNat + 80 * used) (80 * n) .both = .ok (t2, ps) →
      storeAt (writePlaces t2 ps (recordsBits (recs.take n)) []) (x.toNat + 12) 2 (used + n) = .ok t3 →
      let r := replayCheck (nispillBody.sendqSpilled t2 (lateFull ((endLate t3 u).modNi u fun q => spilled q n) u) u) u
      r.me.free d → exec (.nispill d a) s = .next (r.setX d (BitVec.ofNat 64 ((if n < recs.length then 2 ^ 63 else 0) + n))))

/-- Consistent cuts (18 R431 to R434): CUTREQ returns 1 while a cut is open, whatever MODE asks. Its SIGNAL sends a PREEMPT to each core chosen, issues again for those
that already have one pending, and returns 0 once all are sent. Its CUT returns 2 for a job that no core holds, and else opens a cut, waits for its announcement, which
takes the new colour with counts of 0, lists the job's cores and signals each that has no PREEMPT pending, and returns 0 once the rest, which it
keeps, have accepted theirs too; for a job in removal it
returns 0 at once and opens none (the model's choice, log entry 20). CUTSTAT returns the colour, and for the job of the last cut D, the cores still to stop (as the model counts
them, log entry 20), and whether the cut is open. -/
def Obligations.CutInstructionsComplete : Prop :=
  ∀ (s t r : State) (d a : BitVec 5) (ws : List Word), s.ready → s.onSys = true → s.me.plain a → s.me.free d → t.me.free d → r.me.free d →
    let x := s.me.reg a.toNat
    let w0 := nthWord ws 0
    let w2 := nthWord ws 2
    let j : BitVec 16 := w0.setWidth 16
    let dir := nthWord ws 1
    let open_ := ∃ c, s.cut = some c ∧ c.closed = false
    let reads := s.me.pipe = .idle ∧ loadBlock (s.begun 4) x.toNat 32 32 = .ok (t, ws)
      ∧ needHeldZero x.toNat ws [0xFFFFFFFFFFFE0000, 0, 0x7FFFFFFFFFFFFF00, 0xFFFFFFFFFFFFFFFF] = .ok () ∧ wfld w2 7 0 ≤ 191
      ∧ orderOk t 6 true true ∧ t.cut = s.cut ∧ t.units = s.units
    let ends := fun (q : State) => (q.modMe fun h => { h with pipe := .idle }).setX d 0
    let goesOn := fun (q : State) (p : Pipe) => (q.modMe fun h => { h with pipe := p }).again 4
    (reads → open_ → exec (.cutreq d a) s = .next (t.acquired.setX d 1))
    ∧ (reads → wbit w0 16 = false → ¬ open_ → coresOf s j = [] → exec (.cutreq d a) s = .next (t.acquired.setX d 2))
    ∧ (reads → wbit w0 16 = false → ¬ open_ → coresOf s j ≠ [] → removing t.acquired j = true → exec (.cutreq d a) s = .next (ends t.acquired))
    ∧ (reads → wbit w0 16 = false → ¬ open_ → coresOf s j ≠ [] → removing t.acquired j = false → exec (.cutreq d a) s
        = .next (goesOn { t.acquired with cut := some { job := j, old := fget t.colours j.toNat false, dir := dir, announced := false,
                                                        notStopped := coresOf s j, d := 0, closed := false } } .cutRun))
    ∧ (reads → wbit w0 16 = true → ¬ open_ →
      let chosen := if wbit w2 63 then coresOf t.acquired j else [wfld w2 7 0]
      (sendPreempts t.acquired dir chosen = (r, []) → exec (.cutreq d a) s = .next (ends r))
      ∧ (∀ k ks, sendPreempts t.acquired dir chosen = (r, k :: ks) → exec (.cutreq d a) s = .next (goesOn r (.cut (k :: ks) dir))))
    ∧ (∀ ks dir, s.me.pipe = .cut ks dir → sendPreempts (s.begun 4) dir ks = (r, []) → exec (.cutreq d a) s = .next (ends r))
    ∧ (∀ i ks dir, s.me.pipe = .cutSend i ks dir → (sendPreempts (s.begun 4) dir ks = (r, []) → exec (.cutreq d a) s = .next (ends r))
      ∧ (∀ k ws, sendPreempts (s.begun 4) dir ks = (r, k :: ws) → k :: ws ≠ ks →
        exec (.cutreq d a) s = .next (goesOn r (.cutSend i (k :: ws) dir))))
    ∧ (s.me.pipe = .cutRun → exec (.cutreq d a) s = .next (s.modMe Slot.unpark))
    ∧ (∀ c, s.cut = some c → c.announced = false → ∃ q z, exec .cutAnnounce s = .next q ∧ q.cut = some z ∧ z.announced = true ∧ z.job = c.job
        ∧ z.notStopped = coresOf s c.job ∧ fget q.colours c.job.toNat false = !c.old
        ∧ (∀ u ∈ coresOf s c.job, (q.unit u).preempt = some ((s.unit u).preempt.getD c.dir))
        ∧ (∀ u, 192 ≤ u → u < 244 → (s.hart u 0).pipe = .cutRun →
          (q.hart u 0).pipe = .cutSend c.job ((coresOf s c.job).filter fun k => (s.unit k).preempt.isSome) c.dir)
        ∧ (∀ u, (s.unit u).ni.cjob = c.job → (c.old = false → (q.unit u).ni.sent1 = 0 ∧ (q.unit u).ni.rcvd1 = 0)
            ∧ (c.old = true → (q.unit u).ni.sent0 = 0 ∧ (q.unit u).ni.rcvd0 = 0)))
    ∧ (x.toNat < 2 ^ 16 →
      let colour := if fget s.colours x.toNat false then 2 ^ 48 else 0
      ((s.cut = none ∨ ∃ c, s.cut = some c ∧ c.job ≠ x.setWidth 16) → exec (.cutstat d a) s = .next ((s.begun 4).setX d (BitVec.ofNat 64 colour)))
      ∧ (∀ c, s.cut = some c → c.job = x.setWidth 16 → exec (.cutstat d a) s = .next ((s.begun 4).setX d
          (BitVec.ofNat 64 (colour + (BitVec.ofInt 32 c.d).toNat * 2 ^ 16 + c.notStopped.length * 2 ^ 8 + (if c.closed then 2 else 1))))))

/-- The task instructions (16 R375 to R383). TDEP counts a counter down and, from 1, releases its wait list; TSPAWN reserves an entry and releases a
continuation, or returns 0x15 when the queue is full; TWAIT goes on at 0, and otherwise saves the task, heads the counter's wait list with
it and leaves the slot idle; TSUSP saves the task and releases it to its place; the drain of both ends the leases of the task first, after which the instruction issues again and reads its operand then; the values
held for the slot's queues go with the saved task (the model's choice, log entry 16), and a continuation that TWAIT saves is remembered as such
(log entry 17); TEXIT counts the task's counter down; PHASE requests an operating point. A slot that a
task leaves is `Slot.reset` with its `instret` and, where its values did not go with a saved task, the values held for its queues (log entry 16 again). -/
def Obligations.TaskInstructionsComplete : Prop :=
  ∀ (s t : State) (d a : BitVec 5) (ws : List Word) (v : Nat), s.ready → s.me.plain a → s.me.free d → t.me.free d →
    let x := s.me.reg a.toNat
    let va := x.toNat
    let b := s.begun 4
    let down : Nat → Option Nat := fun v => if v % 2 ^ 64 = 0 then none else if v % 2 ^ 64 = 1 then some 0 else some (v - 1)
    let onTask := ¬(isCore s.cur.unit = true ∧ 6 ≤ s.cur.slot)
    (va % 16 = 0 → performed s s.cur.unit s.cur.slot = true → atomicAt b va 16 .both false down = .ok (t, v) →
      (v % 2 ^ 64 ≠ 1 → exec (.tdep a) s = .next t)
      ∧ (∀ r, v % 2 ^ 64 = 1 → releaseList t s.cur.unit (2 ^ 50) (w64 (v / 2 ^ 64)) = some r → exec (.tdep a) s = .next r))
    ∧ (s.onSpawn = true → va % 64 = 0 → va < windowBlock → loadWords b va 8 = .ok (t, ws) → contBad ws = none →
      (t.mode ≠ 0 ∨ contJob ws = t.mine.job ∧ contFresh ws = true) → releaseWaits t s.cur.unit va ws 0 = false →
      (onChip t (hintKey t s.cur.unit ws) (contPrio ws) < 256 ∨ jobDescWaits t (contJob ws) 48 = false) →
      (reserve t (hintKey t s.cur.unit ws) (contPrio ws) (contJob ws) = none → exec (.tspawn d a) s = .next (t.setX d 0x15))
      ∧ (∀ q place, reserve t (hintKey t s.cur.unit ws) (contPrio ws) (contJob ws) = some (q, place) → releaseWaits q s.cur.unit va ws place = false →
        performed t t.cur.unit t.cur.slot = true →
        (release q s.cur.unit va ws place).me.free d → exec (.tspawn d a) s = .next ((release q s.cur.unit va ws place).setX d 0)))
    ∧ (∀ q, s.onCore = true → onTask → needCounter b va = .ok t → taskDrained t → holdsLease t = false → atomicAt t va 16 .both false (fun _ => none) = .ok (q, v) →
      (v % 2 ^ 64 = 0 → rdcClean q q.cur.unit = true → exec (.twait a) s = .next q.acquired)
      ∧ (∀ r nw f o, v % 2 ^ 64 ≠ 0 → suspend q none (w64 (v / 2 ^ 64)) = .ok (r, nw) →
        atomicAt r va 16 .both false (fun v => some (v % 2 ^ 64 + put r.me.cont.toNat 64)) = .ok (f, o) →
        let g := { f with twaits := (f.mine.job, r.me.cont.toNat) :: f.twaits.filter fun w => w != (f.mine.job, r.me.cont.toNat) }
        exec (.twait a) s = .next (freeSlot (g.stowHeld g.cur.unit g.cur.slot) g.cur.unit g.cur.slot)))
    ∧ (s.onCore = true → onTask → needCounter b va = .ok t → taskDrained t → holdsLease t = true →
      exec (.twait a) s = .next (((endLeases t t.cur.unit).modMe fun h => { h with sg := b.me.sg, x := b.me.x }).again 4))
    ∧ (s.onCoreU = true → onTask → taskDrained s → holdsLease s = true → x = 0 →
      exec (.tsusp a) s = .next (((endLeases b s.cur.unit).modMe fun h => { h with sg := b.me.sg, x := b.me.x }).again 4))
    ∧ (s.onCoreU = true → onTask → taskDrained s → (s.me.ctr = 0 → exec .texit s = .next (freeSlot b s.cur.unit s.cur.slot))
      ∧ (s.me.ctr ≠ 0 → decrement b s.me.ctr.toNat = .ok t → exec .texit s = .next (freeSlot t t.cur.unit t.cur.slot)))
    ∧ (s.onCoreU = true → onTask → taskDrained s → holdsLease s = false →
      (∀ nw, x = 0 → suspend b none 0 = .ok (t, nw) → releaseWaits t t.cur.unit t.me.cont.toNat nw 1 = false →
        exec (.tsusp a) s
          = .next (release (freeSlot (t.stowHeld t.cur.unit t.cur.slot) t.cur.unit t.cur.slot) t.cur.unit t.me.cont.toNat nw 1))
      ∧ (∀ p nw, x = p ||| 0x8000000000000000#64 → p.getLsbD 63 = false → placementOk s.me.kind.toNat p = true → suspend b (some p) 0 = .ok (t, nw) →
        releaseWaits t t.cur.unit t.me.cont.toNat nw 1 = false →
        exec (.tsusp a) s
          = .next (release (freeSlot (t.stowHeld t.cur.unit t.cur.slot) t.cur.unit t.cur.slot) t.cur.unit t.me.cont.toNat nw 1)))
    ∧ (s.onCore = true → va < 16 → exec (.phase a) s = .next (phaseRequest b s.cur.unit (16 * wfld s.me.jobword 23 18 + va)))
    ∧ (∀ u k, (freeSlot s u k).hart u k = { Slot.reset with instret := (s.hart u k).instret, held := (s.hart u k).held })

/-- The mesh places tasks (16 R371 to R373): a walking task is offered to a station within its radius, goes one hop on toward its hint, and joins the
queue there; an idle slot takes the first entry that it may take of its own queue, or steals one of the nearest cluster that has one; an entry
that waits gains priority up to 3. -/
def Obligations.TaskSteps : Prop :=
  ∀ (s t : State) (i u k : Nat) (w : Walk) (e : BEntry) (rest : List BEntry),
    (s.walks[i]? = some w → removing s w.e.job = false →
      let here := 12 * w.y + w.x
      let hint := 12 * w.hy + w.hx
      let q := coreAt w.x w.y 0 / 4
      (∀ r k, hops here hint ≤ w.radius → slotFor s (4 * q + ((s.quad q).lastTaker + 1) % 4) w.e = some k →
        claimJob s (4 * q + ((s.quad q).lastTaker + 1) % 4) w.e.job = (t, true) →
        takeEntry (unreserve s (clusterOf hint) w.e) (unreserve t (clusterOf hint) w.e) (4 * q + ((s.quad q).lastTaker + 1) % 4) k w.e
          = some (r, true) →
        ∃ f, exec (.taskWalkOffer i) s = .next f ∧ f.walks = dropAt r.walks i ∧ f.harts = r.harts ∧ f.units = r.units ∧ f.mem = r.mem)
      ∧ ((w.radius < hops here hint ∨ ∀ j < 4, slotFor s (4 * q + j) w.e = none) → here ≠ hint →
        exec (.taskWalkOffer i) s = .next { s with walks := setAt s.walks i { w with x := hopToward here hint % 12, y := hopToward here hint / 12 } })
      ∧ ((∀ j < 4, slotFor s (4 * q + j) w.e = none) → here = hint →
        joinWaits s (16 * clusterOf hint) (clusterOf hint) w.e = false →
        exec (.taskWalkOffer i) s = .next (joinQueue { s with walks := dropAt s.walks i } (16 * clusterOf hint) (clusterOf hint) w.e)))
    ∧ ((isCore u = true ∨ isUcore u = true) → k < 6 →
      ((∀ f ∈ s.queueOf (queueKey u), mayTake s u k f = false) → exec (.queueTake u k) s = .next s)
      ∧ (∀ r, leaveWaits s u (queueKey u) e = false → serveOrder (s.queueOf (queueKey u)) = e :: rest → mayTake s u k e = true → claimJob s u e.job = (t, true) →
        takeEntry (leaveQueue s u (queueKey u) e) (leaveQueue t u (queueKey u) e) u k e = some (r, true) → exec (.queueTake u k) s = .next r))
    ∧ (∀ c cs r, isCore u = true → k < 6 → (∀ f ∈ s.queueOf (u / 16), mayTake s u k f = false) → stealOrder u = c :: cs →
      serveOrder (s.queueOf c) = e :: rest → leaveWaits s u c e = false → e.hmode ≠ 2 → mayTake s u k e = true → claimJob s u e.job = (t, true) →
      takeEntry (leaveQueue s u c e) (leaveQueue t u c e) u k e = some (r, true) → exec (.bazaarSteal u k) s = .next r)
    ∧ (∀ p, p < 18 → (s.queueOf p)[i]? = some e → ∃ r, exec (.bazaarAgeing p i) s = .next r
        ∧ r.queueOf p = setAt (s.queueOf p) i { e with boost := min 3 (e.boost + 1) } ∧ r.harts = s.harts ∧ r.mem = s.mem)

/-- The local step and the scalar stamped accesses (17 R392 to R402). STEPINC adds to hxstep or waits past the bounds of R393:
hxgstep + 2^21 - 1, and while a sweep of the job's domain runs for k, k + 2^21 - 1 (that they bind update cores too is the model's reading, log
entry 36); GSWAIT goes on as an acquire
once hxgstep has passed its bound, and waits until then; SLD reads a word with decay; SST, SADD and SMERGE rewrite it at its home slice. -/
def Obligations.StampedInstructionsComplete : Prop :=
  ∀ (s t : State) (d a c : BitVec 5) (w v : Nat) (g : Bool), s.ready → s.onCoreU = true → s.me.plain a → s.me.plain c → s.me.free d →
    let b := s.begun 4
    let x := (s.me.reg a.toNat).toNat
    let y := s.me.reg c.toNat
    let n := s.mine.step.toNat + x
    let may := ¬(s.onCore = true ∧ s.cur.slot = 6)
    let parked := (s.modMe Slot.unpark).modMe fun h =>
      { h with park := 13, await := 0, waitOn := some 0, woken := false, resv := none }
    (x = 0 → exec (.stepinc a) s = .next b)
    ∧ (∀ u m, (stepAllowed s u m = true ↔ m ≤ (s.unit u).gstep.toNat + (2 ^ 21 - 1) ∧ ∀ z, stepDomain s u = some z →
        (fget s.pkg.sweep z Sweep.reset).run = true → m ≤ (fget s.pkg.sweep z Sweep.reset).point.toNat + (2 ^ 21 - 1))
      ∧ stepDomain s u = (jobWord? s (s.unit u).job 0).map fun k => k.toNat / 2 ^ 18 % 2 ^ 3)
    ∧ (x ≠ 0 → x < 2 ^ 21 → n < 2 ^ 48 → stepAllowed s s.cur.unit n = true →
      exec (.stepinc a) s = .next (b.modMine fun u => { u with step := BitVec.ofNat 48 n }))
    ∧ (x ≠ 0 → x < 2 ^ 21 → n < 2 ^ 48 → stepAllowed s s.cur.unit n = false → may → exec (.stepinc a) s = .next parked)
    ∧ (x < s.mine.gstep.toNat → rdcClean s s.cur.unit = true → exec (.gswait a) s = .next b.acquired)
    ∧ (s.mine.gstep.toNat ≤ x → may → exec (.gswait a) s = .next parked)
    ∧ (x % 8 = 0 → loadAcc b x 8 .sread true false = .ok (t, w) → stampedRead t.mine w (stepOf t) = some (v, g) → t.me.free d →
      exec (.sld d a) s = .next ((t.flagMe (flagIf g fFUTURE)).setX d (w64 v)))
    ∧ (x % 8 = 0 → loadAcc b x 8 .sread true false = .ok (t, w) → stampedRead t.mine w (stepOf t) = none →
      exec (.sld d a) s = .next (s.trapped cStampWindow x (.sld d a)))
    ∧ (x % 8 = 0 → wfld y 55 32 = 0 → wfld y 63 61 = 0 →
      atomicAt b x 8 .swrite false (fun _ => some (swWord y.toNat (stepOf s) (wfld y 59 56) (wbit y 60))) = .ok (t, w) →
      exec (.sst a c) s = .next (t.flagMe 0))
    ∧ (x % 8 = 0 → wfld y 63 32 = 0 → atomicAt b x 8 .swrite false (fun w => (addAt s.mine w y.toNat (stepOf s)).map (·.1)) = .ok (t, w) →
      addAt s.mine w y.toNat (stepOf s) = some (v, g) → exec (.sadd a c) s = .next (t.flagMe (flagIf g fFUTURE)))
    ∧ (x % 8 = 0 → wfld y 63 61 = 0 → atomicAt b x 8 .swrite false (fun w => mergeAt s.mine w y.toNat) = .ok (t, w) →
      mergeAt s.mine w y.toNat = some v → exec (.smerge a c) s = .next (t.flagMe 0))

/-- How a stamped word is read (17 R396): of age 0 to 2^23 - 1 it decays by the factor of its class raised to its age; of age 2^24 - 2^22 and more it
is read as it is, with FUTURE; between, it is out of window. A settled word is read as it is (R397: a NaN as the canonical one). -/
def Obligations.StampedReads : Prop :=
  ∀ (x : UnitSt) (w r : Nat),
    let d := (r % 2 ^ 24 + 2 ^ 24 - w / 2 ^ 32 % 2 ^ 24) % 2 ^ 24
    let lambda := (fget x.dt (w / 2 ^ 56 % 16) 0x3F800000).toNat
    (w.testBit 60 = true → stampedRead x w r = some (canonFp32 (w % 2 ^ 32), false))
    ∧ (w.testBit 60 = false → d < 2 ^ 23 → stampedRead x w r = some (canonFp32 (decayValue (w % 2 ^ 32) lambda d), false))
    ∧ (w.testBit 60 = false → 2 ^ 24 - 2 ^ 22 ≤ d → stampedRead x w r = some (canonFp32 (w % 2 ^ 32), true))
    ∧ (w.testBit 60 = false → 2 ^ 23 ≤ d → d < 2 ^ 24 - 2 ^ 22 → stampedRead x w r = none)
    ∧ (w < 2 ^ 64 → w / 2 ^ 61 = 0 → swWord (swValue w) (swStamp w) (swClass w) (swSettled w) = w)

/-- Update windows and paired weights (17 R407 to R411). WINSET sets a window of an update core from a block at a home slice; VSTPAIR checks, reserves,
locks and commits: each slice grants at most 136 entries; the lines are locked in ascending order, each where it lies now (15 R363), and no L1 and no RDC keeps a copy of it; the bytes
of both copies are written in one step, which changes no other byte and frees the locks and reservations; inbound requests that waited for the lines go on, and then the
instruction ends. -/
def Obligations.PairInstructionsComplete : Prop :=
  ∀ (s t : State) (a c : BitVec 5) (k : VMask) (r : BitVec 4) (u : Nat), s.ready → s.me.plain a → s.me.plain c →
    let b := s.begun 4
    let x := s.me.reg a.toNat
    let y := (s.me.reg c.toNat).toNat
    let uc := ucoreOf (wfld x 6 4) (wfld x 3 2)
    (∀ w, s.onSys = true → wfld x 6 4 ≤ 5 → wfld x 63 7 = 0 → homePaOk s y 32 = true → pairLocked s (lineOf y) = false →
      windowOf (b.homeLoad y 32).2 = some w →
      let q := (b.homeLoad y 32).1
      ((fget (q.unit uc).windows (wfld x 1 0) UWindow.reset).grows w = true ∨ ucoreQuiet q uc = true) →
      exec (.winset a c) s = .next (q.modUnit uc fun z => { z with windows := fset z.windows (wfld x 1 0) w }))
    ∧ (s.onUcore = true → s.me.pipe = .idle → s.me.vill = false → (s.me.poison.contains (32 + r.toNat)) = false →
      (k.en = true → s.me.poison.contains (48 + k.sel.toNat) = false) →
      ∀ ds es bs q, loadBlock b y 32 32 = .ok (t, ds) →
        let n := ewBits s.me.ew / 8
        let el := (activeElems (ewBits s.me.ew) s.me.vl.toNat k s.me).map fun i => (i, getElem s.me r.toNat (ewBits s.me.ew) i)
        pairElems ds x n s.me.vl.toNat el = some es → elemPlaces t n es = .ok (q, bs) →
        ∃ f, exec (.vstpair r a c k) s = .next f ∧ f.mem = q.mem ∧ f.me.pc = q.me.pc - 4
          ∧ ∃ ls, f.me.pipe = .pair (if ls = [] then 2 else 0) ls [] bs
            ∧ ls = sortNat ((bs.filter fun p => decide (p.1 < 2 ^ 52)).map fun p => lineOf p.1))
    ∧ (s.onUcore = true → ∀ ls lk bs, s.me.pipe = .pair 3 ls lk bs →
      exec (.vstpair r a c k) s = .next (b.modMe fun h => { h with pipe := .idle }))
    ∧ (∀ ls lk bs p, (s.hart u 0).pipe = .pair 0 ls lk bs → (pairAsked s u).find? (fun p => !p.granted) = some p →
      ((s.station (p.slice / 8)).pairs.filter fun q => q.slice == p.slice).find? (fun q => !q.granted) = some p →
      ((((s.station (p.slice / 8)).pairs.filter fun q => q.slice == p.slice).filter fun q => q.granted).map fun q => q.n).sum + p.n ≤ 136 →
      let g := s.modStation (p.slice / 8) fun m => { m with pairs := m.pairs.map fun q => if q = p then { q with granted := true } else q }
      ((pairNeeds s ls).find? (fun q => decide (p.slice < q.1)) = none →
        exec (.pairReserveGrant u) s = .next (g.modHart u 0 fun h => { h with pipe := .pair 1 ls lk bs }))
      ∧ (∀ q, (pairNeeds s ls).find? (fun q => decide (p.slice < q.1)) = some q → exec (.pairReserveGrant u) s = .next (pairAsk g u q)))
    ∧ (∀ ls lk bs l, (s.hart u 0).pipe = .pair 1 ls lk bs → ls.find? (fun l => !lk.contains l) = some l →
      let l' := lineOf (redirectPa s (linePa l))
      pairLocked s l' = false → ∃ f, exec (.pairLineLock u) s = .next f ∧ f.mem = s.mem
        ∧ (∀ z ∈ f.l2, z.line = l' → z.pins ≠ []) ∧ (∀ c, f.l1Find c l' = none) ∧ (∀ d, f.rdcFind d l' = none)
        ∧ (f.hart u 0).pipe = .pair (if lk.length + 1 = ls.length then 2 else 1) (ls.map fun k => if k = l then l' else k) (lk ++ [l'])
            (if l' = l then bs else bs.map fun p => if lineOf p.1 = l then (redirectPa s p.1, p.2) else p))
    ∧ (∀ ls lk bs, (s.hart u 0).pipe = .pair 2 ls lk bs →
      let q := bs.foldl (fun t p => t.homeStore p.1 1 p.2.toNat) s
      let f := pairRelease q u (.pair 3 ls [] [])
      exec (.pairCommit u) s = .next (drainPorts f) ∧ (f.hart u 0).pipe = .pair 3 ls [] [] ∧ f.mem = q.mem
        ∧ (∀ m < 6, ∀ p ∈ (f.station m).pairs, p.unit ≠ u) ∧ ((∀ p < 8, (f.port p).inq = []) → drainPorts f = f)
        ∧ (s.Inv → (∀ c, (∀ p ∈ bs, c ≠ s.cell p.1) → f.byteAt c = s.byteAt c)
          ∧ ((bs.map fun p => s.cell p.1).Nodup → ∀ p ∈ bs, f.get p.1 1 = p.2.toNat)))

/-- The steps of the global step (17 R389, R390, R404). A publication gives each domain the value of `nextG`, and every unit whose job is of the domain
sees it. That value is a waiting write of GSTEPd, if there is one; else it is what it was, or the least report of the domain's live cores where that is
more. A write of GSTEPd waits for the next publication when no core of the domain is live and no update core has a job of it, sets GBADW when a core of
it is live, and only clears GBADW, where bit 63 asks for it, when the value is the one published. A sweep rewrites the next stamped word of its station; the restamp of a word in a range on its way out cancels the order (15 R364), which is
the model's reading (log entry 44). -/
def Obligations.GlobalStepSteps : Prop :=
  ∀ (s : State),
    (∃ t, exec .gstepPublish s = .next t ∧ t.mem = s.mem ∧ (∀ d, d < 8 → fget t.pkg.g d 0 = nextG s d)
      ∧ ∀ d u, d < 8 → u < 228 → stepDomain s u = some d → (t.unit u).gstep = nextG s d)
    ∧ (∀ d p, (s.pkg.gwrite.find? fun p => p.1 == d) = some p → nextG s d = p.2)
    ∧ (∀ d, (s.pkg.gwrite.find? fun p => p.1 == d) = none →
      let g := fget s.pkg.g d 0
      ((∀ u, u < 192 → liveIn s d u = false) → nextG s d = g)
      ∧ (∀ u, u < 192 → liveIn s d u = true → (nextG s d).toNat ≤ max g.toNat (report s u)
        ∧ ∃ w, w < 192 ∧ liveIn s d w = true ∧ (nextG s d).toNat = max g.toNat (report s w)))
    ∧ (∀ d v, d < 8 → wbit v 63 = false → v.setWidth 48 ≠ fget s.pkg.g d 0 →
      (∀ u, u < 192 → liveIn s d u = false) → (∀ i, i < 24 → stepDomain s (204 + i) = some d → (s.hart (204 + i) 0).active = false) →
      exec (.gstepWrite d v) s = .next (s.modPkg fun p => { p with gwrite := fset p.gwrite d (v.setWidth 48) }))
    ∧ (∀ d v u, d < 8 → wbit v 63 = false → v.setWidth 48 ≠ fget s.pkg.g d 0 → u < 192 → liveIn s d u = true →
      exec (.gstepWrite d v) s = .next (s.modPkg fun p => { p with gbadw := fset p.gbadw d true }))
    ∧ (∀ d v, d < 8 → v.setWidth 48 = fget s.pkg.g d 0 →
      exec (.gstepWrite d v) s = .next (if wbit v 63 then s.modPkg fun p => { p with gbadw := fset p.gbadw d false } else s))
    ∧ (∀ d m pa, d < 8 → (fget s.pkg.sweep d Sweep.reset).run = true → nextStamped s d m = some pa → sweepHeld s d pa = false →
      let sw := fget s.pkg.sweep d Sweep.reset
      let q := s.homeLoad pa 8
      let w := (sweepWord (sweepLambda s d) sw.point.toNat q.2).1
      ∃ t, exec (.wrapSweepWord d m pa) s = .next t ∧ t.mem = (if w = q.2 then q.1 else (sweepCancel q.1 d pa).homeStore pa 8 w).mem)

/-- The range instructions (15 R353 to R360). RINS, RSPLIT, RMERGE, RINVAL and RRES check their descriptors at the home slice, act as FENCE.S at system scope,
send one broadcast and stay in the pipe; once every table has applied it and its spans are drained, they end. RPROBE returns the descriptor and state that
the walk finds, or bit 63. RMOVE, BOFFL and BRET return 1 for a range in another state and 2 when the engine's four orders are taken; else they write
the state, broadcast it, hand the order over and return 0. -/
def Obligations.RangeInstructionsComplete : Prop :=
  ∀ (s t : State) (d a c : BitVec 5) (e : RangeEntry), s.ready → s.onSys = true → s.me.plain a → s.me.plain c → t.me.free d →
    let b := s.begun 4
    let x := (s.me.reg a.toNat).toNat
    let y := (s.me.reg c.toNat).toNat
    (∀ i n j vb off sp, i ∈ ([.rins a, .rsplit a c, .rmerge a c, .rinval a, .rres a c] : List Instr) → s.me.pipe = .broadcast n j vb off sp →
      allSeen s n = true → (∀ p ∈ sp, drained s j vb off p.1 p.2 n false = true) → exec i s = .next (b.modMe fun h => { h with pipe := .idle }))
    ∧ (s.me.pipe = .idle → normalDesc b x = .ok (t, e) → orderOk t 6 true true →
      exec (.rins a) s = .next (sendAndWait t.acquired (.drop e.job e.vbase e.last) e.job none none
        ((e.vbase, e.last) :: staleSpans t.acquired e))
      ∧ (y % 256 = 0 → e.vlimit + 256 = y → exec (.rsplit a c) s = .next (sendAndWait t.acquired
        (.split e y (((walk? t.acquired y e.job).map (·.desc)).getD e.desc)) e.job none none []))
      ∧ (∀ q u, rawDesc t y = .ok (q, u) → orderOk q 6 true true → e.vbase < u.vbase → u.vlimit = e.vlimit → u.offset = e.offset →
        (u.nowin = true ∧ e.nowin = true ∨ u.wholeWindow = true ∧ e.wholeWindow = true) → u.state = stInvalid → u.job = e.job →
        u.r = e.r → u.w = e.w → u.x = e.x → u.s = e.s → u.n = e.n →
        exec (.rmerge a c) s = .next (sendAndWait q.acquired (.merge u.vbase e) e.job none none []))
      ∧ (∀ q ws n, homePaOk t y 16 = true → backed t (y + 15) = true → homeBlock t y 16 = .ok (q, ws) → orderOk q 6 true true →
        nthWord ws 0 &&& 0x7F000000000000FF#64 = 0 → nthWord ws 1 &&& 0xFF000000000000FF#64 = 0 →
        n = { e with nowin := wbit (nthWord ws 0) 63, rlo := wfld (nthWord ws 0) 55 8 * 256, rhi := wfld (nthWord ws 1) 55 8 * 256 } →
        (n.nowin = true ∨ e.vbase ≤ n.rlo ∧ n.rlo ≤ n.rhi ∧ n.rhi ≤ e.vlimit) →
        exec (.rres a c) s = .next (sendAndWait (writeDesc q.acquired n) (.update n) e.job (some e.vbase) (some e.offset)
          (if e.nowin then [] else lostBytes e.rlo (e.rhi + 255) n))))
    ∧ (s.me.pipe = .idle → rawDesc b x = .ok (t, e) → orderOk t 6 true true → e.state = stInvalid → findOrder t e.job e.vbase (fun _ => true) = none →
      exec (.rinval a) s
        = .next (sendAndWait t.acquired (.dropBase e.job e.vbase) e.job (some e.vbase) (some e.offset) [(e.vbase, e.last)]))
    ∧ (∀ ws, homePaOk s x 16 = true → backed s (x + 15) = true → homeBlock b x 16 = .ok (t, ws) → wfld (nthWord ws 1) 63 16 = 0 →
      (walk? t (nthWord ws 0).toNat ((nthWord ws 1).setWidth 16) = none → exec (.rprobe d a) s = .next (t.setX d 0x8000000000000000))
      ∧ (walk? t (nthWord ws 0).toNat ((nthWord ws 1).setWidth 16) = some e →
        exec (.rprobe d a) s = .next (t.setX d (w64 (e.desc % 2 ^ 52 / 64 * 64 + e.state.toNat)))))
    ∧ (∀ form i q ws, (form, i) ∈ ([(.move, .rmove d a c), (.offload, .boffl d a c), (.back, .bret d a c)] : List (OrderForm × Instr)) →
      orderDesc b x = .ok (q, e) → homePaOk q y 32 = true → backed q (y + 31) = true → homeBlock q y 32 = .ok (t, ws) →
      wfld (nthWord ws 0) 7 0 = 0 → homePaOk t (nthWord ws 1).toNat 8 = true → wbit (nthWord ws 2) 63 = false → nthWord ws 3 = 0 →
      let refused := e.state ≠ stNormal ∨ form = .back ∧ mapsInto t e e.offset (fun r => decide (r < 2)) = true
      let m := (homeOf t (addOff e.vbase (if form = .offload then e.offset else nthWord ws 0))).station
      let n := { e with state := orderState form, noff := nthWord ws 0, cursor := e.vbase }
      let r := (writeDesc t.acquired n).broadcast (.update n)
      (refused → exec i s = .next (t.setX d 1))
      ∧ (¬ refused → regionRule t form e (nthWord ws 0) = true → 4 ≤ (t.station m).orders.length → exec i s = .next (t.setX d 2))
      ∧ (¬ refused → regionRule t form e (nthWord ws 0) = true → (t.station m).orders.length < 4 → orderOk t 6 true true → r.me.free d →
        exec i s = .next ((r.modStation m fun z => { z with orders := z.orders ++ [
          { form := form, entry := n, noff := nthWord ws 0, cword := (nthWord ws 1).toNat, cval := nthWord ws 2, phase := .drain,
            pos := e.vbase, seen := r.bcasts.length }] }).setX d 0)))
    ∧ (∀ bc j vb off sp, let f := sendAndWait t bc j vb off sp
      f.bcasts = t.bcasts ++ [bc] ∧ f.mem = t.mem ∧ f.me.pc = t.me.pc - 4 ∧ f.me.pipe = .broadcast (t.bcasts.length + 1) j vb off sp
        ∧ f.units = t.units)

/-- The steps behind ranges and orders (15 R353 to R364). The next broadcast reaches a unit's table, and counts as seen there; the ports take it with unit 0 (the model's
choice, log entry 34), and their requests that waited go on. An order whose entry is drained begins to copy; each step of it copies one line, with its poison, from the old place to the
new one, and publishes the cursor in the descriptor and by a broadcast after every 16 lines and after the last; then the descriptor is switched and broadcast; once
that is seen and drained CVAL is written to CWORD and the order is gone. A moving entry whose access lies below the engine's cursor takes that cursor. A write under an
outbound range cancels its order before the switch: the descriptor is normal again, and CWORD holds ABORTED with the address; after the switch it changes nothing. -/
def Obligations.RangeSteps : Prop :=
  ∀ (s : State) (u m i : Nat) (o : Order),
    (∀ bc, u < 244 → s.bcasts[(s.unit u).bseen]? = some bc →
      let t := s.bcastArrive u
      exec (.rangeBroadcastArrival u) s = .next (if u = 0 then drainPorts t else t)
        ∧ (t.unit u).ranges = applyBcast (tableSize u) (s.unit u).ranges bc ∧ (t.unit u).bseen = (s.unit u).bseen + 1 ∧ t.mem = s.mem
        ∧ (u = 0 → ∀ p, p < 8 → t.tableOf (244 + p) = applyBcast 64 (s.tableOf (244 + p)) bc))
    ∧ ((s.station m).orders[i]? = some o →
      let src := addOff o.pos o.entry.offset
      let dst := addOff o.pos o.noff
      (o.phase = .drain → orderDrained s o (o.form == .offload) = true → exec (.orderDrainEnd m i) s = .next (setOrder s m i { o with phase := .copy }))
      ∧ (o.phase = .copy → o.pos ≤ o.entry.last → pairLocked s (lineOf src) = false → pairLocked s (lineOf dst) = false →
        pairLocked s (lineOf o.entry.desc) = false →
        let h := homeLine (if o.form = .move then lockOld s (lineOf src) else s) (lineOf src)
        let c := sweepMove ((upTo 4).foldl (fun t f => if h.2.2.getLsbD f then t.addPoison (dst / 64 + f) else t) (h.1.homeStore dst 256 h.2.1.toNat))
          o src dst
        let o2 := { o with pos := o.pos + 256 }
        let publishes := (o2.pos - o.entry.vbase) / 256 % 16 = 0 ∨ o.entry.last < o2.pos
        let t := setOrder (if publishes then publishCursor c o2 else c) m i o2
        exec (.orderCopyLine m i) s = .next t ∧ h.2.1 = BitVec.ofNat 2048 (s.get (linePa (lineOf src)) 256) ∧ orderAt t m i = some o2
          ∧ t.bcasts = (if publishes then s.bcasts ++ [.cursor o.entry.job o.entry.vbase o2.pos] else s.bcasts)
          ∧ t.mem = (if publishes then (writeDesc c { o.entry with cursor := o2.pos }).mem else c.mem))
      ∧ (o.phase = .copy → o.entry.last < o.pos → pairLocked s (lineOf o.entry.desc) = false → ∃ t, exec (.orderSwitch m i) s = .next t
        ∧ orderAt t m i = some { o with phase := .switched, seen := s.bcasts.length + 1 } ∧ t.bcasts = s.bcasts ++ [.update (finalEntry o)]
        ∧ t.mem = (writeDesc s (finalEntry o)).mem)
      ∧ (o.phase = .switched → orderDrained s o false = true → pairLocked s (lineOf o.cword) = false → ∃ t, exec (.orderCompletion m i) s = .next t
        ∧ t.mem = (s.homeStore o.cword 8 o.cval.toNat).mem ∧ (t.station m).orders = dropAt (s.station m).orders i))
    ∧ (∀ va e c, lookup? s u (s.unit u).job va.toNat = some e → e.state = stMoving → e.cursor ≤ va.toNat → redirectCursor s e va.toNat = some c →
      exec (.redirect u va) s = .next (s.setTable u ((s.tableOf u).map fun f => if f = e then { e with cursor := c } else f)))
    ∧ (∀ va e, lookup? s u (s.unit u).job va.toNat = some e → e.state = stOutbound → e.w = true → orderOf s .offload e = some (m, i, o) →
      (o.phase = .switched → exec (.orderCancel u va) s = .next s)
      ∧ (o.phase ≠ .switched → cancelWaits s o = false → ∃ t, exec (.orderCancel u va) s = .next t ∧ (t.station m).orders = dropAt (s.station m).orders i
        ∧ t.bcasts = s.bcasts ++ [.update { o.entry with state := stNormal, cursor := o.pos }]
        ∧ t.mem = ((writeDesc s { o.entry with state := stNormal, cursor := o.pos }).homeStore o.cword 8
            (0x8002000000000000 + va.toNat % 2 ^ 56)).mem))

/-- A vector instruction on a core is handed to its quad's vector unit (01 R49): its operands are captured, the slot parks with PARK 7 at the instruction, and the
unit holds what it was handed last of all; nothing else of the slot changes but the pending prefix, which is used, and the reservation; of the core only the
states of its random generator that the form claims (02 R63). -/
def Obligations.VectorHandOff : Prop :=
  ∀ (s : State) (d a b : BitVec 4) (x y r : BitVec 5) (k l n : BitVec 2) (p : Pred) (mk : VMask) (i : Instr) (g : VKind),
    s.onCore = true → s.me.plain x → s.me.plain y → (i, g) ∈ vectorForms d a b x y r k l n p mk → (s.ready ∨ takesFormats g = true) →
    vHeld g (handedOver i g (s.begun 4)) (s.begun 4) = false →
    ∃ t, exec i s = .next t
      ∧ t.me = { s.me with park := 7, await := 0, waitOn := none, resv := none, pp := false, pfx := 0 }
      ∧ (∀ u j, hartKey u j ≠ hartKey s.cur.unit s.cur.slot → t.hart u j = s.hart u j) ∧ t.mem = s.mem
      ∧ (∀ u, u ≠ s.cur.unit → t.unit u = s.unit u) ∧ { t.mine with lfsr := s.mine.lfsr } = s.mine
      ∧ (t.quad (quadOf s.cur.unit)).vwait = (s.quad (quadOf s.cur.unit)).vwait ++ [handedOver i g (s.begun 4)]

/-- What a vector instruction does (05 R147 to R161), as an update core runs it in one step: with a legal form, plain x-register operands and no poisoned source, each
form writes exactly its destination elements, mask or x-register and its flags, and uses up the prefix. -/
def Obligations.VectorComputeCompletes : Prop :=
  ∀ (s : State) (d a b : BitVec 4) (x y r : BitVec 5) (k l n : BitVec 2) (p : Pred) (mk : VMask) (i : Instr) (g : VKind) (f : Nat × Nat × Nat),
    s.onUcore = true → s.me.plain x → s.me.plain y → s.me.free r → (i, g) ∈ vectorForms d a b x y r k l n p mk →
    (s.ready ∨ takesFormats g = true) →
    let o := handedOver i g (s.begun 4)
    vCheck g o = some f → (∀ z ∈ g.sources, s.me.poison.contains z = false) →
    let t := (vClaim g o (s.begun 4)).noPrefix
    let h := s.me
    let c := vCtx s.cur.unit h g o f
    let el := fun (v : BitVec 4) (j : Nat) => getElem h v.toNat c.w j
    (∀ op d q b mk, g = .arith op d q b mk → exec i s = .next (t.modMe fun z =>
      arith c z d (fun j => op.exact (q.val c h o j) (opB c h b j) (opD c h d j)) (if op = .rsq ∨ op = .exp2 ∨ op = .log2 then c.fd != vF32 else true)))
    ∧ (∀ m q b p mk, g = .cmp m q b p mk → exec i s = .next (t.modMe fun z => compare c z m p (q.val c h o) (opB c h b)))
    ∧ (∀ d q b m, g = .sel d q b m → exec i s = .next (t.modMe fun z => raw c z d (upTo c.vl) fun j =>
      if (fget h.m m.toNat 0).getLsbD (j * c.w / 32) then q.raw c h o j else el b j))
    ∧ (∀ op d q b mk, g = .bit op d q b mk → exec i s = .next (t.modMe fun z => raw c z d c.act fun j => op.on (q.raw c h o j) (el b j)))
    ∧ (∀ op d q b mk, g = .shift op d (.v q) b mk → exec i s = .next (t.modMe fun z => raw c z d c.act fun j => op.on c.w (el q j) (el b j)))
    ∧ (∀ op d q b mk, g = .shift op d (.x q) b mk → exec i s = .next (t.modMe fun z => raw c z d c.act fun j => op.on c.w (el b j) o.xa.toNat))
    ∧ (∀ d b mk, g = .cvt d b mk → exec i s = .next (t.modMe fun z => convert c z d b (o.pfx.getLsbD 2)))
    ∧ (∀ d a b mk, g = .qnt d a b mk → exec i s = .next (t.modMe fun z => quantise c z d a b c.fd))
    ∧ (∀ d a b mk, g = .red .sum d a b mk → exec i s = .next (t.modMe fun z => reduceSum c z d a b))
    ∧ (∀ d a b mk, g = .red .max d a b mk → exec i s = .next (t.modMe fun z => reduceBest c z d a b Val.maxNum))
    ∧ (∀ d a b mk, g = .red .min d a b mk → exec i s = .next (t.modMe fun z => reduceBest c z d a b Val.minNum))
    ∧ (∀ d a b mk, g = .slide d (.v a) b mk → exec i s = .next (t.modMe fun z => slide c z d b (sInt 32 (getElem h a.toNat 32 0))))
    ∧ (∀ d a b mk, g = .slide d (.x a) b mk → exec i s = .next (t.modMe fun z => slide c z d b o.xa.toInt))
    ∧ (∀ d a b mk, g = .perm d a b mk → exec i s = .next (t.modMe fun z => raw c z d c.act fun j => if el a j < c.vl then el b (el a j) else 0))
    ∧ (∀ d a mk, g = .bcst d a mk → exec i s = .next (t.modMe fun z => raw c z d c.act fun _ => o.xa.toNat))
    ∧ (∀ d a, g = .mvxv d a → exec i s = .next (t.modMe fun z => raw c z d [0] fun _ => o.xa.toNat))
    ∧ (∀ d b, g = .mvvx d b → exec i s = .next (t.setX d (w64 (el b 0))))
    ∧ (∀ op d a b, g = .mask op d a b → exec i s = .next (t.modMe fun z =>
      z.setMask d.toNat (maskBits c (w64 (op.on (fget h.m a.toNat 0).toNat (fget h.m b.toNat 0).toNat)))))
    ∧ (∀ d a, g = .mnot d a → exec i s = .next (t.modMe fun z => z.setMask d.toNat (maskBits c (~~~ fget h.m a.toNat 0))))
    ∧ (∀ d a, g = .mpop d a → exec i s = .next (t.setX d (w64 (popcount (ceilDiv (c.vl * c.w) 32) (fget h.m a.toNat 0).toNat))))

/-- The vector memory and stamped forms (05 R144, R159, 17 R403), as an update core runs them: a load writes each active element, a store writes each at its address in
increasing index; VLUT's table is aligned to its size; the stamped forms read with decay, write at the issue step, or add, under the decay table at issue, all elements checked first. -/
def Obligations.VectorMemoryCompletes : Prop :=
  ∀ (s u : State) (d a b : BitVec 4) (x y r : BitVec 5) (k l n : BitVec 2) (p : Pred) (mk : VMask) (i : Instr) (g : VKind) (f : Nat × Nat × Nat)
    (ys : List (Nat × Nat)) (future : Bool),
    s.ready → s.onUcore = true → s.me.plain x → s.me.plain y → (i, g) ∈ vectorForms d a b x y r k l n p mk →
    let o := handedOver i g (s.begun 4)
    vCheck g o = some f → (∀ z ∈ g.sources, s.me.poison.contains z = false) →
    let t := (vClaim g o (s.begun 4)).noPrefix
    let c := vCtx s.cur.unit s.me g o f
    let xs := (vAddrs g c s.me o).1
    let own := fun (q : BitVec 4) w => xs.map fun z => (getElem s.me q.toNat w z.1, z.2)
    (∀ d a j mk, g = .mem false d a j mk → loadElems t (c.w / 8) xs = .ok (u, ys) →
      exec i s = .next (u.modMe fun z => z.setElems c.lanes d.toNat c.w ys))
    ∧ (∀ q a j mk, g = .mem true q a j mk → storeElems t s.mine.step (c.w / 8) .store (own q c.w) = .ok u → exec i s = .next u)
    ∧ (∀ d a j mk, g = .lut d a j mk → o.xa.toNat % (32 * c.w) = 0 → loadElems t (c.w / 8) xs = .ok (u, ys) →
      exec i s = .next (u.modMe fun z => z.setElems c.lanes d.toNat c.w ys))
    ∧ (∀ d a mk, g = .stamped .ld d a mk → stampedLoads t { t.mine with dt := s.mine.dt } (s.mine.step.toNat % 2 ^ 24) xs = .ok (u, ys, future) →
      exec i s = .next ((u.modMe fun z => z.setElems c.lanes d.toNat 32 ys).flagMe (flagIf future fFUTURE)))
    ∧ (∀ q a mk, g = .stamped .st q a mk →
      stampedStores t (own q 32) (fun v w => some (swWord v (s.mine.step.toNat % 2 ^ 24) (swClass w) (swSettled w), false)) = .ok u → exec i s = .next u)
    ∧ (∀ q a mk, g = .stamped .add q a mk →
      stampedStores t (own q 32) (fun v w => addAt s.mine w v (s.mine.step.toNat % 2 ^ 24)) = .ok u → exec i s = .next u)

/-- The vector unit (05 R142, R163, 01 R49) and VLGR (05 R138). The instruction that has waited longest takes one of four places, or traps when its form is illegal (that the check is
made there, and that a trap puts back what the hand-off popped of a stream, are the model's choice, log entry 26); one that completes leaves with its result, its PC past it, or traps with nothing
written, waits for a line, or waits its turn for a request; once the job's removal has started a trap is a cause of the removal (20 R445, R453) and nothing else; VLGR sets the
length and element width. -/
def Obligations.VectorUnitSteps : Prop :=
  ∀ (s : State) (q j : Nat) (o : VOp) (rest : List VOp) (k : VKind) (d a : BitVec 5) (w : EWidth), vkind o.i = some k →
    let leave := o.putBack (o.leave (s.modQuad q fun x => { x with vwait := rest }))
    let done := o.leave (s.modQuad q fun x => { x with vunit := dropAt x.vunit j })
    ((s.quad q).vwait = o :: rest → (s.quad q).vunit.length < 4 →
      (∀ f, vCheck k o = some f →
        exec (.vectorUnitEnter q) s = .next (s.modQuad q fun x => { x with vwait := rest, vunit := x.vunit ++ [o] }))
      ∧ (vCheck k o = none →
        (removing s (s.unit o.agent.unit).job = false →
          exec (.vectorUnitEnter q) s = .next (s.back (takeTrap leave cIllegal (instrWord o.i) (instrWord o.i))))
        ∧ (removing s (s.unit o.agent.unit).job = true →
          exec (.vectorUnitEnter q) s = .next (s.back (discardedTrap leave cIllegal (instrWord o.i))))))
    ∧ (∀ f r, (s.quad q).vunit[j]? = some o → vCheck k o = some f →
      let t := (done.advance 4).noPrefix
      (vRun k o f t = .ok r → exec (.vectorComplete q j) s = .next (s.back r))
      ∧ (∀ z, vRun k o f t = .error (.hold z) → exec (.vectorComplete q j) s = .next s)
      ∧ (vRun k o f t = .error .request → exec (.vectorComplete q j) s
          = .next (s.waitTurn o.agent.unit (o.agent.slot, (s.hart o.agent.unit o.agent.slot).instret.toNat)))
      ∧ (∀ ca v, vRun k o f t = .error (.trap ca v) →
        (removing s (s.unit o.agent.unit).job = false → exec (.vectorComplete q j) s = .next (s.back (takeTrap (o.putBack done) ca v (instrWord o.i))))
        ∧ (removing s (s.unit o.agent.unit).job = true → exec (.vectorComplete q j) s = .next (s.back (discardedTrap (o.putBack done) ca v)))))
    ∧ (s.ready → s.onCoreU = true → s.me.plain a → s.me.free d →
      let most := 32 * lanesOf s.cur.unit / (8 * 2 ^ (w.code.setWidth 2).toNat)
      let vl := if a = 0 then most else min (s.me.reg a.toNat).toNat most
      exec (.vlgr d a w) s
        = .next (((s.begun 4).modMe fun h => { h with vl := BitVec.ofNat 9 vl, vill := false, ew := w.code.setWidth 2 }).setX d (w64 vl)))

/-- What a form writes, element by element (05 R135 to R141, R147): in a rounding mode that claims no generator state, each active element of an arithmetic form is the
one encoding of its exact result; a raw form's is the value given; every other element and register stays. -/
def Obligations.VectorElementsWritten : Prop :=
  ∀ (h : Slot) (c : VCtx) (d : BitVec 4) (ex : Nat → Exact) (f : Nat → Nat) (claims : Bool) (is : List Nat) (e : BitVec 4) (j : Nat),
    (c.act.Nodup → (∀ i ∈ c.act, vWidth c.fd * (i + 1) ≤ 2048) → c.rm ≠ 2 →
      (j ∈ c.act → getElem (arith c h d ex claims) d.toNat (vWidth c.fd) j
        = (vEncode c.fd (ex j) c.rm false c.lfsr.toNat).1 % 2 ^ vWidth c.fd)
      ∧ (j ∉ c.act → vWidth c.fd * (j + 1) ≤ 2048 →
        getElem (arith c h d ex claims) d.toNat (vWidth c.fd) j = getElem h d.toNat (vWidth c.fd) j)
      ∧ (e ≠ d → ∀ n, getElem (arith c h d ex claims) e.toNat n j = getElem h e.toNat n j))
    ∧ (is.Nodup → (∀ i ∈ is, c.w * (i + 1) ≤ 2048) →
      (j ∈ is → getElem (raw c h d is f) d.toNat c.w j = f j % 2 ^ c.w)
      ∧ (j ∉ is → c.w * (j + 1) ≤ 2048 → getElem (raw c h d is f) d.toNat c.w j = getElem h d.toNat c.w j)
      ∧ (e ≠ d → ∀ n, getElem (raw c h d is f) e.toNat n j = getElem h e.toNat n j))

/-- A tile command word on slot 0 enters the tile input queue with the registers that its form names (01 R36); slot 0 goes on past it, and it is not counted in
`instret` before it retires. With eight words queued, or 40 words that the front end holds in all, slot 0 parks with PARK 11 instead. A word that fails
decode is captured too, whatever prefix is pending, and its fault is found at rename (03 R90, 01 R46). -/
def Obligations.TileCommandsAreCaptured : Prop :=
  (∀ (s : State) (t : Tcw) (i : Instr), s.ready → s.onTile = true → i ∈ tileForms t →
    (capturesPlain s i t → s.mine.fe.inq.length < 8 → s.mine.fe.held < 40 → exec i s = .next (((s.begun 32).modMine fun u =>
      { u with fe := { u.fe with inq := u.fe.inq ++ [captured s i t] } }).modMe fun h => { h with instret := s.me.instret }))
    ∧ (8 ≤ s.mine.fe.inq.length ∨ 40 ≤ s.mine.fe.held → exec i s = .next ((s.modMe Slot.unpark).modMe fun h =>
      { h with park := 11, await := 0, waitOn := some 0, woken := false, resv := none })))
  ∧ (∀ (s : State) (w : BitVec 256), s.onTile = true → s.mine.fe.inq.length < 8 → s.mine.fe.held < 40 →
    exec (.vacantEncoding w true) s = .next (((s.begun 32).modMine fun u =>
      { u with fe := { u.fe with inq := u.fe.inq ++
        [{ tcw := w, addr := s.me.pc, base := 0, stride := 0, aux := 0, aux2 := 0, cbr := 0, cvr := 0, step := s.mine.step }] } }).modMe
          fun h => { h with instret := s.me.instret }))

/-- The tile front end, step by step (01 R38 to R43). A word is renamed into a reorder-buffer entry, with its destination's slots and the E and SK values after it, or with its fault;
an instruction whose sources are there issues to a free unit, a memory form once its chunk condition holds, its places are found and, where it goes beyond L1 and the windows, one of the
core's requests is free (09 R241); a TMMAD's rows arrive one by one, each pinned and read at its home, unless a VSTPAIR holds its line or it would
be the ninth way pinned (09 R237), and the box is complete with the last (07 R211); a tile ALU or matrix
instruction completes with its result, the latter once its issue cycles are over; a load with the image of the places that it found at issue, read when it completes (that it keeps
them so is the model's reading, log entry 28); the head retires into its tile, whose former slots are free again (01 R38), and is counted, and with a TFENCE the tile stores before it become accesses of slot 0. What the tile ALU's moving forms compute (06 R183 to R188): TMOV copies any shape, TZERO writes zeros of its shape, the other
forms write a narrow tile or, for TRED to a queue, a word; the matrix forms write a wide tile (07 R206). -/
def Obligations.TileSteps : Prop :=
  (∀ (s : State) (u r : Nat),
    (∀ e fe, renameOn s u = true → nextTcw (s.fe u) = some (e, fe) → fe.rob.length < 32 →
      let i := decodeTcw e.tcw
      (∀ f, renameFault s u i ⟨e.tcw⟩ e = some f → ∃ t x, exec (.tileRename u) s = .next t ∧ (t.fe u).rob = fe.rob ++ [x]
          ∧ x.fault = some f ∧ x.phase = .complete ∧ x.e = e ∧ x.dest = none ∧ (t.fe u).free = fe.free ∧ t.mem = s.mem)
      ∧ (∀ es sk m, renameFault s u i ⟨e.tcw⟩ e = none → renameRegs s u i ⟨e.tcw⟩ e = .ok (es, sk, m) →
        let n := ((destShape fe i ⟨e.tcw⟩).map slotsOf).getD 0
        n ≤ fe.free → ∃ t x, exec (.tileRename u) s = .next t ∧ (t.fe u).rob = fe.rob ++ [x] ∧ x.fault = none ∧ x.i = i ∧ x.e = e
          ∧ x.dest = (destShape fe i ⟨e.tcw⟩).map (fun _ => (Tcw.td ⟨e.tcw⟩).toNat) ∧ x.slots = n ∧ (t.fe u).free = fe.free - n
          ∧ x.eAfter = es ∧ x.skAfter = sk ∧ (t.fe u).e = es ∧ (t.fe u).sk = sk ∧ x.lfsr = (s.unit u).lfsr ∧ t.mem = s.mem))
    ∧ (∀ x, (s.fe u).entry r = some x → (((s.fe u).older r).all fun y => tileUnit y.i != tileUnit x.i) = true →
      x.phase = .renamed → x.fault = none → unitFree (s.fe u) (tileUnit x.i) = true → tileMemHeld s u x = false →
      x.id = r → (s.fe u).ready x = true →
      (tileUnit x.i = .alu →
        exec (.tileIssue u r) s = .next (s.modRob u r fun y => { y with phase := .issued }))
      ∧ (∀ q ps, tileUnit x.i = .engine ∨ tileUnit x.i = .fetch → rowsOpen s u x = true → chunkHidden x = false →
        formPieces (s.asHart u 0) x (wideSource (s.fe u) x) true = .ok (q, ps) →
        let far := beyondL1 q u x ps || listFar s u x
        (far = false ∨ requestFree s u (24, r) (24, r) = true) →
        exec (.tileIssue u r) s = .next ((s.back q).modRob u r fun y =>
          { y with phase := .issued, env := envNow s u x, places := ps.map fun p => (p.off, p.p.pa, p.n), spans := ps.map fun p => (p.p.va, p.p.pa, p.n, p.p.bypass),
                   bypass := Tcw.hint ⟨x.e.tcw⟩, request := far })))
    ∧ (∀ x a b c, (s.fe u).entry r = some x → x.id = r → x.fault = none → (s.fe u).value x.a = some a → (s.fe u).value x.b = some b →
      (s.fe u).value x.c = some c →
      (x.phase = .issued → tileUnit x.i = .alu →
        (poisonedOperand a b c Tile.reset = none → (aluForm s u x a b c).qval = none →
          exec (.tileComplete u r) s = .next (s.modRob u r fun y =>
            { y with result := (aluForm s u x a b c).result, flags := (aluForm s u x a b c).flags, qval := none, phase := .complete }))
        ∧ (∀ v, poisonedOperand a b c Tile.reset = some v →
          exec (.tileComplete u r) s = .next (s.modRob u r fun y => { y with fault := some (cPoison, v), phase := .complete })))
      ∧ (∀ acc, x.phase = .started → issuing s u r = false → (s.fe u).value x.acc = some acc → poisonedOperand a b c acc = none →
        let q := s.unpin (boxPin u r)
        exec (.tileComplete u r) s = .next (finishEntry q u r (matrixForm q u x a b c acc))))
    ∧ (∀ x t, (s.fe u).entry r = some x → x.id = r → x.fault = none → x.phase = .issued → piecesWait s u x = false →
      (∀ q img, x.i ∈ ([.tld t, .tldh t, .tgath t, .trest t] : List Instr) →
        (x.request = true ∨ piecesFar s u x (heldPieces s x) = false ∨ requestFree s u (24, r) (24, r) = true) →
        readPieces (s.asHart u 0) (!(Tcw.hint ⟨x.e.tcw⟩)) (heldPieces s x) = .ok (q, img) →
        exec (.tileComplete u r) s
          = .next (finishEntry (s.back q) u r { result := some (loadImage x.i ⟨x.e.tcw⟩ img), flags := 0, qval := none }))
      ∧ (x.i = .tmmad t → x.box = none →
        let rows := heldPieces s x
        let z := rows.foldl (fetchRow u) (s, x)
        (rows.all z.2.hasRow = false → exec (.tileComplete u r) s
          = .next (z.1.modRob u r fun y => { y with boxPart := z.2.boxPart, arrived := z.2.arrived }))
        ∧ (rows.all z.2.hasRow = true → (∀ p ∈ rows, z.2.arrived.contains (p.off, true) = false) → exec (.tileComplete u r) s
          = .next (z.1.modRob u r fun y => { y with boxPart := z.2.boxPart, arrived := z.2.arrived, box := some z.2.boxPart }))
        ∧ (∀ p, rows.all z.2.hasRow = true → rows.find? (fun p => z.2.arrived.contains (p.off, true)) = some p → exec (.tileComplete u r) s
          = .next (faultEntry (z.1.unpin (boxPin u r)) u r cPoison (w64 (p.p.va / 256 * 256))))))
    ∧ (∀ (x : RobEntry) (p : Piece), let line := lineOf p.p.pa
      let z := fetchRow u (s, x) p
      (x.hasRow p = true ∨ pairLocked s line = true ∨ canPin s line = false → z = (s, x))
      ∧ (x.hasRow p = false → pairLocked s line = false → canPin s line = true → z.1.mem = s.mem
        ∧ z.2.boxPart = x.boxPart ||| BitVec.ofNat 65536 (s.get p.p.pa p.n * 2 ^ (8 * p.off))
        ∧ z.2.arrived = x.arrived ++ [(p.off, (z.1.poisonIn p.p.pa p.n).isSome)]))
    ∧ (∀ x rest, (s.fe u).rob = x :: rest → x.phase = .complete → x.fault = none →
      ∃ t, exec (.tileRetire u) s = .next t ∧ (t.fe u).rob.map (fun y => y.id) = rest.map (fun y => y.id) ∧ (t.fe u).eRet = x.eAfter
        ∧ (t.fe u).skRet = x.skAfter ∧ t.mem = s.mem
        ∧ (∀ d, x.dest = some d → (t.fe u).tiles = fset (s.fe u).tiles d (x.result.getD Tile.reset)
          ∧ (t.fe u).free = (s.fe u).free + slotsOf (fget (s.fe u).tiles d Tile.reset).shape)
        ∧ (x.dest = none → (t.fe u).tiles = (s.fe u).tiles ∧ (t.fe u).free = (s.fe u).free)
        ∧ (t.fe u).writing = (s.fe u).writing ++ (if x.writes then
            [{ env := x.env, bytes := pieceBytes (x.result.getD Tile.reset).img.toNat x.places, spans := x.spans,
               poisoned := (x.result.getD Tile.reset).poison.isSome, bypass := x.bypass, request := x.request, step := x.e.step }] else [])
        ∧ (t.hart u 0).fflags = (s.hart u 0).fflags ||| x.flags ∧ (t.hart u 0).instret = (s.hart u 0).instret + 1
        ∧ (∀ w, x.i = .tfence w → (t.unit u).wt = (s.unit u).wt.map fun w => if w.slot = 8 then { w with slot := 0 } else w)
        ∧ ((∀ w, x.i ≠ .tfence w) → (t.unit u).wt = (s.unit u).wt)))
  ∧ (∀ (s : State) (u : Nat) (r : RobEntry) (a b c acc : Tile) (t : Tcw),
    (r.i = .tmov t → a.shape ≠ .unmapped → (aluForm s u r a b c).result = some { a with poison := none } ∧ (aluForm s u r a b c).flags = 0)
    ∧ (r.i = .tmov t → a.shape = .unmapped → (aluForm s u r a b c).result = some { shape := .narrow, h := 0, img := 0, poison := none })
    ∧ (r.i = .tzero t → (aluForm s u r a b c).result
        = some { shape := (if (Tcw.wide ⟨r.e.tcw⟩) then .wide else .narrow), h := 0, img := 0, poison := none })
    ∧ (r.i ∈ ([.tfill t, .tadd t, .tsub t, .tmul t, .tmax t, .tmin t, .tscl t, .ttrn t, .tred t, .tcvt t, .tqnt t, .tdeq t] : List Instr) →
      (∃ x, (aluForm s u r a b c).result = some x ∧ x.shape = .narrow ∧ x.poison = none) ∧ (aluForm s u r a b c).qval = none)
    ∧ (r.i = .tredQueue t → (aluForm s u r a b c).result = none ∧ (aluForm s u r a b c).qval.isSome = true)
    ∧ (∃ x, (matrixForm s u r a b c acc).result = some x ∧ x.shape = .wide ∧ x.poison = none))

/-- The ends of the tile stream's work (01 R41, R46 to R48, 06 R174, 07 R212): a retired store writes its bytes, where they lie now (15 R363), and no other byte of memory; the
head's fault discards what is not retired
into the replay list, with the E and SK values, the tiles and the free slots back at what has retired (01 R46), and is reported through slot 0 as a management trap at slot 0's PC, or is recorded while the core drains and reported later; the chunk condition of a load that waits for nothing
else, and a box, that do not come in time are a fault of their entry, the box's with its lowest line not yet here. -/
def Obligations.TileEnds : Prop :=
  ∀ (s : State) (u r : Nat),
    (∀ w rest, s.Inv → (s.fe u).writing = w :: rest → tileMayWrite s u = true → writeMayGo s u w (movedRuns s w) = true →
      (∀ p ∈ movedRuns s w, p.2.1 < 2 ^ 52 → pairLocked s (lineOf p.2.1) = false) →
      ∃ t, exec (.tileStoreWritten u) s = .next t ∧ (t.fe u).writing = rest
      ∧ (∀ a, (∀ p ∈ movedRuns s w, ∀ i, i < p.2.2.1 → a ≠ s.cell (p.2.1 + i)) → t.byteAt a = s.byteAt a)
      ∧ ((∀ p ∈ w.bytes, 2 ^ 52 ≤ p.1 ∨ redirectPa s p.1 = p.1) →
        (∀ a, (∀ p ∈ w.bytes, a ≠ s.cell p.1) → t.byteAt a = s.byteAt a)
        ∧ ((∀ p ∈ w.spans, p.2.2.2 = false) → (w.bytes.map fun p => s.cell p.1).Nodup → ∀ p ∈ w.bytes, t.get p.1 1 = p.2.toNat)))
    ∧ (∀ x rest c v, (s.fe u).recorded = none → (s.fe u).rob = x :: rest → x.fault = some (c, v) →
      let restored (t : State) : Prop := (t.fe u).e = (s.fe u).eRet ∧ (t.fe u).sk = (s.fe u).skRet ∧ (t.fe u).tiles = (s.fe u).tiles
        ∧ (t.fe u).free = (s.fe u).free + ((x :: rest).map fun y => y.slots).sum
      ((s.unit u).stopped = true → ∃ t, exec (.tileFault u) s = .next t ∧ (t.fe u).recorded = some (c, v) ∧ (t.fe u).rob = []
        ∧ (t.fe u).replay = (x :: rest).map (fun y => y.e) ++ (s.fe u).replay ++ (s.fe u).inq ∧ t.mem = s.mem ∧ restored t)
      ∧ ((s.unit u).stopped = false → slot0Free s u = true → ∃ t, exec (.tileFault u) s = .next t
        ∧ (t.hart u 0).park = 9 ∧ (t.hart u 0).hxtrap = w64 (trapWord 0 c { tile := true, rob := x.id, taddr := x.e.addr })
        ∧ (t.hart u 0).hxtval = v ∧ (t.hart u 0).pc = (s.hart u 0).pc ∧ (t.fe u).rob = []
        ∧ (t.fe u).replay = (x :: rest).map (fun y => y.e) ++ (s.fe u).replay ++ (s.fe u).inq
        ∧ (t.unit u).records = (s.unit u).records ++ [(t.hart u 0).trapRec] ∧ t.mem = s.mem ∧ restored t))
    ∧ (∀ c v, (s.fe u).recorded = some (c, v) → (s.unit u).stopped = false → (s.hart u 0).restored = false → slot0Free s u = true →
      ∃ t, exec (.tileFault u) s = .next t ∧ (t.fe u).recorded = none ∧ (t.hart u 0).park = 9 ∧ (t.hart u 0).hxtval = v)
    ∧ (∀ x q, (s.fe u).entry r = some x → x.phase = .renamed → x.fault = none → chunkHolds s u x = false → chunkHidden x = false →
      tileMemHeld s u x = false → unitFree (s.fe u) (tileUnit x.i) = true →
      formPieces (s.asHart u 0) x (wideSource (s.fe u) x) false = .ok q →
      exec (.chunkConditionTimeout u r) s
        = .next (s.modRob u r fun y => { y with fault := some (cFetchNotArrived, x.e.cbr), phase := .complete }))
    ∧ (∀ x, (s.fe u).entry r = some x → tileUnit x.i = .fetch → x.phase = .issued → x.box = none →
      exec (.tmmadBoxTimeout u r) s = .next ((s.unpin (boxPin u r)).modRob u r fun y =>
        { y with fault := some (cLeaseOverrun, w64 (lateLine s x)), phase := .complete })
      ∧ (∀ p ∈ heldPieces s x, x.hasRow p = false → lateLine s x ≤ p.p.va / 256 * 256)
      ∧ ((∃ p ∈ heldPieces s x, x.hasRow p = false) → ∃ p ∈ heldPieces s x, x.hasRow p = false ∧ lateLine s x = p.p.va / 256 * 256))

/-- The matrix arrays (07 R203, R205, R215 to R220). A free array is leased round-robin to a waiting core for 8 instructions and 256 cycles, array 0 before array 1 unless array 1
became free earlier with a core waiting (the model's choice, log entry 45); a ready instruction of the holder, or one that chains on that array, starts on it, uses one of them up, or with HOLD on the last one extends
the lease once to 8 where no other core waits (R215.4), and spends its issue cycles there, unless the slew ceiling holds it back; a lease that is used up ends, or is renewed for the only waiting core; a limiter step records the active arrays and takes
4 cycles off each lease and each instruction's issue (that cycles pass only there is the model's choice, log entry 29); SLEWCTL takes a legal value at the next step and sets BADW for any other; a fetch duty written takes effect at a frame, and an event that waited for it is taken. -/
def Obligations.MatrixSteps : Prop :=
  ∀ (s : State) (q a u r c : Nat),
    (∀ k, a < 2 → ((s.quad q).array a).holder = none → (a = 1 → ((s.quad q).array 0).holder ≠ none ∨ ((s.quad q).array 0).behind = true) →
      leaseChoice ((s.quad q).array a).prev (leaseTakers s q a) = some k →
      exec (.leaseGrant q a) s
        = .next ((s.modArray q a fun m => { m with holder := some k, left := 8, cyc := 256, extended := false, prev := k, started := [] }).modArray q 0
            fun y => { y with behind := false }))
    ∧ (∀ k, ((s.quad q).array a).holder = some k → ((s.quad q).array a).running = none →
      ((s.quad q).array a).left = 0 ∨ ((s.quad q).array a).cyc = 0 → switchedOut s (4 * q + k) = false →
      let t := s.modArray q a fun m => { m with holder := none, prev := k }
      (waiters t q = [k] → exec (.leaseEnd q a) s
        = .next (s.modArray q a fun m => { m with holder := some k, left := 8, cyc := 256, extended := false, prev := k }))
      ∧ (waiters t q ≠ [k] → exec (.leaseEnd q a) s = .next (arrayFreed t q a)))
    ∧ (∀ x, (s.fe u).entry r = some x → a < 2 → let m := (s.quad (quadOf u)).array a
      m.holder = some (u % 4) → m.left ≠ 0 → m.cyc ≠ 0 → m.running = none →
      chainReady s u x a = true ∨ matReady (s.fe u) x = true ∧ ¬(a = 1 ∧ ((s.quad (quadOf u)).array 0).usable (u % 4) = true) →
      (((s.fe u).older r).all fun y => !matReady (s.fe u) y && !chainReady s u y a) = true →
      let cl := clusterOfQuad (quadOf u)
      let n := arrayNo (quadOf u) a
      (slewAllows s cl n = true →
        ∃ t, exec (.matrixStart u r a) s = .next t ∧ ((t.quad (quadOf u)).array a).running = some (u, r)
          ∧ ((t.quad (quadOf u)).array a).issue = issueCycles x
          ∧ (let longer := Tcw.hold ⟨x.e.tcw⟩ = true ∧ m.left = 1 ∧ m.extended = false ∧ ∀ k ∈ waiters s (quadOf u), k = u % 4
            (longer → ((t.quad (quadOf u)).array a).left = 8 ∧ ((t.quad (quadOf u)).array a).extended = true)
            ∧ (¬ longer → ((t.quad (quadOf u)).array a).left = m.left - 1 ∧ ((t.quad (quadOf u)).array a).extended = m.extended))
          ∧ (∀ y, (t.fe u).entry r = some y → y.phase = .started ∧ y.array = some a) ∧ t.mem = s.mem)
      ∧ (slewAllows s cl n = false → (s.cluster cl).heldStarts.contains n = false → (s.cluster cl).heldNew.contains n = false →
        exec (.matrixStart u r a) s = .next (s.modCluster cl fun k => { k with heldNew := k.heldNew ++ [n] })))
    ∧ (∃ t, exec (.slewStep c) s = .next t ∧ t.mem = s.mem ∧ (t.cluster c).slewNext = none
        ∧ (t.cluster c).active = ((upTo 8).filter fun n => (s.slewArray c n).running.isSome || (s.slewArray c n).filler)
        ∧ (∀ v, (s.cluster c).slewNext = some v → (t.cluster c).drop = v.extractLsb' 16 4 ∧ (t.cluster c).rung0 = v.extractLsb' 0 4
            ∧ (t.cluster c).rung1 = v.extractLsb' 4 4 ∧ (t.cluster c).rung2 = v.extractLsb' 8 4 ∧ (t.cluster c).rung3 = v.extractLsb' 12 4)
        ∧ (∀ n, n < 8 → let old := s.slewArray c n
            (t.slewArray c n).cyc = (if old.holder.isSome then old.cyc - 4 else old.cyc) ∧ (t.slewArray c n).issue = old.issue - 4
              ∧ (t.slewArray c n).running = (if old.issue ≤ 4 then none else old.running)))
    ∧ (∀ v, wbit v 31 = false →
      let legal := 1 ≤ wfld v 3 0 ∧ wfld v 3 0 ≤ wfld v 7 4 ∧ wfld v 7 4 ≤ wfld v 11 8 ∧ wfld v 11 8 ≤ wfld v 15 12 ∧ wfld v 15 12 = 8
        ∧ 1 ≤ wfld v 19 16 ∧ wfld v 19 16 ≤ 8
      (legal → exec (.slewctlWrite c v) s = .next (s.modCluster c fun k => { k with slewNext := some (v.setWidth 20) }))
      ∧ (¬ legal → exec (.slewctlWrite c v) s = .next (s.modCluster c fun k => { k with badw := true })))
    ∧ (∀ d, (s.unit u).dutyNext = some d → exec (.dutyFrame u) s
        = .next (enterPending (s.modUnit u fun x => { x with duty := d, dutyNext := none }) u))

/-- Convoys (11 R296 to R299): a TLDM's request opens a convoy or joins the one that matches, late once its window has closed; each line is sent once to every member, from where it lies
now (15 R363); a late member then gets what it missed; an arriving line goes into the member's image, after the invalidations sent before it (10 R259); a convoy that ends, after its
window, sends no more and gives up its pins, and is gone once what it had sent has arrived (that the window's closing and the end are steps of their own is the model's choice, log
entry 35). -/
def Obligations.ConvoySteps : Prop :=
  ∀ (s : State) (u r i : Nat) (c : Convoy),
    (∀ x t, (s.fe u).entry r = some x → x.i = .tldm t → x.phase = .issued → x.joined = false →
      (findPos (fun v : Convoy => !v.ended && (convoyOf u x).sameKey v) s.convoys = none →
        (s.convoys.filter fun v => !v.ended && leaderOf s v.pa == leaderOf s (convoyOf u x).pa).length < 4 →
        exec (.convoyRequest u r) s = .next (joinConvoy { s with convoys := s.convoys ++ [convoyOf u x] } u x))
      ∧ (findPos (fun v : Convoy => !v.ended && (convoyOf u x).sameKey v) s.convoys = some i → s.convoys[i]? = some c →
        (c.open_ = true → exec (.convoyRequest u r) s
          = .next (joinConvoy { s with convoys := setAt s.convoys i { c with members := c.members ++ [memberId u x.id] } } u x))
        ∧ (c.open_ = false → ∃ t, exec (.convoyRequest u r) s = .next t
          ∧ t.convoys = setAt s.convoys i { c with members := c.members ++ [memberId u x.id], late := c.late ++ [(memberId u r, c.lines.take c.sent)] })))
    ∧ (s.convoys[i]? = some c →
      exec (.convoyWindowClose i) s = .next { s with convoys := setAt s.convoys i { c with open_ := false } }
      ∧ (∀ l, c.lines[c.sent]? = some l → c.open_ = false → c.ended = false →
        let home := movedLine s l
        canPin s home = true → pairLocked s home = false →
        let q := (homeLine s home).1.pinLines (convoyPin c) [home]
        exec (.convoyLineSend i) s = .next { q with convoys := setAt q.convoys i { c with
          sent := c.sent + 1, inFlight := c.inFlight ++ c.members.map fun m => (m, l, (homeLine s home).2.1, (homeLine s home).2.2) } })
      ∧ (∀ m l more rest, c.open_ = false → c.ended = false → c.lines.length ≤ c.sent → c.late = (m, l :: more) :: rest →
        let home := movedLine s l
        pairLocked s home = false → ∃ t, exec (.convoyUnicast i) s = .next t ∧ t.convoys = setAt s.convoys i { c with
          late := (if more = [] then rest else (m, more) :: rest), inFlight := c.inFlight ++ [(m, l, (homeLine s home).2.1, (homeLine s home).2.2)] })
      ∧ (∀ j m l d p x, findPos (fun f : Nat × Nat × BitVec 2048 × BitVec 4 => f.1 / 32 == u) c.inFlight = some j → c.inFlight[j]? = some (m, l, d, p) →
        let left := dropAt c.inFlight j
        let t := { s with convoys := if c.ended = true ∧ left = [] then dropAt s.convoys i else setAt s.convoys i { c with inFlight := left } }
        (s.fe u).entry (m % 32) = some x → x.joined = true → x.await.contains l = true → x.phase = .issued → Convoy.sameKey c (convoyOf u x) = true →
        (linePoison x l p = none → exec (.convoyLineArrival i u) s = .next ((t.applyInvals (unitDie u)).modRob u x.id fun x =>
          { x with await := x.await.filter fun k => k != l,
                   result := x.result.map fun r => { r with img := r.img ||| BitVec.ofNat 196608 (takeLine x l d) } }))
        ∧ (∀ pa, linePoison x l p = some pa → exec (.convoyLineArrival i u) s = .next (faultEntry t u x.id cPoison (w64 (placeVa x pa)))))
      ∧ (c.open_ = false → c.ended = false → exec (.convoyEnd i) s = .next { s.unpin (convoyPin c) with
          convoys := (if c.inFlight = [] then dropAt s.convoys i else setAt s.convoys i { c with ended := true }) }))

/-- The steps of the memory system (09 R231 to R243, Table 9.4). Each moves lines, directory entries or replies; none changes a byte of
memory (the value of a byte is held once, at its home: the model's reading, log entries 5 and 12). A read by a core leaves its presence bit and no
owner; ownership leaves the one owner, and a write at the slice none, with no copy in another core that the directory names; both send the invalidation that a remote copy needs; a
fill makes its next access hit, and one of uncorrectable data is poisoned; a walk fills the table; an invalidation drops the copy; a reply ends the oldest write-through of its slot;
a die takes its new HBM clock index. A line that leaves a slice takes its poison to memory; a dirty one whose port is down sets the port's ERR (09 R229),
and its four flits are poisoned, which is the model's choice (log entry 6). -/
def Obligations.MemorySystemSteps : Prop :=
  ∀ (s : State) (u line pa d : Nat) (va : Word),
    let mine := isCore u = true ∧ lineBacked s line = true ∧ homeDie s (linePa line) = unitDie u ∧ pairLocked s line = false
    let before := (s.l2Fill line false).dirOf line
    let copied := fun (d c : Nat) => isCore c = true ∧ unitDie c = d ∧ before.quads.getLsbD (dieQuad (quadOf c)) = true
    (∀ e, u < 244 → lookup? s u (s.unit u).job va.toNat = none → walk? s va.toNat (s.unit u).job = some e →
      exec (.rangeWalk u va) s = .next (s.setTable u (e :: (s.tableOf u).take (tableSize u - 1))))
    ∧ (mine → ∃ t, exec (.homeRead u line) s = .next t ∧ t.mem = s.mem ∧ (t.dirOf line).owner = none
        ∧ (t.dirOf line).presence.getLsbD (dieQuad (quadOf u)) = true)
    ∧ (mine → ∃ t, exec (.homeOwnership u line) s = .next t ∧ t.mem = s.mem ∧ (t.dirOf line).owner = some u
        ∧ (t.dirOf line).presence = 1#24 <<< dieQuad (quadOf u) ∧ (t.dirOf line).remote = false ∧ (t.l1Hit u (linePa line)).isSome = true
        ∧ (∀ c, copied (unitDie u) c → c ≠ u → t.l1Find c line = none)
        ∧ (before.remote = true → (t.die (otherDie (unitDie u))).inval = (s.die (otherDie (unitDie u))).inval ++ [line]))
    ∧ (d < 2 → lineBacked s line = true → homeDie s (linePa line) = otherDie d → pairLocked s line = false →
      ∃ t, exec (.homeRdcRead d line) s = .next t ∧ t.mem = s.mem ∧ (t.rdcFind d line).isSome = true
        ∧ (s.rdcFind d line = none → (t.dirOf line).owner = none ∧ (t.dirOf line).remote = true))
    ∧ (u < 252 → lineBacked s line = true → pairLocked s line = false →
      ∃ t, exec (.homeWrite u line) s = .next t ∧ t.mem = s.mem ∧ (t.dirOf line).owner = none ∧ (t.dirOf line).presence = 0
        ∧ (t.dirOf line).remote = false ∧ (t.dirOf line).dirty = true
        ∧ (∀ c, copied (homeDie s (linePa line)) c → t.l1Find c line = none)
        ∧ (before.remote = true → (t.die (otherDie (homeDie s (linePa line)))).inval
            = (s.die (otherDie (homeDie s (linePa line)))).inval ++ [line]))
    ∧ (isCore u = true → backed s pa = true → s.l1Hit u pa = none → pairLocked s (lineOf pa) = false →
      ∃ t, exec (.l1Fill u pa) s = .next t ∧ t.mem = s.mem ∧ (t.l1Hit u pa).isSome = true)
    ∧ (isCore u = true → backed s pa = true → homeDie s pa ≠ unitDie u → s.l1Hit u pa = none → pairLocked s (lineOf pa) = false →
      ∃ t, exec (.rdcFill u pa) s = .next t ∧ t.mem = s.mem ∧ (t.l1Hit u pa).isSome = true ∧ (t.rdcFind (unitDie u) (lineOf pa)).isSome = true)
    ∧ (∀ t p e, u < 244 → translate s u (s.unit u).job va.toNat .fetch = (t, .ok p e) → backed t p = true → regionOf p < 3 →
      pairLocked t (lineOf p) = false → icFind (t.unit u) (va.toNat / 256) = none →
      ∃ q, exec (.icacheFill u va) s = .next q ∧ q.mem = t.mem ∧ (icFind (q.unit u) (va.toNat / 256)).isSome = true)
    ∧ (∀ bad, lineBacked s line = true → s.l2Find line = none → pairLocked s line = false → ∃ t, exec (.l2Fill line bad) s = .next t ∧ t.mem = s.mem
        ∧ (t.l2Find line).isSome = true ∧ (bad = true → ∀ f, f < 4 → t.homeBad (4 * line + f) = true))
    ∧ (u < 244 → backed s pa = true → pairLocked s (lineOf pa) = false →
      ∃ t, exec (.loadReplyNoAllocate u pa) s = .next t ∧ t.mem = s.mem ∧ t.harts = s.harts)
    ∧ (∀ rest, d < 2 → (s.die d).inval = line :: rest → ∃ t, exec (.rdcInvalidateApply d) s = .next t ∧ t.mem = s.mem
        ∧ t.rdcFind d line = none ∧ (t.die d).inval = rest)
    ∧ (∀ k i, findPos (fun p : WtAccess => p.slot == k) (s.unit u).wt = some i → ∃ t, exec (.writeThroughReply u k) s = .next t
        ∧ (t.unit u).wt = dropAt (s.unit u).wt i ∧ t.mem = s.mem)
    ∧ (d < 2 → exec (.hbmClockChange d) s = .next (s.modDie d fun x => { x with hbmIdx := x.hbmNext }))
    ∧ (∀ x : L2Line, let t := s.l2Evict x
      let dirty := x.dirty = true ∨ ownerDirty s x = true
      t.mem = s.mem ∧ t.l2Find x.line = none
      ∧ (¬ dirty → t.poison = s.poison ∧ t.pkg = s.pkg)
      ∧ (dirty → capacityUp s (linePa x.line) = true → t.pkg = s.pkg ∧ ∀ f, f < 4 → x.bad.getLsbD f = true → t.homeBad (4 * x.line + f) = true)
      ∧ (dirty → capacityUp s (linePa x.line) = false →
        (t.port (capacityPort s (linePa x.line))).err = true ∧ ∀ f, f < 4 → t.homeBad (4 * x.line + f) = true))

/-- The ports (09 R246 to R248). A link trains, comes up at a rate and width of the table or fails with ERR, and goes down; a change of LINKUP and an event pulse the port's source at
the interrupt controller (its registers and the interrupt files are the family's, log entry 31), an error sets ERR too; a request of a slot is answered, or times out with all ones and
ERR; an inbound access is served under the ranges of the port's job, a refused one brings a notice, one that waits stays at the head of the port's queue and later ones wait
behind it (a refused read's notice and the queue are the model's reading, log entry 33); a read of the interrupt aperture, which bypasses
those ranges (09 R248), does nothing (log entry 31), and a message-signalled interrupt becomes pending in its file. -/
def Obligations.PortSteps : Prop :=
  ∀ (s : State) (p : Nat), p < 8 →
    let x := s.port p
    (∀ m, m ≠ 3 → x.linkup = false → x.train = false → exec (.portSetMode p m) s = .next (s.modPort p fun y => { y with mode := m }))
    ∧ (∀ m, m = 3 ∨ x.linkup = true ∨ x.train = true → exec (.portSetMode p m) s = .next s)
    ∧ exec (.portTrain p) s = .next (s.modPort p fun y => { y with train := true })
    ∧ (∀ sp w, x.train = true → x.mode ≠ 0 → 1 ≤ sp.toNat → sp.toNat ≤ 6 → w.toNat ∈ [1, 2, 4, 8, 16] →
      let t := s.modPort p fun y => { y with train := false, linkup := true, speed := sp, width := w }
      exec (.portTrainingEnd p true sp w) s = .next (if x.linkup = true then t else portSignal t p 1))
    ∧ (∀ sp w, x.train = true →
      let t := portError (s.modPort p fun y => { y with train := false, linkup := false, speed := 0, width := 0 }) p
      exec (.portTrainingEnd p false sp w) s = .next (if x.linkup = true then portSignal t p 1 else t))
    ∧ (x.linkup = true → exec (.portLinkDown p) s = .next (portSignal (portError (s.modPort p fun y =>
        { y with linkup := false, speed := 0, width := 0 }) p) p 1))
    ∧ (portError s p).port p = { x with err := true }
    ∧ (∀ u k v, (s.hart u k).pipe = .port p none →
      exec (.portRequestCompletion u k true v) s = .next (s.modHart u k fun h => { h with pipe := .port p (some v) })
      ∧ exec (.portRequestTimeout u k) s = .next (portError (s.modHart u k fun h => { h with pipe := .port p (some ones64) }) p))
    ∧ (∀ kind, 1 ≤ kind → kind ≤ 3 → exec (.portEventInterrupt p kind) s = .next (portSignal s p kind)
      ∧ (4 ≤ (fget (s.aplic (p / 4)).source (4 * (p % 4) + kind) 0).toNat → (s.aplic (p / 4)).ie = false →
        portSignal s p kind = s.modAplic (p / 4) fun y => { y with pend := y.pend ||| (1#16 <<< (4 * (p % 4) + kind)) }))
    ∧ exec (.portEventInterrupt p 4) s = .next (portError s p)
    ∧ (∀ va id f, x.linkup = true → x.inq = [] → apertureFile va.toNat = some (f, 0) → 1 ≤ id → id ≤ 255 →
      ∃ t, exec (.msiDelivery p va id) s = .next t ∧ id ∈ (t.ifile f).pend ∧ t.mem = s.mem
        ∧ (id ∈ (s.ifile f).pend → t.ifile f = s.ifile f))
    ∧ (∀ va id y rest, x.linkup = true → x.inq = y :: rest →
      let arrived := s.modPort p fun z => { z with inq := y :: rest ++ [.msi va id] }
      performInbound arrived p y = none → ∃ t, exec (.msiDelivery p va id) s = .next t ∧ (t.port p).inq = y :: rest ++ [.msi va id]
        ∧ t.mem = s.mem ∧ t.pkg.ifiles = s.pkg.ifiles)
    ∧ (∀ va n rid f, x.linkup = true → x.inq = [] → 1 ≤ n → n ≤ 4096 → apertureFile va.toNat = some f →
      ∃ q, exec (.inboundRead p va n rid) s = .next q ∧ q.mem = s.mem ∧ q.harts = s.harts ∧ q.pendRecords = s.pendRecords ∧ (q.port p).inq = [])
    ∧ (∀ va n rid, x.linkup = true → x.inq = [] → 1 ≤ n → n ≤ 4096 → apertureFile va.toNat = none →
      let arrived := s.modPort p fun y => { y with inq := [.read va n rid] }
      (∀ t ps pa e, spanPlaces arrived (244 + p) x.dmajob .load (requestBlocks va n) = (t, ps, .ok pa e) →
        ∃ q, exec (.inboundRead p va n rid) s = .next q ∧ q.mem = t.mem ∧ q.harts = t.harts ∧ (q.port p).inq = [])
      ∧ (∀ t ps c v, spanPlaces arrived (244 + p) x.dmajob .load (requestBlocks va n) = (t, ps, .raise c v) →
        ∃ q, exec (.inboundRead p va n rid) s = .next q ∧ q.mem = t.mem ∧ (q.port p).inq = [] ∧ q.pendRecords = t.pendRecords ++ [
          { cluster := (t.port p).ncmc.toNat, src := 256 + p,
            record := noticeRecord (t.port p).seq (t.port p).dmajob c (w64 (rid % 65536)) (w64 v) 0 }])
      ∧ (∀ t ps, spanPlaces arrived (244 + p) x.dmajob .load (requestBlocks va n) = (t, ps, .wait) →
        ∃ q, exec (.inboundRead p va n rid) s = .next q ∧ q.mem = s.mem ∧ q.harts = s.harts ∧ (q.port p).inq = [.read va n rid]))
    ∧ (∀ va n rid d ro t ps pa e, x.linkup = true → x.inq = [] → 1 ≤ n → n ≤ 4096 → apertureFile va.toNat = none →
      let arrived := if ro = true then s else s.modPort p fun y => { y with inq := [.write va n rid (d.toNat % 2 ^ (8 * n))] }
      spanPlaces arrived (244 + p) x.dmajob .store (requestBlocks va n) = (t, ps, .ok pa e) → t.Inv →
      ∃ q, exec (.inboundWrite p va n rid d ro) s = .next q ∧ (q.port p).inq = []
        ∧ (∀ a, (∀ y ∈ ps, ∀ i, i < y.2.2 → a ≠ t.cell (y.2.1 + i)) → q.byteAt a = t.byteAt a)
        ∧ (ps = [(va.toNat, pa, n)] → pa % 128 + n ≤ 128 → q.get pa n = d.toNat % 2 ^ (8 * n)))

/-- Fatal removal (20 R443 to R454). A trigger starts the removal of a job; a stopped unit writes its record, is noted in the header's mask when no write was refused and else brings a cause, and then
holds nothing of the job; DUMPSEAL, or the management station, seals the dump and releases the job's resources, and DUMPSEAL waits until every table has dropped its entries; a write of the dump that must wait is made later, in its turn (log entry 25), and nothing is
sealed or released before; a core that cannot write is
reset; a double fault or a missing heartbeat stops the CMC and removes the jobs whose records go to it; when the last dump that the station writes for it is sealed, and at once where
there is none, the CMC starts anew (in M-mode: log entry 9). That DUMPSEAL may seal a dump that the station writes, and the reset of a CMC with no job to remove, are the model's
choice (log entry 25). -/
def Obligations.RemovalSteps : Prop :=
  ∀ (s : State) (u c i : Nat) (v : Word) (a : BitVec 5),
    (s.ready → s.onCmcS = true → s.me.plain a → let x := s.me.reg a.toNat
      let j : BitVec 16 := x.setWidth 16
      let b := s.begun 4
      (∀ r, s.me.pipe = .idle → x.toNat < 2 ^ 16 → removing s j = true → findRemoval s j = some r → r.todo = [] →
        performed s s.cur.unit s.cur.slot = true →
        (∀ q, sealDump b j = some q → let t := (upTo 12).foldl resetCmc (releaseJob q j)
          exec (.dumpseal a) s = .next ((t.modMe fun h => { h with pipe := .broadcast t.bcasts.length j none none [] }).again 4))
        ∧ (sealDump b j = none → exec (.dumpseal a) s = .next (s.modMe Slot.unpark)))
      ∧ (∀ n k vb off sp, s.me.pipe = .broadcast n k vb off sp → allSeen s n = true → locksUnder s j none 0 (2 ^ 56 - 1) false = false →
        inFlight s j none 0 (2 ^ 56 - 1) = false → exec (.dumpseal a) s = .next (b.modMe fun h => { h with pipe := .idle })))
    ∧ (∀ j r, findRemoval s (BitVec.ofNat 16 j) = some r → r.sealed = false → r.writer = true → r.todo = [] →
      (∀ q, sealDump s (BitVec.ofNat 16 j) = some q →
        exec (.dumpSealByStation j) s = .next ((upTo 12).foldl resetCmc (releaseJob q (BitVec.ofNat 16 j))))
      ∧ (sealDump s (BitVec.ofNat 16 j) = none → exec (.dumpSealByStation j) s = .next s))
    ∧ (∀ (j : BitVec 16) q, sealDump s j = some q → let t := releaseJob q j
        removing t j = false ∧ (∀ k, k < 12 → ∀ e ∈ (t.cluster k).queue, e.job ≠ j) ∧ (∀ k, k < 6 → ∀ e ∈ (t.station k).queue, e.job ≠ j)
          ∧ (∀ w ∈ t.walks, w.e.job ≠ j) ∧ fget t.residual j.toNat (0, 0) = (0, 0) ∧ t.bcasts = q.bcasts ++ [.drop j 0 (2 ^ 56 - 1)]
          ∧ ∀ r, findRemoval q j = some r → r.sealed = true ∧ r.pend = [])
    ∧ (∀ r w bad, let j := (s.unit u).job
      findRemoval s j = some r → r.sealed = false → u ∈ r.todo → (s.fe u).writing = [] →
      ((s.quad (quadOf u)).vunit.any (fun o => o.agent.unit == u) && isCore u) = false →
      let f := flushDump s j
      writePieces f u j (recordOffset f j u) (recordPieces f u j) = some (w, bad) →
      ∃ t, exec (.dumpRecordWritten u) s = .next t ∧ (t.unit u).job = 0 ∧ (t.unit u).records = [] ∧ (∀ k, k < 7 → (t.hart u k).active = false)
        ∧ (∀ r, findRemoval t j = some r → u ∉ r.todo)
        ∧ (isCore u = true →
          t = writeHeader (leaveJob (match bad with
            | none => modRemoval w j fun r => { r with cores := r.cores ||| (1#192 <<< u) }
            | some (c, x) => appendCause (modRemoval w j fun r => { r with incomplete := true }) u j
                { cause := c, slot := 0, tile := false, unit := u, source := 0, pc := 0, addr := w64 x, step := (w.unit u).step } 0) u j) j))
    ∧ (∀ r, findRemoval s (s.unit u).job = some r → r.sealed = false → u ∈ r.todo → isCore u = true →
      ∃ t, exec (.dumpWriteTimeout u) s = .next t ∧ (t.unit u).job = 0 ∧ (t.unit u).ranges = [] ∧ (∀ k, k < 8 → t.hart u k = Slot.reset)
        ∧ ∀ o ∈ (t.quad (quadOf u)).vwait ++ (t.quad (quadOf u)).vunit, o.agent.unit ≠ u)
    ∧ (isCore u = true → (s.hart u 7).active = true → hrun s (u / 16) ≠ 0 → (s.unit u).job ≠ 0 →
      ∃ t, exec (.hrunWatchdog u) s = .next t ∧ removing t (s.unit u).job = true)
    ∧ ((fget (s.cluster c).mailbox i MboxSlot.reset).state ∈ [.full, .read, .replied] → mboxLimit s c ≠ 0 →
      recordJob (fget (s.cluster c).mailbox i MboxSlot.reset).record ≠ 0 →
      ∃ t, exec (.mboxWatchdog c i) s = .next t ∧ removing t (recordJob (fget (s.cluster c).mailbox i MboxSlot.reset).record) = true)
    ∧ (c < 12 → beatLimit s c ≠ 0 →
      ((s.cluster c).beatSeen = true → exec (.heartbeatWatchdog c) s = .next (s.modCluster c fun k => { k with beatSeen := false }))
      ∧ ((s.cluster c).beatSeen = false → ∃ t, exec (.heartbeatWatchdog c) s = .next t
          ∧ ((t.unit (cmcOf c)).halted = true ∨ (t.cluster c).mailbox = [] ∧ (t.hart (cmcOf c) 0).priv = 3)
          ∧ ∀ j ∈ clusterJobs s c, removing t j = true))
    ∧ (c < 12 → exec (.cmcbeatWrite c v) s = .next (s.modCluster c fun k => { k with beat := v, beatSeen := true }))
    ∧ (c < 12 → ∃ t, exec (.doubleFault c) s = .next t
        ∧ ((t.unit (cmcOf c)).halted = true ∨ (t.cluster c).mailbox = [] ∧ (t.hart (cmcOf c) 0).priv = 3)
        ∧ ∀ j ∈ clusterJobs s c, removing t j = true)
    ∧ (let j : BitVec 16 := v.setWidth 16
      (s.pkg.jrBusy = true → exec (.jobremoveGo v) s = .next s)
      ∧ (s.pkg.jrBusy = false → wbit v 63 = false →
        exec (.jobremoveGo v) s = .next (s.modPkg fun p => { p with jrCause := BitVec.ofNat 8 (wfld v 23 16), jrJob := j }))
      ∧ (s.pkg.jrBusy = false → wbit v 63 = true → j ≠ 0 → removing s j = false → ∃ t, exec (.jobremoveGo v) s = .next t ∧ removing t j = true
        ∧ t.pkg.jrBusy = true ∧ t.pkg.jrJob = j ∧ t.pkg.jrCause = BitVec.ofNat 8 (wfld v 23 16)))
    ∧ (exec .correctedError s = .next (s.modPkg fun p => { p with cecnt := if p.cecnt = BitVec.allOnes 64 then p.cecnt else p.cecnt + 1 }))

/-- Errors, power and reset (20 R455, 21 R459 to R474). An uncorrectable error poisons its place, in memory, in a copy, in a register or in a tile (what each site marks is the model's
choice, log entry 24); a quad runs at the point it was granted, under the caps of its budget period, of the current comparator, the thermal trip and the firmware hold, and above P5
only with headroom (the comparator's caps, the hold's P2 and DUTY 8, the flag for headroom and an UNPARK ignored while BUSY are the model's choice, log entry 23); a die without jobs
parks and comes up again as after reset; a reset puts every unit at its reset values and JOBTAB and SYSROOT invalid, retires what the boot configuration lists, whose quads stay down (21 R467), keeps memory but at
power-on, which empties it (the spec says nothing of it: the model's choice, log entry 4), and starts the CMCs and application core 0 (in M-mode: log entry 9); an attestation request takes the nonce unless a report is being made, and the report is made of it. -/
def Obligations.PowerSteps : Prop :=
  ∀ (s : State) (q u k : Nat), q < 48 →
    (∀ pa, exec (.uncorrectableError (.flit pa)) s = .next (s.addPoison (pa / 64)))
    ∧ exec (.uncorrectableError .clean) s = .next s
    ∧ (∀ pa, isCore u = true →
      (s.l1Hit u pa = none → exec (.uncorrectableError (.l1 u pa)) s = .next s)
      ∧ (∀ y, s.l1Hit u pa = some y → y.copy = none → exec (.uncorrectableError (.l1 u pa)) s = .next (s.addPoison (pa / 64)))
      ∧ (∀ y, s.l1Hit u pa = some y → y.copy.isSome = true → ∃ t, exec (.uncorrectableError (.l1 u pa)) s = .next t
          ∧ t.l1Hit u pa = some { y with bad := y.bad ||| (1#4 <<< (pa / 64 % 4)) } ∧ t.mem = s.mem ∧ t.poison = s.poison))
    ∧ (∀ pa d, d < 2 → ∃ t, exec (.uncorrectableError (.rdc d pa)) s = .next t ∧ t.mem = s.mem ∧ t.poison = s.poison
        ∧ t.rdcFind d (lineOf pa) = (s.rdcFind d (lineOf pa)).map fun y => { y with bad := y.bad ||| (1#4 <<< (pa / 64 % 4)) })
    ∧ (∀ n, u < 244 → k < 8 → 1 ≤ n → n < 60 → ∃ t, exec (.uncorrectableError (.reg u k n)) s = .next t ∧ n ∈ (t.hart u k).poison ∧ t.mem = s.mem)
    ∧ (∀ n row, isCore u = true → n < 16 → ∃ t, exec (.uncorrectableError (.tile u n row)) s = .next t
        ∧ fget (t.fe u).tiles n Tile.reset = (fget (s.fe u).tiles n Tile.reset).bad row)
    ∧ (∀ row (x : Tile), (x.bad row).poison = some (x.poison.getD row) ∧ (x.bad row).img = x.img)
    ∧ (∀ n row, isCore u = true →
      exec (.uncorrectableError (.result u n row)) s = .next (s.modRob u n fun x => { x with result := x.result.map fun t => t.bad row })
      ∧ ∃ t, exec (.uncorrectableError (.transit u n row)) s = .next t ∧ t.mem = s.mem ∧ t.harts = s.harts)
    ∧ (∀ th cu d0 d1 d2 d3, ∃ t, exec (.budgetPeriod q th cu d0 d1 d2 d3) s = .next t ∧ (t.quad q).thermalCap = th ∧ (t.quad q).currentCap = cu
        ∧ (t.quad q).dutyCap = 16 ∧ t.pkg.fwhold = false ∧ (d0 ≠ 0 → d0.toNat ≤ 16 → (t.unit (4 * q)).dutySet = d0) ∧ t.mem = s.mem)
    ∧ (s.pkg.headroom = false → (grantedPoint s q).toNat ≤ 5)
    ∧ (grantedPoint s q ≠ (s.quad q).point →
      exec (.pointChangeDone q) s = .next (s.modQuad q fun x => { x with point := grantedPoint s q, changingTo := none }))
    ∧ (exec (.sagSlowing q) s = .next ((s.modQuad q fun x => { x with sag := true }).modPkg fun p => { p with sagged := true }))
    ∧ (exec (.sagRecover q) s = .next (s.modQuad q fun x => { x with sag := false }))
    ∧ (∃ t, exec .currentComparator s = .next t ∧ t.pkg.icomp = true ∧ (t.quad q).dutyCap = 8
        ∧ (t.quad q).currentCap.toNat ≤ (s.quad q).point.toNat - 1 ∧ t.mem = s.mem)
    ∧ (∃ t, exec (.thermalTrip q) s = .next t ∧ (t.quad q).trip = true ∧ t.pkg.trip = true ∧ grantedPoint t q = 0)
    ∧ (∃ t, exec (.thermalTripEnd q) s = .next t ∧ (t.quad q).trip = false ∧ t.pkg = s.pkg)
    ∧ (∃ t, exec (.firmwareHold q) s = .next t ∧ t.pkg.fwhold = true ∧ (t.quad q).thermalCap.toNat ≤ 2 ∧ (t.unit (4 * q)).dutySet = 8)
    ∧ (∀ n, exec (.agePredictionUpdate q n) s = .next (s.modCluster (q / 4) fun z => { z with ages := fset z.ages (q % 4) (BitVec.ofNat 32 n) }))
    ∧ (∀ d i, d < 2 → (d, i) ∈ ([(0, .parkDieW), (1, .parkDieE)] : List (Nat × Instr)) → s.pkg.parkState = 0 → s.pkg.parkBusy = false →
      dieRemoving s d = false →
      (dieBusy s d = true → exec i s = .next (s.modPkg fun p => { p with parkRefused := true }))
      ∧ (dieBusy s d = false → exec i s = .next (s.modPkg fun p => { p with parkReq := BitVec.ofNat 2 (d + 1), parkWait := false, parkBusy := true })))
    ∧ (s.pkg.parkBusy = true → exec .unpark s = .next s)
    ∧ (s.pkg.parkBusy = false → s.pkg.parkState = 0 → exec .unpark s = .next (s.modPkg fun p => { p with parkReq := 0, parkWait := false }))
    ∧ (s.pkg.parkBusy = false → s.pkg.parkState ≠ 0 →
      (dieRemoving s (s.pkg.parkState.toNat - 1) = true → exec .unpark s = .next (s.modPkg fun p => { p with parkReq := 0, parkWait := true }))
      ∧ (dieRemoving s (s.pkg.parkState.toNat - 1) = false →
        exec .unpark s = .next (s.modPkg fun p => { p with parkReq := 0, parkWait := false, parkBusy := true })))
    ∧ (∀ d, s.pkg.parkBusy = true → s.pkg.parkReq = BitVec.ofNat 2 (d + 1) → d < 2 → s.pkg.parkState = 0 →
      ∃ t, exec .parkComplete s = .next t ∧ t.pkg.parkState = s.pkg.parkReq ∧ t.pkg.parkBusy = false ∧ t.mem = s.mem
        ∧ (isCore u = true → unitDie u = d → (t.unit u).up = false))
    ∧ (∀ d, s.pkg.parkBusy = true → s.pkg.parkReq = 0 → s.pkg.parkState = BitVec.ofNat 2 (d + 1) → d < 2 →
      ∃ t, exec .unparkComplete s = .next t ∧ t.pkg.parkState = 0 ∧ t.pkg.parkBusy = false
        ∧ (isCore u = true → unitDie u = d → (t.unit u).up = (!quadRetired s (quadOf u)) ∧ (t.unit u).job = 0 ∧ (k < 8 → t.hart u k = Slot.reset)))
    ∧ (∀ i m, (i, m) ∈ ([(.powerOn, []), (.resetctlReset, s.mem)] : List (Instr × List Host.Cell)) → ∃ t, exec i s = .next t ∧ t.mem = m
        ∧ (∀ w, t.unit w = if w < 192 ∧ quadRetired t (quadOf w) = true then { UnitSt.reset with up := false } else UnitSt.reset)
        ∧ (t.quad q).up = (!quadRetired t q) ∧ t.agenda = [] ∧ (t.pkg.jobtab = 0 ∧ t.pkg.sysroot = 0)
        ∧ (t.pkg.quadsRetired = s.pkg.bootQuads ∧ t.pkg.slicesRetired = s.pkg.bootSlices ∧ t.pkg.channels = s.pkg.bootChannels)
        ∧ (u ∈ (List.range 12).map (· + 192) ++ [228] → (t.hart u 0).active = true ∧ (t.hart u 0).priv = 3 ∧ (t.hart u 0).x = []))
    ∧ (s.pkg.attgo ≠ 1 → exec .attestationRequest s = .next (s.modPkg fun p => { p with attgo := 1, attNonce := p.nonce }))
    ∧ (s.pkg.attgo = 1 → exec .attestationRequest s = .next s)
    ∧ (s.pkg.attgo = 1 → ∃ t, exec .attestationDone s = .next t ∧ t.pkg.attgo = 2 ∧ t.mem = s.mem
        ∧ ∀ o, o < 512 → fget t.pkg.report (0xA00 + o) 0 = byteOf (attestBody s.pkg) o)

/-- A write of a device register (01 R9, 21 R458) sets its read-write fields, keeps its other bits, clears what it clears by a 1, and starts what the register starts: CAPWIN, JOBTAB,
JOBREMOVE, RESETCTL, CECNT, SYSROOT, PARKCTL, PWRSTAT, the decay tables of the sweep, SWEEPST, GSTEP, the nonce and ATTGO, the operating-point table, PORTCTL, and of each cluster SLEWCTL, WDCTL
(20 R454) and CMCBEAT. A write that a register forbids, or of a read-only word, or of a word that no register holds is ignored (the last two are the model's choice, log entry 32). -/
def Obligations.RegisterWrites : Prop :=
  ∀ (s : State) (v : Word) (o c : Nat),
    let w := fun (off : Nat) => exec (.registerWrite (3 * 2 ^ 48 + off) 8 v) s
    let merge := fun (old f : Word) => (old &&& ~~~f) ||| (v &&& f)
    let x := s.port c
    w 0x300 = .next (s.modPkg fun p => { p with jobtab := merge p.jobtab 0x800FFFFFFFFFF000#64 })
    ∧ w 0x320 = .next (s.modPkg fun p => { p with sysroot := merge p.sysroot 0x800FFFFFFFFFFF00#64 })
    ∧ (c < 16 → w (0x200 + 8 * c) = .next (s.modPkg fun p =>
        { p with capwin := fset p.capwin c (merge (fget p.capwin c 0) 0x87000FFF00000FFF#64) }))
    ∧ (c < 1024 → w (0x1000 + 8 * c) = .next (s.modPkg fun p => { p with optab := fset p.optab c (merge (fget p.optab c 0) 0xF7#64) }))
    ∧ w 0x308 = exec (.jobremoveGo v) s
    ∧ w 0x310 = (if v.getLsbD 0 then exec .resetctlReset s else .next s)
    ∧ w 0x318 = .next (s.modPkg fun p => { p with cecnt := v })
    ∧ (let t := if wbit v 62 = true then s.modPkg fun p => { p with parkRefused := false } else s
      w 0x340 = (if wfld v 1 0 = 0 then exec .unpark t else if wfld v 1 0 = 1 then exec .parkDieW t
        else if wfld v 1 0 = 2 then exec .parkDieE t else .next t))
    ∧ w 0x348 = .next (s.modPkg fun p =>
        { p with trip := p.trip && !wbit v 10, icomp := p.icomp && !wbit v 9, sagged := p.sagged && !wbit v 8 })
    ∧ (c < 64 → w (0x400 + 8 * c) = .next (s.modPkg fun p =>
        { p with decay := fset (fset p.decay (2 * c) (v.setWidth 32)) (2 * c + 1) ((v >>> 32).setWidth 32) }))
    ∧ (c < 8 → w (0x600 + 8 * c) = .next (s.modPkg fun p =>
        let y := fget p.sweep c Sweep.reset
        { p with sweep := fset p.sweep c { y with outwin := y.outwin &&& ~~~(v.setWidth 24) } }))
    ∧ (c < 8 → w (0x640 + 8 * c) = exec (.gstepWrite c v) s)
    ∧ (c < 6 → ∃ n, w (0x900 + 8 * c) = .next (s.modPkg fun p => { p with nonce := n }) ∧ n.extractLsb' (64 * c) 64 = v
        ∧ ∀ i, i < 6 → i ≠ c → n.extractLsb' (64 * i) 64 = s.pkg.nonce.extractLsb' (64 * i) 64)
    ∧ w 0x938 = (if v = 1 then exec .attestationRequest s else .next s)
    ∧ (c < 8 →
      let keeps := wfld v 1 0 = 3 ∨ wfld v 1 0 = x.mode.toNat
      ((x.linkup = true ∨ x.train = true) → ¬ keeps → w (0x3000 + 64 * c) = .next s)
      ∧ (keeps ∨ x.linkup = false ∧ x.train = false → w (0x3000 + 64 * c) = .next (s.modPort c fun y =>
          { y with err := y.err && !wbit v 61, dmajob := v.extractLsb' 24 16, ncmc := if wfld v 23 20 < 12 then v.extractLsb' 20 4 else y.ncmc,
                   mode := if wfld v 1 0 = 3 then y.mode else v.extractLsb' 0 2, train := y.train || wbit v 62 })))
    ∧ (c < 12 → w (0x10400 + 0x1000 * c) = exec (.slewctlWrite c v) s)
    ∧ (c < 12 → w (0x10410 + 0x1000 * c) = exec (.cmcbeatWrite c v) s)
    ∧ (c < 12 → v &&& 0xFFFF0000000000FF#64 = 0 → w (0x10408 + 0x1000 * c) = .next (s.modCluster c fun k => { k with wdctl := v }))
    ∧ (c < 12 → v &&& 0xFFFF0000000000FF#64 ≠ 0 → w (0x10408 + 0x1000 * c) = .next s)
    ∧ (o % 8 = 0 → (o = 0x380 ∨ o = 0x388 ∨ 0x390 ≤ o ∧ o < 0x3C0 ∨ 0x700 ≤ o ∧ o < 0x900 ∨ 0xA00 ≤ o ∧ o < 0xC60 ∨ 0x4000 ≤ o ∧ o < 0x6000) → w o = .next s)
    ∧ (c < 12 → o < 4 → w (0x10420 + 0x1000 * c + 8 * o) = .next s)
    ∧ (regPlace (o / 8 * 8) = .nothing → o < 2 ^ 48 → w (o / 8 * 8) = .next s)

/-- Reset (01 Tables 1.6 to 1.13, 21 R473): every slot of a core is idle with its registers at their reset values, its decay factors are 1.0, its duty is 16, its
tables, queues and tile files empty; memory lists nothing and has its canonical form; JOBTAB is invalid, STATE of PARKCTL is 0, every quad is at P2 (21 R473, step 1).
That the CMCs and application cores are in M-mode is the family's (log entry 9). That no reservation is held is a value of log entry 3, and that memory lists nothing, so that every byte
reads 0, is the model's choice too (log entry 4); no other clause rests on a register's value for which the spec gives none. -/
def Obligations.ResetState : Prop :=
  let s := State.reset
  s.Inv ∧ s.mem = []
    ∧ (∀ u k, u < 192 → k < 8 → let h := s.hart u k
        h.active = false ∧ h.park = 0 ∧ h.fflags = 0 ∧ h.frm = 0 ∧ h.stage = 0 ∧ h.vl = 0 ∧ h.hxtval = 0 ∧ h.hxepc = 0 ∧ h.qbind = 0
          ∧ h.pp = false ∧ h.resv = none ∧ h.vill = true ∧ h.hxtrap = 0
          ∧ ∀ i, i < 4 → let g := h.gen i
            g.count = 0 ∧ g.stride = 0 ∧ g.ew = 0 ∧ g.dir = false ∧ g.bound = false)
    ∧ (∀ u, u < 192 → let x := s.unit u
        x.step = 0 ∧ x.gstep = 0 ∧ x.duty = 16 ∧ x.job = 0 ∧ x.mmrev = 3 ∧ x.desc = 0 ∧ x.ranges = [] ∧ x.ops = [] ∧ x.locks = [] ∧ x.fe.rob = []
          ∧ ∀ j, j < 16 → fget x.dt j 0x3F800000 = 0x3F800000)
    ∧ (∀ c k, c < 12 → k < 32 → (mbox s c k).state = .empty)
    ∧ (∀ q, q < 48 → (s.quad q).point = 2 ∧ (s.quad q).up = true)
    ∧ (∀ u k, (s.hart u k).active = false)
    ∧ (∀ c, c < 12 → (s.hart (192 + c) 0).priv = 3) ∧ (∀ i, i < 16 → (s.hart (228 + i) 0).priv = 3)
    ∧ (s.pkg.jobtab = 0 ∧ s.pkg.sysroot = 0 ∧ s.pkg.cecnt = 0 ∧ s.pkg.parkState = 0 ∧ s.pkg.icomp = false ∧ s.pkg.trip = false)

/-- Example words of the spec decode to the instructions that they stand for (03 R91, Tables 3.3 to 3.15; the words of 05 R138 and its example, 05 R161,
18 Table 18.4; TLD of 03, TCVT of 06 R191; the canonical nop of 01 R37); a word of zeros, and class 0 with OPC 0x20, encode nothing. -/
def Obligations.ExampleWordsDecode : Prop :=
  decode32? 0x00000013 = some (.rvAluOrBranch (.aluI .addi 0 0 0))
    ∧ decode32? 0x002672AB = some (.vlgr 5 12 .w32)
    ∧ decode32? 0x000500DB = some (.vld 1 10 ⟨false, 0⟩)
    ∧ decode32? 0x0616A12B = some (.vfmaX 2 13 1 ⟨false, 0⟩)
    ∧ decode32? 0x0205815B = some (.vst 2 11 ⟨false, 0⟩)
    ∧ decode32? 0x020093DB = some (.mpop 7 1)
    ∧ decode32? 0x0205107B = some (.mbxack 10)
    ∧ decode32? 0x04B5107B = some (.mbxpost 10 11)
    ∧ decode32? 0x0A0512FB = some (.nispill 5 10)
    ∧ decode32? 0x1005107B = some (.resume 10)
    ∧ decode32? 0x30200073 = some .mret
    ∧ decode32? 0x00000000 = none
    ∧ (let t : Tcw := ⟨0x00000020000000800000016A000002000200707F⟩
      decodeTcw t.raw = .tld t ∧ t.td = 2 ∧ t.fa = 2 ∧ t.base = 10 ∧ t.stride = 11 ∧ t.offset = 128 ∧ t.rows = 32)
    ∧ (let t : Tcw := ⟨0x01002000450071FF⟩
      decodeTcw t.raw = .tcvt t ∧ t.td = 5 ∧ t.ta = 4 ∧ t.fb = 2 ∧ t.sat = true)
    ∧ decodeTcw 0x727F = .tfence ⟨0x727F⟩
    ∧ decodeTcw 0x0020707F = .vacantEncoding 0x0020707F true

/-- A step runs the instruction that stands at the PC (01 R13, R15, R37, 03 R87, R88). The hart that issues is the one the agenda names, if it is a candidate, or, with nothing asked for and no
device step due, the next candidate; its fetch gives the bytes at the PC; a 32-bit word, or a tile command word on slot 0 of a core at a 32-byte boundary, is
decoded, and the step is its exec; on slot 0 a run of nops to a tile command word is passed over. A word that encodes nothing is `vacantEncoding`. An application core fetches 16 or 32 bits,
and takes an interrupt that is due instead (log entry 15). -/
def Obligations.StepRunsTheInstructionAtThePc : Prop :=
  ∀ (s : State) (a : Agent) (rest : List Turn),
    let s0 : State := { s with agenda := rest }
    let b := s0.issuing a
    let pc := b.me.pc.toNat
    let lead := isCore a.unit = true ∧ a.slot = 0
    (s.agenda = .issue a :: rest → candidate s0 a.unit a.slot = true → step s = runHart b)
    ∧ (s.agenda = .issue a :: rest → candidate s0 a.unit a.slot = false → step s = .next s0)
    ∧ (s.agenda = [] → autoEvent s = none → nextHart s = some a → step s = runHart (s.issuing a))
    ∧ (s.agenda = [] → autoEvent s = none → nextHart s = none → step s = .next s)
    ∧ (∀ i, s.agenda = .event i :: rest → step s = exec i s0)
    ∧ (∀ i, s.agenda = [] → autoEvent s = some i → step s = exec i s)
    ∧ (isApp a.unit = false →
      (∀ t w i, fetch b pc 4 = .ok (t, w) → startsTcw w = false → decode32? w = some i →
        (lead → w = 0x13 → pc % 32 ≠ 0 → skipPadding t pc = none) → runHart b = exec i t)
      ∧ (∀ t w, fetch b pc 4 = .ok (t, w) → w < 2 ^ 32 → startsTcw w = false → decode32? w = none →
        runHart b = exec (.vacantEncoding (BitVec.ofNat 256 w) false) t)
      ∧ (∀ t w q v, fetch b pc 4 = .ok (t, w) → startsTcw w = true → lead → pc % 32 = 0 → fetch t pc 32 = .ok (q, v) →
        runHart b = exec (decodeTcw (BitVec.ofNat 256 v)) q)
      ∧ (∀ t w, fetch b pc 4 = .ok (t, w) → startsTcw w = true → ¬(lead ∧ pc % 32 = 0) →
        runHart b = exec (.vacantEncoding (BitVec.ofNat 256 w) false) t)
      ∧ (∀ t k q v, fetch b pc 4 = .ok (t, 0x13) → lead → pc % 32 ≠ 0 → skipPadding t pc = some k →
        fetch (t.modMe fun h => h.skipped k ((k - pc) / 4)) k 32 = .ok (q, v) → runHart b = exec (decodeTcw (BitVec.ofNat 256 v)) q))
    ∧ (isApp a.unit = true → b.me.pipe = .idle →
      (∀ n, takenIntr b a.unit a.slot = some n → runHart b = fetchStop b (.trap (512 + n) 0))
      ∧ (takenIntr b a.unit a.slot = none →
        (∀ t lo, fetch b pc 2 = .ok (t, lo) → lo % 4 ≠ 3 → runHart b = exec (.vacantEncoding (BitVec.ofNat 256 lo) false) t)
        ∧ (∀ t lo q hi, fetch b pc 2 = .ok (t, lo) → lo % 4 = 3 → fetch t (pc + 2) 2 = .ok (q, hi) →
          let w := lo + 2 ^ 16 * hi
          (∀ i, startsTcw w = false → decode32? w = some i → runHart b = exec i q)
          ∧ (startsTcw w = true ∨ decode32? w = none → w < 2 ^ 32 → runHart b = exec (.vacantEncoding (BitVec.ofNat 256 w) false) q))))
    ∧ (∀ p n t, locate b pc n .fetch false = .ok (t, p) → p.win = true → needCleanHome t p n = .ok () → fetch b pc n = .ok (t, t.get p.pa n))
    ∧ (∀ p n t l, locate b pc n .fetch false = .ok (t, p) → p.win = false → icFind t.mine (pc / 256) = some l → needCleanCode l pc n = .ok () →
      fetch b pc n = .ok (t.modMine fun x => icTouch x l, l.data.toNat / 2 ^ (8 * (pc % 256)) % 2 ^ (8 * n)))

/-- Encoding then decoding gives the instruction back, with every operand at every value that its encoding admits, and leaves the bytes after it (03 Tables 3.3 to
3.15, 06 Table 6.1, 07 Table 7.2). -/
def Obligations.DecodeOfEncode : Prop :=
  ∀ (i : Instr) (bs rest : List Byte), encode i = some bs → decodeBytes (bs ++ rest) = some (i, rest)

/-- Every instruction that decoding gives is well formed, and encoding it gives the very bytes that were read: no two words read as one instruction, and every field that
a form holds zero was zero (03 R89). A word that encodes nothing is kept whole. -/
def Obligations.EncodeOfDecode : Prop :=
  ∀ (i : Instr) (bs rest : List Byte), decodeBytes bs = some (i, rest) →
    i.wellFormed = true
    ∧ ((∀ w b, i ≠ .vacantEncoding w b) → ∃ e, encode i = some e ∧ bs = e ++ rest)
    ∧ (∀ w, i = .vacantEncoding w false → bs = toBytesLE 4 w.toNat ++ rest)
    ∧ (∀ w, i = .vacantEncoding w true → bs = toBytesLE 32 w.toNat ++ rest)

/-- Whatever the machine does, memory keeps its canonical form: addresses rising, no byte listed that reads as unlisted memory does. -/
def Obligations.MemoryStaysCanonical : Prop := ∀ (s t : State), s.Inv → step s = .next t → t.Inv

/-- An Xhexaloth instruction on a unit, slot or level that Table 3.11 does not list for it raises ILLEGAL at decode: hxtval holds its first word and bit 63 (03 R90), it has no
effect, and a pending prefix stays pending. S-mode is `1 ≤ s.mode`. The longest vector of an update core has 32 elements of 32 bits. -/
def Obligations.UnitRestrictions : Prop :=
  ∀ (s : State) (a b d : BitVec 5) (g : BitVec 2) (n : BitVec 3) (im : BitVec 12) (p : BitVec 12) (w : EWidth) (t : Tcw)
    (v1 v2 v3 : BitVec 4) (k l m : BitVec 2) (pr : Pred) (mk : VMask) (i : Instr) (x : VKind),
    let core := isCore s.cur.unit = true
    let upd := isUcore s.cur.unit = true
    let cmc := isCmc s.cur.unit = true
    let app := isApp s.cur.unit = true
    let sup := (cmc ∨ app) ∧ 1 ≤ s.mode
    let service := core ∧ s.cur.slot = 7
    let illegal := fun (i : Instr) => exec i s = .next (s.trapped cIllegal (2 ^ 63 + instrWord i) i)
    (¬ core → i ∈ ([.sbind g a b, .sunbind g, .sgstat d g, .qbind n a, .qpush n a, .qpop d n, .qpoll d n, .qcnt d n, .bmove d a b, .bfillw d a b, .repb d a b,
      .iclock d a b, .icunlk a b, .sendr a b, .amsg a b, .loopbk a b, .hret, .rankget d a, .barr d a, .bwait a b, .barw d a, .bcfg a b, .bstat d a,
      .twait a, .phase a] : List Instr) → illegal i)
    ∧ (¬(core ∨ upd ∨ cmc) → i ∈ ([.ldna d a im, .stby a b im, .pref a im, .send a b, .recv d a, .recvp d a, .waita a] : List Instr) → illegal i)
    ∧ (¬(core ∨ upd) → i ∈ ([.bcopy d a, .bcopyc d a, .bgath d a, .bscat d a, .bcancel d a, .ctest d a b, .cwaitm a b, .tsusp a, .texit, .stepinc a, .gswait a,
      .sld d a, .sst a b, .sadd a b, .smerge a b, .fmt p, .vlgr d a w] : List Instr) → illegal i)
    ∧ (¬(core ∨ upd) → (i, x) ∈ vectorForms v1 v2 v3 a b d k l m pr mk → illegal i)
    ∧ (¬(core ∨ cmc ∨ app) → illegal (.tspawn d a))
    ∧ (¬ upd → illegal (.vstpair v1 a b mk))
    ∧ (¬ sup → i ∈ ([.rins a, .rsplit a b, .rmerge a b, .rinval a, .rprobe d a, .rmove d a b, .rres a b, .boffl d a b, .bret d a b, .cutreq d a, .cutstat d a,
      .winset a b] : List Instr) → illegal i)
    ∧ (¬(cmc ∧ 1 ≤ s.mode) → i ∈ ([.mbxrd d a, .mbxack a, .mbxpost a b, .resume a, .dumpseal a] : List Instr) → illegal i)
    ∧ (¬ service → i ∈ ([.slotsave a b, .slotrest a b, .nispill d a] : List Instr) → illegal i)
    ∧ (¬(service ∨ sup) → illegal (.rankset a b))
    ∧ (¬(core ∧ s.cur.slot = 0) → i ∈ tileForms t → illegal i)
    ∧ (upd → s.ready → s.me.free d → exec (.vlgr d 0 .w32) s
      = .next (((s.begun 4).modMe fun h => { h with vl := 32, vill := false, ew := 2 }).setX d 32))

/-- The count of corrected errors (20 R456): CECNT, at offset 0x0318 of the package control block, is 0 at reset, counts each corrected error and stays at its largest value, reads as its
64 bits, and takes what software writes; a corrected error changes nothing else. -/
def Obligations.CorrectedErrorsCount : Prop :=
  State.reset.pkg.cecnt = 0
    ∧ ∀ s : State,
      exec .correctedError s = .next (s.modPkg fun p => { p with cecnt := BitVec.ofNat 64 (min (p.cecnt.toNat + 1) (2 ^ 64 - 1)) })
      ∧ regRead s 0x318 8 = s.pkg.cecnt.toNat
      ∧ ∀ v, exec (.registerWrite (3 * 2 ^ 48 + 0x318) 8 v) s = .next (s.modPkg fun p => { p with cecnt := v })
end

