-- ==== Sys2Proof/Laws/State.lean ====
section
/-! SUPPORT. What each update of the state leaves alone, one lemma per field and update; the parts of the state by
number after an update. -/

namespace Sys2Proof.Machine

open Sys2Proof

variable (s : State)

/-! ### setHart -/

@[simp] theorem State.setHart_cur (u k : Nat) (h : Slot) : (s.setHart u k h).cur = s.cur := rfl
@[simp] theorem State.setHart_agenda (u k : Nat) (h : Slot) : (s.setHart u k h).agenda = s.agenda := rfl
@[simp] theorem State.setHart_free (u k : Nat) (h : Slot) : (s.setHart u k h).free = s.free := rfl
@[simp] theorem State.setHart_mem (u k : Nat) (h : Slot) : (s.setHart u k h).mem = s.mem := rfl
@[simp] theorem State.setHart_poison (u k : Nat) (h : Slot) : (s.setHart u k h).poison = s.poison := rfl
@[simp] theorem State.setHart_l2 (u k : Nat) (h : Slot) : (s.setHart u k h).l2 = s.l2 := rfl
@[simp] theorem State.setHart_units (u k : Nat) (h : Slot) : (s.setHart u k h).units = s.units := rfl
@[simp] theorem State.setHart_quads (u k : Nat) (h : Slot) : (s.setHart u k h).quads = s.quads := rfl
@[simp] theorem State.setHart_clusters (u k : Nat) (h : Slot) : (s.setHart u k h).clusters = s.clusters := rfl
@[simp] theorem State.setHart_stations (u k : Nat) (h : Slot) : (s.setHart u k h).stations = s.stations := rfl
@[simp] theorem State.setHart_dies (u k : Nat) (h : Slot) : (s.setHart u k h).dies = s.dies := rfl
@[simp] theorem State.setHart_mesh (u k : Nat) (h : Slot) : (s.setHart u k h).mesh = s.mesh := rfl
@[simp] theorem State.setHart_pendRecords (u k : Nat) (h : Slot) : (s.setHart u k h).pendRecords = s.pendRecords := rfl
@[simp] theorem State.setHart_heldAway (u k : Nat) (h : Slot) : (s.setHart u k h).heldAway = s.heldAway := rfl
@[simp] theorem State.setHart_walks (u k : Nat) (h : Slot) : (s.setHart u k h).walks = s.walks := rfl
@[simp] theorem State.setHart_convoys (u k : Nat) (h : Slot) : (s.setHart u k h).convoys = s.convoys := rfl
@[simp] theorem State.setHart_bcasts (u k : Nat) (h : Slot) : (s.setHart u k h).bcasts = s.bcasts := rfl
@[simp] theorem State.setHart_scOrder (u k : Nat) (h : Slot) : (s.setHart u k h).scOrder = s.scOrder := rfl
@[simp] theorem State.setHart_cut (u k : Nat) (h : Slot) : (s.setHart u k h).cut = s.cut := rfl
@[simp] theorem State.setHart_colours (u k : Nat) (h : Slot) : (s.setHart u k h).colours = s.colours := rfl
@[simp] theorem State.setHart_residual (u k : Nat) (h : Slot) : (s.setHart u k h).residual = s.residual := rfl
@[simp] theorem State.setHart_twaits (u k : Nat) (h : Slot) : (s.setHart u k h).twaits = s.twaits := rfl
@[simp] theorem State.setHart_removals (u k : Nat) (h : Slot) : (s.setHart u k h).removals = s.removals := rfl
@[simp] theorem State.setHart_clock (u k : Nat) (h : Slot) : (s.setHart u k h).clock = s.clock := rfl
@[simp] theorem State.setHart_pkg (u k : Nat) (h : Slot) : (s.setHart u k h).pkg = s.pkg := rfl

/-! ### modHart -/

@[simp] theorem State.modHart_cur (u k : Nat) (f : Slot → Slot) : (s.modHart u k f).cur = s.cur := rfl
@[simp] theorem State.modHart_agenda (u k : Nat) (f : Slot → Slot) : (s.modHart u k f).agenda = s.agenda := rfl
@[simp] theorem State.modHart_free (u k : Nat) (f : Slot → Slot) : (s.modHart u k f).free = s.free := rfl
@[simp] theorem State.modHart_mem (u k : Nat) (f : Slot → Slot) : (s.modHart u k f).mem = s.mem := rfl
@[simp] theorem State.modHart_poison (u k : Nat) (f : Slot → Slot) : (s.modHart u k f).poison = s.poison := rfl
@[simp] theorem State.modHart_l2 (u k : Nat) (f : Slot → Slot) : (s.modHart u k f).l2 = s.l2 := rfl
@[simp] theorem State.modHart_units (u k : Nat) (f : Slot → Slot) : (s.modHart u k f).units = s.units := rfl
@[simp] theorem State.modHart_quads (u k : Nat) (f : Slot → Slot) : (s.modHart u k f).quads = s.quads := rfl
@[simp] theorem State.modHart_clusters (u k : Nat) (f : Slot → Slot) : (s.modHart u k f).clusters = s.clusters := rfl
@[simp] theorem State.modHart_stations (u k : Nat) (f : Slot → Slot) : (s.modHart u k f).stations = s.stations := rfl
@[simp] theorem State.modHart_dies (u k : Nat) (f : Slot → Slot) : (s.modHart u k f).dies = s.dies := rfl
@[simp] theorem State.modHart_mesh (u k : Nat) (f : Slot → Slot) : (s.modHart u k f).mesh = s.mesh := rfl
@[simp] theorem State.modHart_pendRecords (u k : Nat) (f : Slot → Slot) : (s.modHart u k f).pendRecords = s.pendRecords := rfl
@[simp] theorem State.modHart_heldAway (u k : Nat) (f : Slot → Slot) : (s.modHart u k f).heldAway = s.heldAway := rfl
@[simp] theorem State.modHart_walks (u k : Nat) (f : Slot → Slot) : (s.modHart u k f).walks = s.walks := rfl
@[simp] theorem State.modHart_convoys (u k : Nat) (f : Slot → Slot) : (s.modHart u k f).convoys = s.convoys := rfl
@[simp] theorem State.modHart_bcasts (u k : Nat) (f : Slot → Slot) : (s.modHart u k f).bcasts = s.bcasts := rfl
@[simp] theorem State.modHart_scOrder (u k : Nat) (f : Slot → Slot) : (s.modHart u k f).scOrder = s.scOrder := rfl
@[simp] theorem State.modHart_cut (u k : Nat) (f : Slot → Slot) : (s.modHart u k f).cut = s.cut := rfl
@[simp] theorem State.modHart_colours (u k : Nat) (f : Slot → Slot) : (s.modHart u k f).colours = s.colours := rfl
@[simp] theorem State.modHart_residual (u k : Nat) (f : Slot → Slot) : (s.modHart u k f).residual = s.residual := rfl
@[simp] theorem State.modHart_twaits (u k : Nat) (f : Slot → Slot) : (s.modHart u k f).twaits = s.twaits := rfl
@[simp] theorem State.modHart_removals (u k : Nat) (f : Slot → Slot) : (s.modHart u k f).removals = s.removals := rfl
@[simp] theorem State.modHart_clock (u k : Nat) (f : Slot → Slot) : (s.modHart u k f).clock = s.clock := rfl
@[simp] theorem State.modHart_pkg (u k : Nat) (f : Slot → Slot) : (s.modHart u k f).pkg = s.pkg := rfl

/-! ### setUnit -/

@[simp] theorem State.setUnit_cur (u : Nat) (x : UnitSt) : (s.setUnit u x).cur = s.cur := rfl
@[simp] theorem State.setUnit_agenda (u : Nat) (x : UnitSt) : (s.setUnit u x).agenda = s.agenda := rfl
@[simp] theorem State.setUnit_free (u : Nat) (x : UnitSt) : (s.setUnit u x).free = s.free := rfl
@[simp] theorem State.setUnit_mem (u : Nat) (x : UnitSt) : (s.setUnit u x).mem = s.mem := rfl
@[simp] theorem State.setUnit_poison (u : Nat) (x : UnitSt) : (s.setUnit u x).poison = s.poison := rfl
@[simp] theorem State.setUnit_l2 (u : Nat) (x : UnitSt) : (s.setUnit u x).l2 = s.l2 := rfl
@[simp] theorem State.setUnit_harts (u : Nat) (x : UnitSt) : (s.setUnit u x).harts = s.harts := rfl
@[simp] theorem State.setUnit_quads (u : Nat) (x : UnitSt) : (s.setUnit u x).quads = s.quads := rfl
@[simp] theorem State.setUnit_clusters (u : Nat) (x : UnitSt) : (s.setUnit u x).clusters = s.clusters := rfl
@[simp] theorem State.setUnit_stations (u : Nat) (x : UnitSt) : (s.setUnit u x).stations = s.stations := rfl
@[simp] theorem State.setUnit_dies (u : Nat) (x : UnitSt) : (s.setUnit u x).dies = s.dies := rfl
@[simp] theorem State.setUnit_mesh (u : Nat) (x : UnitSt) : (s.setUnit u x).mesh = s.mesh := rfl
@[simp] theorem State.setUnit_pendRecords (u : Nat) (x : UnitSt) : (s.setUnit u x).pendRecords = s.pendRecords := rfl
@[simp] theorem State.setUnit_heldAway (u : Nat) (x : UnitSt) : (s.setUnit u x).heldAway = s.heldAway := rfl
@[simp] theorem State.setUnit_walks (u : Nat) (x : UnitSt) : (s.setUnit u x).walks = s.walks := rfl
@[simp] theorem State.setUnit_convoys (u : Nat) (x : UnitSt) : (s.setUnit u x).convoys = s.convoys := rfl
@[simp] theorem State.setUnit_bcasts (u : Nat) (x : UnitSt) : (s.setUnit u x).bcasts = s.bcasts := rfl
@[simp] theorem State.setUnit_scOrder (u : Nat) (x : UnitSt) : (s.setUnit u x).scOrder = s.scOrder := rfl
@[simp] theorem State.setUnit_cut (u : Nat) (x : UnitSt) : (s.setUnit u x).cut = s.cut := rfl
@[simp] theorem State.setUnit_colours (u : Nat) (x : UnitSt) : (s.setUnit u x).colours = s.colours := rfl
@[simp] theorem State.setUnit_residual (u : Nat) (x : UnitSt) : (s.setUnit u x).residual = s.residual := rfl
@[simp] theorem State.setUnit_twaits (u : Nat) (x : UnitSt) : (s.setUnit u x).twaits = s.twaits := rfl
@[simp] theorem State.setUnit_removals (u : Nat) (x : UnitSt) : (s.setUnit u x).removals = s.removals := rfl
@[simp] theorem State.setUnit_clock (u : Nat) (x : UnitSt) : (s.setUnit u x).clock = s.clock := rfl
@[simp] theorem State.setUnit_pkg (u : Nat) (x : UnitSt) : (s.setUnit u x).pkg = s.pkg := rfl

/-! ### modUnit -/

@[simp] theorem State.modUnit_cur (u : Nat) (f : UnitSt → UnitSt) : (s.modUnit u f).cur = s.cur := rfl
@[simp] theorem State.modUnit_agenda (u : Nat) (f : UnitSt → UnitSt) : (s.modUnit u f).agenda = s.agenda := rfl
@[simp] theorem State.modUnit_free (u : Nat) (f : UnitSt → UnitSt) : (s.modUnit u f).free = s.free := rfl
@[simp] theorem State.modUnit_mem (u : Nat) (f : UnitSt → UnitSt) : (s.modUnit u f).mem = s.mem := rfl
@[simp] theorem State.modUnit_poison (u : Nat) (f : UnitSt → UnitSt) : (s.modUnit u f).poison = s.poison := rfl
@[simp] theorem State.modUnit_l2 (u : Nat) (f : UnitSt → UnitSt) : (s.modUnit u f).l2 = s.l2 := rfl
@[simp] theorem State.modUnit_harts (u : Nat) (f : UnitSt → UnitSt) : (s.modUnit u f).harts = s.harts := rfl
@[simp] theorem State.modUnit_quads (u : Nat) (f : UnitSt → UnitSt) : (s.modUnit u f).quads = s.quads := rfl
@[simp] theorem State.modUnit_clusters (u : Nat) (f : UnitSt → UnitSt) : (s.modUnit u f).clusters = s.clusters := rfl
@[simp] theorem State.modUnit_stations (u : Nat) (f : UnitSt → UnitSt) : (s.modUnit u f).stations = s.stations := rfl
@[simp] theorem State.modUnit_dies (u : Nat) (f : UnitSt → UnitSt) : (s.modUnit u f).dies = s.dies := rfl
@[simp] theorem State.modUnit_mesh (u : Nat) (f : UnitSt → UnitSt) : (s.modUnit u f).mesh = s.mesh := rfl
@[simp] theorem State.modUnit_pendRecords (u : Nat) (f : UnitSt → UnitSt) : (s.modUnit u f).pendRecords = s.pendRecords := rfl
@[simp] theorem State.modUnit_heldAway (u : Nat) (f : UnitSt → UnitSt) : (s.modUnit u f).heldAway = s.heldAway := rfl
@[simp] theorem State.modUnit_walks (u : Nat) (f : UnitSt → UnitSt) : (s.modUnit u f).walks = s.walks := rfl
@[simp] theorem State.modUnit_convoys (u : Nat) (f : UnitSt → UnitSt) : (s.modUnit u f).convoys = s.convoys := rfl
@[simp] theorem State.modUnit_bcasts (u : Nat) (f : UnitSt → UnitSt) : (s.modUnit u f).bcasts = s.bcasts := rfl
@[simp] theorem State.modUnit_scOrder (u : Nat) (f : UnitSt → UnitSt) : (s.modUnit u f).scOrder = s.scOrder := rfl
@[simp] theorem State.modUnit_cut (u : Nat) (f : UnitSt → UnitSt) : (s.modUnit u f).cut = s.cut := rfl
@[simp] theorem State.modUnit_colours (u : Nat) (f : UnitSt → UnitSt) : (s.modUnit u f).colours = s.colours := rfl
@[simp] theorem State.modUnit_residual (u : Nat) (f : UnitSt → UnitSt) : (s.modUnit u f).residual = s.residual := rfl
@[simp] theorem State.modUnit_twaits (u : Nat) (f : UnitSt → UnitSt) : (s.modUnit u f).twaits = s.twaits := rfl
@[simp] theorem State.modUnit_removals (u : Nat) (f : UnitSt → UnitSt) : (s.modUnit u f).removals = s.removals := rfl
@[simp] theorem State.modUnit_clock (u : Nat) (f : UnitSt → UnitSt) : (s.modUnit u f).clock = s.clock := rfl
@[simp] theorem State.modUnit_pkg (u : Nat) (f : UnitSt → UnitSt) : (s.modUnit u f).pkg = s.pkg := rfl

/-! ### modQuad -/

@[simp] theorem State.modQuad_cur (q : Nat) (f : Quad → Quad) : (s.modQuad q f).cur = s.cur := rfl
@[simp] theorem State.modQuad_agenda (q : Nat) (f : Quad → Quad) : (s.modQuad q f).agenda = s.agenda := rfl
@[simp] theorem State.modQuad_free (q : Nat) (f : Quad → Quad) : (s.modQuad q f).free = s.free := rfl
@[simp] theorem State.modQuad_mem (q : Nat) (f : Quad → Quad) : (s.modQuad q f).mem = s.mem := rfl
@[simp] theorem State.modQuad_poison (q : Nat) (f : Quad → Quad) : (s.modQuad q f).poison = s.poison := rfl
@[simp] theorem State.modQuad_l2 (q : Nat) (f : Quad → Quad) : (s.modQuad q f).l2 = s.l2 := rfl
@[simp] theorem State.modQuad_harts (q : Nat) (f : Quad → Quad) : (s.modQuad q f).harts = s.harts := rfl
@[simp] theorem State.modQuad_units (q : Nat) (f : Quad → Quad) : (s.modQuad q f).units = s.units := rfl
@[simp] theorem State.modQuad_clusters (q : Nat) (f : Quad → Quad) : (s.modQuad q f).clusters = s.clusters := rfl
@[simp] theorem State.modQuad_stations (q : Nat) (f : Quad → Quad) : (s.modQuad q f).stations = s.stations := rfl
@[simp] theorem State.modQuad_dies (q : Nat) (f : Quad → Quad) : (s.modQuad q f).dies = s.dies := rfl
@[simp] theorem State.modQuad_mesh (q : Nat) (f : Quad → Quad) : (s.modQuad q f).mesh = s.mesh := rfl
@[simp] theorem State.modQuad_pendRecords (q : Nat) (f : Quad → Quad) : (s.modQuad q f).pendRecords = s.pendRecords := rfl
@[simp] theorem State.modQuad_heldAway (q : Nat) (f : Quad → Quad) : (s.modQuad q f).heldAway = s.heldAway := rfl
@[simp] theorem State.modQuad_walks (q : Nat) (f : Quad → Quad) : (s.modQuad q f).walks = s.walks := rfl
@[simp] theorem State.modQuad_convoys (q : Nat) (f : Quad → Quad) : (s.modQuad q f).convoys = s.convoys := rfl
@[simp] theorem State.modQuad_bcasts (q : Nat) (f : Quad → Quad) : (s.modQuad q f).bcasts = s.bcasts := rfl
@[simp] theorem State.modQuad_scOrder (q : Nat) (f : Quad → Quad) : (s.modQuad q f).scOrder = s.scOrder := rfl
@[simp] theorem State.modQuad_cut (q : Nat) (f : Quad → Quad) : (s.modQuad q f).cut = s.cut := rfl
@[simp] theorem State.modQuad_colours (q : Nat) (f : Quad → Quad) : (s.modQuad q f).colours = s.colours := rfl
@[simp] theorem State.modQuad_residual (q : Nat) (f : Quad → Quad) : (s.modQuad q f).residual = s.residual := rfl
@[simp] theorem State.modQuad_twaits (q : Nat) (f : Quad → Quad) : (s.modQuad q f).twaits = s.twaits := rfl
@[simp] theorem State.modQuad_removals (q : Nat) (f : Quad → Quad) : (s.modQuad q f).removals = s.removals := rfl
@[simp] theorem State.modQuad_clock (q : Nat) (f : Quad → Quad) : (s.modQuad q f).clock = s.clock := rfl
@[simp] theorem State.modQuad_pkg (q : Nat) (f : Quad → Quad) : (s.modQuad q f).pkg = s.pkg := rfl

/-! ### modCluster -/

@[simp] theorem State.modCluster_cur (c : Nat) (f : Cluster → Cluster) : (s.modCluster c f).cur = s.cur := rfl
@[simp] theorem State.modCluster_agenda (c : Nat) (f : Cluster → Cluster) : (s.modCluster c f).agenda = s.agenda := rfl
@[simp] theorem State.modCluster_free (c : Nat) (f : Cluster → Cluster) : (s.modCluster c f).free = s.free := rfl
@[simp] theorem State.modCluster_mem (c : Nat) (f : Cluster → Cluster) : (s.modCluster c f).mem = s.mem := rfl
@[simp] theorem State.modCluster_poison (c : Nat) (f : Cluster → Cluster) : (s.modCluster c f).poison = s.poison := rfl
@[simp] theorem State.modCluster_l2 (c : Nat) (f : Cluster → Cluster) : (s.modCluster c f).l2 = s.l2 := rfl
@[simp] theorem State.modCluster_harts (c : Nat) (f : Cluster → Cluster) : (s.modCluster c f).harts = s.harts := rfl
@[simp] theorem State.modCluster_units (c : Nat) (f : Cluster → Cluster) : (s.modCluster c f).units = s.units := rfl
@[simp] theorem State.modCluster_quads (c : Nat) (f : Cluster → Cluster) : (s.modCluster c f).quads = s.quads := rfl
@[simp] theorem State.modCluster_stations (c : Nat) (f : Cluster → Cluster) : (s.modCluster c f).stations = s.stations := rfl
@[simp] theorem State.modCluster_dies (c : Nat) (f : Cluster → Cluster) : (s.modCluster c f).dies = s.dies := rfl
@[simp] theorem State.modCluster_mesh (c : Nat) (f : Cluster → Cluster) : (s.modCluster c f).mesh = s.mesh := rfl
@[simp] theorem State.modCluster_pendRecords (c : Nat) (f : Cluster → Cluster) : (s.modCluster c f).pendRecords = s.pendRecords := rfl
@[simp] theorem State.modCluster_heldAway (c : Nat) (f : Cluster → Cluster) : (s.modCluster c f).heldAway = s.heldAway := rfl
@[simp] theorem State.modCluster_walks (c : Nat) (f : Cluster → Cluster) : (s.modCluster c f).walks = s.walks := rfl
@[simp] theorem State.modCluster_convoys (c : Nat) (f : Cluster → Cluster) : (s.modCluster c f).convoys = s.convoys := rfl
@[simp] theorem State.modCluster_bcasts (c : Nat) (f : Cluster → Cluster) : (s.modCluster c f).bcasts = s.bcasts := rfl
@[simp] theorem State.modCluster_scOrder (c : Nat) (f : Cluster → Cluster) : (s.modCluster c f).scOrder = s.scOrder := rfl
@[simp] theorem State.modCluster_cut (c : Nat) (f : Cluster → Cluster) : (s.modCluster c f).cut = s.cut := rfl
@[simp] theorem State.modCluster_colours (c : Nat) (f : Cluster → Cluster) : (s.modCluster c f).colours = s.colours := rfl
@[simp] theorem State.modCluster_residual (c : Nat) (f : Cluster → Cluster) : (s.modCluster c f).residual = s.residual := rfl
@[simp] theorem State.modCluster_twaits (c : Nat) (f : Cluster → Cluster) : (s.modCluster c f).twaits = s.twaits := rfl
@[simp] theorem State.modCluster_removals (c : Nat) (f : Cluster → Cluster) : (s.modCluster c f).removals = s.removals := rfl
@[simp] theorem State.modCluster_clock (c : Nat) (f : Cluster → Cluster) : (s.modCluster c f).clock = s.clock := rfl
@[simp] theorem State.modCluster_pkg (c : Nat) (f : Cluster → Cluster) : (s.modCluster c f).pkg = s.pkg := rfl

/-! ### modStation -/

@[simp] theorem State.modStation_cur (m : Nat) (f : Station → Station) : (s.modStation m f).cur = s.cur := rfl
@[simp] theorem State.modStation_agenda (m : Nat) (f : Station → Station) : (s.modStation m f).agenda = s.agenda := rfl
@[simp] theorem State.modStation_free (m : Nat) (f : Station → Station) : (s.modStation m f).free = s.free := rfl
@[simp] theorem State.modStation_mem (m : Nat) (f : Station → Station) : (s.modStation m f).mem = s.mem := rfl
@[simp] theorem State.modStation_poison (m : Nat) (f : Station → Station) : (s.modStation m f).poison = s.poison := rfl
@[simp] theorem State.modStation_l2 (m : Nat) (f : Station → Station) : (s.modStation m f).l2 = s.l2 := rfl
@[simp] theorem State.modStation_harts (m : Nat) (f : Station → Station) : (s.modStation m f).harts = s.harts := rfl
@[simp] theorem State.modStation_units (m : Nat) (f : Station → Station) : (s.modStation m f).units = s.units := rfl
@[simp] theorem State.modStation_quads (m : Nat) (f : Station → Station) : (s.modStation m f).quads = s.quads := rfl
@[simp] theorem State.modStation_clusters (m : Nat) (f : Station → Station) : (s.modStation m f).clusters = s.clusters := rfl
@[simp] theorem State.modStation_dies (m : Nat) (f : Station → Station) : (s.modStation m f).dies = s.dies := rfl
@[simp] theorem State.modStation_mesh (m : Nat) (f : Station → Station) : (s.modStation m f).mesh = s.mesh := rfl
@[simp] theorem State.modStation_pendRecords (m : Nat) (f : Station → Station) : (s.modStation m f).pendRecords = s.pendRecords := rfl
@[simp] theorem State.modStation_heldAway (m : Nat) (f : Station → Station) : (s.modStation m f).heldAway = s.heldAway := rfl
@[simp] theorem State.modStation_walks (m : Nat) (f : Station → Station) : (s.modStation m f).walks = s.walks := rfl
@[simp] theorem State.modStation_convoys (m : Nat) (f : Station → Station) : (s.modStation m f).convoys = s.convoys := rfl
@[simp] theorem State.modStation_bcasts (m : Nat) (f : Station → Station) : (s.modStation m f).bcasts = s.bcasts := rfl
@[simp] theorem State.modStation_scOrder (m : Nat) (f : Station → Station) : (s.modStation m f).scOrder = s.scOrder := rfl
@[simp] theorem State.modStation_cut (m : Nat) (f : Station → Station) : (s.modStation m f).cut = s.cut := rfl
@[simp] theorem State.modStation_colours (m : Nat) (f : Station → Station) : (s.modStation m f).colours = s.colours := rfl
@[simp] theorem State.modStation_residual (m : Nat) (f : Station → Station) : (s.modStation m f).residual = s.residual := rfl
@[simp] theorem State.modStation_twaits (m : Nat) (f : Station → Station) : (s.modStation m f).twaits = s.twaits := rfl
@[simp] theorem State.modStation_removals (m : Nat) (f : Station → Station) : (s.modStation m f).removals = s.removals := rfl
@[simp] theorem State.modStation_clock (m : Nat) (f : Station → Station) : (s.modStation m f).clock = s.clock := rfl
@[simp] theorem State.modStation_pkg (m : Nat) (f : Station → Station) : (s.modStation m f).pkg = s.pkg := rfl

/-! ### modDie -/

@[simp] theorem State.modDie_cur (d : Nat) (f : Die → Die) : (s.modDie d f).cur = s.cur := rfl
@[simp] theorem State.modDie_agenda (d : Nat) (f : Die → Die) : (s.modDie d f).agenda = s.agenda := rfl
@[simp] theorem State.modDie_free (d : Nat) (f : Die → Die) : (s.modDie d f).free = s.free := rfl
@[simp] theorem State.modDie_mem (d : Nat) (f : Die → Die) : (s.modDie d f).mem = s.mem := rfl
@[simp] theorem State.modDie_poison (d : Nat) (f : Die → Die) : (s.modDie d f).poison = s.poison := rfl
@[simp] theorem State.modDie_l2 (d : Nat) (f : Die → Die) : (s.modDie d f).l2 = s.l2 := rfl
@[simp] theorem State.modDie_harts (d : Nat) (f : Die → Die) : (s.modDie d f).harts = s.harts := rfl
@[simp] theorem State.modDie_units (d : Nat) (f : Die → Die) : (s.modDie d f).units = s.units := rfl
@[simp] theorem State.modDie_quads (d : Nat) (f : Die → Die) : (s.modDie d f).quads = s.quads := rfl
@[simp] theorem State.modDie_clusters (d : Nat) (f : Die → Die) : (s.modDie d f).clusters = s.clusters := rfl
@[simp] theorem State.modDie_stations (d : Nat) (f : Die → Die) : (s.modDie d f).stations = s.stations := rfl
@[simp] theorem State.modDie_mesh (d : Nat) (f : Die → Die) : (s.modDie d f).mesh = s.mesh := rfl
@[simp] theorem State.modDie_pendRecords (d : Nat) (f : Die → Die) : (s.modDie d f).pendRecords = s.pendRecords := rfl
@[simp] theorem State.modDie_heldAway (d : Nat) (f : Die → Die) : (s.modDie d f).heldAway = s.heldAway := rfl
@[simp] theorem State.modDie_walks (d : Nat) (f : Die → Die) : (s.modDie d f).walks = s.walks := rfl
@[simp] theorem State.modDie_convoys (d : Nat) (f : Die → Die) : (s.modDie d f).convoys = s.convoys := rfl
@[simp] theorem State.modDie_bcasts (d : Nat) (f : Die → Die) : (s.modDie d f).bcasts = s.bcasts := rfl
@[simp] theorem State.modDie_scOrder (d : Nat) (f : Die → Die) : (s.modDie d f).scOrder = s.scOrder := rfl
@[simp] theorem State.modDie_cut (d : Nat) (f : Die → Die) : (s.modDie d f).cut = s.cut := rfl
@[simp] theorem State.modDie_colours (d : Nat) (f : Die → Die) : (s.modDie d f).colours = s.colours := rfl
@[simp] theorem State.modDie_residual (d : Nat) (f : Die → Die) : (s.modDie d f).residual = s.residual := rfl
@[simp] theorem State.modDie_twaits (d : Nat) (f : Die → Die) : (s.modDie d f).twaits = s.twaits := rfl
@[simp] theorem State.modDie_removals (d : Nat) (f : Die → Die) : (s.modDie d f).removals = s.removals := rfl
@[simp] theorem State.modDie_clock (d : Nat) (f : Die → Die) : (s.modDie d f).clock = s.clock := rfl
@[simp] theorem State.modDie_pkg (d : Nat) (f : Die → Die) : (s.modDie d f).pkg = s.pkg := rfl

/-! ### modPort -/

@[simp] theorem State.modPort_cur (p : Nat) (f : Port → Port) : (s.modPort p f).cur = s.cur := rfl
@[simp] theorem State.modPort_agenda (p : Nat) (f : Port → Port) : (s.modPort p f).agenda = s.agenda := rfl
@[simp] theorem State.modPort_free (p : Nat) (f : Port → Port) : (s.modPort p f).free = s.free := rfl
@[simp] theorem State.modPort_mem (p : Nat) (f : Port → Port) : (s.modPort p f).mem = s.mem := rfl
@[simp] theorem State.modPort_poison (p : Nat) (f : Port → Port) : (s.modPort p f).poison = s.poison := rfl
@[simp] theorem State.modPort_l2 (p : Nat) (f : Port → Port) : (s.modPort p f).l2 = s.l2 := rfl
@[simp] theorem State.modPort_harts (p : Nat) (f : Port → Port) : (s.modPort p f).harts = s.harts := rfl
@[simp] theorem State.modPort_units (p : Nat) (f : Port → Port) : (s.modPort p f).units = s.units := rfl
@[simp] theorem State.modPort_quads (p : Nat) (f : Port → Port) : (s.modPort p f).quads = s.quads := rfl
@[simp] theorem State.modPort_clusters (p : Nat) (f : Port → Port) : (s.modPort p f).clusters = s.clusters := rfl
@[simp] theorem State.modPort_stations (p : Nat) (f : Port → Port) : (s.modPort p f).stations = s.stations := rfl
@[simp] theorem State.modPort_dies (p : Nat) (f : Port → Port) : (s.modPort p f).dies = s.dies := rfl
@[simp] theorem State.modPort_mesh (p : Nat) (f : Port → Port) : (s.modPort p f).mesh = s.mesh := rfl
@[simp] theorem State.modPort_pendRecords (p : Nat) (f : Port → Port) : (s.modPort p f).pendRecords = s.pendRecords := rfl
@[simp] theorem State.modPort_heldAway (p : Nat) (f : Port → Port) : (s.modPort p f).heldAway = s.heldAway := rfl
@[simp] theorem State.modPort_walks (p : Nat) (f : Port → Port) : (s.modPort p f).walks = s.walks := rfl
@[simp] theorem State.modPort_convoys (p : Nat) (f : Port → Port) : (s.modPort p f).convoys = s.convoys := rfl
@[simp] theorem State.modPort_bcasts (p : Nat) (f : Port → Port) : (s.modPort p f).bcasts = s.bcasts := rfl
@[simp] theorem State.modPort_scOrder (p : Nat) (f : Port → Port) : (s.modPort p f).scOrder = s.scOrder := rfl
@[simp] theorem State.modPort_cut (p : Nat) (f : Port → Port) : (s.modPort p f).cut = s.cut := rfl
@[simp] theorem State.modPort_colours (p : Nat) (f : Port → Port) : (s.modPort p f).colours = s.colours := rfl
@[simp] theorem State.modPort_residual (p : Nat) (f : Port → Port) : (s.modPort p f).residual = s.residual := rfl
@[simp] theorem State.modPort_twaits (p : Nat) (f : Port → Port) : (s.modPort p f).twaits = s.twaits := rfl
@[simp] theorem State.modPort_removals (p : Nat) (f : Port → Port) : (s.modPort p f).removals = s.removals := rfl
@[simp] theorem State.modPort_clock (p : Nat) (f : Port → Port) : (s.modPort p f).clock = s.clock := rfl

/-! ### modPkg -/

@[simp] theorem State.modPkg_cur (f : Pkg → Pkg) : (s.modPkg f).cur = s.cur := rfl
@[simp] theorem State.modPkg_agenda (f : Pkg → Pkg) : (s.modPkg f).agenda = s.agenda := rfl
@[simp] theorem State.modPkg_free (f : Pkg → Pkg) : (s.modPkg f).free = s.free := rfl
@[simp] theorem State.modPkg_mem (f : Pkg → Pkg) : (s.modPkg f).mem = s.mem := rfl
@[simp] theorem State.modPkg_poison (f : Pkg → Pkg) : (s.modPkg f).poison = s.poison := rfl
@[simp] theorem State.modPkg_l2 (f : Pkg → Pkg) : (s.modPkg f).l2 = s.l2 := rfl
@[simp] theorem State.modPkg_harts (f : Pkg → Pkg) : (s.modPkg f).harts = s.harts := rfl
@[simp] theorem State.modPkg_units (f : Pkg → Pkg) : (s.modPkg f).units = s.units := rfl
@[simp] theorem State.modPkg_quads (f : Pkg → Pkg) : (s.modPkg f).quads = s.quads := rfl
@[simp] theorem State.modPkg_clusters (f : Pkg → Pkg) : (s.modPkg f).clusters = s.clusters := rfl
@[simp] theorem State.modPkg_stations (f : Pkg → Pkg) : (s.modPkg f).stations = s.stations := rfl
@[simp] theorem State.modPkg_dies (f : Pkg → Pkg) : (s.modPkg f).dies = s.dies := rfl
@[simp] theorem State.modPkg_mesh (f : Pkg → Pkg) : (s.modPkg f).mesh = s.mesh := rfl
@[simp] theorem State.modPkg_pendRecords (f : Pkg → Pkg) : (s.modPkg f).pendRecords = s.pendRecords := rfl
@[simp] theorem State.modPkg_heldAway (f : Pkg → Pkg) : (s.modPkg f).heldAway = s.heldAway := rfl
@[simp] theorem State.modPkg_walks (f : Pkg → Pkg) : (s.modPkg f).walks = s.walks := rfl
@[simp] theorem State.modPkg_convoys (f : Pkg → Pkg) : (s.modPkg f).convoys = s.convoys := rfl
@[simp] theorem State.modPkg_bcasts (f : Pkg → Pkg) : (s.modPkg f).bcasts = s.bcasts := rfl
@[simp] theorem State.modPkg_scOrder (f : Pkg → Pkg) : (s.modPkg f).scOrder = s.scOrder := rfl
@[simp] theorem State.modPkg_cut (f : Pkg → Pkg) : (s.modPkg f).cut = s.cut := rfl
@[simp] theorem State.modPkg_colours (f : Pkg → Pkg) : (s.modPkg f).colours = s.colours := rfl
@[simp] theorem State.modPkg_residual (f : Pkg → Pkg) : (s.modPkg f).residual = s.residual := rfl
@[simp] theorem State.modPkg_twaits (f : Pkg → Pkg) : (s.modPkg f).twaits = s.twaits := rfl
@[simp] theorem State.modPkg_removals (f : Pkg → Pkg) : (s.modPkg f).removals = s.removals := rfl
@[simp] theorem State.modPkg_clock (f : Pkg → Pkg) : (s.modPkg f).clock = s.clock := rfl

/-! ### modMe -/

@[simp] theorem State.modMe_cur (f : Slot → Slot) : (s.modMe f).cur = s.cur := rfl
@[simp] theorem State.modMe_agenda (f : Slot → Slot) : (s.modMe f).agenda = s.agenda := rfl
@[simp] theorem State.modMe_free (f : Slot → Slot) : (s.modMe f).free = s.free := rfl
@[simp] theorem State.modMe_mem (f : Slot → Slot) : (s.modMe f).mem = s.mem := rfl
@[simp] theorem State.modMe_poison (f : Slot → Slot) : (s.modMe f).poison = s.poison := rfl
@[simp] theorem State.modMe_l2 (f : Slot → Slot) : (s.modMe f).l2 = s.l2 := rfl
@[simp] theorem State.modMe_units (f : Slot → Slot) : (s.modMe f).units = s.units := rfl
@[simp] theorem State.modMe_quads (f : Slot → Slot) : (s.modMe f).quads = s.quads := rfl
@[simp] theorem State.modMe_clusters (f : Slot → Slot) : (s.modMe f).clusters = s.clusters := rfl
@[simp] theorem State.modMe_stations (f : Slot → Slot) : (s.modMe f).stations = s.stations := rfl
@[simp] theorem State.modMe_dies (f : Slot → Slot) : (s.modMe f).dies = s.dies := rfl
@[simp] theorem State.modMe_mesh (f : Slot → Slot) : (s.modMe f).mesh = s.mesh := rfl
@[simp] theorem State.modMe_pendRecords (f : Slot → Slot) : (s.modMe f).pendRecords = s.pendRecords := rfl
@[simp] theorem State.modMe_heldAway (f : Slot → Slot) : (s.modMe f).heldAway = s.heldAway := rfl
@[simp] theorem State.modMe_walks (f : Slot → Slot) : (s.modMe f).walks = s.walks := rfl
@[simp] theorem State.modMe_convoys (f : Slot → Slot) : (s.modMe f).convoys = s.convoys := rfl
@[simp] theorem State.modMe_bcasts (f : Slot → Slot) : (s.modMe f).bcasts = s.bcasts := rfl
@[simp] theorem State.modMe_scOrder (f : Slot → Slot) : (s.modMe f).scOrder = s.scOrder := rfl
@[simp] theorem State.modMe_cut (f : Slot → Slot) : (s.modMe f).cut = s.cut := rfl
@[simp] theorem State.modMe_colours (f : Slot → Slot) : (s.modMe f).colours = s.colours := rfl
@[simp] theorem State.modMe_residual (f : Slot → Slot) : (s.modMe f).residual = s.residual := rfl
@[simp] theorem State.modMe_twaits (f : Slot → Slot) : (s.modMe f).twaits = s.twaits := rfl
@[simp] theorem State.modMe_removals (f : Slot → Slot) : (s.modMe f).removals = s.removals := rfl
@[simp] theorem State.modMe_clock (f : Slot → Slot) : (s.modMe f).clock = s.clock := rfl
@[simp] theorem State.modMe_pkg (f : Slot → Slot) : (s.modMe f).pkg = s.pkg := rfl

/-! ### modMine -/

@[simp] theorem State.modMine_cur (f : UnitSt → UnitSt) : (s.modMine f).cur = s.cur := rfl
@[simp] theorem State.modMine_agenda (f : UnitSt → UnitSt) : (s.modMine f).agenda = s.agenda := rfl
@[simp] theorem State.modMine_free (f : UnitSt → UnitSt) : (s.modMine f).free = s.free := rfl
@[simp] theorem State.modMine_mem (f : UnitSt → UnitSt) : (s.modMine f).mem = s.mem := rfl
@[simp] theorem State.modMine_poison (f : UnitSt → UnitSt) : (s.modMine f).poison = s.poison := rfl
@[simp] theorem State.modMine_l2 (f : UnitSt → UnitSt) : (s.modMine f).l2 = s.l2 := rfl
@[simp] theorem State.modMine_harts (f : UnitSt → UnitSt) : (s.modMine f).harts = s.harts := rfl
@[simp] theorem State.modMine_quads (f : UnitSt → UnitSt) : (s.modMine f).quads = s.quads := rfl
@[simp] theorem State.modMine_clusters (f : UnitSt → UnitSt) : (s.modMine f).clusters = s.clusters := rfl
@[simp] theorem State.modMine_stations (f : UnitSt → UnitSt) : (s.modMine f).stations = s.stations := rfl
@[simp] theorem State.modMine_dies (f : UnitSt → UnitSt) : (s.modMine f).dies = s.dies := rfl
@[simp] theorem State.modMine_mesh (f : UnitSt → UnitSt) : (s.modMine f).mesh = s.mesh := rfl
@[simp] theorem State.modMine_pendRecords (f : UnitSt → UnitSt) : (s.modMine f).pendRecords = s.pendRecords := rfl
@[simp] theorem State.modMine_heldAway (f : UnitSt → UnitSt) : (s.modMine f).heldAway = s.heldAway := rfl
@[simp] theorem State.modMine_walks (f : UnitSt → UnitSt) : (s.modMine f).walks = s.walks := rfl
@[simp] theorem State.modMine_convoys (f : UnitSt → UnitSt) : (s.modMine f).convoys = s.convoys := rfl
@[simp] theorem State.modMine_bcasts (f : UnitSt → UnitSt) : (s.modMine f).bcasts = s.bcasts := rfl
@[simp] theorem State.modMine_scOrder (f : UnitSt → UnitSt) : (s.modMine f).scOrder = s.scOrder := rfl
@[simp] theorem State.modMine_cut (f : UnitSt → UnitSt) : (s.modMine f).cut = s.cut := rfl
@[simp] theorem State.modMine_colours (f : UnitSt → UnitSt) : (s.modMine f).colours = s.colours := rfl
@[simp] theorem State.modMine_residual (f : UnitSt → UnitSt) : (s.modMine f).residual = s.residual := rfl
@[simp] theorem State.modMine_twaits (f : UnitSt → UnitSt) : (s.modMine f).twaits = s.twaits := rfl
@[simp] theorem State.modMine_removals (f : UnitSt → UnitSt) : (s.modMine f).removals = s.removals := rfl
@[simp] theorem State.modMine_clock (f : UnitSt → UnitSt) : (s.modMine f).clock = s.clock := rfl
@[simp] theorem State.modMine_pkg (f : UnitSt → UnitSt) : (s.modMine f).pkg = s.pkg := rfl

/-! ### modNi -/

@[simp] theorem State.modNi_cur (u : Nat) (f : Ni → Ni) : (s.modNi u f).cur = s.cur := rfl
@[simp] theorem State.modNi_agenda (u : Nat) (f : Ni → Ni) : (s.modNi u f).agenda = s.agenda := rfl
@[simp] theorem State.modNi_free (u : Nat) (f : Ni → Ni) : (s.modNi u f).free = s.free := rfl
@[simp] theorem State.modNi_mem (u : Nat) (f : Ni → Ni) : (s.modNi u f).mem = s.mem := rfl
@[simp] theorem State.modNi_poison (u : Nat) (f : Ni → Ni) : (s.modNi u f).poison = s.poison := rfl
@[simp] theorem State.modNi_l2 (u : Nat) (f : Ni → Ni) : (s.modNi u f).l2 = s.l2 := rfl
@[simp] theorem State.modNi_harts (u : Nat) (f : Ni → Ni) : (s.modNi u f).harts = s.harts := rfl
@[simp] theorem State.modNi_quads (u : Nat) (f : Ni → Ni) : (s.modNi u f).quads = s.quads := rfl
@[simp] theorem State.modNi_clusters (u : Nat) (f : Ni → Ni) : (s.modNi u f).clusters = s.clusters := rfl
@[simp] theorem State.modNi_stations (u : Nat) (f : Ni → Ni) : (s.modNi u f).stations = s.stations := rfl
@[simp] theorem State.modNi_dies (u : Nat) (f : Ni → Ni) : (s.modNi u f).dies = s.dies := rfl
@[simp] theorem State.modNi_mesh (u : Nat) (f : Ni → Ni) : (s.modNi u f).mesh = s.mesh := rfl
@[simp] theorem State.modNi_pendRecords (u : Nat) (f : Ni → Ni) : (s.modNi u f).pendRecords = s.pendRecords := rfl
@[simp] theorem State.modNi_heldAway (u : Nat) (f : Ni → Ni) : (s.modNi u f).heldAway = s.heldAway := rfl
@[simp] theorem State.modNi_walks (u : Nat) (f : Ni → Ni) : (s.modNi u f).walks = s.walks := rfl
@[simp] theorem State.modNi_convoys (u : Nat) (f : Ni → Ni) : (s.modNi u f).convoys = s.convoys := rfl
@[simp] theorem State.modNi_bcasts (u : Nat) (f : Ni → Ni) : (s.modNi u f).bcasts = s.bcasts := rfl
@[simp] theorem State.modNi_scOrder (u : Nat) (f : Ni → Ni) : (s.modNi u f).scOrder = s.scOrder := rfl
@[simp] theorem State.modNi_cut (u : Nat) (f : Ni → Ni) : (s.modNi u f).cut = s.cut := rfl
@[simp] theorem State.modNi_colours (u : Nat) (f : Ni → Ni) : (s.modNi u f).colours = s.colours := rfl
@[simp] theorem State.modNi_residual (u : Nat) (f : Ni → Ni) : (s.modNi u f).residual = s.residual := rfl
@[simp] theorem State.modNi_twaits (u : Nat) (f : Ni → Ni) : (s.modNi u f).twaits = s.twaits := rfl
@[simp] theorem State.modNi_removals (u : Nat) (f : Ni → Ni) : (s.modNi u f).removals = s.removals := rfl
@[simp] theorem State.modNi_clock (u : Nat) (f : Ni → Ni) : (s.modNi u f).clock = s.clock := rfl
@[simp] theorem State.modNi_pkg (u : Nat) (f : Ni → Ni) : (s.modNi u f).pkg = s.pkg := rfl

/-! ### modFe -/

@[simp] theorem State.modFe_cur (u : Nat) (f : TileFE → TileFE) : (s.modFe u f).cur = s.cur := rfl
@[simp] theorem State.modFe_agenda (u : Nat) (f : TileFE → TileFE) : (s.modFe u f).agenda = s.agenda := rfl
@[simp] theorem State.modFe_free (u : Nat) (f : TileFE → TileFE) : (s.modFe u f).free = s.free := rfl
@[simp] theorem State.modFe_mem (u : Nat) (f : TileFE → TileFE) : (s.modFe u f).mem = s.mem := rfl
@[simp] theorem State.modFe_poison (u : Nat) (f : TileFE → TileFE) : (s.modFe u f).poison = s.poison := rfl
@[simp] theorem State.modFe_l2 (u : Nat) (f : TileFE → TileFE) : (s.modFe u f).l2 = s.l2 := rfl
@[simp] theorem State.modFe_harts (u : Nat) (f : TileFE → TileFE) : (s.modFe u f).harts = s.harts := rfl
@[simp] theorem State.modFe_quads (u : Nat) (f : TileFE → TileFE) : (s.modFe u f).quads = s.quads := rfl
@[simp] theorem State.modFe_clusters (u : Nat) (f : TileFE → TileFE) : (s.modFe u f).clusters = s.clusters := rfl
@[simp] theorem State.modFe_stations (u : Nat) (f : TileFE → TileFE) : (s.modFe u f).stations = s.stations := rfl
@[simp] theorem State.modFe_dies (u : Nat) (f : TileFE → TileFE) : (s.modFe u f).dies = s.dies := rfl
@[simp] theorem State.modFe_mesh (u : Nat) (f : TileFE → TileFE) : (s.modFe u f).mesh = s.mesh := rfl
@[simp] theorem State.modFe_pendRecords (u : Nat) (f : TileFE → TileFE) : (s.modFe u f).pendRecords = s.pendRecords := rfl
@[simp] theorem State.modFe_heldAway (u : Nat) (f : TileFE → TileFE) : (s.modFe u f).heldAway = s.heldAway := rfl
@[simp] theorem State.modFe_walks (u : Nat) (f : TileFE → TileFE) : (s.modFe u f).walks = s.walks := rfl
@[simp] theorem State.modFe_convoys (u : Nat) (f : TileFE → TileFE) : (s.modFe u f).convoys = s.convoys := rfl
@[simp] theorem State.modFe_bcasts (u : Nat) (f : TileFE → TileFE) : (s.modFe u f).bcasts = s.bcasts := rfl
@[simp] theorem State.modFe_scOrder (u : Nat) (f : TileFE → TileFE) : (s.modFe u f).scOrder = s.scOrder := rfl
@[simp] theorem State.modFe_cut (u : Nat) (f : TileFE → TileFE) : (s.modFe u f).cut = s.cut := rfl
@[simp] theorem State.modFe_colours (u : Nat) (f : TileFE → TileFE) : (s.modFe u f).colours = s.colours := rfl
@[simp] theorem State.modFe_residual (u : Nat) (f : TileFE → TileFE) : (s.modFe u f).residual = s.residual := rfl
@[simp] theorem State.modFe_twaits (u : Nat) (f : TileFE → TileFE) : (s.modFe u f).twaits = s.twaits := rfl
@[simp] theorem State.modFe_removals (u : Nat) (f : TileFE → TileFE) : (s.modFe u f).removals = s.removals := rfl
@[simp] theorem State.modFe_clock (u : Nat) (f : TileFE → TileFE) : (s.modFe u f).clock = s.clock := rfl
@[simp] theorem State.modFe_pkg (u : Nat) (f : TileFE → TileFE) : (s.modFe u f).pkg = s.pkg := rfl

/-! ### took -/

@[simp] theorem State.took_cur : (s.took).cur = s.cur := rfl
@[simp] theorem State.took_agenda : (s.took).agenda = s.agenda := rfl
@[simp] theorem State.took_mem : (s.took).mem = s.mem := rfl
@[simp] theorem State.took_poison : (s.took).poison = s.poison := rfl
@[simp] theorem State.took_l2 : (s.took).l2 = s.l2 := rfl
@[simp] theorem State.took_harts : (s.took).harts = s.harts := rfl
@[simp] theorem State.took_units : (s.took).units = s.units := rfl
@[simp] theorem State.took_quads : (s.took).quads = s.quads := rfl
@[simp] theorem State.took_clusters : (s.took).clusters = s.clusters := rfl
@[simp] theorem State.took_stations : (s.took).stations = s.stations := rfl
@[simp] theorem State.took_dies : (s.took).dies = s.dies := rfl
@[simp] theorem State.took_mesh : (s.took).mesh = s.mesh := rfl
@[simp] theorem State.took_pendRecords : (s.took).pendRecords = s.pendRecords := rfl
@[simp] theorem State.took_heldAway : (s.took).heldAway = s.heldAway := rfl
@[simp] theorem State.took_walks : (s.took).walks = s.walks := rfl
@[simp] theorem State.took_convoys : (s.took).convoys = s.convoys := rfl
@[simp] theorem State.took_bcasts : (s.took).bcasts = s.bcasts := rfl
@[simp] theorem State.took_scOrder : (s.took).scOrder = s.scOrder := rfl
@[simp] theorem State.took_cut : (s.took).cut = s.cut := rfl
@[simp] theorem State.took_colours : (s.took).colours = s.colours := rfl
@[simp] theorem State.took_residual : (s.took).residual = s.residual := rfl
@[simp] theorem State.took_twaits : (s.took).twaits = s.twaits := rfl
@[simp] theorem State.took_removals : (s.took).removals = s.removals := rfl
@[simp] theorem State.took_clock : (s.took).clock = s.clock := rfl
@[simp] theorem State.took_pkg : (s.took).pkg = s.pkg := rfl

/-! ### later -/

@[simp] theorem State.later_cur (e : Instr) : (s.later e).cur = s.cur := rfl
@[simp] theorem State.later_free (e : Instr) : (s.later e).free = s.free := rfl
@[simp] theorem State.later_mem (e : Instr) : (s.later e).mem = s.mem := rfl
@[simp] theorem State.later_poison (e : Instr) : (s.later e).poison = s.poison := rfl
@[simp] theorem State.later_l2 (e : Instr) : (s.later e).l2 = s.l2 := rfl
@[simp] theorem State.later_harts (e : Instr) : (s.later e).harts = s.harts := rfl
@[simp] theorem State.later_units (e : Instr) : (s.later e).units = s.units := rfl
@[simp] theorem State.later_quads (e : Instr) : (s.later e).quads = s.quads := rfl
@[simp] theorem State.later_clusters (e : Instr) : (s.later e).clusters = s.clusters := rfl
@[simp] theorem State.later_stations (e : Instr) : (s.later e).stations = s.stations := rfl
@[simp] theorem State.later_dies (e : Instr) : (s.later e).dies = s.dies := rfl
@[simp] theorem State.later_mesh (e : Instr) : (s.later e).mesh = s.mesh := rfl
@[simp] theorem State.later_pendRecords (e : Instr) : (s.later e).pendRecords = s.pendRecords := rfl
@[simp] theorem State.later_heldAway (e : Instr) : (s.later e).heldAway = s.heldAway := rfl
@[simp] theorem State.later_walks (e : Instr) : (s.later e).walks = s.walks := rfl
@[simp] theorem State.later_convoys (e : Instr) : (s.later e).convoys = s.convoys := rfl
@[simp] theorem State.later_bcasts (e : Instr) : (s.later e).bcasts = s.bcasts := rfl
@[simp] theorem State.later_scOrder (e : Instr) : (s.later e).scOrder = s.scOrder := rfl
@[simp] theorem State.later_cut (e : Instr) : (s.later e).cut = s.cut := rfl
@[simp] theorem State.later_colours (e : Instr) : (s.later e).colours = s.colours := rfl
@[simp] theorem State.later_residual (e : Instr) : (s.later e).residual = s.residual := rfl
@[simp] theorem State.later_twaits (e : Instr) : (s.later e).twaits = s.twaits := rfl
@[simp] theorem State.later_removals (e : Instr) : (s.later e).removals = s.removals := rfl
@[simp] theorem State.later_clock (e : Instr) : (s.later e).clock = s.clock := rfl
@[simp] theorem State.later_pkg (e : Instr) : (s.later e).pkg = s.pkg := rfl

/-! ### soon -/

@[simp] theorem State.soon_cur (e : Instr) : (s.soon e).cur = s.cur := rfl
@[simp] theorem State.soon_free (e : Instr) : (s.soon e).free = s.free := rfl
@[simp] theorem State.soon_mem (e : Instr) : (s.soon e).mem = s.mem := rfl
@[simp] theorem State.soon_poison (e : Instr) : (s.soon e).poison = s.poison := rfl
@[simp] theorem State.soon_l2 (e : Instr) : (s.soon e).l2 = s.l2 := rfl
@[simp] theorem State.soon_harts (e : Instr) : (s.soon e).harts = s.harts := rfl
@[simp] theorem State.soon_units (e : Instr) : (s.soon e).units = s.units := rfl
@[simp] theorem State.soon_quads (e : Instr) : (s.soon e).quads = s.quads := rfl
@[simp] theorem State.soon_clusters (e : Instr) : (s.soon e).clusters = s.clusters := rfl
@[simp] theorem State.soon_stations (e : Instr) : (s.soon e).stations = s.stations := rfl
@[simp] theorem State.soon_dies (e : Instr) : (s.soon e).dies = s.dies := rfl
@[simp] theorem State.soon_mesh (e : Instr) : (s.soon e).mesh = s.mesh := rfl
@[simp] theorem State.soon_pendRecords (e : Instr) : (s.soon e).pendRecords = s.pendRecords := rfl
@[simp] theorem State.soon_heldAway (e : Instr) : (s.soon e).heldAway = s.heldAway := rfl
@[simp] theorem State.soon_walks (e : Instr) : (s.soon e).walks = s.walks := rfl
@[simp] theorem State.soon_convoys (e : Instr) : (s.soon e).convoys = s.convoys := rfl
@[simp] theorem State.soon_bcasts (e : Instr) : (s.soon e).bcasts = s.bcasts := rfl
@[simp] theorem State.soon_scOrder (e : Instr) : (s.soon e).scOrder = s.scOrder := rfl
@[simp] theorem State.soon_cut (e : Instr) : (s.soon e).cut = s.cut := rfl
@[simp] theorem State.soon_colours (e : Instr) : (s.soon e).colours = s.colours := rfl
@[simp] theorem State.soon_residual (e : Instr) : (s.soon e).residual = s.residual := rfl
@[simp] theorem State.soon_twaits (e : Instr) : (s.soon e).twaits = s.twaits := rfl
@[simp] theorem State.soon_removals (e : Instr) : (s.soon e).removals = s.removals := rfl
@[simp] theorem State.soon_clock (e : Instr) : (s.soon e).clock = s.clock := rfl
@[simp] theorem State.soon_pkg (e : Instr) : (s.soon e).pkg = s.pkg := rfl

/-! ### put -/

@[simp] theorem State.put_cur (a n v : Nat) : (s.put a n v).cur = s.cur := rfl
@[simp] theorem State.put_agenda (a n v : Nat) : (s.put a n v).agenda = s.agenda := rfl
@[simp] theorem State.put_free (a n v : Nat) : (s.put a n v).free = s.free := rfl
@[simp] theorem State.put_poison (a n v : Nat) : (s.put a n v).poison = s.poison := rfl
@[simp] theorem State.put_l2 (a n v : Nat) : (s.put a n v).l2 = s.l2 := rfl
@[simp] theorem State.put_harts (a n v : Nat) : (s.put a n v).harts = s.harts := rfl
@[simp] theorem State.put_units (a n v : Nat) : (s.put a n v).units = s.units := rfl
@[simp] theorem State.put_quads (a n v : Nat) : (s.put a n v).quads = s.quads := rfl
@[simp] theorem State.put_clusters (a n v : Nat) : (s.put a n v).clusters = s.clusters := rfl
@[simp] theorem State.put_stations (a n v : Nat) : (s.put a n v).stations = s.stations := rfl
@[simp] theorem State.put_dies (a n v : Nat) : (s.put a n v).dies = s.dies := rfl
@[simp] theorem State.put_mesh (a n v : Nat) : (s.put a n v).mesh = s.mesh := rfl
@[simp] theorem State.put_pendRecords (a n v : Nat) : (s.put a n v).pendRecords = s.pendRecords := rfl
@[simp] theorem State.put_heldAway (a n v : Nat) : (s.put a n v).heldAway = s.heldAway := rfl
@[simp] theorem State.put_walks (a n v : Nat) : (s.put a n v).walks = s.walks := rfl
@[simp] theorem State.put_convoys (a n v : Nat) : (s.put a n v).convoys = s.convoys := rfl
@[simp] theorem State.put_bcasts (a n v : Nat) : (s.put a n v).bcasts = s.bcasts := rfl
@[simp] theorem State.put_scOrder (a n v : Nat) : (s.put a n v).scOrder = s.scOrder := rfl
@[simp] theorem State.put_cut (a n v : Nat) : (s.put a n v).cut = s.cut := rfl
@[simp] theorem State.put_colours (a n v : Nat) : (s.put a n v).colours = s.colours := rfl
@[simp] theorem State.put_residual (a n v : Nat) : (s.put a n v).residual = s.residual := rfl
@[simp] theorem State.put_twaits (a n v : Nat) : (s.put a n v).twaits = s.twaits := rfl
@[simp] theorem State.put_removals (a n v : Nat) : (s.put a n v).removals = s.removals := rfl
@[simp] theorem State.put_clock (a n v : Nat) : (s.put a n v).clock = s.clock := rfl
@[simp] theorem State.put_pkg (a n v : Nat) : (s.put a n v).pkg = s.pkg := rfl

/-! ### putW -/

@[simp] theorem State.putW_cur (a : Nat) (v : Word) : (s.putW a v).cur = s.cur := rfl
@[simp] theorem State.putW_agenda (a : Nat) (v : Word) : (s.putW a v).agenda = s.agenda := rfl
@[simp] theorem State.putW_free (a : Nat) (v : Word) : (s.putW a v).free = s.free := rfl
@[simp] theorem State.putW_poison (a : Nat) (v : Word) : (s.putW a v).poison = s.poison := rfl
@[simp] theorem State.putW_l2 (a : Nat) (v : Word) : (s.putW a v).l2 = s.l2 := rfl
@[simp] theorem State.putW_harts (a : Nat) (v : Word) : (s.putW a v).harts = s.harts := rfl
@[simp] theorem State.putW_units (a : Nat) (v : Word) : (s.putW a v).units = s.units := rfl
@[simp] theorem State.putW_quads (a : Nat) (v : Word) : (s.putW a v).quads = s.quads := rfl
@[simp] theorem State.putW_clusters (a : Nat) (v : Word) : (s.putW a v).clusters = s.clusters := rfl
@[simp] theorem State.putW_stations (a : Nat) (v : Word) : (s.putW a v).stations = s.stations := rfl
@[simp] theorem State.putW_dies (a : Nat) (v : Word) : (s.putW a v).dies = s.dies := rfl
@[simp] theorem State.putW_mesh (a : Nat) (v : Word) : (s.putW a v).mesh = s.mesh := rfl
@[simp] theorem State.putW_pendRecords (a : Nat) (v : Word) : (s.putW a v).pendRecords = s.pendRecords := rfl
@[simp] theorem State.putW_heldAway (a : Nat) (v : Word) : (s.putW a v).heldAway = s.heldAway := rfl
@[simp] theorem State.putW_walks (a : Nat) (v : Word) : (s.putW a v).walks = s.walks := rfl
@[simp] theorem State.putW_convoys (a : Nat) (v : Word) : (s.putW a v).convoys = s.convoys := rfl
@[simp] theorem State.putW_bcasts (a : Nat) (v : Word) : (s.putW a v).bcasts = s.bcasts := rfl
@[simp] theorem State.putW_scOrder (a : Nat) (v : Word) : (s.putW a v).scOrder = s.scOrder := rfl
@[simp] theorem State.putW_cut (a : Nat) (v : Word) : (s.putW a v).cut = s.cut := rfl
@[simp] theorem State.putW_colours (a : Nat) (v : Word) : (s.putW a v).colours = s.colours := rfl
@[simp] theorem State.putW_residual (a : Nat) (v : Word) : (s.putW a v).residual = s.residual := rfl
@[simp] theorem State.putW_twaits (a : Nat) (v : Word) : (s.putW a v).twaits = s.twaits := rfl
@[simp] theorem State.putW_removals (a : Nat) (v : Word) : (s.putW a v).removals = s.removals := rfl
@[simp] theorem State.putW_clock (a : Nat) (v : Word) : (s.putW a v).clock = s.clock := rfl
@[simp] theorem State.putW_pkg (a : Nat) (v : Word) : (s.putW a v).pkg = s.pkg := rfl

/-! ### putCells -/

@[simp] theorem State.putCells_cur (cs : List (Nat × Byte)) : (s.putCells cs).cur = s.cur := rfl
@[simp] theorem State.putCells_agenda (cs : List (Nat × Byte)) : (s.putCells cs).agenda = s.agenda := rfl
@[simp] theorem State.putCells_free (cs : List (Nat × Byte)) : (s.putCells cs).free = s.free := rfl
@[simp] theorem State.putCells_poison (cs : List (Nat × Byte)) : (s.putCells cs).poison = s.poison := rfl
@[simp] theorem State.putCells_l2 (cs : List (Nat × Byte)) : (s.putCells cs).l2 = s.l2 := rfl
@[simp] theorem State.putCells_harts (cs : List (Nat × Byte)) : (s.putCells cs).harts = s.harts := rfl
@[simp] theorem State.putCells_units (cs : List (Nat × Byte)) : (s.putCells cs).units = s.units := rfl
@[simp] theorem State.putCells_quads (cs : List (Nat × Byte)) : (s.putCells cs).quads = s.quads := rfl
@[simp] theorem State.putCells_clusters (cs : List (Nat × Byte)) : (s.putCells cs).clusters = s.clusters := rfl
@[simp] theorem State.putCells_stations (cs : List (Nat × Byte)) : (s.putCells cs).stations = s.stations := rfl
@[simp] theorem State.putCells_dies (cs : List (Nat × Byte)) : (s.putCells cs).dies = s.dies := rfl
@[simp] theorem State.putCells_mesh (cs : List (Nat × Byte)) : (s.putCells cs).mesh = s.mesh := rfl
@[simp] theorem State.putCells_pendRecords (cs : List (Nat × Byte)) : (s.putCells cs).pendRecords = s.pendRecords := rfl
@[simp] theorem State.putCells_heldAway (cs : List (Nat × Byte)) : (s.putCells cs).heldAway = s.heldAway := rfl
@[simp] theorem State.putCells_walks (cs : List (Nat × Byte)) : (s.putCells cs).walks = s.walks := rfl
@[simp] theorem State.putCells_convoys (cs : List (Nat × Byte)) : (s.putCells cs).convoys = s.convoys := rfl
@[simp] theorem State.putCells_bcasts (cs : List (Nat × Byte)) : (s.putCells cs).bcasts = s.bcasts := rfl
@[simp] theorem State.putCells_scOrder (cs : List (Nat × Byte)) : (s.putCells cs).scOrder = s.scOrder := rfl
@[simp] theorem State.putCells_cut (cs : List (Nat × Byte)) : (s.putCells cs).cut = s.cut := rfl
@[simp] theorem State.putCells_colours (cs : List (Nat × Byte)) : (s.putCells cs).colours = s.colours := rfl
@[simp] theorem State.putCells_residual (cs : List (Nat × Byte)) : (s.putCells cs).residual = s.residual := rfl
@[simp] theorem State.putCells_twaits (cs : List (Nat × Byte)) : (s.putCells cs).twaits = s.twaits := rfl
@[simp] theorem State.putCells_removals (cs : List (Nat × Byte)) : (s.putCells cs).removals = s.removals := rfl
@[simp] theorem State.putCells_clock (cs : List (Nat × Byte)) : (s.putCells cs).clock = s.clock := rfl
@[simp] theorem State.putCells_pkg (cs : List (Nat × Byte)) : (s.putCells cs).pkg = s.pkg := rfl

/-! ### clearPoison -/

@[simp] theorem State.clearPoison_cur (a n : Nat) : (s.clearPoison a n).cur = s.cur := rfl
@[simp] theorem State.clearPoison_agenda (a n : Nat) : (s.clearPoison a n).agenda = s.agenda := rfl
@[simp] theorem State.clearPoison_free (a n : Nat) : (s.clearPoison a n).free = s.free := rfl
@[simp] theorem State.clearPoison_mem (a n : Nat) : (s.clearPoison a n).mem = s.mem := rfl
@[simp] theorem State.clearPoison_harts (a n : Nat) : (s.clearPoison a n).harts = s.harts := rfl
@[simp] theorem State.clearPoison_units (a n : Nat) : (s.clearPoison a n).units = s.units := rfl
@[simp] theorem State.clearPoison_quads (a n : Nat) : (s.clearPoison a n).quads = s.quads := rfl
@[simp] theorem State.clearPoison_clusters (a n : Nat) : (s.clearPoison a n).clusters = s.clusters := rfl
@[simp] theorem State.clearPoison_stations (a n : Nat) : (s.clearPoison a n).stations = s.stations := rfl
@[simp] theorem State.clearPoison_dies (a n : Nat) : (s.clearPoison a n).dies = s.dies := rfl
@[simp] theorem State.clearPoison_mesh (a n : Nat) : (s.clearPoison a n).mesh = s.mesh := rfl
@[simp] theorem State.clearPoison_pendRecords (a n : Nat) : (s.clearPoison a n).pendRecords = s.pendRecords := rfl
@[simp] theorem State.clearPoison_heldAway (a n : Nat) : (s.clearPoison a n).heldAway = s.heldAway := rfl
@[simp] theorem State.clearPoison_walks (a n : Nat) : (s.clearPoison a n).walks = s.walks := rfl
@[simp] theorem State.clearPoison_convoys (a n : Nat) : (s.clearPoison a n).convoys = s.convoys := rfl
@[simp] theorem State.clearPoison_bcasts (a n : Nat) : (s.clearPoison a n).bcasts = s.bcasts := rfl
@[simp] theorem State.clearPoison_scOrder (a n : Nat) : (s.clearPoison a n).scOrder = s.scOrder := rfl
@[simp] theorem State.clearPoison_cut (a n : Nat) : (s.clearPoison a n).cut = s.cut := rfl
@[simp] theorem State.clearPoison_colours (a n : Nat) : (s.clearPoison a n).colours = s.colours := rfl
@[simp] theorem State.clearPoison_residual (a n : Nat) : (s.clearPoison a n).residual = s.residual := rfl
@[simp] theorem State.clearPoison_twaits (a n : Nat) : (s.clearPoison a n).twaits = s.twaits := rfl
@[simp] theorem State.clearPoison_removals (a n : Nat) : (s.clearPoison a n).removals = s.removals := rfl
@[simp] theorem State.clearPoison_clock (a n : Nat) : (s.clearPoison a n).clock = s.clock := rfl
@[simp] theorem State.clearPoison_pkg (a n : Nat) : (s.clearPoison a n).pkg = s.pkg := rfl

/-! ### emptySpan -/

@[simp] theorem State.emptySpan_cur (a n : Nat) : (s.emptySpan a n).cur = s.cur := rfl
@[simp] theorem State.emptySpan_agenda (a n : Nat) : (s.emptySpan a n).agenda = s.agenda := rfl
@[simp] theorem State.emptySpan_free (a n : Nat) : (s.emptySpan a n).free = s.free := rfl
@[simp] theorem State.emptySpan_l2 (a n : Nat) : (s.emptySpan a n).l2 = s.l2 := rfl
@[simp] theorem State.emptySpan_harts (a n : Nat) : (s.emptySpan a n).harts = s.harts := rfl
@[simp] theorem State.emptySpan_units (a n : Nat) : (s.emptySpan a n).units = s.units := rfl
@[simp] theorem State.emptySpan_quads (a n : Nat) : (s.emptySpan a n).quads = s.quads := rfl
@[simp] theorem State.emptySpan_clusters (a n : Nat) : (s.emptySpan a n).clusters = s.clusters := rfl
@[simp] theorem State.emptySpan_stations (a n : Nat) : (s.emptySpan a n).stations = s.stations := rfl
@[simp] theorem State.emptySpan_dies (a n : Nat) : (s.emptySpan a n).dies = s.dies := rfl
@[simp] theorem State.emptySpan_mesh (a n : Nat) : (s.emptySpan a n).mesh = s.mesh := rfl
@[simp] theorem State.emptySpan_pendRecords (a n : Nat) : (s.emptySpan a n).pendRecords = s.pendRecords := rfl
@[simp] theorem State.emptySpan_heldAway (a n : Nat) : (s.emptySpan a n).heldAway = s.heldAway := rfl
@[simp] theorem State.emptySpan_walks (a n : Nat) : (s.emptySpan a n).walks = s.walks := rfl
@[simp] theorem State.emptySpan_convoys (a n : Nat) : (s.emptySpan a n).convoys = s.convoys := rfl
@[simp] theorem State.emptySpan_bcasts (a n : Nat) : (s.emptySpan a n).bcasts = s.bcasts := rfl
@[simp] theorem State.emptySpan_scOrder (a n : Nat) : (s.emptySpan a n).scOrder = s.scOrder := rfl
@[simp] theorem State.emptySpan_cut (a n : Nat) : (s.emptySpan a n).cut = s.cut := rfl
@[simp] theorem State.emptySpan_colours (a n : Nat) : (s.emptySpan a n).colours = s.colours := rfl
@[simp] theorem State.emptySpan_residual (a n : Nat) : (s.emptySpan a n).residual = s.residual := rfl
@[simp] theorem State.emptySpan_twaits (a n : Nat) : (s.emptySpan a n).twaits = s.twaits := rfl
@[simp] theorem State.emptySpan_removals (a n : Nat) : (s.emptySpan a n).removals = s.removals := rfl
@[simp] theorem State.emptySpan_clock (a n : Nat) : (s.emptySpan a n).clock = s.clock := rfl
@[simp] theorem State.emptySpan_pkg (a n : Nat) : (s.emptySpan a n).pkg = s.pkg := rfl

/-! ### advance -/

@[simp] theorem State.advance_cur (n : Nat) : (s.advance n).cur = s.cur := rfl
@[simp] theorem State.advance_agenda (n : Nat) : (s.advance n).agenda = s.agenda := rfl
@[simp] theorem State.advance_free (n : Nat) : (s.advance n).free = s.free := rfl
@[simp] theorem State.advance_mem (n : Nat) : (s.advance n).mem = s.mem := rfl
@[simp] theorem State.advance_poison (n : Nat) : (s.advance n).poison = s.poison := rfl
@[simp] theorem State.advance_l2 (n : Nat) : (s.advance n).l2 = s.l2 := rfl
@[simp] theorem State.advance_units (n : Nat) : (s.advance n).units = s.units := rfl
@[simp] theorem State.advance_quads (n : Nat) : (s.advance n).quads = s.quads := rfl
@[simp] theorem State.advance_clusters (n : Nat) : (s.advance n).clusters = s.clusters := rfl
@[simp] theorem State.advance_stations (n : Nat) : (s.advance n).stations = s.stations := rfl
@[simp] theorem State.advance_dies (n : Nat) : (s.advance n).dies = s.dies := rfl
@[simp] theorem State.advance_mesh (n : Nat) : (s.advance n).mesh = s.mesh := rfl
@[simp] theorem State.advance_pendRecords (n : Nat) : (s.advance n).pendRecords = s.pendRecords := rfl
@[simp] theorem State.advance_heldAway (n : Nat) : (s.advance n).heldAway = s.heldAway := rfl
@[simp] theorem State.advance_walks (n : Nat) : (s.advance n).walks = s.walks := rfl
@[simp] theorem State.advance_convoys (n : Nat) : (s.advance n).convoys = s.convoys := rfl
@[simp] theorem State.advance_bcasts (n : Nat) : (s.advance n).bcasts = s.bcasts := rfl
@[simp] theorem State.advance_scOrder (n : Nat) : (s.advance n).scOrder = s.scOrder := rfl
@[simp] theorem State.advance_cut (n : Nat) : (s.advance n).cut = s.cut := rfl
@[simp] theorem State.advance_colours (n : Nat) : (s.advance n).colours = s.colours := rfl
@[simp] theorem State.advance_residual (n : Nat) : (s.advance n).residual = s.residual := rfl
@[simp] theorem State.advance_twaits (n : Nat) : (s.advance n).twaits = s.twaits := rfl
@[simp] theorem State.advance_removals (n : Nat) : (s.advance n).removals = s.removals := rfl
@[simp] theorem State.advance_clock (n : Nat) : (s.advance n).clock = s.clock := rfl
@[simp] theorem State.advance_pkg (n : Nat) : (s.advance n).pkg = s.pkg := rfl

/-! ### again -/

@[simp] theorem State.again_cur (n : Nat) : (s.again n).cur = s.cur := rfl
@[simp] theorem State.again_agenda (n : Nat) : (s.again n).agenda = s.agenda := rfl
@[simp] theorem State.again_free (n : Nat) : (s.again n).free = s.free := rfl
@[simp] theorem State.again_mem (n : Nat) : (s.again n).mem = s.mem := rfl
@[simp] theorem State.again_poison (n : Nat) : (s.again n).poison = s.poison := rfl
@[simp] theorem State.again_l2 (n : Nat) : (s.again n).l2 = s.l2 := rfl
@[simp] theorem State.again_units (n : Nat) : (s.again n).units = s.units := rfl
@[simp] theorem State.again_quads (n : Nat) : (s.again n).quads = s.quads := rfl
@[simp] theorem State.again_clusters (n : Nat) : (s.again n).clusters = s.clusters := rfl
@[simp] theorem State.again_stations (n : Nat) : (s.again n).stations = s.stations := rfl
@[simp] theorem State.again_dies (n : Nat) : (s.again n).dies = s.dies := rfl
@[simp] theorem State.again_mesh (n : Nat) : (s.again n).mesh = s.mesh := rfl
@[simp] theorem State.again_pendRecords (n : Nat) : (s.again n).pendRecords = s.pendRecords := rfl
@[simp] theorem State.again_heldAway (n : Nat) : (s.again n).heldAway = s.heldAway := rfl
@[simp] theorem State.again_walks (n : Nat) : (s.again n).walks = s.walks := rfl
@[simp] theorem State.again_convoys (n : Nat) : (s.again n).convoys = s.convoys := rfl
@[simp] theorem State.again_bcasts (n : Nat) : (s.again n).bcasts = s.bcasts := rfl
@[simp] theorem State.again_scOrder (n : Nat) : (s.again n).scOrder = s.scOrder := rfl
@[simp] theorem State.again_cut (n : Nat) : (s.again n).cut = s.cut := rfl
@[simp] theorem State.again_colours (n : Nat) : (s.again n).colours = s.colours := rfl
@[simp] theorem State.again_residual (n : Nat) : (s.again n).residual = s.residual := rfl
@[simp] theorem State.again_twaits (n : Nat) : (s.again n).twaits = s.twaits := rfl
@[simp] theorem State.again_removals (n : Nat) : (s.again n).removals = s.removals := rfl
@[simp] theorem State.again_clock (n : Nat) : (s.again n).clock = s.clock := rfl
@[simp] theorem State.again_pkg (n : Nat) : (s.again n).pkg = s.pkg := rfl

/-! ### acquired -/

@[simp] theorem State.acquired_cur : (s.acquired).cur = s.cur := rfl
@[simp] theorem State.acquired_agenda : (s.acquired).agenda = s.agenda := rfl
@[simp] theorem State.acquired_free : (s.acquired).free = s.free := rfl
@[simp] theorem State.acquired_mem : (s.acquired).mem = s.mem := rfl
@[simp] theorem State.acquired_poison : (s.acquired).poison = s.poison := rfl
@[simp] theorem State.acquired_l2 : (s.acquired).l2 = s.l2 := rfl
@[simp] theorem State.acquired_units : (s.acquired).units = s.units := rfl
@[simp] theorem State.acquired_quads : (s.acquired).quads = s.quads := rfl
@[simp] theorem State.acquired_clusters : (s.acquired).clusters = s.clusters := rfl
@[simp] theorem State.acquired_stations : (s.acquired).stations = s.stations := rfl
@[simp] theorem State.acquired_dies : (s.acquired).dies = s.dies := rfl
@[simp] theorem State.acquired_mesh : (s.acquired).mesh = s.mesh := rfl
@[simp] theorem State.acquired_pendRecords : (s.acquired).pendRecords = s.pendRecords := rfl
@[simp] theorem State.acquired_heldAway : (s.acquired).heldAway = s.heldAway := rfl
@[simp] theorem State.acquired_walks : (s.acquired).walks = s.walks := rfl
@[simp] theorem State.acquired_convoys : (s.acquired).convoys = s.convoys := rfl
@[simp] theorem State.acquired_bcasts : (s.acquired).bcasts = s.bcasts := rfl
@[simp] theorem State.acquired_scOrder : (s.acquired).scOrder = s.scOrder := rfl
@[simp] theorem State.acquired_cut : (s.acquired).cut = s.cut := rfl
@[simp] theorem State.acquired_colours : (s.acquired).colours = s.colours := rfl
@[simp] theorem State.acquired_residual : (s.acquired).residual = s.residual := rfl
@[simp] theorem State.acquired_twaits : (s.acquired).twaits = s.twaits := rfl
@[simp] theorem State.acquired_removals : (s.acquired).removals = s.removals := rfl
@[simp] theorem State.acquired_clock : (s.acquired).clock = s.clock := rfl
@[simp] theorem State.acquired_pkg : (s.acquired).pkg = s.pkg := rfl

/-! ### watchLine -/

@[simp] theorem State.watchLine_cur (pa n : Nat) : (s.watchLine pa n).cur = s.cur := rfl
@[simp] theorem State.watchLine_agenda (pa n : Nat) : (s.watchLine pa n).agenda = s.agenda := rfl
@[simp] theorem State.watchLine_free (pa n : Nat) : (s.watchLine pa n).free = s.free := rfl
@[simp] theorem State.watchLine_mem (pa n : Nat) : (s.watchLine pa n).mem = s.mem := rfl
@[simp] theorem State.watchLine_poison (pa n : Nat) : (s.watchLine pa n).poison = s.poison := rfl
@[simp] theorem State.watchLine_l2 (pa n : Nat) : (s.watchLine pa n).l2 = s.l2 := rfl
@[simp] theorem State.watchLine_units (pa n : Nat) : (s.watchLine pa n).units = s.units := rfl
@[simp] theorem State.watchLine_quads (pa n : Nat) : (s.watchLine pa n).quads = s.quads := rfl
@[simp] theorem State.watchLine_clusters (pa n : Nat) : (s.watchLine pa n).clusters = s.clusters := rfl
@[simp] theorem State.watchLine_stations (pa n : Nat) : (s.watchLine pa n).stations = s.stations := rfl
@[simp] theorem State.watchLine_dies (pa n : Nat) : (s.watchLine pa n).dies = s.dies := rfl
@[simp] theorem State.watchLine_mesh (pa n : Nat) : (s.watchLine pa n).mesh = s.mesh := rfl
@[simp] theorem State.watchLine_pendRecords (pa n : Nat) : (s.watchLine pa n).pendRecords = s.pendRecords := rfl
@[simp] theorem State.watchLine_heldAway (pa n : Nat) : (s.watchLine pa n).heldAway = s.heldAway := rfl
@[simp] theorem State.watchLine_walks (pa n : Nat) : (s.watchLine pa n).walks = s.walks := rfl
@[simp] theorem State.watchLine_convoys (pa n : Nat) : (s.watchLine pa n).convoys = s.convoys := rfl
@[simp] theorem State.watchLine_bcasts (pa n : Nat) : (s.watchLine pa n).bcasts = s.bcasts := rfl
@[simp] theorem State.watchLine_scOrder (pa n : Nat) : (s.watchLine pa n).scOrder = s.scOrder := rfl
@[simp] theorem State.watchLine_cut (pa n : Nat) : (s.watchLine pa n).cut = s.cut := rfl
@[simp] theorem State.watchLine_colours (pa n : Nat) : (s.watchLine pa n).colours = s.colours := rfl
@[simp] theorem State.watchLine_residual (pa n : Nat) : (s.watchLine pa n).residual = s.residual := rfl
@[simp] theorem State.watchLine_twaits (pa n : Nat) : (s.watchLine pa n).twaits = s.twaits := rfl
@[simp] theorem State.watchLine_removals (pa n : Nat) : (s.watchLine pa n).removals = s.removals := rfl
@[simp] theorem State.watchLine_clock (pa n : Nat) : (s.watchLine pa n).clock = s.clock := rfl
@[simp] theorem State.watchLine_pkg (pa n : Nat) : (s.watchLine pa n).pkg = s.pkg := rfl

/-! ### broadcast -/

@[simp] theorem State.broadcast_cur (b : Bcast) : (s.broadcast b).cur = s.cur := rfl
@[simp] theorem State.broadcast_agenda (b : Bcast) : (s.broadcast b).agenda = s.agenda := rfl
@[simp] theorem State.broadcast_free (b : Bcast) : (s.broadcast b).free = s.free := rfl
@[simp] theorem State.broadcast_mem (b : Bcast) : (s.broadcast b).mem = s.mem := rfl
@[simp] theorem State.broadcast_poison (b : Bcast) : (s.broadcast b).poison = s.poison := rfl
@[simp] theorem State.broadcast_l2 (b : Bcast) : (s.broadcast b).l2 = s.l2 := rfl
@[simp] theorem State.broadcast_harts (b : Bcast) : (s.broadcast b).harts = s.harts := rfl
@[simp] theorem State.broadcast_units (b : Bcast) : (s.broadcast b).units = s.units := rfl
@[simp] theorem State.broadcast_quads (b : Bcast) : (s.broadcast b).quads = s.quads := rfl
@[simp] theorem State.broadcast_clusters (b : Bcast) : (s.broadcast b).clusters = s.clusters := rfl
@[simp] theorem State.broadcast_stations (b : Bcast) : (s.broadcast b).stations = s.stations := rfl
@[simp] theorem State.broadcast_dies (b : Bcast) : (s.broadcast b).dies = s.dies := rfl
@[simp] theorem State.broadcast_mesh (b : Bcast) : (s.broadcast b).mesh = s.mesh := rfl
@[simp] theorem State.broadcast_pendRecords (b : Bcast) : (s.broadcast b).pendRecords = s.pendRecords := rfl
@[simp] theorem State.broadcast_heldAway (b : Bcast) : (s.broadcast b).heldAway = s.heldAway := rfl
@[simp] theorem State.broadcast_walks (b : Bcast) : (s.broadcast b).walks = s.walks := rfl
@[simp] theorem State.broadcast_convoys (b : Bcast) : (s.broadcast b).convoys = s.convoys := rfl
@[simp] theorem State.broadcast_scOrder (b : Bcast) : (s.broadcast b).scOrder = s.scOrder := rfl
@[simp] theorem State.broadcast_cut (b : Bcast) : (s.broadcast b).cut = s.cut := rfl
@[simp] theorem State.broadcast_colours (b : Bcast) : (s.broadcast b).colours = s.colours := rfl
@[simp] theorem State.broadcast_residual (b : Bcast) : (s.broadcast b).residual = s.residual := rfl
@[simp] theorem State.broadcast_twaits (b : Bcast) : (s.broadcast b).twaits = s.twaits := rfl
@[simp] theorem State.broadcast_removals (b : Bcast) : (s.broadcast b).removals = s.removals := rfl
@[simp] theorem State.broadcast_clock (b : Bcast) : (s.broadcast b).clock = s.clock := rfl
@[simp] theorem State.broadcast_pkg (b : Bcast) : (s.broadcast b).pkg = s.pkg := rfl

/-! ### issuing -/

@[simp] theorem State.issuing_agenda (a : Agent) : (s.issuing a).agenda = s.agenda := rfl
@[simp] theorem State.issuing_free (a : Agent) : (s.issuing a).free = s.free := rfl
@[simp] theorem State.issuing_mem (a : Agent) : (s.issuing a).mem = s.mem := rfl
@[simp] theorem State.issuing_poison (a : Agent) : (s.issuing a).poison = s.poison := rfl
@[simp] theorem State.issuing_l2 (a : Agent) : (s.issuing a).l2 = s.l2 := rfl
@[simp] theorem State.issuing_harts (a : Agent) : (s.issuing a).harts = s.harts := rfl
@[simp] theorem State.issuing_quads (a : Agent) : (s.issuing a).quads = s.quads := rfl
@[simp] theorem State.issuing_clusters (a : Agent) : (s.issuing a).clusters = s.clusters := rfl
@[simp] theorem State.issuing_stations (a : Agent) : (s.issuing a).stations = s.stations := rfl
@[simp] theorem State.issuing_dies (a : Agent) : (s.issuing a).dies = s.dies := rfl
@[simp] theorem State.issuing_mesh (a : Agent) : (s.issuing a).mesh = s.mesh := rfl
@[simp] theorem State.issuing_pendRecords (a : Agent) : (s.issuing a).pendRecords = s.pendRecords := rfl
@[simp] theorem State.issuing_heldAway (a : Agent) : (s.issuing a).heldAway = s.heldAway := rfl
@[simp] theorem State.issuing_walks (a : Agent) : (s.issuing a).walks = s.walks := rfl
@[simp] theorem State.issuing_convoys (a : Agent) : (s.issuing a).convoys = s.convoys := rfl
@[simp] theorem State.issuing_bcasts (a : Agent) : (s.issuing a).bcasts = s.bcasts := rfl
@[simp] theorem State.issuing_scOrder (a : Agent) : (s.issuing a).scOrder = s.scOrder := rfl
@[simp] theorem State.issuing_cut (a : Agent) : (s.issuing a).cut = s.cut := rfl
@[simp] theorem State.issuing_colours (a : Agent) : (s.issuing a).colours = s.colours := rfl
@[simp] theorem State.issuing_residual (a : Agent) : (s.issuing a).residual = s.residual := rfl
@[simp] theorem State.issuing_twaits (a : Agent) : (s.issuing a).twaits = s.twaits := rfl
@[simp] theorem State.issuing_removals (a : Agent) : (s.issuing a).removals = s.removals := rfl
@[simp] theorem State.issuing_clock (a : Agent) : (s.issuing a).clock = s.clock := rfl
@[simp] theorem State.issuing_pkg (a : Agent) : (s.issuing a).pkg = s.pkg := rfl

/-! ### The numbered parts after an update of another field -/

@[simp] theorem State.unit_setHart (u k : Nat) (h : Slot) (i : Nat) : (s.setHart u k h).unit i = s.unit i := rfl
@[simp] theorem State.quad_setHart (u k : Nat) (h : Slot) (i : Nat) : (s.setHart u k h).quad i = s.quad i := rfl
@[simp] theorem State.cluster_setHart (u k : Nat) (h : Slot) (i : Nat) : (s.setHart u k h).cluster i = s.cluster i := rfl
@[simp] theorem State.station_setHart (u k : Nat) (h : Slot) (i : Nat) : (s.setHart u k h).station i = s.station i := rfl
@[simp] theorem State.die_setHart (u k : Nat) (h : Slot) (i : Nat) : (s.setHart u k h).die i = s.die i := rfl
@[simp] theorem State.mine_setHart (u k : Nat) (h : Slot) : (s.setHart u k h).mine = s.mine := rfl
@[simp] theorem State.unit_modHart (u k : Nat) (f : Slot → Slot) (i : Nat) : (s.modHart u k f).unit i = s.unit i := rfl
@[simp] theorem State.quad_modHart (u k : Nat) (f : Slot → Slot) (i : Nat) : (s.modHart u k f).quad i = s.quad i := rfl
@[simp] theorem State.cluster_modHart (u k : Nat) (f : Slot → Slot) (i : Nat) : (s.modHart u k f).cluster i = s.cluster i := rfl
@[simp] theorem State.station_modHart (u k : Nat) (f : Slot → Slot) (i : Nat) : (s.modHart u k f).station i = s.station i := rfl
@[simp] theorem State.die_modHart (u k : Nat) (f : Slot → Slot) (i : Nat) : (s.modHart u k f).die i = s.die i := rfl
@[simp] theorem State.mine_modHart (u k : Nat) (f : Slot → Slot) : (s.modHart u k f).mine = s.mine := rfl
@[simp] theorem State.hart_setUnit (u : Nat) (x : UnitSt) (i j : Nat) : (s.setUnit u x).hart i j = s.hart i j := rfl
@[simp] theorem State.quad_setUnit (u : Nat) (x : UnitSt) (i : Nat) : (s.setUnit u x).quad i = s.quad i := rfl
@[simp] theorem State.cluster_setUnit (u : Nat) (x : UnitSt) (i : Nat) : (s.setUnit u x).cluster i = s.cluster i := rfl
@[simp] theorem State.station_setUnit (u : Nat) (x : UnitSt) (i : Nat) : (s.setUnit u x).station i = s.station i := rfl
@[simp] theorem State.die_setUnit (u : Nat) (x : UnitSt) (i : Nat) : (s.setUnit u x).die i = s.die i := rfl
@[simp] theorem State.me_setUnit (u : Nat) (x : UnitSt) : (s.setUnit u x).me = s.me := rfl
@[simp] theorem State.hart_modUnit (u : Nat) (f : UnitSt → UnitSt) (i j : Nat) : (s.modUnit u f).hart i j = s.hart i j := rfl
@[simp] theorem State.quad_modUnit (u : Nat) (f : UnitSt → UnitSt) (i : Nat) : (s.modUnit u f).quad i = s.quad i := rfl
@[simp] theorem State.cluster_modUnit (u : Nat) (f : UnitSt → UnitSt) (i : Nat) : (s.modUnit u f).cluster i = s.cluster i := rfl
@[simp] theorem State.station_modUnit (u : Nat) (f : UnitSt → UnitSt) (i : Nat) : (s.modUnit u f).station i = s.station i := rfl
@[simp] theorem State.die_modUnit (u : Nat) (f : UnitSt → UnitSt) (i : Nat) : (s.modUnit u f).die i = s.die i := rfl
@[simp] theorem State.me_modUnit (u : Nat) (f : UnitSt → UnitSt) : (s.modUnit u f).me = s.me := rfl
@[simp] theorem State.hart_modQuad (q : Nat) (f : Quad → Quad) (i j : Nat) : (s.modQuad q f).hart i j = s.hart i j := rfl
@[simp] theorem State.unit_modQuad (q : Nat) (f : Quad → Quad) (i : Nat) : (s.modQuad q f).unit i = s.unit i := rfl
@[simp] theorem State.cluster_modQuad (q : Nat) (f : Quad → Quad) (i : Nat) : (s.modQuad q f).cluster i = s.cluster i := rfl
@[simp] theorem State.station_modQuad (q : Nat) (f : Quad → Quad) (i : Nat) : (s.modQuad q f).station i = s.station i := rfl
@[simp] theorem State.die_modQuad (q : Nat) (f : Quad → Quad) (i : Nat) : (s.modQuad q f).die i = s.die i := rfl
@[simp] theorem State.me_modQuad (q : Nat) (f : Quad → Quad) : (s.modQuad q f).me = s.me := rfl
@[simp] theorem State.mine_modQuad (q : Nat) (f : Quad → Quad) : (s.modQuad q f).mine = s.mine := rfl
@[simp] theorem State.hart_modCluster (c : Nat) (f : Cluster → Cluster) (i j : Nat) : (s.modCluster c f).hart i j = s.hart i j := rfl
@[simp] theorem State.unit_modCluster (c : Nat) (f : Cluster → Cluster) (i : Nat) : (s.modCluster c f).unit i = s.unit i := rfl
@[simp] theorem State.quad_modCluster (c : Nat) (f : Cluster → Cluster) (i : Nat) : (s.modCluster c f).quad i = s.quad i := rfl
@[simp] theorem State.station_modCluster (c : Nat) (f : Cluster → Cluster) (i : Nat) : (s.modCluster c f).station i = s.station i := rfl
@[simp] theorem State.die_modCluster (c : Nat) (f : Cluster → Cluster) (i : Nat) : (s.modCluster c f).die i = s.die i := rfl
@[simp] theorem State.me_modCluster (c : Nat) (f : Cluster → Cluster) : (s.modCluster c f).me = s.me := rfl
@[simp] theorem State.mine_modCluster (c : Nat) (f : Cluster → Cluster) : (s.modCluster c f).mine = s.mine := rfl
@[simp] theorem State.hart_modStation (m : Nat) (f : Station → Station) (i j : Nat) : (s.modStation m f).hart i j = s.hart i j := rfl
@[simp] theorem State.unit_modStation (m : Nat) (f : Station → Station) (i : Nat) : (s.modStation m f).unit i = s.unit i := rfl
@[simp] theorem State.quad_modStation (m : Nat) (f : Station → Station) (i : Nat) : (s.modStation m f).quad i = s.quad i := rfl
@[simp] theorem State.cluster_modStation (m : Nat) (f : Station → Station) (i : Nat) : (s.modStation m f).cluster i = s.cluster i := rfl
@[simp] theorem State.die_modStation (m : Nat) (f : Station → Station) (i : Nat) : (s.modStation m f).die i = s.die i := rfl
@[simp] theorem State.me_modStation (m : Nat) (f : Station → Station) : (s.modStation m f).me = s.me := rfl
@[simp] theorem State.mine_modStation (m : Nat) (f : Station → Station) : (s.modStation m f).mine = s.mine := rfl
@[simp] theorem State.hart_modDie (d : Nat) (f : Die → Die) (i j : Nat) : (s.modDie d f).hart i j = s.hart i j := rfl
@[simp] theorem State.unit_modDie (d : Nat) (f : Die → Die) (i : Nat) : (s.modDie d f).unit i = s.unit i := rfl
@[simp] theorem State.quad_modDie (d : Nat) (f : Die → Die) (i : Nat) : (s.modDie d f).quad i = s.quad i := rfl
@[simp] theorem State.cluster_modDie (d : Nat) (f : Die → Die) (i : Nat) : (s.modDie d f).cluster i = s.cluster i := rfl
@[simp] theorem State.station_modDie (d : Nat) (f : Die → Die) (i : Nat) : (s.modDie d f).station i = s.station i := rfl
@[simp] theorem State.me_modDie (d : Nat) (f : Die → Die) : (s.modDie d f).me = s.me := rfl
@[simp] theorem State.mine_modDie (d : Nat) (f : Die → Die) : (s.modDie d f).mine = s.mine := rfl
@[simp] theorem State.hart_modPort (p : Nat) (f : Port → Port) (i j : Nat) : (s.modPort p f).hart i j = s.hart i j := rfl
@[simp] theorem State.unit_modPort (p : Nat) (f : Port → Port) (i : Nat) : (s.modPort p f).unit i = s.unit i := rfl
@[simp] theorem State.quad_modPort (p : Nat) (f : Port → Port) (i : Nat) : (s.modPort p f).quad i = s.quad i := rfl
@[simp] theorem State.cluster_modPort (p : Nat) (f : Port → Port) (i : Nat) : (s.modPort p f).cluster i = s.cluster i := rfl
@[simp] theorem State.station_modPort (p : Nat) (f : Port → Port) (i : Nat) : (s.modPort p f).station i = s.station i := rfl
@[simp] theorem State.die_modPort (p : Nat) (f : Port → Port) (i : Nat) : (s.modPort p f).die i = s.die i := rfl
@[simp] theorem State.me_modPort (p : Nat) (f : Port → Port) : (s.modPort p f).me = s.me := rfl
@[simp] theorem State.mine_modPort (p : Nat) (f : Port → Port) : (s.modPort p f).mine = s.mine := rfl
@[simp] theorem State.hart_modPkg (f : Pkg → Pkg) (i j : Nat) : (s.modPkg f).hart i j = s.hart i j := rfl
@[simp] theorem State.unit_modPkg (f : Pkg → Pkg) (i : Nat) : (s.modPkg f).unit i = s.unit i := rfl
@[simp] theorem State.quad_modPkg (f : Pkg → Pkg) (i : Nat) : (s.modPkg f).quad i = s.quad i := rfl
@[simp] theorem State.cluster_modPkg (f : Pkg → Pkg) (i : Nat) : (s.modPkg f).cluster i = s.cluster i := rfl
@[simp] theorem State.station_modPkg (f : Pkg → Pkg) (i : Nat) : (s.modPkg f).station i = s.station i := rfl
@[simp] theorem State.die_modPkg (f : Pkg → Pkg) (i : Nat) : (s.modPkg f).die i = s.die i := rfl
@[simp] theorem State.me_modPkg (f : Pkg → Pkg) : (s.modPkg f).me = s.me := rfl
@[simp] theorem State.mine_modPkg (f : Pkg → Pkg) : (s.modPkg f).mine = s.mine := rfl
@[simp] theorem State.unit_modMe (f : Slot → Slot) (i : Nat) : (s.modMe f).unit i = s.unit i := rfl
@[simp] theorem State.quad_modMe (f : Slot → Slot) (i : Nat) : (s.modMe f).quad i = s.quad i := rfl
@[simp] theorem State.cluster_modMe (f : Slot → Slot) (i : Nat) : (s.modMe f).cluster i = s.cluster i := rfl
@[simp] theorem State.station_modMe (f : Slot → Slot) (i : Nat) : (s.modMe f).station i = s.station i := rfl
@[simp] theorem State.die_modMe (f : Slot → Slot) (i : Nat) : (s.modMe f).die i = s.die i := rfl
@[simp] theorem State.mine_modMe (f : Slot → Slot) : (s.modMe f).mine = s.mine := rfl
@[simp] theorem State.hart_modMine (f : UnitSt → UnitSt) (i j : Nat) : (s.modMine f).hart i j = s.hart i j := rfl
@[simp] theorem State.quad_modMine (f : UnitSt → UnitSt) (i : Nat) : (s.modMine f).quad i = s.quad i := rfl
@[simp] theorem State.cluster_modMine (f : UnitSt → UnitSt) (i : Nat) : (s.modMine f).cluster i = s.cluster i := rfl
@[simp] theorem State.station_modMine (f : UnitSt → UnitSt) (i : Nat) : (s.modMine f).station i = s.station i := rfl
@[simp] theorem State.die_modMine (f : UnitSt → UnitSt) (i : Nat) : (s.modMine f).die i = s.die i := rfl
@[simp] theorem State.me_modMine (f : UnitSt → UnitSt) : (s.modMine f).me = s.me := rfl
@[simp] theorem State.hart_modNi (u : Nat) (f : Ni → Ni) (i j : Nat) : (s.modNi u f).hart i j = s.hart i j := rfl
@[simp] theorem State.quad_modNi (u : Nat) (f : Ni → Ni) (i : Nat) : (s.modNi u f).quad i = s.quad i := rfl
@[simp] theorem State.cluster_modNi (u : Nat) (f : Ni → Ni) (i : Nat) : (s.modNi u f).cluster i = s.cluster i := rfl
@[simp] theorem State.station_modNi (u : Nat) (f : Ni → Ni) (i : Nat) : (s.modNi u f).station i = s.station i := rfl
@[simp] theorem State.die_modNi (u : Nat) (f : Ni → Ni) (i : Nat) : (s.modNi u f).die i = s.die i := rfl
@[simp] theorem State.me_modNi (u : Nat) (f : Ni → Ni) : (s.modNi u f).me = s.me := rfl
@[simp] theorem State.hart_modFe (u : Nat) (f : TileFE → TileFE) (i j : Nat) : (s.modFe u f).hart i j = s.hart i j := rfl
@[simp] theorem State.quad_modFe (u : Nat) (f : TileFE → TileFE) (i : Nat) : (s.modFe u f).quad i = s.quad i := rfl
@[simp] theorem State.cluster_modFe (u : Nat) (f : TileFE → TileFE) (i : Nat) : (s.modFe u f).cluster i = s.cluster i := rfl
@[simp] theorem State.station_modFe (u : Nat) (f : TileFE → TileFE) (i : Nat) : (s.modFe u f).station i = s.station i := rfl
@[simp] theorem State.die_modFe (u : Nat) (f : TileFE → TileFE) (i : Nat) : (s.modFe u f).die i = s.die i := rfl
@[simp] theorem State.me_modFe (u : Nat) (f : TileFE → TileFE) : (s.modFe u f).me = s.me := rfl
@[simp] theorem State.hart_took (i j : Nat) : (s.took).hart i j = s.hart i j := rfl
@[simp] theorem State.unit_took (i : Nat) : (s.took).unit i = s.unit i := rfl
@[simp] theorem State.quad_took (i : Nat) : (s.took).quad i = s.quad i := rfl
@[simp] theorem State.cluster_took (i : Nat) : (s.took).cluster i = s.cluster i := rfl
@[simp] theorem State.station_took (i : Nat) : (s.took).station i = s.station i := rfl
@[simp] theorem State.die_took (i : Nat) : (s.took).die i = s.die i := rfl
@[simp] theorem State.me_took : (s.took).me = s.me := rfl
@[simp] theorem State.mine_took : (s.took).mine = s.mine := rfl
@[simp] theorem State.hart_later (e : Instr) (i j : Nat) : (s.later e).hart i j = s.hart i j := rfl
@[simp] theorem State.unit_later (e : Instr) (i : Nat) : (s.later e).unit i = s.unit i := rfl
@[simp] theorem State.quad_later (e : Instr) (i : Nat) : (s.later e).quad i = s.quad i := rfl
@[simp] theorem State.cluster_later (e : Instr) (i : Nat) : (s.later e).cluster i = s.cluster i := rfl
@[simp] theorem State.station_later (e : Instr) (i : Nat) : (s.later e).station i = s.station i := rfl
@[simp] theorem State.die_later (e : Instr) (i : Nat) : (s.later e).die i = s.die i := rfl
@[simp] theorem State.me_later (e : Instr) : (s.later e).me = s.me := rfl
@[simp] theorem State.mine_later (e : Instr) : (s.later e).mine = s.mine := rfl
@[simp] theorem State.hart_soon (e : Instr) (i j : Nat) : (s.soon e).hart i j = s.hart i j := rfl
@[simp] theorem State.unit_soon (e : Instr) (i : Nat) : (s.soon e).unit i = s.unit i := rfl
@[simp] theorem State.quad_soon (e : Instr) (i : Nat) : (s.soon e).quad i = s.quad i := rfl
@[simp] theorem State.cluster_soon (e : Instr) (i : Nat) : (s.soon e).cluster i = s.cluster i := rfl
@[simp] theorem State.station_soon (e : Instr) (i : Nat) : (s.soon e).station i = s.station i := rfl
@[simp] theorem State.die_soon (e : Instr) (i : Nat) : (s.soon e).die i = s.die i := rfl
@[simp] theorem State.me_soon (e : Instr) : (s.soon e).me = s.me := rfl
@[simp] theorem State.mine_soon (e : Instr) : (s.soon e).mine = s.mine := rfl
@[simp] theorem State.hart_put (a n v : Nat) (i j : Nat) : (s.put a n v).hart i j = s.hart i j := rfl
@[simp] theorem State.unit_put (a n v : Nat) (i : Nat) : (s.put a n v).unit i = s.unit i := rfl
@[simp] theorem State.quad_put (a n v : Nat) (i : Nat) : (s.put a n v).quad i = s.quad i := rfl
@[simp] theorem State.cluster_put (a n v : Nat) (i : Nat) : (s.put a n v).cluster i = s.cluster i := rfl
@[simp] theorem State.station_put (a n v : Nat) (i : Nat) : (s.put a n v).station i = s.station i := rfl
@[simp] theorem State.die_put (a n v : Nat) (i : Nat) : (s.put a n v).die i = s.die i := rfl
@[simp] theorem State.me_put (a n v : Nat) : (s.put a n v).me = s.me := rfl
@[simp] theorem State.mine_put (a n v : Nat) : (s.put a n v).mine = s.mine := rfl
@[simp] theorem State.hart_putW (a : Nat) (v : Word) (i j : Nat) : (s.putW a v).hart i j = s.hart i j := rfl
@[simp] theorem State.unit_putW (a : Nat) (v : Word) (i : Nat) : (s.putW a v).unit i = s.unit i := rfl
@[simp] theorem State.quad_putW (a : Nat) (v : Word) (i : Nat) : (s.putW a v).quad i = s.quad i := rfl
@[simp] theorem State.cluster_putW (a : Nat) (v : Word) (i : Nat) : (s.putW a v).cluster i = s.cluster i := rfl
@[simp] theorem State.station_putW (a : Nat) (v : Word) (i : Nat) : (s.putW a v).station i = s.station i := rfl
@[simp] theorem State.die_putW (a : Nat) (v : Word) (i : Nat) : (s.putW a v).die i = s.die i := rfl
@[simp] theorem State.me_putW (a : Nat) (v : Word) : (s.putW a v).me = s.me := rfl
@[simp] theorem State.mine_putW (a : Nat) (v : Word) : (s.putW a v).mine = s.mine := rfl
@[simp] theorem State.hart_putCells (cs : List (Nat × Byte)) (i j : Nat) : (s.putCells cs).hart i j = s.hart i j := rfl
@[simp] theorem State.unit_putCells (cs : List (Nat × Byte)) (i : Nat) : (s.putCells cs).unit i = s.unit i := rfl
@[simp] theorem State.quad_putCells (cs : List (Nat × Byte)) (i : Nat) : (s.putCells cs).quad i = s.quad i := rfl
@[simp] theorem State.cluster_putCells (cs : List (Nat × Byte)) (i : Nat) : (s.putCells cs).cluster i = s.cluster i := rfl
@[simp] theorem State.station_putCells (cs : List (Nat × Byte)) (i : Nat) : (s.putCells cs).station i = s.station i := rfl
@[simp] theorem State.die_putCells (cs : List (Nat × Byte)) (i : Nat) : (s.putCells cs).die i = s.die i := rfl
@[simp] theorem State.me_putCells (cs : List (Nat × Byte)) : (s.putCells cs).me = s.me := rfl
@[simp] theorem State.mine_putCells (cs : List (Nat × Byte)) : (s.putCells cs).mine = s.mine := rfl
@[simp] theorem State.hart_clearPoison (a n : Nat) (i j : Nat) : (s.clearPoison a n).hart i j = s.hart i j := rfl
@[simp] theorem State.unit_clearPoison (a n : Nat) (i : Nat) : (s.clearPoison a n).unit i = s.unit i := rfl
@[simp] theorem State.quad_clearPoison (a n : Nat) (i : Nat) : (s.clearPoison a n).quad i = s.quad i := rfl
@[simp] theorem State.cluster_clearPoison (a n : Nat) (i : Nat) : (s.clearPoison a n).cluster i = s.cluster i := rfl
@[simp] theorem State.station_clearPoison (a n : Nat) (i : Nat) : (s.clearPoison a n).station i = s.station i := rfl
@[simp] theorem State.die_clearPoison (a n : Nat) (i : Nat) : (s.clearPoison a n).die i = s.die i := rfl
@[simp] theorem State.me_clearPoison (a n : Nat) : (s.clearPoison a n).me = s.me := rfl
@[simp] theorem State.mine_clearPoison (a n : Nat) : (s.clearPoison a n).mine = s.mine := rfl
@[simp] theorem State.hart_emptySpan (a n : Nat) (i j : Nat) : (s.emptySpan a n).hart i j = s.hart i j := rfl
@[simp] theorem State.unit_emptySpan (a n : Nat) (i : Nat) : (s.emptySpan a n).unit i = s.unit i := rfl
@[simp] theorem State.quad_emptySpan (a n : Nat) (i : Nat) : (s.emptySpan a n).quad i = s.quad i := rfl
@[simp] theorem State.cluster_emptySpan (a n : Nat) (i : Nat) : (s.emptySpan a n).cluster i = s.cluster i := rfl
@[simp] theorem State.station_emptySpan (a n : Nat) (i : Nat) : (s.emptySpan a n).station i = s.station i := rfl
@[simp] theorem State.die_emptySpan (a n : Nat) (i : Nat) : (s.emptySpan a n).die i = s.die i := rfl
@[simp] theorem State.me_emptySpan (a n : Nat) : (s.emptySpan a n).me = s.me := rfl
@[simp] theorem State.mine_emptySpan (a n : Nat) : (s.emptySpan a n).mine = s.mine := rfl
@[simp] theorem State.unit_advance (n : Nat) (i : Nat) : (s.advance n).unit i = s.unit i := rfl
@[simp] theorem State.quad_advance (n : Nat) (i : Nat) : (s.advance n).quad i = s.quad i := rfl
@[simp] theorem State.cluster_advance (n : Nat) (i : Nat) : (s.advance n).cluster i = s.cluster i := rfl
@[simp] theorem State.station_advance (n : Nat) (i : Nat) : (s.advance n).station i = s.station i := rfl
@[simp] theorem State.die_advance (n : Nat) (i : Nat) : (s.advance n).die i = s.die i := rfl
@[simp] theorem State.mine_advance (n : Nat) : (s.advance n).mine = s.mine := rfl
@[simp] theorem State.unit_again (n : Nat) (i : Nat) : (s.again n).unit i = s.unit i := rfl
@[simp] theorem State.quad_again (n : Nat) (i : Nat) : (s.again n).quad i = s.quad i := rfl
@[simp] theorem State.cluster_again (n : Nat) (i : Nat) : (s.again n).cluster i = s.cluster i := rfl
@[simp] theorem State.station_again (n : Nat) (i : Nat) : (s.again n).station i = s.station i := rfl
@[simp] theorem State.die_again (n : Nat) (i : Nat) : (s.again n).die i = s.die i := rfl
@[simp] theorem State.mine_again (n : Nat) : (s.again n).mine = s.mine := rfl
@[simp] theorem State.unit_acquired (i : Nat) : (s.acquired).unit i = s.unit i := rfl
@[simp] theorem State.quad_acquired (i : Nat) : (s.acquired).quad i = s.quad i := rfl
@[simp] theorem State.cluster_acquired (i : Nat) : (s.acquired).cluster i = s.cluster i := rfl
@[simp] theorem State.station_acquired (i : Nat) : (s.acquired).station i = s.station i := rfl
@[simp] theorem State.die_acquired (i : Nat) : (s.acquired).die i = s.die i := rfl
@[simp] theorem State.mine_acquired : (s.acquired).mine = s.mine := rfl
@[simp] theorem State.unit_watchLine (pa n : Nat) (i : Nat) : (s.watchLine pa n).unit i = s.unit i := rfl
@[simp] theorem State.quad_watchLine (pa n : Nat) (i : Nat) : (s.watchLine pa n).quad i = s.quad i := rfl
@[simp] theorem State.cluster_watchLine (pa n : Nat) (i : Nat) : (s.watchLine pa n).cluster i = s.cluster i := rfl
@[simp] theorem State.station_watchLine (pa n : Nat) (i : Nat) : (s.watchLine pa n).station i = s.station i := rfl
@[simp] theorem State.die_watchLine (pa n : Nat) (i : Nat) : (s.watchLine pa n).die i = s.die i := rfl
@[simp] theorem State.mine_watchLine (pa n : Nat) : (s.watchLine pa n).mine = s.mine := rfl
@[simp] theorem State.hart_broadcast (b : Bcast) (i j : Nat) : (s.broadcast b).hart i j = s.hart i j := rfl
@[simp] theorem State.unit_broadcast (b : Bcast) (i : Nat) : (s.broadcast b).unit i = s.unit i := rfl
@[simp] theorem State.quad_broadcast (b : Bcast) (i : Nat) : (s.broadcast b).quad i = s.quad i := rfl
@[simp] theorem State.cluster_broadcast (b : Bcast) (i : Nat) : (s.broadcast b).cluster i = s.cluster i := rfl
@[simp] theorem State.station_broadcast (b : Bcast) (i : Nat) : (s.broadcast b).station i = s.station i := rfl
@[simp] theorem State.die_broadcast (b : Bcast) (i : Nat) : (s.broadcast b).die i = s.die i := rfl
@[simp] theorem State.me_broadcast (b : Bcast) : (s.broadcast b).me = s.me := rfl
@[simp] theorem State.mine_broadcast (b : Bcast) : (s.broadcast b).mine = s.mine := rfl
@[simp] theorem State.hart_issuing (a : Agent) (i j : Nat) : (s.issuing a).hart i j = s.hart i j := rfl
@[simp] theorem State.quad_issuing (a : Agent) (i : Nat) : (s.issuing a).quad i = s.quad i := rfl
@[simp] theorem State.cluster_issuing (a : Agent) (i : Nat) : (s.issuing a).cluster i = s.cluster i := rfl
@[simp] theorem State.station_issuing (a : Agent) (i : Nat) : (s.issuing a).station i = s.station i := rfl
@[simp] theorem State.die_issuing (a : Agent) (i : Nat) : (s.issuing a).die i = s.die i := rfl

/-! ### The part that an update writes -/

theorem fget_fset_same {β : Type} (m : FMap β) (k : Nat) (v d : β) : fget (fset m k v) k d = v := by
  induction m with
  | nil => simp [fset, fget]
  | cons p t ih =>
    obtain ⟨j, w⟩ := p
    simp only [fset]
    split
    · simp [fget]
    · split
      · simp [fget]
      · rename_i h _
        simp [fget, Ne.symm h, ih]

theorem fget_fset_ne {β : Type} (m : FMap β) {k j : Nat} (v d : β) (h : j ≠ k) : fget (fset m k v) j d = fget m j d := by
  induction m with
  | nil => simp [fset, fget, Ne.symm h]
  | cons p t ih =>
    obtain ⟨i, w⟩ := p
    simp only [fset]
    split
    · rename_i e
      subst e
      simp [fget, Ne.symm h]
    · split
      · simp [fget, Ne.symm h]
      · simp only [fget, ih]

variable {s}

@[simp] theorem State.hart_modHart_same (u k : Nat) (f : Slot → Slot) : (s.modHart u k f).hart u k = f (s.hart u k) :=
  fget_fset_same ..
theorem State.hart_modHart_ne {u k i j : Nat} (f : Slot → Slot) (h : hartKey i j ≠ hartKey u k) :
    (s.modHart u k f).hart i j = s.hart i j := fget_fset_ne _ _ _ h
@[simp] theorem State.hart_setHart_same (u k : Nat) (x : Slot) : (s.setHart u k x).hart u k = x := fget_fset_same ..
@[simp] theorem State.me_modMe (f : Slot → Slot) : (s.modMe f).me = f s.me := fget_fset_same ..
theorem State.hart_modMe_ne {i j : Nat} (f : Slot → Slot) (h : hartKey i j ≠ hartKey s.cur.unit s.cur.slot) :
    (s.modMe f).hart i j = s.hart i j := fget_fset_ne _ _ _ h
@[simp] theorem State.unit_modUnit_same (u : Nat) (f : UnitSt → UnitSt) : (s.modUnit u f).unit u = f (s.unit u) :=
  fget_fset_same ..
theorem State.unit_modUnit_ne {u i : Nat} (f : UnitSt → UnitSt) (h : i ≠ u) : (s.modUnit u f).unit i = s.unit i :=
  fget_fset_ne _ _ _ h
@[simp] theorem State.mine_modMine (f : UnitSt → UnitSt) : (s.modMine f).mine = f s.mine := fget_fset_same ..
@[simp] theorem State.quad_modQuad_same (q : Nat) (f : Quad → Quad) : (s.modQuad q f).quad q = f (s.quad q) :=
  fget_fset_same ..
theorem State.quad_modQuad_ne {q i : Nat} (f : Quad → Quad) (h : i ≠ q) : (s.modQuad q f).quad i = s.quad i :=
  fget_fset_ne _ _ _ h
@[simp] theorem State.cluster_modCluster_same (c : Nat) (f : Cluster → Cluster) :
    (s.modCluster c f).cluster c = f (s.cluster c) := fget_fset_same ..
theorem State.cluster_modCluster_ne {c i : Nat} (f : Cluster → Cluster) (h : i ≠ c) :
    (s.modCluster c f).cluster i = s.cluster i := fget_fset_ne _ _ _ h
@[simp] theorem State.station_modStation_same (m : Nat) (f : Station → Station) :
    (s.modStation m f).station m = f (s.station m) := fget_fset_same ..
theorem State.station_modStation_ne {m i : Nat} (f : Station → Station) (h : i ≠ m) :
    (s.modStation m f).station i = s.station i := fget_fset_ne _ _ _ h
@[simp] theorem State.die_modDie_same (d : Nat) (f : Die → Die) : (s.modDie d f).die d = f (s.die d) :=
  fget_fset_same ..
theorem State.die_modDie_ne {d i : Nat} (f : Die → Die) (h : i ≠ d) : (s.modDie d f).die i = s.die i :=
  fget_fset_ne _ _ _ h
@[simp] theorem State.port_modPort_same (p : Nat) (f : Port → Port) : (s.modPort p f).port p = f (s.port p) :=
  fget_fset_same ..
theorem State.port_modPort_ne {p i : Nat} (f : Port → Port) (h : i ≠ p) : (s.modPort p f).port i = s.port i :=
  fget_fset_ne _ _ _ h

/-! ### Parts that an operation of one part leaves alone -/

/-- A load changes nothing of a slot's streams but which of the elements fetched ahead it has overtaken. -/
@[simp] theorem StreamGen.overtaken_config (g : StreamGen) (pa n : Nat) :
    let t := g.overtaken pa n
    t.bound = g.bound ∧ t.dir = g.dir ∧ t.ew = g.ew ∧ t.stride = g.stride ∧ t.count = g.count ∧ t.next = g.next :=
  ⟨rfl, rfl, rfl, rfl, rfl, rfl⟩
theorem Slot.hasRead_only (h : Slot) (pa n : Nat) : h.hasRead pa n = { h with sg := (h.hasRead pa n).sg } := rfl
theorem State.me_watchLine (pa n : Nat) :
    (s.watchLine pa n).me = { s.me.hasRead pa n with wline := some (lineOf pa), whit := false } := fget_fset_same ..

end Sys2Proof.Machine
end

