-- ==== Sys2Proof/Laws/Memory.lean ====
section
/-! SUPPORT. Memory as a canonical list of cells: every write keeps the form, and reads see the last write. -/

namespace Sys2Proof.Machine

open Sys2Proof

/-- Every listed address of a memory is above a bound. -/
def memAbove (a : Nat) : List Host.Cell → Prop
  | [] => True
  | (k, _) :: t => a < k ∧ memAbove a t

theorem memWf_cons {k : Nat} {v : Byte} {t : List Host.Cell} :
    memWf ((k, v) :: t) = true ↔ v ≠ 0 ∧ memAbove k t ∧ memWf t = true := by
  induction t generalizing k v with
  | nil => simp [memWf, memAbove]
  | cons p t ih =>
    obtain ⟨j, w⟩ := p
    have mono : ∀ {a b : Nat} {m : List Host.Cell}, a < b → memAbove b m → memAbove a m := by
      intro a b m hab
      induction m with
      | nil => simp [memAbove]
      | cons q m ihm =>
        obtain ⟨i, x⟩ := q
        simp only [memAbove]
        exact fun h => ⟨by omega, ihm h.2⟩
    have hs : memWf ((k, v) :: (j, w) :: t) = (v != 0 && decide (k < j) && memWf ((j, w) :: t)) := rfl
    rw [hs]
    simp only [memAbove, Bool.and_eq_true, bne_iff_ne, decide_eq_true_eq]
    constructor
    · rintro ⟨⟨hv, hk⟩, h⟩
      exact ⟨hv, ⟨hk, mono hk (ih.1 h).2.1⟩, h⟩
    · rintro ⟨hv, ⟨hk, _⟩, h⟩
      exact ⟨⟨hv, hk⟩, h⟩

theorem memAbove_mono {a b : Nat} {m : List Host.Cell} (hab : a ≤ b) (h : memAbove b m) : memAbove a m := by
  induction m with
  | nil => trivial
  | cons p t ih =>
    obtain ⟨k, v⟩ := p
    exact ⟨Nat.lt_of_le_of_lt hab h.1, ih h.2⟩

theorem memRead_above {a : Nat} {m : List Host.Cell} (h : memAbove a m) : memRead m a = 0 := by
  cases m with
  | nil => rfl
  | cons p t =>
    obtain ⟨k, v⟩ := p
    have hk : a < k := h.1
    simp [memRead, Nat.ne_of_gt hk, hk]

theorem memWrite_above {m : List Host.Cell} {b a : Nat} {v : Byte} (h : memAbove b m) (hb : b < a) :
    memAbove b (memWrite m a v) := by
  induction m with
  | nil =>
    simp only [memWrite]
    split <;> simp [memAbove, hb]
  | cons p t ih =>
    obtain ⟨k, w⟩ := p
    simp only [memWrite]
    repeat' split
    all_goals simp_all [memAbove]

theorem memWrite_wf {m : List Host.Cell} {a : Nat} {v : Byte} (h : memWf m = true) : memWf (memWrite m a v) = true := by
  induction m with
  | nil =>
    simp only [memWrite]
    split
    · rfl
    · rename_i hv
      simpa [memWf] using hv
  | cons p t ih =>
    obtain ⟨k, w⟩ := p
    obtain ⟨hw, hk, ht⟩ := memWf_cons.1 h
    simp only [memWrite]
    split
    · rename_i e
      subst e
      split
      · exact ht
      · rename_i hv
        exact memWf_cons.2 ⟨hv, hk, ht⟩
    · split
      · split
        · exact h
        · rename_i hlt hv
          exact memWf_cons.2 ⟨hv, ⟨hlt, memAbove_mono (Nat.le_of_lt hlt) hk⟩, h⟩
      · exact memWf_cons.2 ⟨hw, memWrite_above hk (by omega), ih ht⟩

/-- A byte reads as the last value written to it. -/
theorem memRead_memWrite_same {m : List Host.Cell} {a : Nat} {v : Byte} (h : memWf m = true) :
    memRead (memWrite m a v) a = v := by
  induction m with
  | nil =>
    simp only [memWrite]
    split <;> simp_all [memRead]
  | cons p t ih =>
    obtain ⟨k, w⟩ := p
    obtain ⟨_, hk, ht⟩ := memWf_cons.1 h
    simp only [memWrite]
    split
    · rename_i e
      subst e
      split
      · rename_i hv
        rw [hv]
        exact memRead_above hk
      · simp [memRead]
    · rename_i hne
      split
      · rename_i hlt
        split
        · rename_i hv
          simp [memRead, hne, hlt, hv]
        · simp [memRead]
      · rename_i hge
        simp [memRead, hne, hge, ih ht]

/-- A write leaves every other byte alone. -/
theorem memRead_memWrite_ne {m : List Host.Cell} {a b : Nat} {v : Byte} (h : memWf m = true) (hab : b ≠ a) :
    memRead (memWrite m a v) b = memRead m b := by
  induction m with
  | nil =>
    simp only [memWrite]
    split <;> simp [memRead, Ne.symm hab]
  | cons p t ih =>
    obtain ⟨k, w⟩ := p
    obtain ⟨_, hk, ht⟩ := memWf_cons.1 h
    simp only [memWrite]
    split
    · rename_i e
      subst e
      split
      · by_cases hlt : b < k
        · rw [memRead_above (memAbove_mono (Nat.le_of_lt hlt) hk)]
          simp [memRead, Ne.symm hab, hlt]
        · simp [memRead, Ne.symm hab, hlt]
      · simp [memRead, Ne.symm hab]
    · rename_i hne
      split
      · rename_i hlt
        split
        · rfl
        · have hw : memRead ((a, v) :: (k, w) :: t) b = if b < a then 0 else memRead ((k, w) :: t) b := by
            simp [memRead, Ne.symm hab]
          rw [hw]
          split
          · rename_i hba
            exact (memRead_above (show memAbove b ((k, w) :: t) from
              ⟨by omega, memAbove_mono (by omega) hk⟩)).symm
          · rfl
      · simp only [memRead, ih ht]

theorem memPut_wf {m : List Host.Cell} {a n v : Nat} (h : memWf m = true) : memWf (memPut m a n v) = true := by
  induction n generalizing m a v with
  | zero => exact h
  | succ n ih => exact ih (memWrite_wf h)

theorem memPutCells_wf {m : List Host.Cell} {cs : List (Nat × Byte)} (h : memWf m = true) :
    memWf (memPutCells m cs) = true := by
  induction cs generalizing m with
  | nil => exact h
  | cons c cs ih => exact ih (memWrite_wf h)

theorem memAbove_filter {m : List Host.Cell} {a : Nat} {p : Host.Cell → Bool} (h : memAbove a m) :
    memAbove a (m.filter p) := by
  induction m with
  | nil => trivial
  | cons q t ih =>
    obtain ⟨k, v⟩ := q
    rw [List.filter_cons]
    split
    · exact ⟨h.1, ih h.2⟩
    · exact ih h.2

theorem memWf_filter {m : List Host.Cell} {p : Host.Cell → Bool} (h : memWf m = true) : memWf (m.filter p) = true := by
  induction m with
  | nil => rfl
  | cons q t ih =>
    obtain ⟨k, v⟩ := q
    obtain ⟨hv, hk, ht⟩ := memWf_cons.1 h
    rw [List.filter_cons]
    split
    · exact memWf_cons.2 ⟨hv, memAbove_filter hk, ih ht⟩
    · exact ih ht

/-- Bytes outside the written span read as before. -/
theorem memRead_memPut_out {m : List Host.Cell} {a n v b : Nat} (h : memWf m = true) (hb : b < a ∨ a + n ≤ b) :
    memRead (memPut m a n v) b = memRead m b := by
  induction n generalizing m a v with
  | zero => rfl
  | succ n ih =>
    simp only [memPut]
    rw [ih (memWrite_wf h) (by omega), memRead_memWrite_ne h (by omega)]

/-- The span reads back as it was written, modulo its width. -/
theorem memGet_memPut_same {m : List Host.Cell} {a n v : Nat} (h : memWf m = true) :
    memGet (memPut m a n v) a n = v % 256 ^ n := by
  induction n generalizing m a v with
  | zero => simp [memGet, Nat.mod_one]
  | succ n ih =>
    have hr : memRead (memPut (memWrite m a (BitVec.ofNat 8 v)) (a + 1) n (v / 256)) a = BitVec.ofNat 8 v := by
      rw [memRead_memPut_out (memWrite_wf h) (by omega), memRead_memWrite_same h]
    have hg : memGet (memPut (memWrite m a (BitVec.ofNat 8 v)) (a + 1) n (v / 256)) (a + 1) n = v / 256 % 256 ^ n :=
      ih (memWrite_wf h)
    have hp : v % 256 ^ (n + 1) = v % 256 + 256 * (v / 256 % 256 ^ n) := by rw [Nat.pow_succ', Nat.mod_mul]
    rw [memPut, memGet, hr, hg, BitVec.toNat_ofNat, hp]

/-- A span apart from the written one reads as before. -/
theorem memGet_memPut_out {m : List Host.Cell} {a n v b k : Nat} (h : memWf m = true) (hb : b + k ≤ a ∨ a + n ≤ b) :
    memGet (memPut m a n v) b k = memGet m b k := by
  induction k generalizing b with
  | zero => rfl
  | succ k ih => rw [memGet, memGet, memRead_memPut_out h (by omega), ih (by omega)]

/-! ### The state's memory operations keep the form -/

theorem State.put_wf {s : State} {a n v : Nat} (h : memWf s.mem = true) : memWf (s.put a n v).mem = true := memPut_wf h
theorem State.putW_wf {s : State} {a : Nat} {v : Word} (h : memWf s.mem = true) : memWf (s.putW a v).mem = true :=
  memPut_wf h
theorem State.putCells_wf {s : State} {cs : List (Nat × Byte)} (h : memWf s.mem = true) :
    memWf (s.putCells cs).mem = true := memPutCells_wf h
theorem State.emptySpan_wf {s : State} {a n : Nat} (h : memWf s.mem = true) : memWf (s.emptySpan a n).mem = true :=
  memWf_filter h

end Sys2Proof.Machine
end

