-- ==== Sys2Proof/Laws/Issue.lean ====
section
/-! SUPPORT. How an instruction of a hart issues and ends, and how it reads and writes plain registers. -/

namespace Sys2Proof.Machine

open Sys2Proof

variable {s t : State}

/-! ### The state on which a body runs -/

theorem State.begun_me (n : Nat) : (s.begun n).me =
    { s.me with park := 0, await := 0, waitOn := none, pc := s.me.pc + w64 n, instret := s.me.instret + 1,
                resv := s.me.resv.map fun r => { r with age := r.age + 1 } } := by
  simp [State.begun, State.advance, Slot.unpark]

@[simp] theorem State.begun_cur (n : Nat) : (s.begun n).cur = s.cur := rfl
@[simp] theorem State.begun_mem (n : Nat) : (s.begun n).mem = s.mem := rfl
@[simp] theorem State.begun_units (n : Nat) : (s.begun n).units = s.units := rfl
@[simp] theorem State.begun_unit (n u : Nat) : (s.begun n).unit u = s.unit u := rfl
@[simp] theorem State.begun_mine (n : Nat) : (s.begun n).mine = s.mine := rfl
@[simp] theorem State.begun_die (n d : Nat) : (s.begun n).die d = s.die d := rfl
@[simp] theorem State.begun_isBound (n r : Nat) : (s.begun n).me.isBound r = s.me.isBound r := by
  simp [State.begun_me, Slot.isBound, Slot.gen]
@[simp] theorem State.begun_reg (n r : Nat) : (s.begun n).me.reg r = s.me.reg r := by
  simp [State.begun_me, Slot.reg]
@[simp] theorem State.begun_poison (n : Nat) : (s.begun n).me.poison = s.me.poison := by simp [State.begun_me]
@[simp] theorem State.begun_gen (n i : Nat) : (s.begun n).me.gen i = s.me.gen i := by
  simp [State.begun_me, Slot.gen]
@[simp] theorem State.begun_ipc : (s.begun 4).ipc = s.me.pc := by simp [State.ipc, State.begun_me, w64]
@[simp] theorem State.begun_pc (n : Nat) : (s.begun n).me.pc = s.me.pc + w64 n := by simp [State.begun_me]
@[simp] theorem State.begun_pipe (n : Nat) : (s.begun n).me.pipe = s.me.pipe := by simp [State.begun_me]
@[simp] theorem State.begun_q (n : Nat) : (s.begun n).me.q = s.me.q := by simp [State.begun_me]
@[simp] theorem State.begun_qbind (n : Nat) : (s.begun n).me.qbind = s.me.qbind := by simp [State.begun_me]

/-! ### Ends -/

theorem finish_ok (w : Nat) (s t : State) : finish w s (.ok t) = .next t := rfl
theorem finish_trap (w c v : Nat) (s : State) : finish w s (.error (.trap c v)) = .next (takeTrap s c v w) := rfl
theorem finish_illegal (w : Nat) (s : State) : finish w s (.error .illegal) = .next (takeTrap s cIllegal w w) := rfl
theorem finish_hold (w : Nat) (s : State) (p : Pipe) :
    finish w s (.error (.hold (some p))) = .next (s.modMe fun h => { h with pipe := p }) := rfl
theorem finish_wait (w : Nat) (s : State) : finish w s (.error (.hold none)) = .next s := rfl

/-- An instruction on a unit that may run it, with no prefix pending, ends as its body ends. -/
theorem issueN_eq {n : Nat} {i : Instr} {ok fmt : Bool} {body : State → Res State} (hok : ok = true)
    (hpp : s.me.pp = false ∨ fmt = true) :
    issueN n i ok fmt s body = finish (instrWord i) (s.modMe Slot.unpark) (body (s.begun n)) := by
  unfold issueN
  rcases hpp with h | h <;> simp [hok, h, State.begun]

theorem issue_eq {i : Instr} {ok : Bool} {body : State → Res State} (hok : ok = true) (hpp : s.ready) :
    issue i ok s body = finish (instrWord i) (s.modMe Slot.unpark) (body (s.begun 4)) :=
  issueN_eq hok (.inl hpp)

/-- An instruction whose body has an effect completes with it. -/
theorem issue_ok {i : Instr} {ok : Bool} {body : State → Res State} (hok : ok = true) (hpp : s.ready)
    (hb : body (s.begun 4) = .ok t) : issue i ok s body = .next t := by
  rw [issue_eq hok hpp, hb, finish_ok]

/-- An instruction whose body traps takes the trap, with no effect of its own (01 R8). -/
theorem issue_trap {i : Instr} {ok : Bool} {body : State → Res State} {c v : Nat} (hok : ok = true) (hpp : s.ready)
    (hb : body (s.begun 4) = .error (.trap c v)) :
    issue i ok s body = .next (takeTrap (s.modMe Slot.unpark) c v (instrWord i)) := by
  rw [issue_eq hok hpp, hb, finish_trap]

/-! ### The Res monad -/

@[simp] theorem res_bind_ok {α β : Type} (a : α) (f : α → Res β) : (Except.ok a >>= f : Res β) = f a := rfl
@[simp] theorem res_bind_error {α β : Type} (e : Stop) (f : α → Res β) : (Except.error e >>= f : Res β) = .error e := rfl

theorem res_bind_eq_ok {α β : Type} {x : Res α} {f : α → Res β} {b : β} (h : (x >>= f) = .ok b) :
    ∃ a, x = .ok a ∧ f a = .ok b := by
  cases x with
  | error e => cases h
  | ok a => exact ⟨a, rfl, h⟩

@[simp] theorem need_true (e : Stop) : need true e = .ok () := rfl
@[simp] theorem need_false (e : Stop) : need false e = .error e := rfl
theorem need_of {b : Bool} (h : b = true) (e : Stop) : need b e = .ok () := by simp [h]
theorem needAligned_of {va n : Nat} (h : va % n = 0) : needAligned va n = .ok () := by simp [needAligned, h]
theorem needAligned_off {va n : Nat} (h : va % n ≠ 0) : needAligned va n = .error (.trap cMisaligned va) := by
  rw [needAligned, beq_false_of_ne h, need_false]

/-! ### Registers -/

theorem readX_plain {r : BitVec 5} (h : s.me.plain r) : readX s r = .ok (s, s.me.reg r.toNat) := by
  obtain ⟨hb, hp⟩ := h
  unfold readX
  rcases hp with hp | hp
  · simp only [hb, hp]; simp
  · subst hp; simp only [hb]; simp

theorem writeX_free {r : BitVec 5} {v : Word} (h : s.me.free r) : writeX s r v = .ok (s.modMe fun k => k.setReg r.toNat v) := by
  unfold writeX
  have hb : s.me.isBound r.toNat = false := h
  simp only [hb]
  simp

theorem plain_begun {r : BitVec 5} {n : Nat} (h : s.me.plain r) : (s.begun n).me.plain r := by
  simpa [Slot.plain] using h

theorem free_begun {r : BitVec 5} {n : Nat} (h : s.me.free r) : (s.begun n).me.free r := by simpa [Slot.free] using h

/-- A plain source register of an instruction that runs. -/
theorem readX_begun {r : BitVec 5} {n : Nat} (h : s.me.plain r) : readX (s.begun n) r = .ok (s.begun n, s.me.reg r.toNat) := by
  rw [readX_plain (plain_begun h), State.begun_reg]

/-- A destination register that is not bound. -/
theorem writeX_begun {r : BitVec 5} {v : Word} {n : Nat} (h : s.me.free r) :
    writeX (s.begun n) r v = .ok ((s.begun n).modMe fun k => k.setReg r.toNat v) := writeX_free (free_begun h)

theorem read2_begun {a b : BitVec 5} {n : Nat} (ha : s.me.plain a) (hb : s.me.plain b) :
    read2 (s.begun n) a b = .ok (s.begun n, s.me.reg a.toNat, s.me.reg b.toNat) := by
  simp [read2, readX_begun ha, readX_begun hb]

theorem readAddr_begun {a : BitVec 5} {i : BitVec 12} {n : Nat} (ha : s.me.plain a) :
    readAddr (s.begun n) a i = .ok (s.begun n, (s.me.reg a.toNat + simm i).toNat) := by
  simp [readAddr, readX_begun ha]

theorem writeX_setX {r : BitVec 5} {v : Word} (h : s.me.free r) : writeX s r v = .ok (s.setX r v) := writeX_free h

@[simp] theorem State.jumped_cur (t : Word) : (s.jumped t).cur = s.cur := rfl
@[simp] theorem State.jumped_isBound (t : Word) (r : Nat) : (s.jumped t).me.isBound r = s.me.isBound r := by
  simp [State.jumped, Slot.isBound, Slot.gen]
theorem free_jumped {r : BitVec 5} {t : Word} (h : s.me.free r) : (s.jumped t).me.free r := by simpa [Slot.free] using h

theorem jumpTo_aligned {t : Word} (h : t.toNat % 4 = 0) : jumpTo s t = .ok (s.jumped t) := by
  simp [jumpTo, State.jumped, h]

/-- A target off a multiple of 4 traps on every unit without compressed instructions (03 R87). -/
theorem jumpTo_off {t : Word} (h : t.toNat % 4 ≠ 0) (ha : isApp s.cur.unit = false) :
    jumpTo s t = .error (.trap cMisaligned t.toNat) := by
  have hb : (t.toNat % 4 == 0 || (isApp s.cur.unit && t.toNat % 2 == 0)) = false := by simp [h, ha]
  rw [jumpTo, hb]
  rfl

/-! ### Acquires -/

@[simp] theorem Slot.discardAhead_isBound (h : Slot) (r : Nat) : h.discardAhead.isBound r = h.isBound r := by
  have hg : ∀ (m : FMap StreamGen) (i : Nat),
      (fget (m.map fun p => (p.1, { p.2 with ahead := [] })) i StreamGen.reset).bound = (fget m i StreamGen.reset).bound := by
    intro m i
    induction m with
    | nil => rfl
    | cons p t ih =>
      obtain ⟨j, g⟩ := p
      simp only [List.map_cons, fget]
      split
      · rfl
      · exact ih
  simp [Slot.isBound, Slot.gen, Slot.discardAhead, hg]

@[simp] theorem State.acquired_isBound (r : Nat) : s.acquired.me.isBound r = s.me.isBound r := by
  simp [State.acquired]
theorem free_acquiredIf {r : BitVec 5} {b : Bool} (h : s.me.free r) : (s.acquiredIf b).me.free r := by
  cases b <;> simpa [State.acquiredIf, Slot.free] using h

theorem waitAqRl_ok {aq rl : Bool} (h : orderOk s 6 aq rl) : waitAqRl s aq rl = .ok () := by
  obtain ⟨h1, h2⟩ := h
  cases aq <;> cases rl <;> simp_all [waitAqRl, waitRelease, waitAcquire]

theorem waitAcquire_ok {n : Nat} (h : n < 4 ∨ rdcClean s s.cur.unit = true) : waitAcquire s n = .ok () := by
  rcases h with h | h <;> simp [waitAcquire, h]

theorem waitRelease_ok (h : performed s s.cur.unit s.cur.slot = true) : waitRelease s = .ok () := by
  simp [waitRelease, h]

theorem waitMmrev_ok (h : mmrevOk s) : waitMmrev s = .ok () := by
  unfold waitMmrev
  split
  · rename_i hc
    simp only [Bool.and_eq_true, beq_iff_eq] at hc
    obtain ⟨h1, h2, h3⟩ := h hc.1 hc.2
    simp [waitRelease_ok h1, h2, h3]
  · rfl

@[simp] theorem performed_begun (n u k : Nat) : performed (s.begun n) u k = performed s u k := rfl
@[simp] theorem rdcClean_begun (n u : Nat) : rdcClean (s.begun n) u = rdcClean s u := rfl

end Sys2Proof.Machine
end

