-- ==== Sys2Proof/Laws/Cache.lean ====
section
/-! SUPPORT. The caches and range tables hold no bytes of their own: no movement of lines or entries changes memory, and
a store changes exactly its span. -/

namespace Sys2Proof.Machine

open Sys2Proof

theorem foldl_keeps {α β γ : Type} (p : β → γ) (f : β → α → β) (h : ∀ b a, p (f b a) = p b) (l : List α) (b : β) :
    p (l.foldl f b) = p b := by
  induction l generalizing b with
  | nil => rfl
  | cons a l ih => rw [List.foldl_cons, ih, h]

/-- The bytes of memory and the map of addresses to cells. -/
def State.bytes (s : State) : List Host.Cell × FMap Word := (s.mem, s.pkg.capwin)

theorem State.mem_of_bytes {s t : State} (h : t.bytes = s.bytes) : t.mem = s.mem := congrArg Prod.fst h

theorem State.cell_of_capwin {s t : State} (h : t.pkg.capwin = s.pkg.capwin) : t.cell = s.cell := by
  funext a
  simp [State.cell, capWindow?, h]

theorem State.cell_of_bytes {s t : State} (h : t.bytes = s.bytes) : t.cell = s.cell := cell_of_capwin (congrArg Prod.snd h)

variable (s : State)

@[simp] theorem State.modUnit_bytes (u : Nat) (f : UnitSt → UnitSt) : (s.modUnit u f).bytes = s.bytes := rfl
@[simp] theorem State.modDie_bytes (d : Nat) (f : Die → Die) : (s.modDie d f).bytes = s.bytes := rfl
@[simp] theorem State.l2_bytes (x : List L2Line) : State.bytes { s with l2 := x } = s.bytes := rfl
@[simp] theorem State.modPort_bytes (p : Nat) (f : Port → Port) : (s.modPort p f).bytes = s.bytes := rfl
@[simp] theorem State.modIfile_bytes (p : Nat) (f : IFile → IFile) : (s.modIfile p f).bytes = s.bytes := rfl
@[simp] theorem State.modAplic_bytes (p : Nat) (f : Aplic → Aplic) : (s.modAplic p f).bytes = s.bytes := rfl
@[simp] theorem State.l2Set_bytes (x : L2Line) : (s.l2Set x).bytes = s.bytes := rfl
@[simp] theorem State.wrote_bytes (who line : Nat) : (s.wrote who line).bytes = s.bytes := rfl
@[simp] theorem State.clearPoison_bytes (a n : Nat) : (s.clearPoison a n).bytes = s.bytes := rfl

@[simp] theorem ifilePut_bytes (f off v : Nat) : (ifilePut s f off v).bytes = s.bytes := by
  unfold ifilePut
  split <;> simp

@[simp] theorem sendMsi_bytes (pa i : Nat) : (sendMsi s pa i).bytes = s.bytes := by
  unfold sendMsi
  repeat' split
  all_goals simp

@[simp] theorem aplicForward_bytes (d : Nat) : (aplicForward s d).bytes = s.bytes := by
  refine foldl_keeps State.bytes _ (fun t i => ?_) _ _
  dsimp only
  split <;> simp

@[simp] theorem portSignal_bytes (p k : Nat) : (portSignal s p k).bytes = s.bytes := by
  unfold portSignal aplicPulse aplicSet
  repeat' split
  all_goals simp

@[simp] theorem portError_bytes (p : Nat) : (portError s p).bytes = s.bytes := by simp [portError]

@[simp] theorem State.addPoison_bytes (f : Nat) : (s.addPoison f).bytes = s.bytes := by
  unfold State.addPoison
  dsimp only
  split <;> rfl

@[simp] theorem State.addLinePoison_bytes (line : Nat) (b : BitVec 4) : (s.addLinePoison line b).bytes = s.bytes := by
  refine foldl_keeps State.bytes _ (fun t i => ?_) _ _
  split <;> simp

@[simp] theorem State.l1Drop_bytes (u line : Nat) : (s.l1Drop u line).bytes = s.bytes := by
  unfold State.l1Drop
  split <;> simp

@[simp] theorem State.l1Touch_bytes (u line : Nat) : (s.l1Touch u line).bytes = s.bytes := by
  unfold State.l1Touch
  split <;> simp

@[simp] theorem State.dropQuads_bytes (d : Nat) (v : BitVec 24) (line : Nat) (b : Option Nat) :
    (s.dropQuads d v line b).bytes = s.bytes := by
  unfold State.dropQuads
  exact foldl_keeps State.bytes (fun t u => t.l1Drop u line) (fun t u => t.l1Drop_bytes u line) _ _

@[simp] theorem State.rdcDrop_bytes (d line : Nat) : (s.rdcDrop d line).bytes = s.bytes := by
  unfold State.rdcDrop
  split <;> simp

@[simp] theorem State.l2Evict_bytes (x : L2Line) : (s.l2Evict x).bytes = s.bytes := by
  unfold State.l2Evict
  dsimp only
  repeat' split
  all_goals simp

@[simp] theorem State.l2Room_bytes (line : Nat) : (s.l2Room line).bytes = s.bytes := by
  unfold State.l2Room
  split
  · rfl
  · split
    · exact s.l2Evict_bytes _
    · rfl

@[simp] theorem State.l2Return_bytes (line : Nat) : (s.l2Return line).bytes = s.bytes := by
  unfold State.l2Return
  split <;> simp

@[simp] theorem State.l2Fill_bytes (line : Nat) (b : Bool) : (s.l2Fill line b).bytes = s.bytes := by
  have h (t : State) (ht : t.bytes = s.bytes) (x : L2Line) :
      (if b then (t.l2Set x).addLinePoison line 15 else t.l2Set x).bytes = s.bytes := by
    split <;> simp [ht]
  unfold State.l2Fill
  split
  · rfl
  · exact h _ (s.l2Room_bytes _) _

@[simp] theorem State.recall_bytes (line : Nat) : (s.recall line).bytes = s.bytes := by
  unfold State.recall
  dsimp only
  split <;> simp

@[simp] theorem State.homeRead_bytes (u line : Nat) : (s.homeRead u line).bytes = s.bytes := by simp [State.homeRead]
@[simp] theorem State.homePeek_bytes (line : Nat) : (s.homePeek line).bytes = s.bytes := by simp [State.homePeek]

@[simp] theorem State.sendInval_bytes (line : Nat) : (s.sendInval line).bytes = s.bytes := by
  unfold State.sendInval
  split <;> simp

@[simp] theorem State.homeOwn_bytes (u line : Nat) : (s.homeOwn u line).bytes = s.bytes := by simp [State.homeOwn]
@[simp] theorem State.homeRdcRead_bytes (line : Nat) : (s.homeRdcRead line).bytes = s.bytes := by simp [State.homeRdcRead]
@[simp] theorem State.homeWrite_bytes (line : Nat) : (s.homeWrite line).bytes = s.bytes := by simp [State.homeWrite]

@[simp] theorem State.applyInval_bytes (d : Nat) : (s.applyInval d).bytes = s.bytes := by
  unfold State.applyInval
  split <;> simp

@[simp] theorem State.applyInvals_bytes (d : Nat) : (s.applyInvals d).bytes = s.bytes :=
  foldl_keeps State.bytes _ (fun t _ => t.applyInval_bytes d) _ _

@[simp] theorem State.rdcLoad_bytes (d line : Nat) : (s.rdcLoad d line).bytes = s.bytes := by
  unfold State.rdcLoad
  split
  · rfl
  · dsimp only
    split <;> simp

@[simp] theorem State.l1Insert_bytes (u pa : Nat) (d : Bool) (c : Option (BitVec 2048)) (b : BitVec 4) :
    (s.l1Insert u pa d c b).bytes = s.bytes := by
  unfold State.l1Insert
  dsimp only
  split
  · rfl
  · split <;> (try split) <;> simp

@[simp] theorem State.rdcFill_bytes (u pa : Nat) : (s.rdcFill u pa).bytes = s.bytes := by
  unfold State.rdcFill
  dsimp only
  split <;> simp

@[simp] theorem State.l1Fill_bytes (u pa : Nat) : (s.l1Fill u pa).bytes = s.bytes := by
  unfold State.l1Fill
  split <;> simp

@[simp] theorem State.readHome_bytes (pa : Nat) (nc : Bool) : (s.readHome pa nc).bytes = s.bytes := by
  unfold State.readHome
  split <;> simp

@[simp] theorem State.readSector_bytes (u pa n : Nat) (a b : Bool) : (s.readSector u pa n a b).1.bytes = s.bytes := by
  unfold State.readSector
  dsimp only
  repeat' split
  all_goals simp

/-- A read of any length moves lines and entries only. -/
@[simp] theorem State.readSpan_bytes (u pa n : Nat) (a b : Bool) : (s.readSpan u pa n a b).1.bytes = s.bytes := by
  unfold State.readSpan
  refine foldl_keeps (fun st : State × Nat => st.1.bytes) _ ?_ _ _
  rintro ⟨t, x⟩ p
  simp

theorem State.readSpan_mem (u pa n : Nat) (a b : Bool) : (s.readSpan u pa n a b).1.mem = s.mem := mem_of_bytes (readSpan_bytes s ..)
theorem State.homePeek_mem (line : Nat) : (s.homePeek line).mem = s.mem := mem_of_bytes (homePeek_bytes s line)
theorem State.homeWrite_mem (line : Nat) : (s.homeWrite line).mem = s.mem := mem_of_bytes (homeWrite_bytes s line)
theorem State.applyInvals_mem (d : Nat) : (s.applyInvals d).mem = s.mem := mem_of_bytes (applyInvals_bytes s d)

/-- A state whose bytes are those of s with n bytes at a cell replaced. -/
theorem State.put_bytes {t : State} (h : t.bytes = s.bytes) (pa n v : Nat) :
    (t.put pa n v).bytes = (memPut s.mem (s.cell pa) n v, s.pkg.capwin) := by
  have hc : (t.put pa n v).pkg.capwin = s.pkg.capwin := congrArg Prod.snd h
  simp only [State.bytes, hc]
  rw [State.put, mem_of_bytes h, cell_of_bytes h]

/-- A write at the home that a port takes, or that needs none, replaces its bytes. -/
theorem State.putHome_bytes {t : State} (h : t.bytes = s.bytes) (who pa n v : Nat) :
    (t.putHome who pa n v false).bytes = (memPut s.mem (s.cell pa) n v, s.pkg.capwin) := by
  simp [State.putHome, put_bytes s h]

/-- A store of a sector that the caches may keep replaces its bytes. -/
theorem State.writeSector_bytes (u : Nat) (w : WtAccess) (v : Nat) (b : Bool) :
    (s.writeSector u w v b false).bytes = (memPut s.mem (s.cell w.pa) w.n v, s.pkg.capwin) := by
  unfold State.writeSector
  dsimp only
  split
  · simp [put_bytes s rfl]
  · refine putHome_bytes s ?_ ..
    repeat' split
    all_goals simp

/-! ### Stores, sector by sector -/

/-- The cells of a sector follow one another. -/
theorem State.cell_add {a i : Nat} (h : a % 128 + i < 128) : s.cell (a + i) = s.cell a + i := by
  have h1 : (a + i) / 2 ^ 48 = a / 2 ^ 48 := by omega
  have h2 : (a + i) % 2 ^ 48 = a % 2 ^ 48 + i := by omega
  have h3 : (a % 2 ^ 48 + i) / 2 ^ 30 = a % 2 ^ 48 / 2 ^ 30 := by omega
  have hw : capWindow? s (a % 2 ^ 48 + i) = capWindow? s (a % 2 ^ 48) := by
    unfold capWindow?
    rw [h3]
  unfold State.cell
  rw [h1, h2, hw]
  split
  · cases hc : capWindow? s (a % 2 ^ 48) with
    | none => rfl
    | some n =>
      have hn := List.find?_some hc
      simp only [Bool.and_eq_true, decide_eq_true_eq] at hn
      have := hn.1.2
      dsimp only
      omega
  · rfl

/-- The sectors of a span lie inside it, each in one sector. -/
theorem sectors_inside {pa fuel n : Nat} {p : Nat × Nat} (h : p ∈ sectors pa fuel n) :
    pa ≤ p.1 ∧ p.1 + p.2 ≤ pa + n ∧ p.1 % 128 + p.2 ≤ 128 := by
  induction fuel generalizing pa n with
  | zero => simp [sectors] at h
  | succ f ih =>
    cases n with
    | zero => simp [sectors] at h
    | succ n =>
      simp only [sectors, List.mem_cons] at h
      rcases h with rfl | h
      · dsimp only
        omega
      · have := ih h
        omega

/-- A cell that is none of a span's is none of a sector's. -/
theorem sector_apart {pa fuel n a : Nat} {p : Nat × Nat} (ha : ∀ i, i < n → a ≠ s.cell (pa + i)) (h : p ∈ sectors pa fuel n) :
    a < s.cell p.1 ∨ s.cell p.1 + p.2 ≤ a := by
  obtain ⟨h1, h2, h3⟩ := sectors_inside h
  by_contra hc
  have hk := s.cell_add (a := p.1) (i := a - s.cell p.1) (by omega)
  have := ha (p.1 - pa + (a - s.cell p.1)) (by omega)
  rw [show pa + (p.1 - pa + (a - s.cell p.1)) = p.1 + (a - s.cell p.1) by omega, hk] at this
  omega

theorem writes_bytes {ps : List (Nat × Nat)} {f : State → Nat × Nat → State} {g : Nat × Nat → Nat}
    (hf : ∀ t p, (f t p).bytes = (memPut t.mem (t.cell p.1) p.2 (g p), t.pkg.capwin)) (h : memWf s.mem = true) :
    memWf (ps.foldl f s).mem = true ∧ (ps.foldl f s).pkg.capwin = s.pkg.capwin
      ∧ ∀ a, (∀ p ∈ ps, a < s.cell p.1 ∨ s.cell p.1 + p.2 ≤ a) → (ps.foldl f s).byteAt a = s.byteAt a := by
  induction ps generalizing s with
  | nil => exact ⟨h, rfl, fun _ _ => rfl⟩
  | cons p ps ih =>
    have hm : (f s p).mem = memPut s.mem (s.cell p.1) p.2 (g p) := congrArg Prod.fst (hf s p)
    have hc : (f s p).pkg.capwin = s.pkg.capwin := congrArg Prod.snd (hf s p)
    obtain ⟨h1, h2, h3⟩ := ih (f s p) (by rw [hm]; exact memPut_wf h)
    refine ⟨h1, h2.trans hc, fun a ha => ?_⟩
    rw [List.foldl_cons, h3 a fun q hq => ?_]
    · rw [State.byteAt, hm, memRead_memPut_out h (ha p List.mem_cons_self)]
      rfl
    · rw [State.cell_of_capwin hc]
      exact ha q (List.mem_cons_of_mem _ hq)

/-- A store keeps the canonical form and the map of addresses, and leaves every cell outside its span as it was. -/
theorem State.writeSpan_frame {u : Nat} {w : WtAccess} {v : Nat} {b : Bool} (h : memWf s.mem = true) :
    memWf (s.writeSpan u w v b false).mem = true ∧ (s.writeSpan u w v b false).pkg.capwin = s.pkg.capwin
      ∧ ∀ a, (∀ i, i < w.n → a ≠ s.cell (w.pa + i)) → (s.writeSpan u w v b false).byteAt a = s.byteAt a := by
  obtain ⟨h1, h2, h3⟩ := writes_bytes s (ps := sectors w.pa (w.n / 128 + 2) w.n) (g := fun p => v / 2 ^ (8 * (p.1 - w.pa)) % 2 ^ (8 * p.2))
    (fun t p => t.writeSector_bytes u { w with va := w.va + (p.1 - w.pa), pa := p.1, n := p.2 } _ b) h
  exact ⟨h1, h2, fun a ha => h3 a fun p hp => sector_apart s ha hp⟩

/-- A span inside one sector is one sector. -/
theorem sectors_one {pa n : Nat} (hn : 0 < n) (hs : pa % 128 + n ≤ 128) : sectors pa (n / 128 + 2) n = [(pa, n)] := by
  obtain ⟨m, rfl⟩ : ∃ m, n = m + 1 := ⟨n - 1, by omega⟩
  have hm : min (m + 1) (128 - pa % 128) = m + 1 := by omega
  have he : ∀ f q, sectors q f 0 = [] := by
    intro f q
    cases f <;> rfl
  simp only [sectors, hm, Nat.sub_self, he]

/-- A store inside one sector writes its span as it stands. -/
theorem State.writeSpan_sector {u : Nat} {w : WtAccess} {v : Nat} {b : Bool} (hn : 0 < w.n) (hs : w.pa % 128 + w.n ≤ 128)
    (hv : v < 2 ^ (8 * w.n)) : (s.writeSpan u w v b false).bytes = (memPut s.mem (s.cell w.pa) w.n v, s.pkg.capwin) := by
  simp [State.writeSpan, sectors_one hn hs, Nat.mod_eq_of_lt hv, writeSector_bytes]

theorem homeStore_step_bytes (t : State) (pa : Nat) (v : Nat) (p : Nat × Nat) :
    ((if 2 ^ 52 ≤ pa then t else t.homeWrite (lineOf p.1)).putHome noHart p.1 p.2 (v / 2 ^ (8 * (p.1 - pa)) % 2 ^ (8 * p.2)) false).bytes
      = (memPut t.mem (t.cell p.1) p.2 (v / 2 ^ (8 * (p.1 - pa)) % 2 ^ (8 * p.2)), t.pkg.capwin) := by
  refine State.putHome_bytes t ?_ ..
  split <;> simp

/-- The store of an engine or a station keeps the form and the map, and leaves every cell outside its span. -/
theorem State.homeStore_frame {pa n v : Nat} (h : memWf s.mem = true) :
    memWf (s.homeStore pa n v).mem = true ∧ (s.homeStore pa n v).pkg.capwin = s.pkg.capwin
      ∧ ∀ a, (∀ i, i < n → a ≠ s.cell (pa + i)) → (s.homeStore pa n v).byteAt a = s.byteAt a := by
  obtain ⟨h1, h2, h3⟩ := writes_bytes s (ps := sectors pa (n / 128 + 2) n) (g := fun p => v / 2 ^ (8 * (p.1 - pa)) % 2 ^ (8 * p.2))
    (fun t p => homeStore_step_bytes t pa v p) h
  exact ⟨h1, h2, fun a ha => h3 a fun p hp => sector_apart s ha hp⟩

/-- An atomic at the home slice returns the old value and writes what its function gives, if anything. -/
theorem State.homeAtomic_bytes {u k pa n : Nat} {f : Nat → Option Nat} :
    (s.homeAtomic u k pa n f).2 = s.get pa n
      ∧ (s.homeAtomic u k pa n f).1.bytes = (match f (s.get pa n) with
        | some v => (memPut s.mem (s.cell pa) n v, s.pkg.capwin)
        | none => s.bytes) := by
  unfold State.homeAtomic
  dsimp only
  cases f (s.get pa n) with
  | some v =>
    refine ⟨rfl, putHome_bytes s ?_ ..⟩
    repeat' split
    all_goals simp
  | none =>
    refine ⟨rfl, ?_⟩
    dsimp only
    repeat' split
    all_goals simp

/-! ### Range tables -/

@[simp] theorem State.setTable_bytes (u : Nat) (r : List RangeEntry) : (s.setTable u r).bytes = s.bytes := by
  unfold State.setTable
  split <;> rfl

@[simp] theorem findRange_bytes (u : Nat) (j : BitVec 16) (va : Nat) : (findRange s u j va).1.bytes = s.bytes := by
  unfold findRange
  split
  · simp [touchRange]
  · split <;> simp [installRange]

end Sys2Proof.Machine
end

