-- ==== Sys2Proof/Laws/PerInstr.lean ====
section
/-! SUPPORT. For each instruction, that its encoding decodes to it: a 32-bit word's fields, or a tile command word. -/

namespace Sys2Proof.Laws.Encoding

open Sys2Proof

/-- The encoding of a well-formed instruction, where it has one, decodes to it. -/
def Statement (i : Instr) : Prop :=
  (∀ q, encodeParts i = some q → i.wellFormed = true → decodeParts q = some i)
    ∧ ∀ t, tcwOf? i = some t → i.wellFormed = true → decodeTcw t.raw = i

/-! ### The three kinds of instruction -/

theorem statement_step {i : Instr} (h : encodeParts i = none) (k : tcwOf? i = none) : Statement i := by
  constructor
  · intro q e; rw [h] at e; cases e
  · intro t e; rw [k] at e; cases e

theorem statement_word {i : Instr} {q : Parts} (h : encodeParts i = some q) (k : tcwOf? i = none)
    (d : i.wellFormed = true → decodeParts q = some i) : Statement i := by
  constructor
  · intro p e w; rw [h] at e; cases e; exact d w
  · intro t e; rw [k] at e; cases e

theorem statement_tcw {i : Instr} {t : Tcw} (h : encodeParts i = none) (k : tcwOf? i = some t)
    (d : i.wellFormed = true → tcwForm? t = some i) : Statement i := by
  constructor
  · intro q e; rw [h] at e; cases e
  · intro u e w
    rw [k] at e
    cases e
    have := d w
    simp [decodeTcw, decodeTcw?, this, w]

/-! ### Fields -/

@[simp] theorem vReg_vField (v : BitVec 4) : vReg? (vField v) = some v := by revert v; decide
@[simp] theorem mReg_mField (v : BitVec 2) : mReg? (mField v) = some v := by revert v; decide
@[simp] theorem qReg_qField (v : BitVec 3) : qReg? (qField v) = some v := by revert v; decide
@[simp] theorem xgReg_xgField (v : BitVec 2) : xgReg? (xgField v) = some v := by revert v; decide
@[simp] theorem op4Of_vF7 (mk : VMask) (o : BitVec 4) : op4Of (vF7 mk o) = o := by
  obtain ⟨en, sel⟩ := mk; revert en sel o; decide
theorem vMask_vF7 (mk : VMask) (o : BitVec 4) (h : mk.ok = true) : vMask? (vF7 mk o) = some mk := by
  obtain ⟨en, sel⟩ := mk; revert en sel o; decide
@[simp] theorem vMask_masked (k : BitVec 2) (o : BitVec 4) : vMask? (vF7 ⟨true, k⟩ o) = some ⟨true, k⟩ := vMask_vF7 _ _ rfl
@[simp] theorem scope_code (c : Scope) : Scope.ofCode? c.code = some c := by cases c <;> rfl
@[simp] theorem scOp_code (c : ScOp) : ScOp.ofCode? c.code = some c := by cases c <;> rfl
@[simp] theorem width_code (c : EWidth) : EWidth.ofCode? c.code = some c := by cases c <;> rfl
@[simp] theorem load_code (c : LoadOp) : LoadOp.ofCode? c.code = some c := by cases c <;> rfl
@[simp] theorem store_code (c : StoreOp) : StoreOp.ofCode? c.code = some c := by cases c <;> rfl
@[simp] theorem branch_code (c : BrCond) : BrCond.ofCode? c.code = some c := by cases c <;> rfl
@[simp] theorem amo_code (c : AmoOp) : AmoOp.ofCode? c.code = some c := by cases c <;> rfl
@[simp] theorem pred_field (k : BitVec 2) (p : Pred) : predOf? (predField k p) = some p := by cases p <;> (revert k; decide)
@[simp] theorem mask_field (k : BitVec 2) (p : Pred) : maskOfPred (predField k p) = k := by cases p <;> (revert k; decide)
@[simp] theorem selOf_selF7 (o : BitVec 4) (c : BitVec 3) : selOf (selF7 o c) = c := by revert o c; decide
@[simp] theorem op_selF7 (o : BitVec 4) (c : BitVec 3) : BitVec.setWidth 4 (selF7 o c >>> 3) = o := by revert o c; decide
@[simp] theorem immI_join (i : BitVec 12) (a b : BitVec 5) (d : BitVec 3) (e : BitVec 7) :
    immI ⟨immHi i, immLo i, a, d, b, e⟩ = i := by
  simp only [immI, immHi, immLo]; ext j hj; grind
@[simp] theorem immS_join (i : BitVec 12) (a c : BitVec 5) (d : BitVec 3) (e : BitVec 7) :
    immS ⟨immHi i, c, a, d, immLo i, e⟩ = i := by
  simp only [immS, immHi, immLo]; ext j hj; grind

theorem tcwOk_fields {i : Instr} {t : Tcw} : tcwOk i t = true →
    t.cls = (tcwClassOpc i).1 ∧ t.opc = (tcwClassOpc i).2
      ∧ (match i with
        | .tred _ => !t.qen
        | .tredQueue _ => t.qen
        | .eset _ => t.aux != 0
        | .esetImm _ => t.aux = 0
        | .skget _ => t.qen
        | _ => true) = true := by
  intro h
  simp only [tcwOk, Bool.and_eq_true, decide_eq_true_eq] at h
  obtain ⟨⟨⟨-, hc⟩, -⟩, hm⟩ := h
  exact ⟨congrArg Prod.fst hc, congrArg Prod.snd hc, hm⟩

/-! ### The RISC-V base -/

@[simp] theorem imm20_join (i : BitVec 20) (b : BitVec 5) (e : BitVec 7) :
    imm20 ⟨imm20F7 i, imm20Rs2 i, imm20Rs1 i, imm20F3 i, b, e⟩ = i := by
  simp only [imm20, imm20F7, imm20Rs2, imm20Rs1, imm20F3]; ext j hj; grind
@[simp] theorem jalOff_jalField (o : BitVec 20) : jalOff (jalField o) = o := by
  apply BitVec.eq_of_getLsbD_eq
  intro j hj
  interval_cases j <;> simp only [jalOff, jalField, BitVec.getLsbD_append, BitVec.getLsbD_extractLsb'] <;> simp
@[simp] theorem branchOff_join (o : BitVec 12) (a b : BitVec 5) (d : BitVec 3) (e : BitVec 7) :
    branchOff ⟨branchF7 o, b, a, d, branchRd o, e⟩ = o := by
  apply BitVec.eq_of_getLsbD_eq
  intro j hj
  interval_cases j <;> simp only [branchOff, branchF7, branchRd, BitVec.getLsbD_append, BitVec.getLsbD_extractLsb'] <;> simp

@[simp] theorem amo_fields (c : BitVec 5) (aq rl : Bool) : (amoF7 c aq rl).extractLsb' 2 5 = c := by revert c aq rl; decide
@[simp] theorem amo_aq (c : BitVec 5) (aq rl : Bool) : (amoF7 c aq rl)[1] = aq := by revert c aq rl; decide
@[simp] theorem amo_rl (c : BitVec 5) (aq rl : Bool) : (amoF7 c aq rl)[0] = rl := by revert c aq rl; decide
@[simp] theorem fence_sets (fm p q : BitVec 4) :
    (fm ++ p ++ q).extractLsb' 8 4 = fm ∧ (fm ++ p ++ q).extractLsb' 4 4 = p ∧ (fm ++ p ++ q).extractLsb' 0 4 = q := by
  revert fm p q; decide

theorem shift_high (c : BitVec 6) (x : BitVec 1) : (c ++ x).extractLsb' 1 6 = c := by revert c x; decide
theorem shift_amount (c : BitVec 6) (n : BitVec 6) :
    (c ++ n.extractLsb' 5 1).extractLsb' 0 1 ++ n.extractLsb' 0 5 = n := by revert c n; decide

theorem rv_decodes (op : RvOp) (w : (Instr.rvAluOrBranch op).wellFormed = true) :
    decodeParts (encodeRv op) = some (.rvAluOrBranch op) := by
  cases op with
  | lui rd i => simp [encodeRv, decodeParts]
  | auipc rd i => simp [encodeRv, decodeParts]
  | jal rd o => simp [encodeRv, decodeParts]
  | jalr rd a i => simp [encodeRv, decodeParts]
  | branch c a b o => simp [encodeRv, decodeParts]
  | alu op rd a b => cases op <;> rfl
  | aluW op rd a b => cases op <;> rfl
  | aluI op rd a i => cases op <;> simp [encodeRv, decodeParts, decodeOpImm, AluIOp.fields]
  | unary op rd a =>
    cases op <;> simp [encodeRv, decodeParts, decodeOpImm, decodeOp32, shiftOf?, unaryOf?, UnaryOp.fields, ShiftOp.fields, AluWOp.fields,
      UnaryOp.all, ShiftOp.all, AluWOp.all, List.find?]
  | shift op rd a n =>
    have hw : shiftAmountOk op n = true := w
    cases op <;> simp_all [encodeRv, decodeParts, decodeOpImm, shiftOf?, ShiftOp.fields, ShiftOp.all, List.find?, shift_high, shift_amount]

/-! ### Tile command words -/

theorem form_tld {t : Tcw} (w : (Instr.tld t).wellFormed = true) : tcwForm? t = some (.tld t) := by
  obtain ⟨h, k, -⟩ := tcwOk_fields (i := .tld t) w
  simp [tcwForm?, h, k, tcwClassOpc]
theorem form_tst {t : Tcw} (w : (Instr.tst t).wellFormed = true) : tcwForm? t = some (.tst t) := by
  obtain ⟨h, k, -⟩ := tcwOk_fields (i := .tst t) w
  simp [tcwForm?, h, k, tcwClassOpc]
theorem form_tldh {t : Tcw} (w : (Instr.tldh t).wellFormed = true) : tcwForm? t = some (.tldh t) := by
  obtain ⟨h, k, -⟩ := tcwOk_fields (i := .tldh t) w
  simp [tcwForm?, h, k, tcwClassOpc]
theorem form_tldm {t : Tcw} (w : (Instr.tldm t).wellFormed = true) : tcwForm? t = some (.tldm t) := by
  obtain ⟨h, k, -⟩ := tcwOk_fields (i := .tldm t) w
  simp [tcwForm?, h, k, tcwClassOpc]
theorem form_tgath {t : Tcw} (w : (Instr.tgath t).wellFormed = true) : tcwForm? t = some (.tgath t) := by
  obtain ⟨h, k, -⟩ := tcwOk_fields (i := .tgath t) w
  simp [tcwForm?, h, k, tcwClassOpc]
theorem form_tsave {t : Tcw} (w : (Instr.tsave t).wellFormed = true) : tcwForm? t = some (.tsave t) := by
  obtain ⟨h, k, -⟩ := tcwOk_fields (i := .tsave t) w
  simp [tcwForm?, h, k, tcwClassOpc]
theorem form_trest {t : Tcw} (w : (Instr.trest t).wellFormed = true) : tcwForm? t = some (.trest t) := by
  obtain ⟨h, k, -⟩ := tcwOk_fields (i := .trest t) w
  simp [tcwForm?, h, k, tcwClassOpc]
theorem form_tmov {t : Tcw} (w : (Instr.tmov t).wellFormed = true) : tcwForm? t = some (.tmov t) := by
  obtain ⟨h, k, -⟩ := tcwOk_fields (i := .tmov t) w
  simp [tcwForm?, h, k, tcwClassOpc]
theorem form_tzero {t : Tcw} (w : (Instr.tzero t).wellFormed = true) : tcwForm? t = some (.tzero t) := by
  obtain ⟨h, k, -⟩ := tcwOk_fields (i := .tzero t) w
  simp [tcwForm?, h, k, tcwClassOpc]
theorem form_tfill {t : Tcw} (w : (Instr.tfill t).wellFormed = true) : tcwForm? t = some (.tfill t) := by
  obtain ⟨h, k, -⟩ := tcwOk_fields (i := .tfill t) w
  simp [tcwForm?, h, k, tcwClassOpc]
theorem form_tadd {t : Tcw} (w : (Instr.tadd t).wellFormed = true) : tcwForm? t = some (.tadd t) := by
  obtain ⟨h, k, -⟩ := tcwOk_fields (i := .tadd t) w
  simp [tcwForm?, h, k, tcwClassOpc]
theorem form_tsub {t : Tcw} (w : (Instr.tsub t).wellFormed = true) : tcwForm? t = some (.tsub t) := by
  obtain ⟨h, k, -⟩ := tcwOk_fields (i := .tsub t) w
  simp [tcwForm?, h, k, tcwClassOpc]
theorem form_tmul {t : Tcw} (w : (Instr.tmul t).wellFormed = true) : tcwForm? t = some (.tmul t) := by
  obtain ⟨h, k, -⟩ := tcwOk_fields (i := .tmul t) w
  simp [tcwForm?, h, k, tcwClassOpc]
theorem form_tmax {t : Tcw} (w : (Instr.tmax t).wellFormed = true) : tcwForm? t = some (.tmax t) := by
  obtain ⟨h, k, -⟩ := tcwOk_fields (i := .tmax t) w
  simp [tcwForm?, h, k, tcwClassOpc]
theorem form_tmin {t : Tcw} (w : (Instr.tmin t).wellFormed = true) : tcwForm? t = some (.tmin t) := by
  obtain ⟨h, k, -⟩ := tcwOk_fields (i := .tmin t) w
  simp [tcwForm?, h, k, tcwClassOpc]
theorem form_tscl {t : Tcw} (w : (Instr.tscl t).wellFormed = true) : tcwForm? t = some (.tscl t) := by
  obtain ⟨h, k, -⟩ := tcwOk_fields (i := .tscl t) w
  simp [tcwForm?, h, k, tcwClassOpc]
theorem form_ttrn {t : Tcw} (w : (Instr.ttrn t).wellFormed = true) : tcwForm? t = some (.ttrn t) := by
  obtain ⟨h, k, -⟩ := tcwOk_fields (i := .ttrn t) w
  simp [tcwForm?, h, k, tcwClassOpc]
theorem form_tred {t : Tcw} (w : (Instr.tred t).wellFormed = true) : tcwForm? t = some (.tred t) := by
  obtain ⟨h, k, m⟩ := tcwOk_fields (i := .tred t) w
  simp [tcwForm?, h, k, tcwClassOpc] at m ⊢
  simp [m]
theorem form_tredQueue {t : Tcw} (w : (Instr.tredQueue t).wellFormed = true) : tcwForm? t = some (.tredQueue t) := by
  obtain ⟨h, k, m⟩ := tcwOk_fields (i := .tredQueue t) w
  simp [tcwForm?, h, k, tcwClassOpc] at m ⊢
  simp [m]
theorem form_tcvt {t : Tcw} (w : (Instr.tcvt t).wellFormed = true) : tcwForm? t = some (.tcvt t) := by
  obtain ⟨h, k, -⟩ := tcwOk_fields (i := .tcvt t) w
  simp [tcwForm?, h, k, tcwClassOpc]
theorem form_tqnt {t : Tcw} (w : (Instr.tqnt t).wellFormed = true) : tcwForm? t = some (.tqnt t) := by
  obtain ⟨h, k, -⟩ := tcwOk_fields (i := .tqnt t) w
  simp [tcwForm?, h, k, tcwClassOpc]
theorem form_tdeq {t : Tcw} (w : (Instr.tdeq t).wellFormed = true) : tcwForm? t = some (.tdeq t) := by
  obtain ⟨h, k, -⟩ := tcwOk_fields (i := .tdeq t) w
  simp [tcwForm?, h, k, tcwClassOpc]
theorem form_tfence {t : Tcw} (w : (Instr.tfence t).wellFormed = true) : tcwForm? t = some (.tfence t) := by
  obtain ⟨h, k, -⟩ := tcwOk_fields (i := .tfence t) w
  simp [tcwForm?, h, k, tcwClassOpc]
theorem form_tmma {t : Tcw} (w : (Instr.tmma t).wellFormed = true) : tcwForm? t = some (.tmma t) := by
  obtain ⟨h, k, -⟩ := tcwOk_fields (i := .tmma t) w
  simp [tcwForm?, h, k, tcwClassOpc]
theorem form_tmmas {t : Tcw} (w : (Instr.tmmas t).wellFormed = true) : tcwForm? t = some (.tmmas t) := by
  obtain ⟨h, k, -⟩ := tcwOk_fields (i := .tmmas t) w
  simp [tcwForm?, h, k, tcwClassOpc]
theorem form_tmmaw {t : Tcw} (w : (Instr.tmmaw t).wellFormed = true) : tcwForm? t = some (.tmmaw t) := by
  obtain ⟨h, k, -⟩ := tcwOk_fields (i := .tmmaw t) w
  simp [tcwForm?, h, k, tcwClassOpc]
theorem form_tmmad {t : Tcw} (w : (Instr.tmmad t).wellFormed = true) : tcwForm? t = some (.tmmad t) := by
  obtain ⟨h, k, -⟩ := tcwOk_fields (i := .tmmad t) w
  simp [tcwForm?, h, k, tcwClassOpc]
theorem form_eset {t : Tcw} (w : (Instr.eset t).wellFormed = true) : tcwForm? t = some (.eset t) := by
  obtain ⟨h, k, m⟩ := tcwOk_fields (i := .eset t) w
  simp [tcwForm?, h, k, tcwClassOpc] at m ⊢
  simp [m]
theorem form_esetImm {t : Tcw} (w : (Instr.esetImm t).wellFormed = true) : tcwForm? t = some (.esetImm t) := by
  obtain ⟨h, k, m⟩ := tcwOk_fields (i := .esetImm t) w
  simp [tcwForm?, h, k, tcwClassOpc] at m ⊢
  simp [m]
theorem form_skset {t : Tcw} (w : (Instr.skset t).wellFormed = true) : tcwForm? t = some (.skset t) := by
  obtain ⟨h, k, -⟩ := tcwOk_fields (i := .skset t) w
  simp [tcwForm?, h, k, tcwClassOpc]
theorem form_skget {t : Tcw} (w : (Instr.skget t).wellFormed = true) : tcwForm? t = some (.skget t) := by
  obtain ⟨h, k, -⟩ := tcwOk_fields (i := .skget t) w
  simp [tcwForm?, h, k, tcwClassOpc]

/-! ### One lemma per constructor -/

theorem vacantEncoding (w : BitVec 256) (tcw : Bool) : Statement (.vacantEncoding w tcw) := statement_step rfl rfl
theorem rvAluOrBranch (op : RvOp) : Statement (.rvAluOrBranch op) :=
  statement_word rfl rfl fun w => rv_decodes op w
theorem rvLoad (op : LoadOp) (d a : BitVec 5) (i : BitVec 12) : Statement (.rvLoad op d a i) :=
  statement_word rfl rfl fun _ => by simp [decodeParts]
theorem rvStore (op : StoreOp) (a b : BitVec 5) (i : BitVec 12) : Statement (.rvStore op a b i) :=
  statement_word rfl rfl fun _ => by simp [decodeParts]
theorem rvAmo (op : AmoOp) (dbl aq rl : Bool) (d a b : BitVec 5) : Statement (.rvAmo op dbl aq rl d a b) :=
  statement_word rfl rfl fun _ => by cases op <;> cases dbl <;> simp [decodeParts, decodeAmo, AmoOp.code, amoF3, AmoOp.ofCode?]
theorem lr (dbl aq rl : Bool) (d a : BitVec 5) : Statement (.lr dbl aq rl d a) :=
  statement_word rfl rfl fun _ => by cases dbl <;> simp [decodeParts, decodeAmo, amoF3]
theorem sc (dbl aq rl : Bool) (d a b : BitVec 5) : Statement (.sc dbl aq rl d a b) :=
  statement_word rfl rfl fun _ => by cases dbl <;> simp [decodeParts, decodeAmo, amoF3]
theorem csrAccess (op : CsrOp) (imm : Bool) (d a : BitVec 5) (csr : BitVec 12) : Statement (.csrAccess op imm d a csr) :=
  statement_word rfl rfl fun _ => by cases op <;> cases imm <;> simp [decodeParts, decodeSystem, CsrOp.code, CsrOp.ofCode?]
theorem fence (fm pred succ : BitVec 4) (d a : BitVec 5) : Statement (.fence fm pred succ d a) :=
  statement_word rfl rfl fun _ => by simp [decodeParts, decodeFence]
theorem fenceI (d a : BitVec 5) (i : BitVec 12) : Statement (.fenceI d a i) :=
  statement_word rfl rfl fun _ => by simp [decodeParts, decodeFence]
theorem ecall : Statement .ecall :=
  statement_word rfl rfl fun _ => by decide
theorem ebreak : Statement .ebreak :=
  statement_word rfl rfl fun _ => by decide
theorem wfi : Statement .wfi :=
  statement_word rfl rfl fun _ => by decide
theorem mret : Statement .mret :=
  statement_word rfl rfl fun _ => by decide
theorem fmt (p : BitVec 12) : Statement (.fmt p) :=
  statement_word rfl rfl fun _ => by simp [decodeParts, decodeCustom1]
theorem sbind (g : BitVec 2) (a b : BitVec 5) : Statement (.sbind g a b) :=
  statement_word rfl rfl fun _ => by simp [decodeParts, decodeCustom0, decodeStreams]
theorem sunbind (g : BitVec 2) : Statement (.sunbind g) :=
  statement_word rfl rfl fun _ => by simp [decodeParts, decodeCustom0, decodeStreams]
theorem sgstat (d : BitVec 5) (g : BitVec 2) : Statement (.sgstat d g) :=
  statement_word rfl rfl fun _ => by simp [decodeParts, decodeCustom0, decodeStreams]
theorem streamFetch (u k i : Nat) : Statement (.streamFetch u k i) := statement_step rfl rfl
theorem streamStoreAccept (u k i : Nat) : Statement (.streamStoreAccept u k i) := statement_step rfl rfl
theorem qbind (n : BitVec 3) (a : BitVec 5) : Statement (.qbind n a) :=
  statement_word rfl rfl fun _ => by simp [decodeParts, decodeCustom0, decodeStreams]
theorem qpush (n : BitVec 3) (a : BitVec 5) : Statement (.qpush n a) :=
  statement_word rfl rfl fun _ => by simp [decodeParts, decodeCustom0, decodeStreams]
theorem qpop (d : BitVec 5) (n : BitVec 3) : Statement (.qpop d n) :=
  statement_word rfl rfl fun _ => by simp [decodeParts, decodeCustom0, decodeStreams]
theorem qpoll (d : BitVec 5) (n : BitVec 3) : Statement (.qpoll d n) :=
  statement_word rfl rfl fun _ => by simp [decodeParts, decodeCustom0, decodeStreams]
theorem qcnt (d : BitVec 5) (n : BitVec 3) : Statement (.qcnt d n) :=
  statement_word rfl rfl fun _ => by simp [decodeParts, decodeCustom0, decodeStreams]
theorem queueHeldDelivery (u k port : Nat) : Statement (.queueHeldDelivery u k port) := statement_step rfl rfl
theorem bmove (d a b : BitVec 5) : Statement (.bmove d a b) :=
  statement_word rfl rfl fun _ => by simp [decodeParts, decodeCustom0, decodeStreams]
theorem bfillw (d a b : BitVec 5) : Statement (.bfillw d a b) :=
  statement_word rfl rfl fun _ => by simp [decodeParts, decodeCustom0, decodeStreams]
theorem repb (d a b : BitVec 5) : Statement (.repb d a b) :=
  statement_word rfl rfl fun _ => by simp [decodeParts, decodeCustom0, decodeStreams]
theorem iclock (d a b : BitVec 5) : Statement (.iclock d a b) :=
  statement_word rfl rfl fun _ => by simp [decodeParts, decodeCustom0, decodeStreams]
theorem icunlk (a b : BitVec 5) : Statement (.icunlk a b) :=
  statement_word rfl rfl fun _ => by simp [decodeParts, decodeCustom0, decodeStreams]
theorem ldna (d a : BitVec 5) (i : BitVec 12) : Statement (.ldna d a i) :=
  statement_word rfl rfl fun _ => by simp [decodeParts, decodeCustom0]
theorem stby (a b : BitVec 5) (i : BitVec 12) : Statement (.stby a b i) :=
  statement_word rfl rfl fun _ => by simp [decodeParts, decodeCustom0]
theorem pref (a : BitVec 5) (i : BitVec 12) : Statement (.pref a i) :=
  statement_word rfl rfl fun _ => by simp [decodeParts, decodeCustom0]
theorem ldaq (d a : BitVec 5) (sc : Scope) : Statement (.ldaq d a sc) :=
  statement_word rfl rfl fun _ => by simp [decodeParts, decodeCustom0, decodeScoped]
theorem strl (a b : BitVec 5) (sc : Scope) : Statement (.strl a b sc) :=
  statement_word rfl rfl fun _ => by simp [decodeParts, decodeCustom0, decodeScoped]
theorem fenceRg (a : BitVec 5) (sc : Scope) : Statement (.fenceRg a sc) :=
  statement_word rfl rfl fun _ => by simp [decodeParts, decodeCustom0, decodeScoped]
theorem fenceS (sc : Scope) : Statement (.fenceS sc) :=
  statement_word rfl rfl fun _ => by simp [decodeParts, decodeCustom0, decodeScoped]
theorem fenceE : Statement .fenceE :=
  statement_word rfl rfl fun _ => by simp [decodeParts, decodeCustom0, decodeScoped]
theorem amosc (op : ScOp) (d a b : BitVec 5) : Statement (.amosc op d a b) :=
  statement_word rfl rfl fun _ => by simp [decodeParts, decodeCustom0, decodeScoped]
theorem bcopy (d a : BitVec 5) : Statement (.bcopy d a) :=
  statement_word rfl rfl fun _ => by simp [decodeParts, decodeCustom0, decodeCopies]
theorem bcopyc (d a : BitVec 5) : Statement (.bcopyc d a) :=
  statement_word rfl rfl fun _ => by simp [decodeParts, decodeCustom0, decodeCopies]
theorem bgath (d a : BitVec 5) : Statement (.bgath d a) :=
  statement_word rfl rfl fun _ => by simp [decodeParts, decodeCustom0, decodeCopies]
theorem bscat (d a : BitVec 5) : Statement (.bscat d a) :=
  statement_word rfl rfl fun _ => by simp [decodeParts, decodeCustom0, decodeCopies]
theorem bcancel (d a : BitVec 5) : Statement (.bcancel d a) :=
  statement_word rfl rfl fun _ => by simp [decodeParts, decodeCustom0, decodeCopies]
theorem ctest (d a b : BitVec 5) : Statement (.ctest d a b) :=
  statement_word rfl rfl fun _ => by simp [decodeParts, decodeCustom0, decodeCopies]
theorem cwaitm (a b : BitVec 5) : Statement (.cwaitm a b) :=
  statement_word rfl rfl fun _ => by simp [decodeParts, decodeCustom0, decodeCopies]
theorem waybillArrival (u n : Nat) : Statement (.waybillArrival u n) := statement_step rfl rfl
theorem engineStart (u n : Nat) : Statement (.engineStart u n) := statement_step rfl rfl
theorem engineChunkLanded (u n chunk : Nat) : Statement (.engineChunkLanded u n chunk) := statement_step rfl rfl
theorem engineComplete (u n : Nat) : Statement (.engineComplete u n) := statement_step rfl rfl
theorem gatherRowDelivery (u n : Nat) : Statement (.gatherRowDelivery u n) := statement_step rfl rfl
theorem cancelRequest (u k : Nat) : Statement (.cancelRequest u k) := statement_step rfl rfl
theorem send (a b : BitVec 5) : Statement (.send a b) :=
  statement_word rfl rfl fun _ => by simp [decodeParts, decodeCustom0, decodeCopies]
theorem sendr (a b : BitVec 5) : Statement (.sendr a b) :=
  statement_word rfl rfl fun _ => by simp [decodeParts, decodeCustom0, decodeCopies]
theorem amsg (a b : BitVec 5) : Statement (.amsg a b) :=
  statement_word rfl rfl fun _ => by simp [decodeParts, decodeCustom0, decodeCopies]
theorem recv (d a : BitVec 5) : Statement (.recv d a) :=
  statement_word rfl rfl fun _ => by simp [decodeParts, decodeCustom0, decodeCopies]
theorem recvp (d a : BitVec 5) : Statement (.recvp d a) :=
  statement_word rfl rfl fun _ => by simp [decodeParts, decodeCustom0, decodeCopies]
theorem loopbk (a b : BitVec 5) : Statement (.loopbk a b) :=
  statement_word rfl rfl fun _ => by simp [decodeParts, decodeCustom0, decodeCopies]
theorem hret : Statement .hret :=
  statement_word rfl rfl fun _ => by simp [decodeParts, decodeCustom0, decodeCopies]
theorem rankget (d a : BitVec 5) : Statement (.rankget d a) :=
  statement_word rfl rfl fun _ => by simp [decodeParts, decodeCustom0, decodeCopies]
theorem rankset (a b : BitVec 5) : Statement (.rankset a b) :=
  statement_word rfl rfl fun _ => by simp [decodeParts, decodeCustom3, decodeRankWin]
theorem barr (d a : BitVec 5) : Statement (.barr d a) :=
  statement_word rfl rfl fun _ => by simp [decodeParts, decodeCustom0, decodeCopies]
theorem bwait (a b : BitVec 5) : Statement (.bwait a b) :=
  statement_word rfl rfl fun _ => by simp [decodeParts, decodeCustom0, decodeCopies]
theorem barw (d a : BitVec 5) : Statement (.barw d a) :=
  statement_word rfl rfl fun _ => by simp [decodeParts, decodeCustom0, decodeCopies]
theorem bcfg (a b : BitVec 5) : Statement (.bcfg a b) :=
  statement_word rfl rfl fun _ => by simp [decodeParts, decodeCustom0, decodeCopies]
theorem bstat (d a : BitVec 5) : Statement (.bstat d a) :=
  statement_word rfl rfl fun _ => by simp [decodeParts, decodeCustom0, decodeCopies]
theorem waita (a : BitVec 5) : Statement (.waita a) :=
  statement_word rfl rfl fun _ => by simp [decodeParts, decodeCustom0, decodeCopies]
theorem barrierRelease (c b : Nat) : Statement (.barrierRelease c b) := statement_step rfl rfl
theorem messageInject (u : Nat) (reply : Bool) : Statement (.messageInject u reply) := statement_step rfl rfl
theorem messageArrival (src dst vn : Nat) : Statement (.messageArrival src dst vn) := statement_step rfl rfl
theorem inboxHeldEntry (u : Nat) : Statement (.inboxHeldEntry u) := statement_step rfl rfl
theorem handlerStart (u : Nat) : Statement (.handlerStart u) := statement_step rfl rfl
theorem mailboxRecordArrival (c src : Nat) : Statement (.mailboxRecordArrival c src) := statement_step rfl rfl
theorem mbxrd (d a : BitVec 5) : Statement (.mbxrd d a) :=
  statement_word rfl rfl fun _ => by simp [decodeParts, decodeCustom3, decodeMailbox]
theorem mbxack (a : BitVec 5) : Statement (.mbxack a) :=
  statement_word rfl rfl fun _ => by simp [decodeParts, decodeCustom3, decodeMailbox]
theorem mbxpost (a b : BitVec 5) : Statement (.mbxpost a b) :=
  statement_word rfl rfl fun _ => by simp [decodeParts, decodeCustom3, decodeMailbox]
theorem resume (a : BitVec 5) : Statement (.resume a) :=
  statement_word rfl rfl fun _ => by simp [decodeParts, decodeCustom3, decodeMailbox]
theorem resumeReplyApply (c i : Nat) : Statement (.resumeReplyApply c i) := statement_step rfl rfl
theorem slotsave (a b : BitVec 5) : Statement (.slotsave a b) :=
  statement_word rfl rfl fun _ => by simp [decodeParts, decodeCustom3, decodeMailbox]
theorem slotrest (a b : BitVec 5) : Statement (.slotrest a b) :=
  statement_word rfl rfl fun _ => by simp [decodeParts, decodeCustom3, decodeMailbox]
theorem nispill (d a : BitVec 5) : Statement (.nispill d a) :=
  statement_word rfl rfl fun _ => by simp [decodeParts, decodeCustom3, decodeMailbox]
theorem cutreq (d a : BitVec 5) : Statement (.cutreq d a) :=
  statement_word rfl rfl fun _ => by simp [decodeParts, decodeCustom3, decodeMailbox]
theorem cutstat (d a : BitVec 5) : Statement (.cutstat d a) :=
  statement_word rfl rfl fun _ => by simp [decodeParts, decodeCustom3, decodeMailbox]
theorem cutAnnounce : Statement .cutAnnounce := statement_step rfl rfl
theorem preemptStop (u : Nat) : Statement (.preemptStop u) := statement_step rfl rfl
theorem dumpseal (a : BitVec 5) : Statement (.dumpseal a) :=
  statement_word rfl rfl fun _ => by simp [decodeParts, decodeCustom3, decodeMailbox]
theorem tspawn (d a : BitVec 5) : Statement (.tspawn d a) :=
  statement_word rfl rfl fun _ => by simp [decodeParts, decodeCustom0, decodeTasks]
theorem tdep (a : BitVec 5) : Statement (.tdep a) :=
  statement_word rfl rfl fun _ => by simp [decodeParts, decodeCustom0, decodeTasks]
theorem twait (a : BitVec 5) : Statement (.twait a) :=
  statement_word rfl rfl fun _ => by simp [decodeParts, decodeCustom0, decodeTasks]
theorem tsusp (a : BitVec 5) : Statement (.tsusp a) :=
  statement_word rfl rfl fun _ => by simp [decodeParts, decodeCustom0, decodeTasks]
theorem texit : Statement .texit :=
  statement_word rfl rfl fun _ => by simp [decodeParts, decodeCustom0, decodeTasks]
theorem phase (a : BitVec 5) : Statement (.phase a) :=
  statement_word rfl rfl fun _ => by simp [decodeParts, decodeCustom0, decodeTasks]
theorem taskWalkOffer (i : Nat) : Statement (.taskWalkOffer i) := statement_step rfl rfl
theorem queueTake (u k : Nat) : Statement (.queueTake u k) := statement_step rfl rfl
theorem stepinc (a : BitVec 5) : Statement (.stepinc a) :=
  statement_word rfl rfl fun _ => by simp [decodeParts, decodeCustom0, decodeTasks]
theorem gswait (a : BitVec 5) : Statement (.gswait a) :=
  statement_word rfl rfl fun _ => by simp [decodeParts, decodeCustom0, decodeTasks]
theorem sld (d a : BitVec 5) : Statement (.sld d a) :=
  statement_word rfl rfl fun _ => by simp [decodeParts, decodeCustom0, decodeTasks]
theorem sst (a b : BitVec 5) : Statement (.sst a b) :=
  statement_word rfl rfl fun _ => by simp [decodeParts, decodeCustom0, decodeTasks]
theorem sadd (a b : BitVec 5) : Statement (.sadd a b) :=
  statement_word rfl rfl fun _ => by simp [decodeParts, decodeCustom0, decodeTasks]
theorem smerge (a b : BitVec 5) : Statement (.smerge a b) :=
  statement_word rfl rfl fun _ => by simp [decodeParts, decodeCustom0, decodeTasks]
theorem vsld (d : BitVec 4) (a : BitVec 5) (mk : VMask) : Statement (.vsld d a mk) :=
  statement_word rfl rfl fun w => by simp [decodeParts, decodeCustom2, decodeVecStamped, vMask_vF7 mk _ w]
theorem vsst (s : BitVec 4) (a : BitVec 5) (mk : VMask) : Statement (.vsst s a mk) :=
  statement_word rfl rfl fun w => by simp [decodeParts, decodeCustom2, decodeVecStamped, vMask_vF7 mk _ w]
theorem vsadd (s : BitVec 4) (a : BitVec 5) (mk : VMask) : Statement (.vsadd s a mk) :=
  statement_word rfl rfl fun w => by simp [decodeParts, decodeCustom2, decodeVecStamped, vMask_vF7 mk _ w]
theorem vstpair (s : BitVec 4) (a : BitVec 5) (x : BitVec 5) (mk : VMask) : Statement (.vstpair s a x mk) :=
  statement_word rfl rfl fun w => by simp [decodeParts, decodeCustom2, decodeVecStamped, vMask_vF7 mk _ w]
theorem pairReserveGrant (u : Nat) : Statement (.pairReserveGrant u) := statement_step rfl rfl
theorem pairLineLock (u : Nat) : Statement (.pairLineLock u) := statement_step rfl rfl
theorem pairCommit (u : Nat) : Statement (.pairCommit u) := statement_step rfl rfl
theorem winset (a b : BitVec 5) : Statement (.winset a b) :=
  statement_word rfl rfl fun _ => by simp [decodeParts, decodeCustom3, decodeRankWin]
theorem gstepPublish : Statement .gstepPublish := statement_step rfl rfl
theorem rins (a : BitVec 5) : Statement (.rins a) :=
  statement_word rfl rfl fun _ => by simp [decodeParts, decodeCustom3, decodeRanges]
theorem rsplit (a b : BitVec 5) : Statement (.rsplit a b) :=
  statement_word rfl rfl fun _ => by simp [decodeParts, decodeCustom3, decodeRanges]
theorem rmerge (a b : BitVec 5) : Statement (.rmerge a b) :=
  statement_word rfl rfl fun _ => by simp [decodeParts, decodeCustom3, decodeRanges]
theorem rinval (a : BitVec 5) : Statement (.rinval a) :=
  statement_word rfl rfl fun _ => by simp [decodeParts, decodeCustom3, decodeRanges]
theorem rprobe (d a : BitVec 5) : Statement (.rprobe d a) :=
  statement_word rfl rfl fun _ => by simp [decodeParts, decodeCustom3, decodeRanges]
theorem rmove (d a b : BitVec 5) : Statement (.rmove d a b) :=
  statement_word rfl rfl fun _ => by simp [decodeParts, decodeCustom3, decodeRanges]
theorem rres (a b : BitVec 5) : Statement (.rres a b) :=
  statement_word rfl rfl fun _ => by simp [decodeParts, decodeCustom3, decodeRanges]
theorem boffl (d a b : BitVec 5) : Statement (.boffl d a b) :=
  statement_word rfl rfl fun _ => by simp [decodeParts, decodeCustom3, decodeRanges]
theorem bret (d a b : BitVec 5) : Statement (.bret d a b) :=
  statement_word rfl rfl fun _ => by simp [decodeParts, decodeCustom3, decodeRanges]
theorem rangeBroadcastArrival (u : Nat) : Statement (.rangeBroadcastArrival u) := statement_step rfl rfl
theorem orderDrainEnd (m i : Nat) : Statement (.orderDrainEnd m i) := statement_step rfl rfl
theorem orderCopyLine (m i : Nat) : Statement (.orderCopyLine m i) := statement_step rfl rfl
theorem orderSwitch (m i : Nat) : Statement (.orderSwitch m i) := statement_step rfl rfl
theorem orderCompletion (m i : Nat) : Statement (.orderCompletion m i) := statement_step rfl rfl
theorem vlgr (d a : BitVec 5) (w : EWidth) : Statement (.vlgr d a w) :=
  statement_word rfl rfl fun _ => by simp [decodeParts, decodeCustom1]
theorem vectorUnitEnter (q : Nat) : Statement (.vectorUnitEnter q) := statement_step rfl rfl
theorem vectorComplete (q i : Nat) : Statement (.vectorComplete q i) := statement_step rfl rfl
theorem vadd (d : BitVec 4) (a : BitVec 4) (b : BitVec 4) (mk : VMask) : Statement (.vadd d a b mk) :=
  statement_word rfl rfl fun w => by simp [decodeParts, decodeCustom1, decodeVec0, vMask_vF7 mk _ w]
theorem vaddX (d : BitVec 4) (a : BitVec 5) (b : BitVec 4) (mk : VMask) : Statement (.vaddX d a b mk) :=
  statement_word rfl rfl fun w => by simp [decodeParts, decodeCustom1, decodeVec2, vMask_vF7 mk _ w]
theorem vsub (d : BitVec 4) (a : BitVec 4) (b : BitVec 4) (mk : VMask) : Statement (.vsub d a b mk) :=
  statement_word rfl rfl fun w => by simp [decodeParts, decodeCustom1, decodeVec0, vMask_vF7 mk _ w]
theorem vsubX (d : BitVec 4) (a : BitVec 5) (b : BitVec 4) (mk : VMask) : Statement (.vsubX d a b mk) :=
  statement_word rfl rfl fun w => by simp [decodeParts, decodeCustom1, decodeVec2, vMask_vF7 mk _ w]
theorem vmul (d : BitVec 4) (a : BitVec 4) (b : BitVec 4) (mk : VMask) : Statement (.vmul d a b mk) :=
  statement_word rfl rfl fun w => by simp [decodeParts, decodeCustom1, decodeVec0, vMask_vF7 mk _ w]
theorem vmulX (d : BitVec 4) (a : BitVec 5) (b : BitVec 4) (mk : VMask) : Statement (.vmulX d a b mk) :=
  statement_word rfl rfl fun w => by simp [decodeParts, decodeCustom1, decodeVec2, vMask_vF7 mk _ w]
theorem vfma (d : BitVec 4) (a : BitVec 4) (b : BitVec 4) (mk : VMask) : Statement (.vfma d a b mk) :=
  statement_word rfl rfl fun w => by simp [decodeParts, decodeCustom1, decodeVec0, vMask_vF7 mk _ w]
theorem vfmaX (d : BitVec 4) (a : BitVec 5) (b : BitVec 4) (mk : VMask) : Statement (.vfmaX d a b mk) :=
  statement_word rfl rfl fun w => by simp [decodeParts, decodeCustom1, decodeVec2, vMask_vF7 mk _ w]
theorem vfnma (d : BitVec 4) (a : BitVec 4) (b : BitVec 4) (mk : VMask) : Statement (.vfnma d a b mk) :=
  statement_word rfl rfl fun w => by simp [decodeParts, decodeCustom1, decodeVec0, vMask_vF7 mk _ w]
theorem vfnmaX (d : BitVec 4) (a : BitVec 5) (b : BitVec 4) (mk : VMask) : Statement (.vfnmaX d a b mk) :=
  statement_word rfl rfl fun w => by simp [decodeParts, decodeCustom1, decodeVec2, vMask_vF7 mk _ w]
theorem vdiv (d : BitVec 4) (a : BitVec 4) (b : BitVec 4) (mk : VMask) : Statement (.vdiv d a b mk) :=
  statement_word rfl rfl fun w => by simp [decodeParts, decodeCustom1, decodeVec0, vMask_vF7 mk _ w]
theorem vdivX (d : BitVec 4) (a : BitVec 5) (b : BitVec 4) (mk : VMask) : Statement (.vdivX d a b mk) :=
  statement_word rfl rfl fun w => by simp [decodeParts, decodeCustom1, decodeVec2, vMask_vF7 mk _ w]
theorem vsqrt (d : BitVec 4) (b : BitVec 4) (mk : VMask) : Statement (.vsqrt d b mk) :=
  statement_word rfl rfl fun w => by simp [decodeParts, decodeCustom1, decodeVec0, vMask_vF7 mk _ w]
theorem vrsq (d : BitVec 4) (b : BitVec 4) (mk : VMask) : Statement (.vrsq d b mk) :=
  statement_word rfl rfl fun w => by simp [decodeParts, decodeCustom1, decodeVec0, vMask_vF7 mk _ w]
theorem vexp2 (d : BitVec 4) (b : BitVec 4) (mk : VMask) : Statement (.vexp2 d b mk) :=
  statement_word rfl rfl fun w => by simp [decodeParts, decodeCustom1, decodeVec0, vMask_vF7 mk _ w]
theorem vlog2 (d : BitVec 4) (b : BitVec 4) (mk : VMask) : Statement (.vlog2 d b mk) :=
  statement_word rfl rfl fun w => by simp [decodeParts, decodeCustom1, decodeVec0, vMask_vF7 mk _ w]
theorem vmax (d : BitVec 4) (a : BitVec 4) (b : BitVec 4) (mk : VMask) : Statement (.vmax d a b mk) :=
  statement_word rfl rfl fun w => by simp [decodeParts, decodeCustom1, decodeVec0, vMask_vF7 mk _ w]
theorem vmaxX (d : BitVec 4) (a : BitVec 5) (b : BitVec 4) (mk : VMask) : Statement (.vmaxX d a b mk) :=
  statement_word rfl rfl fun w => by simp [decodeParts, decodeCustom1, decodeVec2, vMask_vF7 mk _ w]
theorem vmin (d : BitVec 4) (a : BitVec 4) (b : BitVec 4) (mk : VMask) : Statement (.vmin d a b mk) :=
  statement_word rfl rfl fun w => by simp [decodeParts, decodeCustom1, decodeVec0, vMask_vF7 mk _ w]
theorem vminX (d : BitVec 4) (a : BitVec 5) (b : BitVec 4) (mk : VMask) : Statement (.vminX d a b mk) :=
  statement_word rfl rfl fun w => by simp [decodeParts, decodeCustom1, decodeVec2, vMask_vF7 mk _ w]
theorem vabs (d : BitVec 4) (b : BitVec 4) (mk : VMask) : Statement (.vabs d b mk) :=
  statement_word rfl rfl fun w => by simp [decodeParts, decodeCustom1, decodeVec0, vMask_vF7 mk _ w]
theorem vneg (d : BitVec 4) (b : BitVec 4) (mk : VMask) : Statement (.vneg d b mk) :=
  statement_word rfl rfl fun w => by simp [decodeParts, decodeCustom1, decodeVec0, vMask_vF7 mk _ w]
theorem vcmp (k : BitVec 2) (a : BitVec 4) (b : BitVec 4) (p : Pred) (mk : VMask) : Statement (.vcmp k a b p mk) :=
  statement_word rfl rfl fun w => by simp [decodeParts, decodeCustom1, decodeVec1, vMask_vF7 mk _ w]
theorem vcmpX (k : BitVec 2) (a : BitVec 5) (b : BitVec 4) (p : Pred) (mk : VMask) : Statement (.vcmpX k a b p mk) :=
  statement_word rfl rfl fun w => by simp [decodeParts, decodeCustom1, decodeVec3, vMask_vF7 mk _ w]
theorem vsel (d : BitVec 4) (a : BitVec 4) (b : BitVec 4) (k : BitVec 2) : Statement (.vsel d a b k) :=
  statement_word rfl rfl fun _ => by simp [decodeParts, decodeCustom1, decodeVec1]
theorem vselX (d : BitVec 4) (a : BitVec 5) (b : BitVec 4) (k : BitVec 2) : Statement (.vselX d a b k) :=
  statement_word rfl rfl fun _ => by simp [decodeParts, decodeCustom1, decodeVec3]
theorem vand (d : BitVec 4) (a : BitVec 4) (b : BitVec 4) (mk : VMask) : Statement (.vand d a b mk) :=
  statement_word rfl rfl fun w => by simp [decodeParts, decodeCustom1, decodeVec1, vMask_vF7 mk _ w]
theorem vandX (d : BitVec 4) (a : BitVec 5) (b : BitVec 4) (mk : VMask) : Statement (.vandX d a b mk) :=
  statement_word rfl rfl fun w => by simp [decodeParts, decodeCustom1, decodeVec3, vMask_vF7 mk _ w]
theorem vor (d : BitVec 4) (a : BitVec 4) (b : BitVec 4) (mk : VMask) : Statement (.vor d a b mk) :=
  statement_word rfl rfl fun w => by simp [decodeParts, decodeCustom1, decodeVec1, vMask_vF7 mk _ w]
theorem vorX (d : BitVec 4) (a : BitVec 5) (b : BitVec 4) (mk : VMask) : Statement (.vorX d a b mk) :=
  statement_word rfl rfl fun w => by simp [decodeParts, decodeCustom1, decodeVec3, vMask_vF7 mk _ w]
theorem vxor (d : BitVec 4) (a : BitVec 4) (b : BitVec 4) (mk : VMask) : Statement (.vxor d a b mk) :=
  statement_word rfl rfl fun w => by simp [decodeParts, decodeCustom1, decodeVec1, vMask_vF7 mk _ w]
theorem vxorX (d : BitVec 4) (a : BitVec 5) (b : BitVec 4) (mk : VMask) : Statement (.vxorX d a b mk) :=
  statement_word rfl rfl fun w => by simp [decodeParts, decodeCustom1, decodeVec3, vMask_vF7 mk _ w]
theorem vshl (d : BitVec 4) (a : BitVec 4) (b : BitVec 4) (mk : VMask) : Statement (.vshl d a b mk) :=
  statement_word rfl rfl fun w => by simp [decodeParts, decodeCustom1, decodeVec1, vMask_vF7 mk _ w]
theorem vshlX (d : BitVec 4) (a : BitVec 5) (b : BitVec 4) (mk : VMask) : Statement (.vshlX d a b mk) :=
  statement_word rfl rfl fun w => by simp [decodeParts, decodeCustom1, decodeVec3, vMask_vF7 mk _ w]
theorem vshr (d : BitVec 4) (a : BitVec 4) (b : BitVec 4) (mk : VMask) : Statement (.vshr d a b mk) :=
  statement_word rfl rfl fun w => by simp [decodeParts, decodeCustom1, decodeVec1, vMask_vF7 mk _ w]
theorem vshrX (d : BitVec 4) (a : BitVec 5) (b : BitVec 4) (mk : VMask) : Statement (.vshrX d a b mk) :=
  statement_word rfl rfl fun w => by simp [decodeParts, decodeCustom1, decodeVec3, vMask_vF7 mk _ w]
theorem vsra (d : BitVec 4) (a : BitVec 4) (b : BitVec 4) (mk : VMask) : Statement (.vsra d a b mk) :=
  statement_word rfl rfl fun w => by simp [decodeParts, decodeCustom1, decodeVec1, vMask_vF7 mk _ w]
theorem vsraX (d : BitVec 4) (a : BitVec 5) (b : BitVec 4) (mk : VMask) : Statement (.vsraX d a b mk) :=
  statement_word rfl rfl fun w => by simp [decodeParts, decodeCustom1, decodeVec3, vMask_vF7 mk _ w]
theorem vcvt (d : BitVec 4) (b : BitVec 4) (mk : VMask) : Statement (.vcvt d b mk) :=
  statement_word rfl rfl fun w => by simp [decodeParts, decodeCustom1, decodeVec1, vMask_vF7 mk _ w]
theorem vqnt (d : BitVec 4) (a : BitVec 4) (b : BitVec 4) (mk : VMask) : Statement (.vqnt d a b mk) :=
  statement_word rfl rfl fun w => by simp [decodeParts, decodeCustom1, decodeVec1, vMask_vF7 mk _ w]
theorem vrsum (d : BitVec 4) (a : BitVec 4) (b : BitVec 4) (mk : VMask) : Statement (.vrsum d a b mk) :=
  statement_word rfl rfl fun w => by simp [decodeParts, decodeCustom1, decodeVec1, vMask_vF7 mk _ w]
theorem vrmax (d : BitVec 4) (a : BitVec 4) (b : BitVec 4) (mk : VMask) : Statement (.vrmax d a b mk) :=
  statement_word rfl rfl fun w => by simp [decodeParts, decodeCustom1, decodeVec1, vMask_vF7 mk _ w]
theorem vrmin (d : BitVec 4) (a : BitVec 4) (b : BitVec 4) (mk : VMask) : Statement (.vrmin d a b mk) :=
  statement_word rfl rfl fun w => by simp [decodeParts, decodeCustom1, decodeVec1, vMask_vF7 mk _ w]
theorem vslide (d : BitVec 4) (a : BitVec 4) (b : BitVec 4) (mk : VMask) : Statement (.vslide d a b mk) :=
  statement_word rfl rfl fun w => by simp [decodeParts, decodeCustom1, decodeVec1, vMask_vF7 mk _ w]
theorem vslideX (d : BitVec 4) (a : BitVec 5) (b : BitVec 4) (mk : VMask) : Statement (.vslideX d a b mk) :=
  statement_word rfl rfl fun w => by simp [decodeParts, decodeCustom1, decodeVec3, vMask_vF7 mk _ w]
theorem vperm (d : BitVec 4) (a : BitVec 4) (b : BitVec 4) (mk : VMask) : Statement (.vperm d a b mk) :=
  statement_word rfl rfl fun w => by simp [decodeParts, decodeCustom1, decodeVec1, vMask_vF7 mk _ w]
theorem vbcst (d : BitVec 4) (a : BitVec 5) (mk : VMask) : Statement (.vbcst d a mk) :=
  statement_word rfl rfl fun w => by simp [decodeParts, decodeCustom1, decodeVec4, vMask_vF7 mk _ w]
theorem vmvxv (d : BitVec 4) (a : BitVec 5) : Statement (.vmvxv d a) :=
  statement_word rfl rfl fun _ => by simp [decodeParts, decodeCustom1, decodeVec4, op4Of]
theorem vmvvx (d : BitVec 5) (b : BitVec 4) : Statement (.vmvvx d b) :=
  statement_word rfl rfl fun _ => by simp [decodeParts, decodeCustom1, decodeVec4, op4Of]
theorem vld (d : BitVec 4) (a : BitVec 5) (mk : VMask) : Statement (.vld d a mk) :=
  statement_word rfl rfl fun w => by simp [decodeParts, decodeCustom2, decodeVecMem, vMask_vF7 mk _ w]
theorem vst (s : BitVec 4) (a : BitVec 5) (mk : VMask) : Statement (.vst s a mk) :=
  statement_word rfl rfl fun w => by simp [decodeParts, decodeCustom2, decodeVecMem, vMask_vF7 mk _ w]
theorem vlds (d : BitVec 4) (a : BitVec 5) (x : BitVec 5) (mk : VMask) : Statement (.vlds d a x mk) :=
  statement_word rfl rfl fun w => by simp [decodeParts, decodeCustom2, decodeVecMem, vMask_vF7 mk _ w]
theorem vsts (s : BitVec 4) (a : BitVec 5) (x : BitVec 5) (mk : VMask) : Statement (.vsts s a x mk) :=
  statement_word rfl rfl fun w => by simp [decodeParts, decodeCustom2, decodeVecMem, vMask_vF7 mk _ w]
theorem vldx (d : BitVec 4) (a : BitVec 5) (i : BitVec 4) (mk : VMask) : Statement (.vldx d a i mk) :=
  statement_word rfl rfl fun w => by simp [decodeParts, decodeCustom2, decodeVecMem, vMask_vF7 mk _ w]
theorem vstx (s : BitVec 4) (a : BitVec 5) (i : BitVec 4) (mk : VMask) : Statement (.vstx s a i mk) :=
  statement_word rfl rfl fun w => by simp [decodeParts, decodeCustom2, decodeVecMem, vMask_vF7 mk _ w]
theorem vlut (d : BitVec 4) (a : BitVec 5) (i : BitVec 4) (mk : VMask) : Statement (.vlut d a i mk) :=
  statement_word rfl rfl fun w => by simp [decodeParts, decodeCustom2, decodeVecMem, vMask_vF7 mk _ w]
theorem mand (d : BitVec 2) (a : BitVec 2) (b : BitVec 2) : Statement (.mand d a b) :=
  statement_word rfl rfl fun _ => by simp [decodeParts, decodeCustom2, decodeMasks]
theorem mor (d : BitVec 2) (a : BitVec 2) (b : BitVec 2) : Statement (.mor d a b) :=
  statement_word rfl rfl fun _ => by simp [decodeParts, decodeCustom2, decodeMasks]
theorem mnot (d : BitVec 2) (a : BitVec 2) : Statement (.mnot d a) :=
  statement_word rfl rfl fun _ => by simp [decodeParts, decodeCustom2, decodeMasks]
theorem mpop (d : BitVec 5) (a : BitVec 2) : Statement (.mpop d a) :=
  statement_word rfl rfl fun _ => by simp [decodeParts, decodeCustom2, decodeMasks]
theorem tld (t : Tcw) : Statement (.tld t) :=
  statement_tcw rfl rfl fun w => form_tld w
theorem tst (t : Tcw) : Statement (.tst t) :=
  statement_tcw rfl rfl fun w => form_tst w
theorem tldh (t : Tcw) : Statement (.tldh t) :=
  statement_tcw rfl rfl fun w => form_tldh w
theorem tldm (t : Tcw) : Statement (.tldm t) :=
  statement_tcw rfl rfl fun w => form_tldm w
theorem tgath (t : Tcw) : Statement (.tgath t) :=
  statement_tcw rfl rfl fun w => form_tgath w
theorem tsave (t : Tcw) : Statement (.tsave t) :=
  statement_tcw rfl rfl fun w => form_tsave w
theorem trest (t : Tcw) : Statement (.trest t) :=
  statement_tcw rfl rfl fun w => form_trest w
theorem tmov (t : Tcw) : Statement (.tmov t) :=
  statement_tcw rfl rfl fun w => form_tmov w
theorem tzero (t : Tcw) : Statement (.tzero t) :=
  statement_tcw rfl rfl fun w => form_tzero w
theorem tfill (t : Tcw) : Statement (.tfill t) :=
  statement_tcw rfl rfl fun w => form_tfill w
theorem tadd (t : Tcw) : Statement (.tadd t) :=
  statement_tcw rfl rfl fun w => form_tadd w
theorem tsub (t : Tcw) : Statement (.tsub t) :=
  statement_tcw rfl rfl fun w => form_tsub w
theorem tmul (t : Tcw) : Statement (.tmul t) :=
  statement_tcw rfl rfl fun w => form_tmul w
theorem tmax (t : Tcw) : Statement (.tmax t) :=
  statement_tcw rfl rfl fun w => form_tmax w
theorem tmin (t : Tcw) : Statement (.tmin t) :=
  statement_tcw rfl rfl fun w => form_tmin w
theorem tscl (t : Tcw) : Statement (.tscl t) :=
  statement_tcw rfl rfl fun w => form_tscl w
theorem ttrn (t : Tcw) : Statement (.ttrn t) :=
  statement_tcw rfl rfl fun w => form_ttrn w
theorem tred (t : Tcw) : Statement (.tred t) :=
  statement_tcw rfl rfl fun w => form_tred w
theorem tredQueue (t : Tcw) : Statement (.tredQueue t) :=
  statement_tcw rfl rfl fun w => form_tredQueue w
theorem tcvt (t : Tcw) : Statement (.tcvt t) :=
  statement_tcw rfl rfl fun w => form_tcvt w
theorem tqnt (t : Tcw) : Statement (.tqnt t) :=
  statement_tcw rfl rfl fun w => form_tqnt w
theorem tdeq (t : Tcw) : Statement (.tdeq t) :=
  statement_tcw rfl rfl fun w => form_tdeq w
theorem tfence (t : Tcw) : Statement (.tfence t) :=
  statement_tcw rfl rfl fun w => form_tfence w
theorem tmma (t : Tcw) : Statement (.tmma t) :=
  statement_tcw rfl rfl fun w => form_tmma w
theorem tmmas (t : Tcw) : Statement (.tmmas t) :=
  statement_tcw rfl rfl fun w => form_tmmas w
theorem tmmaw (t : Tcw) : Statement (.tmmaw t) :=
  statement_tcw rfl rfl fun w => form_tmmaw w
theorem tmmad (t : Tcw) : Statement (.tmmad t) :=
  statement_tcw rfl rfl fun w => form_tmmad w
theorem eset (t : Tcw) : Statement (.eset t) :=
  statement_tcw rfl rfl fun w => form_eset w
theorem esetImm (t : Tcw) : Statement (.esetImm t) :=
  statement_tcw rfl rfl fun w => form_esetImm w
theorem skset (t : Tcw) : Statement (.skset t) :=
  statement_tcw rfl rfl fun w => form_skset w
theorem skget (t : Tcw) : Statement (.skget t) :=
  statement_tcw rfl rfl fun w => form_skget w
theorem tileRename (u : Nat) : Statement (.tileRename u) := statement_step rfl rfl
theorem tileIssue (u r : Nat) : Statement (.tileIssue u r) := statement_step rfl rfl
theorem tileComplete (u r : Nat) : Statement (.tileComplete u r) := statement_step rfl rfl
theorem tileRetire (u : Nat) : Statement (.tileRetire u) := statement_step rfl rfl
theorem tileStoreWritten (u : Nat) : Statement (.tileStoreWritten u) := statement_step rfl rfl
theorem tileFault (u : Nat) : Statement (.tileFault u) := statement_step rfl rfl
theorem matrixStart (u r a : Nat) : Statement (.matrixStart u r a) := statement_step rfl rfl
theorem leaseGrant (q a : Nat) : Statement (.leaseGrant q a) := statement_step rfl rfl
theorem leaseEnd (q a : Nat) : Statement (.leaseEnd q a) := statement_step rfl rfl
theorem slewStep (c : Nat) : Statement (.slewStep c) := statement_step rfl rfl
theorem dutyFrame (u : Nat) : Statement (.dutyFrame u) := statement_step rfl rfl
theorem convoyRequest (u r : Nat) : Statement (.convoyRequest u r) := statement_step rfl rfl
theorem convoyWindowClose (i : Nat) : Statement (.convoyWindowClose i) := statement_step rfl rfl
theorem convoyLineSend (i : Nat) : Statement (.convoyLineSend i) := statement_step rfl rfl
theorem convoyUnicast (i : Nat) : Statement (.convoyUnicast i) := statement_step rfl rfl
theorem convoyLineArrival (i u : Nat) : Statement (.convoyLineArrival i u) := statement_step rfl rfl
theorem convoyEnd (i : Nat) : Statement (.convoyEnd i) := statement_step rfl rfl
theorem rdcInvalidateApply (d : Nat) : Statement (.rdcInvalidateApply d) := statement_step rfl rfl
theorem writeThroughReply (u k : Nat) : Statement (.writeThroughReply u k) := statement_step rfl rfl
theorem dumpRecordWritten (u : Nat) : Statement (.dumpRecordWritten u) := statement_step rfl rfl
theorem doubleFault (c : Nat) : Statement (.doubleFault c) := statement_step rfl rfl
theorem pointChangeDone (q : Nat) : Statement (.pointChangeDone q) := statement_step rfl rfl
theorem parkComplete : Statement .parkComplete := statement_step rfl rfl
theorem unparkComplete : Statement .unparkComplete := statement_step rfl rfl
theorem registerWrite (pa : Nat) (n : Nat) (v : Word) : Statement (.registerWrite pa n v) := statement_step rfl rfl
theorem rangeWalk (u : Nat) (va : Word) : Statement (.rangeWalk u va) := statement_step rfl rfl
theorem redirect (u : Nat) (va : Word) : Statement (.redirect u va) := statement_step rfl rfl
theorem orderCancel (u : Nat) (va : Word) : Statement (.orderCancel u va) := statement_step rfl rfl
theorem homeRead (u line : Nat) : Statement (.homeRead u line) := statement_step rfl rfl
theorem homeOwnership (u line : Nat) : Statement (.homeOwnership u line) := statement_step rfl rfl
theorem homeRdcRead (d line : Nat) : Statement (.homeRdcRead d line) := statement_step rfl rfl
theorem homeWrite (u line : Nat) : Statement (.homeWrite u line) := statement_step rfl rfl
theorem l1Fill (u pa : Nat) : Statement (.l1Fill u pa) := statement_step rfl rfl
theorem rdcFill (u pa : Nat) : Statement (.rdcFill u pa) := statement_step rfl rfl
theorem icacheFill (u : Nat) (va : Word) : Statement (.icacheFill u va) := statement_step rfl rfl
theorem l2Fill (line : Nat) (bad : Bool) : Statement (.l2Fill line bad) := statement_step rfl rfl
theorem loadReplyNoAllocate (u pa : Nat) : Statement (.loadReplyNoAllocate u pa) := statement_step rfl rfl
theorem hbmClockChange (d : Nat) : Statement (.hbmClockChange d) := statement_step rfl rfl
theorem portSetMode (p : Nat) (mode : BitVec 2) : Statement (.portSetMode p mode) := statement_step rfl rfl
theorem portTrain (p : Nat) : Statement (.portTrain p) := statement_step rfl rfl
theorem portTrainingEnd (p : Nat) (ok : Bool) (speed : BitVec 4) (width : BitVec 5) : Statement (.portTrainingEnd p ok speed width) := statement_step rfl rfl
theorem portLinkDown (p : Nat) : Statement (.portLinkDown p) := statement_step rfl rfl
theorem portRequestTimeout (u k : Nat) : Statement (.portRequestTimeout u k) := statement_step rfl rfl
theorem inboundRead (p : Nat) (va : Word) (n rid : Nat) : Statement (.inboundRead p va n rid) := statement_step rfl rfl
theorem inboundWrite (p : Nat) (va : Word) (n rid : Nat) (v : BitVec 32768) (ro : Bool) : Statement (.inboundWrite p va n rid v ro) := statement_step rfl rfl
theorem msiDelivery (p : Nat) (va : Word) (id : Nat) : Statement (.msiDelivery p va id) := statement_step rfl rfl
theorem portEventInterrupt (p kind : Nat) : Statement (.portEventInterrupt p kind) := statement_step rfl rfl
theorem portRequestCompletion (u k : Nat) (ok : Bool) (v : Word) : Statement (.portRequestCompletion u k ok v) := statement_step rfl rfl
theorem chunkConditionTimeout (u r : Nat) : Statement (.chunkConditionTimeout u r) := statement_step rfl rfl
theorem tmmadBoxTimeout (u r : Nat) : Statement (.tmmadBoxTimeout u r) := statement_step rfl rfl
theorem jobremoveGo (v : Word) : Statement (.jobremoveGo v) := statement_step rfl rfl
theorem dumpWriteTimeout (u : Nat) : Statement (.dumpWriteTimeout u) := statement_step rfl rfl
theorem hrunWatchdog (u : Nat) : Statement (.hrunWatchdog u) := statement_step rfl rfl
theorem mboxWatchdog (c i : Nat) : Statement (.mboxWatchdog c i) := statement_step rfl rfl
theorem heartbeatWatchdog (c : Nat) : Statement (.heartbeatWatchdog c) := statement_step rfl rfl
theorem cmcbeatWrite (c : Nat) (v : Word) : Statement (.cmcbeatWrite c v) := statement_step rfl rfl
theorem correctedError : Statement .correctedError := statement_step rfl rfl
theorem uncorrectableError (e : ErrSite) : Statement (.uncorrectableError e) := statement_step rfl rfl
theorem budgetPeriod (q : Nat) (thermal current : BitVec 3) (d0 d1 d2 d3 : BitVec 5) : Statement (.budgetPeriod q thermal current d0 d1 d2 d3) := statement_step rfl rfl
theorem sagSlowing (q : Nat) : Statement (.sagSlowing q) := statement_step rfl rfl
theorem sagRecover (q : Nat) : Statement (.sagRecover q) := statement_step rfl rfl
theorem currentComparator : Statement .currentComparator := statement_step rfl rfl
theorem thermalTrip (q : Nat) : Statement (.thermalTrip q) := statement_step rfl rfl
theorem thermalTripEnd (q : Nat) : Statement (.thermalTripEnd q) := statement_step rfl rfl
theorem firmwareHold (q : Nat) : Statement (.firmwareHold q) := statement_step rfl rfl
theorem parkDieW : Statement .parkDieW := statement_step rfl rfl
theorem parkDieE : Statement .parkDieE := statement_step rfl rfl
theorem unpark : Statement .unpark := statement_step rfl rfl
theorem powerOn : Statement .powerOn := statement_step rfl rfl
theorem resetctlReset : Statement .resetctlReset := statement_step rfl rfl
theorem attestationRequest : Statement .attestationRequest := statement_step rfl rfl
theorem attestationDone : Statement .attestationDone := statement_step rfl rfl
theorem agePredictionUpdate (q hours : Nat) : Statement (.agePredictionUpdate q hours) := statement_step rfl rfl
theorem gatherAbandon (u n : Nat) : Statement (.gatherAbandon u n) := statement_step rfl rfl
theorem slewctlWrite (c : Nat) (v : Word) : Statement (.slewctlWrite c v) := statement_step rfl rfl
theorem gstepWrite (d : Nat) (v : Word) : Statement (.gstepWrite d v) := statement_step rfl rfl
theorem bazaarAgeing (place i : Nat) : Statement (.bazaarAgeing place i) := statement_step rfl rfl
theorem bazaarSteal (u k : Nat) : Statement (.bazaarSteal u k) := statement_step rfl rfl
theorem dumpSealByStation (j : Nat) : Statement (.dumpSealByStation j) := statement_step rfl rfl
theorem wrapSweepWord (d m : Nat) (pa : Nat) : Statement (.wrapSweepWord d m pa) := statement_step rfl rfl

end Sys2Proof.Laws.Encoding
end

