-- ==== Sys2Proof/Tests/Slice0.lean ====
section
/-! SUPPORT. Small tests: for each statement a state that meets its hypotheses (`wit_`), terms that are no instructions (`smoke_`), words of the spec's
encoding tables (`test_decode_`), and single steps whose results the spec or the RISC-V specification gives (`test_`). -/

namespace Sys2Proof.Tests
open Sys2Proof Sys2Proof.Machine

-- One theorem is checked at a time: each check runs a small machine.
set_option Elab.async false

/-- Small states: slot 1 of core 0, its lead slot, its service slot, a CMC, an update core, each with job 0's range of the first MiB. -/
def core : State := State.reset.withFetchWord 32 0x13
def lead : State := State.reset.withFetchWord 256 0x727F
def svc : State := State.reset.withFetchWord 32 0x06B5107B
def hnd : State := State.reset.withFetchWord 32 0x2C00500B
def cmc : State := State.reset.withFetchWord 32 0x0205107B
def upd : State := State.reset.withFetchWord 32 0x0600205B
/-- Registers of the executing hart set. -/
def rx (s : State) (l : List (Nat × Nat)) : State := s.modMe fun h => l.foldl (fun h p => h.setReg p.1 (w64 p.2)) h
/-- What a result holds, if it is one. -/
def oks {α : Type} (r : Res α) (p : α → Bool) : Bool :=
  match r with
  | .ok a => p a
  | .error _ => false
def nexts (o : Host.Outcome State Fault Refusal) (p : State → Bool) : Bool :=
  match o with
  | .next t => p t
  | _ => false

theorem places : core.cur = { unit := 0, slot := 1 } ∧ lead.cur = { unit := 0, slot := 0 } ∧ svc.cur = { unit := 0, slot := 7 }
    ∧ hnd.cur = { unit := 0, slot := 6 } ∧ cmc.cur = { unit := 192, slot := 0 } ∧ upd.cur = { unit := 204, slot := 0 } := by decide +kernel

theorem wit_ComputeInstructionsComplete :
    let s := rx core [(5, 3), (6, 8)]
    s.ready ∧ s.me.free 0 ∧ s.me.plain 5 ∧ s.me.plain 6
      ∧ (s.me.pc + ((2 : BitVec 20) ++ 0#1).signExtend 64).toNat % 4 = 0
      ∧ ((s.me.reg 6 + (0xFFD#12).signExtend 64) &&& ~~~1#64).toNat % 4 = 0
      ∧ brTaken .geu (s.me.reg 5) (s.me.reg 6) = false ∧ brTaken .ltu (s.me.reg 5) (s.me.reg 6) = true := by decide +kernel

theorem wit_MisalignedTraps :
    let s := rx core [(5, 3), (6, 8)]
    s.ready ∧ s.me.plain 5 ∧ s.me.plain 6 ∧ isApp s.cur.unit = false
      ∧ (s.me.pc + ((1 : BitVec 20) ++ 0#1).signExtend 64).toNat % 4 ≠ 0
      ∧ ((s.me.reg 6 + (2#12).signExtend 64) &&& ~~~1#64).toNat % 4 ≠ 0 ∧ brTaken .ltu (s.me.reg 5) (s.me.reg 6) = true
      ∧ (s.me.pc + ((1 : BitVec 12) ++ 0#1).signExtend 64).toNat % 4 ≠ 0
      ∧ (s.me.reg 5).toNat % loadSize .lh ≠ 0 ∧ (s.me.reg 5).toNat % storeSizeOf .sd ≠ 0 ∧ (s.me.reg 5).toNat % 4 ≠ 0 := by decide +kernel

theorem wit_LoadsAndStoresComplete :
    let s := rx core [(5, 0x10100), (6, 0x1234)]
    let va := (s.me.reg 5 + (0#12).signExtend 64).toNat
    s.ready ∧ s.me.plain 5 ∧ s.me.plain 6 ∧ s.onCoreUC = true ∧ va % 8 = 0
      ∧ oks (loadAt (s.begun 4) va 8) (fun r => decide (r.1.me.free 7 ∧ r.2 = 0)) = true
      ∧ oks (storeAt (s.begun 4) va 8 0x1234) (fun r => r.get va 8 == 0x1234) = true
      ∧ oks (loadAcc (s.begun 4) va 8 .load false false) (fun r => decide (r.1.me.free 7)) = true
      ∧ oks (storeAcc (s.begun 4) va 8 0x1234 .store true false) (fun _ => true) = true := by decide +kernel

theorem wit_AtomicsComplete :
    let s := rx core [(5, 0x10100), (6, 0x1234)]
    let x := (s.me.reg 5).toNat
    s.ready ∧ s.me.plain 5 ∧ s.me.plain 6 ∧ orderOk s 6 true true ∧ x % 8 = 0
      ∧ oks (atomicAt (s.begun 4) x 8 .both true fun o => some (amoVal .add 64 (BitVec.ofNat 64 o) (s.me.reg 6)).toNat)
          (fun r => decide (r.1.me.free 7 ∧ r.2 = 0 ∧ r.1.get x 8 = 0x1234)) = true
      ∧ oks (atomicAt (s.begun 4) x 4 .both true fun o => some (amoVal .maxu 32 (BitVec.ofNat 32 o) ((s.me.reg 6).setWidth 32)).toNat)
          (fun r => decide (r.1.me.free 7)) = true
      ∧ oks (loadAcc ((s.begun 4).applyInvals 0) x 8 .load true true) (fun r => decide (r.1.me.free 7)) = true
      ∧ oks (loadAcc ((s.begun 4).applyInvals 0) x 4 .load true true) (fun r => decide (r.1.me.free 7)) = true
      ∧ oks (locate (s.begun 4) x 8 .store false) (fun r => decide (r.2.dev = false ∧ mmrevOk r.1 ∧ resvHolds r.1.me (lineOf r.2.pa) = false
          ∧ requestOk r.1 true ∧ r.1.me.free 7)) = true
      ∧ (let s := s.modMe fun h => { h with resv := some { line := 0x101, age := 0 } }
         oks (locate (s.begun 4) x 8 .store false) (fun r => decide (r.2.dev = false ∧ mmrevOk r.1 ∧ resvHolds r.1.me (lineOf r.2.pa) = true
          ∧ requestOk r.1 (r.2.win || (!r.2.bypass && storeHit r.1 r.1.cur.unit r.2.pa))
          ∧ (replied (storePlace r.1 r.2 8 5 false) 0 1).me.free 7)) = true) := by decide +kernel

/-- LR then SC stores and returns 0; SC alone returns 1 and stores nothing. -/
theorem test_lr_sc :
    let s := rx core [(5, 0x10100), (6, 0x1234)]
    nexts (exec (.lr true false false 7 5) s) (fun t =>
      nexts (exec (.sc true false false 7 5 6) t) fun u => u.me.reg 7 == 0 && u.get 0x10100 8 == 0x1234 && u.me.resv == none) = true
    ∧ nexts (exec (.sc true false false 7 5 6) s) (fun u => u.me.reg 7 == 1 && u.get 0x10100 8 == 0) = true := by decide +kernel

theorem wit_OrderingInstructionsComplete :
    let s := rx core [(5, 0x10100), (6, 0x1234)]
    let x := (s.me.reg 5).toNat
    s.ready ∧ s.me.plain 5 ∧ s.me.plain 6 ∧ s.me.plain 7 ∧ x % 8 = 0 ∧ orderOk s 6 true false ∧ orderOk s 0 false true
      ∧ orderOk s 6 true true ∧ s.mine.wt = [] ∧ s.mine.icache.all (fun l => !l.locked) = true ∧ s.mine.ops = []
      ∧ oks (loadAt (s.begun 4) x 8) (fun r => decide (r.1.me.free 7)) = true
      ∧ oks (storeAt (s.begun 4) x 8 5) (fun _ => true) = true
      ∧ oks (rangeOfAddress (s.begun 4) x) (fun r => decide (performedIn r.1 r.2 = true ∧ orderOk r.1 6 true false)) = true
      ∧ oks (atomicAt (s.begun 4) x 8 .both false fun o => (scVal .cas (w64 o) (s.me.reg 6) (s.me.reg 7)).map BitVec.toNat)
          (fun r => decide (r.1.me.free 7)) = true := by decide +kernel

theorem wit_ReleasesWait :
    let s := (rx core [(5, 0x10100)]).modMine fun x => { x with wt := [{ slot := 1, va := 0x10100, pa := 0x10100, n := 8, step := 0, tag := 0 }] }
    s.ready ∧ s.me.plain 5 ∧ s.me.plain 6 ∧ performed s s.cur.unit s.cur.slot = false ∧ (s.me.reg 5).toNat % 8 = 0 := by decide +kernel

theorem wit_ManagementTrapEntry :
    (isCore hnd.cur.unit = true ∧ hnd.cur.slot < 8 ∧ cIllegal < 2 ^ 8) ∧ (isUcore upd.cur.unit = true ∧ upd.cur.slot < 8 ∧ 255 < 2 ^ 8) := by
  decide +kernel

/-- Application core 0 in a virtual machine's supervisor level. -/
def guest : State :=
  { core.modHart 228 0 (fun h => { h with active := true, priv := 1, pv := { h.pv with virt := true } }) with cur := { unit := 228, slot := 0 } }

theorem wit_VectorTrapEntry :
    (isCmc cmc.cur.unit = true ∧ rvCode cmc.me cEcall 0x73 = some 11 ∧ rvCode cmc.me cRangeConflict 0x13 = none ∧ cmc.me.priv = 3)
      ∧ isApp guest.cur.unit = true := by decide +kernel

theorem wit_SystemCallsTrap :
    ownWord 0 0 = none ∧ ownWord 192 0 = none ∧ ownWord 228 0 = none
    ∧ (core.ready ∧ isCore core.cur.unit = true ∧ core.cur.slot ≠ 7) ∧ (svc.ready ∧ isCore svc.cur.unit = true ∧ svc.cur.slot = 7) := by decide +kernel

/-- The parked slot 6 is restarted by the service slot of its core. -/
def trapped6 : State :=
  (svc.modHart 0 6 fun h => { h with active := true, park := 10 }).modMe fun h => { h with hxtrap := 0x607, hxepc := 0x10040 }

theorem wit_ReturnsAndWaitsComplete :
    (trapped6.ready ∧ trapped6.cur = { unit := 0, slot := 7 } ∧ trapped6.me.hxtrap.toNat / 2 ^ 8 % 8 = 6 ∧ (trapped6.hart 0 6).park = 10
      ∧ pendingEvent trapped6 0 = false ∧ (trapped6.unit 0).stopped = false ∧ ∀ j, j < 7 → (trapped6.hart 0 j).restored = false)
    ∧ (cmc.ready ∧ isCmc cmc.cur.unit = true ∧ cmc.me.priv = 3)
    ∧ (let s := core.modMe fun h => { h with park := 4, woken := true }
       s.ready ∧ s.me.park = 4 ∧ s.me.woken = true)
    ∧ (core.me.woken = false ∧ pendingIntrs (core.begun 4) 0 1 = [] ∧ core.cur.slot ≠ 6)
    ∧ (cmc.me.pv.virt = false ∧ pendingIntrs (cmc.begun 4) 192 0 = []) := by decide +kernel

theorem test_mret : nexts (exec .mret trapped6) (fun t =>
    (t.hart 0 6).pc == 0x10040 && (t.hart 0 6).park == 0 && !(t.hart 0 7).active) = true := by decide +kernel

theorem wit_CsrInstructionsComplete :
    let s := rx core [(5, 0x1FF)]
    (guest.ready ∧ guest.me.plain 5 ∧ csrVirtual (guest.begun 4) 0x600 = true)
      ∧ s.ready ∧ s.me.plain 5 ∧ csrVirtual (s.begun 4) 0x800 = false ∧ rdcClean s 0 = true
      ∧ (csrRead (s.begun 4) 0x800).any (fun r => decide (r.1.me.free 7)) = true
      ∧ (csrWrite (s.begun 4) 0x801 (csrNew .rw 0 3)).any (fun r => decide (r.me.free 7)) = true
      ∧ csrRead (s.begun 4) 0x7C0 = none
      ∧ (csrRead (s.begun 4) 0xCC0).isSome = true ∧ csrWrite (s.begun 4) 0xCC0 5 = none := by decide +kernel

theorem wit_CsrNumbers : isCore core.cur.unit = true ∧ core.cur.slot ≠ 7 ∧ isCore svc.cur.unit = true ∧ svc.cur.slot = 7
    ∧ csrRead core 0x7C2 = none ∧ csrRead svc 0x7C3 = none ∧ csrRead core 0xCCC = none ∧ csrRead core 0xCD5 = none := by decide +kernel

theorem wit_AccessPlaces :
    let s := core
    isCore s.cur.unit = true ∧ s.cur.slot ≠ 7 ∧ (Acc.load).x = false ∧ (Acc.store).s = false
      ∧ coreWindow ≤ coreWindow + residentBase - 8 ∧ coreWindow + residentBase - 8 + 8 ≤ coreWindow + residentBase
      ∧ (let va := 0xFFFF8
         va < windowBlock ∧ (lookup? s 0 s.mine.job va).any (fun e => decide (e.state = stNormal ∧ e.r = true ∧ e.w = true ∧ e.s = false ∧ e.nowin = false
           ∧ e.rlo ≤ va ∧ va ≤ e.rhi + 255 ∧ regionOf (addOff va e.offset) < 3
           ∧ backed (touchRange s 0 e) (addOff va e.offset) = true ∧ lockedByte (touchRange s 0 e) 0 va (va + 7) true = none
           ∧ overlapReplied (touchRange s 0 e) 0 (addOff va e.offset) 8 = touchRange s 0 e
           ∧ pairLocked (touchRange s 0 e) (lineOf (addOff va e.offset)) = false)) = true)
      ∧ (lookup? s 0 s.mine.job 0x100000 = none ∧ walk? s 0x100000 s.mine.job = none)
      ∧ (let t := s.modMine fun x => { x with ranges := x.ranges.map fun e => { e with w := false } }
         (lookup? t 0 t.mine.job 0x10100).any (fun e => decide (e.state ≠ stInvalid ∧ (Acc.store).w = true ∧ e.w = false)) = true) := by decide +kernel

theorem wit_AccessEffects :
    (let s := core
     oks (locate s 0x10100 8 .load false) (fun p => decide (p.2.dev = false ∧ requestOk p.1 (p.2.win || (p.1.l1Hit 0 p.2.pa).isSome)
       ∧ (flits p.2.pa 8).find? (copyBad (p.1.readSpan 0 p.2.pa 8 true p.2.bypass).1 0 p.2.bypass) = none)) = true
     ∧ oks (locate s 0x10100 8 .store false) (fun r => decide (r.2.dev = false ∧ mmrevOk s ∧ memWf r.1.mem = true ∧ r.2.bypass = false ∧ r.2.pa % 128 + 8 ≤ 128
       ∧ requestOk r.1 (r.2.win || (!r.2.bypass && storeHit r.1 0 r.2.pa)))) = true
     ∧ (findRange s 0 s.mine.job 0x10100).2.any (fun e => decide (e.state ≠ stOutbound)) = true)
    ∧ (let s := core.addPoison (0x10100 / 64)
       oks (locate s 0x10100 8 .load false) (fun p => decide (p.2.dev = false ∧ requestOk p.1 (p.2.win || (p.1.l1Hit 0 p.2.pa).isSome)
         ∧ (flits p.2.pa 8).find? (copyBad (p.1.readSpan 0 p.2.pa 8 true p.2.bypass).1 0 p.2.bypass) = some (0x10100 / 64))) = true) := by decide +kernel

/-- Core 0's slot 1 with stream register x28 bound for reading (one element ahead), x29 for writing, x30 for reading with none ahead. -/
def streaming : State := core.modMe fun h =>
  ((h.setGen 0 { StreamGen.reset with bound := true, count := 1, ew := 3, next := 0x10100, stride := 8,
                                       ahead := [{ value := 7, fault := none, line := some 0x101, pa := 0x10100, stale := false }] }).setGen 1
    { StreamGen.reset with bound := true, dir := true, count := 9, ew := 3, next := 0x10200, stride := 8, unaccepted := 1 }).setGen 2
    { StreamGen.reset with bound := true, count := 2, ew := 0, next := 0x10300, stride := 1 }

theorem wit_StreamRegisters :
    let s := streaming
    ((s.me.gen 0).bound = true ∧ (s.me.gen 0).dir = false ∧ (s.me.gen 0).ahead = [{ value := 7, fault := none, line := some 0x101, pa := 0x10100, stale := false }])
    ∧ ((s.me.gen 1).bound = true ∧ (s.me.gen 1).dir = true ∧ (s.me.gen 1).unaccepted < 8
      ∧ oks (storeAt s (s.me.gen 1).next.toNat (2 ^ (s.me.gen 1).ew.toNat) 5) (fun _ => true) = true)
    ∧ ((s.me.gen 2).bound = true ∧ (s.me.gen 2).dir = false ∧ (s.me.gen 2).ahead = [])
    ∧ cMisaligned ≠ cRangeConflict
    ∧ (let t := s.modMe fun h => h.setGen 1 { h.gen 1 with unaccepted := 8 }
       (t.me.gen 1).dir = true ∧ 8 ≤ (t.me.gen 1).unaccepted) := by decide +kernel

/-- The last pop of a read stream ends the binding and leaves the element in the register. -/
theorem test_stream_pop : nexts (exec (.rvAluOrBranch (.aluI .addi 7 28 1)) streaming) (fun t =>
    t.me.reg 7 == 8 && t.me.reg 28 == 7 && !(t.me.gen 0).bound) = true := by decide +kernel

theorem wit_StreamInstructionsComplete :
    let s := rx core [(5, 0x10100), (6, 0x100080008)]
    let c := (s.me.reg 6).toNat
    s.ready ∧ s.me.plain 5 ∧ s.me.plain 6 ∧ s.me.free 7 ∧ s.onCore = true ∧ s.onCoreU = true
      ∧ c / 2 ^ 32 ≠ 0 ∧ c / 2 ^ 4 % 2 ^ 12 = 0 ∧ c % 2 = 0 ∧ (s.me.reg 5).toNat % 2 ^ (c / 4 % 4) = 0
      ∧ c / 2 ^ 16 % 2 ^ 16 % 2 ^ (c / 4 % 4) = 0
      ∧ (let f := (streaming.hart 0 1).gen 2
         f.bound = true ∧ f.dir = false ∧ f.ahead.length < 8 ∧ f.ahead.length < f.count.toNat
         ∧ oks (loadAt { streaming with cur := { unit := 0, slot := 1 } } f.next.toNat (2 ^ f.ew.toNat)) (fun _ => true) = true)
      ∧ 0 < ((streaming.hart 0 1).gen 1).unaccepted := by decide +kernel

/-- Core 0's slot 1 with Q0 bound to LOCAL and full, Q1 LOCAL and empty, Q2 to COMPL with an entry; Q3 is unbound. -/
def queued : State := (rx core [(5, 0x80)]).modMe fun h =>
  { ((h.setQueue 0 [1, 2, 3, 4, 5, 6, 7, 8]).setQueue 2 [9]) with qbind := 0x808080 ||| (BitVec.ofNat 64 (portCompl * 2 ^ 16)) }

theorem wit_QueueInstructionsComplete :
    let s := queued
    s.ready ∧ s.me.plain 5 ∧ s.me.plain 0 ∧ s.me.free 7 ∧ s.onCore = true ∧ s.me.reg 5 = 0x80 ∧ s.me.reg 0 = 0
      ∧ s.me.qValid 0 = true ∧ s.me.qPort 0 = portLocal ∧ 8 ≤ (s.me.queue 0).length ∧ s.me.poison.contains 52 = false
      ∧ s.me.qValid 1 = true ∧ s.me.queue 1 = [] ∧ s.me.qPort 1 = portLocal
      ∧ s.me.qValid 2 = true ∧ s.me.qPort 2 = portCompl ∧ s.me.queue 2 = [9] ∧ rdcClean s 0 = true ∧ s.me.qPort 2 ≠ portLocal
      ∧ s.me.qValid 3 = false ∧ s.cur.slot ≠ 6 ∧ hnd.cur.slot = 6
      ∧ (let t := queued.modMe fun h => { h with held := [(portCompl, 3)] }
         (t.hart 0 1).portQueue portCompl = some 2 ∧ ((t.hart 0 1).queue 2).length < 8
         ∧ findPos (fun p : Nat × Word => p.1 == portCompl) (t.hart 0 1).held = some 0) := by decide +kernel

theorem wit_BlockInstructionsComplete :
    let s := rx core [(5, 0x10200), (6, 0x10100), (7, 8), (8, 0x100f8)]
    s.ready ∧ s.onCore = true ∧ s.me.plain 5 ∧ s.me.plain 6 ∧ s.me.plain 7 ∧ s.me.plain 0
      ∧ s.me.reg 7 ≠ 0 ∧ s.me.reg 0 = 0
      ∧ ¬((s.me.reg 6).toNat < (s.me.reg 5).toNat ∧ (s.me.reg 5).toNat < (s.me.reg 6).toNat + 8)
      ∧ oks (loadSpan (s.begun 4) 0x10100 8 true) (fun r => oks (storeAcc r.1 0x10200 8 r.2 .store false true) fun _ => true) = true
      ∧ ((s.me.reg 8).toNat < (s.me.reg 6).toNat ∧ (s.me.reg 6).toNat < (s.me.reg 8).toNat + 16)
      ∧ (s.me.reg 5).toNat % 8 = 0 ∧ (s.me.reg 7).toNat % 8 = 0
      ∧ (s.me.reg 6).toNat % 256 + 8 ≤ 256
      ∧ oks (lockTranslate (s.begun 4) 0x10100 (0x10100 / 256)) (fun r => decide ((lockLine r.1 (0x10100 / 256) r.2.1 r.2.2).me.free 9
          ∧ requestOk r.1 (icFind r.1.mine (0x10100 / 256)).isSome)) = true := by
  decide +kernel

/-- Words stored from an address on, and the state that a step gives. -/
def words (s : State) (a : Nat) (ws : List Nat) : State := ws.zipIdx.foldl (fun t p => t.put (a + 8 * p.2) 8 p.1) s
def after (i : Instr) (s : State) : State :=
  match exec i s with
  | .next t => t
  | _ => s

/-- BCOPY of one row of 512 bytes, 0x10400 to 0x10800, at its issue; BGATH of two rows of 8 bytes to queue Q0, with its index list at 0x10A00; and each once issued. -/
def copying : State := words (rx core [(5, 0x10200)]) 0x10200 [0x10400, 0x10800, 0x100000200, 0, 0, coreWindow, 1, 0]
def gathering : State :=
  (words (words (rx core [(5, 0x10200)]) 0x10200 [0x10400, 0, 0x200000008, 0x10A00, 0, 0, 0, 0x0800000000000000]) 0x10A00 [0x0000000800000000]).modMe fun h =>
    { h with qbind := BitVec.ofNat 64 (0x80 + 8) }
def copied : State := after (.bcopy 7 5) copying
def gathered : State := after (.bgath 7 5) gathering

theorem wit_EngineIssueCompletes :
    (let s := copying
     s.ready ∧ s.onCoreU = true ∧ s.me.plain 5 ∧ (s.me.reg 5).toNat % 64 = 0
     ∧ oks (loadWords (s.begun 4) 0x10200 8) (fun r =>
        decide (r.1.cur = s.cur ∧ (descBad 0 .copy r.2).all (fun b => !b) = true
          ∧ (∀ p ∈ opSpans r.1 .copy r.2, ∀ q ∈ opSpans r.1 .copy r.2, p.dest = false → q.dest = true → p.meets q = false)
          ∧ wbit (dCtl r.2) 60 = false ∧ dGq r.2 = false)
        && oks (checkSpans r.1 (opSpans r.1 .copy r.2)) fun q =>
          decide (q.1.mine.ops.length < 32 ∧ q.1.mine.locks.length + (opLocks q.1.mine.serial q.2).length ≤ 16 ∧ q.1.me.free 7)) = true)
    ∧ nexts (exec (.bcopy 7 5) copying) (fun t => t.mine.ops.length == 1 && t.mine.locks.length == 2) = true
    ∧ nexts (exec (.bgath 7 5) gathering) (fun t => t.mine.ops.length == 1) = true := by decide +kernel

theorem wit_EngineSteps :
    let queued := after (.waybillArrival 0 0) copied
    let started := after (.engineStart 0 0) queued
    let landed := after (.engineChunkLanded 0 0 0) started
    let rowsOf := after (.engineStart 0 0) (after (.waybillArrival 0 0) gathered)
    (findOp copied 0 0).any (fun o => decide (o.phase = .sent ∧ engineOf copied 0 o < 18)) = true
    ∧ (findOp queued 0 0).any (fun o => decide (o.phase = .queued ∧ engineNext queued (engineOf queued 0 o) = some (0, o.serial)
        ∧ engineLoad queued (engineOf queued 0 o) < 8)) = true
    ∧ (findOp started 0 0).any (fun o => decide (o.phase = .started ∧ o.gq = false ∧ 0 < o.chunkCount ∧ 0 ∉ o.done)
        && ((moveChunk started 0 o 0).any fun r => r.2 == none)) = true
    ∧ (findOp landed 0 0).any (fun o => decide (o.done.length = o.chunkCount)) = true
    ∧ nexts (exec (.engineComplete 0 0) landed) (fun t => t.mine.ops == [] && t.mine.locks == [] && t.get (storeBase 0) 8 == 1) = true
    ∧ (findOp rowsOf 0 0).any (fun o => decide (o.phase = .started ∧ o.gq = true ∧ o.done.length < o.rows)
        && (match rowPlaces rowsOf 0 o 1 with
            | some (t, some (sa, _)) => (engineRead t 0 sa.toNat o.rowBytes o.srcOff).isSome
            | _ => false)) = true := by decide +kernel

theorem wit_HandleInstructionsComplete :
    let s := words (rx core [(5, coreWindow + 0x40), (6, 3), (8, 1)]) (storeBase 0 + 0x40) [3]
    let x := (s.me.reg 5).toNat
    s.ready ∧ s.onCoreU = true ∧ s.me.plain 5 ∧ s.me.plain 6 ∧ s.me.free 7 ∧ s.me.pipe = .idle
      ∧ (s.me.reg 8).toNat < 2 ^ 16 ∧ findOp s 0 ((s.me.reg 8).setWidth 16) = none ∧ (findOp copied 0 0).isSome = true
      ∧ coreWindow ≤ x ∧ x - coreWindow < storeSize 0 ∧ x % 8 = 0
      ∧ oks (loadWord (s.begun 4) x) (fun r => decide (r.2 &&& s.me.reg 6 = s.me.reg 6 ∧ s.me.reg 6 ≠ 0 ∧ rdcClean r.1 0 = true ∧ r.1.me.free 7
          ∧ r.2 &&& 4 ≠ 4 ∧ r.1.cur = s.cur)) = true ∧ s.cur.slot ≠ 6 := by decide +kernel

/-- Rank 3 names core 12, of the quad at column 1 of row 1; the message's payload is one word. -/
def sending : State := (rx core [(5, 0x100003), (6, 0x10100)]).modNi 0 fun n => { n with rank := [(3, w64 (2 ^ 63 + 0x1400))] }
def sent : State := after (.send 5 6) sending
def flown : State := after (.messageInject 0 false) sent

theorem wit_SendsComplete :
    let s := sending
    let h := s.me.reg 5
    s.ready ∧ s.me.plain 5 ∧ s.me.plain 6 ∧ s.onCoreUC = true ∧ s.onCore = true ∧ wfld h 19 10 = 0 ∧ wfld h 23 20 = 1 ∧ wfld h 63 32 = 0
      ∧ rankValid (fget (s.ni 0).rank (wfld h 9 0) 0) = true ∧ rankKind (fget (s.ni 0).rank (wfld h 9 0) 0) = 0
      ∧ (s.me.reg 6).toNat % 8 = 0
      ∧ oks (loadWords (s.begun 4) 0x10100 1) (fun r => decide (r.1.cur = s.cur ∧ (r.1.ni 0).rplQ.length < 4 ∧ (r.1.ni 0).reqQ.length < 8)) = true
      ∧ (sent.ni 0).reqQ.length = 1 := by decide +kernel

/-- A message in core 0's inbox, and an active message's. -/
def received (kind : Nat) : State := (rx core [(5, 0x10100), (6, 0), (7, 0x400)]).modNi 0 fun n =>
  { n with inbox := [{ hdr := w64 (2 ^ 20 + kind * 2 ^ 18), stamp := 0, payload := [5], rank := 3, reply := false, colour := false, job := 0, src := 17,
                       slot := 1, entry := 0 }] }

theorem wit_ReceivesAndRanksComplete :
    (let s := received 0
     s.ready ∧ s.me.plain 5 ∧ s.me.plain 6 ∧ s.me.free 7 ∧ s.onCoreUC = true ∧ (s.me.reg 5).toNat % 16 = 0
      ∧ findPos (takeable (s.begun 4) 0 1) (s.ni 0).inbox = some 0 ∧ rdcClean s 0 = true ∧ mmrevOk s
      ∧ nexts (exec (.recv 9 5) s) (fun t => (t.ni 0).inbox == [] && t.me.reg 9 == 0x100000 && t.get 0x10110 8 == 5) = true
      ∧ s.onCore = true ∧ (s.me.reg 6).toNat < 0x400 ∧ s.me.reg 7 = 0x400)
    ∧ (let s := { received 3 with dies := [(0, { (core.die 0) with inval := [9] })] }
       rdcClean s 0 = false ∧ nexts (exec (.recv 9 5) s) (fun t => (t.ni 0).inbox == [] && t.me.reg 9 == 0x1C0000) = true)
    ∧ findPos (takeable ((received 2).begun 4) 0 1) ((received 2).ni 0).inbox = none
    ∧ (let s := rx svc [(5, 0x10100), (6, 0), (7, 1)]
       s.ready ∧ s.onCore = true ∧ s.cur.slot = 7 ∧ s.me.reg 6 = 0 ∧ (s.me.reg 7).toNat ≤ 8 ∧ s.me.reg 7 ≠ 0
        ∧ oks (loadWords (s.begun 4) (coreWindow + 0x100) 10) (fun r => recordOk r.2) = true)
    ∧ (hnd.ready ∧ hnd.onCore = true ∧ hnd.cur.slot = 6)
    ∧ (let s := rx svc [(5, 0x1000400), (6, 0x3FF), (7, 0x10003FF)]
       s.onService = true ∧ s.me.reg 5 = 0x1000400 ∧ (s.me.reg 6).toNat < 2 ^ 10 ∧ (s.me.reg 7).toNat / 2 ^ 10 = 0x4000 ∧ rankOk 0 = true)
    ∧ (let s := rx cmc [(5, 0xF03FF)]
       let x := s.me.reg 5
       isCmc 192 = true ∧ 1 ≤ s.mode ∧ x.toNat / 2 ^ 16 < 192 ∧ x.toNat / 2 ^ 16 / 16 = 192 - 192 ∧ x.toNat % 2 ^ 16 < 2 ^ 10) := by decide +kernel

/-- A root of job 0's tree with one leaf that maps the first MiB, a job table whose job 1 has its descriptor at 0x30000, and code at 0x50000. Core 0 holds job 1. -/
def system (s : State) : State :=
  let t := { s with pkg := { s.pkg with sysroot := 0x8000000000040000, jobtab := 0x8000000000020000 } }
  (words (words (words (t.put 0x40040 64 (descBits placeRange)) 0x40000 [0x0101000000000000]) 0x20008 [0x8000000000030000]) 0x30000
    [0xC10001, 0x50000, 0x40000]).modUnit 0 fun x => { x with job := 1, ranges := [{ placeRange with job := 1 }] }

theorem wit_MessageSteps :
    ((sent.ni 0).reqQ.all (fun m => decide (performed sent 0 m.slot = true ∧ rankTransit m.entry = false ∧ removing sent m.job = false)) = true
      ∧ (sent.ni 0).reqQ ≠ [])
    ∧ (findPos (fun f : Flight => f.msg.src == 0 && f.dst == 12 && f.msg.reply == (0 == 1)) flown.mesh = some 0
      ∧ nexts (exec (.messageArrival 0 12 0) flown) (fun t => (t.ni 12).inbox.length == 1 && t.mesh == []) = true)
    ∧ (let s := sent.modNi 0 fun n => { n with rank := [(3, w64 (2 ^ 63 + 2 ^ 62 + 0x1400))],
                                               reqQ := n.reqQ.map fun m => { m with entry := w64 (2 ^ 63 + 2 ^ 62 + 0x1400) } }
       (s.ni 0).reqQ.all (fun m => decide (rankTransit m.entry = true ∧ rankTransit (fget (s.ni 0).rank m.rank 0) = true)) = true
        ∧ (s.ni 0).heldBuf.length < 16)
    ∧ (let s := (received 0).modNi 0 fun n => { n with inbox := [], inbuf := n.inbox }
       heldTaken s 0 true = none ∧ (heldTaken s 0 false).isSome = true)
    ∧ (let s := (received 0).modNi 0 fun n => { n with inbox := [], inbuf := n.inbox.map fun m => { m with reply := true } }
       (heldTaken s 0 true).isSome = true)
    ∧ (let s := system (received 2)
       isCore 0 = true ∧ (s.hart 0 6).active = false ∧ (s.unit 0).stopped = false ∧ rdcClean s 0 = true
        ∧ findPos (fun m : Msg => m.kind == 2 && !guarded s 0 m) (s.ni 0).inbox = some 0 ∧ (codeBase? s (s.unit 0).job).isSome = true
        ∧ nexts (exec (.handlerStart 0) s) (fun t => (t.hart 0 6).active && (t.hart 0 6).pc == 0x50000) = true) := by decide +kernel

theorem wit_BarrierInstructionsComplete :
    let s := (rx core [(5, 255), (6, 1), (8, 256)]).setBarrier 0 255 { Barrier.reset with mask := 1 }
    let r := s.barrier 0 255
    s.ready ∧ s.onCore = true ∧ s.me.plain 5 ∧ s.me.plain 6 ∧ s.me.free 7 ∧ (s.me.reg 5).toNat < 2 ^ 8 ∧ (s.me.reg 6).setWidth 16 &&& coreBit 0 ≠ 0
      ∧ r.arr = 0 ∧ r.narr = 0 ∧ r.mask &&& coreBit 0 ≠ 0 ∧ (if r.myph = r.phase then r.arr else r.narr) &&& coreBit 0 = 0
      ∧ s.me.park = 0 ∧ s.cur.slot ≠ 6 ∧ 2 ^ 8 ≤ (s.me.reg 8).toNat ∧ (s.barrier 0 0).mask &&& coreBit 0 = 0
      ∧ (let t := after (.barr 7 5) s
         (t.barrier 0 255).due = true ∧ (t.barrier 0 255).arr ≠ 0 ∧ nexts (exec (.barrierRelease 0 255) t) (fun q => (q.barrier 0 255).phase) = true)
      ∧ (let t := s.modMe fun h => { h with park := 3, await := 32 }
         t.me.park = 3 ∧ t.me.await.getLsbD 5 = true)
      ∧ (s.me.reg 6).toNat < 2 ∧ r.phase ≠ ((s.me.reg 6) == 1) ∧ r.phase = ((s.me.reg 0) == 1)
      ∧ (let t := (rx core [(5, 0x10100)]).modMe fun h => { h with wline := some 0x101, whit := true }
         oks (watchedLine (t.begun 4) 0x10100) (fun q => decide (q.1.me.wline = some q.2 ∧ q.1.me.whit = true ∧ rdcClean q.1 0 = true)) = true) := by
  decide +kernel

/-- Core 0's slot 1 has made an ecall; its record is in slot 0 of cluster 0's mailbox; and the CMC of cluster 0 has read it. -/
def called : State := after .ecall core
def landed : State := after (.mailboxRecordArrival 0 0) called
def onCmc (s : State) (l : List (Nat × Nat)) : State :=
  rx { s with cur := { unit := 192, slot := 0 } } l
def readIt : State := after (.mbxrd 7 5) (onCmc landed [(5, coreWindow + 0x40), (6, coreWindow + 0x80)])
/-- The reply in private memory is SKIP with REG 10 and VALUE 9. -/
def replying : State := words readIt (storeBase 192 + 0x80) [0x0A01, 0, 9, 0]
def replied_ : State := after (.mbxpost 0 6) replying
def resuming : State := after (.resume 0) replied_

theorem wit_MailboxInstructionsComplete :
    (isCore 0 = true ∧ (called.unit (cmcOf (0 / 16))).halted = false ∧ (mbox called 0 0).state = .empty ∧ (called.unit 0).records.length = 1)
    ∧ (let s := { core with pendRecords := [{ cluster := 3, src := 256, record := [0] }] }
       (s.unit (cmcOf 3)).halted = false ∧ findPos (fun p : PendRecord => p.cluster == 3 && p.src == 256) s.pendRecords = some 0
        ∧ freeShared s 3 = some 16)
    ∧ (let s := onCmc landed [(5, coreWindow + 0x40), (8, coreWindow + 0x3FFC0)]
       s.ready ∧ s.me.plain 5 ∧ s.me.free 7 ∧ s.onCmcS = true ∧ (s.me.reg 8).toNat % 64 = 0 ∧ (s.me.reg 8).toNat + 64 ≤ coreWindow + 0x40000
        ∧ oldestFull s 0 = some 0 ∧ oldestFull readIt 0 = none ∧ (mbox readIt 0 0).state = .read)
    ∧ (let s := onCmc (setMbox core 0 31 { MboxSlot.reset with state := .read }) [(5, 31), (6, 32)]
       s.onCmcS = true ∧ (s.me.reg 5).toNat < 32 ∧ ¬ (s.me.reg 6).toNat < 32 ∧ (mbox s 0 31).state = .read ∧ needReply (mbox s 0 31).record = false)
    ∧ (let s := replying
       s.onCmcS = true ∧ (mbox s 0 0).state = .read ∧ needReply (mbox s 0 0).record = true ∧ s.poisonIn (storeBase 192 + 0x80) 32 = none
        ∧ oks (needHeldZero 0 (wordsOf 4 (s.get (storeBase 192 + 0x80) 32)) [0xFFFFFFFFFFFFE0FC, 3, 0, 0xFFFFFFFFFFFFFFFF]) (fun _ => true) = true
        ∧ wfld (nthWord (wordsOf 4 (s.get (storeBase 192 + 0x80) 32)) 0) 1 0 = 1)
    ∧ (replied_.onCmcS = true ∧ replied_.me.pipe = .idle ∧ (mbox replied_ 0 0).state = .replied)
    ∧ ((setMbox core 0 0 { MboxSlot.reset with state := .withdrawn }).cur = core.cur)
    ∧ ((resuming.hart (cmcOf 0) 0).pipe = .resume 0 false ∧ (mbox resuming 0 0).src = 0 ∧ parkedOn resuming 0 (mbox resuming 0 0).record = some 1) := by
  decide +kernel

/-- The reply restarts the slot past its ecall with x10 = 9. -/
theorem test_reply : nexts (exec (.resumeReplyApply 0 0) resuming) (fun t =>
    (t.hart 0 1).pc == (core.hart 0 1).pc + 4 && (t.hart 0 1).reg 10 == 9 && (t.hart 0 1).park == 0) = true := by decide +kernel

theorem wit_RepliesApplied : wfld (nthWord [(0x0A01 : Word), 0, 9, 0] 0) 1 0 < 3 := by decide

/-- Core 0's slots are stopped, slot 1 among them; the service slot runs, with an image area at 0x20000; under job 1. -/
def stopped : State :=
  (rx svc [(5, 1), (6, 0x20000), (8, 8), (9, 7), (10, 0x17)]).modMine fun x => { x with stopped := true }
def stoppedCore : State := stopped.modHart 0 1 fun h => { h with active := true, pc := 0x10040 }

theorem wit_SwitchInstructionsComplete :
    let s := system stoppedCore
    let b := s.begun 4
    s.ready ∧ s.onService = true ∧ s.me.plain 5 ∧ s.me.plain 6
      ∧ (let t := core.modUnit 0 fun x => { x with preempt := some 5 }
         isCore 0 = true ∧ (t.hart 0 7).active = false ∧ (t.unit 0).duty ≠ 0 ∧ removing t (t.unit 0).job = false ∧ (t.unit 0).up = true
          ∧ (t.unit 0).stopped = false
          ∧ (let q := after (.preemptStop 0) t
             (q.unit 0).stopped = true ∧ (q.unit 0).preempt = some 5 ∧ pipesIdle q 0 = true ∧ streamStill q 0 = true))
      ∧ s.mine.stopped = true ∧ (s.me.reg 6).toNat % 256 = 0 ∧ (s.hart 0 1).active = true
      ∧ (s.hart 0 1).sg.all (fun p => p.2.unaccepted == 0) = true
      ∧ oks (blockPlaces b 0x20000 0x2000 .store) (fun _ => true) = true
      ∧ s.me.reg 8 = 8 ∧ tilePartSize (maxTiles b 0) = 0x2000
      ∧ s.me.reg 9 = 7 ∧ oks (blockPlaces b 0x20000 0x4000 .store) (fun _ => true) = true
      ∧ s.me.reg 10 = 0x17 ∧ mayVacate (stopped.begun 4) 0 = true := by decide +kernel

theorem wit_SwitchInstructionsComplete_restore :
    let s := (words stopped (0x20000 + 0x108) [1]).modMine fun x => { x with job := 1, blockIn := true, ranges := [{ placeRange with job := 1 }] }
    oks (loadSpan (s.begun 4) 0x20000 0x2000 true) (fun r => decide (imgWord r.2 33 ≠ 0 ∧ imageBad r.2 = none ∧ (r.1.hart 0 1).active = false
      ∧ (r.1.unit 0).blockIn = true ∧ imgWord r.2 51 = 0)) = true := by decide +kernel

theorem wit_SwitchInstructionsComplete_spill :
    let s := ((words (rx svc [(5, 0x20000)]) 0x20000 [0x21000, 1]).modMine fun x => { x with stopped := true }).modNi 0 fun n =>
      { n with inbox := ((received 0).ni 0).inbox }
    oks (loadBlock (s.begun 4) 0x20000 16 16) (fun r => decide (oks (needHeldZero 0x20000 r.2 [0xFF00000000000000, 0x7FFF0000FFFF0000]) (fun _ => true) = true
      ∧ wfld (nthWord r.2 1) 15 0 = 1 ∧ wfld (nthWord r.2 1) 47 32 = 0 ∧ wbit (nthWord r.2 1) 63 = false ∧ (spillList (r.1.ni 0)).length = 1)
      && oks (blockPlaces r.1 0x21000 80 .both) fun q =>
        oks (storeAt (writePlaces q.1 q.2 (recordsBits (spillList (r.1.ni 0))) []) (0x20000 + 12) 2 1) fun _ => true) = true
    ∧ nexts (exec (.nispill 7 5) s) (fun t => t.me.reg 7 == 1 && (t.ni 0).inbox == []) = true := by decide +kernel

/-- A CMC's cut of job 0, whose cores are cores 0 to 191 in the states used here; the block lies at 0x10100. -/
def cutting (w0 w2 : Nat) : State := words (rx cmc [(5, 0x10100), (6, 0)]) 0x10100 [w0, 77, w2, 0]

theorem wit_CutInstructionsComplete :
    (let s := cutting 1 5
     s.ready ∧ s.onSys = true ∧ s.me.plain 5 ∧ s.me.free 7 ∧ s.me.pipe = .idle ∧ s.cut = none ∧ coresOf s 1 = []
      ∧ oks (loadBlock (s.begun 4) 0x10100 32 32) (fun r => decide (
          oks (needHeldZero 0x10100 r.2 [0xFFFFFFFFFFFE0000, 0, 0x7FFFFFFFFFFFFF00, 0xFFFFFFFFFFFFFFFF]) (fun _ => true) = true ∧ wfld (nthWord r.2 2) 7 0 ≤ 191
          ∧ orderOk r.1 6 true true ∧ r.1.cut = s.cut ∧ r.1.units = s.units ∧ r.1.me.free 7 ∧ wbit (nthWord r.2 0) 16 = false)) = true)
    ∧ (let s := (cutting 1 5).modUnit 0 fun x => { x with job := 1 }
       coresOf s 1 ≠ [] ∧ (let t := after (.cutreq 7 5) s
          t.cut.any (fun c => decide (c.announced = false ∧ c.closed = false)) = true))
    ∧ (let s := cutting 0x10001 5
       oks (loadBlock (s.begun 4) 0x10100 32 32) (fun r => decide (wbit (nthWord r.2 0) 16 = true
         ∧ (sendPreempts r.1.acquired (nthWord r.2 1) [5]).2 = [])) = true)
    ∧ ((rx cmc [(6, 65535)]).me.reg 6).toNat < 2 ^ 16 := by decide +kernel

/-- A cut of job 1, which core 0 holds. -/
def aCut (announced closed : Bool) : Cut :=
  { job := 1, old := false, dir := 77, announced := announced, notStopped := [0], d := 0, closed := closed }

theorem wit_CutInstructionsComplete_more :
    (let s := { cutting 1 5 with cut := some (aCut true false) }
     ∃ c, s.cut = some c ∧ c.closed = false)
    ∧ (let s := { (cutting 1 5).modUnit 0 fun x => { x with job := 1 } with
         removals := [(1, { ncause := 1, writer := false, incomplete := false, held := [0], todo := [0], cores := 1, ucores := 0, dropped := 0,
                            sealed := false, reg := false, pend := [] })] }
       coresOf s 1 = [0] ∧ removing s.acquired 1 = true)
    ∧ (let s := (cutting 0x10001 5).modUnit 5 fun x => { x with preempt := some 9 }
       (sendPreempts s 77 [5]).2 = [5])
    ∧ (let s := (cutting 1 5).modMe fun h => { h with pipe := .cut [5] 77 }
       s.ready ∧ s.me.plain 5 ∧ s.me.pipe = .cut [5] 77 ∧ (sendPreempts (s.begun 4) 77 [5]).2 = [] ∧ (sendPreempts (s.begun 4) 77 [5]).1.me.free 7)
    ∧ (let s := { (cutting 1 5).modMe fun h => { h with pipe := .cutRun } with cut := some (aCut true false) }
       s.me.pipe = .cutRun)
    ∧ (let s := (cutting 1 5).modMe fun h => { h with pipe := .cutSend 1 [0] 77 }
       s.ready ∧ s.me.pipe = .cutSend 1 [0] 77 ∧ (sendPreempts (s.begun 4) 77 [0]).2 = [])
    ∧ (let s := ((cutting 1 5).modUnit 5 fun x => { x with preempt := some 9 }).modMe fun h => { h with pipe := .cutSend 1 [0, 5] 77 }
       (sendPreempts (s.begun 4) 77 [0, 5]).2 = [5])
    ∧ (let s := { (cmc.modHart 193 0 fun h => { h with pipe := .cutRun }).modUnit 0 fun x => { x with job := 1, preempt := some 9, ni := { x.ni with cjob := 1, sent1 := 3 } } with cut := some (aCut false false) }
       coresOf s 1 = [0] ∧ (s.unit 0).ni.cjob = 1
         ∧ nexts (exec .cutAnnounce s) (fun t => t.cut.any (fun c => decide (c.notStopped = [0] ∧ c.announced = true)) && decide ((t.unit 0).ni.sent1 = 0 ∧ (t.unit 0).preempt = some 9 ∧ (t.hart 193 0).pipe = .cutSend 1 [0] 77)) = true)
    ∧ (let s := { rx cmc [(5, 2)] with cut := some (aCut true false) }
       s.me.plain 5 ∧ (aCut true false).job ≠ (s.me.reg 5).setWidth 16)
    ∧ (aCut true false).job = ((rx cmc [(5, 1)]).me.reg 5).setWidth 16 := by
  refine ⟨⟨_, rfl, rfl⟩, ?_⟩
  decide +kernel

/-- Job 1's slot 1 of core 0 with a continuation at 0x60000, counters of 2 at 0x60100 and 1 at 0x60110; and as a task of the continuation at 0x60240. -/
def tasking : State :=
  words (words (words (rx (system core) [(5, 0x60100), (6, 0x60000), (8, 0x60200), (9, 0x60110), (10, 15), (11, 0x8000000000000000)]) 0x60000
    [0x50000, 0x61000, 0, 0, 0, 0, 0, 0x4000001]) 0x60100 [2, 0]) 0x60110 [1, 0]
def taskSlot : State := words (tasking.modMe fun h => { h with cont := 0x60240 }) 0x60240 [0x50000, 0x62000, 0, 0, 0, 0, 0, 1]
def bentry : BEntry := { cont := 0x60000, job := 1, kind := 0, hmode := 0, core := 0, prio := 0, boost := 0, order := 0, place := 0 }

theorem wit_TaskInstructionsComplete :
    let s := tasking
    let b := s.begun 4
    s.ready ∧ s.me.plain 5 ∧ s.me.plain 6 ∧ s.me.plain 8 ∧ s.me.free 7 ∧ s.onCore = true ∧ ¬(isCore s.cur.unit = true ∧ 6 ≤ s.cur.slot)
      ∧ performed s 0 1 = true ∧ (s.me.reg 5).toNat % 16 = 0
      ∧ oks (atomicAt b 0x60100 16 .both false fun v => some (v - 1)) (fun r => r.2 == 2) = true
      ∧ oks (atomicAt b 0x60110 16 .both false fun v => some (v - 1)) (fun r => r.2 == 1 && (releaseList r.1 0 (2 ^ 50) 0).isSome) = true
      ∧ s.onSpawn = true ∧ (s.me.reg 6).toNat % 64 = 0 ∧ (s.me.reg 6).toNat < windowBlock
      ∧ oks (loadWords b 0x60000 8) (fun r => decide (contBad r.2 = none ∧ contJob r.2 = r.1.mine.job ∧ contFresh r.2 = true ∧ performed r.1 0 1 = true
          ∧ (reserve r.1 (hintKey r.1 0 r.2) (contPrio r.2) (contJob r.2)).isSome = true)) = true
      ∧ oks (needCounter b 0x60200) (fun t => decide (taskDrained t)
          && oks (atomicAt t 0x60200 16 .both false fun _ => none) fun r => decide (r.2 % 2 ^ 64 = 0 ∧ rdcClean r.1 0 = true)) = true
      ∧ taskDrained s ∧ s.onCoreU = true ∧ s.me.reg 0 = 0 ∧ s.me.reg 11 = 0 ||| 0x8000000000000000#64 ∧ placementOk s.me.kind.toNat 0 = true
      ∧ s.me.ctr = 0 ∧ oks (decrement b 0x60100) (fun _ => true) = true ∧ (s.me.reg 10).toNat < 16 := by decide +kernel

theorem wit_TaskInstructionsComplete_suspend :
    oks (suspend (taskSlot.begun 4) none 0) (fun r => decide (r.2.length = 8)) = true := by decide +kernel

theorem wit_TaskSteps :
    let w : Walk := { e := bentry, x := 0, y := 0, hx := 0, hy := 0, radius := 0 }
    let s := ({ tasking with walks := [w, { w with hx := 11 }] } : State).modQuad 0 fun q => { q with lastTaker := 3 }
    removing s 1 = false ∧ hops 0 0 ≤ w.radius ∧ coreAt 0 0 0 / 4 = 0 ∧ slotFor s (4 * 0 + (3 + 1) % 4) bentry = some 2
      ∧ (claimJob s 0 1).2 = true ∧ (takeEntry (unreserve s (clusterOf 0) bentry) (unreserve (claimJob s 0 1).1 (clusterOf 0) bentry) 0 2 bentry).any (fun r => r.2) = true
      ∧ w.radius < hops 0 11 ∧ (∀ j < 4, slotFor s (4 * 0 + j) { bentry with kind := 2 } = none)
      ∧ (let t := tasking.setQueueOf 0 [bentry]
         serveOrder (t.queueOf (queueKey 0)) = [bentry] ∧ mayTake t 0 2 bentry = true
         ∧ (takeEntry (leaveQueue t 0 0 bentry) (leaveQueue (claimJob t 0 1).1 0 0 bentry) 0 2 bentry).any (fun r => r.2) = true ∧ (∀ f ∈ t.queueOf (queueKey 0), mayTake t 0 1 f = false))
      ∧ (let t := tasking.setQueueOf 1 [bentry]
         (∀ f ∈ t.queueOf 0, mayTake t 0 2 f = false) ∧ stealOrder 0 = [1, 6, 2, 7, 8]
         ∧ serveOrder (t.queueOf 1) = [bentry] ∧ bentry.hmode ≠ 2 ∧ (claimJob t 0 1).2 = true
         ∧ (takeEntry (leaveQueue t 0 1 bentry) (leaveQueue (claimJob t 0 1).1 0 1 bentry) 0 2 bentry).any (fun r => r.2) = true)
      ∧ ((tasking.setQueueOf 17 [bentry]).queueOf 17)[0]? = some bentry := by decide +kernel

/-- A stamped word of value 1.0 and stamp 5 in memory, read by a slot of step 5. -/
def stamping : State := words ((rx core [(5, 0x10100), (6, 0x3F800000), (8, 1), (9, 0x1FFFFF)]).modMine fun x =>
  { x with step := 5, ranges := x.ranges.map fun r => { r with s := true } }) 0x10100 [0x000000053F800000]

theorem wit_StampedInstructionsComplete :
    let s := stamping
    let b := s.begun 4
    s.ready ∧ s.onCoreU = true ∧ s.me.plain 5 ∧ s.me.plain 6 ∧ s.me.free 7 ∧ ¬(s.onCore = true ∧ s.cur.slot = 6) ∧ s.me.reg 0 = 0
      ∧ (s.me.reg 9).toNat < 2 ^ 21 ∧ stepAllowed s 0 (5 + 1) = true
      ∧ stepAllowed s 0 (2 ^ 48 - 1) = false ∧ rdcClean s 0 = true ∧ s.mine.gstep.toNat ≤ (s.me.reg 0).toNat
      ∧ (let t := stamping.modMine fun x => { x with gstep := 3 }
         (t.me.reg 8).toNat < t.mine.gstep.toNat)
      ∧ oks (loadAcc b 0x10100 8 .sread true false) (fun r => decide ((stampedRead r.1.mine r.2 (stepOf r.1)).isSome = true ∧ r.1.me.free 7)) = true
      ∧ stampedRead s.mine 0x0080000500000000 5 = none
      ∧ wfld (s.me.reg 6) 63 32 = 0
      ∧ oks (atomicAt b 0x10100 8 .swrite false fun _ => some (swWord 0x3F800000 5 0 false)) (fun _ => true) = true
      ∧ (addAt s.mine 0x000000053F800000 0x3F800000 5).isSome = true ∧ (mergeAt s.mine 0x000000053F800000 0x3F800000).isSome = true
      ∧ oks (atomicAt b 0x10100 8 .swrite false fun w => (addAt s.mine w 0x3F800000 5).map (·.1)) (fun r => r.1.get 0x10100 4 == 0x40000000) = true := by
  decide +kernel

theorem wit_StampedReads :
    Nat.testBit (2 ^ 60) 60 = true ∧ (2 ^ 23 - 1 < 2 ^ 23 ∧ 2 ^ 24 - 2 ^ 22 ≤ 2 ^ 24 - 1) ∧ (2 ^ 23 < 2 ^ 24 - 2 ^ 22) ∧ 0x1FFFFFFFFFFFFFFF / 2 ^ 61 = 0 := by decide

/-- An update core with a window of one MiB and a pair descriptor at 0x10200. -/
def pairing : State := (rx upd [(5, 0), (6, 0x10200)])

theorem wit_PairInstructionsComplete :
    (let s := words (rx cmc [(5, 3), (6, 0x10200)]) 0x10200 [0, 0, 0, 0]
     s.ready ∧ s.me.plain 5 ∧ s.me.plain 6 ∧ s.onSys = true ∧ wfld (s.me.reg 5) 6 4 ≤ 5 ∧ wfld (s.me.reg 5) 63 7 = 0 ∧ homePaOk s 0x10200 32 = true
      ∧ (windowOf ((s.begun 4).homeLoad 0x10200 32).2).isSome = true ∧ ucoreQuiet s (ucoreOf 0 0) = true)
    ∧ (let s := (words pairing 0x10200 [0x10400, 8, 0x10600, 8]).modMe fun h => { h with vill := false, ew := 1, vl := 1 }
       s.ready ∧ s.onUcore = true ∧ s.me.pipe = .idle ∧ s.me.vill = false ∧ s.me.poison.contains (32 + 1) = false
        ∧ (pairing.modMe fun h => { h with pipe := .pair 3 [] [] [] }).me.pipe = .pair 3 [] [] []) := by decide +kernel

/-- A pair store of one element of 1 byte to two lines, with what its stages hold. -/
def pairDesc : List Word := [0x10400, 0x10600, 0x0000000100000001, 0]
def pairSt : State :=
  (words ((rx upd [(5, 0x10600), (6, 0x10200)]).modMine fun x =>
    { x with windows := [(0, { valid := true, wr := true, rd := true, job := x.job, base := 0, limit := 0x100000 })] }) 0x10200
    [0x10400, 0x10600, 0x0000000100000001, 0]).modMe fun h => { h with vill := false, ew := 0, vl := 1 }
def pairRun (p : Nat) (lk : List Nat) : State := pairSt.modMe fun h => { h with pipe := .pair p [0x104, 0x106] lk [(0x10400, 7), (0x10600, 8)] }

theorem wit_PairInstructionsComplete_store :
    oks (loadBlock (pairSt.begun 4) 0x10200 32 32) (fun r => decide (r.2 = pairDesc)
      && (match pairElems r.2 0x10600 1 1 [(0, 9)] with
        | some es => oks (elemPlaces r.1 1 es) fun q => decide (q.2 = [(0x10600, 9), (0x10400, 9)])
        | none => false)) = true
    ∧ activeElems 8 1 { en := false, sel := 0 } pairSt.me = [0]
    ∧ (let g := fun (b : Bool) => ((pairRun 0 []).modStation (sliceOf (pairRun 0 []) 0x104 / 8) fun m =>
          { m with pairs := [{ unit := 204, slice := sliceOf (pairRun 0 []) 0x104, n := 1, granted := b }] })
       ((pairAsked (g false) 204).find? fun p => !p.granted).isSome = true ∧ (pairNeeds (g false) [0x104, 0x106]).length = 2
         ∧ sliceOf (pairRun 0 []) 0x104 < sliceOf (pairRun 0 []) 0x106)
    ∧ pairLocked (pairRun 1 []) 0x104 = false ∧ (pairRun 2 [0x104, 0x106]).me.pipe = .pair 2 [0x104, 0x106] [0x104, 0x106] [(0x10400, 7), (0x10600, 8)] := by
  decide +kernel

theorem wit_GlobalStepSteps :
    let s := system core
    let q := State.reset.modPkg fun p => { p with sweep := fset p.sweep 0 { Sweep.reset with run := true } }
    (s.pkg.gwrite.find? fun p => p.1 == 0) = none ∧ liveIn s 0 0 = true ∧ liveIn State.reset 0 191 = false
      ∧ (∀ i < 24, stepDomain State.reset (204 + i) ≠ some 0) ∧ wbit (5 : Word) 63 = false ∧ (5 : Word).setWidth 48 ≠ fget State.reset.pkg.g 0 0
      ∧ (fget q.pkg.sweep 0 Sweep.reset).run = true := by decide +kernel

/-- A range of 64 KiB in region 0 and one in region 2, their descriptors at 0x40040 and 0x40080, seen from a CMC with a capacity window. -/
def span0 : RangeEntry := { placeRange with desc := 0x40040, vbase := 0x80000, vlimit := 0x8FF00, rlo := 0x80000, rhi := 0x8FF00 }
def span2 : RangeEntry := { span0 with offset := 0x2000000000000 }
def ranging (e f : RangeEntry) (ys : List Nat) : State :=
  let s := rx cmc [(5, 0x40040), (6, 0x40080), (8, 0x10300), (9, 0x88000)]
  words ((({ s with pkg := { s.pkg with capwin := [(0, 0x8000000000000000)], sysroot := 0x8000000000040000 } }.put 0x40040 64 (descBits e)).put 0x40080 64
    (descBits f)).put 0x40000 8 0x0101000000000000) 0x10300 ys

theorem wit_RangeInstructionsComplete :
    let f := { span0 with desc := 0x40080, vbase := 0x88000, rlo := 0x88000, state := stInvalid }
    let s := ranging span0 f [0x100000, 0x10400, 5, 0]
    let b := s.begun 4
    s.ready ∧ s.onSys = true ∧ s.me.plain 5 ∧ s.me.plain 8 ∧ s.me.pipe = .idle
      ∧ oks (normalDesc b 0x40040) (fun r => decide (r.2 = span0 ∧ orderOk r.1 6 true true ∧ r.1.me.free 7)
          && oks (rawDesc r.1 0x40080) (fun q => decide (q.2 = f ∧ orderOk q.1 6 true true))) = true
      ∧ (s.me.reg 9).toNat % 256 = 0 ∧ oks (rawDesc b 0x40080) (fun r => decide (r.2.state = stInvalid ∧ findOrder r.1 r.2.job r.2.vbase (fun _ => true) = none)) = true
      ∧ (s.modMe fun h => { h with pipe := .broadcast 0 0 none none [(0x80000, 0x8FFFF)] }).me.pipe = .broadcast 0 0 none none [(0x80000, 0x8FFFF)]
      ∧ allSeen s 0 = true ∧ drained s 0 none none 0x80000 0x8FFFF 0 false = true := by decide +kernel

theorem wit_RangeInstructionsComplete_merge :
    let f := { span0 with desc := 0x40080, vbase := 0x90000, vlimit := 0x9FF00, rlo := 0x90000, rhi := 0x9FF00 }
    let g := { span0 with vlimit := 0x9FF00, rhi := 0x9FF00 }
    let u := { f with state := stInvalid }
    let s := ranging g u [0x8000, 0x8FF00, 0, 0]
    oks (normalDesc (s.begun 4) 0x40040) (fun r => decide (r.2 = g ∧ g.nowin = false ∧ g.wholeWindow = true)
      && oks (rawDesc r.1 0x40080) fun q => decide (q.2 = u ∧ g.vbase < u.vbase ∧ u.vlimit = g.vlimit ∧ u.wholeWindow = true)) = true := by decide +kernel

theorem wit_RangeInstructionsComplete_window :
    let s := ranging span0 span0 [0x80100, 0x80200]
    oks (normalDesc (s.begun 4) 0x40040) (fun r => decide (homePaOk r.1 0x10300 16 = true ∧ backed r.1 0x1030F = true)
      && oks (homeBlock r.1 0x10300 16) fun q => decide (orderOk q.1 6 true true)
        && decide (nthWord q.2 0 &&& 0x7F000000000000FF#64 = 0 ∧ nthWord q.2 1 &&& 0xFF000000000000FF#64 = 0 ∧ wbit (nthWord q.2 0) 63 = false
          ∧ 0x80000 ≤ wfld (nthWord q.2 0) 55 8 * 256 ∧ wfld (nthWord q.2 0) 55 8 ≤ wfld (nthWord q.2 1) 55 8 ∧ wfld (nthWord q.2 1) 55 8 * 256 ≤ 0x8FF00)) = true := by
  decide +kernel

theorem wit_RangeInstructionsComplete_probe :
    let s := ranging span0 span0 [0x80000, 0]
    oks (homeBlock (s.begun 4) 0x10300 16) (fun r => decide (wfld (nthWord r.2 1) 63 16 = 0) && (walk? r.1 0x80000 0).isSome && (walk? r.1 0x90000 0).isNone) = true := by
  decide +kernel

theorem wit_RangeInstructionsComplete_orders :
    ∀ z ∈ ([(.move, span0, 0x100000), (.offload, span0, 0x2000000000000), (.back, span2, 0)] : List (OrderForm × RangeEntry × Nat)),
      let s := ranging z.2.1 span0 [z.2.2, 0x10400, 5, 0]
      oks (goodDesc (s.begun 4) 0x40040) (fun r => decide (r.2 = z.2.1 ∧ homePaOk r.1 0x10300 32 = true ∧ backed r.1 0x1031F = true)
        && oks (homeBlock r.1 0x10300 32) fun q => decide (wfld (nthWord q.2 0) 7 0 = 0 ∧ homePaOk q.1 (nthWord q.2 1).toNat 8 = true
          ∧ wbit (nthWord q.2 2) 63 = false ∧ nthWord q.2 3 = 0 ∧ z.2.1.state = stNormal
          ∧ (z.1 = .back → mapsInto q.1 z.2.1 z.2.1.offset (fun r => decide (r < 2)) = false) ∧ regionRule q.1 z.1 z.2.1 (nthWord q.2 0) = true
          ∧ ((q.1.station (homeOf q.1 (addOff z.2.1.vbase (if z.1 = .offload then z.2.1.offset else nthWord q.2 0))).1).orders.length < 4)
          ∧ orderOk q.1 6 true true ∧ q.1.me.free 7)) = true := by decide +kernel

/-- An order to move span0 by 1 MiB, at station 0 in a phase at a line. -/
def order (p : OrderPhase) (n : Nat) : Order :=
  { form := .move, entry := { span0 with state := stMoving, noff := 0x100000, cursor := 0x80000 }, noff := 0x100000, cword := 0x10400, cval := 5,
    phase := p, pos := n, seen := 0 }
def ordered (o : Order) : State :=
  (cmc.modStation 0 fun m => { m with orders := [o] }).modUnit 0 fun x => { x with ranges := [o.entry] }

theorem wit_RangeSteps :
    orderDrained (ordered (order .drain 0x80000)) (order .drain 0x80000) false = true
      ∧ (let o := order .copy 0x80000
         let s := ordered o
         (s.station 0).orders[0]? = some o ∧ o.pos ≤ o.entry.last ∧ pairLocked s (lineOf 0x80000) = false ∧ pairLocked s (lineOf 0x180000) = false)
      ∧ (order .copy 0x90000).entry.last < 0x90000
      ∧ (let s := ordered (order .copy 0x80200)
         lookup? s 0 (s.unit 0).job 0x80100 = some (order .copy 0).entry ∧ redirectCursor s (order .copy 0).entry 0x80100 = some 0x80200)
      ∧ (let o := { order .copy 0x80200 with form := .offload, entry := { (order .copy 0).entry with state := stOutbound } }
         let s := ordered o
         lookup? s 0 (s.unit 0).job 0x80100 = some o.entry ∧ o.entry.w = true ∧ orderOf s .offload o.entry = some (0, 0, o) ∧ pairLocked s (lineOf o.cword) = false)
      ∧ (({ cmc with bcasts := [.drop 0 0 0] }).bcasts[(cmc.unit 1).bseen]?).isSome = true := by decide +kernel

/-- A length of n elements of 32 bits, under a prefix if there is one; the vector forms with one choice of operands. -/
def vectoring (n : Nat) (p : Option Nat) (s : State) : State :=
  s.modMe fun h => { h with vl := BitVec.ofNat 9 n, vill := false, ew := 2, pp := p.isSome, pfx := BitVec.ofNat 12 (p.getD 0) }
def vforms : List (Instr × VKind) := vectorForms 1 2 3 5 6 7 1 2 3 .eq ⟨false, 0⟩
def vcvtForm : Instr × VKind := (.vcvt 1 3 ⟨false, 0⟩, .cvt 1 3 ⟨false, 0⟩)
def vqntForm : Instr × VKind := (.vqnt 1 2 3 ⟨false, 0⟩, .qnt 1 2 3 ⟨false, 0⟩)
def vlegal (s : State) (f : Instr × VKind) : Bool := (vCheck f.2 (handedOver f.1 f.2 (s.begun 4))).isSome

theorem wit_VectorHandOff :
    let s := vectoring 2 none core
    s.onCore = true ∧ s.me.plain 5 ∧ s.me.plain 6 ∧ (∀ f ∈ vforms, (s.ready ∨ takesFormats f.2 = true) ∧ vHeld f.2 (handedOver f.1 f.2 (s.begun 4)) (s.begun 4) = false)
      ∧ (let q := vectoring 2 none lead
         vHeld (.mem true 1 5 .unit ⟨false, 0⟩) (handedOver (.vst 1 5 ⟨false, 0⟩) (.mem true 1 5 .unit ⟨false, 0⟩) (q.begun 4)) (q.begun 4) = false) := by
  decide +kernel

theorem wit_VectorComputeCompletes :
    (let s := vectoring 2 none upd
     s.ready ∧ s.onUcore = true ∧ s.me.plain 5 ∧ s.me.plain 6 ∧ s.me.free 7
       ∧ (∀ f ∈ vforms, (f.1 ≠ vcvtForm.1 ∧ f.1 ≠ vqntForm.1 → vlegal s f = true) ∧ ∀ z ∈ f.2.sources, s.me.poison.contains z = false))
    ∧ vlegal (vectoring 2 (some 1) upd) vcvtForm = true ∧ vlegal (vectoring 32 (some 2560) upd) vqntForm = true
    ∧ takesFormats vcvtForm.2 = true ∧ takesFormats vqntForm.2 = true := by decide +kernel

/-- The update core with a window on the first MiB, readable and writable, and stamped or not. -/
def windowed (st : Bool) : State :=
  (vectoring 2 none (rx upd [(5, 0x10400), (6, 16)])).modMine fun x =>
    { x with windows := [(0, { valid := true, wr := true, rd := true, job := x.job, base := 0, limit := 0x100000 })],
             ranges := x.ranges.map fun r => { r with s := st } }

theorem wit_VectorMemoryCompletes :
    (∀ j ∈ ([.unit, .stride 6, .index 2] : List VIdx),
      let s := windowed false
      let g : VKind := .mem false 1 5 j ⟨false, 0⟩
      let o := handedOver (.vld 1 5 ⟨false, 0⟩) g (s.begun 4)
      s.ready ∧ s.onUcore = true ∧ vCheck g o = some (0, 0, 0) ∧
      let c := vCtx s.cur.unit s.me g o (0, 0, 0)
      let xs := (vAddrs g c s.me o).1
      oks (loadElems (vClaim g o (s.begun 4)).noPrefix 4 xs) (fun _ => true) = true
        ∧ oks (storeElems (vClaim g o (s.begun 4)).noPrefix s.mine.step 4 .store (xs.map fun z => (7, z.2))) (fun _ => true) = true)
    ∧ (0x10400 : Word).toNat % (32 * 32) = 0
    ∧ (let s := windowed true
       let g : VKind := .stamped .ld 1 5 ⟨false, 0⟩
       let o := handedOver (.vsld 1 5 ⟨false, 0⟩) g (s.begun 4)
       (vCheck g o).isSome = true ∧
       let xs := (vAddrs g (vCtx s.cur.unit s.me g o (0, 0, 0)) s.me o).1
       oks (stampedLoads (vClaim g o (s.begun 4)).noPrefix { (vClaim g o (s.begun 4)).noPrefix.mine with dt := s.mine.dt } 0 xs) (fun _ => true) = true
         ∧ oks (stampedStores (vClaim g o (s.begun 4)).noPrefix (xs.map fun z => (7, z.2)) fun v w => some (swWord v 0 (swClass w) (swSettled w), false)) (fun _ => true) = true
         ∧ oks (stampedStores (vClaim g o (s.begun 4)).noPrefix (xs.map fun z => (7, z.2)) fun v w => addAt s.mine w v 0) (fun _ => true) = true) := by
  decide +kernel

/-- A handed-over instruction in the unit of quad 0. -/
def unitOp (f : Instr × VKind) (n : Nat) : VOp := handedOver f.1 f.2 ((vectoring n none core).begun 4)
def addForm : Instr × VKind := (.vadd 1 2 3 ⟨false, 0⟩, .arith .add 1 (.v 2) 3 ⟨false, 0⟩)
def loadForm : Instr × VKind := (.vld 1 5 ⟨false, 0⟩, .mem false 1 5 .unit ⟨false, 0⟩)
def inUnit (o : VOp) : State :=
  ((vectoring 2 none core).modQuad 0 fun x => { x with vunit := [o] }).modMe fun h => { h with park := 7, x := [(5, 0x10401)] }

theorem wit_VectorUnitSteps :
    vkind (unitOp addForm 2).i = some addForm.2 ∧ vCheck addForm.2 (unitOp addForm 2) = some (16, 16, 16) ∧ vCheck vqntForm.2 (unitOp vqntForm 2) = none
      ∧ removing (inUnit (unitOp addForm 2)) ((inUnit (unitOp addForm 2)).unit 0).job = false
      ∧ (let o := unitOp addForm 2
         oks (vRun addForm.2 o (16, 16, 16) ((o.leave ((inUnit o).modQuad 0 fun x => { x with vunit := [] })).advance 4).noPrefix) (fun _ => true) = true)
      ∧ (let o := { unitOp loadForm 2 with xa := 0x10401 }
         (match vRun loadForm.2 o (0, 0, 0) ((o.leave ((inUnit o).modQuad 0 fun x => { x with vunit := [] })).advance 4).noPrefix with
          | .error (.trap _ _) => true
          | _ => false) = true) := by decide +kernel

theorem wit_VectorElementsWritten :
    (let c := vCtx 204 (vectoring 2 none upd).me addForm.2 (unitOp addForm 2) (16, 16, 16)
     c.act.Nodup ∧ (∀ i ∈ c.act, vWidth c.fd * (i + 1) ≤ 2048 ∧ c.w * (i + 1) ≤ 2048) ∧ c.rm ≠ 2 ∧ 1 ∈ c.act ∧ 2 ∉ c.act ∧ vWidth c.fd * (2 + 1) ≤ 2048) := by
  decide +kernel

/-- A tile command word with some fields set, queued on core 0, whose tiles 1 and 2 are narrow zeros; and the machine after some steps. -/
def tcw (cls opc rest : Nat) : Tcw := ⟨BitVec.ofNat 256 (0x707F + cls * 2 ^ 7 + opc * 2 ^ 16 + rest)⟩
def queuedWord (t : Tcw) : TcwEntry :=
  { tcw := t.raw, addr := 0x10000, base := 0x20000, stride := 128, aux := 1, aux2 := 0, cbr := w64 coreWindow, cvr := 1, step := 0 }
def leading (ts : List Tcw) (bad : Option Nat) : State :=
  let ts2 : FMap Tile := [(1, { shape := .narrow, h := 0, img := 0, poison := bad }), (2, { shape := .narrow, h := 0, img := 0, poison := none })]
  (vectoring 2 none lead).modUnit 0 fun x => { x with fe := { x.fe with inq := ts.map queuedWord, tiles := ts2 } }
def runs (s : State) (is : List Instr) : State := is.foldl (fun t i => after i t) s
def tzeroW : Tcw := tcw 2 1 (3 * 2 ^ 24)
def tmovW : Tcw := tcw 2 0 (3 * 2 ^ 24 + 1 * 2 ^ 28)
def tldW : Tcw := tcw 0 0 (3 * 2 ^ 24 + 2 * 2 ^ 40 + 10 * 2 ^ 64 + 11 * 2 ^ 69 + 4 * 2 ^ 128 + 128 * 2 ^ 136)
def tstW : Tcw := tcw 0 1 (2 * 2 ^ 28 + 2 * 2 ^ 40 + 10 * 2 ^ 64 + 11 * 2 ^ 69 + 1 * 2 ^ 128 + 4 * 2 ^ 136)
def tmmaW : Tcw := tcw 1 0 (3 * 2 ^ 24 + 1 * 2 ^ 28 + 2 * 2 ^ 32 + 2 * 2 ^ 40 + 2 * 2 ^ 44 + 2 ^ 52 + 2 ^ 58)
def tldmW : Tcw := tcw 0 3 (3 * 2 ^ 24 + 2 * 2 ^ 40 + 10 * 2 ^ 64 + 11 * 2 ^ 69 + 1 * 2 ^ 74 + 2 * 2 ^ 79 + 1 * 2 ^ 128 + 4 * 2 ^ 136)
def tmmadW : Tcw := tcw 1 3 (3 * 2 ^ 24 + 1 * 2 ^ 28 + 2 * 2 ^ 40 + 2 * 2 ^ 44 + 10 * 2 ^ 64 + 11 * 2 ^ 69 + 2 ^ 52 + 2 ^ 58)
def tchunkW : Tcw := tcw 0 0 (3 * 2 ^ 24 + 2 * 2 ^ 40 + 10 * 2 ^ 64 + 11 * 2 ^ 69 + 1 * 2 ^ 128 + 4 * 2 ^ 136 + 12 * 2 ^ 160 + 13 * 2 ^ 165)
/-- Core 0 after a word of a kind has been renamed, and issued; a matrix instruction started; a convoy of a TLDM. -/
def renamed (t : Tcw) (bad : Option Nat) : State := after (.tileRename 0) (leading [t] bad)
def issued (t : Tcw) (bad : Option Nat) : State := after (.tileIssue 0 0) (renamed t bad)
def leased : State := after (.leaseGrant 0 0) (renamed tmmaW none)
def started : State := after (.matrixStart 0 0 0) leased
def convoy : State := after (.convoyRequest 0 0) (issued tldmW none)
def sentLine : State := after (.convoyLineSend 0) (after (.convoyWindowClose 0) convoy)
/-- The entry 0 of core 0's reorder buffer satisfies p. -/
def entry0 (s : State) (p : RobEntry → Bool) : Bool := ((s.fe 0).entry 0).any p

theorem wit_TileCommandsAreCaptured :
    (let s := leading [] none
     s.ready ∧ s.onTile = true ∧ .tld tldW ∈ tileForms tldW ∧ decodeTcw tldW.raw = .tld tldW ∧ capturesPlain s (.tld tldW) tldW ∧ s.mine.fe.inq.length < 8)
    ∧ (let s := leading [tzeroW, tzeroW, tzeroW, tzeroW, tzeroW, tzeroW, tzeroW, tzeroW] none
       s.ready ∧ s.onTile = true ∧ 8 ≤ s.mine.fe.inq.length) := by decide +kernel

theorem wit_TileSteps_rename :
    (let s := leading [tzeroW] none
     renameOn s 0 = true ∧ (nextTcw (s.fe 0)).any (fun p => decide (p.2.rob.length < 32 ∧ renameFault s 0 (decodeTcw p.1.tcw) ⟨p.1.tcw⟩ p.1 = none
       ∧ ((destShape p.2 (decodeTcw p.1.tcw) ⟨p.1.tcw⟩).map slotsOf).getD 0 ≤ p.2.free)
       && (renameRegs s 0 (decodeTcw p.1.tcw) ⟨p.1.tcw⟩ p.1).isOk) = true)
    ∧ (let s := leading [tcw 0 0x20 0] none
       renameOn s 0 = true ∧ (nextTcw (s.fe 0)).any (fun p => (renameFault s 0 (decodeTcw p.1.tcw) ⟨p.1.tcw⟩ p.1).isSome) = true) := by decide +kernel

theorem wit_TileSteps_issue :
    (let s := renamed tmovW none
     entry0 s (fun x => decide (x.phase = .renamed ∧ x.fault = none ∧ x.id = 0 ∧ tileUnit x.i = .alu) && unitFree (s.fe 0) .alu && !tileMemHeld s 0 x
       && chunkReady s 0 x && (s.fe 0).ready x) = true)
    ∧ (let s := renamed tldW none
       entry0 s (fun x => decide (x.phase = .renamed ∧ x.fault = none ∧ x.id = 0 ∧ tileUnit x.i = .engine) && unitFree (s.fe 0) .engine && !tileMemHeld s 0 x
         && chunkReady s 0 x && !chunkHidden x && rowsOpen s 0 x && requestFree s 0 (24, 0) (24, 0) && (s.fe 0).ready x
         && oks (formPieces (s.asHart 0 0) x (wideSource (s.fe 0) x) true) fun p => beyondL1 p.1 0 x p.2 && !listFar s 0 x) = true)
    ∧ (let s := renamed tmmadW none
       entry0 s (fun x => decide (x.phase = .renamed ∧ x.fault = none ∧ x.id = 0 ∧ tileUnit x.i = .fetch) && unitFree (s.fe 0) .fetch && !tileMemHeld s 0 x
         && rowsOpen s 0 x && !chunkHidden x && requestFree s 0 (24, 0) (24, 0) && (s.fe 0).ready x
         && oks (formPieces (s.asHart 0 0) x (wideSource (s.fe 0) x) true) fun _ => true) = true)
    ∧ (let s := issued tmmadW none
       entry0 s (fun x => decide (x.id = 0 ∧ x.fault = none ∧ x.phase = .issued ∧ x.i = .tmmad tmmadW ∧ x.box = none) && !piecesWait s 0 x
         && let z := (heldPieces s x).foldl (fetchRow 0) (s, x)
            (heldPieces s x).all (fun p => z.2.hasRow p && !z.2.arrived.contains (p.off, true))) = true
         ∧ nexts (exec (.tileComplete 0 0) s) (fun t => entry0 t fun x => x.box.isSome && x.fault.isNone) = true) := by decide +kernel

theorem wit_TileSteps_complete :
    (∀ z ∈ ([none, some 0] : List (Option Nat)), let s := issued tmovW z
      entry0 s (fun x => decide (x.phase = .issued ∧ x.fault = none ∧ tileUnit x.i = .alu) && ((s.fe 0).value x.b).isSome && ((s.fe 0).value x.c).isSome
        && ((s.fe 0).value x.a).any fun a => (poisonedOperand a Tile.reset Tile.reset Tile.reset).isNone == z.isNone
            && (aluForm s 0 x a Tile.reset Tile.reset).qval.isNone) = true)
    ∧ entry0 started (fun x => decide (x.phase = .started ∧ x.fault = none) && ((started.fe 0).value x.acc).isSome && ((started.fe 0).value x.a).isSome) = true
    ∧ (let s := issued tldW none
       entry0 s (fun x => decide (x.id = 0 ∧ x.phase = .issued ∧ x.fault = none ∧ x.i = .tld tldW) && !piecesWait s 0 x
         && oks (readPieces (s.asHart 0 0) true (heldPieces s x)) fun _ => true) = true)
    ∧ (let s := after (.tileComplete 0 0) (issued tmovW none)
       (s.fe 0).rob.any (fun x => decide (x.phase = .complete ∧ x.fault = none ∧ x.dest = some 3)) = true)
    ∧ (let s := after (.tileComplete 0 0) (issued tstW none)
       (s.fe 0).rob.any (fun x => decide (x.phase = .complete ∧ x.fault = none ∧ x.dest = none ∧ x.writes = true)) = true) := by decide +kernel

theorem wit_TileEnds :
    (let s := after (.tileRetire 0) (after (.tileComplete 0 0) (issued tstW none))
     s.Inv ∧ (s.fe 0).writing.any (fun w => decide ((w.bytes.map fun p => p.1).Nodup ∧ w.bytes ≠ [])) = true)
    ∧ (let s := renamed (tcw 0 0x20 0) none
       (s.fe 0).recorded = none ∧ (s.fe 0).rob.any (fun x => x.fault.isSome) = true ∧ (s.unit 0).stopped = false ∧ slot0Free s 0 = true
       ∧ (s.hart 0 0).restored = false ∧ ((s.modUnit 0 fun x => { x with stopped := true }).unit 0).stopped = true)
    ∧ (let s := renamed tchunkW none
       entry0 s (fun x => decide (x.phase = .renamed ∧ x.fault = none ∧ x.id = 0) && !chunkHolds s 0 x && !chunkHidden x && !tileMemHeld s 0 x
         && unitFree (s.fe 0) (tileUnit x.i) && oks (formPieces (s.asHart 0 0) x (wideSource (s.fe 0) x) false) fun _ => true) = true)
    ∧ (entry0 (issued tmmadW none) fun x => decide (tileUnit x.i = .fetch ∧ x.phase = .issued ∧ x.box = none)) = true := by decide +kernel

theorem wit_MatrixSteps :
    (let s := renamed tmmaW none
     ((s.quad 0).array 0).holder = none ∧ leaseChoice ((s.quad 0).array 0).prev (waiters s 0) = some 0)
    ∧ (let s := leased.modArray 0 0 fun m => { m with left := 0 }
       ((s.quad 0).array 0).holder = some 0 ∧ ((s.quad 0).array 0).running = none ∧ ((s.quad 0).array 0).left = 0 ∧ switchedOut s 0 = false
       ∧ waiters (lead.modArray 0 0 fun m => { m with holder := some 0, left := 0 }) 0 ≠ [0])
    ∧ (let s := leased.modArray 0 0 fun m => { m with running := some (1, 0), left := 0 }
       waiters s 0 = [0])
    ∧ (let m := (leased.quad 0).array 0
       m.holder = some 0 ∧ m.left ≠ 0 ∧ m.cyc ≠ 0 ∧ m.running = none ∧ slewAllows leased (clusterOfQuad 0) (arrayNo 0 0) = true
       ∧ entry0 leased (fun x => matReady (leased.fe 0) x && (chainOn (leased.fe 0) x).isNone && !((leased.fe 0).older 0).any (matReady (leased.fe 0))) = true)
    ∧ (let v : Word := 0x18888
       wbit v 31 = false ∧ 1 ≤ wfld v 3 0 ∧ wfld v 15 12 = 8 ∧ 1 ≤ wfld v 19 16) ∧ wfld (0x18880 : Word) 3 0 = 0
    ∧ ((lead.modUnit 0 fun x => { x with dutyNext := some 8 }).unit 0).dutyNext = some 8 := by decide +kernel

theorem wit_ConvoySteps :
    (let s := issued tldmW none
     entry0 s (fun x => decide (x.i = .tldm tldmW ∧ x.phase = .issued ∧ x.joined = false ∧ findPos (Convoy.sameKey (convoyOf 0 x)) s.convoys = none)) = true)
    ∧ (let s := { issued tldmW none with convoys := convoy.convoys }
       entry0 s (fun x => decide (findPos (Convoy.sameKey (convoyOf 0 x)) s.convoys = some 0) && s.convoys.all fun c => c.open_) = true)
    ∧ (let s := after (.convoyWindowClose 0) convoy
       s.convoys.any (fun c => decide (c.lines[c.sent]? = some 512 ∧ c.open_ = false)) = true ∧ movedLine s 512 = 512 ∧ canPin s 512 = true ∧ pairLocked s 512 = false)
    ∧ sentLine.convoys.any (fun c => decide (c.lines.length ≤ c.sent) && entry0 sentLine (fun x => x.joined && x.await.contains 512 && Convoy.sameKey c (convoyOf 0 x))
        && c.inFlight.any fun f => decide (f.1 = 0 ∧ f.2.1 = 512 ∧ f.2.2.2 = 0)) = true
    ∧ (after (.convoyLineArrival 0 0) sentLine).convoys.all (fun c => decide (c.open_ = false ∧ c.sent = c.lines.length ∧ c.late = [] ∧ c.inFlight = [])) = true := by
  decide +kernel

theorem wit_MemorySystemSteps :
    (let s := system core
     let t := s.modUnit 0 fun x => { x with ranges := [], job := 0 }
     lookup? t 0 (t.unit 0).job 0x10000 = none ∧ (walk? t 0x10000 (t.unit 0).job).isSome = true ∧ isCore 0 = true ∧ lineBacked s 0x200 = true
       ∧ homeDie s (linePa 0x200) = unitDie 0 ∧ pairLocked s 0x200 = false ∧ homeDie s (linePa 0x200) = otherDie 1 ∧ backed s 0x20000 = true
       ∧ s.l1Hit 0 0x20000 = none ∧ homeDie s 0x1000000000000 ≠ unitDie 0 ∧ backed s 0x1000000000000 = true ∧ s.l1Hit 0 0x1000000000000 = none
       ∧ pairLocked s (lineOf 0x1000000000000) = false ∧ s.l2Find 0x300 = none)
    ∧ (match translate core 0 (core.unit 0).job 0x10000 .fetch with
       | (t, .ok p _) => decide (backed t p = true ∧ regionOf p < 3 ∧ pairLocked t (lineOf p) = false ∧ icFind (t.unit 0) (0x10000 / 256) = none)
       | _ => false) = true
    ∧ ((core.modDie 0 fun x => { x with inval := [5] }).die 0).inval = [5]
    ∧ findPos (fun p : WtAccess => p.slot == 1) [({ slot := 1, va := 0, pa := 0, n := 8, step := 0, tag := 0 } : WtAccess)] = some 0 := by decide +kernel

/-- Port 0 with its link up, under job 0's range of the first MiB, readable and writable. -/
def linked (w : Bool) : State :=
  core.modPort 0 fun p => { p with linkup := true, ranges := [{ placeRange with w := w }] }

/-- What an inbound request's places are: found, refused, or a wait. -/
def places_ (s : State) (p va n : Nat) (a : Acc) (want : Nat) : Bool :=
  match spanPlaces s (244 + p) (s.port p).dmajob a (requestBlocks (w64 va) n) with
  | (t, ps, .ok pa _) => want == 0 && decide t.Inv && decide (ps = [(va, pa, n)] ∧ pa % 128 + n ≤ 128)
  | (_, _, .raise _ _) => want == 1
  | (_, _, .wait) => want == 2

theorem wit_PortSteps :
    (let x := core.port 0
     x.linkup = false ∧ x.train = false ∧ ((linked true).port 0).linkup = true ∧ ((linked true).port 0).inq = [])
    ∧ ((core.modPort 0 fun p => { p with train := true, mode := 1 }).port 0).train = true
    ∧ ((core.modMe fun h => { h with pipe := .port 0 none }).hart 0 1).pipe = .port 0 none
    ∧ (let s := core.modAplic 1 fun x => { x with source := [(7, 4)] }
       4 ≤ (fget (s.aplic (5 / 4)).source (4 * (5 % 4) + 3) 0).toNat ∧ (s.aplic (5 / 4)).ie = false)
    ∧ apertureFile 0x00FFFE0000001000 = some (1, 0) ∧ apertureFile 0x00FFFE000007F000 = some (127, 0) ∧ apertureFile 0x00FFFE0000080000 = none
    ∧ (let s := (linked true).modPort 0 fun y => { y with inq := [.read 0x10000 64 3] }
       places_ s 0 0x10000 64 .load 0 = true ∧ places_ s 0 0x900000 64 .load 1 = true
        ∧ places_ (s.modPort 0 fun p => { p with ranges := [{ placeRange with state := stReturning, cursor := 0x10000 }] }) 0 0x10000 64 .load 2 = true
        ∧ places_ s 0 0x10000 128 .store 0 = true)
    ∧ (let s := (linked true).modPort 0 fun y => { y with ranges := [{ placeRange with state := stReturning, cursor := 0x10000 }], inq := [.read 0x10000 64 3] }
       (performInbound s 0 (.read 0x10000 64 3)).isNone = true) := by decide +kernel

/-- The write that a port is posted, and a message behind one that waits. -/
theorem test_inbound :
    nexts (exec (.inboundWrite 0 0x10080 4 1 0xA1B2C3D4 false) (linked true)) (fun t => t.get 0x10080 4 == 0xA1B2C3D4) = true
    ∧ (let s := (linked true).modPort 0 fun y => { y with ranges := [{ placeRange with state := stReturning, cursor := 0x10000 }], inq := [.read 0x10000 64 3] }
       nexts (exec (.msiDelivery 0 0x00FFFE0000001000 9) s) (fun t => (t.port 0).inq.length == 2 && (t.ifile 1).pend == []) = true)
    ∧ nexts (exec (.msiDelivery 0 0x00FFFE0000001000 9) (linked true)) (fun t => (t.port 0).inq == [] && (t.ifile 1).pend == [9]) = true := by
  decide +kernel

/-- Job 1 under removal, with the units that still have to write their records. -/
def removal (todo : List Nat) (writer : Bool) : Removal :=
  { ncause := 1, writer := writer, incomplete := false, held := [0], todo := todo, cores := 1, ucores := 0, dropped := 0, sealed := false, reg := false, pend := [] }
def removingJob (todo : List Nat) (writer : Bool) (s : State) : State := { s with removals := [(1, removal todo writer)] }

theorem wit_RemovalSteps :
    (let s := removingJob [] false (rx cmc [(5, 1)])
     s.ready ∧ s.onCmcS = true ∧ s.me.plain 5 ∧ s.me.pipe = .idle ∧ removing s 1 = true ∧ findRemoval s 1 = some (removal [] false)
       ∧ performed s s.cur.unit s.cur.slot = true ∧ allSeen s 0 = true ∧ locksUnder s 1 none 0 (2 ^ 56 - 1) false = false
       ∧ inFlight s 1 none 0 (2 ^ 56 - 1) = false)
    ∧ findRemoval (removingJob [] true cmc) (BitVec.ofNat 16 1) = some (removal [] true)
    ∧ (let s := removingJob [0] true (State.reset.modUnit 0 fun x => { x with job := 1 })
       findRemoval s (s.unit 0).job = some (removal [0] true) ∧ (s.fe 0).writing = []
         ∧ ((s.quad (quadOf 0)).vunit.any (fun o => o.agent.unit == 0) && isCore 0) = false
         ∧ (writePieces s 0 1 (recordOffset s 1 0) (recordPieces s 0 1)).isSome = true ∧ (s.unit 0).job ≠ 0)
    ∧ (let s := svc.modCluster 0 fun c => { c with wdctl := 0x0000010100000100, beatSeen := true, mailbox := [(0, { MboxSlot.reset with state := .full })] }
       isCore 0 = true ∧ (s.hart 0 7).active = true ∧ hrun s 0 ≠ 0 ∧ beatLimit s 0 ≠ 0 ∧ (s.cluster 0).beatSeen = true ∧ (svc.cluster 0).beatSeen = false
         ∧ (fget (s.cluster 0).mailbox 0 MboxSlot.reset).state ∈ ([.full, .read, .replied] : List MboxState))
    ∧ (mboxLimit (svc.modCluster 0 fun c => { c with wdctl := 0x10000 }) 0 ≠ 0)
    ∧ (svc.pkg.jrBusy = false ∧ wbit (0x8000000000050002 : Word) 63 = true ∧ (0x8000000000050002 : Word).setWidth 16 ≠ (0 : BitVec 16) ∧ removing svc 2 = false
       ∧ wbit (0x50002 : Word) 63 = false ∧ ({ svc.pkg with jrBusy := true }).jrBusy = true) := by decide +kernel

theorem wit_PowerSteps :
    (let s := State.reset.modQuad 0 fun x => { x with trip := true }
     grantedPoint s 0 ≠ (s.quad 0).point)
    ∧ (State.reset.pkg.parkState = 0 ∧ State.reset.pkg.parkBusy = false ∧ dieRemoving State.reset 0 = false ∧ dieBusy State.reset 0 = false ∧ dieBusy core 0 = true
      ∧ State.reset.pkg.attgo = 0 ∧ isCore 0 = true ∧ unitDie 0 = 0 ∧ 228 ∈ (List.range 12).map (· + 192) ++ [228])
    ∧ (let p := (after .parkDieW State.reset).pkg
       p.parkBusy = true ∧ p.parkReq = BitVec.ofNat 2 1 ∧ p.parkState = 0)
    ∧ (let p := (after .unpark (after .parkComplete (after .parkDieW State.reset))).pkg
       p.parkBusy = true ∧ p.parkReq = 0 ∧ p.parkState = BitVec.ofNat 2 1)
    ∧ (after .attestationRequest State.reset).pkg.attgo = 1 := by decide +kernel

theorem wit_RegisterWrites : regPlace (0x1C000 / 8 * 8) = .nothing ∧ (0xFFFF : Word) &&& 0xFFFF0000000000FF#64 ≠ 0 ∧ (0xFF00 : Word) &&& 0xFFFF0000000000FF#64 = 0 := by
  decide +kernel

/-- Slot 1 of core 0 active, with every quad at its granted point, and the global step published. -/
def calm : State :=
  after .gstepPublish ((upTo 48).foldl (fun t q => t.modQuad q fun x => { x with point := grantedPoint t q }) { core with agenda := [] })

theorem wit_StepRunsTheInstructionAtThePc :
    core.agenda = [.issue core.cur] ∧ ({ core with agenda := [.event .wfi] } : State).agenda = .event .wfi :: []
    ∧ (let b := ({ core with agenda := [] } : State).issuing core.cur
       oks (fetch b b.me.pc.toNat 4) (fun r => r.2 == 0x13 && (decode32? r.2).isSome && !startsTcw r.2) = true ∧ b.me.pc.toNat % 4 = 0 ∧ b.cur.slot ≠ 0
       ∧ oks (locate b b.me.pc.toNat 4 .fetch false) (fun r => !r.2.win && (r.1.poisonIn r.2.pa 4).isNone) = true)
    ∧ (let b := (State.reset.withFetchWord 32 0).issuing { unit := 0, slot := 1 }
       oks (fetch b b.me.pc.toNat 4) (fun r => r.2 == 0 && (decode32? r.2).isNone && !startsTcw r.2) = true ∧ isApp b.cur.unit = false)
    ∧ (let b := lead.issuing lead.cur
       b.cur.slot = 0 ∧ isCore b.cur.unit = true ∧ b.me.pc.toNat % 32 = 0
         ∧ oks (fetch b b.me.pc.toNat 4) (fun r => startsTcw r.2 && oks (fetch r.1 b.me.pc.toNat 32) fun q => q.2 == 0x727F) = true)
    ∧ (let b := ((core.put 0x10000 4 0x727F).issuing core.cur)
       oks (fetch b b.me.pc.toNat 4) (fun r => startsTcw r.2) = true ∧ b.cur.slot ≠ 0)
    ∧ autoEvent calm = none ∧ nextHart calm = some core.cur := by decide +kernel

theorem wit_DecodeOfEncode : encode (.mbxack 10) = some [0x7B, 0x10, 0x05, 0x02] ∧ (encode (.tfence ⟨0x727F⟩)).isSome = true := by decide +kernel

theorem wit_EncodeOfDecode :
    decodeBytes [0x7B, 0x10, 0x05, 0x02, 0x13] = some (.mbxack 10, [0x13]) ∧ (decodeBytes [0, 0, 0, 0]).isSome = true := by decide +kernel

theorem wit_MemoryStaysCanonical : core.Inv ∧ nexts (step core) (fun t => decide t.Inv) = true := by decide +kernel

theorem wit_UnitRestrictions :
    isUcore upd.cur.unit = true ∧ upd.ready ∧ upd.me.free 5 ∧ isCore cmc.cur.unit = false ∧ isUcore cmc.cur.unit = false ∧ isCmc core.cur.unit = false ∧ isApp core.cur.unit = false ∧ core.cur.slot ≠ 7 ∧ core.cur.slot ≠ 0
      ∧ (let s := State.reset.modHart 228 0 fun h => { h with active := true, priv := 0 }
         let t := ({ s with cur := { unit := 228, slot := 0 } } : State)
         isApp t.cur.unit = true ∧ ¬ 1 ≤ t.mode ∧ isCore t.cur.unit = false ∧ isUcore t.cur.unit = false ∧ isCmc t.cur.unit = false) := by decide +kernel

/-- A copy inside the core store: its engine is the core's own. -/
def copyingOwn : State := words (rx core [(5, 0x10200)]) 0x10200 [coreWindow + 0x1000, coreWindow + 0x2000, 0x100000200, 0, 0, coreWindow, 1, 0]

theorem wit_EngineSteps_more :
    (let s := after (.bcopy 7 5) copyingOwn
     let q := after (.waybillArrival 0 0) s
     (findOp s 0 0).any (fun o => decide (o.phase = .sent ∧ 18 ≤ engineOf s 0 o)) = true
       ∧ (findOp q 0 0).any (fun o => decide (o.phase = .queued ∧ engineNext q (engineOf q 0 o) = some (0, o.serial) ∧ 18 ≤ engineOf q 0 o
           ∧ engineLoad q (engineOf q 0 o) = 0 ∧ (q.unit 0).mmrev ≠ 2)) = true
       ∧ (let c := q.modMe fun h => { h with pipe := .cancel 0 none }
          (c.hart 0 1).pipe = .cancel 0 none ∧ (findOp c 0 0).any (fun o => decide (o.phase = .queued)) = true
            ∧ nexts (exec (.cancelRequest 0 1) c) (fun t => t.mine.ops == []) = true
            ∧ (findOp (after (.engineStart 0 0) c) 0 0).any (fun o => decide (o.phase = .started)) = true))
    ∧ (let s := (after (.engineStart 0 0) (after (.waybillArrival 0 0) gathered)).modUnit 0 fun x => { x with stopped := true }
       (findOp s 0 0).any (fun o => decide (o.gq = true ∧ o.phase = .started)
         && ((s.modMe fun h => { h with held := [(8 + o.gtag, 5)] }).hart 0 o.slot).held.any fun p => p.1 == 8 + o.gtag) = true) := by decide +kernel

theorem wit_TaskInstructionsComplete_more :
    (let s := tasking
     holdsLease s = false ∧ oks (needCounter (s.begun 4) 0x60100) (fun t => decide (holdsLease t = false)
       && oks (atomicAt t 0x60100 16 .both false fun _ => none) fun q =>
         oks (suspend (taskSlot.begun 4) none (w64 (q.2 / 2 ^ 64))) fun r =>
           oks (atomicAt r.1 0x60100 16 .both false fun v => some (v % 2 ^ 64 + put r.1.me.cont.toNat 64)) fun _ => true) = true
       ∧ oks (suspend (taskSlot.begun 4) (some 0) 0) (fun _ => true) = true)
    ∧ (let s := { (system lead).modArray 0 0 fun m => { m with holder := some 0 } with cur := { unit := 0, slot := 0 } }
       holdsLease s = true ∧ taskDrained s ∧ s.onCore = true ∧ oks (needCounter (s.begun 4) 0x60100) (fun t => decide (taskDrained t ∧ holdsLease t = true)) = true) := by
  decide +kernel

theorem wit_PairInstructionsComplete_more :
    (let s := rx cmc [(5, 3), (6, 0x10200)]
     pairLocked s (lineOf 0x10200) = false ∧ ((fget (s.unit (ucoreOf 0 0)).windows 3 UWindow.reset).grows
       { valid := true, wr := true, rd := true, job := 0, base := 0, limit := 0x1000 }) = true)
    ∧ (let sl := sliceOf (pairRun 0 []) 0x104
       let p : PairRes := { unit := 204, slice := sl, n := 1, granted := false }
       let s := (pairRun 0 []).modStation (sl / 8) fun m => { m with pairs := [p] }
       (s.hart 204 0).pipe = .pair 0 [0x104, 0x106] [] [(0x10400, 7), (0x10600, 8)] ∧ (pairAsked s 204).find? (fun p => !p.granted) = some p
         ∧ ((s.station (sl / 8)).pairs.filter fun q => q.slice == sl).find? (fun q => !q.granted) = some p
         ∧ ((((s.station (sl / 8)).pairs.filter fun q => q.slice == sl).filter fun q => q.granted).map fun q => q.n).sum + p.n ≤ 136
         ∧ ((pairNeeds s [0x104, 0x106]).find? fun q => decide (sl < q.1)).isSome = true ∧ ((pairNeeds s [0x104]).find? fun q => decide (sl < q.1)) = none)
    ∧ ([0x104, 0x106].find? fun l => !([0x104] : List Nat).contains l) = some 0x106
    ∧ (∀ p < 8, ((pairRun 2 [0x104, 0x106]).port p).inq = [])
    ∧ (let s := (words pairing 0x10200 [0x10400, 8, 0x10600, 8])
       s.me.poison.contains (48 + 1) = false)
    ∧ (let s := pairRun 1 []
       lineOf (redirectPa s (linePa 0x104)) = 0x104 ∧ pairLocked s 0x104 = false)
    ∧ (let s := pairRun 2 [0x104, 0x106]
       s.Inv ∧ (([(0x10400, 7), (0x10600, 8)] : List (Nat × Byte)).map fun p => s.cell p.1).Nodup
         ∧ nexts (exec (.pairCommit 204) s) (fun t => t.get 0x10400 1 == 7 && t.get 0x10600 1 == 8) = true) := by decide +kernel

/-- Job 1 with a stamped range on the first MiB, its domain 0. -/
def sweeping : State :=
  (words (words ((system core).put 0x41040 64 (descBits { placeRange with s := true, x := false, job := 1 })) 0x41000 [0x0101000000000000])
    0x30010 [0x41000]).modPkg fun p => { p with sweep := fset p.sweep 0 { Sweep.reset with run := true } }

theorem wit_GlobalStepSteps_more : (nextStamped sweeping 0 0).isSome = true ∧ pairLocked sweeping 0 = false := by decide +kernel

theorem wit_RangeSteps_more :
    (let o := order .switched 0x90000
     let s := ordered o
     orderDrained s o false = true ∧ (s.station 0).orders[0]? = some o ∧ pairLocked s (lineOf o.cword) = false)
    ∧ (let o := { order .switched 0x90000 with form := .offload, entry := { (order .copy 0).entry with state := stOutbound } }
       let s := ordered o
       lookup? s 0 (s.unit 0).job 0x80100 = some o.entry ∧ o.entry.w = true ∧ orderOf s .offload o.entry = some (0, 0, o) ∧ pairLocked s (lineOf o.cword) = false) := by decide +kernel

theorem wit_VectorUnitSteps_hold :
    let o := { unitOp loadForm 2 with xa := 0x10400 }
    let s := ((inUnit o).modQuad 0 fun x => { x with vunit := [] }).modHart 204 0 fun h => { h with pipe := .pair 2 [0x104] [0x104] [] }
    (match vRun loadForm.2 o (0, 0, 0) ((o.leave s).advance 4).noPrefix with
     | .error (.hold _) => true
     | _ => false) = true := by decide +kernel

/-- The trap of a removed job's vector instruction, and an access of one that finds no request free. -/
theorem wit_VectorUnitSteps_more :
    (let s := { inUnit (unitOp addForm 2) with removals := [((core.unit 0).job.toNat,
        { ncause := 1, writer := false, incomplete := false, held := [0], todo := [0], cores := 1, ucores := 0, dropped := 0, sealed := false, reg := false, pend := [] })] }
     removing s (s.unit 0).job = true)
    ∧ (let o := { unitOp loadForm 2 with xa := 0x10400 }
       let s := ((inUnit o).modQuad 0 fun x => { x with vunit := [] }).modUnit 0 fun x => { x with wt := (List.range 48).map fun i =>
         { slot := 2, va := 256 * i, pa := 256 * i, n := 8, step := 0, tag := i } }
       (match vRun loadForm.2 o (0, 0, 0) ((o.leave s).advance 4).noPrefix with
        | .error .request => true
        | _ => false) = true) := by decide +kernel

theorem wit_TileCommandsAreCaptured_more :
    (leading [] none).mine.fe.held < 40
      ∧ (let s := (leading [] none).modMine fun x => { x with fe := { x.fe with replay := List.replicate 40 (queuedWord tzeroW) } }
         s.mine.fe.inq.length < 8 ∧ 40 ≤ s.mine.fe.held) := by decide +kernel

theorem wit_TileSteps_more :
    (let s := started.modArray 0 0 fun m => { m with running := none }
     issuing s 0 0 = false ∧ entry0 s (fun x => decide (x.phase = .started ∧ x.id = 0)) = true)
    ∧ entry0 (renamed tmovW none) (fun x => ((renamed tmovW none).fe 0).older 0 == [] && decide (x.id = 0)) = true
    ∧ (let s := after (.tileComplete 0 0) (renamed (tcw 4 0 0) none)
       (s.fe 0).rob.any (fun x => decide (x.phase = .complete ∧ x.fault = none ∧ x.i = .tfence (tcw 4 0 0))) = true) := by decide +kernel

theorem wit_TileEnds_more :
    (let s := after (.tileRetire 0) (after (.tileComplete 0 0) (issued tstW none))
     tileMayWrite s 0 = true ∧ (s.fe 0).writing.any (fun w => (movedRuns s w).all (fun p => !pairLocked s (lineOf p.2.1)) && w.bytes.all (fun p => decide (2 ^ 52 ≤ p.1 ∨ redirectPa s p.1 = p.1)) && w.spans.all fun p => !p.2.2.2) = true)
    ∧ (let s := (renamed (tcw 0 0x20 0) none).modFe 0 fun fe => { fe with recorded := some (cIllegal, 5), rob := [] }
       (s.fe 0).recorded = some (cIllegal, 5) ∧ (s.unit 0).stopped = false ∧ (s.hart 0 0).restored = false ∧ slot0Free s 0 = true) := by decide +kernel

theorem wit_MatrixSteps_more :
    (let s := renamed tmmaW none
     leaseChoice ((s.quad 0).array 0).prev (leaseTakers s 0 0) = some 0)
    ∧ (let s := after (.tileRename 0) (after (.leaseGrant 0 0) (runs (leading [tmmaW, tmmaW] none) [.tileRename 0, .tileRename 0]))
       ((s.quad 0).array 1).holder = none ∧ ((s.quad 0).array 0).holder ≠ none ∧ (leaseChoice ((s.quad 0).array 1).prev (leaseTakers s 0 1)).isSome = true)
    ∧ (let s := leased.modArray 0 0 fun m => { m with left := 0 }
       waiters (s.modArray 0 0 fun m => { m with holder := none, prev := 0 }) 0 = [0] ∧ ((s.quad 0).array 0).running = none ∧ switchedOut s (4 * 0 + 0) = false)
    ∧ (let s := (leased.modCluster 0 fun k => { k with rung0 := 1, active := [] }).modArray 0 1 fun m => { m with running := some (1, 0) }
       slewAllows s 0 (arrayNo 0 0) = false ∧ (s.cluster 0).heldStarts.contains (arrayNo 0 0) = false ∧ (s.cluster 0).heldNew.contains (arrayNo 0 0) = false)
    ∧ ((leased.modCluster 0 fun k => { k with slewNext := some 0x18888 }).cluster 0).slewNext = some 0x18888
    ∧ (let s := (renamed tmmaW none).modArray 0 0 fun m => { m with behind := true }
       ((s.quad 0).array 1).holder = none ∧ ((s.quad 0).array 0).behind = true ∧ (leaseChoice ((s.quad 0).array 1).prev (leaseTakers s 0 1)).isSome = true) := by
  decide +kernel

theorem wit_ConvoySteps_more :
    (let s := issued tldmW none
     entry0 s (fun x => decide (findPos (fun v : Convoy => !v.ended && (convoyOf 0 x).sameKey v) s.convoys = none)
       && decide ((s.convoys.filter fun v => !v.ended && leaderOf s v.pa == leaderOf s (convoyOf 0 x).pa).length < 4)) = true)
    ∧ (let s := { issued tldmW none with convoys := convoy.convoys.map fun c => { c with open_ := false } }
       entry0 s (fun x => decide (findPos (fun v : Convoy => !v.ended && (convoyOf 0 x).sameKey v) s.convoys = some 0 ∧ x.joined = false)) = true)
    ∧ (let s := { sentLine with convoys := sentLine.convoys.map fun c => { c with late := [(64, [512, 513]), (65, [512])] } }
       s.convoys.any (fun c => decide (c.open_ = false ∧ c.ended = false ∧ c.lines.length ≤ c.sent)) = true ∧ pairLocked s 512 = false)
    ∧ entry0 sentLine (fun x => decide (linePoison x 512 0 = none ∧ (linePoison x 512 15).isSome = true)) = true := by decide +kernel

theorem wit_MemorySystemSteps_more :
    (let s := after (.homeRdcRead 1 0x200) (after (.homeRead 5 0x200) core)
     let x := (s.l2Fill 0x200 false).dirOf 0x200
     x.remote = true ∧ isCore 5 = true ∧ unitDie 5 = 0 ∧ x.quads.getLsbD (dieQuad (quadOf 5)) = true ∧ core.rdcFind 1 0x200 = none) := by decide +kernel

theorem wit_RemovalSteps_more :
    let s := cmc.modMe fun h => { h with pipe := .broadcast 0 1 none none [] }
    s.me.pipe = .broadcast 0 1 none none [] ∧ isCore 0 = true
       ∧ recordJob (nthWord [] 0 :: []) = 0 ∧ recordJob [0x100000000] ≠ 0 := by decide +kernel

/-- The queues of a removed job stay for the record of its unit, or are dropped. -/
theorem wit_MessageSteps_removed :
    (let s := { sent with removals := [((sent.unit 0).job.toNat, removal [0] false)] }
     (s.ni 0).reqQ.all (fun m => removing s m.job && recordOwed s 0 m.job && performed s 0 m.slot) = true)
    ∧ (let s := { sent with removals := [((sent.unit 0).job.toNat, removal [] false)] }
       (s.ni 0).reqQ.all (fun m => removing s m.job && !recordOwed s 0 m.job) = true)
    ∧ flown.mesh.all (fun f => removing { flown with removals := [(f.msg.job.toNat, removal [] false)] } f.msg.job) = true := by decide +kernel

/-- A double fault of a CMC with no job resets it at once; with a job of its cluster it stays stopped until the seal. -/
theorem test_double_fault :
    nexts (exec (.doubleFault 0) State.reset) (fun t => !(t.unit 192).halted && (t.hart 192 0).priv == 3) = true
    ∧ nexts (exec (.doubleFault 0) (State.reset.modUnit 0 fun x => { x with job := 1 })) (fun t => (t.unit 192).halted && removing t 1) = true := by
  decide +kernel

theorem wit_PowerSteps_more :
    (let s := core.modPkg fun p => { p with parkState := 1 }
     s.pkg.parkBusy = false ∧ s.pkg.parkState ≠ 0 ∧ dieRemoving s (s.pkg.parkState.toNat - 1) = false)
    ∧ (let s := removingJob [0] true (core.modPkg fun p => { p with parkState := 1 })
       dieRemoving s (s.pkg.parkState.toNat - 1) = true)
    ∧ (after .parkDieE (after .parkDieW State.reset)).pkg.parkReq = 1
    ∧ core.l1Hit 0 0x10100 = none ∧ ((core.l1Fill 0 0x10100).l1Hit 0 0x10100).any (fun y => y.copy.isNone) = true
    ∧ ((core.l1Fill 48 0x10100).l1Hit 48 0x10100).any (fun y => y.copy.isSome) = true ∧ isCore 48 = true
    ∧ (State.reset.modPkg fun p => { p with headroom := false }).pkg.headroom = false := by decide +kernel

theorem wit_StepRunsTheInstructionAtThePc_more :
    (let s : State := { core with agenda := [] }
     candidate s core.cur.unit core.cur.slot = true ∧ candidate s 5 1 = false ∧ isApp core.cur.unit = false)
    ∧ nextHart { State.reset with agenda := [] } = none
    ∧ (let b := ((lead.put 0x10018 8 0x0000001300000013).modMe fun h => { h with pc := 0x10018 }).issuing lead.cur
       oks (fetch (b.put 0x10020 32 0x727F) 0x10018 4) (fun r => decide (r.2 = 0x13 ∧ skipPadding r.1 0x10018 = some 0x10020)
         && oks (fetch (r.1.modMe fun h => h.skipped 0x10020 2) 0x10020 32) fun q => q.2 == 0x727F) = true)
    ∧ (let b := core.issuing core.cur
       oks (fetch b 0x10000 4) (fun r => (icFind r.1.mine (0x10000 / 256)).any fun l => oks (needCleanCode l 0x10000 4) (fun _ => true)
         && oks (locate r.1 0x10000 4 .fetch false) fun p => !p.2.win) = true)
    ∧ (let b := (svc.modMe fun h => { h with pc := w64 (coreWindow + residentBase) }).issuing svc.cur
       oks (locate b (coreWindow + residentBase) 4 .fetch false) (fun p => p.2.win && oks (needCleanHome p.1 p.2 4) fun _ => true) = true) := by decide +kernel

/-- Application core 0 in M-mode at a word of its memory. -/
def app (w : Nat) : State :=
  let s := (core.put 0x10000 4 w).modHart 228 0 fun h => { h with active := true, priv := 3, pc := w64 0x10000 }
  ({ s with agenda := [] }.modUnit 228 fun x => { x with ranges := [placeRange] }).issuing { unit := 228, slot := 0 }

theorem wit_StepRunsTheInstructionAtThePc_app :
    (let b := app 0x0085
     isApp b.cur.unit = true ∧ b.me.pipe = .idle ∧ takenIntr b 228 0 = none ∧ oks (fetch b 0x10000 2) (fun r => r.2 % 4 != 3) = true)
    ∧ (let b := app 0x13
       oks (fetch b 0x10000 2) (fun r => r.2 % 4 == 3 && oks (fetch r.1 0x10002 2) fun q => (decode32? (r.2 + 2 ^ 16 * q.2)).isSome) = true)
    ∧ (let b := app 0x53
       oks (fetch b 0x10000 2) (fun r => r.2 % 4 == 3 && oks (fetch r.1 0x10002 2) fun q => (decode32? (r.2 + 2 ^ 16 * q.2)).isNone) = true)
    ∧ (let b := (app 0x13).modMe fun h => { h with pv := { h.pv with mstatus := 0x8, mie := 0x800 } }
       (takenIntr (b.modIfile 0 fun x => { x with pend := [3], en := [3], delivery := true }) 228 0).isSome = true) := by decide +kernel

theorem wit_SystemCallsTrap_prefix :
    (let s := vectoring 2 (some 5) core
     s.me.pp = true ∧ s.formatless .ebreak = true
       ∧ nexts (exec .ebreak s) (fun t => t.me.hxtval == 5 && t.me.park == 9 && !t.me.pp && t.me.pfx == 0) = true) := by decide +kernel

theorem wit_CsrNumbers_coordinates :
    (core.mine.job = 0 ∧ (core.hart 0 1).active = true ∧ core.cur.slot < 8)
    ∧ (∀ i, i < 6 → (State.reset.hart 0 i).active = false)
    ∧ jobDescPa? core 0 96 = none
    ∧ (let s := system core
       (jobDescPa? s 1 96).any (fun pa => decide (s.get (pa + 7) 1 = 0)) = true ∧ logicalStation s 1 0 (some 7) = 7 ∧ logicalStation s 1 0 none = 0
         ∧ (∀ i, i < 48 → logicalStation s 1 5 none = 5)) := by decide +kernel

theorem wit_AccessEffects_atomic :
    let s := core
    oks (locate s 0x10100 8 .both false) (fun r => decide (r.2.dev = false ∧ r.2.win = false ∧ requestOk r.1 r.2.win ∧ mmrevOk s ∧ memWf r.1.mem = true
      ∧ (r.1.homePeek (lineOf r.2.pa)).poisonIn r.2.pa 8 = none ∧ r.2.pa % 128 + 8 ≤ 128)) = true := by decide +kernel

/-- The stream of x28 with its element overtaken; and slot 0's with a tile store to its bytes still to be written. -/
def overtaken : State := streaming.modMe fun h => h.setGen 0 { h.gen 0 with ahead := (h.gen 0).ahead.map fun e => { e with stale := true } }
theorem wit_StreamRegisters_more :
    (let s := overtaken
     let g := s.me.gen 0
     g.dir = false ∧ g.ahead.any (fun e => e.stale) = true ∧ oks (loadAt s g.next.toNat (2 ^ g.ew.toNat)) (fun _ => true) = true)
    ∧ (let s := (after (.tileRetire 0) (after (.tileComplete 0 0) (issued tstW none))).modMe fun h => h.setGen 0
          { StreamGen.reset with bound := true, count := 1, ew := 3, next := 0x20000, stride := 8,
                                 ahead := [{ value := 7, fault := none, line := none, pa := 0x20000, stale := false }] }
       isCore s.cur.unit = true ∧ s.cur.slot = 0 ∧ tileHolds s s.cur.unit 0x20000 (0x20000 + 7) = true)
    ∧ (let s := streaming
       let f := s.me.gen 2
       streamWaits s f.next.toNat (2 ^ f.ew.toNat) = false) := by decide +kernel

theorem wit_QueueInstructionsComplete_ports :
    (let s := rx core [(5, 0x82), (6, 0x8F), (7, 0x81), (8, 0x83), (9, 0x90)]
     s.ready ∧ s.me.reg 5 = BitVec.ofNat 64 (128 + 2) ∧ s.me.reg 6 = BitVec.ofNat 64 (128 + 15) ∧ s.me.reg 7 = BitVec.ofNat 64 (128 + 1) ∧ s.cur.slot ≠ 0
       ∧ s.me.reg 8 = BitVec.ofNat 64 (128 + 3) ∧ s.me.reg 9 = BitVec.ofNat 64 (128 + 16)
       ∧ ∀ m, m < 8 → m ≠ 1 → ¬(s.me.qValid m = true ∧ s.me.qPort m = 2))
    ∧ (let s := rx lead [(7, 0x81)]
       s.ready ∧ s.cur.slot = 0 ∧ s.me.reg 7 = BitVec.ofNat 64 (128 + 1) ∧ ∀ m, m < 8 → m ≠ 1 → ¬(s.me.qValid m = true ∧ s.me.qPort m = 1))
    ∧ (queued.me.qValid 2 = true ∧ queued.me.qPort 2 = 2) := by decide +kernel

theorem wit_BlockInstructionsComplete_lines :
    (let s := rx core [(5, 0x10200), (6, 0x10180), (7, 0x200)]
     spanLines 0x10180 0x200 = [0x101, 0x102, 0x103]
       ∧ oks (lockPlaces (s.begun 4) 0x10180 [0x101, 0x102, 0x103]) (fun r =>
          decide (requestOk r.1 (r.2.all fun p => (icFind r.1.mine p.1).isSome) ∧ (lockLines r.1 r.2).me.free 5)) = true
       ∧ nexts (exec (.iclock 5 6 7) s) (fun t => t.me.reg 5 == 3) = true)
    ∧ (let s := runs (rx core [(6, 0x10000), (7, 1), (8, 0x14000), (9, 0x18000)]) [.iclock 5 6 7, .iclock 5 8 7]
       (s.mine.icache.filter fun y => y.locked && y.line % 64 == 0x180 % 64).length = 2
         ∧ nexts (exec (.iclock 5 9 7) s) (fun t => t.me.reg 5 == 0) = true) := by decide +kernel

/-- A box that lies outside its tensor, whose completion the core owes. -/
def owing : State :=
  copied.modUnit 0 fun x => { x with ops := x.ops.map fun o => { o with form := .clipped, phase := .own } }
theorem wit_EngineSteps_own :
    (ownReport owing 0 0).isSome = true
    ∧ nexts (exec (.engineComplete 0 0) owing) (fun t => t.mine.ops == [] && t.get (storeBase 0) 8 == 1) = true
    ∧ (findOp owing 0 0).isNone = true ∧ ownReport copied 0 0 = none := by decide +kernel

theorem wit_BarrierInstructionsComplete_back :
    let s := core.modMe fun h => { h with park := 3, await := 32, waitOn := some 255 }
    s.ready ∧ s.me.park = 3 ∧ s.me.await.getLsbD 5 = true ∧ s.me.waitOn ≠ none := by decide +kernel

theorem wit_TaskInstructionsComplete_waits :
    (let s := tasking
     oks (loadWords (s.begun 4) 0x60000 8) (fun r => decide (releaseWaits r.1 r.1.cur.unit 0x60000 r.2 0 = false
       ∧ onChip r.1 (hintKey r.1 r.1.cur.unit r.2) (contPrio r.2) < 256)
       && (reserve r.1 (hintKey r.1 0 r.2) (contPrio r.2) (contJob r.2)).any fun q => !releaseWaits q.1 0 0x60000 r.2 q.2) = true)
    ∧ oks (suspend (taskSlot.begun 4) none 0) (fun r => !releaseWaits r.1 r.1.cur.unit r.1.me.cont.toNat r.2 1) = true := by decide +kernel

theorem wit_TaskSteps_waits :
    joinWaits tasking 0 0 bentry = false ∧ leaveWaits (tasking.setQueueOf 0 [bentry]) 0 0 bentry = false
      ∧ leaveWaits (tasking.setQueueOf 1 [bentry]) 0 1 bentry = false := by decide +kernel

theorem wit_GlobalStepSteps_sweep :
    (fget sweeping.pkg.sweep 0 Sweep.reset).run = true ∧ (nextStamped sweeping 0 0).any (fun pa => !sweepHeld sweeping 0 pa) = true := by decide +kernel

theorem wit_RangeSteps_locks :
    let o := order .copy 0x80000
    let s := ordered o
    pairLocked s (lineOf o.entry.desc) = false ∧ cancelWaits s o = false := by decide +kernel

/-- Core 0's box with its first line in a pair buffer, and with it poisoned; a load of lines that are in L1; a load beyond it that found no request. -/
theorem wit_TileSteps_box :
    (let s := (issued tmmadW none).modHart 204 0 fun h => { h with pipe := .pair 2 [0x200] [0x200] [] }
     entry0 s (fun x => (heldPieces s x).any (fun p => lineOf p.p.pa == 0x200)
       && !(heldPieces s x).all ((heldPieces s x).foldl (fetchRow 0) (s, x)).2.hasRow) = true)
    ∧ (let s := (issued tmmadW none).addPoison (0x20000 / 64)
       entry0 s (fun x => let z := (heldPieces s x).foldl (fetchRow 0) (s, x)
         (heldPieces s x).all z.2.hasRow && ((heldPieces s x).find? fun p => z.2.arrived.contains (p.off, true)).isSome) = true)
    ∧ (let s := (issued tldW none).modRob 0 0 fun y => { y with request := false }
       entry0 s (fun x => piecesFar s 0 x (heldPieces s x) && requestFree s 0 (24, 0) (24, 0)) = true) := by decide +kernel

theorem wit_TileEnds_go :
    (let s := after (.tileRetire 0) (after (.tileComplete 0 0) (issued tstW none))
     (s.fe 0).writing.any (fun w => writeMayGo s 0 w (movedRuns s w)) = true)
    ∧ entry0 (issued tmmadW none) (fun x => (heldPieces (issued tmmadW none) x).any fun p => !x.hasRow p) = true := by decide +kernel

/-- The last instruction of a lease asks to hold it, and no other core waits. -/
theorem wit_MatrixSteps_hold :
    let s := (after (.leaseGrant 0 0) (renamed (tcw 1 0 (3 * 2 ^ 24 + 1 * 2 ^ 28 + 2 * 2 ^ 32 + 2 * 2 ^ 40 + 2 * 2 ^ 44 + 2 ^ 52 + 2 ^ 53 + 2 ^ 58)) none)).modArray 0 0
      fun m => { m with left := 1 }
    entry0 s (fun x => Tcw.hold ⟨x.e.tcw⟩ && matReady (s.fe 0) x) = true ∧ ((s.quad 0).array 0).extended = false ∧ (∀ k ∈ waiters s 0, k = 0)
      ∧ slewAllows s 0 (arrayNo 0 0) = true := by decide +kernel

theorem wit_MemorySystemSteps_evict :
    let s := State.reset.modPkg fun p => { p with capwin := [(0, 0x8000000000000000)] }
    let x : L2Line := { L2Line.fresh (2 * 2 ^ 48 / 256) 0 with dirty := true }
    x.dirty = true ∧ capacityUp s (linePa x.line) = false ∧ capacityUp s (linePa 0x100) = true
      ∧ capacityUp (s.modPort 0 fun p => { p with linkup := true, mode := 2 }) (linePa x.line) = true := by decide +kernel

/-- A seal whose writes are refused, and one that must wait for a line of the dump in a pair buffer. -/
theorem wit_RemovalSteps_seal :
    (sealDump (removingJob [] true cmc) 1).isSome = true
    ∧ (sealDump ((removingJob [] true (system cmc)).modHart 204 0 fun h => { h with pipe := .pair 2 [0] [0] [] }) 1).isNone = true := by decide +kernel
theorem wit_RemovalSteps_flush : let s := removingJob [0] true (State.reset.modUnit 0 fun x => { x with job := 1 })
    flushDump s 1 = s := by decide +kernel

theorem wit_PortSteps_aperture :
    ((linked true).port 0).linkup = true ∧ ((linked true).port 0).inq = [] ∧ (apertureFile 0x00FFFE0000001000).isSome = true ∧ apertureFile 0x10000 = none
    ∧ nexts (exec (.inboundRead 0 0x00FFFE0000001000 4 7) (linked true)) (fun t => t.pendRecords == (linked true).pendRecords) = true := by decide +kernel

/-! ### Terms that are no instructions -/

theorem smoke_words :
    (Instr.vacantEncoding 0x100000000 false).wellFormed = false ∧ (Instr.rvAluOrBranch (.shift .sraiw 1 2 32)).wellFormed = false
      ∧ (Instr.vadd 1 2 3 ⟨false, 1⟩).wellFormed = false := by decide +kernel

theorem smoke_numbers :
    (Instr.streamFetch 0 8 0).wellFormed = false ∧ (Instr.streamFetch 192 1 0).wellFormed = false ∧ (Instr.engineStart 244 0).wellFormed = false
      ∧ (Instr.handlerStart 192).wellFormed = false ∧ (Instr.barrierRelease 12 0).wellFormed = false ∧ (Instr.vectorUnitEnter 48).wellFormed = false
      ∧ (Instr.orderSwitch 6 0).wellFormed = false ∧ (Instr.rdcInvalidateApply 2).wellFormed = false := by decide +kernel

theorem smoke_numbers_of_inputs (v : Word) : (Instr.portTrain 8).wellFormed = false ∧ (Instr.gstepWrite 8 v).wellFormed = false := ⟨rfl, rfl⟩

/-- Tile command words: another length, another class, a held-zero field, QEN, AUX. -/
theorem smoke_tcw :
    (Instr.tfence ⟨0x427F⟩).wellFormed = false ∧ (Instr.tfence ⟨0x707F⟩).wellFormed = false ∧ (Instr.tfence ⟨0x0100727F⟩).wellFormed = false
      ∧ (Instr.tmmaw (tcw 1 2 (2 ^ 64))).wellFormed = false
      ∧ (Instr.tred (tcw 2 10 (2 ^ 173))).wellFormed = false ∧ (Instr.tredQueue (tcw 2 10 0)).wellFormed = false
      ∧ (Instr.eset (tcw 4 1 0)).wellFormed = false ∧ (Instr.esetImm (tcw 4 1 (2 ^ 74))).wellFormed = false
      ∧ (Instr.skget (tcw 4 3 0)).wellFormed = false := by decide +kernel

/-- WIDE, ROWS, COLS and HALO of a chapter-6 form, and FLAGS, GEOM and COMPL of a chapter-7 form, are field values, no matter of decoding (06 R167, R478,
07 R198): the fault of each names the first bit of its field. -/
theorem test_field_values :
    decodeTcw 0x1000000000727F = .tfence ⟨0x1000000000727F⟩
      ∧ decodeTcw (tcw 1 2 (9 * 2 ^ 148)).raw = .tmmaw (tcw 1 2 (9 * 2 ^ 148))
      ∧ renameFault lead 0 (.tfence ⟨0x1000000000727F⟩) ⟨0x1000000000727F⟩ (queuedWord ⟨0x1000000000727F⟩) = some (cIllegal, 52)
      ∧ ([(.tld (tcw 0 0 (73 * 2 ^ 128)), tcw 0 0 (73 * 2 ^ 128), 128), (.tld (tcw 0 0 (4 * 2 ^ 128 + 145 * 2 ^ 136)), tcw 0 0 (4 * 2 ^ 128 + 145 * 2 ^ 136), 136),
          (.tldh (tcw 0 2 (5 * 2 ^ 144)), tcw 0 2 (5 * 2 ^ 144), 144)] : List (Instr × Tcw × Word)).all (fun z =>
        decide (decodeTcw z.2.1.raw = z.1 ∧ (renameFault lead 0 z.1 z.2.1 (queuedWord z.2.1)).map (·.1) = some cIllegal)
          && (badFields lead 0 z.1 z.2.1 (queuedWord z.2.1)).contains z.2.2.toNat) = true := by decide +kernel

/-! ### Words of the spec's encoding tables -/

/-- Words of the RISC-V base (03 R91): add x3, x1, x2; sub; addi x1, x2, -1; sraiw x1, x2, 31; beq x1, x2, +8; jal x1, +2048; lui x5, 0x12345; sh1add x1, x2, x3 (Zba); clz x1, x2 (Zbb); czero.eqz x1, x2, x3 (Zicond); mulw x1, x2, x3. -/
theorem test_decode_base :
    decode32? 0b00000000001000001000000110110011 = some (.rvAluOrBranch (.alu .add 3 1 2))
      ∧ decode32? 0b01000000001000001000000110110011 = some (.rvAluOrBranch (.alu .sub 3 1 2))
      ∧ decode32? 0b11111111111100010000000010010011 = some (.rvAluOrBranch (.aluI .addi 1 2 0xFFF))
      ∧ decode32? 0b01000001111100010101000010011011 = some (.rvAluOrBranch (.shift .sraiw 1 2 31))
      ∧ decode32? 0b00000000001000001000010001100011 = some (.rvAluOrBranch (.branch .eq 1 2 4))
      ∧ decode32? 0b00000000000100000000000011101111 = some (.rvAluOrBranch (.jal 1 1024))
      ∧ decode32? 0b00010010001101000101001010110111 = some (.rvAluOrBranch (.lui 5 0x12345))
      ∧ decode32? 0b00100000001100010010000010110011 = some (.rvAluOrBranch (.alu .sh1add 1 2 3))
      ∧ decode32? 0b01100000000000010001000010010011 = some (.rvAluOrBranch (.unary .clz 1 2))
      ∧ decode32? 0b00001110001100010101000010110011 = some (.rvAluOrBranch (.alu .czeroEqz 1 2 3))
      ∧ decode32? 0b00000010001100010000000010111011 = some (.rvAluOrBranch (.aluW .mulw 1 2 3)) := by decide +kernel

/-- Words of base memory: lw x5, -4(x6); sd x5, 8(x6); amoadd.d.aqrl x1, x3, (x2); lr.w x1, (x2); sc.d x1, x3, (x2). -/
theorem test_decode_memory :
    decode32? 0b11111111110000110010001010000011 = some (.rvLoad .lw 5 6 0xFFC)
      ∧ decode32? 0b00000000010100110011010000100011 = some (.rvStore .sd 6 5 8)
      ∧ decode32? 0b00000110001100010011000010101111 = some (.rvAmo .add true true true 1 2 3)
      ∧ decode32? 0b00010000000000010010000010101111 = some (.lr false false false 1 2)
      ∧ decode32? 0b00011000001100010011000010101111 = some (.sc true false false 1 2 3) := by decide +kernel

/-- Words of base system: csrrs x5, fflags (1), x6; fence rw, rw; fence.i; ecall; ebreak; wfi; mret. -/
theorem test_decode_system :
    decode32? 0b00000000000100110010001011110011 = some (.csrAccess .rs false 5 6 1)
      ∧ decode32? 0b00000011001100000000000000001111 = some (.fence 0 3 3 0 0)
      ∧ decode32? 0b00000000000000000001000000001111 = some (.fenceI 0 0 0)
      ∧ decode32? 0b00000000000000000000000001110011 = some (.ecall)
      ∧ decode32? 0b00000000000100000000000001110011 = some (.ebreak)
      ∧ decode32? 0b00010000010100000000000001110011 = some (.wfi)
      ∧ decode32? 0b00110000001000000000000001110011 = some (.mret) := by decide +kernel

/-- Words of custom-0, funct3 0 to 3 (Table 3.5): QBIND Q3, x10; QPOP x7, Q3; BMOVE x5, x6, x7; REPB x5, x6, x7; ICUNLK x8, x9; LDNA x5, [x6 - 8]; STBY [x6 + 40], x5; PREF [x6 + 2047]; SGSTAT x5, x29. -/
theorem test_decode_scalar_extensions :
    decode32? 0b00000110000001010000000110001011 = some (.qbind 3 10)
      ∧ decode32? 0b00001010000000011000001110001011 = some (.qpop 7 3)
      ∧ decode32? 0b00010000011100110000001010001011 = some (.bmove 5 6 7)
      ∧ decode32? 0b00010100011100110000001010001011 = some (.repb 5 6 7)
      ∧ decode32? 0b00011000100101000000000000001011 = some (.icunlk 8 9)
      ∧ decode32? 0b11111111100000110001001010001011 = some (.ldna 5 6 0xFF8)
      ∧ decode32? 0b00000010010100110010010000001011 = some (.stby 6 5 40)
      ∧ decode32? 0b01111111111100110011000000001011 = some (.pref 6 0x7FF)
      ∧ decode32? 0b00000100000011101000001010001011 = some (.sgstat 5 1) := by decide +kernel

/-- Words of custom-0, funct3 5 (Table 3.5): BCOPY x5, x6; CTEST x5, x6, x7; SEND x6, x7; RECVP x5, x6; HRET; BWAIT x6, x7; BSTAT x5, x6; WAITA x6. -/
theorem test_decode_copies_messages :
    decode32? 0b00000000000000110101001010001011 = some (.bcopy 5 6)
      ∧ decode32? 0b00001010011100110101001010001011 = some (.ctest 5 6 7)
      ∧ decode32? 0b00100000011100110101000000001011 = some (.send 6 7)
      ∧ decode32? 0b00101000000000110101001010001011 = some (.recvp 5 6)
      ∧ decode32? 0b00101100000000000101000000001011 = some (.hret)
      ∧ decode32? 0b00110010011100110101000000001011 = some (.bwait 6 7)
      ∧ decode32? 0b00111000000000110101001010001011 = some (.bstat 5 6)
      ∧ decode32? 0b00111010000000110101000000001011 = some (.waita 6) := by decide +kernel

/-- Words of custom-0, funct3 6 (Table 3.5): TSPAWN x5, x6; TEXIT; PHASE x6; STEPINC x6; SLD x5, [x6]; SADD [x6], x7. -/
theorem test_decode_tasks_steps :
    decode32? 0b00000000000000110110001010001011 = some (.tspawn 5 6)
      ∧ decode32? 0b00001000000000000110000000001011 = some (.texit)
      ∧ decode32? 0b00001010000000110110000000001011 = some (.phase 6)
      ∧ decode32? 0b00010000000000110110000000001011 = some (.stepinc 6)
      ∧ decode32? 0b00010100000000110110001010001011 = some (.sld 5 6)
      ∧ decode32? 0b00011000011100110110000000001011 = some (.sadd 6 7) := by decide +kernel

/-- Words of custom-1 and custom-2 (Tables 3.7 to 3.9): VADD V1, V2, V3; VADD V1, x2, V3; VCMP M1, V2, V3, uo; VSEL V1, V2, V3, M2; VMVXV V1, x2; VMVVX x5, V3; VLDS V1, [x5], x6; VSTX V1, [x5], V2; VLUT V1, V2, [x5]; MNOT M1, M2; VSADD V1, [x5]; VSTPAIR V1, [x5], x6, masked by M3. -/
theorem test_decode_vector :
    decode32? 0b00000000001100010000000010101011 = some (.vadd 1 2 3 ⟨false, 0⟩)
      ∧ decode32? 0b00000000001100010010000010101011 = some (.vaddX 1 2 3 ⟨false, 0⟩)
      ∧ decode32? 0b00000000001100010001110010101011 = some (.vcmp 1 2 3 .uo ⟨false, 0⟩)
      ∧ decode32? 0b10100010001100010001000010101011 = some (.vsel 1 2 3 2)
      ∧ decode32? 0b00000010000000010100000010101011 = some (.vmvxv 1 2)
      ∧ decode32? 0b00100010001100000100001010101011 = some (.vmvvx 5 3)
      ∧ decode32? 0b00000100011000101000000011011011 = some (.vlds 1 5 6 ⟨false, 0⟩)
      ∧ decode32? 0b00001010001000101000000011011011 = some (.vstx 1 5 2 ⟨false, 0⟩)
      ∧ decode32? 0b00001100001000101000000011011011 = some (.vlut 1 5 2 ⟨false, 0⟩)
      ∧ decode32? 0b10000000000000010001000011011011 = some (.mnot 1 2)
      ∧ decode32? 0b00000100000000101010000011011011 = some (.vsadd 1 5 ⟨false, 0⟩)
      ∧ decode32? 0b11100110011000101010000011011011 = some (.vstpair 1 5 6 ⟨true, 3⟩) := by decide +kernel

/-- Words of custom-3 (Table 3.10): RINS x6; RMOVE x5, x6, x7; BRET x5, x6, x7; CUTSTAT x5, x6; DUMPSEAL x6; SLOTREST x6, x7; RANKSET x6, x7; WINSET x6, x7. -/
theorem test_decode_ranges_traps :
    decode32? 0b00000000000000110000000001111011 = some (.rins 6)
      ∧ decode32? 0b00001010011100110000001011111011 = some (.rmove 5 6 7)
      ∧ decode32? 0b00010000011100110000001011111011 = some (.bret 5 6 7)
      ∧ decode32? 0b00001110000000110001001011111011 = some (.cutstat 5 6)
      ∧ decode32? 0b00010010000000110001000001111011 = some (.dumpseal 6)
      ∧ decode32? 0b00001000011100110001000001111011 = some (.slotrest 6 7)
      ∧ decode32? 0b00000000011100110010000001111011 = some (.rankset 6 7)
      ∧ decode32? 0b00000010011100110010000001111011 = some (.winset 6 7) := by decide +kernel

/-- Vacant words: custom-0 with funct3 7; QCNT with a register in rd's place of rs2; OP4 15 of custom-1; a 48-bit length; LEN of a tile command word. -/
theorem test_decode_vacant :
    decode32? 0b00000000000000000111000000001011 = none
      ∧ decode32? 0b00001110000100011000001010001011 = none
      ∧ decode32? 0b00011110001100010000000010101011 = none
      ∧ decode32? 0b00000000000000000000000000011111 = none
      ∧ decode32? 0b00010010000000000000000001111011 = none
      ∧ decodeTcw? (0x727F ||| 1#256 <<< 15) = none := by decide +kernel

/-- Tile command words (Tables 3.12 to 3.15): TST, TMMAW with DY 8 and DX 7, TRED to Q5, ESET E2 from x9, SKGET Q1 from SK1. -/
theorem test_decode_tiles :
    (let t := tcw 0 1 (4 * 2 ^ 28 + 3 * 2 ^ 40 + 5 * 2 ^ 64 + 6 * 2 ^ 69 + 7 * 2 ^ 96)
     decodeTcw t.raw = .tst t ∧ t.ta = 4 ∧ t.fa = 3 ∧ t.base = 5 ∧ t.stride = 6 ∧ t.offset = 7)
    ∧ (let t := tcw 1 2 (8 * 2 ^ 148 + 7 * 2 ^ 152 + 2 ^ 53 + 2 ^ 58)
       decodeTcw t.raw = .tmmaw t ∧ t.dy = 8 ∧ t.dx = 7 ∧ t.hold = true ∧ t.zacc = true)
    ∧ (let t := tcw 2 10 (2 ^ 173 + 5 * 2 ^ 170 + 2 ^ 59)
       decodeTcw t.raw = .tredQueue t ∧ t.qdst = 5 ∧ t.col = true)
    ∧ (let t := tcw 4 1 (2 * 2 ^ 48 + 9 * 2 ^ 74)
       decodeTcw t.raw = .eset t ∧ t.esel = 2 ∧ t.aux = 9)
    ∧ (let t := tcw 4 3 (2 ^ 48 + 2 ^ 173 + 1 * 2 ^ 170)
       decodeTcw t.raw = .skget t ∧ t.esel = 1 ∧ t.qdst = 1) := by decide +kernel

/-- Words of an application core alone (03 R92: RV64GCH; the words are RISC-V's): c.addi x1, -1; c.lwsp x1, 8(x2); c.jr x1; c.ebreak; c.sdsp x1, 8(x2); c.mv x10, x11;
fadd.s f1, f2, f3; fld f1, 8(x2); sret; sfence.vma x0, x0; hlv.d x1, (x2). A CMC has sret and neither c.ebreak nor fadd.s. -/
theorem test_decode_application :
    ownWord 228 0x10FD = some (2, .rv (.aluI .addi 1 1 0xFFF))
      ∧ ownWord 228 0x40A2 = some (2, .load .lw 1 2 8)
      ∧ ownWord 228 0x8082 = some (2, .rv (.jalr 0 1 0))
      ∧ ownWord 228 0x9002 = some (2, .trap)
      ∧ ownWord 228 0xE406 = some (2, .store .sd 2 1 8)
      ∧ ownWord 228 0x852E = some (2, .rv (.alu .add 10 0 11))
      ∧ ownWord 228 0x003100D3 = some (4, .farith .add false 0 1 2 3)
      ∧ ownWord 228 0x00813087 = some (4, .fload true 1 2 8)
      ∧ ownWord 228 0x10200073 = some (4, .sret)
      ∧ ownWord 228 0x12000073 = some (4, .vmFence 0)
      ∧ ownWord 228 0x6C0140F3 = some (4, .hload .ld false 1 2)
      ∧ ownWord 228 0 = none ∧ ownWord 192 0x10200073 = some (4, .sret) ∧ ownWord 192 0x9002 = none ∧ ownWord 192 0x003100D3 = none := by decide +kernel

/-! ### One step each -/

/-- addi x5, x6, 1 wraps; div by zero gives all ones and div of the least number by -1 the least number (RISC-V). -/
theorem test_arithmetic :
    nexts (exec (.rvAluOrBranch (.aluI .addi 5 6 1)) (rx core [(6, 2 ^ 64 - 1)])) (fun t => t.me.reg 5 == 0) = true
    ∧ nexts (exec (.rvAluOrBranch (.alu .div 5 6 7)) (rx core [(6, 9)])) (fun t => t.me.reg 5 == BitVec.allOnes 64) = true
    ∧ nexts (exec (.rvAluOrBranch (.alu .div 5 6 7)) (rx core [(6, 2 ^ 63), (7, 2 ^ 64 - 1)])) (fun t => t.me.reg 5 == 0x8000000000000000) = true := by
  decide +kernel

/-- lw sign-extends, lwu does not; a misaligned lw traps with its address (03 Table 3.2). -/
theorem test_loads :
    (let s := words (rx core [(6, 0x10100)]) 0x10100 [0x80000001]
     nexts (exec (.rvLoad .lw 5 6 0) s) (fun t => t.me.reg 5 == 0xFFFFFFFF80000001) = true
       ∧ nexts (exec (.rvLoad .lwu 5 6 0) s) (fun t => t.me.reg 5 == 0x80000001) = true
       ∧ nexts (exec (.rvLoad .lw 5 6 2) s) (fun t => t.me.park == 9 && t.me.hxtval == 0x10102 && t.me.pc == s.me.pc) = true) := by decide +kernel

/-- sc with no reservation writes 1 to rd and stores nothing (RISC-V). -/
theorem test_sc_fails : nexts (exec (.sc true false false 5 6 7) (rx core [(6, 0x10100), (7, 9)])) (fun t => t.me.reg 5 == 1 && t.get 0x10100 8 == 0) = true := by
  decide +kernel

/-- VLGR x5, x12, w32 with x12 = 100 gives 64 on a core (05 R138 and its worked example: 100 elements run as 64 and 36). -/
theorem test_vlgr : nexts (exec (.vlgr 5 12 .w32) (rx core [(12, 100)])) (fun t => t.me.reg 5 == 64 && t.me.vl == 64) = true
    ∧ nexts (exec (.vlgr 5 12 .w32) (rx core [(12, 36)])) (fun t => t.me.reg 5 == 36) = true := by decide +kernel

/-- The worked example of 05 R151: 1, 2, 4, 2 are compared with 3 in BF16 under a prefix, two elements a lane, and M1 is 1. -/
theorem test_vcmp :
    nexts (exec (.vcmp 1 2 3 .lt ⟨false, 0⟩) (upd.modMe fun h => (({ h with vl := 4, vill := false, ew := 1, pp := true, pfx := 0 } : Slot).setElems 64 2 16
      [(0, 0x3F80), (1, 0x4000), (2, 0x4080), (3, 0x4000)]).setElems 64 3 16 [(0, 0x4040), (1, 0x4040), (2, 0x4040), (3, 0x4040)]))
      (fun t => fget t.me.m 1 0 == 1) = true := by decide +kernel

/-- The worked example of 02: a read of 2.0 with class 1 at 0.875, three steps later, gives 1.33984375. -/
theorem test_decay :
    (stampedRead ({ (core.unit 0) with dt := [(1, 0x3F600000)] }) (swWord 0x40000000 5 1 false) 8) = some (0x3FAB8000, false) := by decide +kernel

/-- SADD of 1.0 to a stamped 1.0 at its own step leaves 2.0 and the stamp (17 R401). -/
theorem test_sadd : nexts (exec (.sadd 5 6) stamping) (fun t => t.get 0x10100 8 == 0x0000000540000000) = true := by decide +kernel

/-- c.addi x1, -1 on an application core: two bytes on, and x1 counts down; a floating-point add with FS off takes exception 2 in M-mode (RISC-V). -/
theorem test_application :
    nexts (runHart (app 0x10FD)) (fun t => (t.hart 228 0).pc == 0x10002 && (t.hart 228 0).reg 1 == BitVec.allOnes 64) = true
      ∧ nexts (runHart (app 0x003100D3)) (fun t => (t.hart 228 0).mcause == 2 && (t.hart 228 0).mepc == 0x10000) = true := by decide +kernel

end Sys2Proof.Tests
end

section
/-! SUPPORT. Bit fields of numbers and words, and a number with some of its bits replaced. -/

namespace Sys2Proof.Machine

open Sys2Proof

/-! ### Fields of numbers and words -/

/-- Bits hi to lo are those of the low n bits, where hi is among these. -/
theorem fld_mod {v n hi lo : Nat} (h : hi < n) : fld (v % 2 ^ n) hi lo = fld v hi lo := by
  by_cases hlo : lo ≤ hi
  · obtain ⟨k, hk⟩ : ∃ k, n = lo + k := ⟨n - lo, by omega⟩
    rw [fld, fld, hk, pow_add, Nat.mod_mul_right_div_self, Nat.mod_mod_of_dvd _ (pow_dvd_pow 2 (by omega))]
  · simp [fld, Nat.mod_one, show hi + 1 - lo = 0 by omega]

theorem w64_toNat (x : Word) : w64 x.toNat = x := by simp [w64]

theorem wfld_eq_of_setWidth {v v' : Word} {n hi lo : Nat} (h : v.setWidth n = v'.setWidth n) (hn : hi < n) :
    wfld v hi lo = wfld v' hi lo := by
  have low : v.toNat % 2 ^ n = v'.toNat % 2 ^ n := by simpa using congrArg BitVec.toNat h
  rw [wfld, wfld, ← fld_mod hn, low, fld_mod hn]

theorem fld_eq_wfld {v hi lo : Nat} (h : hi < 64) : fld v hi lo = wfld (w64 v) hi lo := (fld_mod h).symm

theorem wfld_one_zero (v : Word) : wfld v 1 0 = v.toNat % 4 := by simp [wfld, fld]

theorem ofNat_wfld (v : Word) (lo n : Nat) {hi : Nat} (h : hi + 1 - lo = n) : BitVec.ofNat n (wfld v hi lo) = v.extractLsb' lo n := by
  apply BitVec.eq_of_toNat_eq
  simp [wfld, fld, h, Nat.shiftRight_eq_div_pow]

/-- A number whose bits k to k + m - 1 are replaceBits by v. -/
def replaceBits (N v k m : Nat) : Nat := N - put (N / 2 ^ k % 2 ^ m) k + put v k

/-- The bits below the place, those put there, and the bits above it. -/
theorem replaceBits_eq (N v k m : Nat) : replaceBits N v k m = N % 2 ^ k + 2 ^ k * (v + 2 ^ m * (N / 2 ^ (k + m))) := by
  have low := Nat.mod_add_div N (2 ^ k)
  have high := Nat.mod_add_div (N / 2 ^ k) (2 ^ m)
  rw [Nat.div_div_eq_div_mul, ← pow_add] at high
  have split : N = N % 2 ^ k + 2 ^ k * (N / 2 ^ k % 2 ^ m) + 2 ^ k * (2 ^ m * (N / 2 ^ (k + m))) := by
    rw [add_assoc, ← mul_add, high, low]
  have comm (a : Nat) : put a k = 2 ^ k * a := Nat.mul_comm ..
  rw [replaceBits, comm, comm, mul_add]
  omega

theorem replaceBits_below {N v k m : Nat} : replaceBits N v k m % 2 ^ k = N % 2 ^ k := by
  rw [replaceBits_eq, Nat.add_mul_mod_self_left, Nat.mod_mod]

theorem replaceBits_from {N v k m : Nat} : replaceBits N v k m / 2 ^ k = v + 2 ^ m * (N / 2 ^ (k + m)) := by
  rw [replaceBits_eq, Nat.add_mul_div_left _ _ (by positivity), Nat.div_eq_of_lt (Nat.mod_lt _ (by positivity)), zero_add]

theorem replaceBits_above {N v k m : Nat} (hv : v < 2 ^ m) : replaceBits N v k m / 2 ^ (k + m) = N / 2 ^ (k + m) := by
  rw [pow_add, ← Nat.div_div_eq_div_mul, replaceBits_from, Nat.add_mul_div_left _ _ (by positivity), Nat.div_eq_of_lt hv, zero_add,
    pow_add]

/-- Chunk i of 64 bits of a number cut to n bits that hold it. -/
theorem ofNat_chunk {n N i : Nat} (hi : 64 * i + 63 < n) : ((BitVec.ofNat n N).extractLsb' (64 * i) 64).toNat = N / 2 ^ (64 * i) % 2 ^ 64 := by
  have cut := fld_mod (v := N) (lo := 64 * i) hi
  simpa [fld, Nat.shiftRight_eq_div_pow, show 64 * i + 63 + 1 - 64 * i = 64 by omega] using cut

theorem replaceBits_chunk_same {N c : Nat} (v : Word) (hc : c < 6) :
    (BitVec.ofNat 384 (replaceBits N v.toNat (64 * c) 64)).extractLsb' (64 * c) 64 = v := by
  apply BitVec.eq_of_toNat_eq
  rw [ofNat_chunk (by omega), replaceBits_from, Nat.add_mul_mod_self_left, Nat.mod_eq_of_lt v.isLt]

theorem replaceBits_chunk_ne {x : BitVec 384} {c i : Nat} (v : Word) (hi : i < 6) (h : i ≠ c) :
    (BitVec.ofNat 384 (replaceBits x.toNat v.toNat (64 * c) 64)).extractLsb' (64 * i) 64 = x.extractLsb' (64 * i) 64 := by
  apply BitVec.eq_of_toNat_eq
  rw [ofNat_chunk (by omega), BitVec.extractLsb'_toNat, Nat.shiftRight_eq_div_pow]
  rcases Nat.lt_or_gt_of_ne h with below | above
  · have chunk (N : Nat) : N / 2 ^ (64 * i) % 2 ^ 64 = fld N (64 * i + 63) (64 * i) := by
      rw [fld, show 64 * i + 63 + 1 - 64 * i = 64 by omega]
    rw [chunk, chunk, ← fld_mod (n := 64 * c) (by omega), replaceBits_below, fld_mod (by omega)]
  · have cut : 2 ^ (64 * i) = 2 ^ (64 * c + 64) * 2 ^ (64 * i - (64 * c + 64)) := by
      rw [← pow_add]; congr 1; omega
    rw [cut, ← Nat.div_div_eq_div_mul, ← Nat.div_div_eq_div_mul, replaceBits_above v.isLt]

end Sys2Proof.Machine
end

section
/-! SUPPORT. The read-write fields of a register, and a write of all 8 bytes of one. -/

namespace Sys2Proof.Machine

open Sys2Proof

/-- The bits of f from v, the others from old. -/
def mergeField (old f v : Word) : Word := (old &&& ~~~f) ||| (v &&& f)

theorem mergeField_getLsbD (old f v : Word) (i : Nat) : (mergeField old f v).getLsbD i = if f.getLsbD i then v.getLsbD i else old.getLsbD i := by
  rcases Nat.lt_or_ge i 64 with hi | hi
  · cases hf : f.getLsbD i <;> simp [mergeField, hf, hi, -BitVec.getLsbD_eq_getElem]
  · simp [BitVec.getLsbD_of_ge _ _ hi]

theorem mergeField_wbit {old f v : Word} {i : Nat} (h : f.getLsbD i = true) : wbit (mergeField old f v) i = wbit v i := by
  rw [wbit, mergeField_getLsbD, if_pos h, wbit]

theorem mergeField_setWidth {old f v : Word} {n : Nat} (h : f.setWidth n = BitVec.allOnes n) : (mergeField old f v).setWidth n = v.setWidth n := by
  ext i hi
  have hf : f.getLsbD i = true := by simpa [hi] using congrArg (·.getLsbD i) h
  simp [← BitVec.getLsbD_eq_getElem, mergeField_getLsbD, hf, hi]

theorem mergeField_ones (old v : Word) : mergeField old (w64 (2 ^ 64 - 1)) v = v := by
  have h : w64 (2 ^ 64 - 1) = BitVec.allOnes 64 := rfl
  rw [mergeField, h, BitVec.not_allOnes, BitVec.and_zero, BitVec.zero_or, BitVec.and_allOnes]

/-- Adding the bits of a word inside and outside a field carries nothing. -/
theorem toNat_outside_add_inside (x y f : Word) : (x &&& ~~~f).toNat + (y &&& f).toNat = (mergeField x f y).toNat := by
  have apart : (x &&& ~~~f) &&& (y &&& f) = 0#64 := by
    ext i
    cases hf : f[i] <;> simp [hf]
  rw [mergeField, ← BitVec.toNat_add_of_and_eq_zero apart, BitVec.add_eq_or_of_and_eq_zero _ _ apart]

theorem mergeField_self (x f : Word) : mergeField x f x = x := by
  ext i
  cases hf : f[i] <;> simp [mergeField, hf]

/-- A write of 8 bytes. -/
def RegWrite.all (v : Word) : RegWrite := { mask := 0xFFFFFFFFFFFFFFFF, ones := v.toNat }

theorem RegWrite.all_mask (v : Word) : (RegWrite.all v).mask = 0xFFFFFFFFFFFFFFFF := rfl
theorem RegWrite.all_ones (v : Word) : (RegWrite.all v).ones = v.toNat := rfl
theorem RegWrite.all_bit (v : Word) (i : Nat) : (RegWrite.all v).bit i = wbit v i := BitVec.testBit_toNat v

/-- The model's subtraction and addition of numbers change the bits of the field and no others: nothing is borrowed or carried. -/
theorem RegWrite.all_rw (old : Nat) (v : Word) {f : Nat} (hf : f < 2 ^ 64) :
    w64 ((RegWrite.all v).rw old f) = mergeField (w64 old) (w64 f) v := by
  obtain ⟨g, rfl⟩ : ∃ g : Word, f = g.toNat := ⟨w64 f, (Nat.mod_eq_of_lt hf).symm⟩
  have mask : 0xFFFFFFFFFFFFFFFF &&& g.toNat = g.toNat := by
    rw [show 0xFFFFFFFFFFFFFFFF = 2 ^ 64 - 1 by norm_num, Nat.and_comm, Nat.and_two_pow_sub_one_eq_mod, Nat.mod_eq_of_lt g.isLt]
  have kept : old &&& g.toNat = (w64 old &&& g).toNat := by
    rw [BitVec.toNat_and, w64, BitVec.toNat_ofNat, ← Nat.mod_eq_of_lt (Nat.and_lt_two_pow old g.isLt), Nat.and_mod_two_pow,
      Nat.mod_eq_of_lt g.isLt]
  have parts := toNat_outside_add_inside (w64 old) (w64 old) g
  have sum := toNat_outside_add_inside (w64 old) v g
  have low : (w64 old).toNat = old % 2 ^ 64 := rfl
  rw [mergeField_self] at parts
  rw [RegWrite.rw, RegWrite.all, mask, kept, ← BitVec.toNat_and]
  apply BitVec.eq_of_toNat_eq
  rw [w64_toNat, ← sum, w64, BitVec.toNat_ofNat]
  omega

theorem RegWrite.all_rw_word (x v : Word) {f : Nat} (hf : f < 2 ^ 64) : w64 ((RegWrite.all v).rw x.toNat f) = mergeField x (w64 f) v := by
  rw [RegWrite.all_rw x.toNat v hf, w64_toNat]

/-- A register whose bits are all read-write takes the word written. -/
theorem RegWrite.all_rw_ones (old : Nat) (v : Word) : w64 ((RegWrite.all v).rw old (2 ^ 64 - 1)) = v := by
  rw [RegWrite.all_rw old v (by norm_num), mergeField_ones]

/-- A register whose low n bits are read-write and that reads nothing above them. -/
theorem RegWrite.all_rw_low {old f : Nat} (v : Word) (n : Nat) (ho : old < 2 ^ n) (hn : n ≤ 64) (hf : f = 2 ^ n - 1) :
    (RegWrite.all v).rw old f = v.toNat % 2 ^ n := by
  have old64 : old < 2 ^ 64 := ho.trans_le (Nat.pow_le_pow_right (by decide) hn)
  have low (x : Nat) : x &&& (0xFFFFFFFFFFFFFFFF &&& (2 ^ n - 1)) = x % 2 ^ 64 % 2 ^ n := by
    rw [show 0xFFFFFFFFFFFFFFFF = 2 ^ 64 - 1 by norm_num, ← Nat.and_assoc, Nat.and_two_pow_sub_one_eq_mod, Nat.and_two_pow_sub_one_eq_mod]
  rw [hf, RegWrite.rw, RegWrite.all, low, low, Nat.mod_eq_of_lt old64, Nat.mod_eq_of_lt ho, Nat.mod_eq_of_lt v.isLt, Nat.sub_self, Nat.zero_add]

/-! GSTEPd and SLEWCTL take their low field together with a flag of a higher bit, which clears by a 1. -/

theorem setWidth_low_add_bitAt (v : Word) (n k : Nat) (b : Bool) (hn : n ≤ k) (hk : k < 64) :
    (w64 (v.toNat % 2 ^ n + bitAt b k)).setWidth n = v.setWidth n := by
  have above : bitAt b k % 2 ^ n = 0 := by
    cases b
    · rfl
    · exact Nat.mod_eq_zero_of_dvd (pow_dvd_pow 2 hn)
  apply BitVec.eq_of_toNat_eq
  rw [BitVec.toNat_setWidth, BitVec.toNat_setWidth, w64, BitVec.toNat_ofNat, Nat.mod_mod_of_dvd _ (pow_dvd_pow 2 (by omega)),
    Nat.add_mod, above, Nat.add_zero, Nat.mod_mod, Nat.mod_mod]

theorem wbit_low_add_bitAt (v : Word) (n k : Nat) (b : Bool) (hn : n ≤ k) (hk : k < 64) :
    wbit (w64 (v.toNat % 2 ^ n + bitAt b k)) k = b := by
  have low : (v.toNat % 2 ^ n).testBit k = false :=
    Nat.testBit_lt_two_pow ((Nat.mod_lt _ (by positivity)).trans_le (Nat.pow_le_pow_right (by decide) hn))
  rw [wbit, w64, BitVec.getLsbD_ofNat, decide_eq_true hk, Bool.true_and]
  cases b
  · exact low
  · rw [bitAt, if_pos rfl, Nat.add_comm, Nat.testBit_two_pow_add_eq, low, Bool.not_false]

end Sys2Proof.Machine
end

section
/-! SUPPORT. What a write of 8 bytes does, register by register (01 R9, 21 R458). -/

namespace Sys2Proof.Machine

open Sys2Proof

variable (s : State)

/-! ### Where a write of 8 bytes goes -/

theorem region_three {pa o : Nat} (hpa : pa = 3 * 2 ^ 48 + o) (ho : o < 2 ^ 48) : regionOf pa = 3 ∧ regionOff pa = o := by
  rw [regionOf, regionOff]; omega

theorem regPlace_pkg {o : Nat} (h : o < 0x10000) : regPlace o = .pkg o := if_pos h

theorem regPlace_cluster {c x : Nat} (hc : c < 12) (hx : x < 0x1000) : regPlace (0x10000 + 0x1000 * c + x) = .cluster c x := by
  rw [regPlace, if_neg (by omega), if_pos (by omega), show (0x10000 + 0x1000 * c + x - 0x10000) / 0x1000 = c by omega,
    show (0x10000 + 0x1000 * c + x) % 0x1000 = x by omega]

theorem exec_registerWrite_pkg {pa o : Nat} (v : Word) (hpa : pa = 3 * 2 ^ 48 + o) (ho : o < 0x10000) (h8 : o % 8 = 0) :
    exec (.registerWrite pa 8 v) s = .next (pkgWrite s o (.all v)) := by
  change execRegisterWrite _ _ _ _ = _
  obtain ⟨region, off⟩ := region_three hpa (by omega)
  have whole : o / 8 * 8 = o := by omega
  simp [execRegisterWrite, region, off, h8, regPlace_pkg ho, whole, RegWrite.all, put, Nat.mod_eq_of_lt v.isLt]

theorem exec_registerWrite_cluster {pa c x : Nat} (v : Word) (hpa : pa = 3 * 2 ^ 48 + (0x10000 + 0x1000 * c + x)) (hc : c < 12)
    (hx : x < 0x1000) (h8 : x % 8 = 0) : exec (.registerWrite pa 8 v) s = .next (clusterWrite s c x (.all v)) := by
  change execRegisterWrite _ _ _ _ = _
  obtain ⟨region, off⟩ := region_three hpa (by omega)
  have aligned : (0x10000 + 0x1000 * c + x) % 8 = 0 := by omega
  have whole : x / 8 * 8 = x := by omega
  simp [execRegisterWrite, region, off, aligned, regPlace_cluster hc hx, whole, RegWrite.all, put, Nat.mod_eq_of_lt v.isLt]

theorem exec_registerWrite_nothing {pa o : Nat} (v : Word) (hpa : pa = 3 * 2 ^ 48 + o) (ho : o < 2 ^ 48) (h : regPlace o = .nothing) :
    exec (.registerWrite pa 8 v) s = .next s := by
  change execRegisterWrite _ _ _ _ = _
  obtain ⟨region, off⟩ := region_three hpa ho
  simp [execRegisterWrite, region, off, h]

/-! ### Registers of the package control block that hold what is written -/

theorem pkgWrite_jobtab (v : Word) :
    pkgWrite s 0x300 (.all v) = s.modPkg fun p => { p with jobtab := mergeField p.jobtab (w64 0x800FFFFFFFFFF000) v } := by
  simp (disch := omega) only [pkgWrite, pkgRead, if_pos, if_neg, ↓reduceIte, RegWrite.all_rw_word, State.modPkg]

theorem pkgWrite_sysroot (v : Word) :
    pkgWrite s 0x320 (.all v) = s.modPkg fun p => { p with sysroot := mergeField p.sysroot (w64 0x800FFFFFFFFFFF00) v } := by
  simp (disch := omega) only [pkgWrite, pkgRead, if_pos, if_neg, ↓reduceIte, RegWrite.all_rw_word, State.modPkg]

theorem pkgWrite_capwin {c : Nat} (v : Word) (hc : c < 16) : pkgWrite s (0x200 + 8 * c) (.all v) =
    s.modPkg fun p => { p with capwin := fset p.capwin c (mergeField (fget p.capwin c 0) (w64 0x87000FFF00000FFF) v) } := by
  simp (disch := omega) only [pkgWrite, pkgRead, if_pos, if_neg, Nat.add_sub_cancel_left, Nat.mul_div_cancel_left, RegWrite.all_rw_word, State.modPkg]

theorem pkgWrite_optab {c : Nat} (v : Word) (hc : c < 1024) : pkgWrite s (0x1000 + 8 * c) (.all v) =
    s.modPkg fun p => { p with optab := fset p.optab c (mergeField (fget p.optab c 0) (w64 0xF7) v) } := by
  simp (disch := omega) only [pkgWrite, pkgRead, if_pos, if_neg, Nat.add_sub_cancel_left, Nat.mul_div_cancel_left, RegWrite.all_rw_word, State.modPkg]

theorem pkgWrite_cecnt (v : Word) : pkgWrite s 0x318 (.all v) = s.modPkg fun p => { p with cecnt := v } := by
  simp (disch := omega) only [pkgWrite, pkgRead, if_pos, if_neg, ↓reduceIte, RegWrite.all_rw_ones]

theorem pkgWrite_decay {c : Nat} (v : Word) (hc : c < 64) : pkgWrite s (0x400 + 8 * c) (.all v) = s.modPkg fun p =>
    { p with decay := fset (fset p.decay (2 * c) (v.setWidth 32)) (2 * c + 1) ((v >>> 32).setWidth 32) } := by
  have index : 8 * c / 4 = 2 * c := by omega
  simp (disch := omega) only [pkgWrite, if_pos, if_neg, Nat.add_sub_cancel_left, index, RegWrite.all_rw_ones, State.modPkg]

theorem pkgWrite_nonce {c : Nat} (v : Word) (hc : c < 6) : pkgWrite s (0x900 + 8 * c) (.all v) = s.modPkg fun p =>
    { p with nonce := BitVec.ofNat 384 (replaceBits p.nonce.toNat v.toNat (64 * c) 64) } := by
  have bits : 8 * (8 * c) = 64 * c := by omega
  simp (disch := omega) only [pkgWrite, pkgRead, if_pos, if_neg, Nat.add_sub_cancel_left, bits, RegWrite.all_rw_ones, State.modPkg, replaceBits]

theorem pkgWrite_readOnly {o : Nat} (w : RegWrite) (ho : o = 0x380 ∨ o = 0x388 ∨ 0x390 ≤ o ∧ o < 0x3C0 ∨ 0x700 ≤ o ∧ o < 0x900
    ∨ 0xA00 ≤ o ∧ o < 0xC60 ∨ 0x4000 ≤ o ∧ o < 0x6000) : pkgWrite s o w = s := by
  simp (disch := omega) only [pkgWrite, if_neg]

/-! ### Registers of the package control block that start something, or clear by a 1 -/

/-- JOBREMOVE has no field but JOB, CAUSE and GO (20 R444), so what the word holds elsewhere does not matter. -/
theorem jobremoveWrite_eq_of_fields {v v' : Word} (low : v.setWidth 24 = v'.setWidth 24) (go : wbit v 63 = wbit v' 63) :
    jobremoveWrite s v = jobremoveWrite s v' := by
  have job : v.setWidth 16 = v'.setWidth 16 := by
    rw [← BitVec.setWidth_setWidth_of_le v (show 16 ≤ 24 by decide), low, BitVec.setWidth_setWidth_of_le v' (by decide)]
  have cause : wfld v 23 16 = wfld v' 23 16 := wfld_eq_of_setWidth low (by decide)
  simp only [jobremoveWrite, job, cause, go]

theorem pkgWrite_jobremove (v : Word) : .next (pkgWrite s 0x308 (.all v)) = exec (.jobremoveGo v) s := by
  change _ = execJobremoveGo v s
  simp (disch := omega) only [pkgWrite, if_neg, ↓reduceIte, RegWrite.all_rw, execJobremoveGo]
  rw [jobremoveWrite_eq_of_fields s (mergeField_setWidth rfl) (mergeField_wbit rfl)]

theorem exec_resetctlReset : exec .resetctlReset s = .next (resetSequence s) := rfl
theorem exec_unpark : exec .unpark s = .next (unparkDie s) := rfl
theorem exec_parkDieW : exec .parkDieW s = .next (parkDie s 0) := rfl
theorem exec_parkDieE : exec .parkDieE s = .next (parkDie s 1) := rfl
theorem exec_attestationRequest : exec .attestationRequest s = .next (attestRequest s) := rfl

theorem pkgWrite_resetctl (v : Word) : .next (pkgWrite s 0x310 (.all v)) = if v.getLsbD 0 then exec .resetctlReset s else .next s := by
  simp (disch := omega) only [pkgWrite, if_neg, ↓reduceIte, RegWrite.all_bit, exec_resetctlReset, wbit, apply_ite Host.Outcome.next]

theorem parkWrite_eq (w : RegWrite) (h : w.mask % 4 = 3) : parkWrite s w =
    let t := if w.bit 62 then s.modPkg fun p => { p with parkRefused := false } else s
    if w.ones % 4 = 0 then unparkDie t else if w.ones % 4 = 1 then parkDie t 0 else if w.ones % 4 = 2 then parkDie t 1 else t := by
  simp only [parkWrite, h, ne_eq, not_true_eq_false, ↓reduceIte]
  generalize (if w.bit 62 = true then (s.modPkg fun p => { p with parkRefused := false }) else s) = t
  split
  next h => rw [if_pos h]
  next h => rw [if_neg (by omega), if_pos h]
  next h => rw [if_neg (by omega), if_neg (by omega), if_pos h]
  next h₀ h₁ h₂ => rw [if_neg h₀, if_neg h₁, if_neg h₂]

/-- A write of 8 bytes to PARKCTL: REFUSED is cleared by a 1, and the request is made (21 R470). -/
theorem pkgWrite_parkctl (v : Word) : .next (pkgWrite s 0x340 (.all v)) =
    let t := if wbit v 62 = true then s.modPkg fun p => { p with parkRefused := false } else s
    if wfld v 1 0 = 0 then exec .unpark t else if wfld v 1 0 = 1 then exec .parkDieW t
      else if wfld v 1 0 = 2 then exec .parkDieE t else .next t := by
  have written : (RegWrite.all v).mask % 4 = 3 := by rw [RegWrite.all_mask]
  simp (disch := omega) only [pkgWrite, if_neg, ↓reduceIte, parkWrite_eq s _ written, RegWrite.all_bit, RegWrite.all_ones, wfld_one_zero,
    exec_unpark, exec_parkDieW, exec_parkDieE, apply_ite Host.Outcome.next]

theorem pkgWrite_pwrstat (v : Word) : pkgWrite s 0x348 (.all v) = s.modPkg fun p =>
    { p with trip := p.trip && !wbit v 10, icomp := p.icomp && !wbit v 9, sagged := p.sagged && !wbit v 8 } := by
  simp (disch := omega) only [pkgWrite, if_neg, ↓reduceIte, RegWrite.all_bit]

theorem pkgWrite_sweepst {c : Nat} (v : Word) (hc : c < 8) : pkgWrite s (0x600 + 8 * c) (.all v) = s.modPkg fun p =>
    let y := fget p.sweep c Sweep.reset
    { p with sweep := fset p.sweep c { y with outwin := y.outwin &&& ~~~(v.setWidth 24) } } := by
  simp (disch := omega) only [pkgWrite, if_pos, if_neg, Nat.add_sub_cancel_left, Nat.mul_div_cancel_left, modSweep, RegWrite.all,
    BitVec.ofNat_toNat]

theorem gstepWrite_eq_of_fields {v v' : Word} (d : Nat) (low : v.setWidth 48 = v'.setWidth 48) (badw : wbit v 63 = wbit v' 63) :
    gstepWrite s d v = gstepWrite s d v' := by
  simp only [gstepWrite, low, badw]

theorem exec_gstepWrite {d : Nat} (v : Word) (hd : d < 8) : exec (.gstepWrite d v) s = .next (gstepWrite s d v) := by
  change execGstepWrite d v s = _
  rw [execGstepWrite, onlyIf, decide_eq_true hd, if_pos rfl]

theorem pkgWrite_gstep {c : Nat} (v : Word) (hc : c < 8) : pkgWrite s (0x640 + 8 * c) (.all v) = gstepWrite s c v := by
  have low : (RegWrite.all v).rw (pkgRead s (0x640 + 8 * c) % 2 ^ 48) 0xFFFFFFFFFFFF = v.toNat % 2 ^ 48 :=
    RegWrite.all_rw_low v 48 (Nat.mod_lt _ (by positivity)) (by decide) (by norm_num)
  simp (disch := omega) only [pkgWrite, if_pos, if_neg, Nat.add_sub_cancel_left, Nat.mul_div_cancel_left, RegWrite.all_bit, low]
  exact gstepWrite_eq_of_fields s c (setWidth_low_add_bitAt v 48 63 _ (by decide) (by decide))
    (wbit_low_add_bitAt v 48 63 _ (by decide) (by decide))

theorem pkgWrite_attgo (v : Word) : .next (pkgWrite s 0x938 (.all v)) = if v = 1 then exec .attestationRequest s else .next s := by
  have eq : v = 1 ↔ v.toNat = 1 := BitVec.toNat_inj.symm
  have one : ((RegWrite.all v).ones % 2 ^ 32 = 1 && (RegWrite.all v).ones == 1) = decide (v = 1) := by
    rw [RegWrite.all_ones, Bool.eq_iff_iff, Bool.and_eq_true, decide_eq_true_eq, decide_eq_true_eq, beq_iff_eq, eq]
    omega
  simp (disch := omega) only [pkgWrite, if_neg, ↓reduceIte, one, exec_attestationRequest, decide_eq_true_eq, apply_ite Host.Outcome.next]

theorem pkgWrite_portctl {c : Nat} (w : RegWrite) (hc : c < 8) : pkgWrite s (0x3000 + 64 * c) w = portWrite s c w := by
  simp (disch := omega) only [pkgWrite, if_pos, if_neg, Nat.add_sub_cancel_left, Nat.mul_div_cancel_left]

/-! ### The control block of a cluster -/

theorem slewWrite_eq_of_fields {v v' : Word} (c : Nat) (low : v.setWidth 20 = v'.setWidth 20) (badw : wbit v 31 = wbit v' 31) :
    slewWrite s c v = slewWrite s c v' := by
  have rung {lo : Nat} (h : lo + 3 < 20) : wfld v (lo + 3) lo = wfld v' (lo + 3) lo := wfld_eq_of_setWidth low h
  simp only [slewWrite, low, badw, rung (lo := 0) (by decide), rung (lo := 4) (by decide), rung (lo := 8) (by decide),
    rung (lo := 12) (by decide), rung (lo := 16) (by decide)]

theorem exec_slewctlWrite (c : Nat) (v : Word) : exec (.slewctlWrite c v) s = .next (slewWrite s c v) := rfl

theorem exec_cmcbeatWrite {c : Nat} (v : Word) (hc : c < 12) : exec (.cmcbeatWrite c v) s = .next (beatWrite s c v) := by
  change execCmcbeatWrite c v s = _
  rw [execCmcbeatWrite, onlyIf, decide_eq_true hc, if_pos rfl]

theorem clusterWrite_slewctl (c : Nat) (v : Word) : clusterWrite s c 0x400 (.all v) = slewWrite s c v := by
  have low : (RegWrite.all v).rw (slewctl (s.cluster c) % 2 ^ 20) 0xFFFFF = v.toNat % 2 ^ 20 :=
    RegWrite.all_rw_low v 20 (Nat.mod_lt _ (by positivity)) (by decide) (by norm_num)
  have written : (RegWrite.all v).mask % 2 ^ 32 ≠ 0 := by rw [RegWrite.all_mask]; norm_num
  simp only [clusterWrite, ↓reduceIte, if_neg written, RegWrite.all_bit, low]
  exact slewWrite_eq_of_fields s c (setWidth_low_add_bitAt v 20 31 _ (by decide) (by decide))
    (wbit_low_add_bitAt v 20 31 _ (by decide) (by decide))

/-- WDCTL has reserved bits, and a write of a 1 to one of them is ignored (20 R454). -/
theorem clusterWrite_wdctl (c : Nat) (v : Word) : clusterWrite s c 0x408 (.all v) =
    if v &&& 0xFFFF0000000000FF#64 = 0 then s.modCluster c fun k => { k with wdctl := v } else s := by
  have reserved : v.toNat &&& 0xFFFF0000000000FF = (v &&& 0xFFFF0000000000FF#64).toNat := by
    rw [BitVec.toNat_and]; rfl
  have none : (v &&& 0xFFFF0000000000FF#64).toNat = 0 ↔ v &&& 0xFFFF0000000000FF#64 = 0 := by
    rw [← BitVec.toNat_inj]; rfl
  simp (disch := omega) only [clusterWrite, if_neg, ↓reduceIte, RegWrite.all_ones, reserved, bne_iff_ne, ne_eq, none, ite_not, RegWrite.all_rw_ones]

theorem clusterWrite_cmcbeat (c : Nat) (v : Word) : clusterWrite s c 0x410 (.all v) = beatWrite s c v := by
  simp (disch := omega) only [clusterWrite, if_neg, ↓reduceIte, RegWrite.all_rw_ones]

theorem clusterWrite_readOnly {o : Nat} (c : Nat) (w : RegWrite) (ho : 0x420 ≤ o) : clusterWrite s c o w = s := by
  simp (disch := omega) only [clusterWrite, if_neg]

/-! ### PORTCTL -/

theorem fset_fset_same {β : Type} (m : FMap β) (k : Nat) (a b : β) : fset (fset m k a) k b = fset m k b := by
  induction m with
  | nil => simp [fset]
  | cons e m ih =>
    obtain ⟨j, w⟩ := e
    rcases Nat.lt_trichotomy k j with h | h | h
    · simp [fset, h, h.ne]
    · simp [fset, h]
    · simp [fset, h.ne', Nat.not_lt.mpr h.le, ih]

theorem State.modPort_modPort (p : Nat) (f g : Port → Port) : (s.modPort p f).modPort p g = s.modPort p fun y => g (f y) := by
  rw [State.modPort, State.port_modPort_same]
  simp only [State.modPort, fset_fset_same]

theorem State.modPort_congr {p : Nat} {f g : Port → Port} (h : f (s.port p) = g (s.port p)) : s.modPort p f = s.modPort p g := by
  rw [State.modPort, h, State.modPort]

theorem setPortMode_modPort (p : Nat) (f : Port → Port) (m : BitVec 2) : setPortMode (s.modPort p f) p m = s.modPort p fun y =>
    { f y with mode := if m = 3 || (f y).linkup || (f y).train then (f y).mode else m } := by
  rw [setPortMode, State.port_modPort_same]
  split
  next h => exact State.modPort_congr s (by simp only [if_pos h])
  next h => rw [State.modPort_modPort]; exact State.modPort_congr s (by simp only [if_neg h])

theorem extractLsb'_mode (v : Word) (m : BitVec 2) : v.extractLsb' 0 2 = m ↔ wfld v 1 0 = m.toNat := by
  rw [← ofNat_wfld v 0 2 (hi := 1) rfl, wfld_one_zero, ← BitVec.toNat_inj, BitVec.toNat_ofNat]
  omega

/-- A write keeps MODE: it says that, or writes the MODE that the port has (09 R246). -/
def keepsMode (v : Word) (y : Port) : Prop := wfld v 1 0 = 3 ∨ wfld v 1 0 = y.mode.toNat

/-- What a write of 8 bytes that is not ignored makes of a port. -/
def Port.controlled (v : Word) (y : Port) : Port :=
  { y with err := y.err && !wbit v 61, dmajob := v.extractLsb' 24 16,
           ncmc := if wfld v 23 20 < 12 then v.extractLsb' 20 4 else y.ncmc,
           mode := if wfld v 1 0 = 3 then y.mode else v.extractLsb' 0 2, train := y.train || wbit v 62 }

/-- The writes that are ignored are those that change MODE while the link is up or in training (09 R246). -/
theorem portWrite_guard (p : Nat) (v : Word) :
    ((s.port p).linkup || (s.port p).train) && wfld v 1 0 != 3 && wfld v 1 0 != (s.port p).mode.toNat ↔
      ((s.port p).linkup = true ∨ (s.port p).train = true) ∧ ¬ keepsMode v (s.port p) := by
  simp [keepsMode, and_assoc]

theorem portWrite_ignored {p : Nat} {v : Word} (busy : (s.port p).linkup = true ∨ (s.port p).train = true)
    (h : ¬ keepsMode v (s.port p)) : portWrite s p (.all v) = s := by
  rw [portWrite]
  simp only [fld_eq_wfld (show 1 < 64 by decide), RegWrite.all_rw_ones]
  exact if_pos ((portWrite_guard s p v).mpr ⟨busy, h⟩)

/-- MODE after a write that keeps it, or with the link down and not in training. -/
theorem mode_written {v : Word} {y : Port} (h : keepsMode v y ∨ y.linkup = false ∧ y.train = false) :
    (if v.extractLsb' 0 2 = 3 || y.linkup || y.train then y.mode else v.extractLsb' 0 2) =
      if wfld v 1 0 = 3 then y.mode else v.extractLsb' 0 2 := by
  have three : v.extractLsb' 0 2 = 3 ↔ wfld v 1 0 = 3 := extractLsb'_mode v 3
  by_cases no : wfld v 1 0 = 3
  · rw [if_pos (by simp only [three.mpr no, decide_true, Bool.true_or]), if_pos no]
  rw [if_neg no]
  rcases h with (yes | same) | ⟨down, still⟩
  · exact absurd yes no
  · rw [(extractLsb'_mode v y.mode).mpr same, ite_self]
  · rw [if_neg (by simp only [three, no, down, still, decide_false, Bool.or_self, Bool.false_eq_true, not_false_eq_true])]

theorem portWrite_controls {p : Nat} {v : Word}
    (h : keepsMode v (s.port p) ∨ (s.port p).linkup = false ∧ (s.port p).train = false) :
    portWrite s p (.all v) = s.modPort p (Port.controlled v) := by
  have allowed : ¬ (((s.port p).linkup = true ∨ (s.port p).train = true) ∧ ¬ keepsMode v (s.port p)) := by
    rintro ⟨busy, changes⟩
    rcases h with keeps | ⟨down, still⟩
    · exact changes keeps
    · simp [down, still] at busy
  have go := mt (portWrite_guard s p v).mp allowed
  rw [portWrite]
  simp (disch := decide) only [fld_eq_wfld, RegWrite.all_rw_ones, if_neg go, setPortMode_modPort, startTraining, RegWrite.all_bit,
    ofNat_wfld v 24 16 (hi := 39) rfl, ofNat_wfld v 20 4 (hi := 23) rfl, ofNat_wfld v 0 2 (hi := 1) rfl]
  split
  next train =>
    rw [State.modPort_modPort]
    exact State.modPort_congr s (by simp only [Port.controlled, mode_written h, train, Bool.or_true])
  next idle => exact State.modPort_congr s (by simp only [Port.controlled, mode_written h, Bool.eq_false_of_not_eq_true idle, Bool.or_false])

end Sys2Proof.Machine
end

section
/-! What a write of a device register does: O52. -/

namespace Sys2Proof.Machine

open Sys2Proof

/-- Settles O52: each address reaches its register (`exec_registerWrite_pkg`, `exec_registerWrite_cluster`), and the lemma about
that register says what the write does. -/
theorem registerWrites : Obligations.RegisterWrites := by
  unfold Obligations.RegisterWrites
  intro s v o c w merge x
  have pkg (off : Nat) (h : off < 0x10000) (h8 : off % 8 = 0) : w off = .next (pkgWrite s off (.all v)) :=
    exec_registerWrite_pkg s v rfl h h8
  have cluster {off : Nat} (r : Nat) (hc : c < 12) (hr : r < 0x1000) (h8 : r % 8 = 0) (hoff : off = 0x10000 + 0x1000 * c + r) :
      w off = .next (clusterWrite s c r (.all v)) :=
    exec_registerWrite_cluster s v (congrArg _ hoff) hc hr h8
  refine ⟨?jobtab, ?sysroot, ?capwin, ?optab, ?jobremove, ?resetctl, ?cecnt, ?parkctl, ?pwrstat, ?decay, ?sweepst, ?gstep, ?nonce, ?attgo,
    ?portctl, ?slewctl, ?cmcbeat, ?wdctl, ?wdctlReserved, ?readOnly, ?age, ?nothing⟩
  case jobtab => exact (pkg _ (by decide) rfl).trans (congrArg _ (pkgWrite_jobtab s v))
  case sysroot => exact (pkg _ (by decide) rfl).trans (congrArg _ (pkgWrite_sysroot s v))
  case capwin => exact fun hc => (pkg _ (by omega) (by omega)).trans (congrArg _ (pkgWrite_capwin s v hc))
  case optab => exact fun hc => (pkg _ (by omega) (by omega)).trans (congrArg _ (pkgWrite_optab s v hc))
  case jobremove => exact (pkg _ (by decide) rfl).trans (pkgWrite_jobremove s v)
  case resetctl => exact (pkg _ (by decide) rfl).trans (pkgWrite_resetctl s v)
  case cecnt => exact (pkg _ (by decide) rfl).trans (congrArg _ (pkgWrite_cecnt s v))
  case parkctl => exact (pkg _ (by decide) rfl).trans (pkgWrite_parkctl s v)
  case pwrstat => exact (pkg _ (by decide) rfl).trans (congrArg _ (pkgWrite_pwrstat s v))
  case decay => exact fun hc => (pkg _ (by omega) (by omega)).trans (congrArg _ (pkgWrite_decay s v hc))
  case sweepst => exact fun hc => (pkg _ (by omega) (by omega)).trans (congrArg _ (pkgWrite_sweepst s v hc))
  case gstep =>
    intro hc
    rw [pkg _ (by omega) (by omega), pkgWrite_gstep s v hc, exec_gstepWrite s v hc]
  case nonce =>
    exact fun hc => ⟨_, (pkg _ (by omega) (by omega)).trans (congrArg _ (pkgWrite_nonce s v hc)), replaceBits_chunk_same v hc,
      fun i hi h => replaceBits_chunk_ne v hi h⟩
  case attgo => exact (pkg _ (by decide) rfl).trans (pkgWrite_attgo s v)
  case portctl =>
    intro hc keeps
    have ctl : w (0x3000 + 64 * c) = .next (portWrite s c (.all v)) := by
      rw [pkg _ (by omega) (by omega), pkgWrite_portctl s _ hc]
    exact ⟨fun busy h => ctl.trans (congrArg _ (portWrite_ignored s busy h)), fun h => ctl.trans (congrArg _ (portWrite_controls s h))⟩
  case slewctl =>
    intro hc
    rw [cluster 0x400 hc (by decide) rfl (by omega), clusterWrite_slewctl, exec_slewctlWrite]
  case cmcbeat =>
    intro hc
    rw [cluster 0x410 hc (by decide) rfl (by omega), clusterWrite_cmcbeat, exec_cmcbeatWrite s v hc]
  case wdctl =>
    intro hc h
    rw [cluster 0x408 hc (by decide) rfl (by omega), clusterWrite_wdctl, if_pos h]
  case wdctlReserved =>
    intro hc h
    rw [cluster 0x408 hc (by decide) rfl (by omega), clusterWrite_wdctl, if_neg h]
  case readOnly => exact fun h8 ho => (pkg _ (by omega) h8).trans (congrArg _ (pkgWrite_readOnly s _ ho))
  case age =>
    intro hc ho
    rw [cluster (0x420 + 8 * o) hc (by omega) (by omega) (by omega), clusterWrite_readOnly s c _ (by omega)]
  case nothing => exact fun h ho => exec_registerWrite_nothing s v rfl (by omega) h

end Sys2Proof.Machine
end

section
/-! SUPPORT. What a step runs, and what each kind of word at the PC decodes to (01 R13, R15, R37, 03 R87, R88). -/

namespace Sys2Proof.Machine

open Sys2Proof

variable {s t q : State}

/-! ### Whose turn it is -/

theorem step_of_event {i : Instr} {rest : List Turn} (h : s.agenda = .event i :: rest) : step s = exec i { s with agenda := rest } := by
  rw [step, h]

theorem step_of_issue {a : Agent} {rest : List Turn} (h : s.agenda = .issue a :: rest) :
    step s = if candidate { s with agenda := rest } a.unit a.slot then runHart (State.issuing { s with agenda := rest } a)
      else .next { s with agenda := rest } := by
  rw [step, h]

theorem step_of_autoEvent {i : Instr} (h : s.agenda = []) (e : autoEvent s = some i) : step s = exec i s := by
  rw [step, h]; simp only [e]

theorem step_of_nextHart {a : Agent} (h : s.agenda = []) (e : autoEvent s = none) (n : nextHart s = some a) :
    step s = runHart (s.issuing a) := by
  rw [step, h]; simp only [e, n]

theorem step_idle (h : s.agenda = []) (e : autoEvent s = none) (n : nextHart s = none) : step s = .next s := by
  rw [step, h]; simp only [e, n]

/-! ### The instruction at the PC of a core, an update core or a CMC -/

/-- Slot 0 of a core, whose program tile command words stand in. -/
abbrev State.lead (s : State) : Prop := isCore s.cur.unit = true ∧ s.cur.slot = 0

theorem runHart_of_fetch {i : Instr} (h : fetchInstr s = .ok (t, i)) : runHart s = exec i t := by rw [runHart, h]

theorem runHart_of_fetchWord {i : Instr} (hu : isApp s.cur.unit = false) (h : fetchWord s = .ok (t, i)) : runHart s = exec i t :=
  runHart_of_fetch (by rw [fetchInstr, hu, ← h]; rfl)

/-- A word that starts no tile command word, and no padding to one, is decoded as 32 bits. -/
theorem fetchWord_of_word32 {w : Nat} (h : fetch s s.me.pc.toNat 4 = .ok (t, w)) (hw : startsTcw w = false)
    (pad : s.lead → w = 0x13 → s.me.pc.toNat % 32 ≠ 0 → skipPadding t s.me.pc.toNat = none) :
    fetchWord s = .ok (t, decodeWord32 w) := by
  have none : (if isCore s.cur.unit && s.cur.slot == 0 && w == 0x13 && s.me.pc.toNat % 32 != 0 then skipPadding t s.me.pc.toNat else none)
      = none := by
    split
    next c =>
      simp only [Bool.and_eq_true, beq_iff_eq, bne_iff_ne] at c
      obtain ⟨⟨⟨core, slot⟩, nop⟩, off⟩ := c
      exact pad ⟨core, slot⟩ nop off
    next => rfl
  simp only [fetchWord, h, res_bind_ok, none, hw, Bool.false_eq_true, ↓reduceIte]

theorem not_nop_of_startsTcw {w : Nat} (hw : startsTcw w = true) : (w == 0x13) = false := by
  simp only [startsTcw, Bool.and_eq_true, decide_eq_true_eq] at hw
  simp only [beq_eq_false_iff_ne, ne_eq]
  omega

/-- The 32 bytes of a tile command word where slot 0's program has one (R13). -/
theorem fetchWord_of_tcw {w v : Nat} (h : fetch s s.me.pc.toNat 4 = .ok (t, w)) (hw : startsTcw w = true) (lead : s.lead)
    (aligned : s.me.pc.toNat % 32 = 0) (hv : fetch t s.me.pc.toNat 32 = .ok (q, v)) :
    fetchWord s = .ok (q, decodeTcw (BitVec.ofNat 256 v)) := by
  obtain ⟨core, slot⟩ := lead
  simp [fetchWord, h, hw, core, slot, aligned, hv]

/-- The first word of a tile command word encodes nothing elsewhere (R87). -/
theorem fetchWord_of_strayTcw {w : Nat} (h : fetch s s.me.pc.toNat 4 = .ok (t, w)) (hw : startsTcw w = true)
    (stray : ¬(s.lead ∧ s.me.pc.toNat % 32 = 0)) : fetchWord s = .ok (t, .vacantEncoding (BitVec.ofNat 256 w) false) := by
  have elsewhere : (isCore s.cur.unit && s.cur.slot == 0 && s.me.pc.toNat % 32 == 0) = false := by
    simpa [State.lead, and_assoc] using stray
  have plain : ¬(isCore s.cur.unit && s.cur.slot == 0 && w == 0x13 && s.me.pc.toNat % 32 != 0) = true := by
    simp only [not_nop_of_startsTcw hw, Bool.and_false, Bool.false_and, Bool.false_eq_true, not_false_eq_true]
  simp only [fetchWord, h, res_bind_ok, if_neg plain, hw, elsewhere, Bool.false_eq_true, ↓reduceIte]

/-- Padding to a tile command word is passed over (R37). -/
theorem fetchWord_of_padding {b v : Nat} (h : fetch s s.me.pc.toNat 4 = .ok (t, 0x13)) (lead : s.lead) (off : s.me.pc.toNat % 32 ≠ 0)
    (pad : skipPadding t s.me.pc.toNat = some b)
    (hv : fetch (t.modMe fun h => h.skipped b ((b - s.me.pc.toNat) / 4)) b 32 = .ok (q, v)) :
    fetchWord s = .ok (q, decodeTcw (BitVec.ofNat 256 v)) := by
  obtain ⟨core, slot⟩ := lead
  simp [fetchWord, h, core, slot, off, pad, hv]

theorem decodeWord32_some {w : Nat} {i : Instr} (h : decode32? w = some i) : decodeWord32 w = i := by rw [decodeWord32, h]; rfl

/-- The canonical nop decodes. -/
theorem decode32?_nop : decode32? 0x13 = some (.rvAluOrBranch (.aluI .addi 0 0 0)) := by decide

theorem decodeWord32_none {w : Nat} (h : decode32? w = none) (hw : w < 2 ^ 32) :
    decodeWord32 w = .vacantEncoding (BitVec.ofNat 256 w) false := by
  have low : w % 4294967296 = w := Nat.mod_eq_of_lt hw
  rw [decodeWord32, h, low]; rfl

/-! ### The instruction at the PC of an application core (log entry 15) -/

theorem runHart_of_fetchApp {i : Instr} (hu : isApp s.cur.unit = true) (h : fetchApp s = .ok (t, i)) : runHart s = exec i t :=
  runHart_of_fetch (by rw [fetchInstr, hu, ← h]; rfl)

theorem fetchApp_of_intr {n : Nat} (idle : s.me.pipe = .idle) (h : takenIntr s s.cur.unit s.cur.slot = some n) :
    fetchApp s = .error (.trap (512 + n) 0) := by
  rw [fetchApp, idle, h]; rfl

theorem fetchApp_of_16 {lo : Nat} (idle : takenIntr s s.cur.unit s.cur.slot = none) (h : fetch s s.me.pc.toNat 2 = .ok (t, lo))
    (hlo : lo % 4 ≠ 3) : fetchApp s = .ok (t, .vacantEncoding (BitVec.ofNat 256 lo) false) := by
  simp [fetchApp, idle, h, hlo]

theorem fetchApp_of_32 {lo hi : Nat} (idle : takenIntr s s.cur.unit s.cur.slot = none) (h : fetch s s.me.pc.toNat 2 = .ok (t, lo))
    (hlo : lo % 4 = 3) (hhi : fetch t (s.me.pc.toNat + 2) 2 = .ok (q, hi)) :
    fetchApp s = .ok (q, if startsTcw (lo + 2 ^ 16 * hi) then .vacantEncoding (BitVec.ofNat 256 (lo + 2 ^ 16 * hi)) false
      else decodeWord32 (lo + 2 ^ 16 * hi)) := by
  simp [fetchApp, idle, h, hlo, hhi]

/-! ### The bytes of a fetch -/

theorem fetch_of_window {p : Place} {va n : Nat} (h : locate s va n .fetch false = .ok (t, p)) (hw : p.win = true)
    (clean : needCleanHome t p n = .ok ()) : fetch s va n = .ok (t, t.get p.pa n) := by
  simp [fetch, fetchPlace, h, hw, clean]

theorem icFind_icTouch {x : UnitSt} {line : Nat} {l : ICLine} (h : icFind x line = some l) : icFind (icTouch x l) line = some l := by
  have own : (l.line == line && l.job == x.job) = true := List.find?_some (p := fun l : ICLine => l.line == line && l.job == x.job) h
  exact List.find?_cons_of_pos own

theorem fetch_of_icache {p : Place} {va n : Nat} {l : ICLine} (h : locate s va n .fetch false = .ok (t, p)) (hw : p.win = false)
    (hl : icFind t.mine (va / 256) = some l) (clean : needCleanCode l va n = .ok ()) :
    fetch s va n = .ok (t.modMine fun x => icTouch x l, l.data.toNat / 2 ^ (8 * (va % 256)) % 2 ^ (8 * n)) := by
  simp [fetch, fetchPlace, h, hw, hl, needFetchRequest, icFind_icTouch hl, clean]

end Sys2Proof.Machine
end

section
/-! What a step runs: O55. -/

namespace Sys2Proof.Machine

open Sys2Proof

/-- Settles O55: a step is the `runHart` of the hart whose turn it is, and `runHart` is the `exec` of what the fetch lemmas above find at
the PC. -/
theorem stepRunsTheInstructionAtThePc : Obligations.StepRunsTheInstructionAtThePc := by
  unfold Obligations.StepRunsTheInstructionAtThePc
  intro s a rest s0 b pc lead
  refine ⟨?candidate, ?noCandidate, step_of_nextHart, step_idle, fun i => step_of_event, fun i => step_of_autoEvent, ?word, ?app,
    fun p n t => fetch_of_window, fun p n t l => fetch_of_icache⟩
  case candidate =>
    intro h hc
    rw [step_of_issue h, if_pos hc]
  case noCandidate =>
    intro h hc
    rw [step_of_issue h, if_neg (Bool.eq_false_iff.mp hc)]
  case word =>
    intro hu
    refine ⟨?word32, ?vacant, ?tcw, ?stray, ?padding⟩
    case word32 =>
      intro t w i h hw hi pad
      rw [runHart_of_fetchWord hu (fetchWord_of_word32 h hw pad), decodeWord32_some hi]
    case vacant =>
      intro t w h hlt hw hn
      have pad : ¬w = 0x13 := fun nop => by simp [nop, decode32?_nop] at hn
      rw [runHart_of_fetchWord hu (fetchWord_of_word32 h hw fun _ nop => absurd nop pad), decodeWord32_none hn hlt]
    case tcw => exact fun t w q v h hw hl aligned hv => runHart_of_fetchWord hu (fetchWord_of_tcw h hw hl aligned hv)
    case stray => exact fun t w h hw hs => runHart_of_fetchWord hu (fetchWord_of_strayTcw h hw hs)
    case padding => exact fun t k q v h hl off pad hv => runHart_of_fetchWord hu (fetchWord_of_padding h hl off pad hv)
  case app =>
    intro hu idle
    refine ⟨fun n hn => ?intr, fun none => ⟨?half, ?whole⟩⟩
    case intr =>
      have stop : fetchInstr b = .error (.trap (512 + n) 0) := by
        rw [fetchInstr, if_pos (show isApp b.cur.unit = true from hu), fetchApp_of_intr idle hn]
      rw [runHart, stop]
    case half => exact fun t lo h hlo => runHart_of_fetchApp hu (fetchApp_of_16 none h hlo)
    case whole =>
      intro t lo q hi h hlo hhi w
      have run := runHart_of_fetchApp hu (fetchApp_of_32 none h hlo hhi)
      constructor
      · intro i hw hi
        rw [run, if_neg (Bool.eq_false_iff.mp hw), decodeWord32_some hi]
      · intro hw hlt
        rw [run]
        split
        next => rfl
        next plain => rw [decodeWord32_none (hw.resolve_left plain) hlt]

end Sys2Proof.Machine
end

section
/-! SUPPORT. One part of the state changed twice, and the executing slot after the ways an instruction ends. -/

namespace Sys2Proof.Machine

open Sys2Proof

variable {s : State}

theorem State.modHart_modHart (u k : Nat) (f g : Slot → Slot) : (s.modHart u k f).modHart u k g = s.modHart u k fun h => g (f h) := by
  simp only [State.modHart, State.setHart, State.hart, fget_fset_same, fset_fset_same]

theorem State.modMe_modMe (f g : Slot → Slot) : (s.modMe f).modMe g = s.modMe fun h => g (f h) := State.modHart_modHart ..

theorem State.modUnit_modUnit (u : Nat) (f g : UnitSt → UnitSt) : (s.modUnit u f).modUnit u g = s.modUnit u fun x => g (f x) := by
  simp only [State.modUnit, State.setUnit, State.unit, fget_fset_same, fset_fset_same]

theorem State.modHart_congr {u k : Nat} {f g : Slot → Slot} (h : f (s.hart u k) = g (s.hart u k)) : s.modHart u k f = s.modHart u k g := by
  simp only [State.modHart, h]

theorem State.modMe_congr {f g : Slot → Slot} (h : f s.me = g s.me) : s.modMe f = s.modMe g := State.modHart_congr h

theorem State.begun_eq (n : Nat) : s.begun n = s.modMe fun h =>
    { h with park := 0, await := 0, waitOn := none, pc := h.pc + w64 n, instret := h.instret + 1,
             resv := h.resv.map fun r => { r with age := r.age + 1 } } := by
  rw [State.begun, State.advance, State.modMe_modMe]; rfl

theorem State.hart_begun_ne {n u k : Nat} (h : hartKey u k ≠ hartKey s.cur.unit s.cur.slot) : (s.begun n).hart u k = s.hart u k := by
  rw [State.begun_eq, State.hart_modMe_ne _ h]

/-- The slot that parks, slot 6 of a core apart, whose park is ILLEGAL (01 R19). -/
theorem finish_park {w c a : Nat} {on : Option Nat} (h : isCore s.cur.unit = true → s.cur.slot = 6 → c = 7 ∨ c = 9 ∨ c = 10) :
    finish w s (.error (.park c a on)) = .next (s.modMe fun h =>
      { h with park := BitVec.ofNat 4 c, await := BitVec.ofNat 6 a, waitOn := on, woken := false, resv := none }) := by
  have off : (s.onCore && s.cur.slot == 6 && !(c == 7 || c == 9 || c == 10)) = false := by
    by_cases core : isCore s.cur.unit = true <;> by_cases slot : s.cur.slot = 6 <;> simp_all [State.onCore]
    omega
  simp only [finish, takePark, off, Bool.false_eq_true, ↓reduceIte]

end Sys2Proof.Machine
end

section
/-! SUPPORT. The return from a trap, and the wait of WFI. -/

namespace Sys2Proof.Machine

open Sys2Proof

variable {s : State}

theorem releaseRestored_of_not {u k : Nat} (h : (s.hart u k).restored = false) : releaseRestored s u k = s := by
  simp [releaseRestored, h]

/-- A handler run that stopped nothing, on a core with no slot restored, ends with nothing more to do. -/
theorem endRun_of_running {u : Nat} (stopped : (s.unit u).stopped = false) (h : ∀ j, j < 7 → (s.hart u j).restored = false) :
    endRun s u = s := by
  have release (ks : List Nat) : (∀ k ∈ ks, k < 7) → ks.foldl (fun t k => releaseRestored t u k) s = s := by
    intro hk
    induction ks with
    | nil => rfl
    | cons k ks ih =>
      rw [List.foldl_cons, releaseRestored_of_not (h k (hk k List.mem_cons_self)), ih fun j hj => hk j (List.mem_cons_of_mem _ hj)]
  simp only [endRun, stopped, Bool.false_eq_true, ↓reduceIte]
  exact release _ fun k hk => by simpa [upTo] using hk

/-- What mret does on slot 7: the slot named restarts, slot 7 is idle. -/
def State.returned (s : State) (u k : Nat) : State :=
  (s.modHart u k fun g => { g.unpark with pc := (s.hart u 7).hxepc }).modHart u 7 fun g => { g with active := false }

theorem hartKey_ne {u k j : Nat} (h : k ≠ j) : hartKey u k ≠ hartKey u j := by simpa [hartKey] using h

theorem mretCore_of_no_event {u : Nat} (hk : wfld (s.hart u 7).hxtrap 10 8 < 7)
    (park : (s.hart u (wfld (s.hart u 7).hxtrap 10 8)).park = 10) (event : pendingEvent s u = false)
    (stopped : (s.unit u).stopped = false) (restored : ∀ j, j < 7 → (s.hart u j).restored = false) :
    mretCore s u = s.returned u (wfld (s.hart u 7).hxtrap 10 8) := by
  generalize hw : wfld (s.hart u 7).hxtrap 10 8 = k at *
  have go : (decide (k < 7) && (s.hart u k).park == 10) = true := by simp [hk, park]
  have quiet : pendingEvent (s.returned u k) u = false := event
  have fresh : ∀ j, j < 7 → ((s.returned u k).hart u j).restored = false := by
    intro j hj
    rw [State.returned, State.hart_modHart_ne _ (hartKey_ne (Nat.ne_of_lt hj))]
    by_cases same : j = k
    · rw [same, State.hart_modHart_same]
      exact restored k hk
    · rw [State.hart_modHart_ne _ (hartKey_ne same)]
      exact restored j hj
  have run : mretCore s u = if pendingEvent (s.returned u k) u then enterPending (s.returned u k) u else endRun (s.returned u k) u := by
    simp only [mretCore, hw, go, ↓reduceIte]
    rfl
  rw [run, quiet, if_neg (by decide), endRun_of_running (s := s.returned u k) stopped fresh]

end Sys2Proof.Machine
end

section
/-! Returns and waits: O10. -/

namespace Sys2Proof.Machine

open Sys2Proof

variable {s : State}

/-- An mret of slot 7 with nothing further to do (01 R53). -/
theorem exec_mret_core {u : Nat} (ready : s.ready) (cur : s.cur = { unit := u, slot := 7 }) (core : isCore u = true)
    (hk : wfld s.me.hxtrap 10 8 < 7) (park : (s.hart u (wfld s.me.hxtrap 10 8)).park = 10) (event : pendingEvent s u = false)
    (stopped : (s.unit u).stopped = false) (restored : ∀ j, j < 7 → (s.hart u j).restored = false) :
    exec .mret s = .next ((s.begun 4).returned u (wfld s.me.hxtrap 10 8)) := by
  have me : (s.begun 4).hart u 7 = (s.begun 4).me := by rw [State.me, State.begun_cur, cur]
  have other {j : Nat} (hj : j < 7) : (s.begun 4).hart u j = s.hart u j :=
    State.hart_begun_ne (by rw [cur]; exact hartKey_ne (Nat.ne_of_lt hj))
  have word : ((s.begun 4).hart u 7).hxtrap = s.me.hxtrap := by rw [me, State.begun_me]
  have core7 := mretCore_of_no_event (s := s.begun 4) (u := u) (word ▸ hk) (by rw [word, other hk]; exact park) event stopped
    fun j hj => other hj ▸ restored j hj
  change execMret s = _
  rw [execMret]
  refine issue_ok (ok := s.onAny) rfl ready ?_
  simp only [cur, core, ↓reduceIte, beq_self_eq_true, need_true, res_bind_ok, core7, word]

theorem exec_mret_own (ready : s.ready) (own : isCmc s.cur.unit = true ∨ isApp s.cur.unit = true) (priv : s.me.priv = 3) :
    exec .mret s = .next ((s.begun 4).modMe Slot.mretTo) := by
  have notCore : isCore s.cur.unit = false := by simp [isCore, isCmc, isApp] at own ⊢; omega
  have notUcore : isUcore s.cur.unit = false := by simp [isUcore, isCmc, isApp] at own ⊢; omega
  have mode : s.mode = 3 := by simp [State.mode, notCore, notUcore, priv]
  change execMret s = _
  rw [execMret]
  refine issue_ok (ok := s.onAny) rfl ready ?_
  simp only [notCore, notUcore, mode, Bool.false_eq_true, ↓reduceIte, Bool.not_false, beq_self_eq_true, Bool.and_self, need_true, res_bind_ok]

/-- TW and VTW let WFI wait (log entry 15). -/
def mayWait (s : State) : Prop :=
  isCmc s.cur.unit = true ∨ isApp s.cur.unit = true →
    (s.me.priv = 3 ∨ s.me.pv.mstatus.getLsbD bTW = false) ∧ (s.me.pv.virt = false ∨ s.me.pv.hstatus.getLsbD bTW = false)

/-- The body of a WFI that may wait: it goes on with a wake, or parks. -/
theorem wfiBody_eq (h : mayWait s) : wfiBody s.me (s.begun 4) =
    if (s.me.park == 4 && s.me.woken) || pendingIntrs (s.begun 4) s.cur.unit s.cur.slot != [] then
      .ok ((s.begun 4).modMe fun h => { h with woken := false })
    else .error (.park 4 0 none) := by
  have tw : (!(isCmc s.cur.unit || isApp s.cur.unit) || s.me.priv == 3 || !s.me.pv.mstatus.getLsbD bTW) = true := by
    cases own : isCmc s.cur.unit || isApp s.cur.unit
    · rfl
    · simpa using (h (by simpa using own)).1
  have vtw : (!(isCmc s.cur.unit || isApp s.cur.unit) || !s.me.pv.virt || !s.me.pv.hstatus.getLsbD bTW) = true := by
    cases own : isCmc s.cur.unit || isApp s.cur.unit
    · rfl
    · simpa using (h (by simpa using own)).2
  rw [wfiBody, State.begun_cur, need_of tw, need_of vtw, res_bind_ok, res_bind_ok, need]
  split <;> rfl

theorem exec_wfi_goes_on (ready : s.ready) (h : mayWait s)
    (wake : s.me.park = 4 ∧ s.me.woken = true ∨ pendingIntrs (s.begun 4) s.cur.unit s.cur.slot ≠ []) :
    exec .wfi s = .next ((s.begun 4).modMe fun h => { h with woken := false }) :=
  issue_ok (ok := s.onAny) rfl ready (by rw [wfiBody_eq h, if_pos (by simpa using wake)])

theorem exec_wfi_parks (ready : s.ready) (h : mayWait s) (asleep : s.me.park ≠ 4 ∨ s.me.woken = false)
    (none : pendingIntrs (s.begun 4) s.cur.unit s.cur.slot = []) (slot : isCore s.cur.unit = true → s.cur.slot ≠ 6) :
    exec .wfi s = .next (s.modMe fun h => { h with park := 4, await := 0, waitOn := .none, woken := false, resv := .none }) := by
  have no : ¬((s.me.park == 4 && s.me.woken) || pendingIntrs (s.begun 4) s.cur.unit s.cur.slot != []) = true := by
    simpa [none, imp_iff_not_or] using asleep
  change issue .wfi s.onAny s (wfiBody s.me) = _
  rw [issue_eq (ok := s.onAny) rfl ready, wfiBody_eq h, if_neg no, finish_park (s := s.modMe Slot.unpark) fun core six => absurd six (slot core), State.modMe_modMe]
  rfl

/-- Settles O10: what mret and wfi do on each kind of unit. -/
theorem returnsAndWaitsComplete : Obligations.ReturnsAndWaitsComplete := by
  unfold Obligations.ReturnsAndWaitsComplete
  intro s u k ready
  refine ⟨?core, exec_mret_own ready, ⟨rfl, rfl, rfl⟩, fun wait => ⟨exec_wfi_goes_on ready wait, exec_wfi_parks ready wait⟩⟩
  intro cur core hk named park event stopped restored
  have slot : wfld s.me.hxtrap 10 8 = k := named
  have me : (s.begun 4).hart u 7 = (s.begun 4).me := by rw [State.me, State.begun_cur, cur]
  have run := exec_mret_core ready cur core (slot ▸ hk) (slot ▸ park) event stopped restored
  rw [slot] at run
  have apart : hartKey u k ≠ hartKey u 7 := hartKey_ne (Nat.ne_of_lt hk)
  have named : (s.begun 4).hart u k = s.hart u k := State.hart_begun_ne (by rw [cur]; exact apart)
  refine ⟨_, run, ?restarts, ?idle, ?others, rfl⟩
  case restarts =>
    rw [State.returned, State.hart_modHart_ne _ apart, State.hart_modHart_same, named, me, State.begun_me]
    rfl
  case idle => rw [State.returned, State.hart_modHart_same]
  case others =>
    intro i j notK not7
    rw [State.returned, State.hart_modHart_ne _ not7, State.hart_modHart_ne _ notK, State.hart_begun_ne (by rw [cur]; exact not7)]

end Sys2Proof.Machine
end

section
/-! SUPPORT. The body of a Zicsr instruction (01 R23, 03 R90). -/

namespace Sys2Proof.Machine

open Sys2Proof

variable {s t u s1 s2 : State}

/-! ### What a read and a write of a CSR leave alone -/

/-- A read of a CSR takes an open value or nothing. -/
theorem csrRead_state {n : Nat} {v : Word} (h : csrRead s n = some (t, v)) : t = s ∨ t = s.took := by
  have counter (h : csrCounter s n = some (t, v)) : t = s ∨ t = s.took := by
    simp only [csrCounter] at h
    split at h
    · cases h; exact .inl rfl
    · split at h
      · cases h; exact .inr rfl
      · cases h
  have value {o : Option Word} (h : o.map (fun v => (s, v)) = some (t, v)) : t = s ∨ t = s.took := by
    obtain ⟨w, -, e⟩ := Option.map_eq_some_iff.mp h
    cases e; exact .inl rfl
  have own (h : csrOwn s n = some (t, v)) : t = s ∨ t = s.took := by
    simp only [csrOwn] at h
    split at h
    · cases h; exact .inr rfl
    · split at h
      · cases h; exact .inl rfl
      · split at h
        · cases h; exact .inl rfl
        · exact value h
  have either {o : Option Word} (h : ((csrCounter s n).orElse fun _ => o.map fun v => (s, v)) = some (t, v)) : t = s ∨ t = s.took := by
    cases hc : csrCounter s n with
    | some p => rw [hc] at h; exact counter (hc.trans h)
    | none => rw [hc] at h; exact value h
  simp only [csrRead] at h
  split at h
  · exact either h
  · split at h
    · exact either h
    · split at h
      · exact own h
      · cases h

theorem me_of_csrRead {n : Nat} {v : Word} (h : csrRead s n = some (t, v)) : t.me = s.me := by
  rcases csrRead_state h with rfl | rfl <;> rfl

/-! ### The body of an access -/

/-- An access that claims an interrupt's identity. -/
def csrClaim (s : State) (n : BitVec 12) : Bool := isApp s.cur.unit && csrClaims (csrNumber s.me n.toNat)

/-- The operand: the immediate, or the register. -/
def csrOperand (s : State) (imm : Bool) (a : BitVec 5) : Word := if imm then a.setWidth 64 else s.me.reg a.toNat

variable {op : CsrOp} {imm : Bool} {d a : BitVec 5} {n : BitVec 12} {old : Word}

theorem csr_writes (h : op = .rw ∨ a ≠ 0) : (op == .rw || a != 0) = true := by simpa using h
theorem csr_only_reads (hop : op ≠ .rw) (ha : a = 0) : (op == .rw || a != 0) = false := by simp [hop, ha]

theorem csrBody_virtual (virt : csrVirtual s n.toNat = true) : csrBody op imm d a n s = .error (.trap cVirtual 0) := by
  rw [csrBody, virt, Bool.not_true, need_false, res_bind_error]

/-- No hypervisor traps the access, and a claim need not wait (09 R248). -/
structure csrGoes (s : State) (op : CsrOp) (a : BitVec 5) (n : BitVec 12) : Prop where
  virt : csrVirtual s n.toNat = false
  clean : op = .rw ∨ a ≠ 0 → csrClaim s n = true → rdcClean s s.cur.unit = true

theorem csrGoes.waits (h : csrGoes s op a n) :
    (if (op == .rw || a != 0) && isApp s.cur.unit && csrClaims (csrNumber s.me n.toNat) then waitAcquire s 6 else .ok ()) = .ok () := by
  split
  next claim =>
    simp only [Bool.and_assoc, Bool.and_eq_true (op == .rw || a != 0)] at claim
    exact waitAcquire_ok (.inr (h.clean (by simpa using claim.1) claim.2))
  next => rfl

theorem csrBody_unreadable (go : csrGoes s op a n) (r : csrRead s n.toNat = none) : csrBody op imm d a n s = .error .illegal := by
  simp only [csrBody, go.virt, Bool.not_false, need_true, res_bind_ok, go.waits, r]

theorem csrOperand_of_csrRead (r : csrRead s n.toNat = some (s1, old)) : csrOperand s1 imm a = csrOperand s imm a := by
  rw [csrOperand, me_of_csrRead r, csrOperand]

section
variable (go : csrGoes s op a n) (plain : s.me.plain a) (r : csrRead s n.toNat = some (s1, old))
include go plain r

theorem csrBody_reads (hop : op ≠ .rw) (ha : a = 0) : csrBody op imm d a n s = writeX s1 d old := by
  have source : readX s1 a = .ok (s1, s1.me.reg a.toNat) := readX_plain (me_of_csrRead r ▸ plain)
  simp only [csrBody, go.virt, Bool.not_false, need_true, res_bind_ok, go.waits, r]
  cases imm <;> simp only [source, res_bind_ok, csr_only_reads hop ha, Bool.false_eq_true, ↓reduceIte]

theorem csrBody_unwritable (w : op = .rw ∨ a ≠ 0) (no : csrWrite s1 n.toNat (csrNew op old (csrOperand s imm a)) = none) :
    csrBody op imm d a n s = .error .illegal := by
  have source : readX s1 a = .ok (s1, s1.me.reg a.toNat) := readX_plain (me_of_csrRead r ▸ plain)
  rw [← csrOperand_of_csrRead r] at no
  simp only [csrBody, go.virt, Bool.not_false, need_true, res_bind_ok, go.waits, r]
  cases imm <;> simp only [csrOperand, Bool.false_eq_true, ↓reduceIte] at no <;>
    simp only [source, res_bind_ok, csr_writes w, no, Bool.false_eq_true, ↓reduceIte]

theorem csrBody_writes (w : op = .rw ∨ a ≠ 0) (yes : csrWrite s1 n.toNat (csrNew op old (csrOperand s imm a)) = some s2) :
    csrBody op imm d a n s = writeX (s2.acquiredIf (csrClaim s n)) d old := by
  have source : readX s1 a = .ok (s1, s1.me.reg a.toNat) := readX_plain (me_of_csrRead r ▸ plain)
  rw [← csrOperand_of_csrRead r] at yes
  simp only [csrBody, go.virt, Bool.not_false, need_true, res_bind_ok, go.waits, r, State.acquiredIf, csrClaim]
  cases imm <;> simp only [csrOperand, Bool.false_eq_true, ↓reduceIte] at yes <;>
    simp only [source, res_bind_ok, csr_writes w, yes, Bool.false_eq_true, ↓reduceIte] <;> rfl

end

end Sys2Proof.Machine
end

section
/-! The Zicsr instructions: O11. -/

namespace Sys2Proof.Machine

open Sys2Proof

/-- Settles O11: the instruction ends as its body does, which runs with the PC past it. -/
theorem csrInstructionsComplete : Obligations.CsrInstructionsComplete := by
  unfold Obligations.CsrInstructionsComplete
  intro s s1 s2 op imm d a n old ready plain i x claims
  have body {r : Res State} (h : csrBody op imm d a n (s.begun 4) = r) : exec i s = finish (instrWord i) (s.modMe Slot.unpark) r := by
    rw [← h]
    exact issue_eq (ok := s.onAny) rfl ready
  have claim : csrClaim (s.begun 4) n = claims := by
    rw [csrClaim, State.begun_me]; rfl
  have operand : csrOperand (s.begun 4) imm a = x := by rw [csrOperand, State.begun_reg]
  refine ⟨fun virt => (body (csrBody_virtual virt)).trans (finish_trap ..), fun virt clean => ?_⟩
  have go : csrGoes (s.begun 4) op a n := ⟨virt, fun w c => clean w (claim ▸ c)⟩
  have plain' := plain_begun (n := 4) plain
  refine ⟨?reads, ?writes, ?unreadable, ?unwritable⟩
  case reads =>
    intro r hop ha free
    rw [body (csrBody_reads go plain' r hop ha), writeX_setX free, finish_ok]
  case writes =>
    intro r w yes free
    rw [body (csrBody_writes go plain' r w (operand ▸ yes)), claim, writeX_setX (free_acquiredIf free), finish_ok]
  case unreadable =>
    intro r
    rw [body (csrBody_unreadable go r), finish_illegal]
    rfl
  case unwritable =>
    intro r w no
    rw [body (csrBody_unwritable go plain' r w (operand ▸ no)), finish_illegal]
    rfl

end Sys2Proof.Machine
end

section
/-! SUPPORT. The CSRs of a core's slot by number, and its hxcoord (01 R23 to R34, 16 R368). -/

namespace Sys2Proof.Machine

open Sys2Proof

variable {s : State}

/-! ### The logical station that names a core (16 R368) -/

theorem logicalStation_unmapped {j : BitVec 16} {phys : Nat} {hint : Option Nat} (h : jobDescPa? s j 96 = none) :
    logicalStation s j phys hint = phys := by
  rw [logicalStation, h]

/-- A job's STATIONMAP, read at pa, maps a logical station to a physical one. -/
abbrev stationMaps (s : State) (pa phys i : Nat) : Prop := i < 48 ∧ s.get (pa + i) 1 = phys

/-- The lowest logical station that maps there. -/
def lowestStation (s : State) (pa phys : Nat) : Nat := ((upTo 48).find? fun i => s.get (pa + i) 1 == phys).getD phys

theorem lowestStation_of_maps {pa phys i : Nat} (h : stationMaps s pa phys i) (low : ∀ k, k < i → ¬ stationMaps s pa phys k) :
    lowestStation s pa phys = i := by
  have found : ((upTo 48).find? fun i => s.get (pa + i) 1 == phys) = some i := by
    rw [upTo, List.find?_range_eq_some]
    refine ⟨by simpa using h.2, by simpa using h.1, fun k hk => ?_⟩
    simpa using fun e => low k hk ⟨by omega, e⟩
  rw [lowestStation, found, Option.getD_some]

theorem lowestStation_of_not_maps {pa phys : Nat} (h : ∀ i, ¬ stationMaps s pa phys i) : lowestStation s pa phys = phys := by
  have none : ((upTo 48).find? fun i => s.get (pa + i) 1 == phys) = none := by
    rw [upTo, List.find?_range_eq_none]
    intro i hi
    simpa using fun e => h i ⟨hi, e⟩
  rw [lowestStation, none, Option.getD_none]

section
variable {j : BitVec 16} {phys pa : Nat} {hint : Option Nat} (hpa : jobDescPa? s j 96 = some pa)
include hpa

theorem logicalStation_hinted {h : Nat} (hh : hint = some h) (maps : stationMaps s pa phys h) : logicalStation s j phys hint = h := by
  simp [logicalStation, hpa, hh, maps.1, maps.2]

theorem logicalStation_not_hinted (no : ∀ h, hint = some h → ¬ stationMaps s pa phys h) :
    logicalStation s j phys hint = lowestStation s pa phys := by
  cases hint with
  | none => simp only [logicalStation, hpa]; rfl
  | some h =>
    have miss : (decide (h < 48) && s.get (pa + h) 1 == phys) = false := by simpa [stationMaps] using no h rfl
    simp only [logicalStation, hpa, miss, Bool.false_eq_true, ↓reduceIte]
    rfl

end

theorem lowestStation_lt {pa phys : Nat} (h : phys < 48) : lowestStation s pa phys < 48 := by
  rw [lowestStation]
  cases e : (upTo 48).find? fun i => s.get (pa + i) 1 == phys with
  | none => exact h
  | some i => simpa [upTo] using List.mem_of_find?_eq_some e

/-- A logical station is one of the 48. -/
theorem logicalStation_lt {j : BitVec 16} {phys : Nat} {hint : Option Nat} (h : phys < 48) : logicalStation s j phys hint < 48 := by
  cases hpa : jobDescPa? s j 96 with
  | none => rw [logicalStation_unmapped hpa]; exact h
  | some pa =>
    by_cases hinted : ∃ i, hint = some i ∧ stationMaps s pa phys i
    · obtain ⟨i, hi, maps⟩ := hinted
      rw [logicalStation_hinted hpa hi maps]
      exact maps.1
    · rw [logicalStation_not_hinted hpa fun i hi maps => hinted ⟨i, hi, maps⟩]
      exact lowestStation_lt h

/-! ### hxcoord (01 Table 1.7) -/

/-- The core holds no job, and none of its slots 0 to 5 a task. -/
def coreEmpty (s : State) (u : Nat) : Prop := (s.unit u).job = 0 ∧ ∀ i, i < 6 → (s.hart u i).active = false

theorem coreEmpty_iff {u : Nat} : coreEmpty s u ↔ (s.unit u).job = 0 ∧ ((upTo 6).all fun i => !(s.hart u i).active) = true := by
  simp [coreEmpty, upTo, List.all_eq_true]

theorem coordWord_of_empty {u k : Nat} (h : coreEmpty s u) : coordWord s u k = 0 := by
  rw [coordWord, if_pos (coreEmpty_iff.mp h)]

theorem coreStation_lt {u : Nat} (h : isCore u = true) : coreStation u < 48 := by
  simp only [isCore, decide_eq_true_eq] at h
  simp only [coreStation]
  omega

theorem coreAt_cluster {x y k : Nat} (hk : k < 4) : coreAt x y k / 16 = x / 2 + 6 * (y / 2) := by
  rw [coreAt]; omega

theorem coreAt_quad {x y k : Nat} (hk : k < 4) : coreAt x y k / 4 % 4 = x % 2 + 2 * (y % 2) := by
  rw [coreAt]; omega

/-- Fields put side by side are read back, each within its width. -/
theorem coord_layout {b y x c q r k : Nat} (hb : b < 2) (hy : y < 4) (hx : x < 16) (hc : c < 16) (hq : q < 4) (hr : r < 4) (hk : k < 8) :
    let w := w64 (put b 17 + put y 15 + put x 11 + put c 7 + put q 5 + put r 3 + k)
    wfld w 63 18 = 0 ∧ wfld w 17 17 = b ∧ wfld w 16 15 = y ∧ wfld w 14 11 = x ∧ wfld w 10 7 = c ∧ wfld w 6 5 = q ∧ wfld w 4 3 = r
      ∧ wfld w 2 0 = k := by
  intro w
  have value : w.toNat = b * 2 ^ 17 + y * 2 ^ 15 + x * 2 ^ 11 + c * 2 ^ 7 + q * 2 ^ 5 + r * 2 ^ 3 + k := by
    simp only [w, w64, BitVec.toNat_ofNat, put]
    omega
  simp only [wfld, fld, value]
  refine ⟨?_, ?_, ?_, ?_, ?_, ?_, ?_, ?_⟩ <;> omega

/-- The fields of hxcoord, of a slot k of a core at a logical station st. -/
theorem coordWord_fields {u k : Nat} (core : isCore u = true) (hk : k < 8) (h : ¬coreEmpty s u) :
    let w := coordWord s u k
    let st := logicalStation s (s.unit u).job (coreStation u) (if k < 6 then placeHint (s.hart u k).place else none)
    st < 48 ∧ wfld w 63 18 = 0 ∧ wfld w 17 17 = (if st % 12 < 6 then 0 else 1) ∧ wfld w 16 15 = st / 12 ∧ wfld w 14 11 = st % 12
      ∧ wfld w 10 7 = st % 12 / 2 + 6 * (st / 12 / 2) ∧ wfld w 6 5 = st % 12 % 2 + 2 * (st / 12 % 2) ∧ wfld w 4 3 = u % 4
      ∧ wfld w 2 0 = k := by
  intro w st
  have hst : st < 48 := logicalStation_lt (coreStation_lt core)
  have hw : w = w64 (put (if st % 12 < 6 then 0 else 1) 17 + put (st / 12) 15 + put (st % 12) 11
      + put (coreAt (st % 12) (st / 12) (u % 4) / 16) 7 + put (coreAt (st % 12) (st / 12) (u % 4) / 4 % 4) 5 + put (u % 4) 3 + k) := by
    simp only [w, coordWord, if_neg (mt coreEmpty_iff.mpr h)]
    rfl
  have hu : u % 4 < 4 := Nat.mod_lt _ (by decide)
  rw [hw, coreAt_cluster hu, coreAt_quad hu]
  exact ⟨hst, coord_layout (by split <;> decide) (by omega) (by omega) (by omega) (by omega) hu hk⟩

end Sys2Proof.Machine
end

section
/-! SUPPORT. The CSRs of a core's slot by number (01 Tables 1.5 to 1.15, 03 Table 3.2). -/

namespace Sys2Proof.Machine

open Sys2Proof

variable {s : State} {n : Nat} {v : Word}

section
variable (core : isCore s.cur.unit = true) (hc : csrCounter s n = none)
include core hc

theorem csrRead_common (h : csrCommon s n = some v) : csrRead s n = some (s, v) := by
  simp [csrRead, core, hc, h]

theorem csrRead_coreOnly (h : csrCommon s n = none) (hv : csrCore s n = some v) : csrRead s n = some (s, v) := by
  simp [csrRead, core, hc, h, hv]

theorem csrRead_vacant (h : csrCommon s n = none) (hv : csrCore s n = none) : csrRead s n = none := by
  simp [csrRead, core, hc, h, hv]

end

theorem csrCounter_none (h : n < 0xC00 ∨ 0xC02 < n) : csrCounter s n = none := by
  simp (disch := omega) only [csrCounter, if_neg]

theorem csrCommon_decay {j : Nat} (hj : j < 16) : csrCommon s (0x810 + j) = some ((fget s.mine.dt j 0x3F800000).setWidth 64) := by
  simp (disch := omega) only [csrCommon, if_neg, if_pos, Nat.add_sub_cancel_left, lambdaReset]
  rfl

theorem csrCore_stream {j : Nat} (hj : j < 4) : csrCore s (0xCC8 + j) = some (s.me.gen j).cfg := by
  simp (disch := omega) only [csrCore, if_neg, if_pos, Nat.add_sub_cancel_left]

theorem csrCommon_stream {j : Nat} (hj : j < 4) : csrCommon s (0xCC8 + j) = none := by
  simp (disch := omega) only [csrCommon, if_neg]

theorem csrCore_service (slot : s.cur.slot = 7) :
    csrCore s 0x7C0 = some s.me.hxtrap ∧ csrCore s 0x7C1 = some s.me.hxtval ∧ csrCore s 0x7C2 = some s.me.hxepc := by
  simp [csrCore, slot]

/-- The trap registers are slot 7's alone. -/
theorem csrCore_not_service (slot : s.cur.slot ≠ 7) (h : 0x7C0 ≤ n ∧ n ≤ 0x7C2) : csrCore s n = none := by
  simp (disch := omega) only [csrCore, if_neg]

/-- The numbers of the custom ranges that name no register. -/
def vacantCsr (n : Nat) : Prop :=
  (0x802 ≤ n ∧ n ≤ 0x80F) ∨ (0x820 ≤ n ∧ n ≤ 0x8FF) ∨ (0xCD5 ≤ n ∧ n ≤ 0xCFF) ∨ (0x7C3 ≤ n ∧ n ≤ 0x7FF)
    ∨ (0xCCC ≤ n ∧ n ≤ 0xCCF) ∨ n = 0xCC6 ∨ n = 0xCC7

theorem csrRead_of_vacant (core : isCore s.cur.unit = true) (h : vacantCsr n) : csrRead s n = none := by
  rw [vacantCsr] at h
  refine csrRead_vacant core (csrCounter_none (by omega)) ?_ ?_
  · simp (disch := omega) only [csrCommon, if_neg]
  · simp (disch := omega) only [csrCore, if_neg, ite_self]

/-! ### Values -/

theorem statWord_eq (h : Slot) : w64 (statWord h) = BitVec.ofNat 64 (h.await.toNat * 2 ^ 26 + h.park.toNat * 2 ^ 22 + h.kind.toNat * 2 ^ 20
    + h.pfx.toNat * 2 ^ 2 + (if h.pp then 2 else 0) + if h.active then 1 else 0) := rfl

theorem cfg_eq (g : StreamGen) : g.cfg = BitVec.ofNat 64 (g.count.toNat * 2 ^ 32 + g.stride.toNat * 2 ^ 16 + g.ew.toNat * 4
    + (if g.dir then 2 else 0) + if g.bound then 1 else 0) := rfl

/-- hxlease: an array's lease shows on its holder alone (01 Table 1.15). -/
theorem hxlease_eq (s : State) (u : Nat) :
    let q := s.quad (quadOf u)
    let part (j n : Nat) : Nat := if (q.array j).holder = some (u % 4) then n else 0
    hxlease s u = BitVec.ofNat 64 (part 0 (q.array 0).left + part 0 (2 ^ 5) + part 1 (q.array 1).left * 2 ^ 6 + part 1 (2 ^ 11)
      + part 0 (q.array 0).cyc * 2 ^ 12 + part 1 (q.array 1).cyc * 2 ^ 21 + if waitsArray s u then 3 * 2 ^ 30 else 0) := by
  intro q part
  have waits (w : Bool) : bitAt w 30 + bitAt w 31 = if w then 3 * 2 ^ 30 else 0 := by cases w <;> rfl
  simp only [hxlease, w64, put, bitAt, beq_iff_eq, part, q]
  congr 1
  have := waits (waitsArray s u)
  simp only [bitAt] at this
  omega

/-! ### Writes -/

theorem csrWrite_core (core : isCore s.cur.unit = true) : csrWrite s n v =
    if n = 0x800 then some (s.modMe fun h => { h with fflags := v.setWidth 8 })
    else if n = 0x801 then some (s.modMe fun h => { h with frm := v.setWidth 2 })
    else if 0x810 ≤ n ∧ n ≤ 0x81F then some (s.modMine fun x => { x with dt := fset x.dt (n - 0x810) (v.setWidth 32) })
    else if s.cur.slot = 7 ∧ n = 0x7C0 then some (s.modMe fun h => { h with hxtrap := v &&& trapMask })
    else if s.cur.slot = 7 ∧ n = 0x7C1 then some (s.modMe fun h => { h with hxtval := v })
    else if s.cur.slot = 7 ∧ n = 0x7C2 then some (s.modMe fun h => { h with hxepc := v &&& 0xFFFFFFFFFFFFFFFC#64 })
    else if s.cur.slot = 7 ∧ n = 0x340 then some (s.modMe fun h => { h with mscratch := v })
    else none := by
  simp only [csrWrite, core, Bool.not_true, Bool.false_and, Bool.false_eq_true, ↓reduceIte, Bool.true_and, Bool.and_eq_true, beq_iff_eq,
    decide_eq_true_eq]

end Sys2Proof.Machine
end

section
/-! The CSRs of a core: O12. -/

namespace Sys2Proof.Machine

open Sys2Proof

/-- Settles O12: each number by the lemma that says what it reads and writes; hxcoord and the STATIONMAP by lemmas of their own. -/
theorem csrNumbers : Obligations.CsrNumbers := by
  unfold Obligations.CsrNumbers
  intro s v core
  have common {n : Nat} {w : Word} (hc : csrCounter s n = none) (h : csrCommon s n = some w) : csrRead s n = some (s, w) :=
    csrRead_common core hc h
  have own {n : Nat} {w : Word} (hc : csrCounter s n = none) (h : csrCommon s n = none) (hw : csrCore s n = some w) :
      csrRead s n = some (s, w) := csrRead_coreOnly core hc h hw
  have write (n : Nat) := csrWrite_core (n := n) (v := v) core
  refine ⟨common rfl rfl, common rfl rfl, common rfl rfl, own rfl rfl rfl, own rfl rfl rfl, common rfl rfl, ?empty, ?fields, ?map,
    common rfl rfl, own rfl rfl rfl, ?streams, common rfl rfl, ?lease, ?decay, common rfl rfl, common rfl rfl, own rfl rfl rfl, ?service,
    ?notService, ?fflags, ?frm, ?decayWrite, ?readOnly, fun n => csrRead_of_vacant core⟩
  case empty => exact fun job idle => coordWord_of_empty ⟨job, idle⟩
  case fields => exact fun slot empty => coordWord_fields core slot empty
  case map =>
    intro j phys hint
    refine ⟨logicalStation_unmapped, fun pa hpa => ⟨fun h hh => logicalStation_hinted hpa hh, fun i no hi low => ?_, fun no => ?_⟩⟩
    · rw [logicalStation_not_hinted hpa no, lowestStation_of_maps hi low]
    · rw [logicalStation_not_hinted hpa fun h _ => no h, lowestStation_of_not_maps no]
  case streams =>
    intro j hj
    exact own (csrCounter_none (by omega)) (csrCommon_stream hj) (csrCore_stream hj)
  case lease => exact own rfl rfl (congrArg some (hxlease_eq s s.cur.unit))
  case decay => exact fun j hj => common (csrCounter_none (by omega)) (csrCommon_decay hj)
  case service =>
    intro slot
    obtain ⟨trap, tval, epc⟩ := csrCore_service slot
    refine ⟨own rfl rfl trap, own rfl rfl tval, own rfl rfl epc, ?_, ?_, ?_⟩
    · simp [write, slot]; rfl
    · simp [write, slot]
    · simp [write, slot]
  case notService =>
    intro slot
    have vacant {n : Nat} (h : 0x7C0 ≤ n ∧ n ≤ 0x7C2) : csrRead s n = none :=
      csrRead_vacant core (csrCounter_none (by omega)) (by simp (disch := omega) only [csrCommon, if_neg]) (csrCore_not_service slot h)
    refine ⟨vacant (by omega), vacant (by omega), vacant (by omega), ?_, ?_, ?_⟩ <;> simp [write, slot]
  case fflags => simp [write]
  case frm => simp [write]
  case decayWrite =>
    intro j hj
    simp (disch := omega) only [write, if_neg, if_pos, Nat.add_sub_cancel_left]
  case readOnly =>
    intro n hlo hhi
    simp (disch := omega) only [write, if_neg]

end Sys2Proof.Machine
end

section
/-! SUPPORT. A read and a write of a register that a stream is bound to (01 R21, 04 R117 to R119). -/

namespace Sys2Proof.Machine

open Sys2Proof

variable {s t : State} {r : BitVec 5} {v : Word} {i : Nat}

theorem isBound_of_gen (hr : 28 ≤ r.toNat) (bound : (s.me.gen (r.toNat - 28)).bound = true) : s.me.isBound r.toNat = true := by
  simp [Slot.isBound, hr, bound]

/-! ### The register -/

section
variable (hr : 28 ≤ r.toNat) (bound : (s.me.gen (r.toNat - 28)).bound = true)
include hr bound

theorem readX_writeStream (dir : (s.me.gen (r.toNat - 28)).dir = true) : readX s r = .error .illegal := by
  simp [readX, isBound_of_gen hr bound, dir]

theorem readX_readStream (dir : (s.me.gen (r.toNat - 28)).dir = false) : readX s r = popStream s (r.toNat - 28) := by
  simp [readX, isBound_of_gen hr bound, dir]

theorem writeX_readStream (dir : (s.me.gen (r.toNat - 28)).dir = false) : writeX s r v = .error .illegal := by
  simp [writeX, isBound_of_gen hr bound, dir]

theorem writeX_full (dir : (s.me.gen (r.toNat - 28)).dir = true) (full : 8 ≤ (s.me.gen (r.toNat - 28)).unaccepted) :
    writeX s r v = .error (.park 2 (32 + r.toNat) none) := by
  simp [writeX, isBound_of_gen hr bound, dir, full]

/-- An append is one store to the next address (R119). -/
theorem writeX_appends (dir : (s.me.gen (r.toNat - 28)).dir = true) (room : (s.me.gen (r.toNat - 28)).unaccepted < 8)
    (store : storeAt s (s.me.gen (r.toNat - 28)).next.toNat (2 ^ (s.me.gen (r.toNat - 28)).ew.toNat) v.toNat = .ok t) :
    writeX s r v = .ok (t.modMe fun h => (h.setGen (r.toNat - 28)
      { (s.me.gen (r.toNat - 28)).moved with unaccepted := (s.me.gen (r.toNat - 28)).unaccepted + 1 }).setReg r.toNat v) := by
  have space : ¬ 8 ≤ (s.me.gen (r.toNat - 28)).unaccepted := Nat.not_le.mpr room
  simp [writeX, isBound_of_gen hr bound, dir, space, store]

end

/-! ### The pop -/

/-- Slot 0's older tile operations hold the bytes of a stream's next element (01 R45). -/
def streamHeld (s : State) (g : StreamGen) : Prop :=
  isCore s.cur.unit = true ∧ s.cur.slot = 0 ∧ tileHolds s s.cur.unit g.next.toNat (g.next.toNat + 2 ^ g.ew.toNat - 1) = true

/-- The slot after a pop of a value, with the elements left ahead. -/
def Slot.popped (h : Slot) (i pa : Nat) (g : StreamGen) (later : List StreamElt) (x : Word) : Slot :=
  ((h.hasRead pa (2 ^ g.ew.toNat)).setGen i { g.moved with ahead := if g.count = 1 then [] else later }).setReg (28 + i) x

theorem popStream_empty (h : (s.me.gen i).ahead = []) : popStream s i = .error (.park 1 (28 + i) none) := by
  simp [popStream, h]

section
variable {e : StreamElt} {rest : List StreamElt} (h : (s.me.gen i).ahead = e :: rest)
include h

theorem popStream_held (held : streamHeld s (s.me.gen i)) : popStream s i = .error (.park 11 0 (some 0)) := by
  obtain ⟨core, slot, holds⟩ := held
  simp [popStream, h, core, slot, holds]

/-- A pop that no tile operation holds back gives the element's value, or ends as its load does. -/
theorem popStream_eq (held : ¬streamHeld s (s.me.gen i)) : popStream s i = (do
    let (t, v) ← elementValue s (s.me.gen i) e
    let after := if e.stale then (({ s.me.gen i with ahead := rest } : StreamGen).overtaken e.pa (2 ^ (s.me.gen i).ew.toNat)).ahead else rest
    .ok (t.modMe fun h => h.popped i e.pa (s.me.gen i) after v, v)) := by
  have go : (!(isCore s.cur.unit && s.cur.slot == 0
      && tileHolds s s.cur.unit (s.me.gen i).next.toNat ((s.me.gen i).next.toNat + 2 ^ (s.me.gen i).ew.toNat - 1))) = true := by
    rw [Bool.not_eq_true', Bool.eq_false_iff]
    simpa [streamHeld] using held
  simp only [popStream, h, go, need_true, res_bind_ok, Slot.popped]

variable (held : ¬streamHeld s (s.me.gen i))
include held

theorem popStream_fresh (fault : e.fault = none) (stale : e.stale = false) :
    popStream s i = .ok (s.modMe fun h => h.popped i e.pa (s.me.gen i) rest e.value, e.value) := by
  simp [popStream_eq h held, elementValue, fault, stale]

/-- An element that a later access has overtaken is loaded anew (10 R252). -/
theorem popStream_stale {x : Nat} (fault : e.fault = none) (stale : e.stale = true)
    (load : loadAt s (s.me.gen i).next.toNat (2 ^ (s.me.gen i).ew.toNat) = .ok (t, x)) :
    popStream s i = .ok (t.modMe fun h => h.popped i e.pa (s.me.gen i)
      (({ s.me.gen i with ahead := rest } : StreamGen).overtaken e.pa (2 ^ (s.me.gen i).ew.toNat)).ahead (w64 x), w64 x) := by
  simp [popStream_eq h held, elementValue, fault, stale, load]

theorem popStream_faulted {c : Nat} {a : Word} (fault : e.fault = some (c, a)) (hc : c ≠ cRangeConflict) :
    popStream s i = .error (.trap c a.toNat) := by
  simp [popStream_eq h held, elementValue, fault, hc, raise]

theorem popStream_conflict {a : Word} (fault : e.fault = some (cRangeConflict, a)) :
    popStream s i = .error (.loc cRangeConflict a none) := by
  simp [popStream_eq h held, elementValue, fault]

end

end Sys2Proof.Machine
end

section
/-! Bound stream registers: O15. -/

namespace Sys2Proof.Machine

open Sys2Proof

/-- Settles O15: a read of a bound register is its generator's pop, a write its append. -/
theorem streamRegisters : Obligations.StreamRegisters := by
  unfold Obligations.StreamRegisters
  intro s t r v hr bound i g n held popped
  have reg : 28 + i = r.toNat := by omega
  have pop (dir : g.dir = false) : readX s r = popStream s i := readX_readStream hr bound dir
  have same (pa : Nat) (later : List StreamElt) (x : Word) : (fun h : Slot => h.popped i pa g later x) = popped pa later x := by
    funext h
    rw [Slot.popped, reg]
    rfl
  refine ⟨readX_writeStream hr bound, writeX_readStream hr bound, ?empty, ?held, ?fresh, ?stale, ?faulted, ?conflict, writeX_full hr bound,
    writeX_appends hr bound⟩
  case empty => exact fun dir none => by rw [pop dir, popStream_empty none, reg]
  case held => exact fun e rest dir h hold => (pop dir).trans (popStream_held h hold)
  case fresh =>
    intro e rest dir h hold fault stale
    rw [pop dir, popStream_fresh h hold fault stale]
    exact congrArg (fun f => Except.ok (s.modMe f, e.value)) (same e.pa rest e.value)
  case stale =>
    intro e rest x dir h hold fault stale load
    rw [pop dir, popStream_stale h hold fault stale load]
    exact congrArg (fun f => Except.ok (t.modMe f, w64 x)) (same e.pa _ (w64 x))
  case faulted => exact fun e rest c a dir h hold fault hc => (pop dir).trans (popStream_faulted h hold fault hc)
  case conflict => exact fun e rest a dir h hold fault => (pop dir).trans (popStream_conflict h hold fault)

end Sys2Proof.Machine
end

section
/-! SUPPORT. The capture of a tile command word (01 R36, R46). -/

namespace Sys2Proof.Machine

open Sys2Proof

variable {s : State} {i : Instr} {t : Tcw}

theorem exec_tileForm (h : i ∈ tileForms t) : exec i s = tcwIssue i t s := by
  simp only [tileForms, List.mem_cons, List.not_mem_nil, or_false] at h
  rcases h with rfl | rfl | rfl | rfl | rfl | rfl | rfl | rfl | rfl | rfl | rfl | rfl | rfl | rfl | rfl | rfl | rfl | rfl | rfl | rfl | rfl
    | rfl | rfl | rfl | rfl | rfl | rfl | rfl | rfl | rfl | rfl <;> rfl

/-- The value of a captured field, zero where the form does not read it. -/
def Slot.field (h : Slot) (use : Bool) (r : BitVec 5) : Word := if use then h.reg r.toNat else 0

theorem readField_plain {use : Bool} {r : BitVec 5} (h : use = true → s.me.plain r) : readField s use r = .ok (s, s.me.field use r) := by
  cases use
  · rfl
  · exact readX_plain (h rfl)

/-- The input queue has room, and so has the front end (R46). -/
def tcwRoom (s : State) : Prop := s.mine.fe.inq.length < 8 ∧ s.mine.fe.held < 40

theorem tcwBody_full (h : ¬tcwRoom s) : tcwBody i t s = .error (.park 11 0 (some 0)) := by
  have full : (decide (s.mine.fe.inq.length < 8) && decide (s.mine.fe.held < 40)) = false := by
    rw [Bool.eq_false_iff]; simpa [tcwRoom] using h
  rw [tcwBody, full, need_false, res_bind_error]

/-- The entry that a word leaves, whose values are those of slot h. -/
def Slot.capture (h : Slot) (i : Instr) (t : Tcw) (addr : Word) (step : BitVec 48) : TcwEntry :=
  { tcw := t.raw, addr := addr, base := h.field (tcwReads i).1 t.base, stride := h.field (tcwReads i).2.1 t.stride,
    aux := h.field (tcwReads i).2.2.1 t.aux, aux2 := h.field (tcwReads i).2.2.2.1 t.aux2, cbr := h.field (tcwReads i).2.2.2.2.1 t.cbr,
    cvr := h.field (tcwReads i).2.2.2.2.2 t.cvr, step := step }

theorem capturesPlain_iff : capturesPlain s i t ↔
    ((tcwReads i).1 = true → s.me.plain t.base) ∧ ((tcwReads i).2.1 = true → s.me.plain t.stride) ∧ ((tcwReads i).2.2.1 = true → s.me.plain t.aux)
      ∧ ((tcwReads i).2.2.2.1 = true → s.me.plain t.aux2) ∧ ((tcwReads i).2.2.2.2.1 = true → s.me.plain t.cbr)
      ∧ ((tcwReads i).2.2.2.2.2 = true → s.me.plain t.cvr) := Iff.rfl

theorem tcwBody_captures (room : tcwRoom s) (plain : capturesPlain s i t) : tcwBody i t s =
    .ok ((s.modMine fun u => { u with fe := { u.fe with inq := u.fe.inq ++ [s.me.capture i t (s.me.pc - 32) s.mine.step] } }).modMe
      fun h => { h with instret := h.instret - 1 }) := by
  obtain ⟨base, stride, aux, aux2, cbr, cvr⟩ := capturesPlain_iff.mp plain
  have open_ : (decide (s.mine.fe.inq.length < 8) && decide (s.mine.fe.held < 40)) = true := by simpa [tcwRoom] using room
  rw [tcwBody, open_, need_true, res_bind_ok]
  simp only [readField_plain base, readField_plain stride, readField_plain aux, readField_plain aux2, readField_plain cbr,
    readField_plain cvr, res_bind_ok, Slot.capture]

/-! ### The instruction, whose body runs with the PC past the word -/

theorem Slot.field_begun (n : Nat) (use : Bool) (r : BitVec 5) : (s.begun n).me.field use r = s.me.field use r := by
  rw [Slot.field, State.begun_reg, Slot.field]

/-- The state after a capture: the word is not counted before it retires. -/
def State.captures (s : State) (e : TcwEntry) : State :=
  ((s.begun 32).modMine fun u => { u with fe := { u.fe with inq := u.fe.inq ++ [e] } }).modMe fun h => { h with instret := s.me.instret }

theorem tcwBody_begun (room : tcwRoom s) (plain : capturesPlain s i t) :
    tcwBody i t (s.begun 32) = .ok (s.captures (s.me.capture i t s.me.pc s.mine.step)) := by
  have pc : (s.begun 32).me.pc - 32 = s.me.pc := by simp [w64]
  have entry : (s.begun 32).me.capture i t ((s.begun 32).me.pc - 32) (s.begun 32).mine.step = s.me.capture i t s.me.pc s.mine.step := by
    simp only [pc, State.begun_mine, Slot.capture, Slot.field_begun]
  have plain' : capturesPlain (s.begun 32) i t :=
    have ⟨base, stride, aux, aux2, cbr, cvr⟩ := capturesPlain_iff.mp plain
    capturesPlain_iff.mpr ⟨fun h => plain_begun (base h), fun h => plain_begun (stride h), fun h => plain_begun (aux h),
      fun h => plain_begun (aux2 h), fun h => plain_begun (cbr h), fun h => plain_begun (cvr h)⟩
  rw [tcwBody_captures (s := s.begun 32) room plain', entry]
  refine congrArg Except.ok (State.modMe_congr ?_)
  rw [State.me_modMine, State.begun_me]
  simp

theorem finish_captures {w : Nat} (room : tcwRoom s) (plain : capturesPlain s i t) :
    finish w (s.modMe Slot.unpark) (tcwBody i t (s.begun 32)) = .next (s.captures (s.me.capture i t s.me.pc s.mine.step)) := by
  rw [tcwBody_begun room plain, finish_ok]

theorem onTile_slot (h : s.onTile = true) : s.cur.slot = 0 := by
  simp only [State.onTile, Bool.and_eq_true, beq_iff_eq] at h
  exact h.1.2

end Sys2Proof.Machine
end

section
/-! The capture of tile command words: O43. -/

namespace Sys2Proof.Machine

open Sys2Proof

/-- Settles O43: every form of a tile command word has the one body, which captures the word or parks slot 0. -/
theorem tileCommandsAreCaptured : Obligations.TileCommandsAreCaptured := by
  unfold Obligations.TileCommandsAreCaptured
  refine ⟨fun s t i ready unit form => ?form, fun s w unit queue held => ?vacant⟩
  case form =>
    have run : exec i s = finish (instrWord i) (s.modMe Slot.unpark) (tcwBody i t (s.begun 32)) :=
      (exec_tileForm form).trans (issueN_eq unit (.inl ready))
    refine ⟨fun plain queue held => run.trans (finish_captures ⟨queue, held⟩ plain), fun full => ?_⟩
    have noRoom : ¬tcwRoom (s.begun 32) := by
      rw [tcwRoom, State.begun_mine]; omega
    rw [run, tcwBody_full noRoom, finish_park (s := s.modMe Slot.unpark) fun _ six => absurd ((onTile_slot unit).symm.trans six) (by decide)]
    rfl
  case vacant =>
    have run : exec (.vacantEncoding w true) s
        = finish (instrWord (.vacantEncoding w true)) (s.modMe Slot.unpark) (tcwBody (.vacantEncoding w true) ⟨w⟩ (s.begun 32)) :=
      issueN_eq (ok := true && s.onTile) unit (.inr rfl)
    exact run.trans (finish_captures ⟨queue, held⟩ ⟨nofun, nofun, nofun, nofun, nofun, nofun⟩)

end Sys2Proof.Machine
end

section
/-! SUPPORT. The hand-off of a vector instruction to the vector unit (01 R49, 02 R63). -/

namespace Sys2Proof.Machine

open Sys2Proof

variable {s : State} {i : Instr} {g : VKind} {o : VOp}

/-! ### Every form issues the same way -/

section
variable {d a b : BitVec 4} {x y r : BitVec 5} {k l n : BitVec 2} {p : Pred} {mk : VMask}

theorem exec_vectorForm (h : (i, g) ∈ vectorForms d a b x y r k l n p mk) : exec i s = vIssue i g (takesFormats g) s := by
  suffices all : ∀ q ∈ vectorForms d a b x y r k l n p mk, exec q.1 s = vIssue q.1 q.2 (takesFormats q.2) s from all _ h
  simp only [vectorForms, vectorArithForms, vectorBitForms, vectorShiftForms, List.map_cons, List.map_nil, List.cons_append, List.nil_append,
    List.forall_mem_cons, List.not_mem_nil, false_imp_iff, implies_true, and_true]
  and_intros <;> rfl

/-- Its x-register operands are among x and y. -/
theorem xRegs_vectorForm (h : (i, g) ∈ vectorForms d a b x y r k l n p mk) :
    (g.xRegs.1 = none ∨ g.xRegs.1 = some x) ∧ (g.xRegs.2 = none ∨ g.xRegs.2 = some y) := by
  suffices all : ∀ q ∈ vectorForms d a b x y r k l n p mk,
      (q.2.xRegs.1 = none ∨ q.2.xRegs.1 = some x) ∧ (q.2.xRegs.2 = none ∨ q.2.xRegs.2 = some y) from all _ h
  simp [vectorForms, vectorArithForms, vectorBitForms, vectorShiftForms, VKind.xRegs]

end

theorem handedOver_eq : handedOver i g s =
    vOpOf i s ((g.xRegs.1.map fun r => s.me.reg r.toNat).getD 0) ((g.xRegs.2.map fun r => s.me.reg r.toNat).getD 0) := rfl

/-- Plain operands are captured with nothing else read. -/
theorem vCapture_plain (h1 : ∀ r, g.xRegs.1 = some r → s.me.plain r) (h2 : ∀ r, g.xRegs.2 = some r → s.me.plain r) :
    vCapture g s = .ok (s, (g.xRegs.1.map fun r => s.me.reg r.toNat).getD 0, (g.xRegs.2.map fun r => s.me.reg r.toNat).getD 0) := by
  rw [vCapture]
  cases e1 : g.xRegs.1 with
  | none =>
    cases e2 : g.xRegs.2 with
    | none => rfl
    | some y => simp [readX_plain (h2 y e2)]
  | some x =>
    cases e2 : g.xRegs.2 with
    | none => simp [readX_plain (h1 x e1)]
    | some y => simp [readX_plain (h1 x e1), readX_plain (h2 y e2)]

/-- A hand-off on a core that its tile operations do not hold back. -/
theorem exec_vector_core {fmt : Bool} (core : isCore s.cur.unit = true) (ready : s.me.pp = false ∨ fmt = true)
    (h1 : ∀ r, g.xRegs.1 = some r → s.me.plain r) (h2 : ∀ r, g.xRegs.2 = some r → s.me.plain r)
    (held : vHeld g (handedOver i g (s.begun 4)) (s.begun 4) = false) :
    vIssue i g fmt s = .next (vHandOff g (handedOver i g (s.begun 4)) (s.begun 4)) := by
  have notUcore : isUcore s.cur.unit = false := by
    simp only [isCore, decide_eq_true_eq] at core
    simp only [isUcore, Bool.and_eq_false_iff, decide_eq_false_iff_not]
    omega
  have capture := vCapture_plain (s := s.begun 4) (g := g) (fun r e => plain_begun (h1 r e)) fun r e => plain_begun (h2 r e)
  rw [vIssue, issueN_eq (by simp [State.onCoreU, core]) ready, capture]
  simp only [res_bind_ok, State.begun_cur, notUcore, Bool.false_eq_true, ↓reduceIte, ← handedOver_eq, held, Bool.not_false, need_true,
    finish_ok]

/-! ### What it leaves -/

/-- A claim of generator states changes those of the unit's generator at most. -/
theorem vClaim_cases : vClaim g o s = s ∨ ∃ l : BitVec 32 → BitVec 32, vClaim g o s = s.modMine fun u => { u with lfsr := l u.lfsr } := by
  rw [vClaim]
  split
  next => exact .inl rfl
  next f _ =>
    dsimp only
    split
    next => exact .inr ⟨lfsrSkip (g.claims f (vCtx s.cur.unit s.me g o f).act.length), rfl⟩
    next => exact .inl rfl

theorem vClaim_harts : (vClaim g o s).harts = s.harts ∧ (vClaim g o s).cur = s.cur ∧ (vClaim g o s).mem = s.mem
    ∧ (vClaim g o s).quads = s.quads := by
  rcases vClaim_cases (g := g) (o := o) (s := s) with e | ⟨l, e⟩ <;> rw [e] <;> exact ⟨rfl, rfl, rfl, rfl⟩

theorem vClaim_unit_ne {u : Nat} (h : u ≠ s.cur.unit) : (vClaim g o s).unit u = s.unit u := by
  rcases vClaim_cases (g := g) (o := o) (s := s) with e | ⟨l, e⟩ <;> rw [e]
  exact State.unit_modUnit_ne _ h

theorem vClaim_mine : { (vClaim g o s).unit s.cur.unit with lfsr := s.mine.lfsr } = s.mine := by
  rcases vClaim_cases (g := g) (o := o) (s := s) with e | ⟨l, e⟩ <;> rw [e]
  · rfl
  · rw [State.modMine, State.unit_modUnit_same]
    rfl

/-- The slot as the hand-off leaves it, at the instruction again. -/
def Slot.handedOff (h : Slot) : Slot :=
  { h with pc := h.pc - w64 4, instret := h.instret - 1, park := 7, await := 0, waitOn := none, resv := none, pp := false, pfx := 0 }

theorem vHandOff_eq : vHandOff g o s = ((vClaim g o s).modQuad (quadOf s.cur.unit) fun q => { q with vwait := q.vwait ++ [o] }).modMe
    Slot.handedOff := by
  rw [vHandOff, State.again, State.modMe_modMe]
  rfl

theorem vHandOff_me : (vHandOff g o s).me = s.me.handedOff := by
  obtain ⟨harts, cur, -, -⟩ := vClaim_harts (g := g) (o := o) (s := s)
  rw [vHandOff_eq, State.me_modMe, State.me_modQuad, State.me, State.hart, harts, cur]
  rfl

theorem vHandOff_hart_ne {u j : Nat} (h : hartKey u j ≠ hartKey s.cur.unit s.cur.slot) : (vHandOff g o s).hart u j = s.hart u j := by
  obtain ⟨harts, cur, -, -⟩ := vClaim_harts (g := g) (o := o) (s := s)
  rw [vHandOff_eq, State.hart_modMe_ne _ (by rw [State.modQuad_cur, cur]; exact h), State.hart_modQuad, State.hart, harts, State.hart]

theorem vHandOff_mem : (vHandOff g o s).mem = s.mem := by
  obtain ⟨-, -, mem, -⟩ := vClaim_harts (g := g) (o := o) (s := s)
  rw [vHandOff_eq, State.modMe_mem, State.modQuad_mem, mem]

theorem vHandOff_mine : { (vHandOff g o s).mine with lfsr := s.mine.lfsr } = s.mine := by
  obtain ⟨-, cur, -, -⟩ := vClaim_harts (g := g) (o := o) (s := s)
  rw [vHandOff_eq, State.mine, State.modMe_cur, State.modQuad_cur, cur]
  exact vClaim_mine

theorem vHandOff_quad : ((vHandOff g o s).quad (quadOf s.cur.unit)).vwait = (s.quad (quadOf s.cur.unit)).vwait ++ [o] := by
  obtain ⟨-, -, -, quads⟩ := vClaim_harts (g := g) (o := o) (s := s)
  rw [vHandOff_eq, State.quad_modMe, State.quad_modQuad_same, State.quad, quads, State.quad]

end Sys2Proof.Machine
end

section
/-! The hand-off to the vector unit: O38. -/

namespace Sys2Proof.Machine

open Sys2Proof

/-- Settles O38: every form is handed over by `vHandOff`, which changes its slot, its quad's queue and its unit's generator. -/
theorem vectorHandOff : Obligations.VectorHandOff := by
  unfold Obligations.VectorHandOff
  intro s d a b x y r k l n p mk i g core px py form ready held
  obtain ⟨x1, x2⟩ := xRegs_vectorForm form
  have run := (exec_vectorForm form).trans <| exec_vector_core core ready
    (fun q e => by rcases x1 with n | n <;> rw [n] at e <;> cases e; exact px)
    (fun q e => by rcases x2 with n | n <;> rw [n] at e <;> cases e; exact py) held
  refine ⟨_, run, ?me, fun u j h => ?hart, ?mem, fun u h => ?unit, ?mine, vHandOff_quad⟩
  case me =>
    rw [vHandOff_me, Slot.handedOff, State.begun_me]
    simp
  case hart => rw [vHandOff_hart_ne (s := s.begun 4) h, State.hart_begun_ne h]
  case mem => exact vHandOff_mem
  case unit => rw [vHandOff_eq]; exact vClaim_unit_ne (s := s.begun 4) h
  case mine => exact vHandOff_mine (s := s.begun 4)

end Sys2Proof.Machine
end

section
/-! SUPPORT. The tile front end of a unit: what reads it after a change, and what the wake of parked slots leaves. -/

namespace Sys2Proof.Machine

open Sys2Proof

variable {s : State}

@[simp] theorem State.fe_modFe_same (u : Nat) (f : TileFE → TileFE) : (s.modFe u f).fe u = f (s.fe u) := by
  simp only [State.fe, State.modFe, State.unit_modUnit_same]

theorem State.fe_modUnit_same (u : Nat) (f : UnitSt → UnitSt) : (s.modUnit u f).fe u = (f (s.unit u)).fe :=
  congrArg UnitSt.fe (State.unit_modUnit_same u f)

@[simp] theorem State.fe_modHart (u k : Nat) (f : Slot → Slot) (i : Nat) : (s.modHart u k f).fe i = s.fe i := rfl

theorem State.modFe_modFe (u : Nat) (f g : TileFE → TileFE) : (s.modFe u f).modFe u g = s.modFe u fun fe => g (f fe) :=
  State.modUnit_modUnit ..

/-- What no change of a slot's address it waits on can touch, the wake of parked slots leaves alone. -/
theorem wakePark_keeps {α : Type} (g : State → α) (keeps : ∀ t u k, g (t.modHart u k fun h => { h with waitOn := none }) = g t)
    (u : Nat) (code : BitVec 4) : g (wakePark s u code) = g s := by
  refine List.foldlRecOn (motive := fun t => g t = g s) (upTo 8) _ rfl fun t ih k _ => ?_
  split
  · rw [keeps, ih]
  · exact ih

/-- The wake of parked slots changes of a slot only the address it waits on. -/
theorem wakePark_hart {α : Type} (g : Slot → α) (keeps : ∀ h : Slot, g { h with waitOn := none } = g h) (u i j : Nat) (code : BitVec 4) :
    g ((wakePark s u code).hart i j) = g (s.hart i j) := by
  refine wakePark_keeps (fun t => g (t.hart i j)) (fun t u k => ?_) u code
  by_cases same : hartKey i j = hartKey u k
  · have named (t : State) : t.hart i j = t.hart u k := by simp only [State.hart, same]
    rw [named, named, State.hart_modHart_same, keeps]
  · rw [State.hart_modHart_ne _ same]

@[simp] theorem wakePark_unit (u i : Nat) (code : BitVec 4) : (wakePark s u code).unit i = s.unit i :=
  wakePark_keeps (fun t => t.unit i) (fun _ _ _ => rfl) u code
@[simp] theorem wakePark_fe (u i : Nat) (code : BitVec 4) : (wakePark s u code).fe i = s.fe i := by
  simp only [State.fe, wakePark_unit]
@[simp] theorem wakePark_mem (u : Nat) (code : BitVec 4) : (wakePark s u code).mem = s.mem :=
  wakePark_keeps State.mem (fun _ _ _ => rfl) u code
@[simp] theorem wakePark_bytes (u : Nat) (code : BitVec 4) : (wakePark s u code).bytes = s.bytes :=
  wakePark_keeps State.bytes (fun _ _ _ => rfl) u code

end Sys2Proof.Machine
end

section
/-! SUPPORT. Rename of a tile command word (01 R38). -/

namespace Sys2Proof.Machine

open Sys2Proof

variable {s : State}

/-- A word whose fault rename finds is entered complete, with the fault. -/
theorem exec_tileRename_fault {u : Nat} {e : TcwEntry} {fe : TileFE} {f : Nat × Word} (on : renameOn s u = true)
    (next : nextTcw (s.fe u) = some (e, fe)) (room : fe.rob.length < 32)
    (fault : renameFault s u (decodeTcw e.tcw) ⟨e.tcw⟩ e = some f) :
    ∃ t x, exec (.tileRename u) s = .next t ∧ (t.fe u).rob = fe.rob ++ [x] ∧ x.fault = some f ∧ x.phase = .complete ∧ x.e = e
      ∧ x.dest = none ∧ (t.fe u).free = fe.free ∧ t.mem = s.mem := by
  have run : exec (.tileRename u) s = execTileRename u s := rfl
  simp only [run, execTileRename, on, renameOne, next, fault, if_neg (Nat.not_le.mpr room), ↓reduceIte]
  exact ⟨_, _, rfl, congrArg TileFE.rob ((wakePark_fe ..).trans (State.fe_modUnit_same ..)), rfl, rfl, rfl, rfl,
    by rw [wakePark_fe, State.fe_modUnit_same], wakePark_mem ..⟩

/-- A word that renames takes its destination's slots, and the E and SK values are those after it. -/
theorem exec_tileRename_ok {u : Nat} {e : TcwEntry} {fe : TileFE} {es : FMap (BitVec 32)} {sk : FMap Word} {m : Nat}
    (on : renameOn s u = true) (next : nextTcw (s.fe u) = some (e, fe)) (room : fe.rob.length < 32)
    (fault : renameFault s u (decodeTcw e.tcw) ⟨e.tcw⟩ e = none)
    (regs : renameRegs s u (decodeTcw e.tcw) ⟨e.tcw⟩ e = .ok (es, sk, m))
    (free : ((destShape fe (decodeTcw e.tcw) ⟨e.tcw⟩).map slotsOf).getD 0 ≤ fe.free) :
    ∃ t x, exec (.tileRename u) s = .next t ∧ (t.fe u).rob = fe.rob ++ [x] ∧ x.fault = none ∧ x.i = decodeTcw e.tcw ∧ x.e = e
      ∧ x.dest = (destShape fe (decodeTcw e.tcw) ⟨e.tcw⟩).map (fun _ => (Tcw.td ⟨e.tcw⟩).toNat)
      ∧ x.slots = ((destShape fe (decodeTcw e.tcw) ⟨e.tcw⟩).map slotsOf).getD 0
      ∧ (t.fe u).free = fe.free - ((destShape fe (decodeTcw e.tcw) ⟨e.tcw⟩).map slotsOf).getD 0
      ∧ x.eAfter = es ∧ x.skAfter = sk ∧ (t.fe u).e = es ∧ (t.fe u).sk = sk ∧ x.lfsr = (s.unit u).lfsr ∧ t.mem = s.mem := by
  have run : exec (.tileRename u) s = execTileRename u s := rfl
  simp only [run, execTileRename, on, renameOne, next, fault, regs, if_neg (Nat.not_le.mpr room), if_neg (Nat.not_lt.mpr free), ↓reduceIte]
  exact ⟨_, _, rfl, congrArg TileFE.rob ((wakePark_fe ..).trans (State.fe_modUnit_same ..)), rfl, rfl, rfl, rfl, rfl,
    by rw [wakePark_fe, State.fe_modUnit_same], rfl, rfl, by rw [wakePark_fe, State.fe_modUnit_same],
    by rw [wakePark_fe, State.fe_modUnit_same], rfl, wakePark_mem ..⟩

end Sys2Proof.Machine
end

section
/-! SUPPORT. Issue of an entry (01 R42). -/

namespace Sys2Proof.Machine

open Sys2Proof

variable {s : State} {u : Nat} {x : RobEntry}

theorem mayIssue_of (phase : x.phase = .renamed) (fault : x.fault = none) (unit : unitFree (s.fe u) (tileUnit x.i) = true)
    (held : tileMemHeld s u x = false) (ready : (s.fe u).ready x = true) : mayIssue s u x = true := by
  simp [mayIssue, phase, fault, unit, held, ready]

theorem RobEntry.memory_iff : x.memory = true ↔ tileUnit x.i = .engine ∨ tileUnit x.i = .fetch := by
  simp [RobEntry.memory]

/-- With no older entry that wants the same unit, an entry that may go issues. -/
theorem execTileIssue_alone {r : Nat} {t : State} (entry : (s.fe u).entry r = some x)
    (alone : (((s.fe u).older r).all fun y => tileUnit y.i != tileUnit x.i) = true) (h : issueOne s u x = some t) :
    execTileIssue u r s = .next t := by
  have rivals : ((s.fe u).older r).filter (fun y => tileUnit y.i == tileUnit x.i) = [] := by
    simpa [List.filter_eq_nil_iff] using alone
  simp only [execTileIssue, entry, rivals, h, List.any_nil, Bool.false_eq_true, ↓reduceIte]

theorem issueOne_of_not_memory (may : mayIssue s u x = true) (h : x.memory = false) :
    issueOne s u x = some (s.modRob u x.id fun y => { y with phase := .issued }) := by
  simp [issueOne, may, h]

/-- A memory form takes its places with it, and a request of the core's where it goes beyond L1 and the windows. -/
theorem issueOne_of_memory {q : State} {ps : List Piece} (may : mayIssue s u x = true) (h : x.memory = true) (rows : rowsOpen s u x = true)
    (shown : chunkHidden x = false) (found : formPieces (s.asHart u 0) x (wideSource (s.fe u) x) true = .ok (q, ps))
    (request : (beyondL1 q u x ps || listFar s u x) = false ∨ entryRequest s u x = true) :
    issueOne s u x = some ((s.back q).modRob u x.id fun y =>
      { y with phase := .issued, env := envNow s u x, places := ps.map fun p => (p.off, p.p.pa, p.n),
               spans := ps.map fun p => (p.p.va, p.p.pa, p.n, p.p.bypass), bypass := Tcw.hint ⟨x.e.tcw⟩,
               request := beyondL1 q u x ps || listFar s u x }) := by
  have go : ((beyondL1 q u x ps || listFar s u x) && !entryRequest s u x) = false := by
    cases request with
    | inl near => rw [near, Bool.false_and]
    | inr free => rw [free, Bool.not_true, Bool.and_false]
  simp only [issueOne, issueMemory, may, h, rows, shown, found, go, Bool.not_true, Bool.false_eq_true, ↓reduceIte]

end Sys2Proof.Machine
end

section
/-! SUPPORT. Completion of an entry (01 R43, 07 R211). -/

namespace Sys2Proof.Machine

open Sys2Proof

variable {s : State} {u r : Nat} {x : RobEntry}

theorem execTileComplete_memory (entry : (s.fe u).entry r = some x) (fault : x.fault = none) (phase : x.phase = .issued) (h : x.memory = true) :
    execTileComplete u r s = .next (completeMemory s u x) := by
  obtain unit | unit := RobEntry.memory_iff.mp h <;> simp [execTileComplete, entry, fault, phase, unit]

section
variable {a b c : Tile} (entry : (s.fe u).entry r = some x) (fault : x.fault = none)
  (ha : (s.fe u).value x.a = some a) (hb : (s.fe u).value x.b = some b) (hc : (s.fe u).value x.c = some c)
include entry fault ha hb hc

theorem execTileComplete_alu_poisoned {v : Word} (phase : x.phase = .issued) (unit : tileUnit x.i = .alu)
    (h : poisonedOperand a b c Tile.reset = some v) : execTileComplete u r s = .next (faultEntry s u r cPoison v) := by
  simp [execTileComplete, entry, fault, phase, unit, ha, hb, hc, h]

theorem execTileComplete_alu (phase : x.phase = .issued) (unit : tileUnit x.i = .alu) (clean : poisonedOperand a b c Tile.reset = none)
    (h : (aluForm s u x a b c).qval = none) : execTileComplete u r s = .next (finishEntry s u r (aluForm s u x a b c)) := by
  simp [execTileComplete, entry, fault, phase, unit, ha, hb, hc, clean, h]

theorem execTileComplete_matrix {acc : Tile} (phase : x.phase = .started) (done : issuing s u r = false)
    (hacc : (s.fe u).value x.acc = some acc) (clean : poisonedOperand a b c acc = none) :
    execTileComplete u r s = .next (finishEntry (s.unpin (boxPin u r)) u r (matrixForm (s.unpin (boxPin u r)) u x a b c acc)) := by
  simp [execTileComplete, entry, fault, phase, done, ha, hb, hc, hacc, clean]
end

/-- A load with a place in L1 or a window, or with a request, completes with the image of its places. -/
theorem completeMemory_load {t : Tcw} {q : State} {img : Nat} (here : piecesWait s u x = false)
    (h : x.i ∈ ([.tld t, .tldh t, .tgath t, .trest t] : List Instr))
    (request : x.request = true ∨ piecesFar s u x (heldPieces s x) = false ∨ entryRequest s u x = true)
    (read : readPieces (s.asHart u 0) (!(Tcw.hint ⟨x.e.tcw⟩)) (heldPieces s x) = .ok (q, img)) :
    completeMemory s u x = finishEntry (s.back q) u x.id { result := some (loadImage x.i ⟨x.e.tcw⟩ img), flags := 0, qval := none } := by
  have go : (!x.request && piecesFar s u x (heldPieces s x) && !entryRequest s u x) = false := by
    obtain h | h | h := request <;> simp [h]
  simp only [List.mem_cons, List.not_mem_nil, or_false] at h
  obtain h | h | h | h := h <;> simp only [completeMemory, here, h, go, read, Bool.false_eq_true, ↓reduceIte]

theorem completeMemory_tmmad {t : Tcw} (here : piecesWait s u x = false) (h : x.i = .tmmad t) (box : x.box = none) :
    completeMemory s u x = fetchBox s u x (heldPieces s x) := by
  simp [completeMemory, here, h, box]

/-! The three ways in which the arrival of a box's rows leaves its entry. -/

section
variable {ps : List Piece}

theorem fetchBox_partial (rows : ps.all (ps.foldl (fetchRow u) (s, x)).2.hasRow = false) :
    fetchBox s u x ps = (ps.foldl (fetchRow u) (s, x)).1.modRob u x.id fun y =>
      { y with boxPart := (ps.foldl (fetchRow u) (s, x)).2.boxPart, arrived := (ps.foldl (fetchRow u) (s, x)).2.arrived } := by
  simp only [fetchBox, rows, Bool.false_eq_true, ↓reduceIte]

theorem fetchBox_complete (rows : ps.all (ps.foldl (fetchRow u) (s, x)).2.hasRow = true)
    (clean : ∀ p ∈ ps, (ps.foldl (fetchRow u) (s, x)).2.arrived.contains (p.off, true) = false) :
    fetchBox s u x ps = (ps.foldl (fetchRow u) (s, x)).1.modRob u x.id fun y =>
      { y with boxPart := (ps.foldl (fetchRow u) (s, x)).2.boxPart, arrived := (ps.foldl (fetchRow u) (s, x)).2.arrived,
               box := some (ps.foldl (fetchRow u) (s, x)).2.boxPart } := by
  have none : ps.find? (fun p => (ps.foldl (fetchRow u) (s, x)).2.arrived.contains (p.off, true)) = .none := by
    rw [List.find?_eq_none]
    intro p hp
    rw [clean p hp]
    exact Bool.false_ne_true
  simp only [fetchBox, rows, none, ↓reduceIte]

theorem fetchBox_poisoned {p : Piece} (rows : ps.all (ps.foldl (fetchRow u) (s, x)).2.hasRow = true)
    (poisoned : ps.find? (fun p => (ps.foldl (fetchRow u) (s, x)).2.arrived.contains (p.off, true)) = some p) :
    fetchBox s u x ps = faultEntry ((ps.foldl (fetchRow u) (s, x)).1.unpin (boxPin u x.id)) u x.id cPoison (w64 (p.p.va / 256 * 256)) := by
  simp only [fetchBox, rows, poisoned, ↓reduceIte]
end

end Sys2Proof.Machine
end

section
/-! SUPPORT. A row of a TMMAD's box (07 R211). -/

namespace Sys2Proof.Machine

open Sys2Proof

variable (s : State) {u : Nat} {x : RobEntry} {p : Piece}

@[simp] theorem State.pinLines_bytes (tag : Nat) (lines : List Nat) : (s.pinLines tag lines).bytes = s.bytes :=
  foldl_keeps State.bytes _ (fun t l => by simp) lines s

@[simp] theorem State.homeLoad_bytes (pa n : Nat) : (s.homeLoad pa n).1.bytes = s.bytes := by
  unfold State.homeLoad
  split
  · rfl
  · exact foldl_keeps State.bytes _ (fun t p => t.homePeek_bytes _) _ s

theorem State.homeLoad_value (pa n : Nat) : (s.homeLoad pa n).2 = s.get pa n := by
  unfold State.homeLoad
  split <;> rfl

theorem State.get_of_bytes {s t : State} (h : t.bytes = s.bytes) (pa n : Nat) : t.get pa n = s.get pa n := by
  rw [State.get, State.get, State.mem_of_bytes h, State.cell_of_bytes h]

/-- The home reads a row with its line pinned, past the invalidations that wait at the die. -/
def State.rowRead (u : Nat) (x : RobEntry) (p : Piece) : State × Nat :=
  ((s.pinLines (boxPin u x.id) [lineOf p.p.pa]).applyInvals (unitDie u)).homeLoad p.p.pa p.n

theorem State.rowRead_bytes : (s.rowRead u x p).1.bytes = s.bytes := by simp [State.rowRead]

theorem State.rowRead_value : (s.rowRead u x p).2 = s.get p.p.pa p.n := by
  rw [State.rowRead, State.homeLoad_value, State.get_of_bytes (s := s) (by simp)]

/-- A row that is here, or whose line a VSTPAIR holds, or that finds eight ways pinned, changes nothing. -/
theorem fetchRow_waits (h : x.hasRow p = true ∨ pairLocked s (lineOf p.p.pa) = true ∨ canPin s (lineOf p.p.pa) = false) :
    fetchRow u (s, x) p = (s, x) := by
  have held : (x.hasRow p || pairLocked s (lineOf p.p.pa) || !canPin s (lineOf p.p.pa)) = true := by
    simpa only [Bool.or_eq_true, or_assoc, Bool.not_eq_true'] using h
  simp only [fetchRow, held, ↓reduceIte]

theorem fetchRow_arrives (absent : x.hasRow p = false) (unlocked : pairLocked s (lineOf p.p.pa) = false)
    (room : canPin s (lineOf p.p.pa) = true) :
    fetchRow u (s, x) p = ((s.rowRead u x p).1.modHart u 0 fun h => h.hasRead p.p.pa p.n,
      { x with boxPart := x.boxPart ||| BitVec.ofNat 65536 ((s.rowRead u x p).2 * 2 ^ (8 * p.off)),
               arrived := x.arrived ++ [(p.off, ((s.rowRead u x p).1.poisonIn p.p.pa p.n).isSome)] }) := by
  simp only [fetchRow, absent, unlocked, room, Bool.not_true, Bool.or_self, Bool.false_eq_true, ↓reduceIte]
  rfl

end Sys2Proof.Machine
end

section
/-! SUPPORT. Retirement of the head (01 R43). -/

namespace Sys2Proof.Machine

open Sys2Proof

variable {s : State} {u : Nat} {x : RobEntry} {rest : List RobEntry}

/-- The entries after the head, which find its result where they named it. -/
def RobEntry.resolve (x y : RobEntry) : RobEntry :=
  let sub := Src.retired x.id (x.result.getD Tile.reset)
  { y with a := sub y.a, b := sub y.b, c := sub y.c, acc := sub y.acc }

/-- The front end once its head has retired, but for the stores that wait to be written. -/
def TileFE.retired (fe : TileFE) (x : RobEntry) (rest : List RobEntry) : TileFE :=
  let fe1 := { fe with rob := rest.map x.resolve, eRet := x.eAfter, skRet := x.skAfter }
  match x.dest with
  | some d => { fe1 with tiles := fset fe.tiles d (x.result.getD Tile.reset), free := fe.free + slotsOf (fget fe.tiles d Tile.reset).shape }
  | none => fe1

/-- The stores that wait to be written once an entry has retired. -/
def RobEntry.stored (x : RobEntry) : List WritingStore :=
  if x.writes then
    [{ env := x.env, bytes := pieceBytes (x.result.getD Tile.reset).img.toNat x.places, spans := x.spans,
       poisoned := (x.result.getD Tile.reset).poison.isSome, bypass := x.bypass, request := x.request, step := x.e.step }]
  else []

/-- What retirement leaves of the front end, with slot 0's flags and its count. -/
def State.retired (s : State) (u : Nat) (x : RobEntry) (rest : List RobEntry) : State :=
  (s.modFe u fun fe => { fe.retired x rest with writing := fe.writing ++ x.stored }).modHart u 0 fun h =>
    { h with fflags := h.fflags ||| x.flags, instret := h.instret + 1 }

section
variable (fe : TileFE)

@[simp] theorem TileFE.retired_rob : (fe.retired x rest).rob = rest.map x.resolve := by unfold TileFE.retired; split <;> rfl
@[simp] theorem TileFE.retired_eRet : (fe.retired x rest).eRet = x.eAfter := by unfold TileFE.retired; split <;> rfl
@[simp] theorem TileFE.retired_skRet : (fe.retired x rest).skRet = x.skAfter := by unfold TileFE.retired; split <;> rfl
theorem TileFE.retired_writing : (fe.retired x rest).writing = fe.writing := by unfold TileFE.retired; split <;> rfl
theorem TileFE.retired_dest {d : Nat} (h : x.dest = some d) : (fe.retired x rest).tiles = fset fe.tiles d (x.result.getD Tile.reset)
    ∧ (fe.retired x rest).free = fe.free + slotsOf (fget fe.tiles d Tile.reset).shape := by simp only [TileFE.retired, h, and_self]
theorem TileFE.retired_no_dest (h : x.dest = none) : (fe.retired x rest).tiles = fe.tiles ∧ (fe.retired x rest).free = fe.free := by
  simp only [TileFE.retired, h, and_self]
end

theorem State.retired_fe : (s.retired u x rest).fe u = { (s.fe u).retired x rest with writing := (s.fe u).writing ++ x.stored } := by
  rw [State.retired, State.fe_modHart, State.fe_modFe_same]

theorem State.retired_hart : (s.retired u x rest).hart u 0 =
    { s.hart u 0 with fflags := (s.hart u 0).fflags ||| x.flags, instret := (s.hart u 0).instret + 1 } :=
  State.hart_modHart_same ..

theorem State.retired_wt : ((s.retired u x rest).unit u).wt = (s.unit u).wt := by
  rw [State.retired, State.unit_modHart, State.modFe, State.unit_modUnit_same]

theorem State.modFe_congr {f g : TileFE → TileFE} (h : f (s.fe u) = g (s.fe u)) : s.modFe u f = s.modFe u g := by
  simp only [State.fe] at h
  simp only [State.modFe, State.modUnit, h]

/-- The head leaves the reorder buffer, with its flags and its count on slot 0. -/
theorem State.retired_eq (fe : TileFE) (h : fe = { (s.fe u).retired x rest with writing := (s.fe u).writing ++ x.stored }) :
    (((s.modFe u fun _ => fe).flag u 0 x.flags).modHart u 0 fun h => { h with instret := h.instret + 1 }) = s.retired u x rest := by
  rw [State.flag, State.modHart_modHart, h]
  exact congrArg (fun t : State => t.modHart u 0 _) (State.modFe_congr rfl)

/-- A retired TFENCE makes the stores before it accesses of slot 0 (10 R264). -/
def State.fencedAfter (s : State) (u : Nat) (i : Instr) : State :=
  match i with
  | .tfence _ => s.fencedTile u
  | _ => s

theorem State.fencedAfter_tfence {i : Instr} {w : Tcw} (h : i = .tfence w) : s.fencedAfter u i = s.fencedTile u := by rw [h]; rfl

theorem State.fencedAfter_other {i : Instr} (h : ∀ w, i ≠ .tfence w) : s.fencedAfter u i = s := by
  unfold State.fencedAfter
  split
  case h_1 w => exact absurd rfl (h w)
  case h_2 => rfl

theorem State.fencedTile_fe : (s.fencedTile u).fe u = s.fe u := State.fe_modUnit_same ..

theorem State.fencedTile_wt : ((s.fencedTile u).unit u).wt = (s.unit u).wt.map fun w => if w.slot = 8 then { w with slot := 0 } else w :=
  congrArg UnitSt.wt (State.unit_modUnit_same u _)

/-- A TFENCE touches nothing but the accesses that await a reply. -/
theorem State.fencedAfter_only (i : Instr) :
    (s.fencedAfter u i).fe u = s.fe u ∧ (s.fencedAfter u i).mem = s.mem ∧ (s.fencedAfter u i).hart u 0 = s.hart u 0 := by
  unfold State.fencedAfter
  split
  · exact ⟨State.fencedTile_fe, rfl, rfl⟩
  · exact ⟨rfl, rfl, rfl⟩

/-- A faultless head that is complete retires. -/
theorem execTileRetire_head (rob : (s.fe u).rob = x :: rest) (phase : x.phase = .complete) (fault : x.fault = none) :
    execTileRetire u s = .next (wakePark ((s.retired u x rest).fencedAfter u x.i) u 11) := by
  have go : (x.phase != .complete || x.fault.isSome) = false := by rw [phase, fault]; rfl
  simp only [execTileRetire, rob, go, Bool.false_eq_true, ↓reduceIte]
  rw [State.retired_eq]
  · rfl
  · cases hd : x.dest <;> cases hw : x.writes <;> simp [TileFE.retired, RobEntry.stored, RobEntry.resolve, hd, hw]

/-- What retirement leaves, part by part. -/
theorem exec_tileRetire (rob : (s.fe u).rob = x :: rest) (phase : x.phase = .complete) (fault : x.fault = none) :
    ∃ t, exec (.tileRetire u) s = .next t ∧ t.fe u = { (s.fe u).retired x rest with writing := (s.fe u).writing ++ x.stored }
      ∧ t.mem = s.mem ∧ (t.hart u 0).fflags = (s.hart u 0).fflags ||| x.flags ∧ (t.hart u 0).instret = (s.hart u 0).instret + 1
      ∧ (t.unit u).wt = (((s.retired u x rest).fencedAfter u x.i).unit u).wt := by
  obtain ⟨fe, mem, hart⟩ := State.fencedAfter_only (s := s.retired u x rest) (u := u) x.i
  refine ⟨_, execTileRetire_head rob phase fault, ?_, ?_, ?_, ?_, ?_⟩
  · rw [wakePark_fe, fe, State.retired_fe]
  · rw [wakePark_mem, mem]
    rfl
  · rw [wakePark_hart (fun h : Slot => h.fflags) fun _ => rfl, hart, State.retired_hart]
  · rw [wakePark_hart (fun h : Slot => h.instret) fun _ => rfl, hart, State.retired_hart]
  · rw [wakePark_unit]

end Sys2Proof.Machine
end

section
/-! SUPPORT. What the moving forms of the tile ALU and the matrix forms compute (06 R183 to R188, 07 R206). -/

namespace Sys2Proof.Machine

open Sys2Proof

variable {s : State} {u : Nat} {r : RobEntry} {a b c : Tile} {t : Tcw}

theorem aluForm_tmov (h : r.i = .tmov t) :
    aluForm s u r a b c = { result := some (if a.shape = .unmapped then narrowTile 0 else { a with poison := none }), flags := 0, qval := none } := by
  simp only [aluForm, h]

theorem aluForm_tzero (h : r.i = .tzero t) :
    aluForm s u r a b c = { result := some (if Tcw.wide ⟨r.e.tcw⟩ then wideTile 0 else narrowTile 0), flags := 0, qval := none } := by
  simp only [aluForm, h]

theorem aluForm_narrow (h : r.i ∈ ([.tfill t, .tadd t, .tsub t, .tmul t, .tmax t, .tmin t, .tscl t, .ttrn t, .tred t, .tcvt t, .tqnt t,
    .tdeq t] : List Instr)) : ∃ img fl, aluForm s u r a b c = { result := some (narrowTile img), flags := fl, qval := none } := by
  simp only [List.mem_cons, List.not_mem_nil, or_false] at h
  obtain h | h | h | h | h | h | h | h | h | h | h | h := h <;> exact ⟨_, _, by simp only [aluForm, h]; rfl⟩

theorem aluForm_tredQueue (h : r.i = .tredQueue t) :
    (aluForm s u r a b c).result = none ∧ (aluForm s u r a b c).qval.isSome = true := by
  simp only [aluForm, h, Option.isSome_some, and_self]

theorem matrixForm_wide (acc : Tile) : ∃ img, (matrixForm s u r a b c acc).result = some (wideTile img) := ⟨_, rfl⟩

end Sys2Proof.Machine
end

section
/-! The tile front end's steps: O44. -/

namespace Sys2Proof.Machine

open Sys2Proof

variable {s : State} {u r : Nat} {x : RobEntry}

theorem exec_tileIssue (entry : (s.fe u).entry r = some x)
    (alone : (((s.fe u).older r).all fun y => tileUnit y.i != tileUnit x.i) = true) (phase : x.phase = .renamed) (fault : x.fault = none)
    (unit : unitFree (s.fe u) (tileUnit x.i) = true) (held : tileMemHeld s u x = false) (id : x.id = r)
    (ready : (s.fe u).ready x = true) :
    (tileUnit x.i = .alu → exec (.tileIssue u r) s = .next (s.modRob u r fun y => { y with phase := .issued }))
      ∧ (∀ q ps, tileUnit x.i = .engine ∨ tileUnit x.i = .fetch → rowsOpen s u x = true → chunkHidden x = false →
        formPieces (s.asHart u 0) x (wideSource (s.fe u) x) true = .ok (q, ps) →
        (beyondL1 q u x ps || listFar s u x) = false ∨ requestFree s u (24, r) (24, r) = true →
        exec (.tileIssue u r) s = .next ((s.back q).modRob u r fun y =>
          { y with phase := .issued, env := envNow s u x, places := ps.map fun p => (p.off, p.p.pa, p.n),
                   spans := ps.map fun p => (p.p.va, p.p.pa, p.n, p.p.bypass), bypass := Tcw.hint ⟨x.e.tcw⟩,
                   request := beyondL1 q u x ps || listFar s u x })) := by
  subst id
  have may := mayIssue_of phase fault unit held ready
  constructor
  · intro alu
    exact execTileIssue_alone entry alone (issueOne_of_not_memory may (by simp [RobEntry.memory, alu]))
  · intro q ps kind rows shown found request
    exact execTileIssue_alone entry alone (issueOne_of_memory may (RobEntry.memory_iff.mpr kind) rows shown found request)

theorem exec_tileComplete_load {t : Tcw} (entry : (s.fe u).entry r = some x) (id : x.id = r) (fault : x.fault = none)
    (phase : x.phase = .issued) (here : piecesWait s u x = false) {q : State} {img : Nat}
    (h : x.i ∈ ([.tld t, .tldh t, .tgath t, .trest t] : List Instr))
    (request : x.request = true ∨ piecesFar s u x (heldPieces s x) = false ∨ requestFree s u (24, r) (24, r) = true)
    (read : readPieces (s.asHart u 0) (!(Tcw.hint ⟨x.e.tcw⟩)) (heldPieces s x) = .ok (q, img)) :
    exec (.tileComplete u r) s
      = .next (finishEntry (s.back q) u r { result := some (loadImage x.i ⟨x.e.tcw⟩ img), flags := 0, qval := none }) := by
  subst id
  have engine : x.memory = true := by
    simp only [List.mem_cons, List.not_mem_nil, or_false] at h
    obtain h | h | h | h := h <;> simp [RobEntry.memory, tileUnit, h]
  exact (execTileComplete_memory entry fault phase engine).trans (congrArg Host.Outcome.next (completeMemory_load here h request read))

theorem exec_tileComplete_tmmad {t : Tcw} (entry : (s.fe u).entry r = some x) (fault : x.fault = none)
    (phase : x.phase = .issued) (here : piecesWait s u x = false) (h : x.i = .tmmad t) (box : x.box = none) :
    exec (.tileComplete u r) s = .next (fetchBox s u x (heldPieces s x)) :=
  (execTileComplete_memory entry fault phase (by simp [RobEntry.memory, tileUnit, h])).trans
    (congrArg Host.Outcome.next (completeMemory_tmmad here h box))

theorem fetchRow_effect (p : Piece) (absent : x.hasRow p = false) (unlocked : pairLocked s (lineOf p.p.pa) = false)
    (room : canPin s (lineOf p.p.pa) = true) :
    (fetchRow u (s, x) p).1.mem = s.mem
      ∧ (fetchRow u (s, x) p).2.boxPart = x.boxPart ||| BitVec.ofNat 65536 (s.get p.p.pa p.n * 2 ^ (8 * p.off))
      ∧ (fetchRow u (s, x) p).2.arrived = x.arrived ++ [(p.off, ((fetchRow u (s, x) p).1.poisonIn p.p.pa p.n).isSome)] := by
  rw [fetchRow_arrives s absent unlocked room]
  exact ⟨State.mem_of_bytes (s.rowRead_bytes), by rw [s.rowRead_value], rfl⟩

theorem aluForm_narrow_shape {a b c : Tile} {t : Tcw} (h : x.i ∈ ([.tfill t, .tadd t, .tsub t, .tmul t, .tmax t, .tmin t, .tscl t,
    .ttrn t, .tred t, .tcvt t, .tqnt t, .tdeq t] : List Instr)) :
    (∃ y, (aluForm s u x a b c).result = some y ∧ y.shape = .narrow ∧ y.poison = none) ∧ (aluForm s u x a b c).qval = none := by
  obtain ⟨img, fl, form⟩ := aluForm_narrow (s := s) (u := u) (a := a) (b := b) (c := c) h
  rw [form]
  exact ⟨⟨_, rfl, rfl, rfl⟩, rfl⟩

/-- Settles O44: the tile front end step by step, from the lemmas about rename, issue, completion and retirement. -/
theorem tileSteps : Obligations.TileSteps := by
  unfold Obligations.TileSteps
  refine ⟨fun s u r => ⟨?rename, ?issue, ?complete, ?memory, ?row, ?retire⟩, fun s u r a b c acc t => ⟨?tmov, ?unmapped, ?tzero, ?narrow, ?queue, ?matrix⟩⟩
  case rename =>
    intro e fe on next room
    exact ⟨fun f fault => exec_tileRename_fault on next room fault,
      fun es sk m fault regs free => exec_tileRename_ok on next room fault regs free⟩
  case issue =>
    intro x entry alone phase fault unit held id ready
    exact exec_tileIssue entry alone phase fault unit held id ready
  case complete =>
    intro x a b c entry id fault ha hb hc
    refine ⟨fun phase unit => ⟨fun clean value => ?_, fun v h => ?_⟩, fun acc phase done hacc clean => ?_⟩
    · refine (execTileComplete_alu entry fault ha hb hc phase unit clean value).trans ?_
      rw [finishEntry, value]
    · exact execTileComplete_alu_poisoned entry fault ha hb hc phase unit h
    · exact execTileComplete_matrix entry fault ha hb hc phase done hacc clean
  case memory =>
    intro x t entry id fault phase here
    refine ⟨fun q img h request read => exec_tileComplete_load entry id fault phase here h request read, fun h box => ?_⟩
    subst id
    have run := exec_tileComplete_tmmad entry fault phase here h box
    exact ⟨fun rows => run.trans (congrArg Host.Outcome.next (fetchBox_partial rows)),
      fun rows clean => run.trans (congrArg Host.Outcome.next (fetchBox_complete rows clean)),
      fun p rows poisoned => run.trans (congrArg Host.Outcome.next (fetchBox_poisoned rows poisoned))⟩
  case row => exact fun x p => ⟨fetchRow_waits s, fetchRow_effect p⟩
  case retire =>
    intro x rest rob phase fault
    obtain ⟨t, step, fe, mem, flags, count, wt⟩ := exec_tileRetire rob phase fault
    refine ⟨t, step, ?_⟩
    rw [fe]
    refine ⟨?_, (s.fe u).retired_eRet, (s.fe u).retired_skRet, mem, fun d => (s.fe u).retired_dest, (s.fe u).retired_no_dest, rfl, flags,
      count, fun w h => ?_, fun h => ?_⟩
    · simp only [TileFE.retired_rob, List.map_map]
      rfl
    · rw [wt, State.fencedAfter_tfence h, State.fencedTile_wt, State.retired_wt]
    · rw [wt, State.fencedAfter_other h, State.retired_wt]
  case tmov =>
    intro h shape
    rw [aluForm_tmov h, if_neg shape]
    exact ⟨rfl, rfl⟩
  case unmapped =>
    intro h shape
    rw [aluForm_tmov h, if_pos shape]
    rfl
  case tzero =>
    intro h
    rw [aluForm_tzero h]
    cases Tcw.wide ⟨r.e.tcw⟩ <;> rfl
  case narrow => exact aluForm_narrow_shape
  case queue => exact aluForm_tredQueue
  case matrix =>
    obtain ⟨img, h⟩ := matrixForm_wide (s := s) (u := u) (r := r) (a := a) (b := b) (c := c) acc
    exact ⟨_, h, rfl, rfl⟩

end Sys2Proof.Machine
end

section
/-! SUPPORT. Writes that stay inside given cells. -/

namespace Sys2Proof.Machine

open Sys2Proof

/-- The bytes of a written span, one by one. -/
theorem memRead_memPut_in {m : List Host.Cell} {a n v i : Nat} (h : memWf m = true) (hi : i < n) :
    memRead (memPut m a n v) (a + i) = byteOf v i := by
  induction n generalizing m a v i with
  | zero => omega
  | succ n ih =>
    cases i with
    | zero =>
      change memRead (memPut m a (n + 1) v) a = _
      rw [memPut, memRead_memPut_out (memWrite_wf h) (by omega), memRead_memWrite_same h, byteOf, Nat.pow_zero, Nat.div_one]
    | succ i =>
      rw [memPut, show a + (i + 1) = a + 1 + i by omega, ih (memWrite_wf h) (by omega), byteOf, byteOf, Nat.div_div_eq_div_mul, Nat.pow_succ']

/-- A state that differs in its memory only at given cells, in canonical form and under the same map of addresses. -/
structure WritesOnly (s t : State) (on : Nat → Prop) : Prop where
  wf : memWf t.mem = true
  map : t.cell = s.cell
  out : ∀ a, ¬on a → t.byteAt a = s.byteAt a

namespace WritesOnly

variable {s t r : State} {on : Nat → Prop}

theorem of_bytes (h : memWf s.mem = true) (same : t.bytes = s.bytes) : WritesOnly s t on where
  wf := by rwa [State.mem_of_bytes same]
  map := State.cell_of_bytes same
  out a _ := by rw [State.byteAt, State.mem_of_bytes same]; rfl

theorem of_put {c n v : Nat} (h : memWf s.mem = true) (same : t.bytes = (memPut s.mem c n v, s.pkg.capwin))
    (span : ∀ i, i < n → on (c + i)) : WritesOnly s t on where
  wf := by
    rw [show t.mem = _ from congrArg Prod.fst same]
    exact memPut_wf h
  map := State.cell_of_capwin (congrArg Prod.snd same)
  out a ha := by
    have apart : a < c ∨ c + n ≤ a := by
      by_contra inside
      exact ha (by simpa [show c + (a - c) = a by omega] using span (a - c) (by omega))
    rw [State.byteAt, show t.mem = _ from congrArg Prod.fst same, memRead_memPut_out h apart]
    rfl

theorem trans (first : WritesOnly s t on) (second : WritesOnly t r on) : WritesOnly s r on where
  wf := second.wf
  map := second.map.trans first.map
  out a ha := (second.out a ha).trans (first.out a ha)

theorem mono {off : Nat → Prop} (h : WritesOnly s t on) (wider : ∀ a, on a → off a) : WritesOnly s t off where
  wf := h.wf
  map := h.map
  out a ha := h.out a fun hit => ha (wider a hit)

theorem trans_bytes (first : WritesOnly s t on) (same : r.bytes = t.bytes) : WritesOnly s r on := first.trans (of_bytes first.wf same)

/-- A run of writes, each inside the cells, is inside them. -/
theorem foldl {α : Type} {f : State → α → State} {ps : List α} (h : memWf s.mem = true)
    (each : ∀ t p, p ∈ ps → memWf t.mem = true → t.cell = s.cell → WritesOnly t (f t p) on) : WritesOnly s (ps.foldl f s) on := by
  induction ps generalizing s with
  | nil => exact of_bytes h rfl
  | cons p ps ih =>
    have first := each s p List.mem_cons_self h rfl
    exact first.trans (ih first.wf fun t q hq wf map => each t q (List.mem_cons_of_mem _ hq) wf (map.trans first.map))

end WritesOnly

/-- A write of a sector replaces its bytes, or, of PERM N to a port that is down, none. -/
theorem State.writeSector_bytes_or (s : State) (u : Nat) (w : WtAccess) (v : Nat) (b nc : Bool) :
    (s.writeSector u w v b nc).bytes = (memPut s.mem (s.cell w.pa) w.n v, s.pkg.capwin) ∨ (s.writeSector u w v b nc).bytes = s.bytes := by
  have home {t : State} (h : t.bytes = s.bytes) (who : Nat) : (t.putHome who w.pa w.n v nc).bytes = (memPut s.mem (s.cell w.pa) w.n v, s.pkg.capwin)
      ∨ (t.putHome who w.pa w.n v nc).bytes = s.bytes := by
    unfold State.putHome
    split
    · exact .inr (by rw [portError_bytes, h])
    · exact .inl (by simp only [State.wrote_bytes, State.clearPoison_bytes, State.put_bytes s h])
  unfold State.writeSector
  dsimp only
  split
  · exact .inl (by simp [State.put_bytes s rfl])
  · refine home ?_ _
    repeat' split
    all_goals simp

/-- A store of any length writes inside its span. -/
theorem State.writeSpan_writesOnly (s : State) {u : Nat} {w : WtAccess} {v : Nat} {b nc : Bool} (h : memWf s.mem = true) :
    WritesOnly s (s.writeSpan u w v b nc) fun a => ∃ i, i < w.n ∧ a = s.cell (w.pa + i) := by
  refine WritesOnly.foldl h fun t p hp wf map => ?_
  obtain ⟨low, high, inside⟩ := sectors_inside hp
  have span : ∀ i, i < p.2 → ∃ j, j < w.n ∧ t.cell p.1 + i = s.cell (w.pa + j) := by
    intro i hi
    refine ⟨p.1 - w.pa + i, by omega, ?_⟩
    rw [← t.cell_add (by omega), map]
    congr 1
    omega
  obtain written | same := t.writeSector_bytes_or u { w with va := w.va + (p.1 - w.pa), pa := p.1, n := p.2 }
    (v / 2 ^ (8 * (p.1 - w.pa)) % 2 ^ (8 * p.2)) b nc
  · exact WritesOnly.of_put wf written span
  · exact WritesOnly.of_bytes wf same

/-- Beyond every PA a cell is its address. -/
theorem State.cell_of_store (s : State) {a : Nat} (h : 2 ^ 52 ≤ a) : s.cell a = a := by
  have notTwo : ¬a / 2 ^ 48 = 2 := by omega
  rw [State.cell, if_neg notTwo]

end Sys2Proof.Machine
end

section
/-! SUPPORT. The runs of a retired tile store (01 R43). -/

namespace Sys2Proof.Machine

open Sys2Proof

/-- The cells of a run with their bytes. -/
def runCells (p : Nat × Nat × Nat) : List (Nat × Byte) := (upTo p.2.1).map fun i => (p.1 + i, byteOf p.2.2 i)

theorem runCells_one (a : Nat) (b : Byte) : runCells (a, 1, b.toNat) = [(a, b)] := by
  simp [runCells, upTo, byteOf]

theorem runCells_succ (a n v : Nat) (b : Byte) : runCells (a, n + 1, b.toNat + 256 * v) = (a, b) :: runCells (a + 1, n, v) := by
  have low : byteOf (b.toNat + 256 * v) 0 = b := by
    apply BitVec.eq_of_toNat_eq
    have := b.isLt
    simp only [byteOf, Nat.pow_zero, Nat.div_one, BitVec.toNat_ofNat]
    omega
  have high (i : Nat) : byteOf (b.toNat + 256 * v) (i + 1) = byteOf v i := by
    have := b.isLt
    rw [byteOf, byteOf, Nat.pow_succ', ← Nat.div_div_eq_div_mul, show (b.toNat + 256 * v) / 256 = v by omega]
  simp only [runCells, upTo, List.range_succ_eq_map, List.map_cons, List.map_map, Nat.add_zero, low, List.cons.injEq, true_and]
  exact List.map_congr_left fun i _ => by simp only [Function.comp_apply, Nat.succ_eq_add_one, high, Nat.add_assoc, Nat.add_comm 1]

/-- A run lies in one sector and carries its own bytes and no more. -/
structure SectorRun (p : Nat × Nat × Nat) : Prop where
  some : 0 < p.2.1
  inside : p.1 % 128 + p.2.1 ≤ 128
  fits : p.2.2 < 2 ^ (8 * p.2.1)

theorem SectorRun.one (a : Nat) (b : Byte) : SectorRun (a, 1, b.toNat) := ⟨Nat.one_pos, by dsimp only; omega, b.isLt⟩

theorem SectorRun.succ {a n v : Nat} (b : Byte) (h : SectorRun (a + 1, n, v)) (same : (a + 1) % 128 ≠ 0) :
    SectorRun (a, n + 1, b.toNat + 256 * v) := by
  obtain ⟨pos, inside, fits⟩ := h
  have low := b.isLt
  refine ⟨Nat.succ_pos n, by dsimp only at *; omega, ?_⟩
  have power : 2 ^ (8 * (n + 1)) = 256 * 2 ^ (8 * n) := by rw [Nat.mul_add, Nat.pow_add, Nat.mul_comm]
  dsimp only at *
  omega

/-- A cell before a list of bytes joins its first run, or is a run of its own. -/
theorem runsOf_cons (a : Nat) (b : Byte) (t : List (Nat × Byte)) :
    (∃ n v rest, runsOf t = (a + 1, n, v) :: rest ∧ (a + 1) % 128 ≠ 0 ∧ runsOf ((a, b) :: t) = (a, n + 1, b.toNat + 256 * v) :: rest)
      ∨ runsOf ((a, b) :: t) = (a, 1, b.toNat) :: runsOf t := by
  cases runs : runsOf t with
  | nil => exact .inr (by simp only [runsOf, runs])
  | cons p rest =>
    obtain ⟨c, n, v⟩ := p
    by_cases join : c = a + 1 ∧ c % 128 ≠ 0
    · obtain ⟨rfl, same⟩ := join
      exact .inl ⟨n, v, rest, rfl, same, by simp [runsOf, runs, same]⟩
    · exact .inr (by simp only [runsOf, runs, if_neg join])

/-- The runs of a store, cell by cell, are its bytes. -/
theorem runsOf_cells (l : List (Nat × Byte)) : (runsOf l).flatMap runCells = l := by
  induction l with
  | nil => rfl
  | cons p t ih =>
    obtain ⟨a, b⟩ := p
    obtain ⟨n, v, rest, runs, -, joined⟩ | apart := runsOf_cons a b t
    · rw [joined, List.flatMap_cons, runCells_succ, List.cons_append, ← List.flatMap_cons, ← runs, ih]
    · rw [apart, List.flatMap_cons, runCells_one, ih]
      rfl

theorem runsOf_sectorRun (l : List (Nat × Byte)) : ∀ p ∈ runsOf l, SectorRun p := by
  induction l with
  | nil => exact fun p hp => absurd hp (by simp [runsOf])
  | cons q t ih =>
    obtain ⟨a, b⟩ := q
    obtain ⟨n, v, rest, runs, same, joined⟩ | apart := runsOf_cons a b t
    · rw [runs, List.forall_mem_cons] at ih
      rw [joined, List.forall_mem_cons]
      exact ⟨ih.1.succ b same, ih.2⟩
    · rw [apart, List.forall_mem_cons]
      exact ⟨SectorRun.one a b, ih⟩

end Sys2Proof.Machine
end

section
/-! SUPPORT. A retired tile store writes its lines (01 R43). -/

namespace Sys2Proof.Machine

open Sys2Proof

variable {s t : State} {u : Nat} {w : WritingStore}

/-- The cells of a run where it lies now, with their bytes. -/
def movedCells (p : Nat × Nat × Nat × Nat × Bool) : List (Nat × Byte) := runCells (p.2.1, p.2.2.1, p.2.2.2.1)

theorem mem_movedCells {p : Nat × Nat × Nat × Nat × Bool} {q : Nat × Byte} :
    q ∈ movedCells p ↔ ∃ i, i < p.2.2.1 ∧ q = (p.2.1 + i, byteOf p.2.2.2.1 i) := by
  simp only [movedCells, runCells, upTo, List.mem_map, List.mem_range, eq_comm]

/-- One run written: in a store as it stands, in memory through the caches as the store says. -/
def State.runWritten (s : State) (u : Nat) (w : WritingStore) (p : Nat × Nat × Nat × Nat × Bool) : State :=
  tileWrote (if 2 ^ 52 ≤ p.2.1 then ((s.put p.2.1 p.2.2.1 p.2.2.2.1).clearPoison p.2.1 p.2.2.1).wrote noHart (lineOf p.2.1)
    else
      s.writeSpan u { slot := 8, va := p.1, pa := p.2.1, n := p.2.2.1, step := w.step, tag := (w.env.headD (0, 0)).1 } p.2.2.2.1 w.bypass
        p.2.2.2.2) u (lineOf p.2.1)

/-- The bytes of a retired store written, run by run, and its lines poisoned with its source. -/
def State.storeWritten (s : State) (u : Nat) (w : WritingStore) : State :=
  let t := (movedRuns s w).foldl (fun t p => t.runWritten u w p) s
  if w.poisoned then poisonRuns t ((movedRuns s w).map fun p => (p.2.1, p.2.2.1, p.2.2.2.1)) else t

theorem execTileStoreWritten_go {rest : List WritingStore} (writing : (s.fe u).writing = w :: rest) (may : tileMayWrite s u = true)
    (go : writeMayGo s u w (movedRuns s w) = true)
    (unlocked : ∀ p ∈ movedRuns s w, p.2.1 < 2 ^ 52 → pairLocked s (lineOf p.2.1) = false) :
    execTileStoreWritten u s = .next (wakePark ((s.storeWritten u w).modFe u fun fe => { fe with writing := rest }) u 11) := by
  have free : (movedRuns s w).any (fun p => decide (p.2.1 < 2 ^ 52) && pairLocked s (lineOf p.2.1)) = false := by
    rw [List.any_eq_false]
    intro p hp
    by_cases low : p.2.1 < 2 ^ 52
    · simp only [unlocked p hp low, Bool.and_false, Bool.false_eq_true, not_false_eq_true]
    · simp only [low, decide_false, Bool.false_and, Bool.false_eq_true, not_false_eq_true]
  simp only [execTileStoreWritten, writing, may, go, free, Bool.not_true, Bool.or_self, Bool.false_eq_true, ↓reduceIte]
  rfl

@[simp] theorem tileWrote_bytes (s : State) (u line : Nat) : (tileWrote s u line).bytes = s.bytes := rfl

@[simp] theorem poisonRuns_bytes (s : State) (rs : List (Nat × Nat × Nat)) : (poisonRuns s rs).bytes = s.bytes :=
  foldl_keeps State.bytes _ (fun t p => by simp) rs s

theorem State.storeWritten_bytes : (s.storeWritten u w).bytes = ((movedRuns s w).foldl (fun t p => t.runWritten u w p) s).bytes := by
  unfold State.storeWritten
  dsimp only
  split
  · exact poisonRuns_bytes ..
  · rfl

/-- A run is written where it lies and nowhere else. -/
theorem State.runWritten_writesOnly (h : memWf s.mem = true) (p : Nat × Nat × Nat × Nat × Bool) :
    WritesOnly s (s.runWritten u w p) fun a => ∃ q ∈ movedCells p, a = s.cell q.1 := by
  have cells : ∀ a, (∃ i, i < p.2.2.1 ∧ a = s.cell (p.2.1 + i)) → ∃ q ∈ movedCells p, a = s.cell q.1 := by
    rintro a ⟨i, hi, rfl⟩
    exact ⟨_, mem_movedCells.mpr ⟨i, hi, rfl⟩, rfl⟩
  unfold State.runWritten
  split
  case isTrue high =>
    refine WritesOnly.of_put (c := s.cell p.2.1) (n := p.2.2.1) (v := p.2.2.2.1) h ?_ fun i hi => cells _ ⟨i, hi, ?_⟩
    · simp only [tileWrote_bytes, State.wrote_bytes, State.clearPoison_bytes, State.put_bytes s rfl]
    · rw [s.cell_of_store high, s.cell_of_store (by omega)]
  case isFalse =>
    exact ((s.writeSpan_writesOnly h).mono cells).trans_bytes rfl

/-- A run inside a sector that the caches may keep is written as it stands. -/
theorem State.runWritten_bytes {p : Nat × Nat × Nat × Nat × Bool} (kept : p.2.2.2.2 = false)
    (run : SectorRun (p.2.1, p.2.2.1, p.2.2.2.1)) :
    (s.runWritten u w p).bytes = (memPut s.mem (s.cell p.2.1) p.2.2.1 p.2.2.2.1, s.pkg.capwin) := by
  unfold State.runWritten
  split
  · simp only [tileWrote_bytes, State.wrote_bytes, State.clearPoison_bytes, State.put_bytes s rfl]
  · rw [tileWrote_bytes, kept]
    exact s.writeSpan_sector run.some run.inside run.fits

/-- Runs are written where they lie and nowhere else. -/
theorem State.runsWritten_writesOnly (h : memWf s.mem = true) (ps : List (Nat × Nat × Nat × Nat × Bool)) :
    WritesOnly s (ps.foldl (fun t p => t.runWritten u w p) s) fun a => ∃ q ∈ ps.flatMap movedCells, a = s.cell q.1 := by
  refine WritesOnly.foldl h fun t p hp wf map => (t.runWritten_writesOnly wf p).mono ?_
  rintro a ⟨q, hq, rfl⟩
  exact ⟨q, List.mem_flatMap.mpr ⟨p, hp, hq⟩, by rw [map]⟩

/-- A byte of a run inside a sector reads back. -/
theorem State.runWritten_byteAt (h : memWf s.mem = true) {p : Nat × Nat × Nat × Nat × Bool} (kept : p.2.2.2.2 = false)
    (run : SectorRun (p.2.1, p.2.2.1, p.2.2.2.1)) {q : Nat × Byte} (hq : q ∈ movedCells p) :
    (s.runWritten u w p).byteAt (s.cell q.1) = q.2 := by
  obtain ⟨i, hi, rfl⟩ := mem_movedCells.mp hq
  have inside := run.inside
  dsimp only at inside ⊢
  rw [State.byteAt, show (s.runWritten u w p).mem = _ from congrArg Prod.fst (State.runWritten_bytes kept run),
    s.cell_add (by omega), memRead_memPut_in h hi]

/-- Runs that share no cell read back. -/
theorem State.runsWritten_byteAt {ps : List (Nat × Nat × Nat × Nat × Bool)} (h : memWf s.mem = true)
    (each : ∀ p ∈ ps, p.2.2.2.2 = false ∧ SectorRun (p.2.1, p.2.2.1, p.2.2.2.1))
    (apart : ((ps.flatMap movedCells).map fun q => s.cell q.1).Nodup) :
    ∀ q ∈ ps.flatMap movedCells, (ps.foldl (fun t p => t.runWritten u w p) s).byteAt (s.cell q.1) = q.2 := by
  induction ps generalizing s with
  | nil => exact fun q hq => absurd hq List.not_mem_nil
  | cons p ps ih =>
    obtain ⟨⟨kept, run⟩, others⟩ := List.forall_mem_cons.mp each
    have first := s.runWritten_writesOnly (u := u) (w := w) h p
    rw [List.flatMap_cons, List.map_append, List.nodup_append] at apart
    obtain ⟨-, later, disjoint⟩ := apart
    intro q hq
    rw [List.flatMap_cons, List.mem_append] at hq
    rw [List.foldl_cons]
    obtain here | there := hq
    · rw [((s.runWritten u w p).runsWritten_writesOnly first.wf ps).out _ ?_, State.runWritten_byteAt h kept run here]
      rintro ⟨r, hr, same⟩
      rw [first.map] at same
      exact disjoint _ (List.mem_map_of_mem here) _ (List.mem_map_of_mem hr) same
    · have := ih first.wf others (by rwa [first.map]) q there
      rwa [first.map] at this

theorem spanOf_kept {spans : List (Nat × Nat × Nat × Bool)} (h : ∀ p ∈ spans, p.2.2.2 = false) (pa : Nat) : (spanOf spans pa).2 = false := by
  unfold spanOf
  split
  case h_1 p found => exact h p (List.mem_of_find?_eq_some found)
  case h_2 => rfl

/-- Where no running move has copied a byte of the store, its runs lie where its bytes do. -/
theorem movedRuns_cells (still : ∀ p ∈ w.bytes, 2 ^ 52 ≤ p.1 ∨ redirectPa s p.1 = p.1) :
    (∀ p ∈ movedRuns s w, (p.2.1, p.2.2.1, p.2.2.2.1) ∈ runsOf w.bytes) ∧ (movedRuns s w).flatMap movedCells = w.bytes := by
  have place : ∀ r ∈ runsOf w.bytes, (if 2 ^ 52 ≤ r.1 then r.1 else redirectPa s r.1) = r.1 := by
    intro r hr
    have first : (r.1 + 0, byteOf r.2.2 0) ∈ runCells r :=
      List.mem_map.mpr ⟨0, List.mem_range.mpr (runsOf_sectorRun _ r hr).some, rfl⟩
    have byte : (r.1, byteOf r.2.2 0) ∈ w.bytes := by
      rw [← runsOf_cells w.bytes]
      exact List.mem_flatMap.mpr ⟨r, hr, first⟩
    split
    · rfl
    case isFalse low => exact (still _ byte).resolve_left low
  constructor
  · intro p hp
    obtain ⟨r, hr, rfl⟩ := List.mem_map.mp hp
    dsimp only
    rwa [place r hr]
  · conv_rhs => rw [← runsOf_cells w.bytes]
    rw [movedRuns, List.flatMap_map]
    refine List.flatMap_congr fun r hr => ?_
    simp only [movedCells, place r hr]

theorem movedRuns_kept (h : ∀ p ∈ w.spans, p.2.2.2 = false) : ∀ p ∈ movedRuns s w, p.2.2.2.2 = false := by
  intro p hp
  obtain ⟨r, -, rfl⟩ := List.mem_map.mp hp
  exact spanOf_kept h r.1

/-- A retired store writes its bytes, where they lie now, and no other byte of memory. -/
theorem exec_tileStoreWritten {rest : List WritingStore} (inv : s.Inv) (writing : (s.fe u).writing = w :: rest)
    (may : tileMayWrite s u = true) (go : writeMayGo s u w (movedRuns s w) = true)
    (unlocked : ∀ p ∈ movedRuns s w, p.2.1 < 2 ^ 52 → pairLocked s (lineOf p.2.1) = false) :
    ∃ t, exec (.tileStoreWritten u) s = .next t ∧ (t.fe u).writing = rest
      ∧ WritesOnly s t (fun a => ∃ q ∈ (movedRuns s w).flatMap movedCells, a = s.cell q.1)
      ∧ ((∀ p ∈ movedRuns s w, p.2.2.2.2 = false ∧ SectorRun (p.2.1, p.2.2.1, p.2.2.2.1)) →
        (((movedRuns s w).flatMap movedCells).map fun q => s.cell q.1).Nodup →
        ∀ q ∈ (movedRuns s w).flatMap movedCells, t.get q.1 1 = q.2.toNat) := by
  have frame := s.runsWritten_writesOnly (u := u) (w := w) inv (movedRuns s w)
  have bytes : (wakePark ((s.storeWritten u w).modFe u fun fe => { fe with writing := rest }) u 11).bytes
      = ((movedRuns s w).foldl (fun t p => t.runWritten u w p) s).bytes := by
    rw [wakePark_bytes]
    exact State.storeWritten_bytes
  refine ⟨_, execTileStoreWritten_go writing may go unlocked, by rw [wakePark_fe, State.fe_modFe_same], frame.trans_bytes bytes,
    fun each apart q hq => ?_⟩
  rw [State.get, State.mem_of_bytes bytes, State.cell_of_bytes bytes, frame.map]
  exact congrArg BitVec.toNat (State.runsWritten_byteAt inv each apart q hq)

end Sys2Proof.Machine
end

section
/-! SUPPORT. The tile stream's fault: what is discarded, and its report through slot 0 (01 R46, R47). -/

namespace Sys2Proof.Machine

open Sys2Proof

variable {s : State} {u : Nat}

/-- A front end that has discarded all that has not retired. -/
def TileFE.discarded (fe : TileFE) : TileFE :=
  { fe with rob := [], replay := fe.rob.map (fun g => g.e) ++ fe.replay ++ fe.inq, inq := [],
            free := fe.free + (fe.rob.map fun g => g.slots).sum, e := fe.eRet, sk := fe.skRet }

/-- Entries that are discarded give their arrays and pins back, which touches no unit, slot or byte. -/
theorem released_keeps {α : Type} (g : State → α) (array : ∀ t r, g (endArray t u r) = g t) (pin : ∀ t tag, g (State.unpin t tag) = g t)
    (gone : List RobEntry) : g (gone.foldl (fun t r => (endArray t u r.id).unpin (boxPin u r.id)) s) = g s :=
  foldl_keeps g _ (fun t r => by rw [pin, array]) gone s

theorem discardFrom_unit : (discardFrom s u (s.fe u).rob).unit u = { s.unit u with fe := (s.fe u).discarded } := by
  have units := released_keeps (s := s) (u := u) (fun t => t.unit u) (fun _ _ => rfl) (fun _ _ => rfl) (s.fe u).rob
  have none : (s.fe u).rob.filter (fun x => (s.fe u).rob.all fun g => g.id != x.id) = [] := by
    simp only [List.filter_eq_nil_iff, List.all_eq_true, bne_iff_ne, ne_eq, not_forall]
    exact fun x hx => ⟨x, hx, fun different => different rfl⟩
  simp only [State.fe] at none units
  simp only [discardFrom, State.modFe, State.unit_modUnit_same, State.fe, units, none, TileFE.discarded, List.getLast?_nil, Option.map_none,
    Option.getD_none]

theorem discardFrom_fe : (discardFrom s u (s.fe u).rob).fe u = (s.fe u).discarded := congrArg UnitSt.fe discardFrom_unit

theorem discardFrom_hart (i j : Nat) : (discardFrom s u (s.fe u).rob).hart i j = s.hart i j :=
  released_keeps (fun t => t.hart i j) (fun _ _ => rfl) (fun _ _ => rfl) _

theorem discardFrom_mem : (discardFrom s u (s.fe u).rob).mem = s.mem :=
  released_keeps State.mem (fun _ _ => rfl) (fun _ _ => rfl) _

section
variable (k c : Nat) (v pc : Word) (instr : Nat) (o : TrapSource)

/-- A management trap on its slot. -/
theorem mgmtTrap_hart : (mgmtTrap s u k c v pc instr o).hart u k =
    { s.hart u k with hxtrap := w64 (trapWord k c o), hxtval := v, hxepc := pc &&& 0xFFFFFFFFFFFFFFFC#64, pc := pc, park := 9, await := 0,
                      waitOn := none, resv := none, trapRec := trapRecord s u k c v pc instr o, pipe := .idle } :=
  State.hart_modHart_same ..

/-- A management trap in its unit: its record is queued. -/
theorem mgmtTrap_unit : (mgmtTrap s u k c v pc instr o).unit u =
    { s.unit u with trapSeq := (s.unit u).trapSeq + 1, records := (s.unit u).records ++ [trapRecord s u k c v pc instr o] } := by
  rw [mgmtTrap, State.unit_modHart, State.unit_modUnit_same]

theorem mgmtTrap_fe : (mgmtTrap s u k c v pc instr o).fe u = s.fe u := by rw [State.fe, mgmtTrap_unit, State.fe]
theorem mgmtTrap_mem : (mgmtTrap s u k c v pc instr o).mem = s.mem := rfl
end

/-- A tile fault is a management trap of slot 0 at its PC. -/
theorem reportTile_mgmtTrap (c : Nat) (v : Word) (rob : Nat) : ∃ instr o, reportTile s u c v rob = mgmtTrap s u 0 c v (s.hart u 0).pc instr o :=
  ⟨_, _, rfl⟩

/-- The report names the entry and the word that comes first in the replay list. -/
theorem reportTile_eq {e : TcwEntry} {rest : List TcwEntry} (h : (s.fe u).replay = e :: rest) (c : Nat) (v : Word) (rob : Nat) :
    reportTile s u c v rob = mgmtTrap s u 0 c v (s.hart u 0).pc (e.tcw.toNat % 2 ^ 32) { tile := true, rob := rob, taddr := e.addr } := by
  simp only [reportTile, h, List.headD_cons]

section
variable {x : RobEntry} {rest : List RobEntry} {c : Nat} {v : Word}
  (recorded : (s.fe u).recorded = none) (rob : (s.fe u).rob = x :: rest) (fault : x.fault = some (c, v))
include recorded rob fault

theorem execTileFault_draining (stopped : (s.unit u).stopped = true) :
    execTileFault u s = .next ((discardFrom s u (s.fe u).rob).modFe u fun f => { f with recorded := some (c, v) }) := by
  simp only [execTileFault, recorded, rob, fault, stopped, ↓reduceIte]

theorem execTileFault_reported (running : (s.unit u).stopped = false) (free : slot0Free s u = true) :
    execTileFault u s = .next (reportTile (discardFrom s u (s.fe u).rob) u c v x.id) := by
  simp only [execTileFault, recorded, rob, fault, running, free, Bool.false_eq_true, ↓reduceIte]
end

/-- A fault that a drain recorded is reported once slot 0 is free. -/
theorem execTileFault_recorded {c : Nat} {v : Word} (recorded : (s.fe u).recorded = some (c, v)) (running : (s.unit u).stopped = false)
    (fresh : (s.hart u 0).restored = false) (free : slot0Free s u = true) :
    execTileFault u s = .next (reportTile (s.modFe u fun f => { f with recorded := none }) u c v 0) := by
  simp only [execTileFault, recorded, running, fresh, free, Bool.not_false, Bool.and_self, ↓reduceIte]

end Sys2Proof.Machine
end

section
/-! SUPPORT. The timeouts of the tile stream (06 R174, 07 R212). -/

namespace Sys2Proof.Machine

open Sys2Proof

variable {s : State} {u r : Nat} {x : RobEntry}

theorem execChunkConditionTimeout_late (entry : (s.fe u).entry r = some x) (late : chunkLate s u x = true) :
    execChunkConditionTimeout u r s = .next (faultEntry s u r cFetchNotArrived x.e.cbr) := by
  simp only [execChunkConditionTimeout, entry, late, ↓reduceIte]

theorem execTmmadBoxTimeout_late (entry : (s.fe u).entry r = some x) (unit : tileUnit x.i = .fetch) (phase : x.phase = .issued)
    (box : x.box = none) :
    execTmmadBoxTimeout u r s = .next (faultEntry (s.unpin (boxPin u r)) u r cLeaseOverrun (w64 (lateLine s x))) := by
  simp [execTmmadBoxTimeout, entry, unit, phase, box]

/-- The lines of a box that are not here. -/
def missingLines (s : State) (x : RobEntry) : List Nat := ((heldPieces s x).filter fun p => !x.hasRow p).map fun p => p.p.va / 256 * 256

theorem mem_missingLines {l : Nat} : l ∈ missingLines s x ↔ ∃ p ∈ heldPieces s x, x.hasRow p = false ∧ l = p.p.va / 256 * 256 := by
  simp only [missingLines, List.mem_map, List.mem_filter, Bool.not_eq_true', and_assoc, eq_comm (a := l)]

/-- The late line is the lowest of those that are not here. -/
theorem lateLine_least : (∀ l ∈ missingLines s x, lateLine s x ≤ l) ∧ (missingLines s x ≠ [] → lateLine s x ∈ missingLines s x) := by
  have late : lateLine s x = (missingLines s x).min?.getD 0 := by
    unfold lateLine missingLines
    split <;> rename_i lines <;> rw [lines] <;> rfl
  rw [late]
  cases lines : (missingLines s x).min? with
  | none =>
    rw [List.min?_eq_none_iff] at lines
    simp [lines]
  | some m =>
    obtain ⟨here, least⟩ := List.min?_eq_some_iff.mp lines
    exact ⟨least, fun _ => here⟩

end Sys2Proof.Machine
end

section
/-! The ends of the tile stream's work: O45. -/

namespace Sys2Proof.Machine

open Sys2Proof

variable {s : State} {u r : Nat} {x : RobEntry}

/-- A store's runs by its bytes, where no running move has copied one of them. -/
theorem storeWritten_still {w : WritingStore} {t : State} (only : WritesOnly s t fun a => ∃ q ∈ (movedRuns s w).flatMap movedCells, a = s.cell q.1)
    (reads : (∀ p ∈ movedRuns s w, p.2.2.2.2 = false ∧ SectorRun (p.2.1, p.2.2.1, p.2.2.2.1)) →
      (((movedRuns s w).flatMap movedCells).map fun q => s.cell q.1).Nodup →
      ∀ q ∈ (movedRuns s w).flatMap movedCells, t.get q.1 1 = q.2.toNat)
    (still : ∀ p ∈ w.bytes, 2 ^ 52 ≤ p.1 ∨ redirectPa s p.1 = p.1) :
    (∀ a, (∀ p ∈ w.bytes, a ≠ s.cell p.1) → t.byteAt a = s.byteAt a)
      ∧ ((∀ p ∈ w.spans, p.2.2.2 = false) → (w.bytes.map fun p => s.cell p.1).Nodup → ∀ p ∈ w.bytes, t.get p.1 1 = p.2.toNat) := by
  obtain ⟨runs, cells⟩ := movedRuns_cells still
  rw [cells] at only reads
  refine ⟨fun a ha => only.out a ?_, fun spans => reads fun p hp => ⟨movedRuns_kept spans p hp, runsOf_sectorRun _ _ (runs p hp)⟩⟩
  rintro ⟨p, hp, hit⟩
  exact ha p hp hit

theorem exec_tileFault_draining {rest : List RobEntry} {c : Nat} {v : Word} (recorded : (s.fe u).recorded = none)
    (rob : (s.fe u).rob = x :: rest) (fault : x.fault = some (c, v)) (stopped : (s.unit u).stopped = true) :
    ∃ t, exec (.tileFault u) s = .next t ∧ t.fe u = { (s.fe u).discarded with recorded := some (c, v) } ∧ t.mem = s.mem :=
  ⟨_, execTileFault_draining recorded rob fault stopped, by rw [State.fe_modFe_same, discardFrom_fe], discardFrom_mem⟩

theorem exec_tileFault_reported {rest : List RobEntry} {c : Nat} {v : Word} (recorded : (s.fe u).recorded = none)
    (rob : (s.fe u).rob = x :: rest) (fault : x.fault = some (c, v)) (running : (s.unit u).stopped = false) (free : slot0Free s u = true) :
    ∃ t, exec (.tileFault u) s = .next t ∧ (t.hart u 0).park = 9
      ∧ (t.hart u 0).hxtrap = w64 (trapWord 0 c { tile := true, rob := x.id, taddr := x.e.addr })
      ∧ (t.hart u 0).hxtval = v ∧ (t.hart u 0).pc = (s.hart u 0).pc ∧ t.fe u = (s.fe u).discarded
      ∧ (t.unit u).records = (s.unit u).records ++ [(t.hart u 0).trapRec] ∧ t.mem = s.mem := by
  have replay : ((discardFrom s u (s.fe u).rob).fe u).replay = x.e :: (rest.map (fun g => g.e) ++ (s.fe u).replay ++ (s.fe u).inq) := by
    rw [discardFrom_fe, TileFE.discarded, rob]
    rfl
  refine ⟨_, execTileFault_reported recorded rob fault running free, ?_⟩
  rw [reportTile_eq replay, mgmtTrap_hart, mgmtTrap_unit, mgmtTrap_fe, discardFrom_fe, discardFrom_unit, discardFrom_hart]
  exact ⟨rfl, rfl, rfl, rfl, rfl, rfl, discardFrom_mem⟩

theorem exec_tileFault_recorded {c : Nat} {v : Word} (recorded : (s.fe u).recorded = some (c, v)) (running : (s.unit u).stopped = false)
    (fresh : (s.hart u 0).restored = false) (free : slot0Free s u = true) :
    ∃ t, exec (.tileFault u) s = .next t ∧ (t.fe u).recorded = none ∧ (t.hart u 0).park = 9 ∧ (t.hart u 0).hxtval = v := by
  refine ⟨_, execTileFault_recorded recorded running fresh free, ?_⟩
  obtain ⟨instr, o, report⟩ := reportTile_mgmtTrap (s := s.modFe u fun f => { f with recorded := none }) (u := u) c v 0
  rw [report, mgmtTrap_hart, mgmtTrap_fe, State.fe_modFe_same]
  exact ⟨rfl, rfl, rfl⟩

theorem chunkLate_of {q : State × List Piece} (phase : x.phase = .renamed) (fault : x.fault = none) (early : chunkHolds s u x = false)
    (shown : chunkHidden x = false) (held : tileMemHeld s u x = false) (unit : unitFree (s.fe u) (tileUnit x.i) = true)
    (places : formPieces (s.asHart u 0) x (wideSource (s.fe u) x) false = .ok q) : chunkLate s u x = true := by
  simp [chunkLate, phase, fault, early, shown, held, unit, places]

theorem lateLine_lowest :
    (∀ p ∈ heldPieces s x, x.hasRow p = false → lateLine s x ≤ p.p.va / 256 * 256)
      ∧ ((∃ p ∈ heldPieces s x, x.hasRow p = false) → ∃ p ∈ heldPieces s x, x.hasRow p = false ∧ lateLine s x = p.p.va / 256 * 256) := by
  obtain ⟨least, here⟩ := lateLine_least (s := s) (x := x)
  refine ⟨fun p hp missing => least _ (mem_missingLines.mpr ⟨p, hp, missing, rfl⟩), ?_⟩
  rintro ⟨p, hp, missing⟩
  exact mem_missingLines.mp (here (List.ne_nil_of_mem (mem_missingLines.mpr ⟨p, hp, missing, rfl⟩)))

/-- Settles O45: a retired store by the cells of its runs, the head's fault by what a discarded front end holds, and the two timeouts. -/
theorem tileEnds : Obligations.TileEnds := by
  unfold Obligations.TileEnds
  intro s u r
  refine ⟨?store, ?fault, ?recorded, ?chunk, ?box⟩
  case store =>
    intro w rest inv writing may go unlocked
    obtain ⟨t, step, left, only, reads⟩ := exec_tileStoreWritten inv writing may go unlocked
    refine ⟨t, step, left, fun a ha => only.out a ?_, storeWritten_still only reads⟩
    rintro ⟨q, hq, hit⟩
    obtain ⟨p, hp, cell⟩ := List.mem_flatMap.mp hq
    obtain ⟨i, hi, rfl⟩ := mem_movedCells.mp cell
    exact ha p hp i hi hit
  case fault =>
    intro x rest c v recorded rob fault
    constructor
    · intro stopped
      obtain ⟨t, step, fe, mem⟩ := exec_tileFault_draining recorded rob fault stopped
      refine ⟨t, step, ?_⟩
      dsimp only
      rw [fe, ← rob]
      exact ⟨rfl, rfl, rfl, mem, rfl, rfl, rfl, rfl⟩
    · intro running free
      obtain ⟨t, step, park, trap, tval, pc, fe, records, mem⟩ := exec_tileFault_reported recorded rob fault running free
      refine ⟨t, step, park, trap, tval, pc, ?_⟩
      dsimp only
      rw [fe, ← rob]
      exact ⟨rfl, rfl, records, mem, rfl, rfl, rfl, rfl⟩
  case recorded => exact fun c v recorded running fresh free => exec_tileFault_recorded recorded running fresh free
  case chunk =>
    intro x q entry phase fault early shown held unit places
    exact execChunkConditionTimeout_late entry (chunkLate_of phase fault early shown held unit places)
  case box => exact fun x entry unit phase box => ⟨execTmmadBoxTimeout_late entry unit phase box, lateLine_lowest⟩

end Sys2Proof.Machine
end

section
/-! SUPPORT. The value of a plain operand and its checks, and the ways an instruction of a core parks (01 R17, R19, 03 R112). -/

namespace Sys2Proof.Machine

open Sys2Proof

variable {s : State}

/-- A plain register, with its value. -/
structure Slot.Holds (h : Slot) (r : BitVec 5) (x : Word) : Prop where
  plain : h.plain r
  value : h.reg r.toNat = x

theorem readX_holds {r : BitVec 5} {x : Word} (h : s.me.Holds r x) : readX (s.begun 4) r = .ok (s.begun 4, x) := by
  rw [readX_begun h.plain, h.value]

theorem read2_holds {a b : BitVec 5} {x y : Word} (ha : s.me.Holds a x) (hb : s.me.Holds b y) :
    read2 (s.begun 4) a b = .ok (s.begun 4, x, y) := by
  rw [read2_begun ha.plain hb.plain, ha.value, hb.value]

theorem needValue_of {b : Bool} (h : b = true) (r : BitVec 5) : needValue b r = .ok () := need_of h _
theorem needValue_off {b : Bool} (h : b = false) (r : BitVec 5) : needValue b r = .error (.trap cIllegal r.toNat) := by
  rw [needValue, h, need_false]

/-- The low n bits of a field of n bits are those of the word from the field's place on. -/
theorem ofNat_wfld_div (v : Word) (lo n : Nat) {hi : Nat} (h : hi + 1 - lo = n) :
    BitVec.ofNat n (wfld v hi lo) = BitVec.ofNat n (v.toNat / 2 ^ lo) := by
  apply BitVec.eq_of_toNat_eq
  simp [wfld, fld, h]

/-- A field that ends with the word. -/
theorem wfld_top (v : Word) {lo : Nat} (h : lo ≤ 64) : wfld v 63 lo = v.toNat / 2 ^ lo := by
  have low : v.toNat / 2 ^ lo < 2 ^ (64 - lo) :=
    Nat.div_lt_of_lt_mul (by rw [← pow_add, Nat.add_sub_cancel' h]; exact v.isLt)
  rw [wfld, fld, Nat.mod_eq_of_lt low]

theorem wbit_eq_div (v : Word) (k : Nat) : wbit v k = (v.toNat / 2 ^ k % 2 == 1) := by
  rw [wbit, BitVec.getLsbD, Nat.testBit_eq_decide_div_mod_eq]; rfl

theorem w64_put (v k : Nat) : w64 (put v k) = BitVec.ofNat 64 v <<< k := by
  apply BitVec.eq_of_toNat_eq
  simp [w64, put, Nat.shiftLeft_eq, Nat.mul_mod]

section
variable {i : Instr} {ok : Bool} {body : State → Res State} {c a : Nat} {on : Option Nat} (hok : ok = true) (ready : s.ready)
  (hb : body (s.begun 4) = .error (.park c a on))
include hok ready hb

/-- An instruction whose body parks leaves its slot parked at it. -/
theorem issue_park (slot : s.cur.slot ≠ 6) : issue i ok s body = .next (s.modMe fun h =>
    { h with park := BitVec.ofNat 4 c, await := BitVec.ofNat 6 a, waitOn := on, woken := false, resv := none }) := by
  rw [issue_eq hok ready, hb, finish_park (s := s.modMe Slot.unpark) fun _ six => absurd six slot, State.modMe_modMe]
  rfl

/-- The park of the handler slot is ILLEGAL with the park's code (R19). -/
theorem issue_park_handler (core : s.onCore = true) (slot : s.cur.slot = 6) (code : c ≠ 7 ∧ c ≠ 9 ∧ c ≠ 10) :
    issue i ok s body = .next (s.trapped cIllegal c i) := by
  have six : ((s.modMe Slot.unpark).onCore && (s.modMe Slot.unpark).cur.slot == 6 && !(c == 7 || c == 9 || c == 10)) = true := by
    simp [show (s.modMe Slot.unpark).onCore = true from core, slot, code]
  rw [issue_eq hok ready, hb, finish, if_pos six]
  rfl

end

end Sys2Proof.Machine
end

section
/-! SUPPORT. The format prefix, the stream generators and the two steps of a stream (04 R113 to R121). -/

namespace Sys2Proof.Machine

open Sys2Proof

variable {s t : State} {a b d : BitVec 5} {g : BitVec 2}

theorem exec_fmt (p : BitVec 12) (ready : s.ready) (unit : s.onCoreU = true) :
    exec (.fmt p) s = .next ((s.begun 4).modMe fun h => { h with pp := true, pfx := p }) := by
  change execFmt p s = _
  exact issue_ok unit ready rfl

/-! ### The descriptor of SBIND (R116) -/

/-- A descriptor c that binds a generator at address x: a count, an element size and a stride that is a multiple of it. -/
structure StreamBinds (x c : Word) : Prop where
  count : c.toNat / 2 ^ 32 ≠ 0
  zero4 : c.toNat / 2 ^ 4 % 2 ^ 12 = 0
  zero0 : c.toNat % 2 = 0
  base : x.toNat % 2 ^ (c.toNat / 4 % 4) = 0
  stride : c.toNat / 2 ^ 16 % 2 ^ 16 % 2 ^ (c.toNat / 4 % 4) = 0

/-- The generator bound at address x by a descriptor. -/
def StreamGen.boundTo (old : StreamGen) (x c : Word) : StreamGen :=
  { old with count := BitVec.ofNat 32 (c.toNat / 2 ^ 32), stride := BitVec.ofNat 16 (c.toNat / 2 ^ 16), ew := BitVec.ofNat 2 (c.toNat / 4),
             dir := c.toNat / 2 % 2 == 1, bound := true, next := x, ahead := [] }

/-- What a generator held before it is bound matters only where the descriptor says nothing. -/
theorem StreamGen.boundTo_unbind (old : StreamGen) (x c : Word) : old.unbind.boundTo x c = old.boundTo x c := by
  unfold StreamGen.unbind
  split <;> rfl

/-- The fields as SBIND reads them from the descriptor. -/
theorem StreamGen.boundTo_fields (old : StreamGen) (x c : Word) : old.boundTo x c =
    { old.unbind with count := BitVec.ofNat 32 (wfld c 63 32), stride := BitVec.ofNat 16 (wfld c 31 16), ew := BitVec.ofNat 2 (wfld c 3 2),
                      dir := wbit c 1, bound := true, next := x, ahead := [] } := by
  rw [ofNat_wfld_div c 32 32 rfl, ofNat_wfld_div c 16 16 rfl, ofNat_wfld_div c 2 2 rfl, wbit_eq_div, ← boundTo_unbind]
  rfl

theorem sbindBody_binds {x c : Word} (ha : s.me.Holds a x) (hb : s.me.Holds b c) (h : StreamBinds x c) :
    sbindBody g a b (s.begun 4) = .ok ((s.begun 4).modMe fun k => k.setGen g.toNat ((s.me.gen g.toNat).boundTo x c)) := by
  have count : (wfld c 63 32 != 0) = true := by simpa [wfld_top] using h.count
  have zero : (wfld c 15 4 == 0 && wfld c 0 0 == 0) = true := by
    simpa [wfld, fld] using ⟨h.zero4, h.zero0⟩
  have base : x.toNat % 2 ^ wfld c 3 2 = 0 := h.base
  have stride : (wfld c 31 16 % 2 ^ wfld c 3 2 == 0) = true := beq_iff_eq.mpr h.stride
  simp only [sbindBody, read2_holds ha hb, res_bind_ok, needValue_of count, needValue_of zero, needAligned_of base, stride, need_true,
    State.begun_gen, StreamGen.boundTo_fields]

theorem exec_sbind {x c : Word} (ready : s.ready) (core : s.onCore = true) (ha : s.me.Holds a x) (hb : s.me.Holds b c)
    (h : StreamBinds x c) :
    exec (.sbind g a b) s = .next ((s.begun 4).modMe fun k => k.setGen g.toNat ((s.me.gen g.toNat).boundTo x c)) := by
  change execSbind g a b s = _
  exact issue_ok core ready (sbindBody_binds ha hb h)

/-! ### SUNBIND and SGSTAT (R120, R121) -/

theorem exec_sunbind (ready : s.ready) (core : s.onCore = true) :
    exec (.sunbind g) s = .next ((s.begun 4).modMe fun k => k.setGen g.toNat (s.me.gen g.toNat).unbind) := by
  change execSunbind g s = _
  refine issue_ok core ready (congrArg _ (State.modMe_congr ?_))
  rw [State.begun_gen]

theorem exec_sgstat (ready : s.ready) (core : s.onCore = true) (hd : s.me.free d) :
    exec (.sgstat d g) s = .next ((s.begun 4).setX d (if (s.me.gen g.toNat).bound then (s.me.gen g.toNat).next else (s.me.gen g.toNat).last)) := by
  change execSgstat d g s = _
  refine issue_ok core ready ?_
  rw [State.begun_gen, writeX_setX (free_begun hd)]

/-! ### A stream's two steps (R117, R119) -/

/-- The address of the next element to fetch ahead. -/
def StreamGen.fetchAt (f : StreamGen) : Word := f.next + f.stride.signExtend 64 * w64 f.ahead.length

/-- A read stream whose next element may be fetched ahead. -/
structure StreamGen.Fetches (f : StreamGen) : Prop where
  bound : f.bound = true
  read : f.dir = false
  clean : f.ahead.all (fun e => e.fault.isNone) = true
  room : f.ahead.length < 8
  left : f.ahead.length < f.count.toNat

theorem StreamGen.Fetches.goes {f : StreamGen} (h : f.Fetches) : (!f.bound || f.dir || f.ahead.any (fun e => e.fault.isSome)
    || decide (8 ≤ f.ahead.length) || decide (f.count.toNat ≤ f.ahead.length)) = false := by
  have faultless : f.ahead.any (fun e => e.fault.isSome) = false := by simpa using h.clean
  simp [h.bound, h.read, faultless, h.room, h.left]

theorem exec_streamFetch {u k i v : Nat} (f : StreamGen) (hf : (s.hart u k).gen i = f) (h : f.Fetches)
    (free : streamWaits (s.asHart u k) f.fetchAt.toNat (2 ^ f.ew.toNat) = false)
    (load : loadAt (s.asHart u k) f.fetchAt.toNat (2 ^ f.ew.toNat) = .ok (t, v)) :
    exec (.streamFetch u k i) s = .next ((s.back (t.modHart u k fun h => { h with sg := (s.hart u k).sg })).modHart u k fun h =>
      h.setGen i { h.gen i with ahead := (h.gen i).ahead ++
        [{ value := w64 v, fault := none, line := (t.hart u k).wline, pa := streamPa (s.asHart u k) f.fetchAt.toNat (2 ^ f.ew.toNat),
           stale := false }] }) := by
  change execStreamFetch u k i s = _
  subst hf
  simp only [execStreamFetch, h.goes, Bool.false_eq_true, ↓reduceIte]
  rw [← StreamGen.fetchAt, free, load]
  rfl

theorem exec_streamStoreAccept {u k i : Nat} (h : 0 < ((s.hart u k).gen i).unaccepted) :
    exec (.streamStoreAccept u k i) s = .next (s.modHart u k fun x =>
      x.setGen i { (s.hart u k).gen i with unaccepted := ((s.hart u k).gen i).unaccepted - 1 }) := by
  change execStreamStoreAccept u k i s = _
  rw [execStreamStoreAccept, if_neg (Nat.ne_of_gt h)]

end Sys2Proof.Machine
end

section
/-! The stream instructions: O16. -/

namespace Sys2Proof.Machine

open Sys2Proof

/-- Settles O16: each instruction by its own lemma, with SBIND's descriptor as `StreamBinds` and the stream that fetches ahead as
`StreamGen.Fetches`. -/
theorem streamInstructionsComplete : Obligations.StreamInstructionsComplete := by
  unfold Obligations.StreamInstructionsComplete
  intro s t a b d g v u k ready ha hb hd x c old
  refine ⟨fun p unit => exec_fmt p ready unit, ?sbind, fun core => exec_sunbind ready core, fun core => exec_sgstat ready core hd, ?fetch,
    fun i h => exec_streamStoreAccept h⟩
  case sbind =>
    exact fun core count zero4 zero0 base stride => exec_sbind ready core ⟨ha, rfl⟩ ⟨hb, rfl⟩ ⟨count, zero4, zero0, base, stride⟩
  case fetch =>
    exact fun i bound read clean room left free load =>
      exec_streamFetch _ rfl ⟨bound, read, clean, room, left⟩ free load

end Sys2Proof.Machine
end

section
/-! SUPPORT. The queue registers of a slot and their binding to ports (01 R31, 04 R122). -/

namespace Sys2Proof.Machine

open Sys2Proof

variable {s : State} {n : BitVec 3} {a d : BitVec 5}

/-! ### What issue leaves of them -/

@[simp] theorem State.begun_qValid (k m : Nat) : (s.begun k).me.qValid m = s.me.qValid m := by
  rw [Slot.qValid, Slot.qByte, State.begun_qbind]; rfl
@[simp] theorem State.begun_qPort (k m : Nat) : (s.begun k).me.qPort m = s.me.qPort m := by simp [Slot.qPort, Slot.qByte]
@[simp] theorem State.begun_queue (k m : Nat) : (s.begun k).me.queue m = s.me.queue m := by simp [Slot.queue]
@[simp] theorem Slot.setQueue_isBound (h : Slot) (m : Nat) (v : List Word) (r : Nat) : (h.setQueue m v).isBound r = h.isBound r := rfl

/-! ### QBIND -/

/-- Queue m emptied and unpoisoned, with a new byte of hxqbind. -/
def Slot.rebound (h : Slot) (m : Nat) (byte : Word) : Slot :=
  { h.setQueue m [] with
    qbind := (h.qbind &&& ~~~(255#64 <<< (8 * m))) ||| byte <<< (8 * m)
    poison := h.poison.filter fun r => r != 52 + m }

/-- No queue of the slot but m binds port p. -/
def Slot.portFree (h : Slot) (m p : Nat) : Prop := ∀ j, j < 8 → j ≠ m → ¬(h.qValid j = true ∧ h.qPort j = p)

theorem Slot.portFree_iff {h : Slot} {m p : Nat} :
    ((upTo 8).all fun j => j == m || !(h.qValid j && h.qPort j == p)) = true ↔ h.portFree m p := by
  simp only [upTo, List.all_eq_true, List.mem_range, Bool.or_eq_true, beq_iff_eq, Bool.not_eq_true', Bool.and_eq_false_iff,
    beq_eq_false_iff_ne, portFree]
  exact forall₂_congr fun j _ => by rw [or_iff_not_imp_left, not_and_or, Bool.not_eq_true]

theorem qbindBody_unbinds (ha : s.me.Holds a 0) :
    qbindBody n a (s.begun 4) = .ok ((s.begun 4).modMe fun h => h.rebound n.toNat 0) := by
  simp only [qbindBody, readX_holds ha, res_bind_ok, w64_put]
  rfl

section
variable {p : Nat} (hp : p < 128)
include hp

/-- An operand that names port p, VALID set. -/
theorem portWord_fields : wfld (BitVec.ofNat 64 (128 + p)) 63 8 = 0 ∧ wfld (BitVec.ofNat 64 (128 + p)) 6 0 = p
    ∧ wbit (BitVec.ofNat 64 (128 + p)) 7 = true := by
  have val : (BitVec.ofNat 64 (128 + p)).toNat = 128 + p := by rw [BitVec.toNat_ofNat]; omega
  refine ⟨?_, ?_, ?_⟩
  · rw [wfld, fld, val]; omega
  · rw [wfld, fld, val]; omega
  · rw [wbit_eq_div, val, beq_iff_eq]; omega

variable (ha : s.me.Holds a (BitVec.ofNat 64 (128 + p)))
include ha

/-- QBIND of a port goes by whether the slot may bind it, and whether another queue does (Table 4.2). -/
theorem qbindBody_port : qbindBody n a (s.begun 4) = (do
    needValue (portAllowed p s.cur.slot) a
    needValue (p == portLocal || (upTo 8).all fun m => m == n.toNat || !(s.me.qValid m && s.me.qPort m == p)) a
    .ok ((s.begun 4).modMe fun h => h.rebound n.toNat (BitVec.ofNat 64 (128 + p)))) := by
  obtain ⟨high, port, valid⟩ := portWord_fields hp
  simp only [qbindBody, readX_holds ha, res_bind_ok, w64_put, high, port, valid, ↓reduceIte, beq_self_eq_true, needValue_of,
    State.begun_cur, State.begun_qValid, State.begun_qPort, bind_assoc]
  rfl

theorem qbindBody_forbidden (no : portAllowed p s.cur.slot = false) : qbindBody n a (s.begun 4) = .error (.trap cIllegal a.toNat) := by
  rw [qbindBody_port hp ha, needValue_off no, res_bind_error]

variable (allowed : portAllowed p s.cur.slot = true)
include allowed

theorem qbindBody_binds (free : p = portLocal ∨ s.me.portFree n.toNat p) :
    qbindBody n a (s.begun 4) = .ok ((s.begun 4).modMe fun h => h.rebound n.toNat (BitVec.ofNat 64 (128 + p))) := by
  have go : (p == portLocal || (upTo 8).all fun m => m == n.toNat || !(s.me.qValid m && s.me.qPort m == p)) = true := by
    rw [Bool.or_eq_true, beq_iff_eq, Slot.portFree_iff]; exact free
  rw [qbindBody_port hp ha, needValue_of allowed, needValue_of go]
  rfl

theorem qbindBody_taken (engine : p ≠ portLocal) (taken : ¬s.me.portFree n.toNat p) :
    qbindBody n a (s.begun 4) = .error (.trap cIllegal a.toNat) := by
  have stop : (p == portLocal || (upTo 8).all fun m => m == n.toNat || !(s.me.qValid m && s.me.qPort m == p)) = false := by
    rw [Bool.eq_false_iff, Ne, Bool.or_eq_true, beq_iff_eq, Slot.portFree_iff]; exact not_or.mpr ⟨engine, taken⟩
  rw [qbindBody_port hp ha, needValue_of allowed, needValue_off stop]
  rfl

end

/-- The engine ports of Table 4.2, TILE on slot 0 alone. -/
theorem portAllowed_engine {p k : Nat} (h : p = 1 ∧ k = 0 ∨ p = 2 ∨ 8 ≤ p ∧ p ≤ 15) : portAllowed p k = true ∧ p ≠ portLocal := by
  simp [portAllowed, portLocal, portTile, portCompl]; omega

theorem portAllowed_other {p k : Nat} (h : p = 1 ∧ k ≠ 0 ∨ 3 ≤ p ∧ p ≤ 7 ∨ 16 ≤ p) : portAllowed p k = false := by
  simp [portAllowed, portLocal, portTile, portCompl]; omega

/-! ### A bound queue and an unbound one (R31, R123) -/

theorem needQueue_bound (h : s.me.qValid n.toNat = true) : needQueue s n = .ok () := need_of h _
theorem needQueue_unbound (h : ¬s.me.qValid n.toNat = true) : needQueue s n = .error (.trap cQueueUnbound n.toNat) := by
  rw [needQueue, Bool.eq_false_iff.mpr h, need_false]

/-! ### QPUSH -/

section
variable {x : Word} (ha : s.me.Holds a x)
include ha

theorem qpushBody_unbound (h : ¬s.me.qValid n.toNat = true) :
    qpushBody n a (s.begun 4) = .error (.trap cQueueUnbound n.toNat) := by
  rw [← State.begun_qValid (s := s) 4] at h
  simp only [qpushBody, readX_holds ha, res_bind_ok, needQueue_unbound h, res_bind_error]

variable (bound : s.me.qValid n.toNat = true)
include bound

theorem qpushBody_bound : qpushBody n a (s.begun 4) = (do
    need (s.me.qPort n.toNat == portLocal) (.trap cIllegal n.toNat)
    need (decide ((s.me.queue n.toNat).length < 8)) (.park 2 (32 + n.toNat) none)
    .ok ((s.begun 4).modMe fun h => h.setQueue n.toNat (s.me.queue n.toNat ++ [x]))) := by
  rw [← State.begun_qValid (s := s) 4] at bound
  have tail : ((s.begun 4).modMe fun h => h.setQueue n.toNat (h.queue n.toNat ++ [x]))
      = (s.begun 4).modMe fun h => h.setQueue n.toNat (s.me.queue n.toNat ++ [x]) :=
    State.modMe_congr (by rw [State.begun_queue])
  simp only [qpushBody, readX_holds ha, res_bind_ok, needQueue_bound bound, State.begun_qPort, State.begun_queue, tail]

theorem qpushBody_notLocal (port : s.me.qPort n.toNat ≠ portLocal) :
    qpushBody n a (s.begun 4) = .error (.trap cIllegal n.toNat) := by
  rw [qpushBody_bound ha bound, beq_false_of_ne port, need_false, res_bind_error]

variable (port : s.me.qPort n.toNat = portLocal)
include port

theorem qpushBody_full (full : 8 ≤ (s.me.queue n.toNat).length) :
    qpushBody n a (s.begun 4) = .error (.park 2 (32 + n.toNat) none) := by
  rw [qpushBody_bound ha bound, port, decide_eq_false (Nat.not_lt.mpr full)]
  rfl

theorem qpushBody_room (room : (s.me.queue n.toNat).length < 8) : qpushBody n a (s.begun 4) =
    .ok ((s.begun 4).modMe fun h => h.setQueue n.toNat (s.me.queue n.toNat ++ [x])) := by
  rw [qpushBody_bound ha bound, port, decide_eq_true room]
  rfl

end

/-! ### QPOP, QPOLL and QCNT -/

/-- The state once a head has been taken: of a completion, an acquire (R124). -/
def State.headTaken (s : State) (n : Nat) (rest : List Word) : State :=
  (s.modMe fun h => h.setQueue n rest).acquiredIf (s.me.qPort n == portCompl)

theorem takeHead_eq {v : Word} {rest : List Word} (hd : s.me.free d) (clean : s.me.poison.contains (52 + n.toNat) = false)
    (acquire : s.me.qPort n.toNat = portCompl → rdcClean s s.cur.unit = true) :
    takeHead d n v rest s = .ok ((s.headTaken n.toNat rest).setX d v) := by
  have free : (s.headTaken n.toNat rest).me.free d := free_acquiredIf (by simpa [Slot.free] using hd)
  have wait : (if (s.me.qPort n.toNat == portCompl) = true then waitAcquire s 6 else .ok ()) = .ok () := by
    split
    next compl => exact waitAcquire_ok (.inr (acquire (beq_iff_eq.mp compl)))
    next => rfl
  simp only [takeHead, clean, Bool.not_false, need_true, res_bind_ok, wait]
  exact writeX_setX free

theorem qpopBody_unbound (h : ¬s.me.qValid n.toNat = true) : qpopBody d n s = .error (.trap cQueueUnbound n.toNat) := by
  rw [qpopBody, needQueue_unbound h, res_bind_error]
theorem qpollBody_unbound (h : ¬s.me.qValid n.toNat = true) : qpollBody d n s = .error (.trap cQueueUnbound n.toNat) := by
  rw [qpollBody, needQueue_unbound h, res_bind_error]

section
variable (bound : s.me.qValid n.toNat = true)
include bound

theorem qpopBody_empty (empty : s.me.queue n.toNat = []) : qpopBody d n s = .error (.park 1 n.toNat none) := by
  simp only [qpopBody, needQueue_bound bound, res_bind_ok, empty]
theorem qpollBody_empty (empty : s.me.queue n.toNat = []) : qpollBody d n s = .ok s := by
  simp only [qpollBody, needQueue_bound bound, res_bind_ok, empty]

theorem qpopBody_head {v : Word} {rest : List Word} (head : s.me.queue n.toNat = v :: rest) : qpopBody d n s = takeHead d n v rest s := by
  simp only [qpopBody, needQueue_bound bound, res_bind_ok, head]
theorem qpollBody_head {v : Word} {rest : List Word} (head : s.me.queue n.toNat = v :: rest) : qpollBody d n s = takeHead d n v rest s := by
  simp only [qpollBody, needQueue_bound bound, res_bind_ok, head]

end

/-- QPOP and QPOLL of a queue with an entry (R123, R124). -/
theorem exec_qpop_qpoll_head {v : Word} {rest : List Word} (ready : s.ready) (core : s.onCore = true) (hd : s.me.free d)
    (bound : s.me.qValid n.toNat = true) (clean : s.me.poison.contains (52 + n.toNat) = false)
    (acquire : s.me.qPort n.toNat = portCompl → rdcClean s s.cur.unit = true) (head : s.me.queue n.toNat = v :: rest) :
    exec (.qpop d n) s = .next (((s.begun 4).headTaken n.toNat rest).setX d v)
      ∧ exec (.qpoll d n) s = .next (((s.begun 4).headTaken n.toNat rest).setX d v) := by
  have taken : takeHead d n v rest (s.begun 4) = .ok (((s.begun 4).headTaken n.toNat rest).setX d v) :=
    takeHead_eq (free_begun hd) (by rwa [State.begun_poison]) (by simpa using acquire)
  rw [← State.begun_qValid (s := s) 4] at bound
  rw [← State.begun_queue (s := s) 4] at head
  exact ⟨issue_ok core ready ((qpopBody_head bound head).trans taken), issue_ok core ready ((qpollBody_head bound head).trans taken)⟩

/-! ### The delivery of a held value (R124) -/

theorem queueHeld_delivers {u k port m i : Nat} {v : Word} (queue : (s.hart u k).portQueue port = some m)
    (room : ((s.hart u k).queue m).length < 8) (held : findPos (fun p : Nat × Word => p.1 == port) (s.hart u k).held = some i)
    (value : (s.hart u k).held[i]? = some (port, v)) :
    queueHeld s u k port = s.modHart u k fun h =>
      { h.setQueue m ((s.hart u k).queue m ++ [v]) with held := dropAt h.held i, woken := h.woken || h.park == 4 } := by
  simp only [queueHeld, queue, held, room, value, ↓reduceIte]
  exact State.modHart_congr rfl

end Sys2Proof.Machine
end

section
/-! The queue instructions: O17. -/

namespace Sys2Proof.Machine

open Sys2Proof

variable {s : State} {n : BitVec 3} {a d : BitVec 5}

/-- QBIND of port p under the rules of Table 4.2. -/
theorem exec_qbind_port {p : Nat} (ready : s.ready) (core : s.onCore = true) (hp : p < 128)
    (ha : s.me.Holds a (BitVec.ofNat 64 (128 + p))) :
    (portAllowed p s.cur.slot = true → p = portLocal ∨ s.me.portFree n.toNat p →
      exec (.qbind n a) s = .next ((s.begun 4).modMe fun h => h.rebound n.toNat (BitVec.ofNat 64 (128 + p))))
    ∧ (portAllowed p s.cur.slot = true → p ≠ portLocal → ¬s.me.portFree n.toNat p →
      exec (.qbind n a) s = .next (s.trapped cIllegal a.toNat (.qbind n a)))
    ∧ (portAllowed p s.cur.slot = false → exec (.qbind n a) s = .next (s.trapped cIllegal a.toNat (.qbind n a))) := by
  change (_ → _ → execQbind n a s = _) ∧ (_ → _ → _ → execQbind n a s = _) ∧ (_ → execQbind n a s = _)
  exact ⟨fun allowed free => issue_ok core ready (qbindBody_binds hp ha allowed free),
    fun allowed engine taken => issue_trap core ready (qbindBody_taken hp ha allowed engine taken),
    fun no => issue_trap core ready (qbindBody_forbidden hp ha no)⟩

/-- On an unbound queue (R31, R123). -/
theorem exec_queue_unbound (ready : s.ready) (core : s.onCore = true) (ha : s.me.plain a) (h : ¬s.me.qValid n.toNat = true) :
    exec (.qpush n a) s = .next (s.trapped cQueueUnbound n.toNat (.qpush n a))
      ∧ exec (.qpop d n) s = .next (s.trapped cQueueUnbound n.toNat (.qpop d n))
      ∧ exec (.qpoll d n) s = .next (s.trapped cQueueUnbound n.toNat (.qpoll d n))
      ∧ exec (.qcnt d n) s = .next (s.trapped cQueueUnbound n.toNat (.qcnt d n)) := by
  have unbound : ¬(s.begun 4).me.qValid n.toNat = true := by rwa [State.begun_qValid]
  refine ⟨issue_trap core ready (qpushBody_unbound ⟨ha, rfl⟩ h), issue_trap core ready (qpopBody_unbound unbound),
    issue_trap core ready (qpollBody_unbound unbound), ?_⟩
  change execQcnt d n s = _
  refine issue_trap core ready ?_
  rw [needQueue_unbound unbound, res_bind_error]

theorem exec_qcnt (ready : s.ready) (core : s.onCore = true) (hd : s.me.free d) (bound : s.me.qValid n.toNat = true) :
    exec (.qcnt d n) s = .next ((s.begun 4).setX d (w64 (s.me.queue n.toNat).length)) := by
  change execQcnt d n s = _
  refine issue_ok core ready ?_
  rw [needQueue_bound (by rwa [State.begun_qValid]), res_bind_ok, State.begun_queue, writeX_setX (free_begun hd)]

/-- Settles O17: QBIND by the port that its operand names, the other instructions by the state of their queue. -/
theorem queueInstructionsComplete : Obligations.QueueInstructionsComplete := by
  unfold Obligations.QueueInstructionsComplete
  intro s n a d ready ha hd core x q bound clean
  have begunBound (h : bound) : (s.begun 4).me.qValid n.toNat = true := by rwa [State.begun_qValid]
  have begunEmpty (h : q = []) : (s.begun 4).me.queue n.toNat = [] := by rwa [State.begun_queue]
  have awaits : BitVec.ofNat 6 n.toNat = n.setWidth 6 := BitVec.ofNat_toNat ..
  have engine {p : Nat} (hp : p = 1 ∧ s.cur.slot = 0 ∨ p = 2 ∨ 8 ≤ p ∧ p ≤ 15) : p < 128 := by omega
  refine ⟨?unbind, ?bindLocal, ?port, ?forbidden, ?push, ?pop, ?acquire, ?poll, ?notLocal, ?full, ?empty, ?count, ?unbound, ?held⟩
  case unbind =>
    intro hx
    refine (issue_ok core ready (qbindBody_unbinds ⟨ha, hx⟩) : execQbind n a s = _).trans ?_
    simp [Slot.rebound]
  case bindLocal =>
    intro hx
    exact (exec_qbind_port ready core (p := 0) (by decide) ⟨ha, hx⟩).1 rfl (.inl rfl)
  case port =>
    intro p hp hx
    obtain ⟨allowed, notLocal⟩ := portAllowed_engine hp
    obtain ⟨binds, taken, -⟩ := exec_qbind_port (n := n) ready core (engine hp) ⟨ha, hx⟩
    rw [show x = _ from hx]
    exact ⟨fun free => binds allowed (.inr free),
      fun m hm other valid port => taken allowed notLocal fun free => free m hm other ⟨valid, port⟩⟩
  case forbidden => exact fun p hp hx no => (exec_qbind_port ready core hp ⟨ha, hx⟩).2.2 (portAllowed_other (by omega))
  case push => exact fun hb port room => issue_ok core ready (qpushBody_room ⟨ha, rfl⟩ hb port room)
  case pop =>
    intro v rest hb hc port head
    have done := exec_qpop_qpoll_head ready core hd hb hc (fun h => absurd h port) head
    rwa [State.headTaken, State.begun_qPort, beq_false_of_ne port] at done
  case acquire =>
    intro v rest hb hc port drained head
    have done := exec_qpop_qpoll_head ready core hd hb hc (fun _ => drained) head
    rwa [State.headTaken, State.begun_qPort, port] at done
  case poll => exact fun hb empty => issue_ok core ready (qpollBody_empty (begunBound hb) (begunEmpty empty))
  case notLocal => exact fun hb port => issue_trap core ready (qpushBody_notLocal ⟨ha, rfl⟩ hb port)
  case full =>
    intro hb port full
    have park := qpushBody_full ⟨ha, rfl⟩ hb port full
    exact ⟨issue_park core ready park, fun six => issue_park_handler core ready park core six (by decide)⟩
  case empty =>
    intro hb empty
    have park := qpopBody_empty (d := d) (begunBound hb) (begunEmpty empty)
    exact ⟨fun slot => awaits ▸ issue_park core ready park slot, fun six => issue_park_handler core ready park core six (by decide)⟩
  case count => exact fun hb => exec_qcnt ready core hd hb
  case unbound => exact fun h => exec_queue_unbound ready core ha h
  case held => exact fun u k port m i v queue room held value => congrArg _ (queueHeld_delivers queue room held value)

end Sys2Proof.Machine
end

section
/-! SUPPORT. One restartable step of a block instruction (04 R126, R127). -/

namespace Sys2Proof.Machine

open Sys2Proof

variable {s t r : State} {d a b : BitVec 5} {v : Nat}

theorem State.setX_setX (d a : BitVec 5) (x y : Word) :
    (s.setX d x).setX a y = s.modMe fun h => (h.setReg d.toNat x).setReg a.toNat y := State.modMe_modMe ..

/-- No register of a block instruction is bound, no two are the same, and those that it writes are not x0 (R126). -/
structure BlockFields (s : State) (written all : List (BitVec 5)) : Prop where
  written : ∀ r ∈ written, r ≠ 0
  apart : all.Nodup
  unbound : ∀ r ∈ all, s.me.free r

theorem needBlockFields_ok {written all : List (BitVec 5)} (h : BlockFields s written all) :
    needBlockFields (s.begun 4) written all = .ok () := by
  have nonzero : written.all (fun r => r != 0) = true := by simpa using h.written
  have unbound : all.all (fun r => !(s.begun 4).me.isBound r.toNat) = true := by simpa using h.unbound
  exact need_of (by rw [nonzero, decide_eq_true h.apart, unbound]; rfl) _

theorem fillStep_ok {xd xa : Word} {pattern size : Nat} {q : State} {n : Nat} (hn : n = min xa.toNat (256 - xd.toNat % 256))
    (store : storeAcc q xd.toNat n (repeated pattern size (n / size)) .store false true = .ok r) :
    fillStep d a xd xa pattern size q = .ok (blockNext ((r.setX d (xd + w64 n)).setX a (xa - w64 n)) (xa.toNat - n)) := by
  subst hn
  simp only [fillStep, store, res_bind_ok, State.setX_setX]

section
variable (ready : s.ready) (core : s.onCore = true) {xd xa xb : Word} (hd : s.me.Holds d xd) (ha : s.me.Holds a xa) (hb : s.me.Holds b xb)
include ready core hd ha hb

/-! ### BMOVE -/

section
variable (fields : BlockFields s [d, a, b] [d, a, b])
include fields

theorem exec_bmove_done (done : xb = 0) : exec (.bmove d a b) s = .next (s.begun 4) := by
  change execBmove d a b s = _
  refine issue_ok core ready ?_
  have zero : xb.toNat = 0 := congrArg BitVec.toNat done
  simp only [bmoveBody, needBlockFields_ok fields, readX_holds hd, readX_holds ha, readX_holds hb, res_bind_ok, if_pos zero]

variable (left : xb ≠ 0)
include left

/-- A copy whose destination does not start inside its source goes up. -/
theorem exec_bmove_up {n : Nat} (apart : ¬(xa.toNat < xd.toNat ∧ xd.toNat < xa.toNat + xb.toNat))
    (hn : n = min xb.toNat (256 - xd.toNat % 256))
    (load : loadSpan (s.begun 4) xa.toNat n true = .ok (t, v))
    (store : storeAcc t xd.toNat n v .store false true = .ok r) :
    exec (.bmove d a b) s = .next (blockNext (((r.setX d (xd + w64 n)).setX a (xa + w64 n)).setX b (xb - w64 n)) (xb.toNat - n)) := by
  change execBmove d a b s = _
  refine issue_ok core ready ?_
  have nonzero : ¬xb.toNat = 0 := fun h => left (BitVec.eq_of_toNat_eq h)
  subst hn
  simp only [bmoveBody, needBlockFields_ok fields, readX_holds hd, readX_holds ha, readX_holds hb, res_bind_ok, if_neg nonzero, if_neg apart,
    load, store, State.setX_setX]
  rw [State.setX, State.modMe_modMe]

/-- A copy whose destination starts inside its source goes down from the end. -/
theorem exec_bmove_down {n e : Nat} (inside : xa.toNat < xd.toNat ∧ xd.toNat < xa.toNat + xb.toNat)
    (he : e = xd.toNat + xb.toNat) (hn : n = min xb.toNat (e - 256 * ((e - 1) / 256)))
    (load : loadSpan (s.begun 4) (xa.toNat + (e - n - xd.toNat)) n true = .ok (t, v))
    (store : storeAcc t (e - n) n v .store false true = .ok r) :
    exec (.bmove d a b) s = .next (blockNext (r.setX b (xb - w64 n)) (xb.toNat - n)) := by
  change execBmove d a b s = _
  refine issue_ok core ready ?_
  have nonzero : ¬xb.toNat = 0 := fun h => left (BitVec.eq_of_toNat_eq h)
  subst hn he
  simp only [bmoveBody, needBlockFields_ok fields, readX_holds hd, readX_holds ha, readX_holds hb, res_bind_ok, if_neg nonzero, if_pos inside,
    load, store]
  rfl

end

/-! ### The fills -/

variable (fields : BlockFields s [d, a] [d, a, b])
include fields

theorem exec_fills_done (done : xa = 0) :
    exec (.bfillw d a b) s = .next (s.begun 4) ∧ exec (.repb d a b) s = .next (s.begun 4) := by
  change execBfillw d a b s = _ ∧ execRepb d a b s = _
  constructor
  · refine issue_ok core ready ?_
    simp only [bfillwBody, needBlockFields_ok fields, readX_holds hd, readX_holds ha, readX_holds hb, res_bind_ok, done, ↓reduceIte]
  · refine issue_ok core ready ?_
    simp only [repbBody, needBlockFields_ok fields, readX_holds hd, readX_holds ha, readX_holds hb, res_bind_ok, done, ↓reduceIte]

variable (left : xa ≠ 0) {n : Nat} (hn : n = min xa.toNat (256 - xd.toNat % 256))
include left hn

theorem exec_bfillw (dst : xd.toNat % 8 = 0) (len : xa.toNat % 8 = 0)
    (store : storeAcc (s.begun 4) xd.toNat n (repeated xb.toNat 8 (n / 8)) .store false true = .ok r) :
    exec (.bfillw d a b) s = .next (blockNext ((r.setX d (xd + w64 n)).setX a (xa - w64 n)) (xa.toNat - n)) := by
  change execBfillw d a b s = _
  refine issue_ok core ready ?_
  simp only [bfillwBody, needBlockFields_ok fields, readX_holds hd, readX_holds ha, readX_holds hb, res_bind_ok, if_neg left,
    needAligned_of dst, needValue_of (beq_iff_eq.mpr len)]
  exact fillStep_ok hn store

theorem exec_repb
    (store : storeAcc (s.begun 4) xd.toNat n (repeated (xb.toNat % 256) 1 n) .store false true = .ok r) :
    exec (.repb d a b) s = .next (blockNext ((r.setX d (xd + w64 n)).setX a (xa - w64 n)) (xa.toNat - n)) := by
  change execRepb d a b s = _
  refine issue_ok core ready ?_
  simp only [repbBody, needBlockFields_ok fields, readX_holds hd, readX_holds ha, readX_holds hb, res_bind_ok, if_neg left]
  exact fillStep_ok hn (by rwa [Nat.div_one])

end

end Sys2Proof.Machine
end

section
/-! SUPPORT. Locks of the instruction cache, and the cache hint PREF (04 R129 to R131, R134). -/

namespace Sys2Proof.Machine

open Sys2Proof

variable {s t : State} {d a b : BitVec 5}

/-! ### The lines of a span -/

theorem mem_spanLines {xa n l : Nat} : l ∈ spanLines xa n ↔ ∃ i, i < n ∧ l = (xa + i) / 256 := by
  unfold spanLines
  split
  next empty => simp [empty]
  next =>
    simp only [upTo, List.mem_map, List.mem_range]
    constructor
    · rintro ⟨j, hj, rfl⟩
      exact ⟨256 * (j + xa / 256) - xa, by omega, by omega⟩
    · rintro ⟨i, hi, rfl⟩
      exact ⟨(xa + i) / 256 - xa / 256, by omega, by omega⟩

/-- A fold whose every step adds one element to a list, with its argument as the key. -/
theorem foldlM_keys {α β σ : Type} {f : σ × List β → α → Res (σ × List β)} {key : β → α}
    (hf : ∀ st l st', f st l = .ok st' → st'.2.map key = st.2.map key ++ [l]) {ls : List α} {st st' : σ × List β}
    (h : ls.foldlM f st = .ok st') : st'.2.map key = st.2.map key ++ ls := by
  induction ls generalizing st with
  | nil =>
    cases h
    rw [List.append_nil]
  | cons l ls ih =>
    rw [List.foldlM_cons] at h
    obtain ⟨mid, first, rest⟩ := res_bind_eq_ok h
    rw [ih rest, hf _ _ _ first, List.append_assoc, List.singleton_append]

/-- The places are those of the lines, in order. -/
theorem lockPlaces_lines {xa : Nat} {ls : List Nat} {ps : List (Nat × Nat × Bool)} (h : lockPlaces s xa ls = .ok (t, ps)) :
    ps.map (fun p => p.1) = ls := by
  refine foldlM_keys (st := (s, [])) (st' := (t, ps)) (fun st l st' step => ?_) h
  obtain ⟨⟨q, pa, n⟩, -, found⟩ := res_bind_eq_ok step
  cases found
  exact List.map_append

/-! ### One line -/

/-- Line l of unit u's instruction cache is locked. -/
def lineLocked (s : State) (u l : Nat) : Bool := (s.unit u).icache.any fun y => y.locked && y.line == l

/-- The lines that are locked or that a restored context has yet to lock, but for line l among the latter. -/
def icLocks (x : UnitSt) (l : Nat) : List Nat := (x.icache.filter fun y => y.locked).map (fun y => y.line) ++ x.relock.filter fun y => y != l

/-- No lock is to spare for line l: 2 ways of its set, or 128 lines, are locked (R130). -/
def locksFull (x : UnitSt) (l : Nat) : Prop :=
  2 ≤ ((icLocks x l).filter fun y => y % 64 == l % 64).length ∨ 128 ≤ (icLocks x l).length

section
variable {l pa : Nat} {bypass : Bool}

theorem lockLine_locked (h : lineLocked s s.cur.unit l = true) : lockLine s l pa bypass = s := if_pos h

theorem lockLine_full (h : lineLocked s s.cur.unit l = false) (full : locksFull s.mine l) : lockLine s l pa bypass = s := by
  have stop : (decide (2 ≤ ((icLocks s.mine l).filter fun y => y % 64 == l % 64).length)
      || decide (128 ≤ (icLocks s.mine l).length)) = true := by simpa [locksFull] using full
  exact (if_neg (Bool.eq_false_iff.mp h)).trans (if_pos stop)

theorem lineLocked_of_mem {u : Nat} {y : ICLine} (h : y ∈ (s.unit u).icache) (locked : y.locked = true) (line : y.line = l) :
    lineLocked s u l = true := List.any_eq_true.mpr ⟨y, h, by simp [locked, line]⟩

/-- A line filled with a lock is there, locked. -/
theorem lineLocked_icFill {u va : Nat} {nc : Bool} : lineLocked (icFill s u va pa true nc) u (va / 256) = true := by
  rcases code : codeLine s u (lineOf pa) nc with ⟨q, data, bad⟩
  simp [lineLocked, icFill, code, icInsert]

/-- Any other line is locked: where it stands, or by its fill. -/
theorem lockLine_locks (h : lineLocked s s.cur.unit l = false) (room : ¬locksFull s.mine l) :
    lineLocked (lockLine s l pa bypass) s.cur.unit l = true := by
  have go : ¬(decide (2 ≤ ((icLocks s.mine l).filter fun y => y % 64 == l % 64).length)
      || decide (128 ≤ (icLocks s.mine l).length)) = true := by simpa [locksFull] using room
  have eq : lockLine s l pa bypass = if (icFind s.mine l).isSome then
      s.modMine fun x => { x with icache := x.icache.map fun y => if y.line = l ∧ y.job = x.job then { y with locked := true } else y }
    else icFill s s.cur.unit (256 * l) pa true bypass := (if_neg (Bool.eq_false_iff.mp h)).trans (if_neg go)
  rw [eq]
  split
  next found =>
    obtain ⟨y, hy⟩ := Option.isSome_iff_exists.mp found
    have hit := List.find?_some hy
    simp only [Bool.and_eq_true, beq_iff_eq] at hit
    refine lineLocked_of_mem (y := { y with locked := true }) ?_ rfl hit.1
    rw [State.modMine, State.unit_modUnit_same]
    exact List.mem_map.mpr ⟨y, List.mem_of_find?_eq_some hy, if_pos hit⟩
  next =>
    have filled := lineLocked_icFill (s := s) (pa := pa) (u := s.cur.unit) (va := 256 * l) (nc := bypass)
    rwa [Nat.mul_div_cancel_left l (by decide)] at filled

end

/-! ### ICLOCK, ICUNLK and PREF -/

theorem needRequest_ok {hit : Bool} (h : requestOk s hit) : needRequest s hit = .ok () := by
  refine need_of ?_ _
  by_cases core : isCore s.cur.unit = true
  · rcases h core with h | h <;> simp [h]
  · simp [core]

section
variable (ready : s.ready) (core : s.onCore = true) {xa xb : Word} (ha : s.me.Holds a xa)
  (hb : s.me.Holds b xb) (short : xb.toNat ≤ 0x8000)
include ready core ha hb short

theorem exec_iclock {ps : List (Nat × Nat × Bool)}
    (places : lockPlaces (s.begun 4) xa.toNat (spanLines xa.toNat xb.toNat) = .ok (t, ps))
    (request : requestOk t (ps.all fun p => (icFind t.mine p.1).isSome)) (hd : (lockLines t ps).me.free d) :
    exec (.iclock d a b) s = .next ((lockLines t ps).setX d (w64 ((spanLines xa.toNat xb.toNat).filter
      fun l => (lockLines t ps).mine.icache.any fun y => y.locked && y.line == l).length)) := by
  change execIclock d a b s = _
  refine issue_ok core ready ?_
  simp only [iclockBody, read2_holds ha hb, res_bind_ok, needValue_of (decide_eq_true short), places, needRequest_ok request]
  exact writeX_setX hd

theorem exec_icunlk : exec (.icunlk a b) s = .next ((s.begun 4).modMine fun x =>
    { x with relock := x.relock.filter fun l => decide (l ∉ spanLines xa.toNat xb.toNat)
             icache := x.icache.map fun l => if l.line ∈ spanLines xa.toNat xb.toNat then { l with locked := false } else l }) := by
  change execIcunlk a b s = _
  refine issue_ok core ready ?_
  simp only [icunlkBody, read2_holds ha hb, res_bind_ok, needValue_of (decide_eq_true short), List.contains_eq_mem, decide_eq_true_eq,
    decide_not]

end

theorem exec_pref (ready : s.ready) (core : s.onCore = true) (ha : s.me.plain a) (i : BitVec 12) :
    exec (.pref a i) s = .next (prefetch (s.begun 4) (s.me.reg a.toNat + simm i).toNat) := by
  have unit : s.onCoreUC = true := by simp [State.onCoreUC, State.onCoreU, show isCore s.cur.unit = true from core]
  change execPref a i s = _
  refine issue_ok unit ready ?_
  simp only [readAddr_begun ha, res_bind_ok]

end Sys2Proof.Machine
end

section
/-! The block instructions and the locks of the instruction cache: O18. -/

namespace Sys2Proof.Machine

open Sys2Proof

/-- Settles O18: each instruction by its own lemma, a line's lock by `lockLine_locked`, `lockLine_full` and `lockLine_locks`. -/
theorem blockInstructionsComplete : Obligations.BlockInstructionsComplete := by
  unfold Obligations.BlockInstructionsComplete
  intro s t r d a b v ready core hd ha hb d0 a0 da db ab xd xa xb
  have rd : s.me.Holds d xd := ⟨hd, rfl⟩
  have ra : s.me.Holds a xa := ⟨ha, rfl⟩
  have rb : s.me.Holds b xb := ⟨hb, rfl⟩
  have apart : [d, a, b].Nodup := by simp [da, db, ab]
  have unbound : ∀ r ∈ [d, a, b], s.me.free r := by simpa using ⟨hd.1, ha.1, hb.1⟩
  have moves (b0 : b ≠ 0) : BlockFields s [d, a, b] [d, a, b] := ⟨by simpa using ⟨d0, a0, b0⟩, apart, unbound⟩
  have fills : BlockFields s [d, a] [d, a, b] := ⟨by simpa using ⟨d0, a0⟩, apart, unbound⟩
  refine ⟨fun b0 => exec_bmove_done ready core rd ra rb (moves b0), exec_fills_done ready core rd ra rb fills, ?up, ?down, ?bfillw, ?repb,
    ?noLines, ?iclock, ?icunlk, fun i => exec_pref ready core ha i, fun xa n l => mem_spanLines, fun s t xa ls ps => lockPlaces_lines, ?line⟩
  case up => exact fun b0 left across load store => exec_bmove_up ready core rd ra rb (moves b0) left across rfl load store
  case down =>
    intro b0 inside e n load store
    have left : xb ≠ 0 := fun h => by
      have : xb.toNat = 0 := congrArg BitVec.toNat h
      omega
    exact exec_bmove_down ready core rd ra rb (moves b0) left inside rfl rfl load store
  case bfillw => exact fun left dst len store => exec_bfillw ready core rd ra rb fills left rfl dst len store
  case repb => exact fun left store => exec_repb ready core rd ra rb fills left rfl store
  case noLines =>
    intro zero
    have empty : spanLines xa.toNat xb.toNat = [] := by rw [zero]; rfl
    have step := exec_iclock (d := d) (t := s.begun 4) (ps := []) ready core ra rb (by rw [zero]; decide)
      (by rw [empty]; rfl) (fun _ => .inl rfl) (free_begun hd.1)
    rwa [empty] at step
  case iclock => exact fun ps short places request free => exec_iclock ready core ra rb short places request free
  case icunlk => exact fun short => exec_icunlk ready core ra rb short
  case line => exact fun s l pa bypass => ⟨lockLine_locked, lockLine_full, lockLine_locks⟩

end Sys2Proof.Machine
end

section
/-! SUPPORT. A vector instruction of an update core runs where it issues (05 R165, 17 R405). -/

namespace Sys2Proof.Machine

open Sys2Proof

variable {s t : State} {i : Instr} {g : VKind} {o : VOp} {f : Nat × Nat × Nat}

/-! ### The state on which the unit's part of it runs -/

/-- The state after what a hand-off does: the generator states claimed, the prefix used. -/
def State.vStart (s : State) (g : VKind) (o : VOp) : State := (vClaim g o (s.begun 4)).noPrefix

/-- The slot of a vector instruction that has issued, past it and with its prefix used. -/
def Slot.vStarted (h : Slot) : Slot :=
  { h with park := 0, await := 0, waitOn := none, pc := h.pc + w64 4, instret := h.instret + 1,
           resv := h.resv.map fun r => { r with age := r.age + 1 }, pp := false, pfx := 0 }

theorem State.vStart_cur : (s.vStart g o).cur = s.cur := vClaim_harts.2.1

theorem State.vStart_me : (s.vStart g o).me = s.me.vStarted := by
  obtain ⟨harts, cur, -, -⟩ := vClaim_harts (g := g) (o := o) (s := s.begun 4)
  rw [State.vStart, State.noPrefix, State.me_modMe, State.me, State.hart, harts, cur, ← State.hart, ← State.me, State.begun_me,
    Slot.vStarted]

theorem vStart_free {r : BitVec 5} (h : s.me.free r) : (s.vStart g o).me.free r := by
  rw [State.vStart_me]
  exact h

/-! ### The registers that it reads -/

theorem reads_subset (n : Nat) (act : List Nat) : g.reads n act ⊆ g.sources := by
  have part : (if n = 0 then [] else if act = [] then g.sources.filter (fun r => decide (48 ≤ r)) else g.sources) ⊆ g.sources := by
    split
    · exact List.nil_subset _
    · split
      · exact List.filter_subset_self _
      · exact List.Subset.refl _
  cases g with
  | mem | lut | stamped => exact part
  | _ => exact List.Subset.refl _

/-- Sources that hold no poison do not stop a form (20 R457). -/
theorem find_poison_none {h : Slot} (clean : ∀ z ∈ g.sources, h.poison.contains z = false) (n : Nat) (act : List Nat) :
    (g.reads n act).find? (fun r => h.poison.contains r) = none := by
  rw [List.find?_eq_none]
  intro z hz
  rw [clean z (reads_subset n act hz)]
  exact Bool.false_ne_true

/-! ### It runs -/

section
variable {d a b : BitVec 4} {x y r : BitVec 5} {k l n : BitVec 2} {p : Pred} {mk : VMask}

theorem exec_vector_ucore (ucore : s.onUcore = true) (px : s.me.plain x) (py : s.me.plain y)
    (form : (i, g) ∈ vectorForms d a b x y r k l n p mk) (ready : s.ready ∨ takesFormats g = true)
    (check : vCheck g (handedOver i g (s.begun 4)) = some f)
    (run : vRun g (handedOver i g (s.begun 4)) f (s.vStart g (handedOver i g (s.begun 4))) = .ok t) : exec i s = .next t := by
  obtain ⟨x1, x2⟩ := xRegs_vectorForm form
  have p1 : ∀ q, g.xRegs.1 = some q → (s.begun 4).me.plain q := fun q e => by
    rcases x1 with n | n <;> rw [n] at e <;> cases e
    exact plain_begun px
  have p2 : ∀ q, g.xRegs.2 = some q → (s.begun 4).me.plain q := fun q e => by
    rcases x2 with n | n <;> rw [n] at e <;> cases e
    exact plain_begun py
  have unit : isUcore s.cur.unit = true := ucore
  have here : vRunHere i g (handedOver i g (s.begun 4)) s (s.begun 4) = .ok t := by
    rw [State.vStart, State.noPrefix] at run
    simp only [vRunHere, check, run]
  rw [exec_vectorForm form, vIssue, issueN_eq (by simp [State.onCoreU, unit]) ready, vCapture_plain p1 p2]
  simp only [res_bind_ok, State.begun_cur, unit, ↓reduceIte, ← handedOver_eq, here, finish_ok]

/-- The forms that write an x-register write r. -/
theorem xDest_vectorForm (form : (i, g) ∈ vectorForms d a b x y r k l n p mk) :
    (∀ z q, g = .mvvx z q → z = r) ∧ (∀ z q, g = .mpop z q → z = r) := by
  suffices all : ∀ w ∈ vectorForms d a b x y r k l n p mk, (∀ z q, w.2 = .mvvx z q → z = r) ∧ (∀ z q, w.2 = .mpop z q → z = r)
    from all _ form
  simp +contextual [vectorForms, vectorArithForms, vectorBitForms, vectorShiftForms]

end

theorem sInt_toInt (v : Word) : sInt 64 v.toNat = v.toInt := by
  have := v.isLt
  simp only [sInt, BitVec.toInt]
  omega

end Sys2Proof.Machine
end

section
/-! The vector forms that compute: O39. -/

namespace Sys2Proof.Machine

open Sys2Proof

/-- Settles O39: with no source poisoned each form runs to its case of `vRun`, on a slot whose vector registers are those before it. -/
theorem vectorComputeCompletes : Obligations.VectorComputeCompletes := by
  unfold Obligations.VectorComputeCompletes
  intro s d a b x y r k l n p mk i g f ucore px py free form ready o check clean t h c el
  have run {u : State} (e : vRun g o f (s.vStart g o) = .ok u) : exec i s = .next u := exec_vector_ucore ucore px py form ready check e
  have sound := find_poison_none (h := s.me.vStarted) clean
  have write {z : BitVec 5} (v : Word) (e : z = r) : writeX (s.vStart g o) z v = .ok ((s.vStart g o).setX z v) :=
    writeX_setX (vStart_free (e ▸ free))
  obtain ⟨toMvvx, toMpop⟩ := xDest_vectorForm form
  refine ⟨?arith, ?cmp, ?sel, ?bit, ?shift, ?shiftX, ?cvt, ?qnt, ?sum, ?max, ?min, ?slide, ?slideX, ?perm, ?bcst, ?mvxv, ?mvvx, ?mask,
    ?mnot, ?mpop⟩
  all_goals
    intros
    rename_i shape
    subst shape
    apply run
    simp only [vRun, State.vStart_me, State.vStart_cur, sound, res_bind_ok]
  case arith op _ _ _ _ => cases op <;> rfl
  case slideX => rw [sInt_toInt]; rfl
  case mvvx => exact write _ (toMvvx _ _ rfl)
  case mpop => exact write _ (toMpop _ _ rfl)
  all_goals rfl

end Sys2Proof.Machine
end

section
/-! SUPPORT. The addresses and the values of a vector instruction that accesses memory (05 R144, R159). -/

namespace Sys2Proof.Machine

open Sys2Proof

variable {g : VKind} {c : VCtx} {h : Slot} {o : VOp} {f : Nat × Nat × Nat} {u : Nat}

/-! ### A slot past its instruction has the vector registers that it had -/

theorem vCtx_vStarted : vCtx u h.vStarted g o f = vCtx u h g o f := rfl
theorem vAddrs_vStarted : vAddrs g c h.vStarted o = vAddrs g c h o := rfl

/-! ### Bytes of an element -/

theorem vAddrs_mem {store : Bool} {r : BitVec 4} {a : BitVec 5} {j : VIdx} {mk : VMask} :
    (vAddrs (.mem store r a j mk) c h o).2 = c.w / 8 := by cases j <;> rfl

/-- The stored values are the elements, since an element width is a number of whole bytes. -/
theorem storeVals_vCtx {r : BitVec 4} {xs : List (Nat × Nat)} :
    storeVals h r ((vCtx u h g o f).w / 8) xs = xs.map fun z => (getElem h r.toNat (vCtx u h g o f).w z.1, z.2) := by
  have bytes : 8 * ((vCtx u h g o f).w / 8) = (vCtx u h g o f).w := Nat.mul_div_cancel' (Nat.dvd_mul_right ..)
  rw [storeVals, bytes]

theorem res_bind_of_ok {α β : Type} {v : Res α} {w : α} {k : α → Res β} (h : v = .ok w) : (v >>= k) = k w := by rw [h, res_bind_ok]

end Sys2Proof.Machine
end

section
/-! The vector forms that access memory: O40. -/

namespace Sys2Proof.Machine

open Sys2Proof

/-- Settles O40: the accesses are those of the form's case of `vRun`, at the addresses and with the values of the slot before it. -/
theorem vectorMemoryCompletes : Obligations.VectorMemoryCompletes := by
  unfold Obligations.VectorMemoryCompletes
  intro s u d a b x y r k l n p mk i g f ys future ready ucore px py form o check clean t c xs own
  have run {u : State} (e : vRun g o f (s.vStart g o) = .ok u) : exec i s = .next u :=
    exec_vector_ucore ucore px py form (.inl ready) check e
  have sound := find_poison_none (h := s.me.vStarted) clean
  refine ⟨?load, ?store, ?lut, ?stampedLoad, ?stampedStore, ?stampedAdd⟩
  case' load => rintro d a j mk rfl loads
  case' store => rintro q a j mk rfl stores
  case' lut => rintro d a j mk rfl aligned loads
  case' stampedLoad => rintro d a mk rfl loads
  case' stampedStore => rintro q a mk rfl stores
  case' stampedAdd => rintro q a mk rfl adds
  all_goals
    apply run
    simp only [vRun, State.vStart_me, State.vStart_cur, sound, res_bind_ok, vAddrs_mem, vAddrs_vStarted, vCtx_vStarted]
  case load => exact (res_bind_of_ok loads).trans rfl
  case store => exact (congrArg _ storeVals_vCtx).trans stores
  case lut =>
    rw [need_of (Bool.or_eq_true_iff.mpr (.inr (beq_iff_eq.mpr aligned))), res_bind_ok]
    exact (res_bind_of_ok loads).trans rfl
  case stampedLoad => exact (res_bind_of_ok loads).trans rfl
  case stampedStore => exact stores
  case stampedAdd => exact adds

end Sys2Proof.Machine
end

section
/-! SUPPORT. Entry into the vector unit, completion in it (01 R49, 05 R142, R163), and VLGR (05 R138). -/

namespace Sys2Proof.Machine

open Sys2Proof

variable {s t : State} {q j : Nat} {o : VOp} {k : VKind} {f : Nat × Nat × Nat}

/-! ### Entry -/

section
variable {rest : List VOp} (kind : vkind o.i = some k) (first : (s.quad q).vwait = o :: rest) (room : (s.quad q).vunit.length < 4)
include kind first room

theorem exec_vectorUnitEnter_legal (check : vCheck k o = some f) :
    exec (.vectorUnitEnter q) s = .next (s.modQuad q fun x => { x with vwait := rest, vunit := x.vunit ++ [o] }) := by
  change execVectorUnitEnter q s = _
  simp only [execVectorUnitEnter, first, if_neg (Nat.not_le.mpr room), kind, check]

/-- An instruction that the unit's check rejects leaves the queue and traps; what its hand-off popped is back (log entry 26). -/
theorem exec_vectorUnitEnter_illegal (check : vCheck k o = none) :
    let leave := o.putBack (o.leave (s.modQuad q fun x => { x with vwait := rest }))
    exec (.vectorUnitEnter q) s = .next (s.back (if removing s (s.unit o.agent.unit).job = true
      then discardedTrap leave cIllegal (instrWord o.i) else takeTrap leave cIllegal (instrWord o.i) (instrWord o.i))) := by
  change execVectorUnitEnter q s = _
  simp only [execVectorUnitEnter, first, if_neg (Nat.not_le.mpr room), kind, check]
  split <;> rfl

end

/-! ### Completion -/

/-- The state once instruction j has left the unit of quad q, with its slot at it again. -/
def State.vLeft (s : State) (q j : Nat) (o : VOp) : State := o.leave (s.modQuad q fun x => { x with vunit := dropAt x.vunit j })

/-- The state on which the unit runs it. -/
def State.vRunning (s : State) (q j : Nat) (o : VOp) : State := ((s.vLeft q j o).advance 4).noPrefix

section
variable (kind : vkind o.i = some k) (here : (s.quad q).vunit[j]? = some o) (check : vCheck k o = some f)
include kind here check

theorem exec_vectorComplete_ok (run : vRun k o f (s.vRunning q j o) = .ok t) : exec (.vectorComplete q j) s = .next (s.back t) := by
  rw [State.vRunning, State.noPrefix, State.vLeft] at run
  change execVectorComplete q j s = _
  simp only [execVectorComplete, here, kind, check, run]
  rfl

theorem exec_vectorComplete_hold {p : Option Pipe} (run : vRun k o f (s.vRunning q j o) = .error (.hold p)) :
    exec (.vectorComplete q j) s = .next s := by
  rw [State.vRunning, State.noPrefix, State.vLeft] at run
  change execVectorComplete q j s = _
  simp only [execVectorComplete, here, kind, check, run]

theorem exec_vectorComplete_request (run : vRun k o f (s.vRunning q j o) = .error .request) : exec (.vectorComplete q j) s
    = .next (s.waitTurn o.agent.unit (o.agent.slot, (s.hart o.agent.unit o.agent.slot).instret.toNat)) := by
  rw [State.vRunning, State.noPrefix, State.vLeft] at run
  change execVectorComplete q j s = _
  simp only [execVectorComplete, here, kind, check, run]

theorem exec_vectorComplete_trap {c v : Nat} (run : vRun k o f (s.vRunning q j o) = .error (.trap c v)) :
    exec (.vectorComplete q j) s = .next (s.back (if removing s (s.unit o.agent.unit).job = true
      then discardedTrap (o.putBack (s.vLeft q j o)) c v else takeTrap (o.putBack (s.vLeft q j o)) c v (instrWord o.i))) := by
  rw [State.vRunning, State.noPrefix, State.vLeft] at run
  change execVectorComplete q j s = _
  simp only [execVectorComplete, here, kind, check, run]
  split <;> rfl

end

/-! ### VLGR -/

theorem exec_vlgr {d a : BitVec 5} {w : EWidth} (ready : s.ready) (unit : s.onCoreU = true) (pa : s.me.plain a) (fd : s.me.free d) :
    let ew := w.code.setWidth 2
    let vl := if a = 0 then vlmax s.cur.unit ew else min (s.me.reg a.toNat).toNat (vlmax s.cur.unit ew)
    exec (.vlgr d a w) s
      = .next (((s.begun 4).modMe fun h => { h with vl := BitVec.ofNat 9 vl, vill := false, ew := ew }).setX d (w64 vl)) := by
  intro ew vl
  change execVlgr d a w s = _
  refine issue_ok unit ready ?_
  have free : ((s.begun 4).modMe fun h => { h with vl := BitVec.ofNat 9 vl, vill := false, ew := ew }).me.free d := by
    rw [State.me_modMe]
    exact free_begun fd
  rw [vlgrBody, readX_begun pa, res_bind_ok]
  exact writeX_setX free

end Sys2Proof.Machine
end

section
/-! The vector unit's steps and VLGR: O41. -/

namespace Sys2Proof.Machine

open Sys2Proof

/-- Settles O41: entry by its check's answer, completion by the outcome of the run. -/
theorem vectorUnitSteps : Obligations.VectorUnitSteps := by
  unfold Obligations.VectorUnitSteps
  intro s q j o rest k d a w kind leave done
  refine ⟨fun first room => ⟨fun f check => ?enter, fun check => ⟨fun live => ?trap, fun gone => ?cause⟩⟩, ?complete,
    fun ready unit pa fd => exec_vlgr ready unit pa fd⟩
  case enter => exact exec_vectorUnitEnter_legal kind first room check
  case trap => rw [exec_vectorUnitEnter_illegal kind first room check, live]; rfl
  case cause => rw [exec_vectorUnitEnter_illegal kind first room check, gone]; rfl
  case complete =>
    intro f r here check t
    refine ⟨exec_vectorComplete_ok kind here check, fun z => exec_vectorComplete_hold kind here check,
      exec_vectorComplete_request kind here check, fun ca v run => ⟨fun live => ?trap, fun gone => ?cause⟩⟩
    case trap => rw [exec_vectorComplete_trap kind here check run, live]; rfl
    case cause => rw [exec_vectorComplete_trap kind here check run, gone]; rfl

end Sys2Proof.Machine
end

section
/-! SUPPORT. The elements of a vector register after some of them are replaced (05 R135 to R137, R147). -/

namespace Sys2Proof.Machine

open Sys2Proof

variable {h : Slot} {c : VCtx} {v : VecReg} {n i j : Nat}

/-! ### Elements of a register's bits -/

/-- Element i of n bits of a register. -/
def elemOf (v : VecReg) (n i : Nat) : Nat := v.toNat / 2 ^ (n * i) % 2 ^ n

theorem getElem_eq (r : Nat) : getElem h r n i = elemOf (fget h.v r 0) n i := rfl

theorem testBit_elemOf (k : Nat) : (elemOf v n i).testBit k = (decide (k < n) && v.getLsbD (n * i + k)) := by
  rw [elemOf, Nat.testBit_mod_two_pow, Nat.testBit_div_two_pow, BitVec.getLsbD, Nat.add_comm]

/-- A patch of n bits at p replaces these and keeps the others. -/
theorem getLsbD_patchReg {p x b : Nat} (hb : b < 2048) :
    (patchReg v p n x).getLsbD b = if p ≤ b ∧ b < p + n then x.testBit (b - p) else v.getLsbD b := by
  simp only [patchReg, BitVec.getLsbD_or, BitVec.getLsbD_and, BitVec.getLsbD_not, BitVec.getLsbD_ofNat, hb, decide_true, Bool.true_and,
    Nat.testBit_mul_two_pow, Nat.testBit_two_pow_sub_one, Nat.testBit_mod_two_pow]
  by_cases inside : p ≤ b ∧ b < p + n
  · have : b - p < n := by omega
    simp [inside, this]
  · rw [if_neg inside]
    rcases Nat.lt_or_ge b p with below | above
    · simp [Nat.not_le.mpr below]
    · have : ¬ b - p < n := by omega
      simp [this]

theorem elemOf_patchReg_same {x : Nat} (fits : n * (i + 1) ≤ 2048) : elemOf (patchReg v (n * i) n x) n i = x % 2 ^ n := by
  refine Nat.eq_of_testBit_eq fun k => ?_
  rw [testBit_elemOf, Nat.testBit_mod_two_pow]
  by_cases hk : k < n
  · rw [Nat.mul_succ] at fits
    rw [getLsbD_patchReg (by omega), if_pos (by omega), Nat.add_sub_cancel_left]
  · simp [hk]

theorem elemOf_patchReg_ne {x : Nat} (ne : j ≠ i) : elemOf (patchReg v (n * i) n x) n j = elemOf v n j := by
  refine Nat.eq_of_testBit_eq fun k => ?_
  rw [testBit_elemOf, testBit_elemOf]
  by_cases hk : k < n
  · have apart : ¬(n * i ≤ n * j + k ∧ n * j + k < n * i + n) := by
      rcases Nat.lt_or_gt_of_ne ne with below | above
      · have := Nat.mul_le_mul_left n below
        rw [Nat.mul_succ] at this
        omega
      · have := Nat.mul_le_mul_left n above
        rw [Nat.mul_succ] at this
        omega
    by_cases hb : n * j + k < 2048
    · rw [getLsbD_patchReg hb, if_neg apart]
    · rw [BitVec.getLsbD_of_ge _ _ (Nat.not_lt.mp hb), BitVec.getLsbD_of_ge _ _ (Nat.not_lt.mp hb)]
  · simp [hk]

/-! ### A list of elements -/

/-- A register with the elements (index, value) of a list replaced. -/
def patchElems (v : VecReg) (n : Nat) (xs : List (Nat × Nat)) : VecReg := xs.foldl (fun v p => patchReg v (n * p.1) n p.2) v

theorem elemOf_patchElems_other {xs : List (Nat × Nat)} (h : j ∉ xs.map Prod.fst) : elemOf (patchElems v n xs) n j = elemOf v n j := by
  induction xs generalizing v with
  | nil => rfl
  | cons p xs ih =>
    rw [List.map_cons, List.mem_cons, not_or] at h
    obtain ⟨ne, rest⟩ := h
    exact (ih rest).trans (elemOf_patchReg_ne ne)

theorem elemOf_patchElems_mem {xs : List (Nat × Nat)} {x : Nat} (once : (xs.map Prod.fst).Nodup) (fits : n * (j + 1) ≤ 2048)
    (h : (j, x) ∈ xs) : elemOf (patchElems v n xs) n j = x % 2 ^ n := by
  induction xs generalizing v with
  | nil => cases h
  | cons p xs ih =>
    rw [List.map_cons, List.nodup_cons] at once
    obtain ⟨fresh, rest⟩ := once
    rcases List.mem_cons.mp h with rfl | later
    · exact (elemOf_patchElems_other fresh).trans (elemOf_patchReg_same fits)
    · exact ih rest later

/-! ### The elements of a slot -/

section
variable {lanes r : Nat} {xs : List (Nat × Nat)}

theorem getElem_setElems_same : getElem (h.setElems lanes r n xs) r n j = elemOf (patchElems (fget h.v r 0) n xs) n j := by
  rw [getElem_eq, Slot.setElems, fget_fset_same, patchElems]

theorem getElem_setElems_ne {e m : Nat} (ne : e ≠ r) : getElem (h.setElems lanes r n xs) e m j = getElem h e m j := by
  rw [getElem_eq, Slot.setElems, fget_fset_ne _ _ _ ne, getElem_eq]

/-- The elements that a form sets, one value for each index of a list, and all others. -/
theorem getElem_setElems_map {is : List Nat} {f : Nat → Nat} (once : is.Nodup) (fits : ∀ i ∈ is, n * (i + 1) ≤ 2048) :
    (j ∈ is → getElem (h.setElems lanes r n (is.map fun i => (i, f i))) r n j = f j % 2 ^ n)
    ∧ (j ∉ is → getElem (h.setElems lanes r n (is.map fun i => (i, f i))) r n j = getElem h r n j) := by
  have keys : (is.map fun i => (i, f i)).map Prod.fst = is := List.map_map.trans (List.map_id is)
  rw [getElem_setElems_same]
  refine ⟨fun hj => elemOf_patchElems_mem (keys.symm ▸ once) (fits j hj) (List.mem_map_of_mem hj), fun hj => ?_⟩
  exact elemOf_patchElems_other (keys.symm ▸ hj)

end

/-! ### One encoding for each active element -/

/-- A fold that collects a value for each element and keeps the rest of its state as it was. -/
theorem foldl_collect {α β γ δ : Type} {step : List β × γ × δ → α → List β × γ × δ} {y : α → β} {l : δ}
    (h : ∀ xs fl i, ∃ fl', step (xs, fl, l) i = (xs ++ [y i], fl', l)) (is : List α) (xs : List β) (fl : γ) :
    (is.foldl step (xs, fl, l)).1 = xs ++ is.map y := by
  induction is generalizing xs fl with
  | nil => simp
  | cons i is ih =>
    obtain ⟨fl', e⟩ := h xs fl i
    rw [List.foldl_cons, e, ih, List.map_cons, List.append_assoc, List.singleton_append]

/-- Outside SR mode every element is encoded with the generator as it stands (R141). -/
theorem encodeElems_elements {ex : Nat → Exact} {claims : Bool} (rm : c.rm ≠ 2) :
    (encodeElems c ex claims).1 = c.act.map fun i => (i, (vEncode c.fd (ex i) c.rm false c.lfsr.toNat).1) := by
  rw [encodeElems]
  refine (foldl_collect (fun xs fl i => ?_) c.act [] 0).trans (List.nil_append _)
  simp only [rm, decide_false, Bool.false_and, Bool.false_eq_true, ↓reduceIte]
  exact ⟨_, rfl⟩

theorem getElem_arith {d : BitVec 4} {ex : Nat → Exact} {claims : Bool} {r m : Nat} : getElem (arith c h d ex claims) r m j
    = getElem (h.setElems c.lanes d.toNat (vWidth c.fd) (encodeElems c ex claims).1) r m j := rfl

end Sys2Proof.Machine
end

section
/-! The elements that a vector form writes: O42. -/

namespace Sys2Proof.Machine

open Sys2Proof

/-- Settles O42: outside SR mode an arithmetic form, as a raw form always, sets one value for each element of a list
(`getElem_setElems_map`). -/
theorem vectorElementsWritten : Obligations.VectorElementsWritten := by
  unfold Obligations.VectorElementsWritten
  intro h c d ex f claims is e j
  have other : e ≠ d → e.toNat ≠ d.toNat := fun ne eq => ne (BitVec.eq_of_toNat_eq eq)
  constructor
  · intro once fits rm
    simp only [getElem_arith, encodeElems_elements rm]
    obtain ⟨written, kept⟩ := getElem_setElems_map (j := j) once fits
    exact ⟨written, fun hj _ => kept hj, fun ne n => getElem_setElems_ne (other ne)⟩
  · intro once fits
    simp only [raw]
    obtain ⟨written, kept⟩ := getElem_setElems_map (j := j) once fits
    exact ⟨written, fun hj _ => kept hj, fun ne n => getElem_setElems_ne (other ne)⟩

end Sys2Proof.Machine
end

section
/-! SUPPORT. The matrix arrays one by one: what a change of one reads back, and changes of each array of a cluster in turn. -/

namespace Sys2Proof.Machine

open Sys2Proof

variable {s t : State} {c n : Nat}

/-! ### One array of a quad, and one array of a cluster by its number (07 R217) -/

theorem State.array_modArray_same (q a : Nat) (f : MArray → MArray) : ((s.modArray q a f).quad q).array a = f ((s.quad q).array a) := by
  rw [State.modArray, State.quad_modQuad_same, Quad.array, fget_fset_same]

theorem State.array_modArray_ne {q a p b : Nat} (f : MArray → MArray) (h : p ≠ q ∨ b ≠ a) :
    ((s.modArray q a f).quad p).array b = (s.quad p).array b := by
  rcases eq_or_ne p q with rfl | other
  · rw [State.modArray, State.quad_modQuad_same]
    exact fget_fset_ne _ _ _ (h.resolve_left (not_not_intro rfl))
  · rw [State.modArray, State.quad_modQuad_ne _ other]

theorem slewArray_arrayNo {q a : Nat} (ha : a < 2) : s.slewArray (clusterOfQuad q) (arrayNo q a) = (s.quad q).array a := by
  rw [State.slewArray, clusterOfQuad, arrayNo, show 4 * (q / 4) + (2 * (q % 4) + a) / 2 = q by omega, show (2 * (q % 4) + a) % 2 = a by omega]

theorem arrayNo_lt {q a : Nat} (ha : a < 2) : arrayNo q a < 8 := by
  rw [arrayNo]
  omega

/-! ### A change that is left out where it changes nothing, and one such change after another -/

variable {P : Prop} [Decidable P]

theorem keeps_unless {α : Type} {g : State → α} {t' : State} (h : g t' = g t) : g (if P then t else t') = g t := by
  split
  · rfl
  · exact h

theorem slewArray_unless_same {f : MArray → MArray} (h : P → f (t.slewArray c n) = t.slewArray c n) :
    (if P then t else t.modArray (4 * c + n / 2) (n % 2) f).slewArray c n = f (t.slewArray c n) := by
  split
  next idle => exact (h idle).symm
  next => exact State.array_modArray_same ..

theorem slewArray_unless_ne {k : Nat} (f : MArray → MArray) (h : k ≠ n) :
    (if P then t else t.modArray (4 * c + n / 2) (n % 2) f).slewArray c k = t.slewArray c k :=
  keeps_unless (g := fun t => t.slewArray c k) (State.array_modArray_ne f (by omega))

section
variable {step : State → Nat → State} (other : ∀ t n k, k ≠ n → (step t n).slewArray c k = t.slewArray c k) {ns : List Nat}
include other

theorem slewArray_foldl_other (out : n ∉ ns) : (ns.foldl step s).slewArray c n = s.slewArray c n :=
  List.foldlRecOn (motive := fun t => t.slewArray c n = s.slewArray c n) ns step rfl
    fun t ih k hk => (other t k n fun e => out (e ▸ hk)).trans ih

/-- Changes of the arrays in a list, each of its own array, change each of them once. -/
theorem slewArray_foldl_mem {f : Nat → MArray → MArray} (same : ∀ t n, (step t n).slewArray c n = f n (t.slewArray c n))
    (once : ns.Nodup) (hn : n ∈ ns) : (ns.foldl step s).slewArray c n = f n (s.slewArray c n) := by
  induction ns generalizing s with
  | nil => cases hn
  | cons m ns ih =>
    rw [List.nodup_cons] at once
    obtain ⟨fresh, once⟩ := once
    rcases List.mem_cons.mp hn with rfl | later
    · exact (slewArray_foldl_other other fresh).trans (same s n)
    · have apart : n ≠ m := fun e => fresh (e ▸ later)
      rw [List.foldl_cons, ih once later, other s m n apart]

end

/-! ### The fillers of a cluster (07 R219) -/

/-- The fillers change of an array nothing but whether it runs one. -/
theorem slewArray_refill (hn : n < 8) : ∃ b, (s.refill c).slewArray c n = { s.slewArray c n with filler := b } := by
  refine ⟨_, slewArray_foldl_mem (f := fun n m => { m with filler := _ }) (fun _ _ _ h => slewArray_unless_ne _ h)
    (fun t n => slewArray_unless_same fun idle => ?_) List.nodup_range (List.mem_range.mpr hn)⟩
  rw [← idle]

theorem refill_keeps {α : Type} (g : State → α) (keeps : ∀ t q a f, g (t.modArray q a f) = g t) : g (s.refill c) = g s :=
  foldl_keeps g _ (fun t _ => keeps_unless (keeps t ..)) _ _

@[simp] theorem refill_mem : (s.refill c).mem = s.mem := refill_keeps State.mem fun _ _ _ _ => rfl
@[simp] theorem refill_fe (u : Nat) : (s.refill c).fe u = s.fe u := refill_keeps (fun t => t.fe u) fun _ _ _ _ => rfl
@[simp] theorem refill_cluster (i : Nat) : (s.refill c).cluster i = s.cluster i := refill_keeps (fun t => t.cluster i) fun _ _ _ _ => rfl

end Sys2Proof.Machine
end

section
/-! SUPPORT. Leases of the matrix arrays: grant and end (07 R215, R216). -/

namespace Sys2Proof.Machine

open Sys2Proof

variable {s : State} {q a k : Nat}

/-- An array's lease of 8 instructions and 256 cycles goes to the core that it chooses (R215.2). -/
theorem exec_leaseGrant (ha : a < 2) (free : ((s.quad q).array a).holder = none)
    (turn : a = 1 → ((s.quad q).array 0).holder ≠ none ∨ ((s.quad q).array 0).behind = true)
    (choice : leaseChoice ((s.quad q).array a).prev (leaseTakers s q a) = some k) :
    exec (.leaseGrant q a) s = .next ((s.modArray q a fun m => grantTo { m with started := [] } k).modArray q 0
      fun y => { y with behind := false }) := by
  have first : (a == 1 && ((s.quad q).array 0).holder.isNone && !((s.quad q).array 0).behind) = false := by
    by_cases one : a = 1
    · rcases turn one with held | behind
      · simp [held]
      · simp [behind]
    · simp [one]
  change execLeaseGrant q a s = _
  simp only [execLeaseGrant, free, first, choice, decide_eq_false (Nat.not_le.mpr ha), Option.isSome_none, Bool.or_self, Bool.false_eq_true,
    ↓reduceIte]
  rfl

/-- A used-up lease ends once its last instruction has spent its issue cycles, and the only waiting core has it again (R215.5, R215.6). -/
theorem exec_leaseEnd (holder : ((s.quad q).array a).holder = some k) (idle : ((s.quad q).array a).running = none)
    (used : ((s.quad q).array a).left = 0 ∨ ((s.quad q).array a).cyc = 0) (stays : switchedOut s (4 * q + k) = false) :
    exec (.leaseEnd q a) s = .next (
      let t := s.modArray q a fun m => { m with holder := none, prev := k }
      if waiters t q = [k] then s.modArray q a fun m => grantTo m k else arrayFreed t q a) := by
  have rests : ((s.quad q).array a).running.isNone = true := Option.isNone_iff_eq_none.mpr idle
  have spent : (((s.quad q).array a).left == 0 || ((s.quad q).array a).cyc == 0) = true := by simpa using used
  change execLeaseEnd q a s = _
  simp only [execLeaseEnd, holder, rests, spent, stays, Bool.true_or, Bool.and_self, Bool.not_true, Bool.not_false,
    Bool.and_true, Bool.false_eq_true, ↓reduceIte, beq_iff_eq, apply_ite Host.Outcome.next]
  rfl

end Sys2Proof.Machine
end

section
/-! SUPPORT. The start of a matrix instruction on an array (07 R203, R205, R215, R219). -/

namespace Sys2Proof.Machine

open Sys2Proof

variable {s : State} {u r a : Nat} {x y : RobEntry}

theorem id_of_entry {fe : TileFE} (h : fe.entry r = some x) : x.id = r := by
  simpa using List.find?_some h

/-- An entry that is there after a change of entry r is the changed one. -/
theorem entry_modEntry {fe : TileFE} {f : RobEntry → RobEntry} (h : (fe.modEntry r f).entry r = some y) :
    ∃ z, y = f z := by
  obtain ⟨z, -, eq⟩ := List.mem_map.mp (List.mem_of_find?_eq_some h)
  have id := id_of_entry h
  split at eq
  next => exact ⟨z, eq.symm⟩
  next other => exact absurd (eq ▸ id) other

/-! ### What a start makes of the array and of the entry -/

theorem array_startOn : ∃ l, ((startOn s u a x).quad (quadOf u)).array a =
    { ((s.quad (quadOf u)).array a).counted (Tcw.hold ⟨x.e.tcw⟩ && (waiters s (quadOf u)).all fun k => k == u % 4) with
      running := some (u, x.id), issue := issueCycles x, started := l, filler := false } :=
  ⟨_, by rw [startOn, State.modRob, State.quad_modFe, State.array_modArray_same]⟩

theorem entry_startOn (h : ((startOn s u a x).fe u).entry x.id = some y) : y.phase = .started ∧ y.array = some a := by
  rw [startOn, State.modRob, State.fe_modFe_same] at h
  obtain ⟨z, rfl⟩ := entry_modEntry h
  exact ⟨rfl, rfl⟩

theorem MArray.counted_extends {m : MArray} {hold : Bool} (h : hold = true ∧ m.left = 1 ∧ m.extended = false) :
    (m.counted hold).left = 8 ∧ (m.counted hold).extended = true := by
  obtain ⟨holds, last, first⟩ := h
  rw [counted, if_pos ⟨last, holds, by rw [first]; rfl⟩]
  exact ⟨rfl, rfl⟩

theorem MArray.counted_uses {m : MArray} {hold : Bool} (h : ¬(hold = true ∧ m.left = 1 ∧ m.extended = false)) :
    (m.counted hold).left = m.left - 1 ∧ (m.counted hold).extended = m.extended := by
  rw [counted, if_neg fun ⟨last, holds, first⟩ => h ⟨holds, last, by simpa using first⟩]
  exact ⟨rfl, rfl⟩

/-- HOLD extends a lease on its last instruction, once, while no other core waits (R215.4). -/
theorem extends_iff {m : MArray} {hold : Bool} {ws : List Nat} {k : Nat} :
    (hold = true ∧ m.left = 1 ∧ m.extended = false ∧ ∀ w ∈ ws, w = k)
      ↔ (hold && ws.all fun w => w == k) = true ∧ m.left = 1 ∧ m.extended = false := by
  simp only [Bool.and_eq_true, List.all_eq_true, beq_iff_eq]
  tauto

/-- The state in which entry x has started on array a, and a start held there is held no longer. -/
def State.matStarted (s : State) (u a : Nat) (x : RobEntry) : State :=
  let t := startOn s u a x
  let c := clusterOfQuad (quadOf u)
  let n := arrayNo (quadOf u) a
  if (t.cluster c).began n = t.cluster c then t else t.modCluster c fun k => k.began n

theorem State.matStarted_quad (i : Nat) : (s.matStarted u a x).quad i = (startOn s u a x).quad i :=
  keeps_unless (g := fun t => t.quad i) (State.quad_modCluster ..)
theorem State.matStarted_fe (i : Nat) : (s.matStarted u a x).fe i = (startOn s u a x).fe i := keeps_unless (g := fun t => t.fe i) rfl
theorem State.matStarted_mem : (s.matStarted u a x).mem = s.mem := (keeps_unless (g := State.mem) (State.modCluster_mem ..)).trans rfl

/-! ### The instruction -/

theorem startable_of (entry : (s.fe u).entry r = some x) (ha : a < 2) (holder : ((s.quad (quadOf u)).array a).holder = some (u % 4))
    (left : ((s.quad (quadOf u)).array a).left ≠ 0) (cyc : ((s.quad (quadOf u)).array a).cyc ≠ 0)
    (idle : ((s.quad (quadOf u)).array a).running = none)
    (ready : chainReady s u x a = true ∨ matReady (s.fe u) x = true ∧ ¬(a = 1 ∧ ((s.quad (quadOf u)).array 0).usable (u % 4) = true))
    (first : (((s.fe u).older r).all fun y => !matReady (s.fe u) y && !chainReady s u y a) = true) : startable s u a x = true := by
  have usable : ((s.quad (quadOf u)).array a).usable (u % 4) = true := by simp [MArray.usable, holder, left, cyc, idle]
  have oldest : ((s.fe u).older x.id).any (fun y => matReady (s.fe u) y || chainReady s u y a) = false := by
    rw [id_of_entry entry]
    simpa using first
  simpa [startable, ha, usable, oldest, imp_iff_not_or] using ready

section
variable (entry : (s.fe u).entry r = some x) (start : startable s u a x = true)
include entry start

theorem exec_matrixStart_allowed (allowed : slewAllows s (clusterOfQuad (quadOf u)) (arrayNo (quadOf u) a) = true) :
    exec (.matrixStart u r a) s = .next ((s.matStarted u a x).refill (clusterOfQuad (quadOf u))) := by
  change execMatrixStart u r a s = _
  simp only [execMatrixStart, entry, start, allowed, Bool.not_true, Bool.false_eq_true, ↓reduceIte]
  rfl

theorem exec_matrixStart_held (held : slewAllows s (clusterOfQuad (quadOf u)) (arrayNo (quadOf u) a) = false)
    (old : (s.cluster (clusterOfQuad (quadOf u))).heldStarts.contains (arrayNo (quadOf u) a) = false)
    (new : (s.cluster (clusterOfQuad (quadOf u))).heldNew.contains (arrayNo (quadOf u) a) = false) :
    exec (.matrixStart u r a) s = .next (s.modCluster (clusterOfQuad (quadOf u)) fun k =>
      { k with heldNew := k.heldNew ++ [arrayNo (quadOf u) a] }) := by
  change execMatrixStart u r a s = _
  simp only [execMatrixStart, entry, start, held, old, new, Bool.not_true, Bool.not_false, Bool.or_self, Bool.false_eq_true, ↓reduceIte]

/-- What such a start leaves: the array spends the entry's issue cycles, its lease is counted, the entry has started. -/
theorem exec_matrixStart_starts (ha : a < 2) (allowed : slewAllows s (clusterOfQuad (quadOf u)) (arrayNo (quadOf u) a) = true) :
    ∃ t b l, exec (.matrixStart u r a) s = .next t
      ∧ (t.quad (quadOf u)).array a =
        { ((s.quad (quadOf u)).array a).counted (Tcw.hold ⟨x.e.tcw⟩ && (waiters s (quadOf u)).all fun k => k == u % 4) with
          running := some (u, r), issue := issueCycles x, started := l, filler := b }
      ∧ (∀ y, (t.fe u).entry r = some y → y.phase = .started ∧ y.array = some a) ∧ t.mem = s.mem := by
  obtain ⟨b, filled⟩ := slewArray_refill (s := s.matStarted u a x) (c := clusterOfQuad (quadOf u)) (arrayNo_lt (q := quadOf u) ha)
  obtain ⟨l, began⟩ := array_startOn (s := s) (u := u) (a := a) (x := x)
  rw [slewArray_arrayNo ha, slewArray_arrayNo ha, State.matStarted_quad, began, id_of_entry entry] at filled
  refine ⟨_, b, l, exec_matrixStart_allowed entry start allowed, filled, fun y h => ?_, by rw [refill_mem, State.matStarted_mem]⟩
  rw [refill_fe, State.matStarted_fe, ← id_of_entry entry] at h
  exact entry_startOn h

end

end Sys2Proof.Machine
end

section
/-! SUPPORT. A step of the slew limiter, and a write of SLEWCTL (07 R217 to R219). -/

namespace Sys2Proof.Machine

open Sys2Proof

variable {s : State} {c n : Nat}

/-- The state once 4 cycles have passed on each array of a cluster. -/
def State.fourCycles (s : State) (c : Nat) : State :=
  (upTo 8).foldl (fun t n =>
    let m := t.slewArray c n
    if m.fourCycles = m then t else t.modArray (4 * c + n / 2) (n % 2) fun _ => m.fourCycles) s

theorem slewArray_fourCycles (hn : n < 8) : (s.fourCycles c).slewArray c n = (s.slewArray c n).fourCycles :=
  slewArray_foldl_mem (f := fun _ m => m.fourCycles) (fun _ _ _ h => slewArray_unless_ne _ h) (fun _ _ => slewArray_unless_same id)
    List.nodup_range (List.mem_range.mpr hn)

theorem fourCycles_keeps {α : Type} (g : State → α) (keeps : ∀ t q a f, g (t.modArray q a f) = g t) : g (s.fourCycles c) = g s :=
  foldl_keeps g _ (fun t _ => keeps_unless (keeps t ..)) _ _

theorem fourCycles_mem : (s.fourCycles c).mem = s.mem := fourCycles_keeps State.mem fun _ _ _ _ => rfl
theorem fourCycles_cluster (i : Nat) : (s.fourCycles c).cluster i = s.cluster i :=
  fourCycles_keeps (fun t => t.cluster i) fun _ _ _ _ => rfl
theorem slewArray_modCluster (i : Nat) (f : Cluster → Cluster) : (s.modCluster i f).slewArray c n = s.slewArray c n := rfl

/-- The cluster's registers once a step begins: the active arrays are recorded, and a value of SLEWCTL that was written is in force. -/
theorem exec_slewStep : ∃ k : Cluster,
    exec (.slewStep c) s = .next ((if k = s.cluster c then s.fourCycles c else (s.fourCycles c).modCluster c fun _ => k).refill c)
    ∧ k.slewNext = none ∧ k.active = ((upTo 8).filter fun n => (s.slewArray c n).running.isSome || (s.slewArray c n).filler)
    ∧ (∀ v, (s.cluster c).slewNext = some v → k.drop = v.extractLsb' 16 4 ∧ k.rung0 = v.extractLsb' 0 4
        ∧ k.rung1 = v.extractLsb' 4 4 ∧ k.rung2 = v.extractLsb' 8 4 ∧ k.rung3 = v.extractLsb' 12 4) := by
  refine ⟨_, rfl, ?_⟩
  cases written : (s.cluster c).slewNext with
  | none => exact ⟨rfl, rfl, nofun⟩
  | some w =>
    refine ⟨rfl, rfl, fun v h => ?_⟩
    cases h
    exact ⟨rfl, rfl, rfl, rfl, rfl⟩

theorem cluster_unless {t : State} {k : Cluster} (h : t.cluster c = s.cluster c) :
    (if k = s.cluster c then t else t.modCluster c fun _ => k).cluster c = k := by
  split
  next unchanged => rw [h, unchanged]
  next => exact State.cluster_modCluster_same ..

/-- The values that SLEWCTL takes: rungs from 1 that do not fall, the last of them 8, and a DROP from 1 to 8 (R218). -/
def slewLegal (v : Word) : Prop :=
  1 ≤ wfld v 3 0 ∧ wfld v 3 0 ≤ wfld v 7 4 ∧ wfld v 7 4 ≤ wfld v 11 8 ∧ wfld v 11 8 ≤ wfld v 15 12 ∧ wfld v 15 12 = 8
    ∧ 1 ≤ wfld v 19 16 ∧ wfld v 19 16 ≤ 8

theorem slewWrite_legal {v : Word} (keep : wbit v 31 = false) (legal : slewLegal v) :
    slewWrite s c v = s.modCluster c fun k => { k with slewNext := some (v.setWidth 20) } := by
  obtain ⟨one, r01, r12, r23, eight, drop, most⟩ := legal
  simp [slewWrite, keep, one, r01, r12, eight ▸ r23, eight, drop, most]

theorem slewWrite_illegal {v : Word} (keep : wbit v 31 = false) (illegal : ¬ slewLegal v) :
    slewWrite s c v = s.modCluster c fun k => { k with badw := true } := by
  simp only [slewLegal, ← and_assoc] at illegal
  simp [slewWrite, keep, illegal]

end Sys2Proof.Machine
end

section
/-! The matrix arrays' steps: O46. -/

namespace Sys2Proof.Machine

open Sys2Proof

/-- Settles O46: a lease by its grant and its end, a start by what it makes of its array (`exec_matrixStart_starts`), a step of the limiter
by the registers that it finds (`exec_slewStep`) and the arrays that it leaves, four cycles on (`slewArray_fourCycles`). -/
theorem matrixSteps : Obligations.MatrixSteps := by
  unfold Obligations.MatrixSteps
  intro s q a u r c
  refine ⟨fun k ha free turn choice => exec_leaseGrant ha free turn choice, ?ends, ?starts, ?limiter, ?slewctl, ?duty⟩
  case ends =>
    intro k holder idle used stays t
    have step := exec_leaseEnd holder idle used stays
    exact ⟨fun only => step.trans (congrArg _ (if_pos only)), fun others => step.trans (congrArg _ (if_neg others))⟩
  case starts =>
    intro x entry ha m holder left cyc idle ready first cl n
    have start := startable_of entry ha holder left cyc idle ready first
    refine ⟨fun allowed => ?_, exec_matrixStart_held entry start⟩
    obtain ⟨t, b, l, step, array, started, mem⟩ := exec_matrixStart_starts entry start ha allowed
    refine ⟨t, step, by rw [array], by rw [array], ?lease, started, mem⟩
    rw [array, extends_iff]
    exact ⟨MArray.counted_extends, MArray.counted_uses⟩
  case limiter =>
    obtain ⟨k, step, next, active, written⟩ := exec_slewStep (s := s) (c := c)
    refine ⟨_, step, ?mem, ?registers⟩
    case mem => rw [refill_mem, keeps_unless (g := State.mem) (State.modCluster_mem ..), fourCycles_mem]
    case registers =>
      rw [refill_cluster, cluster_unless (fourCycles_cluster c)]
      refine ⟨next, active, written, fun n hn => ?_⟩
      obtain ⟨b, array⟩ := slewArray_refill (c := c) hn
      rw [array, keeps_unless (g := fun t => t.slewArray c n) (slewArray_modCluster ..), slewArray_fourCycles hn]
      exact ⟨rfl, rfl, rfl⟩
  case slewctl =>
    intro v keep legal
    rw [exec_slewctlWrite]
    exact ⟨fun h => congrArg _ (slewWrite_legal keep h), fun h => congrArg _ (slewWrite_illegal keep h)⟩
  case duty =>
    intro d written
    change execDutyFrame u s = _
    rw [execDutyFrame, written]

end Sys2Proof.Machine
end

section
/-! SUPPORT. Where an access goes: the window of a core's store, and the outcomes of a translation (09 R226, R227, 15 R350). -/

namespace Sys2Proof.Machine

open Sys2Proof

variable {s t : State} {va n pa c v : Nat} {a : Acc} {big : Bool} {e : RangeEntry}

/-! ### The checks before the translation -/

theorem not_isUcore {u : Nat} (core : isCore u = true) : isUcore u = false := by
  simp only [isCore, decide_eq_true_eq] at core
  simp [isUcore, show ¬204 ≤ u by omega]

theorem checkWindows_core (core : isCore s.cur.unit = true) : checkWindows s va n a = .ok () := by
  rw [checkWindows, not_isUcore core]
  rfl

theorem windowAddr_below (low : va < windowBlock) : windowAddr s va n a = .ok none := by
  have small : ¬2 ^ 56 ≤ va := by simp only [windowBlock] at low; omega
  rw [windowAddr, if_neg small, if_pos low]

/-- The core-store window below the resident handler's area is open to slots 0 to 6. -/
theorem windowAddr_store (core : isCore s.cur.unit = true) (x : a.x = false) (noS : a.s = false)
    (low : coreWindow ≤ va) (high : va + n ≤ coreWindow + residentBase) (pos : 0 < n) :
    windowAddr s va n a = .ok (some (storeBase s.cur.unit + (va - coreWindow))) := by
  have size : storeSize s.cur.unit = 0x80000 := if_pos (by simpa [isCore] using core)
  simp only [coreWindow, residentBase] at low high
  have small : ¬2 ^ 56 ≤ va := by omega
  have window : ¬va < windowBlock := by simp only [windowBlock]; omega
  have store : va < coreWindow + 0x80000 := by simp only [coreWindow]; omega
  have inside : ¬storeSize s.cur.unit < va - coreWindow + n := by simp only [size, coreWindow]; omega
  have resident : ¬residentBase < va - coreWindow + n := by simp only [residentBase, coreWindow]; omega
  simp [windowAddr, -Nat.reducePow, small, window, store, inside, resident, x, noS]

/-- The tile stream of a core holds no byte of a span against slot 0 (01 R45). -/
theorem need_untiled (free : s.cur.slot = 0 → tileHolds s s.cur.unit va (va + n - 1) = false) (stop : Stop) :
    need (a.x || !(isCore s.cur.unit && s.cur.slot == 0 && tileHolds s s.cur.unit va (va + n - 1))) stop = .ok () := by
  refine need_of ?_ stop
  by_cases zero : s.cur.slot = 0
  · simp [free zero]
  · simp [zero]

/-! ### Translation -/

theorem findRange_hit {u : Nat} {j : BitVec 16} (hit : lookup? s u j va = some e) : findRange s u j va = (touchRange s u e, some e) := by
  rw [findRange, hit]

theorem findRange_none {u : Nat} {j : BitVec 16} (miss : lookup? s u j va = none) (walk : walk? s va j = none) :
    findRange s u j va = (s, none) := by rw [findRange, miss]; simp only [walk]

theorem not_beyond (low : va < windowBlock) : (decide (2 ^ 56 ≤ va) || decide (windowBlock ≤ va)) = false := by
  have small : ¬2 ^ 56 ≤ va := by simp only [windowBlock] at low; omega
  rw [decide_eq_false small, decide_eq_false (Nat.not_le_of_lt low), Bool.or_false]

/-- No range covers the address, and the walk need not wait. -/
theorem translate_noRange {u : Nat} {j : BitVec 16} (low : va < windowBlock) (miss : lookup? s u j va = none) (walk : walk? s va j = none)
    (ready : j = 0 ∨ jobDescWaits s j 16 = false) : translate s u j va a = (s, .raise cNoRange va) := by
  have goes : (j != 0 && jobDescWaits s j 16) = false := by obtain zero | still := ready <;> simp [*]
  simp only [translate, not_beyond low, findRange_none miss walk, goes, Bool.false_eq_true, if_false]

/-- The permission of a range allows what an access does. -/
def RangeEntry.permits (e : RangeEntry) (a : Acc) : Bool := !((a.r && !e.r) || (a.w && !e.w) || (a.x && !e.x) || a.s != e.s)

theorem translate_permission {u : Nat} {j : BitVec 16} (low : va < windowBlock) (hit : lookup? s u j va = some e) (valid : e.state ≠ stInvalid)
    (denied : e.permits a = false) : translate s u j va a = (touchRange s u e, .raise cPermission va) := by
  have refused : ((a.r && !e.r) || (a.w && !e.w) || (a.x && !e.x) || a.s != e.s) = true := by simpa only [RangeEntry.permits, Bool.not_eq_false'] using denied
  simp only [translate, not_beyond low, findRange_hit hit, if_neg valid, refused, Bool.false_eq_true, if_false, if_true]

/-- A range in STATE normal takes an address inside its residency window to VA + OFFSET. -/
theorem translate_normal {u : Nat} {j : BitVec 16} (low : va < windowBlock) (hit : lookup? s u j va = some e) (normal : e.state = stNormal)
    (allowed : e.permits a = true) (window : e.nowin = false) (above : e.rlo ≤ va) (below : va ≤ e.rhi + 255) :
    translate s u j va a = (touchRange s u e, .ok (addOff va e.offset) e) := by
  have granted : ((a.r && !e.r) || (a.w && !e.w) || (a.x && !e.x) || a.s != e.s) = false := by
    simpa only [RangeEntry.permits, Bool.not_eq_true'] using allowed
  have valid : e.state ≠ stInvalid := by rw [normal]; decide
  have resident : (e.state != stReturning && (e.nowin || decide (va < e.rlo) || decide (e.rhi + 255 < va))) = false := by
    simp [window, above, below]
  simp only [translate, not_beyond low, findRange_hit hit, if_neg valid, granted, resident, stateRule, if_pos normal, Bool.false_eq_true, if_false]

/-! ### The place -/

section
variable (core : isCore s.cur.unit = true) (free : s.cur.slot = 0 → tileHolds s s.cur.unit va (va + n - 1) = false)
include free

theorem locate_window (window : windowAddr s va n a = .ok (some pa)) :
    locate s va n a big = .ok (s, { va := va, pa := pa, win := true, dev := false, bypass := false, vbase := 0 }) := by
  simp only [locate, need_untiled free, window, res_bind_ok]

include core

theorem locate_raise (low : va < windowBlock) (raised : translate s s.cur.unit s.mine.job va a = (t, .raise c v)) :
    locate s va n a big = .error (.trap c v) := by
  simp only [locate, need_untiled free, windowAddr_below low, checkWindows_core core, raised, res_bind_ok, raise]

/-- A translated address in backed memory that nothing holds is the place, with the state that the translation has left. -/
theorem locate_memory (low : va < windowBlock) (granted : translate s s.cur.unit s.mine.job va a = (t, .ok pa e)) (x : a.x = false) (noS : a.s = false)
    (cur : t.cur = s.cur) (region : regionOf pa < 3) (there : backed t pa = true) (unlocked : lockedByte t s.cur.unit va (va + n - 1) a.w = none)
    (replies : overlapReplied t s.cur.unit pa n = t) (unpaired : pairLocked t (lineOf pa) = false) :
    locate s va n a big = .ok (t, { va := va, pa := pa, win := false, dev := false, bypass := e.n, vbase := e.vbase }) := by
  have memory : (regionOf pa == 3) = false := beq_false_of_ne (Nat.ne_of_lt region)
  have locks : checkLocks t va (va + n - 1) a.w = .ok () := by rw [checkLocks, cur, unlocked]
  simp only [locate, need_untiled free, res_bind_ok]
  simp only [windowAddr_below low, checkWindows_core core, granted, memory, there, x, noS, locks, replies, unpaired, res_bind_ok,
    need_true, Bool.false_eq_true, if_false, Bool.or_self, Bool.not_false]

end

@[simp] theorem State.setTable_cur (u : Nat) (r : List RangeEntry) : (s.setTable u r).cur = s.cur := by unfold State.setTable; split <;> rfl

end Sys2Proof.Machine
end

section
/-! Where an access goes: O13. -/

namespace Sys2Proof.Machine

open Sys2Proof

/-- Settles O13: the core's window by `windowAddr_store`, the others by what `translate` makes of the entry or of its absence. -/
theorem accessPlaces : Obligations.AccessPlaces := by
  unfold Obligations.AccessPlaces
  intro s va n a big e core pos free x noS
  refine ⟨fun low high _ => locate_window free (windowAddr_store core x noS low high pos), ?normal, ?none, ?denied⟩
  case normal =>
    intro low hit normal r w s' window above below region t there unlocked replies unpaired
    have allowed : e.permits a = true := by
      have read : (a.r && !e.r) = false := by cases h : a.r <;> simp [r, h]
      have write : (a.w && !e.w) = false := by cases h : a.w <;> simp [w, h]
      simp [RangeEntry.permits, read, write, x, noS, s']
    exact locate_memory core free low (translate_normal low hit normal allowed window above below) x noS (State.setTable_cur _ _) region there
      unlocked replies unpaired
  case none => exact fun low miss walk ready => locate_raise core free low (translate_noRange low miss walk ready)
  case denied =>
    intro low hit valid denied
    refine locate_raise core free low (translate_permission low hit valid ?_)
    obtain ⟨ar, er⟩ | ⟨aw, ew⟩ | es := denied <;> simp [RangeEntry.permits, *]

end Sys2Proof.Machine
end

section
/-! SUPPORT. What a load writes and an atomic computes, as numbers (03 R91). -/

namespace Sys2Proof.Machine

open Sys2Proof

/-- A loaded number, sign-extended from its width. -/
theorem toInt_loaded {n v : Nat} (narrow : n ≤ 64) (pos : 0 < n) (h : v < 2 ^ n) :
    ((BitVec.ofNat n v).signExtend 64).toInt = if v < 2 ^ (n - 1) then (v : Int) else v - 2 ^ n := by
  have two : 2 ^ n = 2 * 2 ^ (n - 1) := by rw [← Nat.pow_succ', Nat.succ_eq_add_one, Nat.sub_add_cancel pos]
  rw [BitVec.toInt_signExtend_of_le narrow, BitVec.toInt_eq_toNat_cond, BitVec.toNat_ofNat, Nat.mod_eq_of_lt h]
  by_cases low : v < 2 ^ (n - 1)
  · rw [if_pos low, if_pos (by omega)]
  · rw [if_neg low, if_neg (by omega)]
    norm_cast

theorem toNat_w64 {v : Nat} (h : v < 2 ^ 64) : (w64 v).toNat = v := by rw [w64, BitVec.toNat_ofNat, Nat.mod_eq_of_lt h]

end Sys2Proof.Machine
end

section
/-! Base loads and stores, LDNA and STBY: O3. -/

namespace Sys2Proof.Machine

open Sys2Proof

variable {s t : State} {d a b : BitVec 5} {i : BitVec 12} {v : Nat}

theorem exec_rvLoad (ready : s.ready) (ha : s.me.plain a) (hd : t.me.free d) {op : LoadOp} (aligned : (s.me.reg a.toNat + simm i).toNat % loadSize op = 0)
    (load : loadAt (s.begun 4) (s.me.reg a.toNat + simm i).toNat (loadSize op) = .ok (t, v)) :
    exec (.rvLoad op d a i) s = .next (t.setX d (loadVal op v)) := by
  refine issue_ok rfl ready ?_
  simp only [rvLoadBody, readAddr_begun ha, needAligned_of aligned, load, res_bind_ok, writeX_setX hd]

theorem exec_rvStore (ready : s.ready) (ha : s.me.plain a) (hb : s.me.plain b) {op : StoreOp}
    (aligned : (s.me.reg a.toNat + simm i).toNat % storeSizeOf op = 0)
    (store : storeAt (s.begun 4) (s.me.reg a.toNat + simm i).toNat (storeSizeOf op) ((s.me.reg b.toNat).toNat % 2 ^ (8 * storeSizeOf op)) = .ok t) :
    exec (.rvStore op a b i) s = .next t := by
  refine issue_ok rfl ready ?_
  simp only [rvStoreBody, readAddr_begun ha, readX_begun hb, needAligned_of aligned, store, res_bind_ok]

theorem exec_ldna (ready : s.ready) (unit : s.onCoreUC = true) (ha : s.me.plain a) (hd : t.me.free d)
    (aligned : (s.me.reg a.toNat + simm i).toNat % 8 = 0)
    (load : loadAcc (s.begun 4) (s.me.reg a.toNat + simm i).toNat 8 .load false false = .ok (t, v)) :
    exec (.ldna d a i) s = .next (t.setX d (w64 v)) := by
  refine issue_ok unit ready ?_
  simp only [ldnaBody, readAddr_begun ha, needAligned_of aligned, load, res_bind_ok, writeX_setX hd]

theorem exec_stby (ready : s.ready) (unit : s.onCoreUC = true) (ha : s.me.plain a) (hb : s.me.plain b)
    (aligned : (s.me.reg a.toNat + simm i).toNat % 8 = 0)
    (store : storeAcc (s.begun 4) (s.me.reg a.toNat + simm i).toNat 8 (s.me.reg b.toNat).toNat .store true false = .ok t) :
    exec (.stby a b i) s = .next t := by
  refine issue_ok unit ready ?_
  simp only [stbyBody, readAddr_begun ha, readX_begun hb, needAligned_of aligned, store, res_bind_ok]

/-- Settles O3: each instruction by its body's steps, the loaded values by `toInt_loaded` and `toNat_w64`. -/
theorem loadsAndStoresComplete : Obligations.LoadsAndStoresComplete := by
  unfold Obligations.LoadsAndStoresComplete
  constructor
  · intro s t d a b i v ready ha hb hd
    exact ⟨fun op => exec_rvLoad ready ha hd, fun op => exec_rvStore ready ha hb, fun unit => exec_ldna ready unit ha hd,
      fun unit => exec_stby ready unit ha hb⟩
  · intro v
    exact ⟨fun h => ⟨toInt_loaded (by decide) (by decide) h, toNat_w64 (by omega)⟩,
      fun h => ⟨toInt_loaded (by decide) (by decide) h, toNat_w64 (by omega)⟩,
      fun h => ⟨toInt_loaded (by decide) (by decide) h, toNat_w64 (by omega)⟩, toNat_w64⟩

end Sys2Proof.Machine
end

section
/-! SUPPORT. What each AMO makes of two values (03 R91). -/

namespace Sys2Proof.Machine

open Sys2Proof

variable {n : Nat} (x y : BitVec n)

theorem toInt_amoMin : (amoVal .min n x y).toInt = min x.toInt y.toInt := by
  simp only [amoVal, BitVec.slt, decide_eq_true_eq, min_def]
  split <;> split <;> omega

theorem toInt_amoMax : (amoVal .max n x y).toInt = max x.toInt y.toInt := by
  simp only [amoVal, BitVec.slt, decide_eq_true_eq, max_def]
  split <;> split <;> omega

theorem toNat_amoMinu : (amoVal .minu n x y).toNat = min x.toNat y.toNat := by
  simp only [amoVal, BitVec.ult, decide_eq_true_eq, min_def]
  split <;> split <;> omega

theorem toNat_amoMaxu : (amoVal .maxu n x y).toNat = max x.toNat y.toNat := by
  simp only [amoVal, BitVec.ult, decide_eq_true_eq, max_def]
  split <;> split <;> omega

end Sys2Proof.Machine
end

section
/-! AMOs, LR and SC: O4. -/

namespace Sys2Proof.Machine

open Sys2Proof

variable {s t : State} {aq rl dbl : Bool} {d a b : BitVec 5} {v : Nat}

theorem waitAqRl_begun {n : Nat} (order : orderOk s 6 aq rl) : waitAqRl (s.begun n) aq rl = .ok () := waitAqRl_ok order

theorem exec_rvAmo (ready : s.ready) (ha : s.me.plain a) (hb : s.me.plain b) (order : orderOk s 6 aq rl) (hd : t.me.free d) {op : AmoOp} {n : Nat}
    (width : n = if dbl then 64 else 32) (aligned : (s.me.reg a.toNat).toNat % (n / 8) = 0)
    (old : atomicAt (s.begun 4) (s.me.reg a.toNat).toNat (n / 8) .both true
      (fun o => some (amoVal op n (BitVec.ofNat n o) ((s.me.reg b.toNat).setWidth n)).toNat) = .ok (t, v)) :
    exec (.rvAmo op dbl aq rl d a b) s = .next ((t.acquiredIf aq).setX d ((BitVec.ofNat n v).signExtend 64)) := by
  subst width
  refine issue_ok rfl ready ?_
  simp only [rvAmoBody, read2_begun ha hb, res_bind_ok, needAligned_of aligned, waitAqRl_begun order, old]
  exact writeX_setX (free_acquiredIf hd)

/-- The slot's reservation is of the line that its load has watched. -/
def State.reserve (s : State) : State := s.modMe fun h => { h with resv := h.wline.map fun l => { line := l, age := 0 } }
/-- The slot's reservation is gone. -/
def State.unreserve (s : State) : State := s.modMe fun h => { h with resv := none }

theorem free_reserve (h : s.me.free d) : s.reserve.me.free d := by simpa [State.reserve, Slot.free, Slot.isBound, Slot.gen] using h

theorem exec_lr (ready : s.ready) (ha : s.me.plain a) (order : orderOk s 6 aq rl) (hd : t.me.free d)
    (aligned : (s.me.reg a.toNat).toNat % (if dbl then 8 else 4) = 0)
    (load : loadAcc ((s.begun 4).applyInvals (unitDie s.cur.unit)) (s.me.reg a.toNat).toNat (if dbl then 8 else 4) .load true true = .ok (t, v)) :
    exec (.lr dbl aq rl d a) s = .next ((t.acquiredIf aq).reserve.setX d (if dbl then w64 v else sext32 (BitVec.ofNat 32 v))) := by
  refine issue_ok rfl ready ?_
  simp only [lrBody, readX_begun ha, res_bind_ok, needAligned_of aligned, waitAqRl_begun order, State.begun_cur, load]
  exact writeX_setX (free_reserve (free_acquiredIf hd))

theorem exec_sc (ready : s.ready) (ha : s.me.plain a) (hb : s.me.plain b) (order : orderOk s 6 aq rl) {p : Place} {held : Bool} {r : State}
    (aligned : (s.me.reg a.toNat).toNat % (if dbl then 8 else 4) = 0)
    (place : locate (s.begun 4) (s.me.reg a.toNat).toNat (if dbl then 8 else 4) .store false = .ok (t, p)) (memory : p.dev = false)
    (mmrev : mmrevOk t) (holds : resvHolds t.me (lineOf p.pa) = held)
    (request : requestOk t (!held || p.win || (!p.bypass && storeHit t t.cur.unit p.pa)))
    (stored : r = if held then replied (storePlace t p (if dbl then 8 else 4) ((s.me.reg b.toNat).toNat % 2 ^ (8 * if dbl then 8 else 4)) false)
      t.cur.unit t.cur.slot else t)
    (hd : (r.acquiredIf aq).unreserve.me.free d) :
    exec (.sc dbl aq rl d a b) s = .next ((r.acquiredIf aq).unreserve.setX d (if held then 0 else 1)) := by
  refine issue_ok rfl ready ?_
  simp only [scBody, read2_begun ha hb, res_bind_ok, needAligned_of aligned, waitAqRl_begun order, place, memory, Bool.not_false, need_true,
    waitMmrev_ok mmrev, holds, needRequest_ok request, ← stored]
  exact writeX_setX hd

/-- Settles O4: each instruction by its body's steps, each operation by what it is on bits and numbers. -/
theorem atomicsComplete : Obligations.AtomicsComplete := by
  unfold Obligations.AtomicsComplete
  constructor
  · intro s t aq rl d a b v ready ha hb order hd
    refine ⟨?double, fun op => exec_rvAmo (dbl := false) ready ha hb order hd rfl,
      exec_lr (dbl := true) ready ha order hd, exec_lr (dbl := false) ready ha order hd, ?sc⟩
    case double =>
      intro op aligned old
      have step := exec_rvAmo (dbl := true) (n := 64) ready ha hb order hd rfl aligned (by rwa [BitVec.setWidth_eq])
      rwa [BitVec.signExtend_eq] at step
    case sc =>
      intro dbl p aligned place memory mmrev n stored held request last unbound
      exact exec_sc ready ha hb order aligned place memory mmrev rfl request rfl unbound
  · intro n x y
    refine ⟨rfl, BitVec.toNat_add x y, fun i => ⟨BitVec.getLsbD_xor, BitVec.getLsbD_and, BitVec.getLsbD_or⟩, toInt_amoMin x y, toInt_amoMax x y,
      toNat_amoMinu x y, toNat_amoMaxu x y⟩

end Sys2Proof.Machine
end

section
/-! SUPPORT. The caches and range tables run no hart: no movement of lines or entries changes one, or the agent whose step it is. -/

namespace Sys2Proof.Machine

open Sys2Proof

/-- The harts, and the agent whose step it is. -/
def State.agents (s : State) : FMap Slot × Agent := (s.harts, s.cur)

theorem State.harts_of_agents {s t : State} (h : t.agents = s.agents) : t.harts = s.harts := congrArg Prod.fst h
theorem State.cur_of_agents {s t : State} (h : t.agents = s.agents) : t.cur = s.cur := congrArg Prod.snd h

variable (s : State)

@[simp] theorem State.modUnit_agents (u : Nat) (f : UnitSt → UnitSt) : (s.modUnit u f).agents = s.agents := rfl
@[simp] theorem State.modDie_agents (d : Nat) (f : Die → Die) : (s.modDie d f).agents = s.agents := rfl
@[simp] theorem State.l2_agents (x : List L2Line) : State.agents { s with l2 := x } = s.agents := rfl
@[simp] theorem State.modPort_agents (p : Nat) (f : Port → Port) : (s.modPort p f).agents = s.agents := rfl
@[simp] theorem State.modIfile_agents (p : Nat) (f : IFile → IFile) : (s.modIfile p f).agents = s.agents := rfl
@[simp] theorem State.modAplic_agents (p : Nat) (f : Aplic → Aplic) : (s.modAplic p f).agents = s.agents := rfl
@[simp] theorem State.l2Set_agents (x : L2Line) : (s.l2Set x).agents = s.agents := rfl

/-! ### Errors of a port -/

@[simp] theorem sendMsi_agents (pa i : Nat) : (sendMsi s pa i).agents = s.agents := by
  unfold sendMsi ifilePut
  repeat' split
  all_goals simp

@[simp] theorem aplicForward_agents (d : Nat) : (aplicForward s d).agents = s.agents := by
  refine foldl_keeps State.agents _ (fun t i => ?_) _ _
  dsimp only
  split <;> simp

@[simp] theorem portSignal_agents (p k : Nat) : (portSignal s p k).agents = s.agents := by
  unfold portSignal aplicPulse aplicSet
  repeat' split
  all_goals simp

@[simp] theorem portError_agents (p : Nat) : (portError s p).agents = s.agents := by simp [portError]

/-! ### The home slices -/

@[simp] theorem State.addPoison_agents (f : Nat) : (s.addPoison f).agents = s.agents := by
  unfold State.addPoison
  dsimp only
  split <;> rfl

@[simp] theorem State.addLinePoison_agents (line : Nat) (b : BitVec 4) : (s.addLinePoison line b).agents = s.agents := by
  refine foldl_keeps State.agents _ (fun t i => ?_) _ _
  split <;> simp

@[simp] theorem State.l1Drop_agents (u line : Nat) : (s.l1Drop u line).agents = s.agents := by
  unfold State.l1Drop
  split <;> simp

@[simp] theorem State.dropQuads_agents (d : Nat) (v : BitVec 24) (line : Nat) (b : Option Nat) :
    (s.dropQuads d v line b).agents = s.agents :=
  foldl_keeps State.agents (fun t u => t.l1Drop u line) (fun t u => t.l1Drop_agents u line) _ _

@[simp] theorem State.rdcDrop_agents (d line : Nat) : (s.rdcDrop d line).agents = s.agents := by
  unfold State.rdcDrop
  split <;> simp

@[simp] theorem State.l2Evict_agents (x : L2Line) : (s.l2Evict x).agents = s.agents := by
  unfold State.l2Evict
  dsimp only
  repeat' split
  all_goals simp

@[simp] theorem State.l2Room_agents (line : Nat) : (s.l2Room line).agents = s.agents := by
  unfold State.l2Room
  repeat' split
  all_goals simp

@[simp] theorem State.l2Fill_agents (line : Nat) (b : Bool) : (s.l2Fill line b).agents = s.agents := by
  unfold State.l2Fill
  split
  · rfl
  · dsimp only
    generalize L2Line.fresh line _ = x
    split <;> simp

@[simp] theorem State.recall_agents (line : Nat) : (s.recall line).agents = s.agents := by
  unfold State.recall
  dsimp only
  split <;> simp

@[simp] theorem State.homeRead_agents (u line : Nat) : (s.homeRead u line).agents = s.agents := by simp [State.homeRead]
@[simp] theorem State.homePeek_agents (line : Nat) : (s.homePeek line).agents = s.agents := by simp [State.homePeek]

@[simp] theorem State.sendInval_agents (line : Nat) : (s.sendInval line).agents = s.agents := by
  unfold State.sendInval
  split <;> simp

@[simp] theorem State.homeOwn_agents (u line : Nat) : (s.homeOwn u line).agents = s.agents := by simp [State.homeOwn]
@[simp] theorem State.homeRdcRead_agents (line : Nat) : (s.homeRdcRead line).agents = s.agents := by simp [State.homeRdcRead]
@[simp] theorem State.homeWrite_agents (line : Nat) : (s.homeWrite line).agents = s.agents := by simp [State.homeWrite]

/-! ### The remote-data caches and L1 -/

@[simp] theorem State.applyInval_agents (d : Nat) : (s.applyInval d).agents = s.agents := by
  unfold State.applyInval
  split <;> simp

@[simp] theorem State.applyInvals_agents (d : Nat) : (s.applyInvals d).agents = s.agents :=
  foldl_keeps State.agents _ (fun t _ => t.applyInval_agents d) _ _

@[simp] theorem State.rdcLoad_agents (d line : Nat) : (s.rdcLoad d line).agents = s.agents := by
  unfold State.rdcLoad
  dsimp only
  repeat' split
  all_goals simp

@[simp] theorem State.l1Insert_agents (u pa : Nat) (d : Bool) (c : Option (BitVec 2048)) (b : BitVec 4) :
    (s.l1Insert u pa d c b).agents = s.agents := by
  unfold State.l1Insert
  dsimp only
  split
  · rfl
  · split <;> (try split) <;> simp

@[simp] theorem State.l1Fill_agents (u pa : Nat) : (s.l1Fill u pa).agents = s.agents := by
  unfold State.l1Fill State.rdcFill
  dsimp only
  repeat' split
  all_goals simp

@[simp] theorem State.readHome_agents (pa : Nat) (nc : Bool) : (s.readHome pa nc).agents = s.agents := by
  unfold State.readHome
  split <;> simp

@[simp] theorem State.readSector_agents (u pa n : Nat) (a b : Bool) : (s.readSector u pa n a b).1.agents = s.agents := by
  unfold State.readSector State.l1Touch
  dsimp only
  repeat' split
  all_goals simp

@[simp] theorem State.readSpan_agents (u pa n : Nat) (a b : Bool) : (s.readSpan u pa n a b).1.agents = s.agents := by
  refine foldl_keeps (fun st : State × Nat => st.1.agents) _ ?_ _ _
  rintro ⟨t, x⟩ p
  simp

/-! ### Range tables -/

@[simp] theorem State.setTable_agents (u : Nat) (r : List RangeEntry) : (s.setTable u r).agents = s.agents := by
  unfold State.setTable
  split <;> rfl

@[simp] theorem findRange_agents (u : Nat) (j : BitVec 16) (va : Nat) : (findRange s u j va).1.agents = s.agents := by
  unfold findRange touchRange installRange
  repeat' split
  all_goals simp

@[simp] theorem overlapReplied_agents (u pa n : Nat) : (overlapReplied s u pa n).agents = s.agents := by
  unfold overlapReplied
  dsimp only
  split <;> simp

@[simp] theorem overlapReplied_bytes (u pa n : Nat) : (overlapReplied s u pa n).bytes = s.bytes := by
  unfold overlapReplied
  dsimp only
  split <;> simp

end Sys2Proof.Machine
end

section
/-! SUPPORT. How a place is found, and what the search leaves: a window's state as it was, a range's with its table touched (15 R350). -/

namespace Sys2Proof.Machine

open Sys2Proof

variable {s t : State} {va n pa u : Nat} {a : Acc} {big : Bool} {e : RangeEntry} {p : Place} {j : BitVec 16}

/-- A window's place lies in a core's or a quad's store. -/
theorem windowAddr_high (h : windowAddr s va n a = .ok (some pa)) : 2 ^ 52 ≤ pa := by
  have store (o : Nat) : 2 ^ 52 ≤ storeBase s.cur.unit + o := by rw [storeBase]; omega
  have quad (o : Nat) : 2 ^ 52 ≤ quadBase (quadOf s.cur.unit) + o := by rw [quadBase]; omega
  simp only [windowAddr, raise] at h
  split_ifs at h <;> simp only [Except.ok.injEq, Option.some.injEq, reduceCtorEq] at h
  · exact h ▸ store _
  · exact h ▸ quad _

/-! ### Translation -/

theorem translate_ok {r : State} (h : translate s u j va a = (r, .ok pa e)) :
    ∃ f, (findRange s u j va).2 = some f ∧ stateRule (findRange s u j va).1 u f va a = (r, .ok pa e) := by
  unfold translate at h
  split at h
  · cases h
  · split at h
    · split at h <;> cases h
    · rename_i found
      rw [found]
      split_ifs at h
      · cases h
      · cases h
      · cases h
      · exact ⟨_, rfl, h⟩

/-- But for the cancel of an outbound order, a state rule changes at most the unit's range table. -/
theorem stateRule_keeps (other : a.w = true → e.state ≠ stOutbound) :
    (stateRule s u e va a).1.bytes = s.bytes ∧ (stateRule s u e va a).1.agents = s.agents := by
  unfold stateRule
  split
  · exact ⟨rfl, rfl⟩
  · split
    · split
      · exact ⟨rfl, rfl⟩
      · split
        · exact ⟨State.setTable_bytes .., State.setTable_agents ..⟩
        · exact ⟨rfl, rfl⟩
    · split
      · split <;> exact ⟨rfl, rfl⟩
      · split
        · rename_i outbound
          rw [if_neg fun w => other w outbound]
          exact ⟨rfl, rfl⟩
        · exact ⟨rfl, rfl⟩

/-- A translation changes no byte and no hart, unless a store meets an outbound range. -/
theorem translate_keeps {r : State} (h : translate s u j va a = (r, .ok pa e))
    (other : a.w = true → ∀ f, (findRange s u j va).2 = some f → f.state ≠ stOutbound) : r.bytes = s.bytes ∧ r.agents = s.agents := by
  obtain ⟨f, found, rule⟩ := translate_ok h
  have kept := stateRule_keeps (s := (findRange s u j va).1) (u := u) (va := va) fun w => other w f found
  rwa [rule, findRange_bytes, findRange_agents] at kept

/-- A place is a window's, with the state as it was, or a translation's, after the replies that have come. -/
theorem locate_found (h : locate s va n a big = .ok (t, p)) :
    (windowAddr s va n a = .ok (some p.pa) ∧ t = s ∧ p.win = true)
      ∨ ∃ r e, translate s s.cur.unit s.mine.job va a = (r, .ok p.pa e) ∧ p.win = false ∧ (t = r ∨ t = overlapReplied r s.cur.unit p.pa n) := by
  simp only [locate] at h
  obtain ⟨-, -, h⟩ := res_bind_eq_ok h
  obtain ⟨window, found, h⟩ := res_bind_eq_ok h
  cases window with
  | some q =>
    cases h
    exact .inl ⟨found, rfl, rfl⟩
  | none =>
    obtain ⟨-, -, h⟩ := res_bind_eq_ok h
    split at h
    · cases h
    · cases h
    · rename_i r q e translated
      have last : (if a.x = true then r else overlapReplied r s.cur.unit q n) = t ∧ q = p.pa ∧ p.win = false := by
        split at h
        all_goals
          obtain ⟨-, -, h⟩ := res_bind_eq_ok h
          obtain ⟨-, -, h⟩ := res_bind_eq_ok h
          obtain ⟨-, -, h⟩ := res_bind_eq_ok h
          cases h
          exact ⟨rfl, rfl, rfl⟩
      obtain ⟨rest, rfl, out⟩ := last
      refine .inr ⟨r, e, translated, out, ?_⟩
      rw [← rest]
      split
      · exact .inl rfl
      · exact .inr rfl

theorem locate_win (h : locate s va n a big = .ok (t, p)) (win : p.win = true) : t = s ∧ 2 ^ 52 ≤ p.pa := by
  obtain ⟨window, same, -⟩ | ⟨r, e, -, out, -⟩ := locate_found h
  · exact ⟨same, windowAddr_high window⟩
  · rw [win] at out
    cases out

/-- Finding a place changes no byte and no hart, unless a store meets an outbound range. -/
theorem locate_keeps (h : locate s va n a big = .ok (t, p))
    (other : a.w = true → ∀ e, (findRange s s.cur.unit s.mine.job va).2 = some e → e.state ≠ stOutbound) :
    t.bytes = s.bytes ∧ t.agents = s.agents := by
  obtain ⟨-, rfl, -⟩ | ⟨r, e, translated, -, last⟩ := locate_found h
  · exact ⟨rfl, rfl⟩
  · obtain ⟨bytes, agents⟩ := translate_keeps translated other
    obtain rfl | rfl := last
    · exact ⟨bytes, agents⟩
    · rw [overlapReplied_bytes, overlapReplied_agents]
      exact ⟨bytes, agents⟩

end Sys2Proof.Machine
end

section
/-! SUPPORT. A load, a store and an atomic at a place that is no device register (09 R232, R234, R235). -/

namespace Sys2Proof.Machine

open Sys2Proof

variable {s t : State} {va n pa u v : Nat} {a : Acc} {p : Place}

/-! ### The bytes of a span -/

/-- The cells of n bytes at an address. -/
def State.spanCells (s : State) (pa n : Nat) (a : Nat) : Prop := ∃ i, i < n ∧ a = s.cell (pa + i)

theorem not_spanCells {c : Nat} (h : ∀ i, i < n → c ≠ s.cell (pa + i)) : ¬s.spanCells pa n c := by
  rintro ⟨i, hi, rfl⟩
  exact h i hi rfl

theorem State.cell_add_store (h : 2 ^ 52 ≤ pa) (i : Nat) : s.cell (pa + i) = s.cell pa + i := by
  rw [s.cell_of_store h, s.cell_of_store (by omega)]

/-- Bytes put at cells that follow one another are written there alone, and read back. -/
theorem put_span (wf : memWf s.mem = true) (put : t.bytes = (memPut s.mem (s.cell pa) n v, s.pkg.capwin))
    (next : ∀ i, i < n → s.cell (pa + i) = s.cell pa + i) :
    WritesOnly s t (s.spanCells pa n) := .of_put wf put fun i hi => ⟨i, hi, (next i hi).symm⟩

theorem get_put (wf : memWf s.mem = true) (put : t.bytes = (memPut s.mem (s.cell pa) n v, s.pkg.capwin)) (fits : v < 2 ^ (8 * n)) :
    t.get pa n = v := by
  have mem : t.mem = memPut s.mem (s.cell pa) n v := congrArg Prod.fst put
  rw [State.get, State.cell_of_capwin (congrArg Prod.snd put), mem, memGet_memPut_same wf, Nat.mod_eq_of_lt]
  rwa [Nat.pow_mul] at fits

/-! ### What the harts see of a write -/

/-- A slot without what a write by another hart may change of it: its watch, its reservation, its wait and its streams. -/
def Slot.unseeing (h : Slot) : Slot := { h with whit := false, resv := none, waitOn := none, sg := [] }

theorem Slot.unseeing_sees (h : Slot) (own : Bool) (line : Nat) : (h.sees own line).unseeing = h.unseeing := rfl

theorem Slot.eq_of_unseeing {h g : Slot} (same : h.unseeing = g.unseeing) :
    { h with whit := g.whit, resv := g.resv, waitOn := g.waitOn, sg := g.sg } = g :=
  congrArg (fun k : Slot => { k with whit := g.whit, resv := g.resv, waitOn := g.waitOn, sg := g.sg }) same

/-- The harts, without what writes by others may change of them. -/
def State.unseeing (s : State) : FMap Slot := s.harts.map fun q => (q.1, q.2.unseeing)

theorem fget_map {β γ : Type} (m : FMap β) (k : Nat) (d : β) (f : β → γ) : fget (m.map fun q => (q.1, f q.2)) k (f d) = f (fget m k d) := by
  induction m with
  | nil => rfl
  | cons q m ih =>
    simp only [List.map_cons, fget]
    split
    · rfl
    · exact ih

theorem State.hart_unseeing {r : State} (h : r.unseeing = s.unseeing) (i k : Nat) : (r.hart i k).unseeing = (s.hart i k).unseeing := by
  rw [State.hart, State.hart, ← fget_map _ _ _ Slot.unseeing, ← fget_map _ _ _ Slot.unseeing]
  exact congrArg (fget · _ _) h

theorem State.unseeing_of_agents (h : t.agents = s.agents) : t.unseeing = s.unseeing := by rw [State.unseeing, State.harts_of_agents h, State.unseeing]

theorem State.wrote_unseeing (s : State) (who line : Nat) : (s.wrote who line).unseeing = s.unseeing := by
  simp only [State.unseeing, State.wrote, List.map_map]
  rfl

theorem State.putHome_unseeing (s : State) (who pa n v : Nat) (nc : Bool) : (s.putHome who pa n v nc).unseeing = s.unseeing := by
  unfold State.putHome
  split
  · exact unseeing_of_agents (portError_agents ..)
  · exact wrote_unseeing ..

theorem State.writeSector_unseeing (s : State) (u : Nat) (w : WtAccess) (v : Nat) (b nc : Bool) :
    (s.writeSector u w v b nc).unseeing = s.unseeing := by
  unfold State.writeSector
  dsimp only
  split
  · exact wrote_unseeing ..
  · rw [putHome_unseeing]
    refine unseeing_of_agents ?_
    repeat' split
    all_goals simp

theorem State.writeSpan_unseeing (s : State) (u : Nat) (w : WtAccess) (v : Nat) (b nc : Bool) : (s.writeSpan u w v b nc).unseeing = s.unseeing :=
  foldl_keeps State.unseeing _ (fun t _ => t.writeSector_unseeing ..) _ _

/-! ### Loads -/

theorem needClean_clean (h : (flits p.pa n).find? (copyBad s s.cur.unit p.bypass) = none) : needClean s p n = .ok () := by rw [needClean, h]

theorem needClean_bad {f : Nat} (h : (flits p.pa n).find? (copyBad s s.cur.unit p.bypass) = some f) :
    needClean s p n = .error (.trap cPoison (p.va + 64 * f - p.pa)) := by
  rw [needClean, h]
  rfl

/-- A load at its place reads the span and checks what it has read. -/
theorem loadAt_place (place : locate s va n .load false = .ok (t, p)) (memory : p.dev = false)
    (request : requestOk t (p.win || sectorsHit (fun a => (t.l1Hit t.cur.unit a).isSome) p.pa n)) :
    loadAt s va n = needClean (t.readSpan t.cur.unit p.pa n true p.bypass).1 p n >>= fun _ =>
      .ok ((t.readSpan t.cur.unit p.pa n true p.bypass).1.watchLine p.pa n, (t.readSpan t.cur.unit p.pa n true p.bypass).2) := by
  simp only [loadAt, loadAcc, place, memory, needRequest_ok request, res_bind_ok, Bool.false_eq_true, if_false]

/-! ### Stores -/

theorem storeAt_place (place : locate s va n .store false = .ok (t, p)) (memory : p.dev = false) (mmrev : mmrevOk s)
    (request : requestOk t (p.win || (!p.bypass && sectorsHit (storeHit t t.cur.unit) p.pa n))) :
    storeAt s va n v = .ok (storePlaceAt t s.mine.step p n v false) := by
  simp only [storeAt, storeAcc, storePart, waitMmrev_ok mmrev, place, memory, needRequest_ok request, res_bind_ok, Bool.false_eq_true, if_false,
    Bool.not_false, Bool.true_and]

section
variable {step : BitVec 48} {b : Bool}

theorem storePlaceAt_window (win : p.win = true) :
    (storePlaceAt t step p n v b).bytes = (memPut t.mem (t.cell p.pa) n v, t.pkg.capwin) := by
  rw [storePlaceAt, if_pos win, State.wrote_bytes, State.clearPoison_bytes, State.put_bytes t rfl]

theorem storePlaceAt_writesOnly (wf : memWf t.mem = true) (high : p.win = true → 2 ^ 52 ≤ p.pa) :
    WritesOnly t (storePlaceAt t step p n v b) (t.spanCells p.pa n) := by
  by_cases win : p.win = true
  · exact put_span wf (storePlaceAt_window win) fun i _ => State.cell_add_store (high win) i
  · rw [storePlaceAt, if_neg win]
    exact t.writeSpan_writesOnly wf

theorem storePlaceAt_unseeing : (storePlaceAt t step p n v b).unseeing = t.unseeing := by
  unfold storePlaceAt
  split
  · exact State.wrote_unseeing ..
  · exact State.writeSpan_unseeing ..

/-- A store inside one sector that the caches may keep reads back. -/
theorem storePlaceAt_get (wf : memWf t.mem = true) (kept : p.bypass = false) (pos : 0 < n) (one : p.pa % 128 + n ≤ 128) (fits : v < 2 ^ (8 * n)) :
    (storePlaceAt t step p n v b).get p.pa n = v := by
  refine get_put wf ?_ fits
  by_cases win : p.win = true
  · exact storePlaceAt_window win
  · rw [storePlaceAt, if_neg win, kept, t.writeSpan_sector pos one fits]

end

/-! ### Atomics -/

/-- The state in which an atomic at a place works: past the copies of the line, if it has a home. -/
def State.peekAt (s : State) (p : Place) : State := if p.win then s else s.homePeek (lineOf p.pa)

theorem State.peekAt_eq (s : State) (p : Place) : s.peekAt p = if p.win then s else s.homePeek (lineOf p.pa) := rfl

theorem State.peekAt_bytes (p : Place) : (s.peekAt p).bytes = s.bytes := by
  unfold State.peekAt
  split <;> simp

theorem atomicAt_place {win : Bool} {f : Nat → Option Nat} (place : locate s va n a false = .ok (t, p)) (memory : p.dev = false)
    (window : p.win = true → win = true) (request : requestOk t p.win) (mmrev : mmrevOk s) (clean : (t.peekAt p).poisonIn p.pa n = none) :
    atomicAt s va n a win f = .ok ((t.peekAt p).homeAtomic (t.peekAt p).cur.unit (t.peekAt p).cur.slot p.pa n f) := by
  have opens : (!p.win || win) = true := by cases h : p.win <;> simp [window, h]
  have unpoisoned : needCleanHome (t.peekAt p) p n = .ok () := by rw [needCleanHome, clean]
  simp only [atomicAt, atomicPart, place, memory, opens, needRequest_ok request, ← State.peekAt_eq t, unpoisoned, waitMmrev_ok mmrev, res_bind_ok,
    Bool.not_false, need_true]

/-- What an atomic at a place yields and writes: nothing where its operation fails. -/
theorem homeAtomic_place {k : Nat} {f : Nat → Option Nat} (same : t.bytes = s.bytes) :
    (t.homeAtomic u k pa n f).2 = s.get pa n
      ∧ (f (s.get pa n) = none → (t.homeAtomic u k pa n f).1.bytes = s.bytes)
      ∧ ∀ v, f (s.get pa n) = some v → (t.homeAtomic u k pa n f).1.bytes = (memPut s.mem (s.cell pa) n v, s.pkg.capwin) := by
  have get : t.get pa n = s.get pa n := by rw [State.get, State.get, State.mem_of_bytes same, State.cell_of_bytes same]
  have map : t.pkg.capwin = s.pkg.capwin := congrArg Prod.snd same
  obtain ⟨old, bytes⟩ := t.homeAtomic_bytes (u := u) (k := k) (pa := pa) (n := n) (f := f)
  rw [get] at old bytes
  refine ⟨old, fun fails => ?_, fun v writes => ?_⟩
  · rw [bytes, fails]
    exact same
  · rw [bytes, writes, State.mem_of_bytes same, State.cell_of_bytes same, map]

end Sys2Proof.Machine
end

section
/-! What a load, a store and an atomic do: O14. -/

namespace Sys2Proof.Machine

open Sys2Proof

/-- Settles O14: a load by its read of the span, a store by the cells that it writes, an atomic by `homeAtomic_place`, and the search
for the place by `locate_keeps`. -/
theorem accessEffects : Obligations.AccessEffects := by
  unfold Obligations.AccessEffects
  refine ⟨fun s t p va n v memory => ⟨?load, ?store⟩, ?search, ?atomic⟩
  case load =>
    intro place request r
    have read := loadAt_place place memory request
    refine ⟨fun clean => ⟨?_, t.readSpan_mem .., State.harts_of_agents (t.readSpan_agents ..)⟩, fun f bad => ?_⟩
    · rw [read, needClean_clean clean]
      rfl
    · rw [read, needClean_bad bad]
      rfl
  case store =>
    intro place mmrev request wf
    have written := storePlaceAt_writesOnly (step := s.mine.step) (n := n) (v := v) (b := false) wf fun win => (locate_win place win).2
    exact ⟨_, storeAt_place place memory mmrev request, written.wf, fun c apart => written.out c (not_spanCells apart),
      fun i k => Slot.eq_of_unseeing (State.hart_unseeing storePlaceAt_unseeing i k), fun kept pos one fits => storePlaceAt_get wf kept pos one fits⟩
  case search =>
    intro s t p va n a big place other
    obtain ⟨bytes, agents⟩ := locate_keeps place other
    exact ⟨State.mem_of_bytes bytes, State.cur_of_agents agents, State.harts_of_agents agents⟩
  case atomic =>
    intro s t p va n a win f place memory window request mmrev clean wf
    have located := atomicAt_place (f := f) place memory window request mmrev clean
    obtain ⟨old, fails, writes⟩ := homeAtomic_place (u := (t.peekAt p).cur.unit) (k := (t.peekAt p).cur.slot) (pa := p.pa) (n := n) (f := f)
      (t.peekAt_bytes p)
    generalize (t.peekAt p).homeAtomic _ _ _ _ _ = r at located old fails writes
    have next (one : p.pa % 128 + n ≤ 128) (i : Nat) (hi : i < n) : t.cell (p.pa + i) = t.cell p.pa + i := t.cell_add (by omega)
    refine ⟨r.1, by rw [located, ← old], ?wf, fun none => State.mem_of_bytes (fails none), ?frame, fun v some pos one fits => get_put wf (writes v some) fits⟩
    case wf =>
      cases result : f (t.get p.pa n) with
      | none => rwa [State.mem_of_bytes (fails result)]
      | some v =>
        rw [show r.1.mem = _ from congrArg Prod.fst (writes v result)]
        exact memPut_wf wf
    case frame =>
      intro one c apart
      cases result : f (t.get p.pa n) with
      | none => rw [State.byteAt, State.mem_of_bytes (fails result), State.byteAt]
      | some v => exact (put_span wf (writes v result) (next one)).out c (not_spanCells apart)

end Sys2Proof.Machine
end

section
/-! SUPPORT. What each movement of a cache line leaves where it was: lines of L1, of a slice and of a remote-data cache, invalidations, poison. -/

namespace Sys2Proof.Machine

open Sys2Proof

variable {s t : State} {u c d line pa : Nat}

/-! ### Numbers -/

theorem lineOf_linePa (line : Nat) : lineOf (linePa line) = line := by rw [lineOf, linePa]; omega

theorem dieQuad_lt (q : Nat) : dieQuad q < 24 := by
  unfold dieQuad
  split <;> omega

theorem sectorOf_lt (pa : Nat) : sectorOf pa < 2 := by rw [sectorOf]; omega

/-- A bit that is set in a vector. -/
theorem getLsbD_set {n k : Nat} (x : BitVec n) (h : k < n) : (x ||| (1#n <<< k)).getLsbD k = true := by
  simp [h]

/-! ### Lists of lines -/

theorem find?_filter_none {β : Type} {p q : β → Bool} {l : List β} (h : l.find? p = none) : (l.filter q).find? p = none := by
  rw [List.find?_eq_none] at h ⊢
  exact fun x hx => h x (List.mem_of_mem_filter hx)

/-! ### What movements leave but in units and dies -/

/-- Everything but the units and the dies. -/
def State.offCore (s : State) : State := { s with units := [], dies := [] }

@[simp] theorem State.l1Drop_offCore (s : State) (u line : Nat) : (s.l1Drop u line).offCore = s.offCore := by
  unfold State.l1Drop
  split <;> rfl

@[simp] theorem State.dropQuads_offCore (s : State) (d : Nat) (v : BitVec 24) (line : Nat) (b : Option Nat) :
    (s.dropQuads d v line b).offCore = s.offCore :=
  foldl_keeps State.offCore (fun t u => t.l1Drop u line) (fun t u => t.l1Drop_offCore u line) _ _

@[simp] theorem State.rdcDrop_offCore (s : State) (d line : Nat) : (s.rdcDrop d line).offCore = s.offCore := by
  unfold State.rdcDrop
  split
  · rfl
  · exact State.dropQuads_offCore ..

@[simp] theorem State.sendInval_offCore (s : State) (line : Nat) : (s.sendInval line).offCore = s.offCore := by
  unfold State.sendInval
  split <;> rfl

theorem State.l2_of_offCore (h : t.offCore = s.offCore) : t.l2 = s.l2 := show t.offCore.l2 = s.offCore.l2 by rw [h]
theorem State.pkg_of_offCore (h : t.offCore = s.offCore) : t.pkg = s.pkg := show t.offCore.pkg = s.offCore.pkg by rw [h]
theorem State.poison_of_offCore (h : t.offCore = s.offCore) : t.poison = s.poison := show t.offCore.poison = s.offCore.poison by rw [h]

theorem State.dirOf_of_l2 (h : t.l2 = s.l2) (line : Nat) : t.dirOf line = s.dirOf line := by
  rw [State.dirOf, State.l2Find, h, ← State.l2Find, ← State.dirOf]

theorem State.dirOf_of_offCore (h : t.offCore = s.offCore) (line : Nat) : t.dirOf line = s.dirOf line := dirOf_of_l2 (l2_of_offCore h) line

theorem homeDie_of_bytes (h : t.bytes = s.bytes) (pa : Nat) : homeDie t pa = homeDie s pa := by
  have map : t.pkg.capwin = s.pkg.capwin := congrArg Prod.snd h
  unfold homeDie capWindow?
  rw [map]

/-! ### Directory entries -/

theorem State.dirOf_line (s : State) (line : Nat) : (s.dirOf line).line = line := by
  unfold State.dirOf State.l2Find
  cases found : s.l2.find? fun x => x.line == line with
  | none => rfl
  | some x => simpa using List.find?_some found

theorem State.dirOf_l2Set (s : State) {x : L2Line} (h : x.line = line) : (s.l2Set x).dirOf line = x := by
  simp [State.dirOf, State.l2Find, State.l2Set, h]

theorem State.dirOf_l2Set_ne (s : State) {x : L2Line} (h : x.line ≠ line) : (s.l2Set x).dirOf line = s.dirOf line := by
  have other (y : L2Line) (hy : (y.line == line) = true) : (y.line != x.line) = true := by
    simp only [beq_iff_eq] at hy
    simp [hy, Ne.symm h]
  have found : (s.l2.filter fun y => y.line != x.line).find? (fun y => y.line == line) = s.l2.find? fun y => y.line == line := by
    rw [List.find?_filter]
    congr 1
    funext y
    cases hy : y.line == line <;> simp [hy, other]
  simp [State.dirOf, State.l2Find, State.l2Set, h, found]

/-- An entry that a recall leaves has no owner. -/
theorem State.recall_owner (s : State) (line : Nat) : ((s.recall line).dirOf line).owner = none := by
  unfold State.recall
  dsimp only
  split
  · assumption
  · rw [State.dirOf_l2Set _ (by exact s.dirOf_line line)]

/-! ### L1 -/

theorem State.l1Find_of_unit (h : t.unit c = s.unit c) (line : Nat) : t.l1Find c line = s.l1Find c line := by
  rw [State.l1Find, h, State.l1Find]

theorem State.l1Drop_self (s : State) (u line : Nat) : (s.l1Drop u line).l1Find u line = none := by
  unfold State.l1Drop
  split
  · simp [State.l1Find]
  · rename_i absent
    simpa using absent

theorem State.l1Drop_absent (h : s.l1Find c line = none) (u other : Nat) : (s.l1Drop u other).l1Find c line = none := by
  unfold State.l1Drop
  split
  · by_cases same : c = u
    · subst same
      rw [State.l1Find, State.unit_modUnit_same]
      exact find?_filter_none h
    · rwa [State.l1Find_of_unit (State.unit_modUnit_ne _ same)]
  · exact h

/-- A drop reaches every core of the die whose quad the vector names, but for one. -/
theorem State.dropQuads_l1Find {v : BitVec 24} {but : Option Nat} (core : isCore c = true) (die : unitDie c = d)
    (named : v.getLsbD (dieQuad (quadOf c)) = true) (other : some c ≠ but) : (s.dropQuads d v line but).l1Find c line = none := by
  have listed : c ∈ (upTo 192).filter fun u => unitDie u == d && v.getLsbD (dieQuad (quadOf u)) && some u != but := by
    simp only [isCore, decide_eq_true_eq] at core
    simp [upTo, core, die, named, other]
  unfold State.dropQuads
  generalize List.filter _ _ = cores at listed
  induction cores generalizing s with
  | nil => cases listed
  | cons e rest ih =>
    obtain rfl | later := List.mem_cons.1 listed
    · exact List.foldlRecOn (motive := fun t : State => t.l1Find c line = none) rest _ (s.l1Drop_self ..) fun t h e _ => State.l1Drop_absent h e line
    · exact ih later

/-! ### Dies -/

@[simp] theorem State.l1Drop_dies (s : State) (u line : Nat) : (s.l1Drop u line).dies = s.dies := by
  unfold State.l1Drop
  split <;> rfl

@[simp] theorem State.dropQuads_dies (s : State) (d : Nat) (v : BitVec 24) (line : Nat) (b : Option Nat) :
    (s.dropQuads d v line b).dies = s.dies :=
  foldl_keeps State.dies (fun t u => t.l1Drop u line) (fun t u => t.l1Drop_dies u line) _ _

theorem State.die_of_dies (h : t.dies = s.dies) (d : Nat) : t.die d = s.die d := by rw [State.die, h, State.die]

theorem State.rdcFind_of_dies (h : t.dies = s.dies) (d line : Nat) : t.rdcFind d line = s.rdcFind d line := by
  rw [State.rdcFind, State.die_of_dies h, State.rdcFind]

theorem State.rdcDrop_self (s : State) (d line : Nat) : (s.rdcDrop d line).rdcFind d line = none := by
  unfold State.rdcDrop
  split
  · assumption
  · simp [State.rdcFind]

/-- The invalidations that are on their way to a die. -/
def State.invals (s : State) (d : Nat) : List Nat := (s.die d).inval

theorem State.invals_of_dies (h : t.dies = s.dies) (d : Nat) : t.invals d = s.invals d := by rw [State.invals, State.die_of_dies h, State.invals]

theorem State.modDie_invals {f : Die → Die} (h : ∀ x, (f x).inval = x.inval) (s : State) (d c : Nat) : (s.modDie d f).invals c = s.invals c := by
  by_cases same : c = d
  · rw [same, State.invals, State.die_modDie_same, h, State.invals]
  · rw [State.invals, State.die_modDie_ne _ same, State.invals]

@[simp] theorem State.rdcDrop_invals (s : State) (d line c : Nat) : (s.rdcDrop d line).invals c = s.invals c := by
  unfold State.rdcDrop
  split
  · rfl
  · rw [modDie_invals fun x => by rfl]
    exact invals_of_dies (dropQuads_dies ..) c

end Sys2Proof.Machine
end

section
/-! SUPPORT. A port's signal changes the interrupt controllers alone, a port's error its ERR too; poison is only added. -/

namespace Sys2Proof.Machine

open Sys2Proof

variable {s t : State} {u c d p line pa : Nat}

/-! ### Signals -/

/-- Everything but the interrupt controllers and files. -/
def State.unsignalled (s : State) : State := { s with pkg := { s.pkg with aplics := [], ifiles := [] } }

@[simp] theorem State.modIfile_unsignalled (s : State) (f : Nat) (g : IFile → IFile) : (s.modIfile f g).unsignalled = s.unsignalled := rfl
@[simp] theorem State.modAplic_unsignalled (s : State) (d : Nat) (g : Aplic → Aplic) : (s.modAplic d g).unsignalled = s.unsignalled := rfl

@[simp] theorem ifilePut_unsignalled (s : State) (f off v : Nat) : (ifilePut s f off v).unsignalled = s.unsignalled := by
  unfold ifilePut
  split <;> simp

@[simp] theorem sendMsi_unsignalled (s : State) (pa i : Nat) : (sendMsi s pa i).unsignalled = s.unsignalled := by
  unfold sendMsi
  repeat' split
  all_goals simp

@[simp] theorem aplicForward_unsignalled (s : State) (d : Nat) : (aplicForward s d).unsignalled = s.unsignalled := by
  refine foldl_keeps State.unsignalled _ (fun t i => ?_) _ _
  dsimp only
  split <;> simp

@[simp] theorem portSignal_unsignalled (s : State) (p k : Nat) : (portSignal s p k).unsignalled = s.unsignalled := by
  unfold portSignal aplicPulse aplicSet
  repeat' split
  all_goals simp

theorem State.port_of_unsignalled (h : t.unsignalled = s.unsignalled) (p : Nat) : t.port p = s.port p := by
  have ports : t.unsignalled.pkg.ports = s.unsignalled.pkg.ports := by rw [h]
  exact congrArg (fget · p Port.reset) ports

theorem State.dies_of_unsignalled (h : t.unsignalled = s.unsignalled) : t.dies = s.dies := show t.unsignalled.dies = s.unsignalled.dies by rw [h]
theorem State.l2_of_unsignalled (h : t.unsignalled = s.unsignalled) : t.l2 = s.l2 := show t.unsignalled.l2 = s.unsignalled.l2 by rw [h]
theorem State.poison_of_unsignalled (h : t.unsignalled = s.unsignalled) : t.poison = s.poison :=
  show t.unsignalled.poison = s.unsignalled.poison by rw [h]
theorem State.units_of_unsignalled (h : t.unsignalled = s.unsignalled) : t.units = s.units :=
  show t.unsignalled.units = s.unsignalled.units by rw [h]

/-- ERR is set, and the port is else as it was. -/
theorem portError_port (s : State) (p : Nat) : (portError s p).port p = { s.port p with err := true } := by
  rw [portError, State.port_of_unsignalled (portSignal_unsignalled ..), State.port_modPort_same]

/-! ### Poison -/

/-- Everything but the poison of memory. -/
def State.unpoisoned (s : State) : State := { s with poison := [] }

@[simp] theorem State.addPoison_unpoisoned (s : State) (f : Nat) : (s.addPoison f).unpoisoned = s.unpoisoned := by
  unfold State.addPoison
  dsimp only
  split <;> rfl

@[simp] theorem State.addLinePoison_unpoisoned (s : State) (line : Nat) (b : BitVec 4) : (s.addLinePoison line b).unpoisoned = s.unpoisoned := by
  refine foldl_keeps State.unpoisoned _ (fun t i => ?_) _ _
  split <;> simp

theorem State.dies_of_unpoisoned (h : t.unpoisoned = s.unpoisoned) : t.dies = s.dies := show t.unpoisoned.dies = s.unpoisoned.dies by rw [h]
theorem State.l2_of_unpoisoned (h : t.unpoisoned = s.unpoisoned) : t.l2 = s.l2 := show t.unpoisoned.l2 = s.unpoisoned.l2 by rw [h]
theorem State.pkg_of_unpoisoned (h : t.unpoisoned = s.unpoisoned) : t.pkg = s.pkg := show t.unpoisoned.pkg = s.unpoisoned.pkg by rw [h]

/-- A flit's cells are poisoned in memory. -/
def State.poisoned (s : State) (f : Nat) : Prop := s.cell (64 * f) / 64 ∈ s.poison

theorem State.homeBad_of_poisoned {f : Nat} (h : s.poisoned f) : s.homeBad f = true := by
  simp only [State.homeBad, List.contains_iff_mem, Bool.or_eq_true]
  exact .inl h

theorem State.addPoison_poisoned (s : State) (f : Nat) : (s.addPoison f).poisoned f := by
  unfold State.poisoned
  rw [State.cell_of_bytes (s.addPoison_bytes f)]
  unfold State.addPoison
  dsimp only
  split
  · rename_i listed
    simpa using listed
  · exact List.mem_cons_self

theorem State.addPoison_more (s : State) {f : Nat} (h : s.poisoned f) (g : Nat) : (s.addPoison g).poisoned f := by
  unfold State.poisoned at h ⊢
  rw [State.cell_of_bytes (s.addPoison_bytes g)]
  unfold State.addPoison
  dsimp only
  split
  · exact h
  · exact List.mem_cons_of_mem _ h

/-- The flits of a line that a vector names are poisoned. -/
theorem State.addLinePoison_poisoned (s : State) (line : Nat) {bad : BitVec 4} {f : Nat} (low : f < 4) (named : bad.getLsbD f = true) :
    (s.addLinePoison line bad).poisoned (4 * line + f) := by
  have listed : f ∈ upTo 4 := by simpa [upTo] using low
  unfold State.addLinePoison
  generalize upTo 4 = flits at listed
  induction flits generalizing s with
  | nil => cases listed
  | cons g rest ih =>
    obtain rfl | later := List.mem_cons.1 listed
    · rw [List.foldl_cons, if_pos named]
      refine List.foldlRecOn (motive := fun t : State => t.poisoned (4 * line + f)) rest _ (s.addPoison_poisoned _) fun t h g _ => ?_
      split
      · exact t.addPoison_more h _
      · exact h
    · exact ih _ later

end Sys2Proof.Machine
end

section
/-! SUPPORT. An eviction of a slice's line, a line's arrival in its slice and in an L1, and what the latter two leave (09 R231 to R238). -/

namespace Sys2Proof.Machine

open Sys2Proof

variable {s t : State} {u c d p line pa : Nat} {x : L2Line}

/-! ### Evictions -/

/-- A slice without a line, whose copies have been dropped. -/
def State.l2Gone (s : State) (x : L2Line) : State :=
  let t := s.dropQuads (homeDie s (linePa x.line)) x.quads x.line none
  let r := if x.remote then t.rdcDrop (otherDie (homeDie s (linePa x.line))) x.line else t
  { r with l2 := r.l2.filter fun y => y.line != x.line }

theorem State.l2Gone_offCore (s : State) (x : L2Line) : (s.l2Gone x).offCore = { s.offCore with l2 := s.l2.filter fun y => y.line != x.line } := by
  have moved {r : State} (h : r.offCore = s.offCore) :
      State.offCore { r with l2 := r.l2.filter fun y => y.line != x.line } = { s.offCore with l2 := s.l2.filter fun y => y.line != x.line } := by
    rw [← State.l2_of_offCore h, ← h]
    rfl
  refine moved ?_
  split <;> simp

theorem State.l2Gone_pkg (s : State) (x : L2Line) : (s.l2Gone x).pkg = s.pkg :=
  show (s.l2Gone x).offCore.pkg = s.pkg by rw [State.l2Gone_offCore]; rfl
theorem State.l2Gone_poison (s : State) (x : L2Line) : (s.l2Gone x).poison = s.poison :=
  show (s.l2Gone x).offCore.poison = s.poison by rw [State.l2Gone_offCore]; rfl

theorem State.l2Gone_l2Find (s : State) (x : L2Line) : (s.l2Gone x).l2Find x.line = none := by
  have l2 : (s.l2Gone x).l2 = s.l2.filter fun y => y.line != x.line :=
    show (s.l2Gone x).offCore.l2 = _ by rw [State.l2Gone_offCore]
  simp [State.l2Find, l2]

@[simp] theorem State.l2Gone_invals (s : State) (x : L2Line) (d : Nat) : (s.l2Gone x).invals d = s.invals d := by
  have drop : (s.dropQuads (homeDie s (linePa x.line)) x.quads x.line none).invals d = s.invals d := State.invals_of_dies (State.dropQuads_dies ..) d
  change State.invals (if _ then _ else _) d = _
  split
  · rw [State.rdcDrop_invals, drop]
  · exact drop

theorem capacityUp_of_pkg (h : t.pkg = s.pkg) (pa : Nat) : capacityUp t pa = capacityUp s pa := by
  simp only [capacityUp, capWindow?, State.port, h]

theorem capacityPort_of_pkg (h : t.pkg = s.pkg) (pa : Nat) : capacityPort t pa = capacityPort s pa := by
  simp only [capacityPort, capWindow?, h]

/-- A line's data is newer than memory's: the slice's, or its owner's. -/
def dirtyLine (s : State) (x : L2Line) : Bool := x.dirty || ownerDirty s x

theorem State.l2Evict_clean (clean : dirtyLine s x = false) : s.l2Evict x = s.l2Gone x :=
  if_pos (by rw [show (x.dirty || ownerDirty s x) = false from clean]; rfl)

theorem State.l2Evict_dirty (dirty : dirtyLine s x = true) :
    s.l2Evict x = if capacityUp (s.l2Gone x) (linePa x.line) then (s.l2Gone x).addLinePoison x.line x.bad
      else portError ((s.l2Gone x).addLinePoison x.line 15) (capacityPort (s.l2Gone x) (linePa x.line)) :=
  if_neg (by rw [show (x.dirty || ownerDirty s x) = true from dirty]; decide)

/-- A dirty line goes to memory with its poison. -/
theorem State.l2Evict_up (dirty : dirtyLine s x = true) (up : capacityUp s (linePa x.line) = true) :
    s.l2Evict x = (s.l2Gone x).addLinePoison x.line x.bad := by
  rw [State.l2Evict_dirty dirty, capacityUp_of_pkg (s.l2Gone_pkg x), if_pos up]

/-- A dirty line whose port is down is lost. -/
theorem State.l2Evict_down (dirty : dirtyLine s x = true) (down : capacityUp s (linePa x.line) = false) :
    s.l2Evict x = portError ((s.l2Gone x).addLinePoison x.line 15) (capacityPort s (linePa x.line)) := by
  rw [State.l2Evict_dirty dirty, capacityUp_of_pkg (s.l2Gone_pkg x), down, capacityPort_of_pkg (s.l2Gone_pkg x)]
  rfl

theorem portError_l2 (s : State) (p : Nat) : (portError s p).l2 = s.l2 := by
  rw [portError, State.l2_of_unsignalled (portSignal_unsignalled ..)]
  rfl
theorem portError_dies (s : State) (p : Nat) : (portError s p).dies = s.dies := by
  rw [portError, State.dies_of_unsignalled (portSignal_unsignalled ..)]
  rfl
theorem portError_poison (s : State) (p : Nat) : (portError s p).poison = s.poison := by
  rw [portError, State.poison_of_unsignalled (portSignal_unsignalled ..)]
  rfl

theorem portError_poisoned {f : Nat} (h : s.poisoned f) (p : Nat) : (portError s p).poisoned f := by
  rwa [State.poisoned, State.cell_of_bytes (portError_bytes ..), portError_poison]

/-- An eviction leaves the slice's other lines and the invalidations on their way. -/
theorem State.l2Evict_kept (s : State) (x : L2Line) :
    (s.l2Evict x).l2 = (s.l2Gone x).l2 ∧ (s.l2Evict x).dies = (s.l2Gone x).dies := by
  cases dirty : dirtyLine s x with
  | false => rw [State.l2Evict_clean dirty]; exact ⟨rfl, rfl⟩
  | true =>
    have poison (b : BitVec 4) := (s.l2Gone x).addLinePoison_unpoisoned x.line b
    rw [State.l2Evict_dirty dirty]
    split
    · exact ⟨State.l2_of_unpoisoned (poison _), State.dies_of_unpoisoned (poison _)⟩
    · rw [portError_l2, portError_dies]
      exact ⟨State.l2_of_unpoisoned (poison _), State.dies_of_unpoisoned (poison _)⟩

theorem State.l2Evict_l2Find (s : State) (x : L2Line) : (s.l2Evict x).l2Find x.line = none := by
  rw [State.l2Find, (s.l2Evict_kept x).1, ← State.l2Find, s.l2Gone_l2Find]

/-! ### A line's arrival in its slice -/

@[simp] theorem State.l2Room_invals (s : State) (line d : Nat) : (s.l2Room line).invals d = s.invals d := by
  unfold State.l2Room
  split
  · rfl
  · split
    · rw [State.invals_of_dies (s.l2Evict_kept _).2, State.l2Gone_invals]
    · rfl

@[simp] theorem State.l2Fill_invals (s : State) (line : Nat) (bad : Bool) (d : Nat) : (s.l2Fill line bad).invals d = s.invals d := by
  have set (r : State) (x : L2Line) : (r.l2Set x).invals d = r.invals d := rfl
  unfold State.l2Fill
  split
  · rfl
  · dsimp only
    split
    · rw [State.invals_of_dies (State.dies_of_unpoisoned (State.addLinePoison_unpoisoned ..)), set, State.l2Room_invals]
    · rw [set, State.l2Room_invals]

/-- A line read from memory is in its slice; uncorrectable data is poisoned. -/
theorem State.l2Fill_new (absent : s.l2Find line = none) (bad : Bool) :
    ((s.l2Fill line bad).l2Find line).isSome = true ∧ (bad = true → ∀ f, f < 4 → (s.l2Fill line bad).homeBad (4 * line + f) = true) := by
  have there (r : State) {x : L2Line} (h : x.line = line) : ((r.l2Set x).l2Find line).isSome = true := by simp [State.l2Find, State.l2Set, h]
  unfold State.l2Fill
  rw [absent]
  dsimp only
  cases bad with
  | false => exact ⟨there _ rfl, nofun⟩
  | true =>
    refine ⟨?_, fun _ f low => State.homeBad_of_poisoned (State.addLinePoison_poisoned _ line low ?_)⟩
    · rw [if_pos rfl, State.l2Find, State.l2_of_unpoisoned (State.addLinePoison_unpoisoned ..)]
      exact there _ rfl
    · interval_cases f <;> rfl

/-! ### A line's arrival in an L1 -/

/-- A line put at the front of an L1 with a sector valid hits there. -/
theorem State.l1Hit_front (t : State) {y : L1Line} (rest : UnitSt → List L1Line) (same : y.line = lineOf pa) (valid : y.valid.getLsbD (sectorOf pa) = true) :
    ((t.modUnit u fun x => { x with l1 := y :: rest x }).l1Hit u pa).isSome = true := by
  simp [State.l1Hit, State.l1Find, same, valid]

theorem lruVictim_mem {β : Type} {inSet : β → Bool} {ways : Nat} {xs : List β} {v : β} (h : lruVictim inSet ways xs = some v) : v ∈ xs := by
  simp only [lruVictim] at h
  split at h
  · exact List.mem_of_mem_filter (List.mem_of_getLast? h)
  · cases h

theorem State.l1Insert_hit (s : State) (u pa : Nat) (d : Bool) (c : Option (BitVec 2048)) (b : BitVec 4) :
    ((s.l1Insert u pa d c b).l1Hit u pa).isSome = true := by
  unfold State.l1Insert
  dsimp only
  split
  · rename_i y found
    refine State.l1Hit_front _ _ ?_ (getLsbD_set _ (sectorOf_lt pa))
    simpa using List.find?_some found
  · refine State.l1Hit_front _ _ rfl ?_
    have := getLsbD_set 0#2 (sectorOf_lt pa)
    rwa [BitVec.zero_or] at this

theorem State.modUnit_dirOf (s : State) (u : Nat) (f : UnitSt → UnitSt) (line : Nat) : (s.modUnit u f).dirOf line = s.dirOf line := rfl

/-- But for a dirty line that it drives out, an arrival in an L1 leaves every directory entry. -/
theorem State.l1Insert_dirOf (s : State) (u pa : Nat) (d : Bool) (c : Option (BitVec 2048)) (b : BitVec 4) :
    (s.l1Insert u pa d c b).dirOf (lineOf pa) = s.dirOf (lineOf pa) := by
  unfold State.l1Insert
  dsimp only
  split
  · rfl
  · rename_i absent
    rw [State.modUnit_dirOf]
    split
    · rename_i v victim
      have other : v.line ≠ lineOf pa := by
        have := List.find?_eq_none.1 absent v (lruVictim_mem victim)
        simpa using this
      have dropped := State.dirOf_of_offCore (s.l1Drop_offCore u v.line)
      split
      · rw [State.dirOf_l2Set_ne, dropped]
        exact fun h => other ((State.dirOf_line _ _).symm.trans h)
      · exact dropped _
    · rfl

theorem State.l1Insert_dies (s : State) (u pa : Nat) (d : Bool) (c : Option (BitVec 2048)) (b : BitVec 4) :
    (s.l1Insert u pa d c b).dies = s.dies := by
  unfold State.l1Insert
  dsimp only
  split
  · rfl
  · rw [State.modUnit_dies]
    split
    · split
      · exact State.l1Drop_dies ..
      · exact State.l1Drop_dies ..
    · rfl

/-- Another unit's L1 stays as it was. -/
theorem State.l1Insert_l1Find (other : c ≠ u) (pa : Nat) (d : Bool) (k : Option (BitVec 2048)) (b : BitVec 4) (line : Nat) :
    (s.l1Insert u pa d k b).l1Find c line = s.l1Find c line := by
  have drop (v : Nat) : (s.l1Drop u v).unit c = s.unit c := by
    unfold State.l1Drop
    split
    · exact State.unit_modUnit_ne _ other
    · rfl
  refine State.l1Find_of_unit ?_ line
  unfold State.l1Insert
  dsimp only
  split
  · exact State.unit_modUnit_ne _ other
  · rw [State.unit_modUnit_ne _ other]
    split
    · split
      · exact drop _
      · exact drop _
    · rfl

end Sys2Proof.Machine
end

section
/-! SUPPORT. What each request leaves in the directory, the remote-data caches and the L1 of a line (09 R233 to R239, Table 9.4). -/

namespace Sys2Proof.Machine

open Sys2Proof

variable {s t : State} {u c d line pa : Nat}

theorem onlyIf_of {b : Bool} (h : b = true) (s t : State) : onlyIf b s t = .next t := by rw [onlyIf, if_pos h]

/-! ### Requests to the home slice -/

/-- The directory entry that a home step finds: the line's, once it is in its slice. -/
def State.entryOf (s : State) (line : Nat) : L2Line := (s.l2Fill line false).dirOf line

theorem State.homeRead_dirOf (s : State) (u line : Nat) :
    ((s.homeRead u line).dirOf line).owner = none ∧ ((s.homeRead u line).dirOf line).presence.getLsbD (dieQuad (quadOf u)) = true := by
  rw [State.homeRead, State.dirOf_l2Set _ (by exact State.dirOf_line _ _)]
  exact ⟨State.recall_owner .., getLsbD_set _ (dieQuad_lt _)⟩

/-- Every copy of a line but one core's gone, and the invalidation of a remote one sent. -/
def State.revoke (s : State) (line : Nat) (but : Option Nat) : State :=
  ((s.l2Fill line false).dropQuads (homeDie s (linePa line)) (s.entryOf line).quads line but).sendInval line

theorem State.homeOwn_eq (s : State) (u line : Nat) : s.homeOwn u line = (s.revoke line (some u)).l2Set
    { s.entryOf line with presence := 1#24 <<< dieQuad (quadOf u), owner := some u, remote := false,
                          dirty := (s.entryOf line).dirty || (s.entryOf line).owner.isSome } := rfl

theorem State.homeWrite_eq (s : State) (line : Nat) : s.homeWrite line = (s.revoke line none).l2Set
    { s.entryOf line with presence := 0, owner := none, remote := false, dirty := true } := rfl

theorem State.revoke_l1Find {but : Option Nat} (core : isCore c = true) (die : unitDie c = homeDie s (linePa line))
    (named : (s.entryOf line).quads.getLsbD (dieQuad (quadOf c)) = true) (other : some c ≠ but) : (s.revoke line but).l1Find c line = none := by
  have units : (s.revoke line but).units
      = ((s.l2Fill line false).dropQuads (homeDie s (linePa line)) (s.entryOf line).quads line but).units := by
    unfold State.revoke State.sendInval
    split <;> rfl
  rw [State.l1Find_of_unit (s := (s.l2Fill line false).dropQuads (homeDie s (linePa line)) (s.entryOf line).quads line but)
    (by rw [State.unit, units, ← State.unit])]
  exact State.dropQuads_l1Find core die named other

theorem State.revoke_invals (but : Option Nat) (remote : (s.entryOf line).remote = true) :
    (s.revoke line but).invals (otherDie (homeDie s (linePa line))) = s.invals (otherDie (homeDie s (linePa line))) ++ [line] := by
  unfold State.revoke State.sendInval
  rw [State.dirOf_of_offCore (State.dropQuads_offCore ..), ← State.entryOf, if_pos remote,
    homeDie_of_bytes ((State.dropQuads_bytes ..).trans (s.l2Fill_bytes line false)), State.invals, State.die_modDie_same]
  exact congrArg (· ++ [line]) ((State.invals_of_dies (State.dropQuads_dies ..) _).trans (State.l2Fill_invals ..))

/-! ### The remote-data caches -/

theorem State.rdcFind_front (t : State) {r : RdcLine} (rest : Die → List RdcLine) (same : r.line = line) :
    ((t.modDie d fun x => { x with rdc := r :: rest x }).rdcFind d line).isSome = true := by
  simp [State.rdcFind, same]

/-- A line read through the remote-data cache is in it; one that was not has been read at its home. -/
theorem State.rdcLoad_found (s : State) (d line : Nat) : ((s.rdcLoad d line).rdcFind d line).isSome = true := by
  unfold State.rdcLoad
  split
  · rename_i r found
    exact State.rdcFind_front s _ (by simpa using List.find?_some found)
  · exact State.rdcFind_front _ _ rfl

theorem State.modDie_dirOf (s : State) (d : Nat) (f : Die → Die) (line : Nat) : (s.modDie d f).dirOf line = s.dirOf line := rfl

theorem State.homeRdcRead_dirOf (s : State) (line : Nat) :
    ((s.homeRdcRead line).dirOf line).owner = none ∧ ((s.homeRdcRead line).dirOf line).remote = true := by
  rw [State.homeRdcRead, State.dirOf_l2Set _ (by exact State.dirOf_line _ _)]
  exact ⟨State.recall_owner .., rfl⟩

theorem State.rdcLoad_dirOf (absent : s.rdcFind d line = none) :
    ((s.rdcLoad d line).dirOf line).owner = none ∧ ((s.rdcLoad d line).dirOf line).remote = true := by
  have home := (s.applyInvals d).homeRdcRead_dirOf line
  unfold State.rdcLoad
  rw [← State.rdcFind, absent]
  dsimp only
  rw [State.modDie_dirOf]
  split
  · rwa [State.dirOf_of_offCore (State.rdcDrop_offCore ..)]
  · exact home

/-- A line of the remote-data cache, noted as supplied to a core's quad. -/
def State.supplied (s : State) (u line : Nat) : State :=
  s.modDie (unitDie u) fun x =>
    { x with rdc := x.rdc.map fun r => if r.line = line then { r with quads := r.quads ||| (1#24 <<< dieQuad (quadOf u)) } else r }

theorem State.supplied_found (found : (s.rdcFind (unitDie u) line).isSome = true) : ((s.supplied u line).rdcFind (unitDie u) line).isSome = true := by
  have kept (r : RdcLine) : (if r.line = line then { r with quads := r.quads ||| (1#24 <<< dieQuad (quadOf u)) } else r).line = r.line := by
    split <;> rfl
  rw [State.rdcFind, State.supplied, State.die_modDie_same]
  simpa only [List.find?_map, Function.comp_def, kept, Option.isSome_map, State.rdcFind] using found

/-- A line through the remote-data cache into an L1 is in both. -/
theorem State.rdcFill_found (s : State) (u pa : Nat) :
    ((s.rdcFill u pa).l1Hit u pa).isSome = true ∧ ((s.rdcFill u pa).rdcFind (unitDie u) (lineOf pa)).isSome = true := by
  have found := State.supplied_found (s.rdcLoad_found (unitDie u) (lineOf pa))
  unfold State.rdcFill
  dsimp only
  split
  · exact ⟨State.l1Insert_hit .., by rwa [State.rdcFind_of_dies (State.l1Insert_dies ..)]⟩
  · rename_i absent
    exact absurd found (by rw [show (State.supplied _ u _).rdcFind _ _ = none from absent]; decide)

theorem State.l1Fill_hit (s : State) (u pa : Nat) : ((s.l1Fill u pa).l1Hit u pa).isSome = true := by
  unfold State.l1Fill
  split
  · exact State.l1Insert_hit ..
  · exact (s.rdcFill_found u pa).1

/-- The oldest invalidation of a die, applied. -/
theorem State.applyInval_first {rest : List Nat} (first : (s.die d).inval = line :: rest) :
    (s.applyInval d).rdcFind d line = none ∧ ((s.applyInval d).die d).inval = rest := by
  unfold State.applyInval
  rw [first]
  dsimp only
  rw [State.rdcFind, State.die_modDie_same]
  exact ⟨s.rdcDrop_self d line, rfl⟩

/-! ### Replies -/

/-- The write-through accesses of a unit that await their reply. -/
def State.writes (s : State) (u : Nat) : List WtAccess := (s.unit u).wt

theorem State.l1Drop_writes (s : State) (u line c : Nat) : (s.l1Drop u line).writes c = s.writes c := by
  unfold State.l1Drop
  split
  · by_cases same : c = u
    · rw [same, State.writes, State.unit_modUnit_same, State.writes]
    · rw [State.writes, State.unit_modUnit_ne _ same, State.writes]
  · rfl

theorem State.applyInvals_writes (s : State) (d c : Nat) : (s.applyInvals d).writes c = s.writes c := by
  have quads (t : State) (d : Nat) (v : BitVec 24) (line : Nat) : (t.dropQuads d v line none).writes c = t.writes c :=
    foldl_keeps (fun t : State => t.writes c) (fun t u => t.l1Drop u line) (fun t u => t.l1Drop_writes u line c) _ _
  have die (t : State) (d : Nat) (f : Die → Die) : (t.modDie d f).writes c = t.writes c := rfl
  refine foldl_keeps (fun t : State => t.writes c) _ (fun t _ => ?_) _ _
  unfold State.applyInval State.rdcDrop
  split
  · rfl
  · rw [die]
    split
    · rfl
    · rw [die, quads]

/-! ### Lines of code -/

theorem icFind_icInsert {x : UnitSt} {l : ICLine} (same : l.job = x.job) : (icFind (icInsert x l) l.line).isSome = true := by
  simp [icFind, icInsert, same]

theorem codeLine_mem (s : State) (u line : Nat) (nc : Bool) : (codeLine s u line nc).1.mem = s.mem := by
  refine State.mem_of_bytes ?_
  unfold codeLine
  dsimp only
  split
  · exact s.readHome_bytes ..
  · split <;> exact s.rdcLoad_bytes ..

theorem icFill_found (s : State) (u va pa : Nat) (locked nc : Bool) :
    (icFind ((icFill s u va pa locked nc).unit u) (va / 256)).isSome = true ∧ (icFill s u va pa locked nc).mem = s.mem := by
  constructor
  · rw [icFill, State.unit_modUnit_same]
    exact icFind_icInsert rfl
  · exact codeLine_mem s u (lineOf pa) nc

end Sys2Proof.Machine
end

section
/-! The steps of the memory system: O48. -/

namespace Sys2Proof.Machine

open Sys2Proof

variable {s : State} {u c d line pa : Nat}

/-- A line that another core of its home's die may hold is homed where a core's step finds it. -/
theorem exec_homeOwnership (core : isCore u = true) (there : lineBacked s line = true) (home : homeDie s (linePa line) = unitDie u)
    (free : pairLocked s line = false) :
    exec (.homeOwnership u line) s = .next ((s.homeOwn u line).l1Insert u (linePa line) false none 0) :=
  onlyIf_of (by simp [core, there, home, free]) ..

theorem homeOwnership_dirOf (s : State) (u line : Nat) :
    ((s.homeOwn u line).l1Insert u (linePa line) false none 0).dirOf line
      = { s.entryOf line with presence := 1#24 <<< dieQuad (quadOf u), owner := some u, remote := false,
                              dirty := (s.entryOf line).dirty || (s.entryOf line).owner.isSome } := by
  have same := (s.homeOwn u line).l1Insert_dirOf u (linePa line) false none 0
  rw [lineOf_linePa] at same
  rw [same, State.homeOwn_eq, State.dirOf_l2Set _ (by exact State.dirOf_line _ _)]

/-- What a reply finds applied: nothing more, or every invalidation on its way to the unit's die. -/
def State.replyInvals (s : State) (pa u : Nat) : State := if homeDie s pa == unitDie u then s else s.applyInvals (unitDie u)

theorem State.replyInvals_writes (s : State) (pa u : Nat) : (s.replyInvals pa u).writes u = s.writes u := by
  unfold State.replyInvals
  split
  · rfl
  · exact s.applyInvals_writes ..

theorem State.replyInvals_bytes (s : State) (pa u : Nat) : (s.replyInvals pa u).bytes = s.bytes := by
  unfold State.replyInvals
  split <;> simp

theorem exec_writeThroughReply {k i : Nat} (oldest : findPos (fun p : WtAccess => p.slot == k) (s.unit u).wt = some i) :
    exec (.writeThroughReply u k) s
      = .next ((s.replyInvals (((s.unit u).wt[i]?.map fun p => p.pa).getD 0) u).modUnit u fun x => { x with wt := dropAt x.wt i }) := by
  change execWriteThroughReply u k s = _
  rw [execWriteThroughReply, oldest]
  rfl

/-- Settles O48: each step by what it leaves of the line's entry, of the copies and of the invalidations. -/
theorem memorySystemSteps : Obligations.MemorySystemSteps := by
  unfold Obligations.MemorySystemSteps
  intro s u line pa d va mine before copied
  have mem {t : State} (h : t.bytes = s.bytes) : t.mem = s.mem := State.mem_of_bytes h
  refine ⟨?walk, ?read, ?ownership, ?rdcRead, ?write, ?l1Fill, ?rdcFill, ?icache, ?fill, ?reply, ?apply, ?through,
    fun low => onlyIf_of (by simp [low]) .., ?evict⟩
  case walk =>
    intro e unit miss walk
    have found : (findRange s u (s.unit u).job va.toNat).1 = installRange s u e := by rw [findRange, miss]; simp only [walk]
    exact (onlyIf_of (by simp [unit, miss]) ..).trans (congrArg _ found)
  case read =>
    rintro ⟨core, there, home, free⟩
    exact ⟨_, onlyIf_of (by simp [core, there, home, free]) .., mem (s.homeRead_bytes ..), s.homeRead_dirOf u line⟩
  case ownership =>
    rintro ⟨core, there, home, free⟩
    refine ⟨_, exec_homeOwnership core there home free, mem (by simp), ?_⟩
    rw [homeOwnership_dirOf]
    refine ⟨rfl, rfl, rfl, State.l1Insert_hit .., ?_, ?_⟩
    · rintro c ⟨coreC, die, named⟩ other
      rw [State.l1Insert_l1Find other]
      exact State.revoke_l1Find coreC (die.trans home.symm) named (by simpa using other)
    · intro remote
      have sent := State.revoke_invals (some u) remote
      rw [home] at sent
      rwa [State.die_of_dies (State.l1Insert_dies ..)]
  case rdcRead =>
    intro low there home free
    exact ⟨_, onlyIf_of (by simp [low, there, home, free]) .., mem (s.rdcLoad_bytes ..), s.rdcLoad_found d line, State.rdcLoad_dirOf⟩
  case write =>
    intro unit there free
    have entry : ((s.homeWrite line).wrote noHart line).dirOf line
        = { s.entryOf line with presence := 0, owner := none, remote := false, dirty := true } :=
      State.dirOf_l2Set _ (State.dirOf_line _ _)
    refine ⟨_, onlyIf_of (by simp [unit, there, free]) .., mem (by simp), ?_⟩
    rw [entry]
    refine ⟨rfl, rfl, rfl, rfl, ?_, State.revoke_invals none⟩
    rintro c ⟨core, die, named⟩
    exact State.revoke_l1Find core die named nofun
  case l1Fill =>
    intro core there miss free
    exact ⟨_, onlyIf_of (by simp [core, there, miss, free]) .., mem (s.l1Fill_bytes ..), s.l1Fill_hit u pa⟩
  case rdcFill =>
    intro core there away miss free
    exact ⟨_, onlyIf_of (by simp [core, there, away, miss, free]) .., mem (s.rdcFill_bytes ..), s.rdcFill_found u pa⟩
  case icache =>
    intro t p e unit translated there region free miss
    obtain ⟨found, kept⟩ := icFill_found t u va.toNat p false e.n
    refine ⟨_, ?_, kept, found⟩
    have locked : pairLocked s (lineOf p) = false := by
      rwa [pairLocked, ← State.harts_of_agents (translate_keeps translated nofun).2, ← pairLocked]
    change execIcacheFill u va s = _
    rw [execIcacheFill, translated]
    exact onlyIf_of (by simp [unit, there, region, locked, miss]) ..
  case fill =>
    intro bad there miss free
    exact ⟨_, onlyIf_of (by simp [there, miss, free]) .., mem (s.l2Fill_bytes ..), State.l2Fill_new miss bad⟩
  case reply =>
    intro unit there free
    exact ⟨_, onlyIf_of (by simp [unit, there, free]) .., mem (s.readSector_bytes ..), State.harts_of_agents (s.readSector_agents ..)⟩
  case apply =>
    intro rest low first
    exact ⟨_, onlyIf_of (by simp [low, first]) .., mem (s.applyInval_bytes d), State.applyInval_first first⟩
  case through =>
    intro k i oldest
    refine ⟨_, exec_writeThroughReply oldest, ?_, ?_⟩
    · rw [State.unit_modUnit_same]
      exact congrArg (dropAt · i) (State.replyInvals_writes ..)
    · rw [State.modUnit_mem]
      exact mem (State.replyInvals_bytes ..)
  case evict =>
    intro x t dirty
    refine ⟨mem (s.l2Evict_bytes x), s.l2Evict_l2Find x, ?clean, ?up, ?down⟩
    case clean =>
      intro clean
      have same : t = s.l2Gone x := State.l2Evict_clean (by simpa [dirtyLine, dirty] using clean)
      rw [same]
      exact ⟨s.l2Gone_poison x, s.l2Gone_pkg x⟩
    case up =>
      intro h up
      have same : t = _ := State.l2Evict_up (by simpa [dirtyLine] using h) up
      rw [same]
      exact ⟨(State.pkg_of_unpoisoned (State.addLinePoison_unpoisoned ..)).trans (s.l2Gone_pkg x),
        fun f low bad => State.homeBad_of_poisoned (State.addLinePoison_poisoned _ x.line low bad)⟩
    case down =>
      intro h down
      have same : t = _ := State.l2Evict_down (by simpa [dirtyLine] using h) down
      rw [same, portError_port]
      refine ⟨rfl, fun f low => State.homeBad_of_poisoned (portError_poisoned (State.addLinePoison_poisoned _ x.line low ?_) _)⟩
      interval_cases f <;> rfl

end Sys2Proof.Machine
end

section
/-! SUPPORT. The requests that wait at a port stay as they are through every access at the home slices (09 R247). -/

namespace Sys2Proof.Machine

open Sys2Proof

variable {s t : State} {u p : Nat}

/-- The requests that wait at a port. -/
def State.inbound (s : State) (p : Nat) : List Inbound := (s.port p).inq

theorem State.inbound_of_pkg (h : t.pkg = s.pkg) (p : Nat) : t.inbound p = s.inbound p := by rw [State.inbound, State.port, h]; rfl
theorem State.inbound_of_unsignalled (h : t.unsignalled = s.unsignalled) (p : Nat) : t.inbound p = s.inbound p := by
  rw [State.inbound, State.port_of_unsignalled h, State.inbound]

theorem State.modPort_inbound {f : Port → Port} (h : ∀ y, (f y).inq = y.inq) (s : State) (q p : Nat) : (s.modPort q f).inbound p = s.inbound p := by
  by_cases same : p = q
  · rw [same, State.inbound, State.port_modPort_same, h, State.inbound]
  · rw [State.inbound, State.port_modPort_ne _ same, State.inbound]

@[simp] theorem portError_inbound (s : State) (q p : Nat) : (portError s q).inbound p = s.inbound p := by
  rw [portError, State.inbound_of_unsignalled (portSignal_unsignalled ..)]
  exact State.modPort_inbound (fun _ => by rfl) ..

/-! ### The home slices -/

@[simp] theorem State.addLinePoison_inbound (s : State) (line : Nat) (b : BitVec 4) (p : Nat) : (s.addLinePoison line b).inbound p = s.inbound p :=
  inbound_of_pkg (pkg_of_unpoisoned (State.addLinePoison_unpoisoned ..)) p

@[simp] theorem State.l2Evict_inbound (s : State) (x : L2Line) (p : Nat) : (s.l2Evict x).inbound p = s.inbound p := by
  have gone := inbound_of_pkg (s.l2Gone_pkg x) p
  cases dirty : dirtyLine s x with
  | false => rwa [l2Evict_clean dirty]
  | true =>
    rw [l2Evict_dirty dirty]
    split <;> simp [gone]

@[simp] theorem State.l2Set_inbound (s : State) (x : L2Line) (p : Nat) : (s.l2Set x).inbound p = s.inbound p := rfl

@[simp] theorem State.l2Room_inbound (s : State) (line p : Nat) : (s.l2Room line).inbound p = s.inbound p := by
  unfold State.l2Room
  repeat' split
  all_goals simp

@[simp] theorem State.l2Fill_inbound (s : State) (line : Nat) (bad : Bool) (p : Nat) : (s.l2Fill line bad).inbound p = s.inbound p := by
  unfold State.l2Fill
  split
  · rfl
  · dsimp only
    split <;> simp

theorem State.revoke_inbound (s : State) (line : Nat) (but : Option Nat) (p : Nat) : (s.revoke line but).inbound p = s.inbound p := by
  have left : (s.revoke line but).offCore = (s.l2Fill line false).offCore := by simp [State.revoke]
  rw [inbound_of_pkg (pkg_of_offCore left), l2Fill_inbound]

@[simp] theorem State.homeWrite_inbound (s : State) (line p : Nat) : (s.homeWrite line).inbound p = s.inbound p := by
  rw [State.homeWrite_eq, State.l2Set_inbound, State.revoke_inbound]

theorem State.putHome_inbound (s : State) (who pa n v p : Nat) : (s.putHome who pa n v false).inbound p = s.inbound p := rfl

@[simp] theorem State.homeStore_inbound (s : State) (pa n v p : Nat) : (s.homeStore pa n v).inbound p = s.inbound p := by
  refine foldl_keeps (fun t : State => t.inbound p) _ (fun t q => ?_) _ _
  dsimp only
  rw [State.putHome_inbound]
  split <;> simp

/-! ### Translation -/

@[simp] theorem State.setTable_inbound (s : State) (u : Nat) (r : List RangeEntry) (p : Nat) : (s.setTable u r).inbound p = s.inbound p := by
  unfold State.setTable
  split
  · rfl
  · exact State.modPort_inbound (fun _ => by rfl) ..

@[simp] theorem findRange_inbound (s : State) (u : Nat) (j : BitVec 16) (va p : Nat) : (findRange s u j va).1.inbound p = s.inbound p := by
  unfold findRange touchRange installRange
  repeat' split
  all_goals simp

@[simp] theorem cancelOrder_inbound (s : State) (m i : Nat) (o : Order) (va p : Nat) : (cancelOrder s m i o va).inbound p = s.inbound p :=
  (State.homeStore_inbound ..).trans (State.homeStore_inbound ..)

@[simp] theorem stateRule_inbound (s : State) (u : Nat) (e : RangeEntry) (va : Nat) (a : Acc) (p : Nat) :
    (stateRule s u e va a).1.inbound p = s.inbound p := by
  unfold stateRule
  dsimp only
  repeat' split
  all_goals simp

@[simp] theorem translate_inbound (s : State) (u : Nat) (j : BitVec 16) (va : Nat) (a : Acc) (p : Nat) :
    (translate s u j va a).1.inbound p = s.inbound p := by
  have range := findRange_inbound s u j va p
  unfold translate
  split
  · rfl
  · split
    · rename_i t found
      rwa [found] at range
    · rename_i t e found
      rw [found] at range
      repeat' split
      all_goals simp [range]

theorem spanPlaces_inbound (u : Nat) (j : BitVec 16) (a : Acc) (l : List (Nat × Nat)) (s : State) (p : Nat) :
    (spanPlaces s u j a l).1.inbound p = s.inbound p := by
  induction l generalizing s with
  | nil => rfl
  | cons q rest ih =>
    obtain ⟨va, n⟩ := q
    have first := translate_inbound s u j va a p
    simp only [spanPlaces]
    split
    · rename_i t pa e translated
      rw [translated] at first
      have others := (ih t).trans first
      split_ifs
      · exact first
      · exact first
      · exact first
      · split
        · exact first
        · split
          · rename_i places
            rwa [places] at others
          · exact others
    · rename_i t r _ translated
      rwa [translated] at first

end Sys2Proof.Machine
end

section
/-! SUPPORT. A port's queue: a request that performs at once, and one that waits; what the requests do (09 R247, R248). -/

namespace Sys2Proof.Machine

open Sys2Proof

variable {s t : State} {p n v pa : Nat} {y z : Inbound} {rest : List Inbound} {va : Word}

/-! ### The queue -/

/-- A port whose queue is as given. -/
def State.queued (s : State) (p : Nat) (q : List Inbound) : State := s.modPort p fun y => { y with inq := q }

@[simp] theorem State.queued_bytes (s : State) (p : Nat) (q : List Inbound) : (s.queued p q).bytes = s.bytes := rfl
@[simp] theorem State.queued_mem (s : State) (p : Nat) (q : List Inbound) : (s.queued p q).mem = s.mem := rfl
@[simp] theorem State.queued_harts (s : State) (p : Nat) (q : List Inbound) : (s.queued p q).harts = s.harts := rfl
@[simp] theorem State.queued_pendRecords (s : State) (p : Nat) (q : List Inbound) : (s.queued p q).pendRecords = s.pendRecords := rfl
@[simp] theorem State.queued_byteAt (s : State) (p : Nat) (q : List Inbound) (a : Nat) : (s.queued p q).byteAt a = s.byteAt a := rfl
@[simp] theorem State.queued_ifile (s : State) (p : Nat) (q : List Inbound) (f : Nat) : (s.queued p q).ifile f = s.ifile f := rfl
@[simp] theorem State.queued_get (s : State) (p : Nat) (q : List Inbound) (a n : Nat) : (s.queued p q).get a n = s.get a n := rfl
@[simp] theorem State.queued_port (s : State) (p : Nat) (q : List Inbound) : (s.queued p q).port p = { s.port p with inq := q } :=
  State.port_modPort_same ..

theorem receive_eq (s : State) (p : Nat) (z : Inbound) : receive s p z = portDrain (s.queued p ((s.port p).inq ++ [z])) p := by
  exact congrArg (portDrain · p) (State.modPort_congr s rfl)

/-- A request at the head of a queue that must wait keeps the queue as it is. -/
theorem receive_waits (queue : (s.port p).inq ++ [z] = y :: rest) (waits : performInbound (s.queued p (y :: rest)) p y = none) :
    receive s p z = (s.queued p (y :: rest)).queued p (y :: rest) := by
  rw [receive_eq, queue, portDrain, State.queued_port]
  simp only [drainInbound, waits]
  rfl

/-- The only request of a queue performs. -/
theorem receive_performs (empty : (s.port p).inq = []) (done : performInbound (s.queued p [z]) p z = some t) : receive s p z = t.queued p [] := by
  rw [receive_eq, empty, List.nil_append, portDrain, State.queued_port]
  simp only [drainInbound, done]
  rfl

theorem portServes_of (port : p < 8) (up : (s.port p).linkup = true) : portServes s p = true := by simp [portServes, port, up]
theorem requestSize_of (pos : 1 ≤ n) (most : n ≤ 4096) : requestSize n = true := by simp [requestSize, pos, most]

/-! ### Reads and writes -/

/-- The bytes of a posted write at its places. -/
def storePlaces (s : State) (va v : Nat) (ps : List (Nat × Nat × Nat)) : State :=
  ps.foldl (fun t x => t.homeStore x.2.1 x.2.2 (v / 2 ^ (8 * (x.1 - va)) % 2 ^ (8 * x.2.2))) s

/-- The lines of a read at its places come to their slices. -/
def loadPlaces (s : State) (ps : List (Nat × Nat × Nat)) : State := ps.foldl (fun t x => (t.homeLoad x.2.1 x.2.2).1) s

theorem homeLoad_keeps (s : State) (pa n : Nat) : (s.homeLoad pa n).1.bytes = s.bytes ∧ (s.homeLoad pa n).1.agents = s.agents := by
  unfold State.homeLoad
  split
  · exact ⟨rfl, rfl⟩
  · exact ⟨foldl_keeps State.bytes _ (fun t q => t.homePeek_bytes _) _ _, foldl_keeps State.agents _ (fun t q => t.homePeek_agents _) _ _⟩

theorem loadPlaces_keeps (s : State) (ps : List (Nat × Nat × Nat)) : (loadPlaces s ps).bytes = s.bytes ∧ (loadPlaces s ps).agents = s.agents :=
  ⟨foldl_keeps State.bytes _ (fun t (x : Nat × Nat × Nat) => (homeLoad_keeps t x.2.1 x.2.2).1) ps s,
    foldl_keeps State.agents _ (fun t (x : Nat × Nat × Nat) => (homeLoad_keeps t x.2.1 x.2.2).2) ps s⟩

theorem storePlaces_inbound (s : State) (va v : Nat) (ps : List (Nat × Nat × Nat)) (p : Nat) : (storePlaces s va v ps).inbound p = s.inbound p :=
  foldl_keeps (fun t : State => t.inbound p) _ (fun t _ => t.homeStore_inbound ..) ps s

theorem homeStore_writesOnly (wf : memWf s.mem = true) : WritesOnly s (s.homeStore pa n v) (s.spanCells pa n) := by
  obtain ⟨wf', map, frame⟩ := s.homeStore_frame (pa := pa) (n := n) (v := v) wf
  exact ⟨wf', State.cell_of_capwin map, fun a out => frame a fun i hi same => out ⟨i, hi, same⟩⟩

/-- A posted write changes no byte outside its places. -/
theorem storePlaces_writesOnly {va v : Nat} {ps : List (Nat × Nat × Nat)} (wf : memWf s.mem = true) :
    WritesOnly s (storePlaces s va v ps) fun a => ∃ y ∈ ps, s.spanCells y.2.1 y.2.2 a := by
  refine WritesOnly.foldl wf fun t x listed wf' map => (homeStore_writesOnly wf').mono ?_
  rintro a ⟨i, hi, rfl⟩
  exact ⟨x, listed, i, hi, by rw [map]⟩

theorem homeStore_get (wf : memWf s.mem = true) (pos : 0 < n) (one : pa % 128 + n ≤ 128) (fits : v < 2 ^ (8 * n)) :
    (s.homeStore pa n v).get pa n = v := by
  have step := homeStore_step_bytes s pa v (pa, n)
  rw [Nat.sub_self, Nat.mul_zero, Nat.pow_zero, Nat.div_one, Nat.mod_eq_of_lt fits] at step
  refine get_put wf ?_ fits
  rw [State.homeStore, sectors_one pos one, List.foldl_cons, List.foldl_nil, Nat.sub_self, Nat.mul_zero, Nat.pow_zero, Nat.div_one,
    Nat.mod_eq_of_lt fits]
  exact step

section
variable {rid : Nat} {ps : List (Nat × Nat × Nat)} {e : RangeEntry} {c x : Nat} (outside : apertureFile va.toNat = none)

theorem performInbound_aperture {f : Nat × Nat} (inside : apertureFile va.toNat = some f) : performInbound s p (.read va n rid) = some s := by
  rw [performInbound, inside]
  rfl

include outside

theorem performInbound_read (places : spanPlaces s (244 + p) (s.port p).dmajob .load (requestBlocks va n) = (t, ps, .ok pa e)) :
    performInbound s p (.read va n rid) = some (loadPlaces t ps) := by
  simp only [performInbound, outside, places]
  rfl

theorem performInbound_refused (places : spanPlaces s (244 + p) (s.port p).dmajob .load (requestBlocks va n) = (t, ps, .raise c x)) :
    performInbound s p (.read va n rid) = some (portNotice t p c x rid) := by
  simp only [performInbound, outside, places]
  rfl

theorem performInbound_waits (places : spanPlaces s (244 + p) (s.port p).dmajob .load (requestBlocks va n) = (t, ps, .wait)) :
    performInbound s p (.read va n rid) = none := by
  simp only [performInbound, outside, places]
  rfl

theorem performInbound_write (places : spanPlaces s (244 + p) (s.port p).dmajob .store (requestBlocks va n) = (t, ps, .ok pa e)) :
    performInbound s p (.write va n rid v) = some (storePlaces t va.toNat v ps) := by
  simp only [performInbound, outside, places]
  rfl

end

/-! ### Interrupts -/

theorem ifile_ifilePut (s : State) (f id : Nat) : (ifilePut s f 0 id).ifile f = (s.ifile f).signal id := by
  rw [ifilePut, if_pos rfl, State.ifile, State.modIfile]
  exact fget_fset_same ..

theorem IFile.mem_signal (x : IFile) {id : Nat} (low : 1 ≤ id) (high : id ≤ 255) : id ∈ (x.signal id).pend := by
  unfold IFile.signal
  split
  · simp
  · rename_i h
    by_contra absent
    exact h ⟨low, high, absent⟩

theorem IFile.signal_pending {x : IFile} {id : Nat} (pending : id ∈ x.pend) : x.signal id = x := if_neg fun h => h.2.2 pending

/-- A controller that forwards nothing leaves the state as it is. -/
theorem aplicForward_off {d : Nat} (off : (s.aplic d).ie = false) : aplicForward s d = s := by
  unfold aplicForward
  generalize upTo 16 = sources
  induction sources with
  | nil => rfl
  | cons i rest ih =>
    simp only [List.foldl_cons, off, Bool.false_and, Bool.false_eq_true, if_false]
    exact ih

/-- An event of a port's source that sees pulses, at a controller that forwards nothing, becomes pending. -/
theorem portSignal_pending {kind : Nat} (low : 1 ≤ kind) (high : kind ≤ 3)
    (sees : 4 ≤ (fget (s.aplic (p / 4)).source (4 * (p % 4) + kind) 0).toNat) (off : (s.aplic (p / 4)).ie = false) :
    portSignal s p kind = s.modAplic (p / 4) fun y => { y with pend := y.pend ||| (1#16 <<< (4 * (p % 4) + kind)) } := by
  have wired : aplicWired (4 * (p % 4) + kind) = true := by
    simp only [aplicWired, Bool.and_eq_true, decide_eq_true_eq, bne_iff_ne]
    omega
  have active : (fget (s.aplic (p / 4)).source (4 * (p % 4) + kind) 0 != 0) = true := by
    refine bne_iff_ne.2 fun zero => ?_
    rw [zero] at sees
    cases sees
  rw [portSignal, aplicPulse, if_pos sees, aplicSet, wired, active, Bool.and_self, if_pos rfl, aplicForward_off]
  rw [State.aplic, State.modAplic]
  exact (congrArg Aplic.ie (fget_fset_same ..)).trans off

end Sys2Proof.Machine
end

section
/-! The ports: O49. -/

namespace Sys2Proof.Machine

open Sys2Proof

variable {s t : State} {p : Nat}

theorem exec_portTrainingEnd_up {sp : BitVec 4} {w : BitVec 5} (port : p < 8) (train : (s.port p).train = true) (mode : (s.port p).mode ≠ 0)
    (slow : 1 ≤ sp.toNat) (fast : sp.toNat ≤ 6) (lanes : w.toNat ∈ [1, 2, 4, 8, 16]) :
    exec (.portTrainingEnd p true sp w) s = .next (if (s.port p).linkup = true
      then s.modPort p fun y => { y with train := false, linkup := true, speed := sp, width := w }
      else portSignal (s.modPort p fun y => { y with train := false, linkup := true, speed := sp, width := w }) p 1) := by
  have up : (true && (s.port p).mode != 0 && decide (1 ≤ sp.toNat) && decide (sp.toNat ≤ 6) && [1, 2, 4, 8, 16].contains w.toNat) = true := by
    simp only [List.contains_iff_mem, Bool.and_eq_true, decide_eq_true_eq, bne_iff_ne]
    exact ⟨⟨⟨⟨trivial, mode⟩, slow⟩, fast⟩, lanes⟩
  change execPortTrainingEnd p true sp w s = _
  simp only [execPortTrainingEnd, train, up, Bool.not_true, Bool.false_or, decide_eq_true_eq, show ¬8 ≤ p by omega, if_false, if_true]

theorem exec_portTrainingEnd_fails {sp : BitVec 4} {w : BitVec 5} (port : p < 8) (train : (s.port p).train = true) :
    exec (.portTrainingEnd p false sp w) s = .next (if (s.port p).linkup = true
      then portSignal (portError (s.modPort p fun y => { y with train := false, linkup := false, speed := 0, width := 0 }) p) p 1
      else portError (s.modPort p fun y => { y with train := false, linkup := false, speed := 0, width := 0 }) p) := by
  change execPortTrainingEnd p false sp w s = _
  simp only [execPortTrainingEnd, train, Bool.not_true, Bool.false_or, Bool.false_and, decide_eq_true_eq, show ¬8 ≤ p by omega, Bool.false_eq_true,
    if_false]

theorem exec_portLinkDown (port : p < 8) (up : (s.port p).linkup = true) :
    exec (.portLinkDown p) s
      = .next (portSignal (portError (s.modPort p fun y => { y with linkup := false, speed := 0, width := 0 }) p) p 1) :=
  if_pos (by simp [up, port])

theorem portAnswer_waiting {u k : Nat} (waits : (s.hart u k).pipe = .port p none) (ok : Bool) (v : Word) :
    portAnswer s u k ok v = if ok then s.modHart u k fun h => { h with pipe := .port p (some (if ok then v else ones64)) }
      else portError (s.modHart u k fun h => { h with pipe := .port p (some (if ok then v else ones64)) }) p := by
  rw [portAnswer, waits]

theorem exec_inboundWrite_relaxed {va : Word} {n rid : Nat} {d : BitVec 32768} (serves : portServes s p = true) (size : requestSize n = true)
    (done : performInbound s p (.write va n rid (d.toNat % 2 ^ (8 * n))) = some t) : exec (.inboundWrite p va n rid d true) s = .next t := by
  refine (onlyIf_of (by rw [serves, size]; rfl) ..).trans (congrArg _ ?_)
  rw [if_pos rfl, done]

theorem exec_inboundWrite_ordered {va : Word} {n rid : Nat} {d : BitVec 32768} (serves : portServes s p = true) (size : requestSize n = true) :
    exec (.inboundWrite p va n rid d false) s = .next (receive s p (.write va n rid (d.toNat % 2 ^ (8 * n)))) :=
  onlyIf_of (by rw [serves, size]; rfl) ..

/-- Settles O49: a request of a slot by `portAnswer_waiting`, an inbound one by what it performs at the head of the port's queue. -/
theorem portSteps : Obligations.PortSteps := by
  unfold Obligations.PortSteps
  intro s p port x
  have serves {s : State} (up : (s.port p).linkup = true) : portServes s p = true := portServes_of port up
  refine ⟨?mode, ?off, onlyIf_of (by simp [port]) .., fun sp w train mode => exec_portTrainingEnd_up port train mode,
    fun sp w train => exec_portTrainingEnd_fails port train, exec_portLinkDown port, portError_port s p, ?answer, ?event,
    onlyIf_of (by simp [port]) .., ?msi, ?msiWaits, ?aperture, ?read, ?write⟩
  case mode =>
    intro m other down idle
    refine (onlyIf_of (by simp [port]) ..).trans (congrArg _ (if_neg ?_))
    rw [decide_eq_false other, show (s.port p).linkup = false from down, show (s.port p).train = false from idle]
    decide
  case off =>
    intro m held
    exact (onlyIf_of (by simp [port]) ..).trans (congrArg _ (if_pos (by simpa [or_assoc] using held)))
  case answer =>
    intro u k v waits
    exact ⟨congrArg _ (portAnswer_waiting waits true v), congrArg _ (portAnswer_waiting waits false 0)⟩
  case event =>
    intro kind low high
    refine ⟨(onlyIf_of (by simp [port, low]; omega) ..).trans (congrArg _ (if_neg (by omega))), portSignal_pending low high⟩
  case msi =>
    intro va id f up empty file low high
    have done : performInbound (s.queued p [.msi va id]) p (.msi va id) = some (ifilePut (s.queued p [.msi va id]) f 0 id) := by
      rw [performInbound, file]
    refine ⟨_, (onlyIf_of (serves up) ..).trans (congrArg _ (receive_performs empty done)), ?_, ?_, fun pending => ?_⟩
    · rw [State.queued_ifile, ifile_ifilePut]
      exact IFile.mem_signal _ low high
    · exact State.mem_of_bytes (ifilePut_bytes ..)
    · rw [State.queued_ifile, ifile_ifilePut, State.queued_ifile, IFile.signal_pending pending]
  case msiWaits =>
    intro va id y rest up queue arrived waits
    refine ⟨_, (onlyIf_of (serves up) ..).trans (congrArg _ (receive_waits ?_ waits)), ?_, rfl, rfl⟩
    · exact congrArg (· ++ [Inbound.msi va id]) queue
    · rw [State.queued_port]
      rfl
  case aperture =>
    intro va n rid f up empty pos most file
    refine ⟨_, (onlyIf_of (by rw [serves up, requestSize_of pos most]; rfl) ..).trans
      (congrArg _ (receive_performs empty (performInbound_aperture file))), rfl, rfl, rfl, ?_⟩
    rw [State.queued_port]
  case read =>
    intro va n rid up empty pos most outside arrived
    have job : (arrived.port p).dmajob = x.dmajob := by rw [show arrived.port p = _ from State.queued_port ..]
    have step {q : State} (h : receive s p (.read va n rid) = q) : exec (.inboundRead p va n rid) s = .next q :=
      (onlyIf_of (by rw [serves up, requestSize_of pos most]; rfl) ..).trans (congrArg _ h)
    have queue (q : State) (l : List Inbound) : ((q.queued p l).port p).inq = l := by rw [State.queued_port]
    refine ⟨fun t ps pa e places => ?_, fun t ps c v places => ?_, fun t ps places => ?_⟩
    · rw [← job] at places
      obtain ⟨bytes, agents⟩ := loadPlaces_keeps t ps
      exact ⟨_, step (receive_performs empty (performInbound_read outside places)), State.mem_of_bytes bytes, State.harts_of_agents agents, queue ..⟩
    · rw [← job] at places
      exact ⟨_, step (receive_performs empty (performInbound_refused outside places)), rfl, queue .., rfl⟩
    · rw [← job] at places
      exact ⟨_, step (receive_waits (by rw [empty]; rfl) (performInbound_waits outside places)), rfl, rfl, queue ..⟩
  case write =>
    intro va n rid d ro t ps pa e up empty pos most outside arrived places wf
    have job : (arrived.port p).dmajob = x.dmajob := by
      cases ro
      · rw [show arrived.port p = _ from State.queued_port ..]
      · rfl
    rw [← job] at places
    have done := performInbound_write (rid := rid) (v := d.toNat % 2 ^ (8 * n)) outside places
    have written := storePlaces_writesOnly (va := va.toNat) (v := d.toNat % 2 ^ (8 * n)) (ps := ps) wf
    have frame (a : Nat) (apart : ∀ y ∈ ps, ∀ i, i < y.2.2 → a ≠ t.cell (y.2.1 + i)) :
        (storePlaces t va.toNat (d.toNat % 2 ^ (8 * n)) ps).byteAt a = t.byteAt a :=
      written.out a fun ⟨y, listed, i, hi, same⟩ => apart y listed i hi same
    have value (one : ps = [(va.toNat, pa, n)]) (inside : pa % 128 + n ≤ 128) :
        (storePlaces t va.toNat (d.toNat % 2 ^ (8 * n)) ps).get pa n = d.toNat % 2 ^ (8 * n) := by
      have fits : d.toNat % 2 ^ (8 * n) < 2 ^ (8 * n) := Nat.mod_lt _ (Nat.two_pow_pos _)
      rw [one, storePlaces, List.foldl_cons, List.foldl_nil, Nat.sub_self, Nat.mul_zero, Nat.pow_zero, Nat.div_one, Nat.mod_mod]
      exact homeStore_get wf pos inside fits
    have kept : (storePlaces t va.toNat (d.toNat % 2 ^ (8 * n)) ps).inbound p = arrived.inbound p := by
      rw [storePlaces_inbound, ← spanPlaces_inbound (244 + p) (arrived.port p).dmajob .store (requestBlocks va n) arrived, places]
    cases ro with
    | true =>
      exact ⟨_, exec_inboundWrite_relaxed (serves up) (requestSize_of pos most) done, kept.trans empty, frame, value⟩
    | false =>
      refine ⟨_, (exec_inboundWrite_ordered (serves up) (requestSize_of pos most)).trans (congrArg _ (receive_performs empty done)), ?_, frame, value⟩
      rw [State.queued_port]

end Sys2Proof.Machine
end

section

/-! SUPPORT. What it is that a result of the model leaves memory in its canonical form (09 R226, log entry 4): one rule for each way in which
the model makes a result. -/

namespace Sys2Proof.Machine

open Sys2Proof

/-! ### The kinds of result -/

/-- The state that a stop brings with it, if any, is canonical. -/
def Stop.Inv : Stop → Prop
  | .loc _ _ (some t) => t.Inv
  | _ => True

/-- The state of a local trap does not depend on its cause. -/
theorem Stop.loc_inv {c x : Nat} {d v : Word} {b : Option State} (h : (Stop.loc c d b).Inv) : (Stop.loc x v b).Inv := by
  cases b with
  | none => exact trivial
  | some t => exact h

/-- What an effect satisfies; a stop in its place brings a canonical state, if any. -/
def Res.Post {α : Type} (P : α → Prop) : Res α → Prop
  | .ok a => P a
  | .error e => e.Inv

/-- The state that comes with a value is canonical. -/
abbrev firstInv {α : Type} (r : State × α) : Prop := r.1.Inv

/-- The next state of an outcome, if there is one, is canonical. -/
def nextInv : Host.Outcome State Fault Refusal → Prop
  | .next t => t.Inv
  | _ => True

/-- The state that comes with the places of a device access, or with its refusal, is canonical. -/
def DevAcc.Inv : DevAcc → Prop
  | .ok t _ | .refused t _ _ => t.Inv
  | .wait => True

/-- The same for a job descriptor that is read. -/
def JobRead.Inv : JobRead → Prop
  | .ok t _ _ | .refused t _ _ => t.Inv
  | .absent | .wait => True

/-- The same for a task that a slot takes up. -/
def PickUp.Inv : PickUp → Prop
  | .done t | .refused t _ _ => t.Inv
  | .wait => True

variable {α β : Type} {s t : State}

/-! ### States -/

theorem inv_of_mem (e : t.mem = s.mem) (h : s.Inv) : t.Inv := by rw [State.Inv, e]; exact h
theorem inv_of_bytes (e : t.bytes = s.bytes) (h : s.Inv) : t.Inv := inv_of_mem (State.mem_of_bytes e) h

theorem ite_inv {c : Prop} [Decidable c] (hs : s.Inv) (ht : t.Inv) : (if c then s else t).Inv := by split <;> assumption

theorem when_inv {c : Prop} [Decidable c] (hs : s.Inv) (ht : s.Inv → t.Inv) : (if c then t else s).Inv :=
  ite_inv (ht hs) hs

theorem unless_inv {c : Prop} [Decidable c] (hs : s.Inv) (ht : s.Inv → t.Inv) : (if c then s else t).Inv :=
  ite_inv hs (ht hs)

/-- A loop whose every turn keeps a property of what it carries. -/
theorem foldl_inv {P : β → Prop} {f : β → α → β} {l : List α} {b : β} (hf : ∀ b a, P b → P (f b a)) (hb : P b) : P (l.foldl f b) :=
  List.foldlRecOn l f hb fun b h a _ => hf b a h

/-- A component of a pair that a match has taken apart. -/
theorem fst_inv {x : State × α} {r : α} (e : x = (t, r)) (h : x.1.Inv) : t.Inv := by rw [e] at h; exact h

theorem ite_fst_inv {c : Prop} [Decidable c] {x y : State × α} (hx : x.1.Inv) (hy : y.1.Inv) : (if c then x else y).1.Inv := by
  split <;> assumption

/-! ### Options -/

theorem some_inv {P : α → Prop} {a : α} (h : P a) : ∀ b ∈ some a, P b := by rintro b ⟨⟩; exact h
theorem none_inv {P : α → Prop} : ∀ b ∈ (none : Option α), P b := nofun

theorem ite_option {P : α → Prop} {c : Prop} [Decidable c] {x y : Option α} (hx : ∀ b ∈ x, P b) (hy : ∀ b ∈ y, P b) :
    ∀ b ∈ (if c then x else y), P b := by split <;> assumption

theorem bind_option {P : α → Prop} {Q : β → Prop} {x : Option α} {f : α → Option β} (hx : ∀ a ∈ x, P a)
    (hf : ∀ a, P a → ∀ b ∈ f a, Q b) : ∀ b ∈ (x >>= f), Q b := by
  cases x with
  | none => exact none_inv
  | some a => exact hf a (hx a rfl)

theorem orElse_option {P : α → Prop} {x : Option α} {y : Unit → Option α} (hx : ∀ a ∈ x, P a) (hy : ∀ a ∈ y (), P a) :
    ∀ a ∈ x.orElse y, P a := by
  cases x with
  | none => exact hy
  | some a => exact hx

theorem map_option {P : α → Prop} {Q : β → Prop} {x : Option α} {f : α → β} (hx : ∀ a ∈ x, P a) (hf : ∀ a, P a → Q (f a)) :
    ∀ b ∈ x.map f, Q b := by
  cases x with
  | none => exact none_inv
  | some a => exact some_inv (hf a (hx a rfl))

theorem foldlM_option {P : β → Prop} {f : β → α → Option β} {l : List α} {b : β} (hf : ∀ b a, P b → ∀ c ∈ f b a, P c) (hb : P b) :
    ∀ c ∈ l.foldlM f b, P c := by
  induction l generalizing b with
  | nil => exact some_inv hb
  | cons a l ih => exact bind_option (hf b a hb) fun c hc => ih hc

/-- The state of an option that a match has found. -/
theorem someState_inv {x : Option State} (e : x = some t) (h : ∀ t ∈ x, t.Inv) : t.Inv := h t e
theorem some_fst_inv {x : Option (State × α)} {a : α} (e : x = some (t, a)) (h : ∀ r ∈ x, firstInv r) : t.Inv := h _ e

/-! ### Effects and stops -/

namespace Res.Post

variable {P : α → Prop} {Q : β → Prop} {x y : Res α}

protected theorem bind {f : α → Res β} (hx : x.Post P) (hf : ∀ a, P a → (f a).Post Q) : Res.Post Q (x >>= f) := by
  cases x with
  | ok a => exact hf a hx
  | error e => exact hx

protected theorem ite {c : Prop} [Decidable c] (hx : x.Post P) (hy : y.Post P) : Res.Post P (if c then x else y) := by
  split <;> assumption

theorem of_ok {a : α} (hx : x.Post P) (e : x = .ok a) : P a := by rw [e] at hx; exact hx
theorem of_error {e : Stop} (he : x = .error e) (hx : x.Post P) : e.Inv := by rw [he] at hx; exact hx

protected theorem foldlM {f : β → α → Res β} {l : List α} {b : β} (hf : ∀ b a, Q b → (f b a).Post Q) (hb : Q b) :
    Res.Post Q (l.foldlM f b) := by
  induction l generalizing b with
  | nil => exact hb
  | cons a l ih => exact Res.Post.bind (hf b a hb) fun c hc => ih hc

end Res.Post

/-- The state of an effect that a match has taken apart. -/
theorem okState_inv {x : Res State} (e : x = .ok t) (h : x.Post State.Inv) : t.Inv := h.of_ok e
theorem ok_inv {x : Res (State × α)} {a : α} (e : x = .ok (t, a)) (h : x.Post firstInv) : t.Inv := h.of_ok e

theorem need_inv {b : Bool} {e : Stop} (he : e.Inv) : (need b e).Post fun _ => True := by
  cases b with
  | false => exact he
  | true => trivial

theorem raise_inv {P : α → Prop} {c v : Nat} : (raise c v : Res α).Post P := trivial
theorem needAligned_inv {va n : Nat} : (needAligned va n).Post fun _ => True := need_inv trivial
theorem needValue_inv {b : Bool} {r : BitVec 5} : (needValue b r).Post fun _ => True := need_inv trivial

/-! ### Device accesses, job descriptors, tasks -/

theorem DevAcc.ok_inv {x : DevAcc} {ps : List (Nat × Nat × Nat)} (e : x = .ok t ps) (h : x.Inv) : t.Inv := by rw [e] at h; exact h
theorem DevAcc.refused_inv {x : DevAcc} {c va : Nat} (e : x = .refused t c va) (h : x.Inv) : t.Inv := by rw [e] at h; exact h
theorem JobRead.ok_inv {x : JobRead} {va v : Nat} (e : x = .ok t va v) (h : x.Inv) : t.Inv := by rw [e] at h; exact h
theorem JobRead.refused_inv {x : JobRead} {c va : Nat} (e : x = .refused t c va) (h : x.Inv) : t.Inv := by rw [e] at h; exact h
theorem PickUp.done_inv {x : PickUp} (e : x = .done t) (h : x.Inv) : t.Inv := by rw [e] at h; exact h
theorem PickUp.refused_inv {x : PickUp} {c va : Nat} (e : x = .refused t c va) (h : x.Inv) : t.Inv := by rw [e] at h; exact h

/-! ### Outcomes -/

theorem nextInv_ite {c : Prop} [Decidable c] {x y : Host.Outcome State Fault Refusal} (hx : nextInv x) (hy : nextInv y) :
    nextInv (if c then x else y) := by split <;> assumption

end Sys2Proof.Machine

end

section

/-! SUPPORT. Memory keeps its canonical form: the parts of the state, and the poison of memory (09 R226, R245). -/

namespace Sys2Proof.Machine

open Sys2Proof

variable {s t : State}

theorem State.modHart_inv {u k : Nat} {f : Slot → Slot} (h : s.Inv) : (s.modHart u k f).Inv := h
theorem State.modUnit_inv {u : Nat} {f : UnitSt → UnitSt} (h : s.Inv) : (s.modUnit u f).Inv := h
theorem State.modQuad_inv {q : Nat} {f : Quad → Quad} (h : s.Inv) : (s.modQuad q f).Inv := h
theorem State.modCluster_inv {c : Nat} {f : Cluster → Cluster} (h : s.Inv) : (s.modCluster c f).Inv := h
theorem State.modStation_inv {m : Nat} {f : Station → Station} (h : s.Inv) : (s.modStation m f).Inv := h
theorem State.modPkg_inv {f : Pkg → Pkg} (h : s.Inv) : (s.modPkg f).Inv := h
theorem State.modMe_inv {f : Slot → Slot} (h : s.Inv) : (s.modMe f).Inv := h
theorem State.took_inv (h : s.Inv) : s.took.Inv := h
theorem State.addPoison_inv {f : Nat} (h : s.Inv) : (s.addPoison f).Inv := inv_of_bytes (State.addPoison_bytes ..) h
theorem State.clearPoison_inv {a n : Nat} (h : s.Inv) : (s.clearPoison a n).Inv := h

end Sys2Proof.Machine

end

section

/-! SUPPORT. Memory keeps its canonical form: the interrupt files and controllers, and the events of the ports (09 R246, R248). -/

namespace Sys2Proof.Machine

open Sys2Proof

variable {s t : State}

theorem ifilePut_inv {f off v : Nat} (h : s.Inv) : (ifilePut s f off v).Inv := inv_of_bytes (ifilePut_bytes ..) h
theorem sendMsi_inv {pa id : Nat} (h : s.Inv) : (sendMsi s pa id).Inv := inv_of_bytes (sendMsi_bytes ..) h
theorem aplicForward_inv {d : Nat} (h : s.Inv) : (aplicForward s d).Inv := inv_of_bytes (aplicForward_bytes ..) h
theorem aplicSet_inv {d i : Nat} (h : s.Inv) : (aplicSet s d i).Inv := ite_inv (aplicForward_inv h) h

theorem aplicWrite_inv {d o v : Nat} (h : s.Inv) : (aplicWrite s d o v).Inv := by
  unfold aplicWrite
  extract_lets x setEn clrEn clr
  have hSet (m : BitVec 16) : (setEn m).Inv := aplicForward_inv h
  have hClrEn (m : BitVec 16) : (clrEn m).Inv := h
  have hClr (m : BitVec 16) : (clr m).Inv := h
  clear_value setEn clrEn clr
  exact ite_inv (aplicForward_inv h) <| ite_inv (ite_inv (ite_inv h h) h) <| ite_inv h <| ite_inv h <| ite_inv h <| ite_inv h <|
    ite_inv (aplicForward_inv h) <| ite_inv (aplicSet_inv h) <| ite_inv (hClr _) <| ite_inv (ite_inv (hClr _) h) <|
    ite_inv (hSet _) <| ite_inv (ite_inv (hSet _) h) <| ite_inv (hClrEn _) <| ite_inv (ite_inv (hClrEn _) h) <|
    ite_inv (sendMsi_inv h) <| ite_inv (ite_inv h h) h

theorem portSignal_inv {p kind : Nat} (h : s.Inv) : (portSignal s p kind).Inv := inv_of_bytes (portSignal_bytes ..) h
theorem portError_inv {p : Nat} (h : s.Inv) : (portError s p).Inv := inv_of_bytes (portError_bytes ..) h

end Sys2Proof.Machine

end

section

/-! SUPPORT. Memory keeps its canonical form: the caches, the home slices and the remote-data caches (09 R231 to R243). -/

namespace Sys2Proof.Machine

open Sys2Proof

variable {s t : State}

theorem State.l1Drop_inv {u line : Nat} (h : s.Inv) : (s.l1Drop u line).Inv := inv_of_bytes (State.l1Drop_bytes ..) h

theorem State.dropQuads_inv {d : Nat} {vec : BitVec 24} {line : Nat} {but : Option Nat} (h : s.Inv) :
    (s.dropQuads d vec line but).Inv := inv_of_bytes (State.dropQuads_bytes ..) h

theorem State.rdcDrop_inv {d line : Nat} (h : s.Inv) : (s.rdcDrop d line).Inv := inv_of_bytes (State.rdcDrop_bytes ..) h
theorem State.l2Fill_inv {line : Nat} {bad : Bool} (h : s.Inv) : (s.l2Fill line bad).Inv := inv_of_bytes (State.l2Fill_bytes ..) h
theorem State.l2Return_inv {line : Nat} (h : s.Inv) : (s.l2Return line).Inv := inv_of_bytes (State.l2Return_bytes ..) h
theorem State.homeRead_inv {u line : Nat} (h : s.Inv) : (s.homeRead u line).Inv := inv_of_bytes (State.homeRead_bytes ..) h
theorem State.homePeek_inv {line : Nat} (h : s.Inv) : (s.homePeek line).Inv := inv_of_bytes (State.homePeek_bytes ..) h
theorem State.homeOwn_inv {u line : Nat} (h : s.Inv) : (s.homeOwn u line).Inv := inv_of_bytes (State.homeOwn_bytes ..) h
theorem State.homeWrite_inv {line : Nat} (h : s.Inv) : (s.homeWrite line).Inv := inv_of_bytes (State.homeWrite_bytes ..) h
theorem State.applyInval_inv {d : Nat} (h : s.Inv) : (s.applyInval d).Inv := inv_of_bytes (State.applyInval_bytes ..) h
theorem State.applyInvals_inv {d : Nat} (h : s.Inv) : (s.applyInvals d).Inv := inv_of_bytes (State.applyInvals_bytes ..) h
theorem State.rdcLoad_inv {d line : Nat} (h : s.Inv) : (s.rdcLoad d line).Inv := inv_of_bytes (State.rdcLoad_bytes ..) h

theorem State.l1Insert_inv {u pa : Nat} {dirty : Bool} {copy : Option (BitVec 2048)} {bad : BitVec 4} (h : s.Inv) :
    (s.l1Insert u pa dirty copy bad).Inv := inv_of_bytes (State.l1Insert_bytes ..) h

theorem State.rdcFill_inv {u pa : Nat} (h : s.Inv) : (s.rdcFill u pa).Inv := inv_of_bytes (State.rdcFill_bytes ..) h
theorem State.l1Fill_inv {u pa : Nat} (h : s.Inv) : (s.l1Fill u pa).Inv := inv_of_bytes (State.l1Fill_bytes ..) h
theorem State.wrote_inv {who line : Nat} (h : s.Inv) : (s.wrote who line).Inv := h
theorem State.readHome_inv {pa : Nat} {nc : Bool} (h : s.Inv) : (s.readHome pa nc).Inv := inv_of_bytes (State.readHome_bytes ..) h

theorem State.readSector_inv {u pa n : Nat} {alloc nc : Bool} (h : s.Inv) :
    (s.readSector u pa n alloc nc).1.Inv := inv_of_bytes (State.readSector_bytes ..) h

theorem State.putHome_inv {who pa n v : Nat} {nc : Bool} (h : s.Inv) : (s.putHome who pa n v nc).Inv :=
  ite_inv (portError_inv h) (State.put_wf h)

theorem State.writeSector_inv {u : Nat} {w : WtAccess} {v : Nat} {bypass nc : Bool} (h : s.Inv) :
    (s.writeSector u w v bypass nc).Inv :=
  ite_inv (State.put_wf h) (State.putHome_inv (ite_inv (State.l1Insert_inv (State.homeOwn_inv h)) (unless_inv (ite_inv h
    (State.homeWrite_inv h)) (fun h1 => when_inv h1 State.l1Drop_inv))))

theorem State.readSpan_inv {u pa n : Nat} {alloc nc : Bool} (h : s.Inv) :
    (s.readSpan u pa n alloc nc).1.Inv := inv_of_bytes (State.readSpan_bytes ..) h

theorem State.writeSpan_inv {u : Nat} {w : WtAccess} {v : Nat} {bypass nc : Bool} (h : s.Inv) :
    (s.writeSpan u w v bypass nc).Inv :=
  foldl_inv (P := State.Inv) (fun _ ⟨_, _⟩ h1 => State.writeSector_inv h1) h

theorem State.homeStore_inv {pa n v : Nat} (h : s.Inv) : (s.homeStore pa n v).Inv :=
  foldl_inv (P := State.Inv) (fun _ ⟨_, _⟩ h1 => State.putHome_inv (ite_inv h1 (State.homeWrite_inv h1))) h

theorem State.homeLoad_inv {pa n : Nat} (h : s.Inv) : (s.homeLoad pa n).1.Inv := inv_of_bytes (State.homeLoad_bytes ..) h

theorem State.engineLoad_inv {pa n : Nat} {nc : Bool} (h : s.Inv) : (s.engineLoad pa n nc).1.Inv := by
  unfold State.engineLoad
  split
  · exact h
  · exact State.homeLoad_inv h

theorem State.engineStore_inv {pa n v : Nat} {nc : Bool} (h : s.Inv) : (s.engineStore pa n v nc).Inv :=
  ite_inv (State.putHome_inv h) (State.homeStore_inv h)

theorem State.homeAtomic_inv {u k pa n : Nat} {f : Nat → Option Nat} (h : s.Inv) : (s.homeAtomic u k pa n f).1.Inv := by
  unfold State.homeAtomic
  split
  · dsimp only
    split
    · exact State.putHome_inv h
    · exact h
  · split
    · dsimp only
      split
      · exact State.putHome_inv (State.homeWrite_inv h)
      · exact State.homeWrite_inv h
    · dsimp only
      split
      · exact State.putHome_inv (State.applyInvals_inv (State.homeWrite_inv h))
      · exact State.applyInvals_inv (State.homeWrite_inv h)

end Sys2Proof.Machine

end

section

/-! SUPPORT. Memory keeps its canonical form: range tables and the translation of one access (15 R349 to R364). -/

namespace Sys2Proof.Machine

open Sys2Proof

variable {s t : State}

theorem writeDesc_inv {e : RangeEntry} (h : s.Inv) : (writeDesc s e).Inv := State.homeStore_inv h

theorem State.setTable_inv {u : Nat} {r : List RangeEntry} (h : s.Inv) :
    (s.setTable u r).Inv := inv_of_bytes (State.setTable_bytes ..) h

theorem findRange_inv {u : Nat} {j : BitVec 16} {va : Nat} (h : s.Inv) :
    (findRange s u j va).1.Inv := inv_of_bytes (findRange_bytes ..) h

theorem State.broadcast_inv {b : Bcast} (h : s.Inv) : (s.broadcast b).Inv := h

theorem State.bcastArrive_inv {u : Nat} (h : s.Inv) : (s.bcastArrive u).Inv := by
  unfold State.bcastArrive
  split
  · exact h
  · exact when_inv (State.setTable_inv h) (fun h2 => foldl_inv (P := State.Inv) (fun _ _ h1 => State.setTable_inv h1) h2)

theorem cancelOrder_inv {m i : Nat} {o : Order} {va : Nat} (h : s.Inv) : (cancelOrder s m i o va).Inv :=
  State.modStation_inv (State.homeStore_inv (State.broadcast_inv (writeDesc_inv h)))

theorem stateRule_inv {u : Nat} {e : RangeEntry} {va : Nat} {a : Acc} (h : s.Inv) : (stateRule s u e va a).1.Inv := by
  unfold stateRule
  split
  · exact h
  · split
    · split
      · exact h
      · split
        · exact State.setTable_inv h
        · exact h
    · split
      · split <;> exact h
      · split
        · split
          · split
            · split
              · exact h
              · exact cancelOrder_inv h
            · exact h
          · exact h
        · exact h

theorem translate_inv {u : Nat} {j : BitVec 16} {va : Nat} {a : Acc} (h : s.Inv) : (translate s u j va a).1.Inv := by
  unfold translate
  split
  · exact h
  · have h1 : (findRange s u j va).1.Inv := findRange_inv h
    generalize findRange s u j va = found at h1 ⊢
    obtain ⟨t, e⟩ := found
    cases e with
    | none => exact h1
    | some e => exact ite_fst_inv h1 (ite_fst_inv h1 (ite_fst_inv h1 (stateRule_inv h1)))

end Sys2Proof.Machine

end

section

/-! SUPPORT. Memory keeps its canonical form: traps and local events, the ways an instruction ends, the accesses of a hart, its registers
and its fetch (01 R51 to R53, 09 R226 to R242). -/

namespace Sys2Proof.Machine

open Sys2Proof

variable {s t : State}

theorem vectorTrap_inv {u k cause : Nat} {tval pc : Word} {instr : Nat} (h : s.Inv) :
    (vectorTrap s u k cause tval pc instr).Inv := by
  unfold vectorTrap
  dsimp only
  split <;> exact h

theorem takeTrap_inv {cause tval instr : Nat} (h : s.Inv) : (takeTrap s cause tval instr).Inv := ite_inv (vectorTrap_inv h) h
theorem wakeWfi_inv {u : Nat} (h : s.Inv) : (wakeWfi s u).Inv := foldl_inv (P := State.Inv) (fun _ _ h1 => ite_inv h1 h1) h
theorem wakePark_inv {u : Nat} {code : BitVec 4} (h : s.Inv) : (wakePark s u code).Inv := inv_of_bytes (wakePark_bytes ..) h
theorem enterHandler_inv {u k cause : Nat} {detail pc : Word} (h : s.Inv) : (enterHandler s u k cause detail pc).Inv := h

theorem enterPending_inv {u : Nat} (h : s.Inv) : (enterPending s u).Inv := by
  unfold enterPending
  dsimp only
  split
  · exact h
  · split
    · exact h
    · split
      · exact h
      · exact ite_inv h h

theorem localTrap_inv {u k cause : Nat} {detail : Word} (h : s.Inv) : (localTrap s u k cause detail).Inv := by
  unfold localTrap
  exact enterPending_inv (wakeWfi_inv (State.modUnit_inv (State.modHart_inv h)))

theorem serviceWake_inv {u : Nat} (h : s.Inv) : (serviceWake s u).Inv := enterPending_inv (wakeWfi_inv h)
theorem inboxOverflow_inv {u : Nat} (h : s.Inv) : (inboxOverflow s u).Inv := enterPending_inv (wakeWfi_inv h)
theorem State.again_inv {n : Nat} (h : s.Inv) : (s.again n).Inv := h

theorem takePark_inv {code await : Nat} {on : Option Nat} (h : s.Inv) :
    (takePark s code await on).Inv := ite_inv (takeTrap_inv h) h

theorem State.waitTurn_inv {u : Nat} {w : Nat × Nat} (h : s.Inv) : (s.waitTurn u w).Inv := ite_inv h h

theorem finish_inv {word : Nat} {r : Res State} (h : s.Inv) (hr : r.Post State.Inv) : nextInv (finish word s r) := by
  cases r with
  | ok t => exact hr
  | error e =>
    cases e with
    | trap c v => exact takeTrap_inv h
    | illegal => exact takeTrap_inv h
    | loc c d b => exact localTrap_inv (by cases b <;> assumption)
    | park c a o => exact nextInv_ite (takeTrap_inv h) (takePark_inv h)
    | hold p => cases p <;> exact h
    | request => exact State.waitTurn_inv h
    | refuse x => exact trivial

theorem issueN_inv {n : Nat} {i : Instr} {ok fmt : Bool} (h : s.Inv) {body : State → Res State} (hb :
    ∀ t, t.Inv → (body t).Post State.Inv) :
    nextInv (issueN n i ok fmt s body) :=
  nextInv_ite (takeTrap_inv h) (nextInv_ite (takeTrap_inv h) (finish_inv h (hb _ h)))

theorem issue_inv {i : Instr} {ok : Bool} (h : s.Inv) {body : State → Res State} (hb : ∀ t, t.Inv → (body t).Post State.Inv) :
    nextInv (issue i ok s body) := issueN_inv h hb

theorem waitAcquire_inv {scope : Nat} : (waitAcquire s scope).Post fun _ => True := need_inv trivial
theorem waitRelease_inv : (waitRelease s).Post fun _ => True := need_inv trivial
theorem waitTfence_inv : (waitTfence s).Post fun _ => True := need_inv trivial
theorem replied_inv {u k : Nat} (h : s.Inv) : (replied s u k).Inv := ite_inv h (State.applyInvals_inv h)
theorem overlapReplied_inv {u pa n : Nat} (h : s.Inv) : (overlapReplied s u pa n).Inv := inv_of_bytes (overlapReplied_bytes ..) h
theorem needRequest_inv {hit : Bool} : (needRequest s hit).Post fun _ => True := need_inv trivial
theorem needFetchRequest_inv {hit : Bool} : (needFetchRequest s hit).Post fun _ => True := need_inv trivial
theorem State.acquired_inv (h : s.Inv) : s.acquired.Inv := h

theorem windowAddr_inv {va n : Nat} {a : Acc} : (windowAddr s va n a).Post fun _ => True :=
  .ite raise_inv (.ite trivial (.ite (.ite raise_inv (.ite raise_inv (.ite raise_inv (.ite raise_inv trivial)))) (.ite
    (.ite raise_inv trivial) raise_inv)))

theorem checkWindows_inv {va n : Nat} {a : Acc} : (checkWindows s va n a).Post fun _ => True := by
  unfold checkWindows
  split
  · split
    · exact raise_inv
    · exact trivial
  · exact trivial

theorem checkLocks_inv {lo hi : Nat} {store : Bool} : (checkLocks s lo hi store).Post fun _ => True := by
  unfold checkLocks
  split
  · exact trivial
  · exact .ite (.ite trivial trivial) trivial

theorem locate_inv {va n : Nat} {a : Acc} {big : Bool} (h : s.Inv) : (locate s va n a big).Post firstInv := by
  unfold locate
  refine .bind (need_inv trivial) fun _ _ => .bind windowAddr_inv fun _ _ => ?_
  split
  · exact h
  · refine .bind checkWindows_inv fun _ _ => ?_
    split
    · exact trivial
    · exact raise_inv
    · rename_i found
      have ht := fst_inv found (translate_inv h)
      refine .ite (.bind (need_inv trivial) fun _ _ => ?_) (.bind (need_inv trivial) fun _ _ => ?_) <;>
        exact .bind (P := fun _ => True) (.ite trivial checkLocks_inv) fun _ _ => .bind (need_inv trivial) fun _ _ =>
          unless_inv ht overlapReplied_inv

theorem needClean_inv {p : Place} {n : Nat} : (needClean s p n).Post fun _ => True := by
  unfold needClean
  split
  · exact raise_inv
  · exact trivial

theorem needCleanHome_inv {p : Place} {n : Nat} : (needCleanHome s p n).Post fun _ => True := by
  unfold needCleanHome
  split
  · exact raise_inv
  · exact trivial

theorem waitDevice_inv : (waitDevice s).Post fun _ => True := .bind waitRelease_inv fun _ _ => waitAcquire_inv

theorem portValue_inv {p : Nat} (h : s.Inv) : (portValue s p).Post firstInv := by
  unfold portValue
  split
  · exact .ite h trivial
  · exact .ite trivial (portError_inv h)

theorem deviceLoad_inv {pa n : Nat} (h : s.Inv) : (deviceLoad s pa n).Post firstInv := by
  unfold deviceLoad
  refine .bind waitDevice_inv fun _ _ => ?_
  dsimp only
  split
  · exact .bind (portValue_inv h) fun ⟨_, _⟩ h1 => h1
  · exact h

theorem deviceStore_inv {pa n v : Nat} (h : s.Inv) : (deviceStore s pa n v).Post State.Inv := by
  unfold deviceStore
  refine .bind waitDevice_inv fun _ _ => ?_
  dsimp only
  split
  · exact .ite (ite_inv h (portError_inv h)) (.bind (portValue_inv h) fun ⟨_, _⟩ h1 => h1)
  · exact h
  · exact ite_inv h h
  · exact h

theorem loadAcc_inv {va n : Nat} {a : Acc} {alloc big : Bool} (h : s.Inv) : (loadAcc s va n a alloc big).Post firstInv := by
  unfold loadAcc
  refine .bind (locate_inv h) fun ⟨_, _⟩ h1 => ?_
  dsimp only
  exact .ite (.bind (deviceLoad_inv h1) fun ⟨_, _⟩ h2 => h2) (.bind needRequest_inv fun _ _ => .bind needClean_inv fun _ _ =>
    State.readSpan_inv h1)

theorem loadAt_inv {va n : Nat} (h : s.Inv) : (loadAt s va n).Post firstInv := loadAcc_inv h

theorem storePlaceAt_inv {step : BitVec 48} {p : Place} {n v : Nat} {bypass : Bool} (h : s.Inv) :
    (storePlaceAt s step p n v bypass).Inv :=
  ite_inv (State.put_wf h) (State.writeSpan_inv h)

theorem storePlace_inv {p : Place} {n v : Nat} {bypass : Bool} (h : s.Inv) : (storePlace s p n v bypass).Inv := storePlaceAt_inv h
theorem waitMmrev_inv : (waitMmrev s).Post fun _ => True := .ite (.bind waitRelease_inv fun _ _ => (need_inv trivial)) trivial

theorem storePart_inv {step : BitVec 48} {va n v : Nat} {a : Acc} {bypass big : Bool} (h : s.Inv) :
    (storePart s step va n v a bypass big).Post State.Inv :=
  .bind (locate_inv h) fun ⟨_, _⟩ h1 => .ite (deviceStore_inv h1) (.bind needRequest_inv fun _ _ => storePlaceAt_inv h1)

theorem storeAcc_inv {va n v : Nat} {a : Acc} {bypass big : Bool} (h : s.Inv) : (storeAcc s va n v a bypass big).Post State.Inv :=
  .bind waitMmrev_inv fun _ _ => storePart_inv h

theorem storeAt_inv {va n v : Nat} (h : s.Inv) : (storeAt s va n v).Post State.Inv := storeAcc_inv h

theorem atomicPart_inv {va n : Nat} {a : Acc} {win : Bool} {f : Nat → Option Nat} (h : s.Inv) :
    (atomicPart s va n a win f).Post firstInv :=
  .bind (locate_inv h) fun ⟨_, _⟩ h1 => .bind (need_inv trivial) fun _ _ => .bind (need_inv trivial) fun _ _ =>
    .bind needRequest_inv fun _ _ => .bind needCleanHome_inv fun _ _ => State.homeAtomic_inv (ite_inv h1 (State.homePeek_inv h1))

theorem atomicAt_inv {va n : Nat} {a : Acc} {win : Bool} {f : Nat → Option Nat} (h : s.Inv) :
    (atomicAt s va n a win f).Post firstInv :=
  .bind (atomicPart_inv h) fun ⟨_, _⟩ h1 => .bind waitMmrev_inv fun _ _ => h1

theorem loadSpan_inv {va n : Nat} {big : Bool} (h : s.Inv) : (loadSpan s va n big).Post firstInv :=
  Res.Post.foldlM (Q := firstInv) (fun ⟨_, _⟩ ⟨_, _⟩ h1 => .bind (loadAcc_inv h1) fun ⟨_, _⟩ h2 => h2) h

theorem loadWord_inv {va : Nat} (h : s.Inv) : (loadWord s va).Post firstInv := .bind (loadAt_inv h) fun ⟨_, _⟩ h1 => h1

theorem elementValue_inv {g : StreamGen} {e : StreamElt} (h : s.Inv) : (elementValue s g e).Post firstInv := by
  have load : (loadAt s g.next.toNat (2 ^ g.ew.toNat)).Post firstInv := loadAt_inv h
  unfold elementValue
  split
  · exact .ite trivial raise_inv
  · split
    · split
      · rename_i found
        exact ok_inv found load
      · exact raise_inv
      · rename_i stop
        exact Stop.loc_inv (Res.Post.of_error stop load)
      · rename_i stop
        exact Res.Post.of_error stop load
    · exact h

theorem popStream_inv {i : Nat} (h : s.Inv) : (popStream s i).Post firstInv := by
  unfold popStream
  dsimp only
  split
  · exact trivial
  · exact .bind (need_inv trivial) fun _ _ => .bind (elementValue_inv h) fun ⟨_, _⟩ h1 => h1

theorem readX_inv {r : BitVec 5} (h : s.Inv) :
    (readX s r).Post firstInv := .ite (.ite trivial (popStream_inv h)) (.ite raise_inv h)

theorem writeX_inv {r : BitVec 5} {v : Word} (h : s.Inv) : (writeX s r v).Post State.Inv :=
  .ite (.ite trivial (.ite trivial (.bind (storeAt_inv h) fun _ h1 => h1))) h

theorem codeLine_inv {u line : Nat} {nc : Bool} (h : s.Inv) : (codeLine s u line nc).1.Inv := by
  unfold codeLine
  split
  · exact State.readHome_inv h
  · dsimp only
    split <;> exact State.rdcLoad_inv h

theorem icFill_inv {u va pa : Nat} {locked nc : Bool} (h : s.Inv) : (icFill s u va pa locked nc).Inv := by
  unfold icFill
  dsimp only
  exact codeLine_inv h

theorem fetchPlace_inv {va n : Nat} (h : s.Inv) : (fetchPlace s va n).Post firstInv := locate_inv h

theorem needCleanCode_inv {l : ICLine} {va n : Nat} : (needCleanCode l va n).Post fun _ => True := by
  unfold needCleanCode
  split
  · exact raise_inv
  · exact trivial

theorem fetch_inv {va n : Nat} (h : s.Inv) : (fetch s va n).Post firstInv := by
  unfold fetch
  refine .bind (fetchPlace_inv h) fun ⟨_, _⟩ h1 => ?_
  dsimp only
  split
  · exact .bind needCleanHome_inv fun _ _ => h1
  · refine .bind needFetchRequest_inv fun _ _ => ?_
    split
    · refine .bind needCleanCode_inv fun _ _ => ?_
      split
      · exact h1
      · exact icFill_inv h1
    · split
      · exact h1
      · exact icFill_inv h1

theorem fetchApp_inv (h : s.Inv) : (fetchApp s).Post firstInv := by
  unfold fetchApp
  refine .bind (P := fun _ => True) ?_ fun _ _ => ?_
  · split
    · exact raise_inv
    · exact trivial
  · exact .bind (fetch_inv h) fun ⟨_, _⟩ h1 => .ite h1 (.bind (fetch_inv h1) fun ⟨_, _⟩ h2 => h2)

theorem fetchWord_inv (h : s.Inv) : (fetchWord s).Post firstInv := by
  unfold fetchWord
  refine .bind (fetch_inv h) fun ⟨_, _⟩ h1 => ?_
  dsimp only
  split
  · exact .bind (fetch_inv h1) fun ⟨_, _⟩ h2 => h2
  · exact .ite (.ite (.bind (fetch_inv h1) fun ⟨_, _⟩ h2 => h2) h1) h1

theorem fetchInstr_inv (h : s.Inv) : (fetchInstr s).Post firstInv := .ite (fetchApp_inv h) (fetchWord_inv h)

theorem fetchStop_inv {e : Stop} (h : s.Inv) (he : e.Inv) : nextInv (fetchStop s e) := by
  unfold fetchStop
  split
  · exact nextInv_ite h (finish_inv h trivial)
  · exact finish_inv h he

theorem read2_inv {a b : BitVec 5} (h : s.Inv) : (read2 s a b).Post firstInv :=
  .bind (readX_inv h) fun ⟨_, _⟩ h1 => .bind (readX_inv h1) fun ⟨_, _⟩ h2 => h2

theorem readAddr_inv {a : BitVec 5} {i : BitVec 12} (h : s.Inv) : (readAddr s a i).Post firstInv :=
  .bind (readX_inv h) fun ⟨_, _⟩ h1 => h1

theorem loadBlock_inv {va n al : Nat} (h : s.Inv) : (loadBlock s va n al).Post firstInv :=
  .bind needAligned_inv fun _ _ => .bind (loadSpan_inv h) fun ⟨_, _⟩ h1 => h1

theorem needHeldZero_inv {va : Nat} {ws : List Word} {masks : List Nat} : (needHeldZero va ws masks).Post fun _ => True := by
  unfold needHeldZero
  split
  · exact raise_inv
  · exact trivial

end Sys2Proof.Machine

end

section

/-! SUPPORT. Memory keeps its canonical form: the RISC-V base (03 R91, Table 3.2). -/

namespace Sys2Proof.Machine

open Sys2Proof

variable {s t : State}

theorem jumpTo_inv {t : Word} (h : s.Inv) : (jumpTo s t).Post State.Inv := .bind (need_inv trivial) fun _ _ => h

theorem rvBody_inv {op : RvOp} (h : s.Inv) : (rvBody op s).Post State.Inv := by
  unfold rvBody
  split
  · exact writeX_inv h
  · exact writeX_inv h
  · exact .bind (jumpTo_inv h) fun _ h1 => writeX_inv h1
  · exact .bind (readX_inv h) fun ⟨_, _⟩ h1 => .bind (jumpTo_inv h1) fun _ h2 => writeX_inv h2
  · exact .bind (read2_inv h) fun ⟨_, _, _⟩ h1 => .ite (jumpTo_inv h1) h1
  · exact .bind (read2_inv h) fun ⟨_, _, _⟩ h1 => writeX_inv h1
  · exact .bind (read2_inv h) fun ⟨_, _, _⟩ h1 => writeX_inv h1
  · exact .bind (readX_inv h) fun ⟨_, _⟩ h1 => writeX_inv h1
  · exact .bind (readX_inv h) fun ⟨_, _⟩ h1 => writeX_inv h1
  · exact .bind (readX_inv h) fun ⟨_, _⟩ h1 => writeX_inv h1

theorem execRvAluOrBranch_inv {op : RvOp} (h : s.Inv) : nextInv (execRvAluOrBranch op s) := issue_inv h fun _ h1 => rvBody_inv h1

theorem rvLoadBody_inv {op : LoadOp} {d a : BitVec 5} {i : BitVec 12} (h : s.Inv) : (rvLoadBody op d a i s).Post State.Inv :=
  .bind (readAddr_inv h) fun ⟨_, _⟩ h1 => .bind needAligned_inv fun _ _ => .bind (loadAt_inv h1) fun ⟨_, _⟩ h2 => writeX_inv h2

theorem execRvLoad_inv {op : LoadOp} {d a : BitVec 5} {i : BitVec 12} (h : s.Inv) : nextInv (execRvLoad op d a i s) :=
  issue_inv h fun _ h1 => rvLoadBody_inv h1

theorem rvStoreBody_inv {op : StoreOp} {a b : BitVec 5} {i : BitVec 12} (h : s.Inv) : (rvStoreBody op a b i s).Post State.Inv :=
  .bind (readAddr_inv h) fun ⟨_, _⟩ h1 => .bind (readX_inv h1) fun ⟨_, _⟩ h2 => .bind needAligned_inv fun _ _ => storeAt_inv h2

theorem execRvStore_inv {op : StoreOp} {a b : BitVec 5} {i : BitVec 12} (h : s.Inv) : nextInv (execRvStore op a b i s) :=
  issue_inv h fun _ h1 => rvStoreBody_inv h1

theorem waitAqRl_inv {aq rl : Bool} : (waitAqRl s aq rl).Post fun _ => True :=
  .bind (P := fun _ => True) (.ite waitRelease_inv trivial) fun _ _ => .ite waitAcquire_inv trivial

theorem rvAmoBody_inv {op : AmoOp} {dbl aq rl : Bool} {d a b : BitVec 5} (h : s.Inv) :
    (rvAmoBody op dbl aq rl d a b s).Post State.Inv :=
  .bind (read2_inv h) fun ⟨_, _, _⟩ h1 => .bind needAligned_inv fun _ _ => .bind waitAqRl_inv fun _ _ =>
    .bind (atomicAt_inv h1) fun ⟨_, _⟩ h2 => writeX_inv (ite_inv h2 h2)

theorem execRvAmo_inv {op : AmoOp} {dbl aq rl : Bool} {d a b : BitVec 5} (h : s.Inv) : nextInv (execRvAmo op dbl aq rl d a b s) :=
  issue_inv h fun _ h1 => rvAmoBody_inv h1

theorem lrBody_inv {dbl aq rl : Bool} {d a : BitVec 5} (h : s.Inv) : (lrBody dbl aq rl d a s).Post State.Inv :=
  .bind (readX_inv h) fun ⟨_, _⟩ h1 => .bind needAligned_inv fun _ _ => .bind waitAqRl_inv fun _ _ =>
    .bind (loadAcc_inv (State.applyInvals_inv h1)) fun ⟨_, _⟩ h2 => writeX_inv (ite_inv h2 h2)

theorem execLr_inv {dbl aq rl : Bool} {d a : BitVec 5} (h : s.Inv) : nextInv (execLr dbl aq rl d a s) :=
  issue_inv h fun _ h1 => lrBody_inv h1

theorem scBody_inv {dbl aq rl : Bool} {d a b : BitVec 5} (h : s.Inv) : (scBody dbl aq rl d a b s).Post State.Inv :=
  .bind (read2_inv h) fun ⟨_, _, _⟩ h1 => .bind needAligned_inv fun _ _ => .bind waitAqRl_inv fun _ _ =>
    .bind (locate_inv h1) fun ⟨_, _⟩ h2 => .bind (need_inv trivial) fun _ _ => .bind waitMmrev_inv fun _ _ =>
    .bind needRequest_inv fun _ _ => writeX_inv (ite_inv (ite_inv (replied_inv (storePlace_inv h2)) h2) (ite_inv (replied_inv
    (storePlace_inv h2)) h2))

theorem execSc_inv {dbl aq rl : Bool} {d a b : BitVec 5} (h : s.Inv) : nextInv (execSc dbl aq rl d a b s) :=
  issue_inv h fun _ h1 => scBody_inv h1

theorem fenceBody_inv {scope : Nat} (h : s.Inv) : (fenceBody scope s).Post State.Inv :=
  .bind waitTfence_inv fun _ _ => .bind waitRelease_inv fun _ _ => .bind waitAcquire_inv fun _ _ => h

theorem execFence_inv {fm pred succ : BitVec 4} {d a : BitVec 5} (h : s.Inv) : nextInv (execFence fm pred succ d a s) :=
  issue_inv h (fun _ h1 => .ite h1 (fenceBody_inv h1))

theorem icRefetch_inv {u : Nat} {l : ICLine} (h : s.Inv) : (icRefetch s u l).Inv := by
  unfold icRefetch
  split
  · rename_i e
    exact icFill_inv (fst_inv e (translate_inv h) :)
  · exact h

theorem execFenceI_inv {d a : BitVec 5} {i : BitVec 12} (h : s.Inv) : nextInv (execFenceI d a i s) :=
  issue_inv h (fun _ h1 => .bind (need_inv trivial) fun _ _ => .bind (need_inv trivial) fun _ _ =>
    foldl_inv (P := State.Inv) (fun _ _ h2 => icRefetch_inv h2) h1)

theorem execEcall_inv (h : s.Inv) : nextInv (execEcall s) := issue_inv h fun _ _ => .ite trivial raise_inv
theorem execEbreak_inv (h : s.Inv) : nextInv (execEbreak s) := issue_inv h fun _ _ => raise_inv

theorem wfiBody_inv {k : Slot} (h : s.Inv) : (wfiBody k s).Post State.Inv :=
  .bind (need_inv trivial) fun _ _ => .bind (need_inv trivial) fun _ _ => .bind (need_inv trivial) fun _ _ => h

theorem execWfi_inv (h : s.Inv) : nextInv (execWfi s) := issue_inv h fun _ h1 => wfiBody_inv h1

end Sys2Proof.Machine

end

section

/-! SUPPORT. Memory keeps its canonical form: the scalar extension instructions and the ordering instructions (04 R113 to R134, 10 R269 to
R275). -/

namespace Sys2Proof.Machine

open Sys2Proof

variable {s t : State}

theorem State.asHart_inv {u k : Nat} (h : s.Inv) : (s.asHart u k).Inv := h
theorem State.back_inv (h : t.Inv) : (s.back t).Inv := h
theorem execFmt_inv {p : BitVec 12} (h : s.Inv) : nextInv (execFmt p s) := issue_inv h (fun _ h1 => h1)

theorem sbindBody_inv {g : BitVec 2} {a b : BitVec 5} (h : s.Inv) : (sbindBody g a b s).Post State.Inv :=
  .bind (read2_inv h) fun ⟨_, _, _⟩ h1 => .bind needValue_inv fun _ _ => .bind needValue_inv fun _ _ =>
    .bind needAligned_inv fun _ _ => .bind (need_inv trivial) fun _ _ => h1

theorem execSbind_inv {g : BitVec 2} {a b : BitVec 5} (h : s.Inv) : nextInv (execSbind g a b s) :=
  issue_inv h fun _ h1 => sbindBody_inv h1

theorem execSunbind_inv {g : BitVec 2} (h : s.Inv) : nextInv (execSunbind g s) := issue_inv h (fun _ h1 => h1)

theorem execSgstat_inv {d : BitVec 5} {g : BitVec 2} (h : s.Inv) : nextInv (execSgstat d g s) :=
  issue_inv h (fun _ h1 => writeX_inv h1)

theorem execStreamFetch_inv {u k i : Nat} (h : s.Inv) : nextInv (execStreamFetch u k i s) := by
  unfold execStreamFetch
  dsimp only
  split
  · exact h
  · split
    · exact h
    · split
      · rename_i e
        exact State.back_inv (s := s) (ok_inv e (loadAt_inv h) :)
      · split <;> exact h

theorem queueHeld_inv {u k port : Nat} (h : s.Inv) : (queueHeld s u k port).Inv := by
  unfold queueHeld
  dsimp only
  repeat' split
  all_goals exact h

theorem deliverPort_inv {u k port : Nat} {v : Word} (h : s.Inv) : (deliverPort s u k port v).Inv := queueHeld_inv h

theorem State.stowHeld_inv {u k : Nat} (h : s.Inv) : (s.stowHeld u k).Inv := by
  unfold State.stowHeld
  dsimp only
  split <;> exact h

theorem State.takeHeld_inv {u k : Nat} (h : s.Inv) : (s.takeHeld u k).Inv := by
  unfold State.takeHeld
  dsimp only
  split <;> exact h

theorem qbindBody_inv {n : BitVec 3} {a : BitVec 5} (h : s.Inv) : (qbindBody n a s).Post State.Inv :=
  .bind (readX_inv h) fun ⟨_, _⟩ h1 => .bind needValue_inv fun _ _ =>
    .bind (P := fun _ => True) (.ite (.bind needValue_inv fun _ _ => needValue_inv) needValue_inv) fun _ _ => h1

theorem execQbind_inv {n : BitVec 3} {a : BitVec 5} (h : s.Inv) : nextInv (execQbind n a s) :=
  issue_inv h fun _ h1 => qbindBody_inv h1

theorem needQueue_inv {n : BitVec 3} : (needQueue s n).Post fun _ => True := need_inv trivial

theorem qpushBody_inv {n : BitVec 3} {a : BitVec 5} (h : s.Inv) : (qpushBody n a s).Post State.Inv :=
  .bind (readX_inv h) fun ⟨_, _⟩ h1 => .bind needQueue_inv fun _ _ => .bind (need_inv trivial) fun _ _ =>
    .bind (need_inv trivial) fun _ _ => h1

theorem execQpush_inv {n : BitVec 3} {a : BitVec 5} (h : s.Inv) : nextInv (execQpush n a s) :=
  issue_inv h fun _ h1 => qpushBody_inv h1

theorem takeHead_inv {d : BitVec 5} {n : BitVec 3} {v : Word} {rest : List Word} (h : s.Inv) :
    (takeHead d n v rest s).Post State.Inv :=
  .bind (need_inv trivial) fun _ _ => .bind (P := fun _ => True) (.ite waitAcquire_inv trivial) fun _ _ =>
    writeX_inv (ite_inv h h)

theorem qpopBody_inv {d : BitVec 5} {n : BitVec 3} (h : s.Inv) : (qpopBody d n s).Post State.Inv := by
  unfold qpopBody
  refine .bind needQueue_inv fun _ _ => ?_
  split
  · exact trivial
  · exact takeHead_inv h

theorem execQpop_inv {d : BitVec 5} {n : BitVec 3} (h : s.Inv) : nextInv (execQpop d n s) :=
  issue_inv h fun _ h1 => qpopBody_inv h1

theorem qpollBody_inv {d : BitVec 5} {n : BitVec 3} (h : s.Inv) : (qpollBody d n s).Post State.Inv := by
  unfold qpollBody
  refine .bind needQueue_inv fun _ _ => ?_
  split
  · exact h
  · exact takeHead_inv h

theorem execQpoll_inv {d : BitVec 5} {n : BitVec 3} (h : s.Inv) : nextInv (execQpoll d n s) :=
  issue_inv h fun _ h1 => qpollBody_inv h1

theorem execQcnt_inv {d : BitVec 5} {n : BitVec 3} (h : s.Inv) : nextInv (execQcnt d n s) :=
  issue_inv h (fun _ h1 => .bind needQueue_inv fun _ _ => writeX_inv h1)

theorem needBlockFields_inv {written all : List (BitVec 5)} :
    (needBlockFields s written all).Post fun _ => True := need_inv trivial

theorem blockNext_inv {left : Nat} (h : s.Inv) : (blockNext s left).Inv := ite_inv h h

theorem bmoveBody_inv {d a b : BitVec 5} (h : s.Inv) : (bmoveBody d a b s).Post State.Inv := by
  refine .bind needBlockFields_inv fun _ _ => .bind (readX_inv h) fun ⟨_, _⟩ h1 => .bind (readX_inv h1) fun ⟨_, _⟩ h2 =>
    .bind (readX_inv h2) fun ⟨_, _⟩ h3 => .ite h3 (.ite ?_ ?_) <;>
  exact .bind (loadSpan_inv h3) fun ⟨_, _⟩ h4 => .bind (storeAcc_inv h4) fun _ h5 => blockNext_inv h5

theorem execBmove_inv {d a b : BitVec 5} (h : s.Inv) : nextInv (execBmove d a b s) := issue_inv h fun _ h1 => bmoveBody_inv h1

theorem fillStep_inv {d a : BitVec 5} {xd xa : Word} {v size : Nat} (h : s.Inv) : (fillStep d a xd xa v size s).Post State.Inv :=
  .bind (storeAcc_inv h) fun _ h1 => blockNext_inv h1

theorem bfillwBody_inv {d a b : BitVec 5} (h : s.Inv) : (bfillwBody d a b s).Post State.Inv :=
  .bind needBlockFields_inv fun _ _ => .bind (readX_inv h) fun ⟨_, _⟩ h1 => .bind (readX_inv h1) fun ⟨_, _⟩ h2 =>
    .bind (readX_inv h2) fun ⟨_, _⟩ h3 => .ite h3 (.bind needAligned_inv fun _ _ => .bind needValue_inv fun _ _ =>
    fillStep_inv h3)

theorem execBfillw_inv {d a b : BitVec 5} (h : s.Inv) : nextInv (execBfillw d a b s) := issue_inv h fun _ h1 => bfillwBody_inv h1

theorem repbBody_inv {d a b : BitVec 5} (h : s.Inv) : (repbBody d a b s).Post State.Inv :=
  .bind needBlockFields_inv fun _ _ => .bind (readX_inv h) fun ⟨_, _⟩ h1 => .bind (readX_inv h1) fun ⟨_, _⟩ h2 =>
    .bind (readX_inv h2) fun ⟨_, _⟩ h3 => .ite h3 (fillStep_inv h3)

theorem execRepb_inv {d a b : BitVec 5} (h : s.Inv) : nextInv (execRepb d a b s) := issue_inv h fun _ h1 => repbBody_inv h1

theorem lockTranslate_inv {xa line : Nat} (h : s.Inv) : (lockTranslate s xa line).Post firstInv := by
  unfold lockTranslate
  dsimp only
  split
  · exact trivial
  · exact raise_inv
  · rename_i e
    exact .ite raise_inv (.ite raise_inv (.bind (need_inv trivial) fun _ _ => (fst_inv e (translate_inv h) :)))

theorem lockLine_inv {line pa : Nat} {bypass : Bool} (h : s.Inv) : (lockLine s line pa bypass).Inv :=
  ite_inv h (ite_inv h (ite_inv h (icFill_inv h)))

theorem lockPlaces_inv {xa : Nat} {lines : List Nat} (h : s.Inv) : (lockPlaces s xa lines).Post firstInv :=
  Res.Post.foldlM (Q := firstInv) (fun ⟨_, _⟩ _ h1 => .bind (lockTranslate_inv h1) fun ⟨_, _, _⟩ h2 => h2) h

theorem lockLines_inv {ps : List (Nat × Nat × Bool)} (h : s.Inv) : (lockLines s ps).Inv :=
  foldl_inv (P := State.Inv) (fun _ ⟨_, _, _⟩ h1 => lockLine_inv h1) h

theorem iclockBody_inv {d a b : BitVec 5} (h : s.Inv) : (iclockBody d a b s).Post State.Inv :=
  .bind (read2_inv h) fun ⟨_, _, _⟩ h1 => .bind needValue_inv fun _ _ => .bind (lockPlaces_inv h1) fun ⟨_, _⟩ h2 =>
    .bind needRequest_inv fun _ _ => writeX_inv (lockLines_inv h2)

theorem execIclock_inv {d a b : BitVec 5} (h : s.Inv) : nextInv (execIclock d a b s) := issue_inv h fun _ h1 => iclockBody_inv h1

theorem icunlkBody_inv {a b : BitVec 5} (h : s.Inv) : (icunlkBody a b s).Post State.Inv :=
  .bind (read2_inv h) fun ⟨_, _, _⟩ h1 => .bind needValue_inv fun _ _ => h1

theorem execIcunlk_inv {a b : BitVec 5} (h : s.Inv) : nextInv (execIcunlk a b s) := issue_inv h fun _ h1 => icunlkBody_inv h1

theorem ldnaBody_inv {d a : BitVec 5} {i : BitVec 12} (h : s.Inv) : (ldnaBody d a i s).Post State.Inv :=
  .bind (readAddr_inv h) fun ⟨_, _⟩ h1 => .bind needAligned_inv fun _ _ => .bind (loadAcc_inv h1) fun ⟨_, _⟩ h2 => writeX_inv h2

theorem execLdna_inv {d a : BitVec 5} {i : BitVec 12} (h : s.Inv) : nextInv (execLdna d a i s) :=
  issue_inv h fun _ h1 => ldnaBody_inv h1

theorem stbyBody_inv {a b : BitVec 5} {i : BitVec 12} (h : s.Inv) : (stbyBody a b i s).Post State.Inv :=
  .bind (readAddr_inv h) fun ⟨_, _⟩ h1 => .bind (readX_inv h1) fun ⟨_, _⟩ h2 => .bind needAligned_inv fun _ _ => storeAcc_inv h2

theorem execStby_inv {a b : BitVec 5} {i : BitVec 12} (h : s.Inv) : nextInv (execStby a b i s) :=
  issue_inv h fun _ h1 => stbyBody_inv h1

theorem prefetch_inv {va : Nat} (h : s.Inv) : (prefetch s va).Inv := by
  unfold prefetch
  dsimp only
  split
  · rename_i e
    exact ite_inv (State.l1Fill_inv (fst_inv e (translate_inv h) :)) h
  · exact h

theorem execPref_inv {a : BitVec 5} {i : BitVec 12} (h : s.Inv) : nextInv (execPref a i s) :=
  issue_inv h (fun _ h1 => .bind (readAddr_inv h1) fun ⟨_, _⟩ h2 => prefetch_inv h2)

theorem ldaqBody_inv {d a : BitVec 5} {sc : Scope} (h : s.Inv) : (ldaqBody d a sc s).Post State.Inv :=
  .bind (readX_inv h) fun ⟨_, _⟩ h1 => .bind needAligned_inv fun _ _ => .bind waitAcquire_inv fun _ _ =>
    .bind (loadAt_inv h1) fun ⟨_, _⟩ h2 => writeX_inv h2

theorem execLdaq_inv {d a : BitVec 5} {sc : Scope} (h : s.Inv) : nextInv (execLdaq d a sc s) :=
  issue_inv h fun _ h1 => ldaqBody_inv h1

theorem strlBody_inv {a b : BitVec 5} (h : s.Inv) : (strlBody a b s).Post State.Inv :=
  .bind (read2_inv h) fun ⟨_, _, _⟩ h1 => .bind needAligned_inv fun _ _ => .bind waitRelease_inv fun _ _ =>
    .bind (storeAt_inv h1) fun _ h2 => replied_inv h2

theorem execStrl_inv {a b : BitVec 5} {sc : Scope} (h : s.Inv) : nextInv (execStrl a b sc s) :=
  issue_inv h fun _ h1 => strlBody_inv h1

theorem rangeOfAddress_inv {va : Nat} (h : s.Inv) : (rangeOfAddress s va).Post firstInv := by
  unfold rangeOfAddress
  split
  · exact h
  · refine .bind windowAddr_inv fun _ _ => ?_
    split
    · exact h
    · split
      · rename_i e
        exact .ite raise_inv (fst_inv e (findRange_inv h) :)
      · exact raise_inv

theorem fenceRgBody_inv {a : BitVec 5} {scope : Nat} (h : s.Inv) : (fenceRgBody a scope s).Post State.Inv :=
  .bind (readX_inv h) fun ⟨_, _⟩ h1 => .bind (rangeOfAddress_inv h1) fun ⟨_, _⟩ h2 => .bind waitTfence_inv fun _ _ =>
    .bind (need_inv trivial) fun _ _ => .bind waitAcquire_inv fun _ _ => h2

theorem execFenceRg_inv {a : BitVec 5} {sc : Scope} (h : s.Inv) : nextInv (execFenceRg a sc s) :=
  issue_inv h fun _ h1 => fenceRgBody_inv h1

theorem execFenceS_inv {sc : Scope} (h : s.Inv) : nextInv (execFenceS sc s) := issue_inv h fun _ h1 => fenceBody_inv h1

theorem fenceEBody_inv (h : s.Inv) :
    (fenceEBody s).Post State.Inv := .bind (need_inv trivial) fun _ _ => .bind waitAcquire_inv fun _ _ => h

theorem execFenceE_inv (h : s.Inv) : nextInv (execFenceE s) := issue_inv h fun _ h1 => fenceEBody_inv h1

theorem amoscBody_inv {op : ScOp} {d a b : BitVec 5} (h : s.Inv) : (amoscBody op d a b s).Post State.Inv := by
  refine .bind (read2_inv h) fun ⟨_, _, _⟩ h1 =>
    .ite (.bind (readX_inv h1) fun ⟨_, _⟩ h2 => ?_) (.bind (P := firstInv) h1 fun ⟨_, _⟩ h2 => ?_) <;>
  exact .bind needAligned_inv fun _ _ => .bind waitRelease_inv fun _ _ => .bind waitAcquire_inv fun _ _ =>
    .bind (atomicAt_inv h2) fun ⟨_, _⟩ h3 => writeX_inv h3

theorem execAmosc_inv {op : ScOp} {d a b : BitVec 5} (h : s.Inv) : nextInv (execAmosc op d a b s) :=
  issue_inv h fun _ h1 => amoscBody_inv h1

end Sys2Proof.Machine

end

section

/-! SUPPORT. Memory keeps its canonical form: stamped words, the elements of vector accesses and paired weights (17 R388 to R411). -/

namespace Sys2Proof.Machine

open Sys2Proof

variable {s t : State}

theorem elemConflict_inv {α : Type} {P : α → Prop} {va : Nat} {r : Res α} (h : r.Post P) : (elemConflict va r).Post P := by
  unfold elemConflict
  split
  · exact Stop.loc_inv h
  · exact h

theorem checkElems_inv {n : Nat} {a : Acc} {xs : List (Nat × Nat)} (h : s.Inv) : (checkElems s n a xs).Post State.Inv :=
  Res.Post.foldlM (Q := State.Inv) (fun _ ⟨_, _⟩ h1 => .bind needAligned_inv fun _ _ =>
    .bind (elemConflict_inv (locate_inv h1)) fun ⟨_, _⟩ h2 => h2) h

theorem loadElem_inv {va n : Nat} {a : Acc} (h : s.Inv) : (loadElem s va n a).Post firstInv := by
  unfold loadElem
  split
  · exact .ite raise_inv raise_inv
  · exact loadAcc_inv h

theorem loadElems_inv {n : Nat} {xs : List (Nat × Nat)} (h : s.Inv) : (loadElems s n xs).Post firstInv :=
  .bind (checkElems_inv h) fun _ h1 => Res.Post.foldlM (Q := firstInv) (fun ⟨_, _⟩ ⟨_, _⟩ h2 =>
    .bind (loadElem_inv h2) fun ⟨_, _⟩ h3 => h3) h1

theorem storeElems_inv {step : BitVec 48} {n : Nat} {a : Acc} {xs : List (Nat × Nat)} (h : s.Inv) :
    (storeElems s step n a xs).Post State.Inv :=
  .bind (checkElems_inv h) fun _ h1 => .bind waitMmrev_inv fun _ _ => Res.Post.foldlM (Q := State.Inv) (fun _ ⟨_, _⟩ h2 =>
    storePart_inv h2) h1

theorem stepincBody_inv {a : BitVec 5} (h : s.Inv) : (stepincBody a s).Post State.Inv :=
  .bind (readX_inv h) fun ⟨_, _⟩ h1 => .bind needValue_inv fun _ _ => .ite h1 (.bind (need_inv trivial) fun _ _ => h1)

theorem execStepinc_inv {a : BitVec 5} (h : s.Inv) : nextInv (execStepinc a s) := issue_inv h fun _ h1 => stepincBody_inv h1

theorem gswaitBody_inv {a : BitVec 5} (h : s.Inv) : (gswaitBody a s).Post State.Inv :=
  .bind (readX_inv h) fun ⟨_, _⟩ h1 => .bind (need_inv trivial) fun _ _ => .bind waitAcquire_inv fun _ _ => h1

theorem execGswait_inv {a : BitVec 5} (h : s.Inv) : nextInv (execGswait a s) := issue_inv h fun _ h1 => gswaitBody_inv h1

theorem sldBody_inv {d a : BitVec 5} (h : s.Inv) : (sldBody d a s).Post State.Inv := by
  unfold sldBody
  refine .bind (readX_inv h) fun ⟨_, _⟩ h1 => ?_
  refine .bind needAligned_inv fun _ _ => ?_
  refine .bind (loadAcc_inv h1) fun ⟨_, _⟩ h2 => ?_
  dsimp only
  split
  · exact raise_inv
  · exact writeX_inv h2

theorem execSld_inv {d a : BitVec 5} (h : s.Inv) : nextInv (execSld d a s) := issue_inv h fun _ h1 => sldBody_inv h1

theorem stampedPart_inv {va : Nat} {f : Nat → Option (Nat × Bool)} (h : s.Inv) : (stampedPart s va f).Post State.Inv := by
  unfold stampedPart
  refine .bind (atomicPart_inv h) fun ⟨_, _⟩ h1 => ?_
  dsimp only
  split
  · exact raise_inv
  · exact h1

theorem stampedWrite_inv {va : Nat} {f : Nat → Option (Nat × Bool)} (h : s.Inv) : (stampedWrite s va f).Post State.Inv :=
  .bind (stampedPart_inv h) fun _ h1 => .bind waitMmrev_inv fun _ _ => h1

theorem sstBody_inv {a b : BitVec 5} (h : s.Inv) : (sstBody a b s).Post State.Inv :=
  .bind (read2_inv h) fun ⟨_, _, _⟩ h1 => .bind needValue_inv fun _ _ => .bind needAligned_inv fun _ _ => stampedWrite_inv h1

theorem execSst_inv {a b : BitVec 5} (h : s.Inv) : nextInv (execSst a b s) := issue_inv h fun _ h1 => sstBody_inv h1

theorem saddBody_inv {a b : BitVec 5} (h : s.Inv) : (saddBody a b s).Post State.Inv :=
  .bind (read2_inv h) fun ⟨_, _, _⟩ h1 => .bind needValue_inv fun _ _ => .bind needAligned_inv fun _ _ => stampedWrite_inv h1

theorem execSadd_inv {a b : BitVec 5} (h : s.Inv) : nextInv (execSadd a b s) := issue_inv h fun _ h1 => saddBody_inv h1

theorem smergeBody_inv {a b : BitVec 5} (h : s.Inv) : (smergeBody a b s).Post State.Inv :=
  .bind (read2_inv h) fun ⟨_, _, _⟩ h1 => .bind needValue_inv fun _ _ => .bind needAligned_inv fun _ _ => stampedWrite_inv h1

theorem execSmerge_inv {a b : BitVec 5} (h : s.Inv) : nextInv (execSmerge a b s) := issue_inv h fun _ h1 => smergeBody_inv h1

theorem stampedLoads_inv {x : UnitSt} {step : Nat} {xs : List (Nat × Nat)} (h : s.Inv) :
    (stampedLoads s x step xs).Post firstInv := by
  unfold stampedLoads
  refine .bind (checkElems_inv h) fun _ h1 => ?_
  refine Res.Post.foldlM (Q := firstInv) (fun ⟨_, _, _⟩ ⟨_, _⟩ h2 => ?_) h1
  refine .bind (loadElem_inv h2) fun ⟨_, _⟩ h3 => ?_
  dsimp only
  split
  · exact raise_inv
  · exact h3

theorem stampedStores_inv {xs : List (Nat × Nat)} {f : Nat → Nat → Option (Nat × Bool)} (h : s.Inv) :
    (stampedStores s xs f).Post State.Inv := by
  unfold stampedStores
  refine .bind (checkElems_inv h) fun _ h1 => ?_
  refine .bind (P := State.Inv) ?_ fun _ h2 => ?_
  · refine Res.Post.foldlM (Q := State.Inv) (fun _ ⟨_, _⟩ h2 => ?_) h1
    refine .bind (atomicPart_inv h2) fun ⟨_, _⟩ h3 => ?_
    dsimp only
    split
    · exact raise_inv
    · exact h2
  · exact .bind waitMmrev_inv fun _ _ => Res.Post.foldlM (Q := State.Inv) (fun _ ⟨_, _⟩ h3 => stampedPart_inv h3) h2

theorem winsetBody_inv {a b : BitVec 5} (h : s.Inv) : (winsetBody a b s).Post State.Inv := by
  unfold winsetBody
  refine .bind (read2_inv h) fun ⟨_, _, _⟩ h1 => ?_
  refine .bind needValue_inv fun _ _ => ?_
  refine .bind (need_inv trivial) fun _ _ => ?_
  refine .bind (need_inv trivial) fun _ _ => ?_
  dsimp only
  split
  · exact raise_inv
  · exact .bind (need_inv trivial) fun _ _ => State.homeLoad_inv h1

theorem execWinset_inv {a b : BitVec 5} (h : s.Inv) : nextInv (execWinset a b s) := issue_inv h fun _ h1 => winsetBody_inv h1
theorem pairAsk_inv {u : Nat} {p : Nat × Nat} (h : s.Inv) : (pairAsk s u p).Inv := h

theorem pairRelease_inv {u : Nat} {p : Pipe} (h : s.Inv) : (pairRelease s u p).Inv :=
  foldl_inv (P := State.Inv) (fun _ _ h1 => State.l2Return_inv h1) (foldl_inv (P := State.Inv) (fun _ _ h1 => h1) h)

theorem elemPlaces_inv {n : Nat} {xs : List (Nat × Nat)} (h : s.Inv) : (elemPlaces s n xs).Post firstInv :=
  Res.Post.foldlM (Q := firstInv) (fun ⟨_, _⟩ ⟨_, _⟩ h1 => .bind needAligned_inv fun _ _ => .bind (locate_inv h1) fun ⟨_, _⟩ h2 =>
    h2) h

theorem pairStart_inv {r : BitVec 4} {a x : BitVec 5} {mk : VMask} (h : s.Inv) : (pairStart r a x mk s).Post State.Inv := by
  unfold pairStart
  refine .bind (need_inv trivial) fun _ _ => ?_
  refine .bind (readX_inv h) fun ⟨_, _⟩ h1 => ?_
  refine .bind (readX_inv h1) fun ⟨_, _⟩ h2 => ?_
  refine .bind (need_inv trivial) fun _ _ => ?_
  refine .bind (need_inv trivial) fun _ _ => ?_
  refine .bind (loadBlock_inv h2) fun ⟨_, _⟩ h3 => ?_
  dsimp only
  split
  · exact .ite raise_inv trivial
  · refine .bind (elemPlaces_inv h3) fun ⟨_, _⟩ h4 => ?_
    split <;> exact h4

theorem vstpairBody_inv {r : BitVec 4} {a x : BitVec 5} {mk : VMask} (h : s.Inv) : (vstpairBody r a x mk s).Post State.Inv := by
  unfold vstpairBody
  split
  · exact .bind (readX_inv h) fun ⟨_, _⟩ h1 => .bind (readX_inv h1) fun ⟨_, _⟩ h2 => h2
  · exact trivial
  · split
    · rename_i e
      exact (okState_inv e (pairStart_inv h) :)
    · exact pairStart_inv h

theorem execVstpair_inv {r : BitVec 4} {a x : BitVec 5} {mk : VMask} (h : s.Inv) : nextInv (execVstpair r a x mk s) :=
  issue_inv h fun _ h1 => vstpairBody_inv h1

theorem execPairReserveGrant_inv {u : Nat} (h : s.Inv) : nextInv (execPairReserveGrant u s) := by
  unfold execPairReserveGrant
  split
  · dsimp only
    refine nextInv_ite ?_ h
    split
    · exact pairAsk_inv (s := s.modStation _ _) (State.modStation_inv h)
    · exact State.modHart_inv (s := s.modStation _ _) (State.modStation_inv h)
  · exact h

theorem execPairLineLock_inv {u : Nat} (h : s.Inv) : nextInv (execPairLineLock u s) := by
  unfold execPairLineLock
  split
  · split
    · exact h
    · exact nextInv_ite h (State.applyInvals_inv (State.homeWrite_inv h))
  · exact h

end Sys2Proof.Machine

end

section

/-! SUPPORT. Memory keeps its canonical form: the vector instructions (05 R135 to R165). -/

namespace Sys2Proof.Machine

open Sys2Proof

variable {s t : State}

theorem vRun_inv {k : VKind} {o : VOp} {f : Nat × Nat × Nat} (h : s.Inv) : (vRun k o f s).Post State.Inv := by
  unfold vRun
  refine .bind (P := fun _ => True) ?_ fun _ _ => ?_
  · split
    · exact raise_inv
    · exact trivial
  · dsimp only
    split
    any_goals exact h
    · exact writeX_inv h
    · exact storeElems_inv h
    · exact .bind (loadElems_inv h) fun ⟨_, _⟩ h1 => h1
    · exact .bind (need_inv trivial) fun _ _ => .bind (loadElems_inv h) fun ⟨_, _⟩ h1 => h1
    · exact writeX_inv h
    · exact .bind (stampedLoads_inv h) fun ⟨_, _, _⟩ h1 => h1
    · exact stampedStores_inv h
    · exact stampedStores_inv h

theorem vCapture_inv {k : VKind} (h : s.Inv) : (vCapture k s).Post firstInv := by
  unfold vCapture
  refine .bind (P := firstInv) ?_ fun ⟨_, _⟩ h1 => ?_
  · dsimp only
    split
    · exact readX_inv h
    · exact h
  · refine .bind (P := firstInv) ?_ fun ⟨_, _⟩ h2 => ?_
    · dsimp only
      split
      · exact readX_inv h1
      · exact h1
    · exact h2

theorem vClaim_inv {k : VKind} {o : VOp} (h : s.Inv) : (vClaim k o s).Inv := by
  unfold vClaim
  split
  · exact h
  · exact ite_inv h h

theorem vHandOff_inv {k : VKind} {o : VOp} (h : s.Inv) : (vHandOff k o s).Inv := inv_of_mem (vHandOff_mem ..) h

theorem vRunHere_inv {i : Instr} {k : VKind} {o : VOp} (hs : s.Inv) (ht : t.Inv) : (vRunHere i k o s t).Post State.Inv := by
  unfold vRunHere
  split
  · exact trivial
  · split
    · exact takeTrap_inv (vClaim_inv hs)
    · exact vRun_inv (vClaim_inv ht)

theorem vIssue_inv {i : Instr} {k : VKind} {fmt : Bool} (h : s.Inv) : nextInv (vIssue i k fmt s) :=
  issueN_inv h (fun _ h1 => .bind (vCapture_inv h1) fun ⟨_, _, _⟩ h2 =>
    .ite (vRunHere_inv h h2) (.bind (need_inv trivial) fun _ _ => vHandOff_inv h2))

theorem vlgrBody_inv {d a : BitVec 5} {w : EWidth} (h : s.Inv) : (vlgrBody d a w s).Post State.Inv :=
  .bind (readX_inv h) fun ⟨_, _⟩ h1 => writeX_inv h1

theorem execVlgr_inv {d a : BitVec 5} {w : EWidth} (h : s.Inv) : nextInv (execVlgr d a w s) :=
  issue_inv h fun _ h1 => vlgrBody_inv h1

end Sys2Proof.Machine

end

section

/-! SUPPORT. Memory keeps its canonical form: the tile front end (01 R36 to R48, 06 R170 to R195). -/

namespace Sys2Proof.Machine

open Sys2Proof

variable {s t : State}

theorem readField_inv {use : Bool} {r : BitVec 5} (h : s.Inv) : (readField s use r).Post firstInv := .ite (readX_inv h) h

theorem tcwBody_inv {i : Instr} {t : Tcw} (h : s.Inv) : (tcwBody i t s).Post State.Inv :=
  .bind (need_inv trivial) fun _ _ => .bind (readField_inv h) fun ⟨_, _⟩ h1 => .bind (readField_inv h1) fun ⟨_, _⟩ h2 =>
    .bind (readField_inv h2) fun ⟨_, _⟩ h3 => .bind (readField_inv h3) fun ⟨_, _⟩ h4 => .bind (readField_inv h4) fun ⟨_, _⟩ h5 =>
    .bind (readField_inv h5) fun ⟨_, _⟩ h6 => h6

theorem tcwIssue_inv {i : Instr} {t : Tcw} (h : s.Inv) : nextInv (tcwIssue i t s) := issueN_inv h fun _ h1 => tcwBody_inv h1

theorem vacantIssue_inv {w : BitVec 256} {tcw : Bool} (h : s.Inv) : nextInv (vacantIssue w tcw s) :=
  issueN_inv h fun _ h1 => tcwBody_inv h1

theorem State.modRob_inv {u r : Nat} {f : RobEntry → RobEntry} (h : s.Inv) : (s.modRob u r f).Inv := h

theorem renameOne_inv {u : Nat} (h : s.Inv) : ∀ t ∈ renameOne s u, t.Inv := by
  unfold renameOne
  split
  · exact none_inv
  · split
    · exact none_inv
    · dsimp only
      split
      · exact some_inv h
      · split
        · exact some_inv h
        · exact ite_option none_inv (some_inv h)

theorem execTileRename_inv {u : Nat} (h : s.Inv) : nextInv (execTileRename u s) := by
  unfold execTileRename
  split
  · split
    · rename_i e
      exact wakePark_inv (someState_inv e (renameOne_inv h) :)
    · exact h
  · exact h

/-- A walk of the tile stream keeps the state canonical, however it ends, and what it yields satisfies P. -/
def TileM.Keeps {α : Type} (P : α → Prop) (m : TileM α) : Prop := ∀ s, s.Inv → (m.run.run s).2.Inv ∧ Res.Post P (m.run.run s).1

theorem TileM.pure_keeps {α : Type} {P : α → Prop} {a : α} (h : P a) : TileM.Keeps P (pure a) := fun _ hs => ⟨hs, h⟩
theorem TileM.get_keeps : TileM.Keeps State.Inv get := fun _ hs => ⟨hs, hs⟩
theorem TileM.set_keeps (h : t.Inv) : TileM.Keeps (fun _ => True) (set t) := fun _ _ => ⟨h, trivial⟩

theorem TileM.check_keeps {α : Type} {P : α → Prop} {r : Res α} (h : r.Post P) : TileM.Keeps P (TileM.check r) := fun _ hs =>
    ⟨hs, h⟩

theorem TileM.bind_keeps {α β : Type} {P : α → Prop} {Q : β → Prop} {m : TileM α} {f : α → TileM β} (hm : m.Keeps P)
    (hf : ∀ a, P a → (f a).Keeps Q) : TileM.Keeps Q (m >>= f) := by
  intro s hs
  obtain ⟨left, value⟩ := hm s hs
  change State.Inv ((ExceptT.bindCont f (m s).1) (m s).2).2 ∧ Res.Post Q ((ExceptT.bindCont f (m s).1) (m s).2).1
  change State.Inv (m s).2 at left
  change Res.Post P (m s).1 at value
  cases ended : (m s).1 with
  | ok a =>
    rw [ended] at value
    exact hf a value _ left
  | error e =>
    rw [ended] at value
    exact ⟨left, value⟩

theorem TileM.foldlM_keeps {α β : Type} {f : β → α → TileM β} {l : List α} {b : β} (hf : ∀ b a, (f b a).Keeps fun _ => True) :
    TileM.Keeps (fun _ => True) (l.foldlM f b) := by
  induction l generalizing b with
  | nil => exact TileM.pure_keeps trivial
  | cons a l ih => exact TileM.bind_keeps (hf b a) fun _ _ => ih

/-- A walk that may yield anything. -/
abbrev TileM.Sound {α : Type} (m : TileM α) : Prop := m.Keeps fun _ => True

theorem TileM.result_inv {α : Type} {m : TileM α} (hm : m.Sound) (h : s.Inv) : (m.result s).Post firstInv := by
  obtain ⟨left, value⟩ := hm s h
  unfold TileM.result
  split
  · rename_i ended
    rw [ended] at left
    exact left
  · rename_i ended
    rw [ended] at value
    exact value

theorem TileM.left_inv {α : Type} {m : TileM α} (hm : m.Sound) (h : s.Inv) : (m.left s).Inv := (hm s h).1

theorem readPieces_inv {alloc : Bool} {ps : List Piece} (h : s.Inv) : (readPieces s alloc ps).Post firstInv := by
  unfold readPieces
  dsimp only
  split
  · exact raise_inv
  · exact foldl_inv (P := firstInv) (fun ⟨_, _⟩ _ h1 => State.readSpan_inv h1) h

theorem tilePlace_keeps {va n : Nat} {c : TileAcc} : (tilePlace va n c).Sound := by
  refine TileM.bind_keeps TileM.get_keeps fun s hs => TileM.bind_keeps (P := fun _ => True)
    (TileM.check_keeps windowAddr_inv) fun o _ => ?_
  cases o with
  | some p => exact TileM.bind_keeps (TileM.check_keeps (need_inv trivial)) fun _ _ => TileM.pure_keeps trivial
  | none =>
    have ht : (translate s s.cur.unit s.mine.job va c.a).1.Inv := translate_inv hs
    refine TileM.bind_keeps (TileM.set_keeps ht) fun _ _ => ?_
    dsimp only
    split
    · exact TileM.check_keeps trivial
    · exact TileM.check_keeps raise_inv
    · exact TileM.bind_keeps (P := fun _ => True)
        (TileM.check_keeps (.bind (need_inv trivial) fun _ _ => .bind (need_inv trivial) fun _ _ =>
          .bind (need_inv trivial) fun _ _ => (need_inv trivial))) fun _ _ =>
        TileM.bind_keeps (TileM.set_keeps (overlapReplied_inv ht)) fun _ _ => TileM.pure_keeps trivial

theorem tilePieces_keeps {c : TileAcc} {rows : List (Nat × Nat × Nat)} : (tilePieces c rows).Sound :=
  TileM.foldlM_keeps fun _ _ => TileM.foldlM_keeps fun _ _ => TileM.bind_keeps tilePlace_keeps fun _ _ => TileM.pure_keeps trivial

theorem gatherList_keeps {e : TcwEntry} {t : Tcw} {c : TileAcc} : (gatherList e t c).Sound :=
  TileM.bind_keeps (TileM.check_keeps (need_inv trivial)) fun _ _ => tilePieces_keeps

theorem gatherPieces_keeps {e : TcwEntry} {t : Tcw} {c : TileAcc} : (gatherPieces e t c).Sound :=
  TileM.bind_keeps gatherList_keeps fun _ _ => TileM.bind_keeps TileM.get_keeps fun _ hs =>
    TileM.bind_keeps (TileM.check_keeps (readPieces_inv hs)) fun ⟨_, _⟩ h1 => TileM.bind_keeps (TileM.set_keeps h1) fun _ _ =>
      TileM.bind_keeps (TileM.check_keeps (need_inv trivial)) fun _ _ => TileM.foldlM_keeps fun _ _ =>
        TileM.bind_keeps (TileM.check_keeps (need_inv trivial)) fun _ _ => TileM.bind_keeps tilePieces_keeps fun _ _ =>
          TileM.pure_keeps trivial

theorem formWalk_keeps {r : RobEntry} {wide rows : Bool} : (formWalk r wide rows).Sound := by
  have pieces {x : Res Unit} (hx : x.Post fun _ => True) {c : TileAcc} {l : List (Nat × Nat × Nat)} :
      TileM.Sound (TileM.check x >>= fun _ => tilePieces c l) := TileM.bind_keeps (TileM.check_keeps hx) fun _ _ =>
        tilePieces_keeps
  refine TileM.bind_keeps TileM.get_keeps fun s _ => ?_
  dsimp only
  split
  · exact pieces (need_inv (by exact trivial))
  · exact pieces (need_inv (by exact trivial))
  · exact pieces (need_inv (by exact trivial))
  · exact pieces (need_inv (by exact trivial))
  · refine TileM.bind_keeps (TileM.check_keeps (need_inv trivial)) fun _ _ => ?_
    split
    · exact gatherPieces_keeps
    · exact gatherList_keeps
  · exact pieces needAligned_inv
  · exact pieces needAligned_inv
  · exact pieces (need_inv (by exact trivial))
  · exact TileM.pure_keeps trivial

theorem formPieces_inv {r : RobEntry} {wide rows : Bool} (h : s.Inv) :
    (formPieces s r wide rows).Post firstInv := TileM.result_inv formWalk_keeps h

theorem State.pinLines_inv {tag : Nat} {lines : List Nat} (h : s.Inv) :
    (s.pinLines tag lines).Inv := inv_of_bytes (State.pinLines_bytes ..) h

/-- What a walk leaves of the state of the tile stream is canonical. -/
theorem formLeft_inv {u : Nat} {r : RobEntry} {wide rows : Bool} (h : s.Inv) :
    (s.back ((formWalk r wide rows).left (s.asHart u 0))).Inv :=
  State.back_inv (TileM.left_inv formWalk_keeps (State.asHart_inv h))

theorem issueMemory_inv {u : Nat} {r : RobEntry} (h : s.Inv) : ∀ t ∈ issueMemory s u r, t.Inv := by
  unfold issueMemory
  split
  · exact none_inv
  · split
    · exact some_inv (State.modRob_inv (formLeft_inv h))
    · exact none_inv
    · rename_i found
      exact ite_option none_inv (some_inv (State.modRob_inv (State.back_inv (ok_inv found (formPieces_inv
        (State.asHart_inv h))))))

theorem issueOne_inv {u : Nat} {r : RobEntry} (h : s.Inv) : ∀ t ∈ issueOne s u r, t.Inv := by
  refine ite_option none_inv (ite_option ?_ (some_inv h))
  dsimp only
  split
  · exact some_inv (State.modRob_inv (formLeft_inv h))
  · exact none_inv
  · exact ite_option (some_inv h) (issueMemory_inv h)

theorem heldIssue_inv {u : Nat} {r : RobEntry} (h : s.Inv) : (heldIssue s u r).Inv := by
  refine ite_inv ?_ h
  dsimp only
  split
  · exact when_inv (formLeft_inv h) State.waitTurn_inv
  · exact formLeft_inv h

theorem execTileIssue_inv {u r : Nat} (h : s.Inv) : nextInv (execTileIssue u r s) := by
  unfold execTileIssue
  split
  · exact h
  · dsimp only
    split
    · exact h
    · split
      · rename_i e
        exact (someState_inv e (issueOne_inv h) :)
      · exact heldIssue_inv h

theorem deliverEntry_inv {u r : Nat} {v : Word} {fl : Flags} (h : s.Inv) : (deliverEntry s u r v fl).Inv := by
  unfold deliverEntry
  dsimp only
  split
  · exact ite_inv h h
  · exact h

theorem fetchRow_inv {u : Nat} {st : State × RobEntry} {p : Piece} (h : st.1.Inv) : (fetchRow u st p).1.Inv := by
  unfold fetchRow
  split
  · dsimp only
    split
    · exact h
    · exact State.homeLoad_inv (State.applyInvals_inv (State.pinLines_inv h))

theorem fetchBox_inv {u : Nat} {r : RobEntry} {ps : List Piece} (h : s.Inv) : (fetchBox s u r ps).Inv := by
  unfold fetchBox
  dsimp only
  split
  · split <;> exact foldl_inv (P := firstInv) (fun ⟨_, _⟩ _ h1 => fetchRow_inv h1) h
  · exact foldl_inv (P := firstInv) (fun ⟨_, _⟩ _ h1 => fetchRow_inv h1) h

theorem completeMemory_inv {u : Nat} {r : RobEntry} (h : s.Inv) : (completeMemory s u r).Inv := by
  unfold completeMemory
  dsimp only
  split
  · exact h
  · split
    · exact h
    · exact h
    · exact ite_inv h h
    · exact ite_inv h (fetchBox_inv h)
    · split
      · exact State.waitTurn_inv h
      · split
        · exact h
        · exact h
        · rename_i e
          exact State.back_inv (s := s) (ok_inv e (readPieces_inv h) :)

theorem execTileComplete_inv {u r : Nat} (h : s.Inv) : nextInv (execTileComplete u r s) := by
  unfold execTileComplete
  dsimp only
  split
  · exact h
  · split
    · exact h
    · split
      · split
        · exact ite_inv h h
        · exact ite_inv (deliverEntry_inv h) h
        · exact h
      · exact completeMemory_inv h
      · exact completeMemory_inv h
      · split
        · split
          · exact h
          · split
            · exact ite_inv (deliverEntry_inv h) h
            · exact h
        · exact h
      · split
        · exact h
        · split
          · split <;> exact h
          · exact h
      · exact h

theorem execTileRetire_inv {u : Nat} (h : s.Inv) : nextInv (execTileRetire u s) := by
  unfold execTileRetire
  dsimp only
  split
  · exact h
  · split
    · exact h
    · split <;> exact wakePark_inv h

theorem poisonRuns_inv {rs : List (Nat × Nat × Nat)} (h : s.Inv) : (poisonRuns s rs).Inv := inv_of_bytes (poisonRuns_bytes ..) h

theorem execTileStoreWritten_inv {u : Nat} (h : s.Inv) : nextInv (execTileStoreWritten u s) := by
  unfold execTileStoreWritten
  split
  · exact h
  · exact nextInv_ite h (nextInv_ite (State.waitTurn_inv h) (wakePark_inv (when_inv
      (foldl_inv (P := State.Inv) (fun _ ⟨_, _, _, _, _⟩ h1 =>
      ite_inv (State.put_wf h1) (State.writeSpan_inv h1)) h) poisonRuns_inv)))

theorem discardFrom_inv {u : Nat} {gone : List RobEntry} (h : s.Inv) : (discardFrom s u gone).Inv :=
  foldl_inv (P := State.Inv) (fun _ _ h1 => h1) h

theorem execTileFault_inv {u : Nat} (h : s.Inv) : nextInv (execTileFault u s) := by
  unfold execTileFault
  dsimp only
  split
  · exact nextInv_ite h h
  · split
    · exact h
    · split
      · exact h
      · exact nextInv_ite (discardFrom_inv h) (nextInv_ite (discardFrom_inv h) h)

theorem endDrain_inv {u : Nat} (h : s.Inv) : (endDrain s u).Inv := ite_inv h (discardFrom_inv h)

theorem execChunkConditionTimeout_inv {u r : Nat} (h : s.Inv) : nextInv (execChunkConditionTimeout u r s) := by
  unfold execChunkConditionTimeout
  split
  · exact nextInv_ite h h
  · exact h

theorem execTmmadBoxTimeout_inv {u r : Nat} (h : s.Inv) : nextInv (execTmmadBoxTimeout u r s) := by
  unfold execTmmadBoxTimeout
  split
  · exact nextInv_ite h h
  · exact h

end Sys2Proof.Machine

end

section

/-! SUPPORT. Memory keeps its canonical form: the matrix arrays: leases, slew limiter and fetch duty (07 R203 to R220). -/

namespace Sys2Proof.Machine

open Sys2Proof

variable {s t : State}

theorem State.modArray_inv {q a : Nat} {f : MArray → MArray} (h : s.Inv) : (s.modArray q a f).Inv := h
theorem State.refill_inv {c : Nat} (h : s.Inv) : (s.refill c).Inv := inv_of_mem (refill_mem ..) h

theorem execSlewStep_inv {c : Nat} (h : s.Inv) : nextInv (execSlewStep c s) :=
  State.refill_inv (unless_inv (foldl_inv (P := State.Inv) (fun _ _ h1 =>
    ite_inv h1 (State.modArray_inv h1)) h) State.modCluster_inv)

theorem execMatrixStart_inv {u r a : Nat} (h : s.Inv) : nextInv (execMatrixStart u r a s) := by
  unfold execMatrixStart
  dsimp only
  split
  · exact h
  · exact nextInv_ite h (nextInv_ite (ite_inv h h) (State.refill_inv (ite_inv h h)))

theorem execLeaseGrant_inv {q a : Nat} (h : s.Inv) : nextInv (execLeaseGrant q a s) := by
  unfold execLeaseGrant
  dsimp only
  split
  · exact h
  · split <;> exact h

theorem execLeaseEnd_inv {q a : Nat} (h : s.Inv) : nextInv (execLeaseEnd q a s) := by
  unfold execLeaseEnd
  dsimp only
  split
  · exact h
  · exact nextInv_ite h (nextInv_ite h h)

theorem execDutyFrame_inv {u : Nat} (h : s.Inv) : nextInv (execDutyFrame u s) := by
  unfold execDutyFrame
  split
  · exact enterPending_inv h
  · exact h

end Sys2Proof.Machine

end

section

/-! SUPPORT. Memory keeps its canonical form: the control and status registers (01 R23 to R35). -/

namespace Sys2Proof.Machine

open Sys2Proof

variable {s t : State}

theorem csrCounter_inv {n : Nat} (h : s.Inv) : ∀ r ∈ csrCounter s n, firstInv r :=
  ite_option (some_inv h) (ite_option (some_inv h) none_inv)

theorem csrOwn_inv {n0 : Nat} (h : s.Inv) : ∀ r ∈ csrOwn s n0, firstInv r :=
  ite_option (some_inv h) (ite_option (some_inv h) (ite_option (some_inv h) (map_option (fun _ _ => trivial) fun _ _ => h)))

theorem csrRead_inv {n : Nat} (h : s.Inv) : ∀ r ∈ csrRead s n, firstInv r := by
  have same {o : Option Word} : ∀ r ∈ o.map fun v => (s, v), firstInv r := map_option (P := fun _ => True) (fun _ _ =>
    trivial) fun _ _ => h
  exact ite_option (orElse_option (csrCounter_inv h) same) (ite_option (orElse_option (csrCounter_inv h) same) (ite_option
    (csrOwn_inv h) none_inv))

theorem csrSetOwn_inv {n0 : Nat} {v : Word} (h : s.Inv) : ∀ t ∈ csrSetOwn s n0 v, t.Inv := by
  unfold csrSetOwn
  dsimp only
  split
  · exact some_inv h
  · split
    · exact none_inv
    · split
      · exact some_inv (ite_inv h (ite_inv h h))
      · exact map_option (fun _ _ => trivial) fun _ _ => h

theorem csrWrite_inv {n : Nat} {v : Word} (h : s.Inv) : ∀ t ∈ csrWrite s n v, t.Inv :=
  ite_option (csrSetOwn_inv h) (ite_option (some_inv h) (ite_option (some_inv h) (ite_option (some_inv h) (ite_option (some_inv h)
    (ite_option (some_inv h) (ite_option (some_inv h) (ite_option (some_inv h) none_inv)))))))

theorem csrBody_inv {op : CsrOp} {imm : Bool} {d a : BitVec 5} {csr : BitVec 12} (h : s.Inv) :
    (csrBody op imm d a csr s).Post State.Inv := by
  unfold csrBody
  refine .bind (need_inv trivial) fun _ _ => ?_
  refine .bind (P := fun _ => True) (.ite waitAcquire_inv trivial) fun _ _ => ?_
  split
  · exact trivial
  · dsimp only
    split
    · rename_i e _
      refine .bind (P := firstInv) (some_fst_inv e (csrRead_inv h) :) fun ⟨_, _⟩ h1 => ?_
      split
      · split
        · exact trivial
        · rename_i e1
          exact writeX_inv (ite_inv (someState_inv e1 (csrWrite_inv h1) :) (someState_inv e1 (csrWrite_inv h1) :))
      · exact writeX_inv h1
    · rename_i e _
      refine .bind (readX_inv (some_fst_inv e (csrRead_inv h) :)) fun ⟨_, _⟩ h1 => ?_
      split
      · split
        · exact trivial
        · rename_i e1
          exact writeX_inv (ite_inv (someState_inv e1 (csrWrite_inv h1) :) (someState_inv e1 (csrWrite_inv h1) :))
      · exact writeX_inv h1

theorem execCsrAccess_inv {op : CsrOp} {imm : Bool} {d a : BitVec 5} {csr : BitVec 12} (h : s.Inv) :
    nextInv (execCsrAccess op imm d a csr s) :=
  issue_inv h fun _ h1 => csrBody_inv h1

end Sys2Proof.Machine

end

section

/-! SUPPORT. Memory keeps its canonical form: the words of an application core that no row of the opcode table holds (log entry 15). -/

namespace Sys2Proof.Machine

open Sys2Proof

variable {s t : State}

theorem rvMode_inv {rm : Nat} : (rvMode s rm).Post fun _ => True := .ite trivial trivial
theorem needFp_inv : (needFp s).Post fun _ => True := need_inv trivial

theorem fpBody_inv {op : AppOp} (h : s.Inv) : (fpBody op s).Post State.Inv := by
  unfold fpBody
  refine .bind needFp_inv fun _ _ => ?_
  dsimp only
  split
  · exact .bind (readAddr_inv h) fun ⟨_, _⟩ h1 => .bind needAligned_inv fun _ _ => .bind (loadAt_inv h1) fun ⟨_, _⟩ h2 => h2
  · exact .bind (readAddr_inv h) fun ⟨_, _⟩ h1 => .bind needAligned_inv fun _ _ => storeAt_inv h1
  · exact .bind rvMode_inv fun _ _ => h
  · exact .bind rvMode_inv fun _ _ => h
  · exact h
  · exact h
  · exact writeX_inv h
  · exact writeX_inv h
  · exact .bind rvMode_inv fun _ _ => writeX_inv h
  · exact .ite (.bind (P := fun _ => True) trivial fun _ _ => .bind (readX_inv h) fun ⟨_, _⟩ h1 =>
      h1) (.bind rvMode_inv fun _ _ => .bind (readX_inv h) fun ⟨_, _⟩ h1 => h1)
  · exact .bind rvMode_inv fun _ _ => h
  · exact writeX_inv h
  · exact .bind (readX_inv h) fun ⟨_, _⟩ h1 => h1
  · exact trivial

theorem sretBody_inv (h : s.Inv) : (sretBody s).Post State.Inv :=
  .bind (need_inv trivial) fun _ _ => .bind (need_inv trivial) fun _ _ => .bind (need_inv trivial) fun _ _ => h

theorem vmFenceBody_inv {k : Nat} (h : s.Inv) : (vmFenceBody k s).Post State.Inv :=
  .bind (need_inv trivial) fun _ _ => .bind (need_inv trivial) fun _ _ => .bind (need_inv trivial) fun _ _ => h

theorem asGuest_inv {α : Type} {f : State → Res (State × α)} (h : s.Inv) (hf : ∀ t, t.Inv → (f t).Post firstInv) :
    (asGuest s f).Post firstInv :=
  .bind (need_inv trivial) fun _ _ => .bind (need_inv trivial) fun _ _ => .bind (hf _ h) fun ⟨_, _⟩ h1 => h1

theorem hloadBody_inv {op : LoadOp} {exec : Bool} {d a : BitVec 5} (h : s.Inv) : (hloadBody op exec d a s).Post State.Inv :=
  .bind (readX_inv h) fun ⟨_, _⟩ h1 => .bind (asGuest_inv h1 fun _ h2 => .bind needAligned_inv fun _ _ =>
    loadAcc_inv h2) fun ⟨_, _⟩ h3 =>
    writeX_inv h3

theorem hstoreBody_inv {op : StoreOp} {a b : BitVec 5} (h : s.Inv) : (hstoreBody op a b s).Post State.Inv :=
  .bind (read2_inv h) fun ⟨_, _, _⟩ h1 =>
    .bind (asGuest_inv h1 fun _ h2 => .bind needAligned_inv fun _ _ => .bind (storeAt_inv h2) fun _ h3 => h3) fun ⟨_, _⟩ h4 => h4

theorem appBody_inv {op : AppOp} (h : s.Inv) : (appBody op s).Post State.Inv := by
  unfold appBody
  split
  · exact rvBody_inv h
  · exact rvLoadBody_inv h
  · exact rvStoreBody_inv h
  · exact raise_inv
  · exact sretBody_inv h
  · exact vmFenceBody_inv h
  · exact hloadBody_inv h
  · exact hstoreBody_inv h
  · exact fpBody_inv h

theorem execVacantEncoding_inv {w : BitVec 256} {tcw : Bool} (h : s.Inv) : nextInv (execVacantEncoding w tcw s) := by
  unfold execVacantEncoding
  split
  · exact issueN_inv h (fun _ h1 => appBody_inv h1)
  · exact vacantIssue_inv h

end Sys2Proof.Machine

end

section

/-! SUPPORT. Memory keeps its canonical form: the steps of the memory system and of the ports (09 R231 to R248). -/

namespace Sys2Proof.Machine

open Sys2Proof

variable {s t : State}

theorem onlyIf_inv {b : Bool} (hs : s.Inv) (ht : t.Inv) : nextInv (onlyIf b s t) := ite_inv ht hs

theorem execIcacheFill_inv {u : Nat} {va : Word} (h : s.Inv) : nextInv (execIcacheFill u va s) := by
  unfold execIcacheFill
  split
  · rename_i e
    exact onlyIf_inv h (icFill_inv (fst_inv e (translate_inv h) :))
  · exact h

theorem execWriteThroughReply_inv {u k : Nat} (h : s.Inv) : nextInv (execWriteThroughReply u k s) := by
  unfold execWriteThroughReply
  split
  · exact h
  · exact ite_inv h (State.applyInvals_inv h)

theorem setPortMode_inv {p : Nat} {mode : BitVec 2} (h : s.Inv) : (setPortMode s p mode).Inv := ite_inv h h
theorem startTraining_inv {p : Nat} (h : s.Inv) : (startTraining s p).Inv := h

theorem execPortTrainingEnd_inv {p : Nat} {ok : Bool} {speed : BitVec 4} {width : BitVec 5} (h : s.Inv) :
    nextInv (execPortTrainingEnd p ok speed width s) :=
  nextInv_ite h (nextInv_ite (ite_inv h (portSignal_inv h)) (ite_inv (portSignal_inv (portError_inv h)) (portError_inv h)))

theorem portAnswer_inv {u k : Nat} {ok : Bool} {v : Word} (h : s.Inv) : (portAnswer s u k ok v).Inv := by
  unfold portAnswer
  split
  · exact ite_inv h (portError_inv h)
  · exact h

theorem spanPlaces_inv {u : Nat} {j : BitVec 16} {a : Acc} {l : List (Nat × Nat)} (h : s.Inv) : (spanPlaces s u j a l).1.Inv := by
  induction l generalizing s with
  | nil => exact h
  | cons q rest ih =>
    obtain ⟨va, n⟩ := q
    simp only [spanPlaces]
    split
    · rename_i t pa e translated
      have first : t.Inv := fst_inv translated (translate_inv h)
      split_ifs
      · exact first
      · exact first
      · exact first
      · split
        · exact first
        · split
          · rename_i places
            exact fst_inv places (ih first)
          · exact ih first
    · rename_i translated
      exact fst_inv translated (translate_inv h)

theorem performInbound_inv {p : Nat} {a0 : Inbound} (h : s.Inv) : ∀ t ∈ performInbound s p a0, t.Inv := by
  unfold performInbound
  split
  · split
    · exact some_inv h
    · split
      · rename_i e
        exact some_inv (foldl_inv (P := State.Inv) (fun _ ⟨_, _, _⟩ h1 => State.homeLoad_inv h1) (fst_inv e (spanPlaces_inv h) :))
      · rename_i e
        exact some_inv (fst_inv e (spanPlaces_inv h) :)
      · exact none_inv
  · split
    · exact some_inv (ite_inv (ifilePut_inv h) h)
    · split
      · rename_i e
        exact some_inv (foldl_inv (P := State.Inv) (fun _ ⟨_, _, _⟩ h1 =>
          State.homeStore_inv h1) (fst_inv e (spanPlaces_inv h) :))
      · rename_i e
        exact some_inv (fst_inv e (spanPlaces_inv h) :)
      · exact none_inv
  · split
    · exact some_inv (ifilePut_inv h)
    · exact some_inv h

theorem drainInbound_inv {p : Nat} {l : List Inbound} (h : s.Inv) : (drainInbound s p l).1.Inv := by
  induction l generalizing s with
  | nil => exact h
  | cons x rest ih =>
    simp only [drainInbound]
    split
    · rename_i done
      exact ih (performInbound_inv h _ done)
    · exact h

theorem portDrain_inv {p : Nat} (h : s.Inv) : (portDrain s p).Inv := by
  unfold portDrain
  split
  · exact h
  · exact drainInbound_inv h

theorem drainPorts_inv (h : s.Inv) : (drainPorts s).Inv := foldl_inv (P := State.Inv) (fun _ _ h1 => portDrain_inv h1) h

theorem execPairCommit_inv {u : Nat} (h : s.Inv) : nextInv (execPairCommit u s) := by
  unfold execPairCommit
  split
  · exact drainPorts_inv (pairRelease_inv (foldl_inv (P := State.Inv) (fun _ ⟨_, _⟩ h1 => State.homeStore_inv h1) h))
  · exact h

theorem receive_inv {p : Nat} {x : Inbound} (h : s.Inv) : (receive s p x).Inv := portDrain_inv h

theorem execInboundWrite_inv {p : Nat} {va : Word} {n rid : Nat} {v : BitVec 32768} {ro : Bool} (h : s.Inv) :
    nextInv (execInboundWrite p va n rid v ro s) := by
  unfold execInboundWrite
  dsimp only
  split
  · rename_i e
    exact onlyIf_inv h (someState_inv e (ite_option (performInbound_inv h) none_inv) :)
  · exact onlyIf_inv h (receive_inv h)

end Sys2Proof.Machine

end

section

/-! SUPPORT. Memory keeps its canonical form: the network interface, messages, the watch and the named barriers (12 R303 to R330). -/

namespace Sys2Proof.Machine

open Sys2Proof

variable {s t : State}

theorem State.modNi_inv {u : Nat} {f : Ni → Ni} (h : s.Inv) : (s.modNi u f).Inv := h
theorem State.countSent_inv {u : Nat} {j : BitVec 16} {c : Bool} (h : s.Inv) : (s.countSent u j c).Inv := ite_inv h h
theorem State.countRcvd_inv {u : Nat} {j : BitVec 16} {c : Bool} (h : s.Inv) : (s.countRcvd u j c).Inv := ite_inv h h
theorem replayCheck_inv {u : Nat} (h : s.Inv) : (replayCheck s u).Inv := ite_inv (ite_inv (serviceWake_inv h) h) h
theorem enterInbox_inv {u : Nat} {m : Msg} (h : s.Inv) : (enterInbox s u m).Inv := wakeWfi_inv (wakePark_inv h)

theorem niStore_inv {u : Nat} {j : BitVec 16} {va n v : Nat} (h : s.Inv) : ∀ t ∈ niStore s u j va n v, t.Inv := by
  unfold niStore
  split
  · rename_i e
    exact some_inv (foldl_inv (P := State.Inv) (fun _ ⟨_, _, _⟩ h1 => State.homeStore_inv h1) (fst_inv e (spanPlaces_inv h) :))
  · exact none_inv

theorem lateAppend_inv {u : Nat} {l : LateCapture} {m : Msg} (h : s.Inv) : ∀ t ∈ lateAppend s u l m, t.Inv :=
  bind_option (niStore_inv h) fun _ h1 => bind_option (niStore_inv h1) fun _ h2 => some_inv h2

theorem lateNotice_inv {u : Nat} {l : LateCapture} (h : s.Inv) : (lateNotice s u l).Inv := ite_inv h h

theorem lateFull_inv {u : Nat} (h : s.Inv) : (lateFull s u).Inv := by
  unfold lateFull
  split
  · exact ite_inv (lateNotice_inv h) h
  · exact h

theorem acceptMsg_inv {u : Nat} {m : Msg} (h : s.Inv) : ∀ t ∈ acceptMsg s u m, t.Inv := by
  unfold acceptMsg
  split
  · exact ite_option (map_option (lateAppend_inv h) fun _ h1 => lateFull_inv h1) none_inv
  · exact ite_option (some_inv (enterInbox_inv h)) none_inv

theorem holdArrival_inv {u : Nat} {m : Msg} (h : s.Inv) : (holdArrival s u m).Inv := by
  unfold holdArrival
  dsimp only
  split
  · exact ite_inv h (lateNotice_inv h)
  · exact ite_inv (inboxOverflow_inv h) h

theorem arriveMsg_inv {u : Nat} {m : Msg} (h : s.Inv) : (arriveMsg s u m).Inv := by
  unfold arriveMsg
  dsimp only
  split
  · split
    · exact holdArrival_inv h
    · split
      · rename_i e
        exact (someState_inv e (acceptMsg_inv h) :)
      · exact holdArrival_inv h
  · split
    · exact holdArrival_inv (State.countRcvd_inv h)
    · split
      · rename_i e
        exact (someState_inv e (acceptMsg_inv (State.countRcvd_inv h)) :)
      · exact holdArrival_inv (State.countRcvd_inv h)

theorem loadWords_inv {va n : Nat} (h : s.Inv) : (loadWords s va n).Post firstInv := by
  induction n generalizing s va with
  | zero => exact h
  | succ n ih => exact .bind (loadWord_inv h) fun ⟨_, _⟩ h1 => .bind (ih h1) fun ⟨_, _⟩ h2 => h2

theorem sendqFull_inv {k : Word} {kind : Nat} {ps : List Word} (h : s.Inv) : (sendqFull s k kind ps).Inv :=
  State.modNi_inv (State.wrote_inv (State.put_wf h))

theorem sendBody_inv {kind : Nat} {a b : BitVec 5} {pre : State} (hpre : pre.Inv) (hs : s.Inv) :
    (sendBody kind a b pre s).Post State.Inv :=
  .bind (readX_inv hs) fun ⟨_, _⟩ h => .bind needValue_inv fun _ _ => .bind needValue_inv fun _ _ =>
    .bind needValue_inv fun _ _ => .bind (P := firstInv) (.ite h (.bind (readX_inv h) fun ⟨_, _⟩ h1 =>
    .bind needAligned_inv fun _ _ => loadWords_inv h1)) fun ⟨_, _⟩ h1 =>
    .ite (.ite trivial (.ite (sendqFull_inv hpre) trivial)) (.bind waitTfence_inv fun _ _ => h1)

theorem execSend_inv {a b : BitVec 5} (h : s.Inv) : nextInv (execSend a b s) := issue_inv h (fun _ h1 => sendBody_inv h h1)
theorem execSendr_inv {a b : BitVec 5} (h : s.Inv) : nextInv (execSendr a b s) := issue_inv h (fun _ h1 => sendBody_inv h h1)
theorem execAmsg_inv {a b : BitVec 5} (h : s.Inv) : nextInv (execAmsg a b s) := issue_inv h (fun _ h1 => sendBody_inv h h1)

theorem injectTo_inv {u : Nat} {m : Msg} {e : Word} (h : s.Inv) : (injectTo s u m e).Inv := by
  unfold injectTo
  dsimp only
  split <;> exact State.countSent_inv h

theorem sendqFreed_inv {u : Nat} (h : s.Inv) : (sendqFreed s u).Inv := ite_inv (serviceWake_inv h) h

theorem execMessageInject_inv {u : Nat} {reply : Bool} (h : s.Inv) : nextInv (execMessageInject u reply s) := by
  unfold execMessageInject
  dsimp only
  split
  · exact h
  · exact nextInv_ite h (nextInv_ite (sendqFreed_inv h) (nextInv_ite (nextInv_ite (nextInv_ite (sendqFreed_inv h) h)
      (sendqFreed_inv (injectTo_inv h))) (sendqFreed_inv (injectTo_inv h))))

theorem execMessageArrival_inv {src dst vn : Nat} (h : s.Inv) : nextInv (execMessageArrival src dst vn s) := by
  unfold execMessageArrival
  split
  · exact h
  · split
    · exact h
    · exact nextInv_ite h (nextInv_ite h (arriveMsg_inv h))

theorem heldTaken_inv {u : Nat} {reply : Bool} (h : s.Inv) : ∀ t ∈ heldTaken s u reply, t.Inv := by
  unfold heldTaken
  split
  · exact none_inv
  · split
    · exact none_inv
    · exact acceptMsg_inv h

theorem execInboxHeldEntry_inv {u : Nat} (h : s.Inv) : nextInv (execInboxHeldEntry u s) := by
  unfold execInboxHeldEntry
  split
  · rename_i e
    exact (someState_inv e (heldTaken_inv h) :)
  · split
    · rename_i e
      exact (someState_inv e (heldTaken_inv h) :)
    · exact h

theorem execRankget_inv {d a : BitVec 5} (h : s.Inv) : nextInv (execRankget d a s) :=
  issue_inv h (fun _ h1 => .bind (readX_inv h1) fun ⟨_, _⟩ h2 => .bind needValue_inv fun _ _ => writeX_inv h2)

theorem writeRank_inv {u r : Nat} {e : Word} (h : s.Inv) : (writeRank s u r e).Inv :=
  ite_inv (foldl_inv (P := State.Inv) (fun _ _ h1 => injectTo_inv h1) h) h

theorem ranksetBody_inv {a b : BitVec 5} (h : s.Inv) : (ranksetBody a b s).Post State.Inv :=
  .bind (read2_inv h) fun ⟨_, _, _⟩ h1 => .bind needValue_inv fun _ _ => .bind needValue_inv fun _ _ =>
    .bind needValue_inv fun _ _ => ite_inv h1 (writeRank_inv h1)

theorem execRankset_inv {a b : BitVec 5} (h : s.Inv) : nextInv (execRankset a b s) := issue_inv h fun _ h1 => ranksetBody_inv h1

theorem storeWords_inv {va : Nat} {l : List Word} (h : s.Inv) : (storeWords s va l).Post State.Inv := by
  induction l generalizing s va with
  | nil => exact h
  | cons w l ih => exact .bind (storePart_inv h) fun _ h1 => ih h1

theorem recvBody_inv {poll : Bool} {d a : BitVec 5} (h : s.Inv) : (recvBody poll d a s).Post State.Inv := by
  unfold recvBody
  refine .bind (readX_inv h) fun ⟨_, _⟩ h1 => ?_
  refine .bind needAligned_inv fun _ _ => ?_
  split
  · exact .ite (writeX_inv h1) trivial
  · split
    · exact h1
    · exact .bind (P := fun _ => True) (.ite trivial waitAcquire_inv) fun _ _ => .bind waitMmrev_inv fun _ _ =>
        .bind (storeWords_inv (ite_inv h1 h1)) fun _ h2 => writeX_inv (replayCheck_inv h2)

theorem execRecv_inv {d a : BitVec 5} (h : s.Inv) : nextInv (execRecv d a s) := issue_inv h fun _ h1 => recvBody_inv h1
theorem execRecvp_inv {d a : BitVec 5} (h : s.Inv) : nextInv (execRecvp d a s) := issue_inv h fun _ h1 => recvBody_inv h1

theorem loopbkBody_inv {a b : BitVec 5} (h : s.Inv) : (loopbkBody a b s).Post State.Inv :=
  .bind (need_inv trivial) fun _ _ => .bind (read2_inv h) fun ⟨_, _, _⟩ h1 => .bind needAligned_inv fun _ _ =>
    .bind needValue_inv fun _ _ => .ite (replayCheck_inv h1) (.bind (loadWords_inv h1) fun ⟨_, _⟩ h2 =>
    .bind (need_inv trivial) fun _ _ => foldl_inv (P := State.Inv) (fun _ _ h3 => enterInbox_inv h3) h2)

theorem execLoopbk_inv {a b : BitVec 5} (h : s.Inv) : nextInv (execLoopbk a b s) := issue_inv h fun _ h1 => loopbkBody_inv h1

theorem execHandlerStart_inv {u : Nat} (h : s.Inv) : nextInv (execHandlerStart u s) := by
  unfold execHandlerStart
  dsimp only
  split
  · exact h
  · split
    · exact nextInv_ite h (State.modHart_inv (replayCheck_inv (State.wrote_inv (State.put_wf (State.modNi_inv h)))))
    · exact h

theorem execHret_inv (h : s.Inv) : nextInv (execHret s) := issue_inv h (fun _ h1 => .bind (need_inv trivial) fun _ _ => h1)

theorem watchedLine_inv {va : Nat} (h : s.Inv) : (watchedLine s va).Post firstInv := by
  unfold watchedLine
  refine .bind windowAddr_inv fun _ _ => ?_
  split
  · exact h
  · split
    · exact trivial
    · exact raise_inv
    · rename_i e
      exact (fst_inv e (translate_inv h) :)

theorem parked_inv {code await : Nat} {on : Option Nat} (h : s.Inv) : (parked s code await on).Post State.Inv := .ite raise_inv h

theorem waitaPark_inv {pre : State} {l : Nat} (h : pre.Inv) : (waitaPark pre l).Post State.Inv :=
  .bind (need_inv trivial) fun _ _ => takePark_inv (ite_inv h h)

theorem waitaBody_inv {a : BitVec 5} {pre : State} (hpre : pre.Inv) (hs : s.Inv) : (waitaBody a pre s).Post State.Inv :=
  .bind (readX_inv hs) fun ⟨_, _⟩ h => .bind (watchedLine_inv h) fun ⟨_, _⟩ h1 => .ite (.bind waitAcquire_inv fun _ _ =>
    h1) (waitaPark_inv hpre)

theorem execWaita_inv {a : BitVec 5} (h : s.Inv) : nextInv (execWaita a s) := issue_inv h (fun _ h1 => waitaBody_inv h h1)

theorem barrierReach_inv {j : BitVec 16} {u b : Nat} {bit : BitVec 16} {a : Bool} (h : s.Inv) :
    (barrierReach s j u b bit a).Inv :=
  ite_inv h h

theorem barrierRestore_inv {u : Nat} (h : s.Inv) : (barrierRestore s u).Inv := foldl_inv (P := State.Inv) (fun _ _ h1 => h1) h

theorem barrierOf_inv {a : BitVec 5} (h : s.Inv) : (barrierOf s a).Post firstInv :=
  .bind (readX_inv h) fun ⟨_, _⟩ h1 => .bind needValue_inv fun _ _ => h1

theorem arriveAt_inv {b : Nat} (h : s.Inv) : (arriveAt s b).Post firstInv :=
  .bind (need_inv trivial) fun _ _ => .bind (need_inv trivial) fun _ _ => foldl_inv (P := State.Inv) (fun _ _ h1 =>
    barrierReach_inv h1) h

theorem execBarr_inv {d a : BitVec 5} (h : s.Inv) : nextInv (execBarr d a s) :=
  issue_inv h (fun _ h1 => .bind (barrierOf_inv h1) fun ⟨_, _⟩ h2 => .bind (arriveAt_inv h2) fun ⟨_, _⟩ h3 => writeX_inv h3)

theorem barwBack_inv {a : BitVec 5} (h : t.Inv) : (barwBack a s t).Post State.Inv := .ite trivial h

theorem barwBody_inv {d a : BitVec 5} (h : s.Inv) : (barwBody d a s).Post State.Inv :=
  .bind (need_inv trivial) fun _ _ => .bind (barrierOf_inv h) fun ⟨_, _⟩ h1 => .bind (arriveAt_inv h1) fun ⟨_, _⟩ h2 =>
    .bind (writeX_inv h2) fun _ h3 => .ite h3 (parked_inv h3)

theorem execBarw_inv {d a : BitVec 5} (h : s.Inv) : nextInv (execBarw d a s) :=
  issue_inv h (fun _ h1 => .ite (barwBack_inv h1) (barwBody_inv h1))

theorem execBwait_inv {a b : BitVec 5} (h : s.Inv) : nextInv (execBwait a b s) :=
  issue_inv h (fun _ h1 => .bind (barrierOf_inv h1) fun ⟨_, _⟩ h2 => .bind (readX_inv h2) fun ⟨_, _⟩ h3 =>
    .bind needValue_inv fun _ _ => .ite h3 trivial)

theorem execBcfg_inv {a b : BitVec 5} (h : s.Inv) : nextInv (execBcfg a b s) :=
  issue_inv h (fun _ h1 => .bind (barrierOf_inv h1) fun ⟨_, _⟩ h2 => .bind (readX_inv h2) fun ⟨_, _⟩ h3 =>
    .bind needValue_inv fun _ _ => .bind (need_inv trivial) fun _ _ => h3)

theorem execBstat_inv {d a : BitVec 5} (h : s.Inv) : nextInv (execBstat d a s) :=
  issue_inv h (fun _ h1 => .bind (barrierOf_inv h1) fun ⟨_, _⟩ h2 => writeX_inv h2)

theorem execBarrierRelease_inv {c b : Nat} (h : s.Inv) : nextInv (execBarrierRelease c b s) :=
  foldl_inv (P := State.Inv) (fun _ _ h1 => h1) h

end Sys2Proof.Machine

end

section

/-! SUPPORT. Memory keeps its canonical form: bulk copies, gathers and scatters (11 R278 to R295). -/

namespace Sys2Proof.Machine

open Sys2Proof

variable {s t : State}

theorem windowSpan_inv {p : ESpan} : (windowSpan s p).Post fun _ => True :=
  .ite (.ite raise_inv (.ite raise_inv trivial)) (.ite (.ite raise_inv trivial) raise_inv)

theorem checkSpan_inv {p : ESpan} (h : s.Inv) : (checkSpan s p).Post firstInv := by
  unfold checkSpan
  split
  · exact .bind windowSpan_inv fun _ _ => h
  · refine .bind checkWindows_inv fun _ _ => ?_
    split
    · exact raise_inv
    · rename_i e
      exact .bind (need_inv trivial) fun _ _ => .bind (need_inv trivial) fun _ _ => .bind (need_inv trivial) fun _ _ =>
        .bind (need_inv trivial) fun _ _ => .bind (need_inv trivial) fun _ _ => .bind (need_inv trivial) fun _ _ =>
        .bind (need_inv trivial) fun _ _ => (fst_inv e (findRange_inv h) :)

theorem checkSpans_inv {l : List ESpan} (h : s.Inv) : (checkSpans s l).Post firstInv := by
  induction l generalizing s with
  | nil => exact h
  | cons p l ih => exact .bind (checkSpan_inv h) fun ⟨_, _⟩ h1 => .bind (ih h1) fun ⟨_, _⟩ h2 => h2

theorem setChunkBit_inv {u : Nat} {o : EngineOp} {c : Nat} (h : s.Inv) : (setChunkBit s u o c).Inv :=
  ite_inv (State.wrote_inv (State.putW_wf h)) h

theorem reportOp_inv {u : Nat} {o : EngineOp} {v : Word} (h : s.Inv) : (reportOp s u o v).Inv :=
  when_inv (ite_inv h (State.wrote_inv (State.putW_wf h))) deliverPort_inv

theorem releaseOp_inv {u : Nat} {n : BitVec 16} (h : s.Inv) : (releaseOp s u n).Inv := wakePark_inv (State.applyInvals_inv h)

theorem boxMessage_inv {b : Nat × Nat × Nat × Nat} {cval : Word} {handle : BitVec 16} (h : s.Inv) :
    (boxMessage s b cval handle).Inv :=
  arriveMsg_inv (State.countSent_inv h)

/-- An operation of an engine is queued, or, with nothing to move, done at once. -/
theorem opTaken_inv {u : Nat} {o : EngineOp} {v : Word} {c d : Prop} [Decidable c] [Decidable d] {f g : UnitSt → UnitSt}
    (h : s.Inv) :
    (if c then if d then s.modMine f else reportOp s u o v else s.modMine g).Inv := ite_inv (ite_inv h (reportOp_inv h)) h

theorem engineBody_inv {form : OpForm} {d a : BitVec 5} (h : s.Inv) : (engineBody form d a s).Post State.Inv := by
  unfold engineBody
  refine .bind (readX_inv h) fun ⟨_, _⟩ h1 => ?_
  refine .bind needAligned_inv fun _ _ => .bind (loadWords_inv h1) fun ⟨_, _⟩ h2 => ?_
  refine .bind (P := fun _ => True) ?_ fun _ _ => ?_
  · split
    · exact raise_inv
    · exact trivial
  · refine .bind (P := fun _ => True) (.ite needAligned_inv trivial) fun _ _ => .bind (need_inv trivial) fun _ _ => ?_
    refine .bind (checkSpans_inv h2) fun ⟨_, _⟩ h3 => .bind (need_inv trivial) fun _ _ => .bind (need_inv trivial) fun _ _ =>
      .bind (need_inv trivial) fun _ _ => ?_
    refine .ite (.bind (storeWords_inv h3) fun _ h4 => ?_) (.bind (P := State.Inv) h3 fun _ h4 => ?_) <;>
    exact writeX_inv (opTaken_inv (when_inv (foldl_inv (P := State.Inv) (fun _ _ h5 => setChunkBit_inv h5) h4) boxMessage_inv))

theorem execBcopy_inv {d a : BitVec 5} (h : s.Inv) : nextInv (execBcopy d a s) := issue_inv h fun _ h1 => engineBody_inv h1
theorem execBcopyc_inv {d a : BitVec 5} (h : s.Inv) : nextInv (execBcopyc d a s) := issue_inv h fun _ h1 => engineBody_inv h1
theorem execBgath_inv {d a : BitVec 5} (h : s.Inv) : nextInv (execBgath d a s) := issue_inv h fun _ h1 => engineBody_inv h1
theorem execBscat_inv {d a : BitVec 5} (h : s.Inv) : nextInv (execBscat d a s) := issue_inv h fun _ h1 => engineBody_inv h1

theorem execWaybillArrival_inv {u n : Nat} (h : s.Inv) : nextInv (execWaybillArrival u n s) := by
  unfold execWaybillArrival
  split
  · exact nextInv_ite (ite_inv h h) h
  · exact h

theorem execEngineStart_inv {u n : Nat} (h : s.Inv) : nextInv (execEngineStart u n s) := by
  unfold execEngineStart
  split
  · exact nextInv_ite (ite_inv h h) h
  · exact h

theorem enginePa_inv {u va : Nat} {off : Option Word} {write : Bool} (h : s.Inv) :
    ∀ r ∈ enginePa s u va off write, firstInv r := by
  unfold enginePa
  split
  · exact some_inv h
  · split
    · rename_i e
      exact some_inv (fst_inv e (findRange_inv h) :)
    · split
      · exact none_inv
      · split
        · split
          · rename_i e _ _ _ _ _ _ e1
            exact some_inv (fst_inv e1 (stateRule_inv (fst_inv e (findRange_inv h) :)) :)
          · exact none_inv
        · rename_i e _ _
          exact some_inv (fst_inv e (findRange_inv h) :)

theorem engineRead_inv {u va n : Nat} {off : Option Word} (h : s.Inv) : ∀ r ∈ engineRead s u va n off, firstInv r := by
  unfold engineRead
  refine foldlM_option (P := firstInv) (fun ⟨_, _, _⟩ ⟨_, _⟩ h1 => ?_) h
  refine bind_option (enginePa_inv h1) fun ⟨_, _, _⟩ h2 => ?_
  split
  · split
    · exact none_inv
    · split
      · rename_i e _ _ _ _ e1
        exact some_inv (fst_inv e1 (State.engineLoad_inv (fst_inv e h2 :)) :)

theorem poisonSpan_inv {pa n : Nat} (h : s.Inv) : (poisonSpan s pa n).Inv :=
  foldl_inv (P := State.Inv) (fun _ _ h1 => State.addPoison_inv h1) h

theorem engineWrite_inv {u va n v : Nat} {bad : List (Nat × Nat)} {off : Option Word} (h : s.Inv) :
    ∀ t ∈ engineWrite s u va n v bad off, t.Inv :=
  foldlM_option (P := State.Inv) (fun _ ⟨_, _⟩ h1 => bind_option (enginePa_inv h1) fun ⟨_, _, _⟩ h2 =>
    ite_option none_inv (some_inv (foldl_inv (P := State.Inv) (fun _ ⟨_, _⟩ h3 =>
    ite_inv (poisonSpan_inv h3) h3) (State.engineStore_inv h2)))) h

theorem indexOff_inv {u : Nat} {o : EngineOp} {k : Nat} (h : s.Inv) : ∀ r ∈ indexOff s u o k, firstInv r := by
  unfold indexOff
  split
  · split
    · dsimp only
      split
      · exact none_inv
      · rename_i e
        exact some_inv (some_fst_inv e (engineRead_inv h) :)
    · dsimp only
      split
      · exact none_inv
      · rename_i e
        exact some_inv (some_fst_inv e (engineRead_inv h) :)
  · split
    · dsimp only
      split
      · exact none_inv
      · rename_i e
        exact some_inv (some_fst_inv e (engineRead_inv h) :)
    · dsimp only
      split
      · exact none_inv
      · rename_i e
        exact some_inv (some_fst_inv e (engineRead_inv h) :)

theorem rowPlaces_inv {u : Nat} {o : EngineOp} {k : Nat} (h : s.Inv) : ∀ r ∈ rowPlaces s u o k, firstInv r := by
  unfold rowPlaces
  split
  · exact some_inv h
  · exact some_inv h
  · exact map_option (indexOff_inv h) fun ⟨_, _⟩ h1 => h1
  · exact map_option (indexOff_inv h) fun ⟨_, _⟩ h1 => h1

theorem moveChunk_inv {u : Nat} {o : EngineOp} {c : Nat} (h : s.Inv) : ∀ r ∈ moveChunk s u o c, firstInv r := by
  unfold moveChunk
  refine foldlM_option (P := firstInv) (fun ⟨_, _⟩ ⟨_, _, _⟩ h1 => ?_) h
  refine bind_option (rowPlaces_inv h1) fun ⟨_, _⟩ h2 => ?_
  split
  · split
    · rename_i e
      exact some_inv (fst_inv e h2 :)
    · rename_i e
      exact bind_option (engineRead_inv (fst_inv e h2 :)) fun ⟨_, _, _⟩ h3 => bind_option (engineWrite_inv h3) fun _ h4 =>
        some_inv h4

theorem execEngineChunkLanded_inv {u n chunk : Nat} (h : s.Inv) : nextInv (execEngineChunkLanded u n chunk s) := by
  unfold execEngineChunkLanded
  split
  · dsimp only
    split
    · split
      · exact h
      · rename_i e
        exact when_inv (some_fst_inv e (moveChunk_inv h) :) setChunkBit_inv
    · exact h
  · exact h

theorem poisonQueue_inv {u k port : Nat} {bad : Bool} (h : s.Inv) : (poisonQueue s u k port bad).Inv := by
  unfold poisonQueue
  split <;> exact h

theorem execGatherRowDelivery_inv {u n : Nat} (h : s.Inv) : nextInv (execGatherRowDelivery u n s) := by
  unfold execGatherRowDelivery
  split
  · dsimp only
    split
    · split
      · exact h
      · rename_i e
        exact (some_fst_inv e (rowPlaces_inv h) :)
      · split
        · exact h
        · rename_i e _ _ _ _ e1
          exact foldl_inv (P := State.Inv) (fun _ _ h1 => deliverPort_inv h1) (poisonQueue_inv (some_fst_inv e1 (engineRead_inv
            (some_fst_inv e (rowPlaces_inv h) :)) :))
    · exact h
  · exact h

theorem execEngineComplete_inv {u n : Nat} (h : s.Inv) : nextInv (execEngineComplete u n s) := by
  unfold execEngineComplete
  split
  · exact reportOp_inv h
  · exact nextInv_ite (releaseOp_inv (reportOp_inv h)) h
  · exact h

theorem withdrawOp_inv {u : Nat} {o : EngineOp} (h : s.Inv) : (withdrawOp s u o).Inv := releaseOp_inv (reportOp_inv (ite_inv h h))

theorem execCancelRequest_inv {u k : Nat} (h : s.Inv) : nextInv (execCancelRequest u k s) := by
  unfold execCancelRequest
  split
  · dsimp only
    split
    · exact State.modHart_inv h
    · exact nextInv_ite h (nextInv_ite (State.modHart_inv (withdrawOp_inv h)) (State.modHart_inv h))
  · exact h

theorem bcancelBody_inv {d a : BitVec 5} (h : s.Inv) : (bcancelBody d a s).Post State.Inv := by
  unfold bcancelBody
  refine .bind (readX_inv h) fun ⟨_, _⟩ h1 => ?_
  refine .bind needValue_inv fun _ _ => ?_
  split
  · exact writeX_inv h1
  · exact trivial
  · exact .ite trivial (writeX_inv h1)

theorem execBcancel_inv {d a : BitVec 5} (h : s.Inv) : nextInv (execBcancel d a s) := issue_inv h fun _ h1 => bcancelBody_inv h1

theorem execGatherAbandon_inv {u n : Nat} (h : s.Inv) : nextInv (execGatherAbandon u n s) := by
  unfold execGatherAbandon
  split
  · exact nextInv_ite (State.modHart_inv (State.modUnit_inv (releaseOp_inv h))) h
  · exact h

theorem testWord_inv {a b : BitVec 5} (h : s.Inv) : (testWord a b s).Post firstInv :=
  .bind (read2_inv h) fun ⟨_, _, _⟩ h1 => .bind needValue_inv fun _ _ => .bind (loadWord_inv h1) fun ⟨_, _⟩ h2 => h2

theorem execCtest_inv {d a b : BitVec 5} (h : s.Inv) : nextInv (execCtest d a b s) :=
  issue_inv h (fun _ h1 => .bind (testWord_inv h1) fun ⟨_, _, _, _⟩ h2 =>
    .bind (P := fun _ => True) (.ite waitAcquire_inv trivial) fun _ _ => writeX_inv (ite_inv h2 h2))

theorem execCwaitm_inv {a b : BitVec 5} (h : s.Inv) : nextInv (execCwaitm a b s) :=
  issue_inv h (fun _ h1 => .bind (testWord_inv h1) fun ⟨_, _, _, _⟩ h2 =>
    .ite (.bind (P := fun _ => True) (.ite waitAcquire_inv trivial) fun _ _ => ite_inv h2 h2) trivial)

theorem discardOps_inv {u : Nat} (h : s.Inv) :
    (discardOps s u).Inv := wakePark_inv (foldl_inv (P := State.Inv) (fun _ _ h1 => h1) h)

end Sys2Proof.Machine

end

section

/-! SUPPORT. Memory keeps its canonical form: convoys (11 R296 to R299). -/

namespace Sys2Proof.Machine

open Sys2Proof

variable {s t : State}

theorem execConvoyRequest_inv {u r : Nat} (h : s.Inv) : nextInv (execConvoyRequest u r s) := by
  unfold execConvoyRequest
  split
  · dsimp only
    split
    · split
      · exact h
      · split
        · split <;> exact h
        · exact nextInv_ite h h
    · split
      · exact h
      · split
        · split <;> exact h
        · exact nextInv_ite h h
  · exact h

theorem execConvoyWindowClose_inv {i : Nat} (h : s.Inv) : nextInv (execConvoyWindowClose i s) := by
  unfold execConvoyWindowClose
  split <;> exact h

theorem homeLine_inv {line : Nat} (h : s.Inv) : (homeLine s line).1.Inv := by
  unfold homeLine
  split
  · rename_i e
    exact (fst_inv e (State.homeLoad_inv h) :)

theorem execConvoyLineSend_inv {i : Nat} (h : s.Inv) : nextInv (execConvoyLineSend i s) := by
  unfold execConvoyLineSend
  split
  · split
    · dsimp only
      exact nextInv_ite h (State.pinLines_inv (homeLine_inv h))
    · exact h
  · exact h

theorem execConvoyUnicast_inv {i : Nat} (h : s.Inv) : nextInv (execConvoyUnicast i s) := by
  unfold execConvoyUnicast
  split
  · split
    · exact h
    · split
      · exact h
      · exact h
      · split
        · exact h
        · dsimp only
          exact homeLine_inv h
  · exact h

theorem execConvoyLineArrival_inv {i u : Nat} (h : s.Inv) : nextInv (execConvoyLineArrival i u s) := by
  unfold execConvoyLineArrival
  split
  · split
    · split
      · dsimp only
        split
        · split
          · exact h
          · split
            · exact h
            · exact State.applyInvals_inv h
        · exact h
      · exact h
    · exact h
  · exact h

theorem execConvoyEnd_inv {i : Nat} (h : s.Inv) : nextInv (execConvoyEnd i s) := by
  unfold execConvoyEnd
  split
  · exact nextInv_ite h h
  · exact h

end Sys2Proof.Machine

end

section

/-! SUPPORT. Memory keeps its canonical form: the range instructions and the orders of the compaction engines (15 R353 to R365). -/

namespace Sys2Proof.Machine

open Sys2Proof

variable {s t : State}

theorem needHomePa_inv {pa al : Nat} : (needHomePa s pa al).Post fun _ => True := need_inv trivial

theorem homeBlock_inv {pa n : Nat} (h : s.Inv) : (homeBlock s pa n).Post firstInv := by
  refine .bind (need_inv trivial) fun _ _ => .bind (P := fun _ => True) ?_ fun _ _ => State.homeLoad_inv h
  split
  · exact raise_inv
  · exact trivial

theorem rawDesc_inv {pa : Nat} (h : s.Inv) : (rawDesc s pa).Post firstInv :=
  .bind needHomePa_inv fun _ _ => .bind (homeBlock_inv h) fun ⟨_, _⟩ h1 => h1

theorem goodDesc_inv {pa : Nat} (h : s.Inv) : (goodDesc s pa).Post firstInv := by
  unfold goodDesc
  refine .bind (rawDesc_inv h) fun ⟨_, _⟩ h1 => ?_
  dsimp only
  split
  · exact raise_inv
  · exact h1

theorem normalDesc_inv {pa : Nat} (h : s.Inv) : (normalDesc s pa).Post firstInv :=
  .bind (goodDesc_inv h) fun ⟨_, _⟩ h1 => .bind (need_inv trivial) fun _ _ => h1

theorem fenceSystem_inv (h : s.Inv) : (fenceSystem s).Post State.Inv :=
  .bind waitRelease_inv fun _ _ => .bind waitAcquire_inv fun _ _ => h

theorem sendAndWait_inv {b : Bcast} {job : BitVec 16} {vbase : Option Nat} {off : Option Word} {spans : List
    (Nat × Nat)} (h : s.Inv) : (sendAndWait s b job vbase off spans).Inv :=
  h

theorem drainDone_inv (h : s.Inv) : (drainDone s).Post State.Inv := by
  unfold drainDone
  split
  · exact .ite h trivial
  · exact h

theorem rangeInstr_inv {i : Instr} {first : State → Res State} (h : s.Inv) (hf : ∀ t, t.Inv → (first t).Post State.Inv) :
    nextInv (rangeInstr i s first) := by
  refine issue_inv h fun t ht => ?_
  split
  · exact drainDone_inv ht
  · exact hf t ht

theorem rinsBody_inv {a : BitVec 5} (h : s.Inv) : (rinsBody a s).Post State.Inv :=
  .bind (readX_inv h) fun ⟨_, _⟩ h1 => .bind (normalDesc_inv h1) fun ⟨_, _⟩ h2 => .bind (fenceSystem_inv h2) fun _ h3 => h3

theorem execRins_inv {a : BitVec 5} (h : s.Inv) : nextInv (execRins a s) := rangeInstr_inv h fun _ h1 => rinsBody_inv h1

theorem rsplitBody_inv {a b : BitVec 5} (h : s.Inv) : (rsplitBody a b s).Post State.Inv :=
  .bind (read2_inv h) fun ⟨_, _, _⟩ h1 => .bind (normalDesc_inv h1) fun ⟨_, _⟩ h2 => .bind (need_inv trivial) fun _ _ =>
    .bind (fenceSystem_inv h2) fun _ h3 => h3

theorem execRsplit_inv {a b : BitVec 5} (h : s.Inv) : nextInv (execRsplit a b s) := rangeInstr_inv h fun _ h1 => rsplitBody_inv h1

theorem rmergeBody_inv {a b : BitVec 5} (h : s.Inv) : (rmergeBody a b s).Post State.Inv :=
  .bind (read2_inv h) fun ⟨_, _, _⟩ h1 => .bind (normalDesc_inv h1) fun ⟨_, _⟩ h2 => .bind (rawDesc_inv h2) fun ⟨_, _⟩ h3 =>
    .bind (need_inv trivial) fun _ _ => .bind (need_inv trivial) fun _ _ => .bind (need_inv trivial) fun _ _ =>
    .bind (need_inv trivial) fun _ _ => .bind (need_inv trivial) fun _ _ => .bind (fenceSystem_inv h3) fun _ h4 => h4

theorem execRmerge_inv {a b : BitVec 5} (h : s.Inv) : nextInv (execRmerge a b s) := rangeInstr_inv h fun _ h1 => rmergeBody_inv h1

theorem rinvalBody_inv {a : BitVec 5} (h : s.Inv) : (rinvalBody a s).Post State.Inv :=
  .bind (readX_inv h) fun ⟨_, _⟩ h1 => .bind (rawDesc_inv h1) fun ⟨_, _⟩ h2 => .bind (need_inv trivial) fun _ _ =>
    .bind (need_inv trivial) fun _ _ => .bind (fenceSystem_inv h2) fun _ h3 => h3

theorem execRinval_inv {a : BitVec 5} (h : s.Inv) : nextInv (execRinval a s) := rangeInstr_inv h fun _ h1 => rinvalBody_inv h1

theorem rresBody_inv {a b : BitVec 5} (h : s.Inv) : (rresBody a b s).Post State.Inv :=
  .bind (read2_inv h) fun ⟨_, _, _⟩ h1 => .bind (normalDesc_inv h1) fun ⟨_, _⟩ h2 => .bind needHomePa_inv fun _ _ =>
    .bind (homeBlock_inv h2) fun ⟨_, _⟩ h3 => .bind (need_inv trivial) fun _ _ => .bind (need_inv trivial) fun _ _ =>
    .bind (fenceSystem_inv h3) fun _ h4 => sendAndWait_inv (writeDesc_inv h4)

theorem execRres_inv {a b : BitVec 5} (h : s.Inv) : nextInv (execRres a b s) := rangeInstr_inv h fun _ h1 => rresBody_inv h1

theorem rprobeBody_inv {d a : BitVec 5} (h : s.Inv) : (rprobeBody d a s).Post State.Inv := by
  unfold rprobeBody
  refine .bind (readX_inv h) fun ⟨_, _⟩ h1 => ?_
  refine .bind needHomePa_inv fun _ _ => ?_
  refine .bind (homeBlock_inv h1) fun ⟨_, _⟩ h2 => ?_
  refine .bind (need_inv trivial) fun _ _ => ?_
  split <;> exact writeX_inv h2

theorem execRprobe_inv {d a : BitVec 5} (h : s.Inv) : nextInv (execRprobe d a s) := issue_inv h fun _ h1 => rprobeBody_inv h1

theorem orderDesc_inv {pa : Nat} (h : s.Inv) : (orderDesc s pa).Post firstInv :=
  .bind (rawDesc_inv h) fun ⟨_, _⟩ h1 => .ite (goodDesc_inv h) h1

theorem orderBody_inv {form : OrderForm} {d a b : BitVec 5} (h : s.Inv) : (orderBody form d a b s).Post State.Inv :=
  .bind (read2_inv h) fun ⟨_, _, _⟩ h1 => .bind (orderDesc_inv h1) fun ⟨_, _⟩ h2 => .bind needHomePa_inv fun _ _ =>
    .bind (homeBlock_inv h2) fun ⟨_, _⟩ h3 => .bind (need_inv trivial) fun _ _ => .bind (need_inv trivial) fun _ _ =>
    .bind (need_inv trivial) fun _ _ => .bind (need_inv trivial) fun _ _ =>
    .ite (writeX_inv h3) (.bind (need_inv trivial) fun _ _ => .ite (writeX_inv h3) (.bind (fenceSystem_inv h3) fun _ h4 =>
    writeX_inv (State.modStation_inv (State.broadcast_inv (writeDesc_inv h4)))))

theorem execRmove_inv {d a b : BitVec 5} (h : s.Inv) : nextInv (execRmove d a b s) := issue_inv h fun _ h1 => orderBody_inv h1
theorem execBoffl_inv {d a b : BitVec 5} (h : s.Inv) : nextInv (execBoffl d a b s) := issue_inv h fun _ h1 => orderBody_inv h1
theorem execBret_inv {d a b : BitVec 5} (h : s.Inv) : nextInv (execBret d a b s) := issue_inv h fun _ h1 => orderBody_inv h1
theorem setOrder_inv {m i : Nat} {o : Order} (h : s.Inv) : (setOrder s m i o).Inv := h

theorem execOrderDrainEnd_inv {m i : Nat} (h : s.Inv) : nextInv (execOrderDrainEnd m i s) := by
  unfold execOrderDrainEnd
  split
  · exact nextInv_ite h h
  · exact h

theorem lockOld_inv {line : Nat} (h : s.Inv) : (lockOld s line).Inv :=
  when_inv (State.dropQuads_inv (State.l2Fill_inv h)) State.rdcDrop_inv

theorem publishCursor_inv {o : Order} (h : s.Inv) : (publishCursor s o).Inv := writeDesc_inv h

theorem sweepMove_inv {o : Order} {src dst : Nat} (h : s.Inv) : (sweepMove s o src dst).Inv := by
  unfold sweepMove
  split
  · exact ite_inv h h
  · exact h

theorem execOrderCopyLine_inv {m i : Nat} (h : s.Inv) : nextInv (execOrderCopyLine m i s) := by
  unfold execOrderCopyLine
  split
  · dsimp only
    exact nextInv_ite h (when_inv (sweepMove_inv (foldl_inv (P := State.Inv) (fun _ _ h1 =>
      ite_inv (State.addPoison_inv h1) h1) (State.homeStore_inv (homeLine_inv (ite_inv (lockOld_inv h) h))))) publishCursor_inv)
  · exact h

theorem execOrderSwitch_inv {m i : Nat} (h : s.Inv) : nextInv (execOrderSwitch m i s) := by
  unfold execOrderSwitch
  split
  · exact nextInv_ite (setOrder_inv (State.broadcast_inv (writeDesc_inv h))) h
  · exact h

theorem execOrderCompletion_inv {m i : Nat} (h : s.Inv) : nextInv (execOrderCompletion m i s) := by
  unfold execOrderCompletion
  split
  · exact nextInv_ite (State.homeStore_inv h) h
  · exact h

theorem execRedirect_inv {u : Nat} {va : Word} (h : s.Inv) : nextInv (execRedirect u va s) := by
  unfold execRedirect
  split
  · split
    · exact State.setTable_inv h
    · exact h
  · exact h

theorem execOrderCancel_inv {u : Nat} {va : Word} (h : s.Inv) : nextInv (execOrderCancel u va s) := by
  unfold execOrderCancel
  split
  · split
    · split
      · exact ite_inv h (cancelOrder_inv h)
      · exact h
    · exact h
  · exact h

theorem stopOrders_inv {job : BitVec 16} (h : s.Inv) : (stopOrders s job).Inv :=
  foldl_inv (P := State.Inv) (fun _ _ h1 => foldl_inv (P := State.Inv) (fun _ _ h2 => ite_inv (publishCursor_inv h2) h2) h1) h

end Sys2Proof.Machine

end

section

/-! SUPPORT. Memory keeps its canonical form: core blocks and the accesses of a device to a job's memory (18 R426). -/

namespace Sys2Proof.Machine

open Sys2Proof

variable {s t : State}

theorem relockLines_inv {u : Nat} {lines : List Nat} (h : s.Inv) : (relockLines s u lines).Inv := by
  unfold relockLines
  refine foldl_inv (P := State.Inv) (fun _ _ h1 => ?_) h
  split
  · rename_i e
    exact State.back_inv (lockLine_inv (ok_inv e (lockTranslate_inv h1) :))
  · exact h1
  · exact h1

theorem blockPlaces_inv {va n : Nat} {a : Acc} (h : s.Inv) : (blockPlaces s va n a).Post firstInv :=
  Res.Post.foldlM (Q := firstInv) (fun ⟨_, _⟩ ⟨_, _⟩ h1 => .bind (locate_inv h1) fun ⟨_, _⟩ h2 =>
    .bind (need_inv trivial) fun _ _ => h2) h

theorem writePlaces_inv {ps : List (Nat × Nat × Nat)} {v : Nat} {bad : List Nat} (h : s.Inv) : (writePlaces s ps v bad).Inv :=
  foldl_inv (P := State.Inv) (fun _ ⟨_, _, _⟩ h1 => foldl_inv (P := State.Inv) (fun _ _ h2 =>
    State.addPoison_inv h2) (State.homeStore_inv h1)) h

theorem readPlaces_inv {ps : List (Nat × Nat × Nat)} (h : s.Inv) : (readPlaces s ps).1.Inv := by
  unfold readPlaces
  refine foldl_inv (P := firstInv) (fun ⟨_, _⟩ ⟨_, _, _⟩ h1 => ?_) h
  split
  · rename_i e
    exact (fst_inv e (State.homeLoad_inv h1) :)

theorem deviceAccess_inv {u : Nat} {j : BitVec 16} {va n : Nat} {a : Acc} (h : s.Inv) : (deviceAccess s u j va n a).Inv := by
  unfold deviceAccess
  split
  · rename_i e
    exact (fst_inv e (spanPlaces_inv h) :)
  · exact trivial
  · rename_i e
    exact (fst_inv e (spanPlaces_inv h) :)

end Sys2Proof.Machine

end

section

/-! SUPPORT. Memory keeps its canonical form: jobs, continuations, the bazaar and the task instructions (16 R366 to R384). -/

namespace Sys2Proof.Machine

open Sys2Proof

variable {s t : State}

theorem retarget_inv {q : Nat} (h : s.Inv) : (retarget s q).Inv := h
theorem hbmFollow_inv {old : State} {d : Nat} (h : t.Inv) : (hbmFollow old t d).Inv := ite_inv h h

theorem phaseFrom_inv {old : State} {u i : Nat} (hs : s.Inv) : (phaseFrom old s u i).Inv :=
  ite_inv (ite_inv (hbmFollow_inv hs) (hbmFollow_inv hs)) (hbmFollow_inv hs)

theorem phaseRequest_inv {u i : Nat} (h : s.Inv) : (phaseRequest s u i).Inv := phaseFrom_inv h
theorem unitNotice_inv {u : Nat} {j : BitVec 16} {cause va : Nat} (h : s.Inv) : (unitNotice s u j cause va).Inv := h

theorem readJob_inv {u : Nat} {j : BitVec 16} (h : s.Inv) : (readJob s u j).Inv := by
  unfold readJob
  split
  · exact trivial
  · split
    · exact trivial
    · rename_i e
      exact DevAcc.refused_inv e (deviceAccess_inv h)
    · dsimp only
      rename_i e
      exact readPlaces_inv (DevAcc.ok_inv e (deviceAccess_inv h))

theorem foldCounts_inv {u : Nat} {j : BitVec 16} (h : s.Inv) : (foldCounts s u j).Inv := h

theorem endLate_inv {u : Nat} (h : s.Inv) : (endLate s u).Inv := by
  unfold endLate
  split <;> exact h

theorem loadHxjob_inv {u : Nat} {j : BitVec 16} {va v : Nat} (h : s.Inv) : (loadHxjob s u j va v).Inv := h

theorem restoreBlock_inv {u v : Nat} (h : s.Inv) : (restoreBlock s u v).Inv :=
  barrierRestore_inv (relockLines_inv (ite_inv (endLate_inv h) h))

/-- A device's access taken as any function that keeps memory canonical: a proof that reduces a match around it would otherwise
have the kernel run it on an address that is not known. -/
theorem exists_deviceAccess_inv :
    ∃ device, device = deviceAccess ∧ ∀ t u j va n a, t.Inv → (device t u j va n a).Inv :=
  ⟨_, rfl, fun _ _ _ _ _ _ => deviceAccess_inv⟩

theorem saveLeft_inv {u : Nat} (h : s.Inv) : (saveLeft s u).Inv := by
  obtain ⟨device, same, access⟩ := exists_deviceAccess_inv
  unfold saveLeft
  rw [← same]
  dsimp only
  split
  · exact h
  · split
    · exact h
    · exact trivial
    · rename_i read
      exact JobRead.refused_inv read (readJob_inv h)
    · rename_i read
      have h1 := JobRead.ok_inv read (readJob_inv h)
      split
      · rename_i record
        exact writePlaces_inv (DevAcc.ok_inv record (access _ _ _ _ _ _ h1))
      · exact trivial
      · rename_i record
        exact DevAcc.refused_inv record (access _ _ _ _ _ _ h1)

theorem stowAll_inv {u : Nat} (h : s.Inv) :
    (stowAll s u).Inv := foldl_inv (P := State.Inv) (fun _ _ h1 => State.stowHeld_inv h1) h

theorem switchJob_inv {u : Nat} {j : BitVec 16} {va v : Nat} (h : s.Inv) : (switchJob s u j va v).Inv := by
  obtain ⟨device, same, access⟩ := exists_deviceAccess_inv
  unfold switchJob
  rw [← same]
  dsimp only
  split
  · exact trivial
  · rename_i left
    exact PickUp.refused_inv left (saveLeft_inv h)
  · rename_i left
    have h1 := PickUp.done_inv left (saveLeft_inv h)
    split
    · exact State.modUnit_inv (loadHxjob_inv (stowAll_inv h1))
    · split
      · exact trivial
      · rename_i record
        exact DevAcc.refused_inv record (access _ _ _ _ _ _ h1)
      · rename_i ps record
        have h2 := readPlaces_inv (ps := ps) (DevAcc.ok_inv record (access _ _ _ _ _ _ h1))
        exact ite_inv (restoreBlock_inv (loadHxjob_inv (stowAll_inv h2))) (State.modUnit_inv (loadHxjob_inv (stowAll_inv h2)))

theorem refuseJob_inv {u : Nat} {j : BitVec 16} {cause va : Nat} (h : s.Inv) : (refuseJob s u j cause va).Inv := ite_inv h h

theorem claimJob_inv {u : Nat} {j : BitVec 16} (h : s.Inv) : (claimJob s u j).1.Inv := by
  unfold claimJob
  split
  · exact h
  · exact h
  · rename_i e
    exact refuseJob_inv (JobRead.refused_inv e (readJob_inv h))
  · split
    · rename_i e _
      exact refuseJob_inv (JobRead.ok_inv e (readJob_inv h))
    · split
      · exact h
      · split
        · rename_i e _ _ _
          exact JobRead.ok_inv e (readJob_inv h)
        · split
          · rename_i e _ _ _ _ _ e1
            exact PickUp.done_inv e1 (switchJob_inv (JobRead.ok_inv e (readJob_inv h)))
          · exact h
          · rename_i e _ _ _ _ _ _ _ e1
            exact refuseJob_inv (PickUp.refused_inv e1 (switchJob_inv (JobRead.ok_inv e (readJob_inv h))))

theorem startTask_inv {u k va : Nat} {ws : List Word} {frame : Nat} {bad : List Nat} (h : s.Inv) :
    (startTask s u k va ws frame bad).Inv :=
  State.takeHeld_inv h

theorem endLeases_inv {u : Nat} (h : s.Inv) : (endLeases s u).Inv := ite_inv (ite_inv h h) (ite_inv h h)

theorem pickUp_inv {before : State} {u k va : Nat} (h : s.Inv) : (pickUp before s u k va).Inv := by
  unfold pickUp
  dsimp only
  split
  · exact trivial
  · rename_i continuation
    exact DevAcc.refused_inv continuation (deviceAccess_inv h)
  · rename_i ps continuation
    have h1 := readPlaces_inv (ps := ps) (DevAcc.ok_inv continuation (deviceAccess_inv h))
    split
    · exact trivial
    · rename_i frame
      exact DevAcc.refused_inv frame (deviceAccess_inv h1)
    · rename_i ps frame
      have h2 := readPlaces_inv (ps := ps) (DevAcc.ok_inv frame (deviceAccess_inv h1))
      exact when_inv (when_inv (unless_inv (startTask_inv h2) fun h3 => ite_inv h3 h3) endLeases_inv) phaseFrom_inv

theorem State.setQueueOf_inv {key : Nat} {q : List BEntry} (h : s.Inv) : (s.setQueueOf key q).Inv := ite_inv h h

theorem State.setReservedOf_inv {key : Nat} {q : List (Nat × BitVec 16 × Nat)} (h : s.Inv) : (s.setReservedOf key q).Inv :=
  ite_inv h h

theorem reserve_inv {key prio : Nat} {j : BitVec 16} (h : s.Inv) : ∀ r ∈ reserve s key prio j, firstInv r := by
  unfold reserve
  split
  · exact some_inv (State.setReservedOf_inv h)
  · dsimp only
    split
    · exact some_inv (State.setReservedOf_inv h)
    · exact none_inv

theorem unreserve_inv {key : Nat} {e : BEntry} (h : s.Inv) : (unreserve s key e).Inv := ite_inv h (State.setReservedOf_inv h)

theorem writeLink_inv {u : Nat} {j : BitVec 16} {va : Nat} {v : Word} (h : s.Inv) : (writeLink s u j va v).Inv := by
  unfold writeLink
  split
  · rename_i e
    exact writePlaces_inv (DevAcc.ok_inv e (deviceAccess_inv h))
  · exact h

theorem spillAccess_inv {u key : Nat} {e : BEntry} (h : s.Inv) : ∀ r ∈ spillAccess s u key e, r.Inv := by
  unfold spillAccess
  split
  · exact some_inv (deviceAccess_inv h)
  · exact none_inv

theorem writeSpill_inv {u key : Nat} {e : BEntry} (h : s.Inv) : (writeSpill s u key e).Inv := by
  unfold writeSpill
  split
  · rename_i found
    exact writePlaces_inv (spillAccess_inv h _ found : DevAcc.Inv (.ok _ _))
  · exact h

theorem joinQueue_inv {u key : Nat} {e : BEntry} (h : s.Inv) : (joinQueue s u key e).Inv := by
  unfold joinQueue
  dsimp only
  split
  · split
    · exact State.setQueueOf_inv (writeLink_inv (writeLink_inv h))
    · exact State.setQueueOf_inv (writeLink_inv h)
  · exact State.setQueueOf_inv (ite_inv (writeSpill_inv h) h)

theorem leaveQueue_inv {u key : Nat} {e : BEntry} (h : s.Inv) : (leaveQueue s u key e).Inv := by
  unfold leaveQueue
  dsimp only
  split
  · split
    · split
      · exact writeLink_inv (State.setQueueOf_inv (unreserve_inv h))
      · exact State.setQueueOf_inv (unreserve_inv h)
    · exact State.setQueueOf_inv (unreserve_inv h)
  · exact State.setQueueOf_inv (unreserve_inv h)

theorem cutJoins_inv {u : Nat} {j : BitVec 16} (h : s.Inv) : (cutJoins s u j).Inv := by
  unfold cutJoins
  split
  · exact ite_inv h h
  · exact h

theorem takeEntry_inv {before : State} {u k : Nat} {e : BEntry} (hbefore : before.Inv) (h : s.Inv) :
    ∀ r ∈ takeEntry before s u k e, firstInv r := by
  unfold takeEntry
  split
  · rename_i taken
    exact some_inv (State.back_inv (cutJoins_inv (State.acquired_inv (State.asHart_inv (PickUp.done_inv taken (pickUp_inv h))))))
  · exact none_inv
  · exact some_inv (unitNotice_inv hbefore)

theorem serveQueue_inv {u k key : Nat} {okEntry : BEntry → Bool} (h : s.Inv) : (serveQueue s u k key okEntry).1.Inv := by
  refine foldl_inv (P := firstInv) (fun ⟨t, b⟩ e ht => ?_) h
  dsimp only
  split
  · exact ht
  · split
    · rename_i claimed
      exact fst_inv claimed (claimJob_inv ht)
    · rename_i claimed
      split
      · rename_i taken
        exact takeEntry_inv (leaveQueue_inv ht) (leaveQueue_inv (fst_inv claimed (claimJob_inv ht))) _ taken
      · exact ht

theorem execBazaarSteal_inv {u k : Nat} (h : s.Inv) : nextInv (execBazaarSteal u k s) := by
  have own : (serveQueue s u k (u / 16) fun _ => true).1.Inv := serveQueue_inv h
  refine nextInv_ite h (nextInv_ite h ?_)
  exact foldl_inv (P := firstInv) (fun ⟨_, _⟩ _ h1 => by dsimp only; split; exact h1; exact serveQueue_inv h1) own

theorem execBazaarAgeing_inv {place i : Nat} (h : s.Inv) : nextInv (execBazaarAgeing place i s) := by
  unfold execBazaarAgeing
  split
  · exact ite_inv (State.setQueueOf_inv h) h
  · exact h

theorem release_inv {u va : Nat} {ws : List Word} {place : Nat} (h : s.Inv) : (release s u va ws place).Inv :=
  ite_inv (joinQueue_inv h) h

theorem offer_inv {w : Walk} (h : s.Inv) : ∀ r ∈ offer s w, firstInv r := by
  refine foldl_inv (P := fun o : Option (State × Bool) => ∀ r ∈ o, firstInv r) (fun o k ho => ?_) (some_inv h)
  split
  · exact none_inv
  · exact ho
  · rename_i t
    have ht : t.Inv := ho _ rfl
    dsimp only
    split
    · exact some_inv ht
    · split
      · rename_i claimed
        exact some_inv (fst_inv claimed (claimJob_inv ht))
      · rename_i claimed
        split
        · exact none_inv
        · rename_i taken
          have took := takeEntry_inv (unreserve_inv ht) (unreserve_inv (fst_inv claimed (claimJob_inv ht))) _ taken
          exact some_inv (ite_inv took took)

theorem execTaskWalkOffer_inv {i : Nat} (h : s.Inv) : nextInv (execTaskWalkOffer i s) := by
  unfold execTaskWalkOffer
  split
  · exact h
  · dsimp only
    split
    · exact h
    · split
      · exact h
      · rename_i e
        exact (some_fst_inv e (ite_option (offer_inv h) (some_inv h)) :)
      · rename_i e
        exact nextInv_ite (nextInv_ite h (joinQueue_inv (some_fst_inv e (ite_option (offer_inv h) (some_inv h)) :)))
          (some_fst_inv e (ite_option (offer_inv h) (some_inv h)) :)

theorem releaseList_inv {u fuel : Nat} {c : Word} (h : s.Inv) : ∀ t ∈ releaseList s u fuel c, t.Inv := by
  induction fuel generalizing s c with
  | zero => exact some_inv h
  | succ fuel ih =>
    simp only [releaseList]
    split
    · exact some_inv h
    · split
      · exact none_inv
      · rename_i refused
        exact ih (unitNotice_inv (DevAcc.refused_inv refused (deviceAccess_inv h)))
      · rename_i t ps found
        have read : (readPlaces t ps).1.Inv := readPlaces_inv (DevAcc.ok_inv found (deviceAccess_inv h))
        exact ite_option (ih read) (ite_option (ih (unitNotice_inv read)) (ite_option none_inv (ih (release_inv read))))

theorem needCounter_inv {va : Nat} (h : s.Inv) : (needCounter s va).Post State.Inv :=
  .bind needAligned_inv fun _ _ => .bind (locate_inv h) fun ⟨_, _⟩ h1 => .bind (need_inv trivial) fun _ _ =>
    .bind needClean_inv fun _ _ => h1

theorem decrement_inv {va : Nat} (h : s.Inv) : (decrement s va).Post State.Inv := by
  unfold decrement
  refine .bind needAligned_inv fun _ _ => ?_
  refine .bind waitRelease_inv fun _ _ => ?_
  refine .bind (atomicAt_inv h) fun ⟨_, _⟩ h1 => ?_
  dsimp only
  split
  · split
    · rename_i e
      exact (someState_inv e (releaseList_inv h1) :)
    · exact trivial
  · exact h1

theorem execTdep_inv {a : BitVec 5} (h : s.Inv) : nextInv (execTdep a s) :=
  issue_inv h (fun _ h1 => .bind (readX_inv h1) fun ⟨_, _⟩ h2 => decrement_inv h2)

theorem tspawnBody_inv {d a : BitVec 5} (h : s.Inv) : (tspawnBody d a s).Post State.Inv := by
  unfold tspawnBody
  refine .bind (readX_inv h) fun ⟨_, _⟩ h1 => ?_
  refine .bind needAligned_inv fun _ _ => ?_
  refine .bind windowAddr_inv fun _ _ => ?_
  refine .bind (P := fun _ => True) ?_ fun _ _ => ?_
  · split
    · exact raise_inv
    · exact trivial
  · refine .bind (loadWords_inv h1) fun ⟨_, _⟩ h2 => ?_
    refine .bind (P := fun _ => True) ?_ fun _ _ => ?_
    · split
      · exact raise_inv
      · exact trivial
    · refine .bind (need_inv trivial) fun _ _ => ?_
      refine .bind (need_inv trivial) fun _ _ => ?_
      split
      · exact writeX_inv h2
      · rename_i e
        exact .bind (need_inv trivial) fun _ _ => .bind waitRelease_inv fun _ _ =>
          writeX_inv (release_inv (some_fst_inv e (reserve_inv h2) :))

theorem execTspawn_inv {d a : BitVec 5} (h : s.Inv) : nextInv (execTspawn d a s) := issue_inv h fun _ h1 => tspawnBody_inv h1
theorem needTaskSlot_inv : (needTaskSlot s).Post fun _ => True := need_inv trivial

theorem waitDrain_inv : (waitDrain s).Post fun _ => True :=
  .bind (need_inv trivial) fun _ _ => .bind waitRelease_inv fun _ _ => .bind (need_inv trivial) fun _ _ => (need_inv trivial)

theorem drainLeases_inv {old : State} (hs : s.Inv) : (drainLeases old s).Inv :=
  State.again_inv (State.modMe_inv (endLeases_inv hs))

theorem freeSlot_inv {u k : Nat} (h : s.Inv) : (freeSlot s u k).Inv := ite_inv (discardFrom_inv h) h

theorem taskAccess_inv {va n : Nat} {a : Acc} (h : s.Inv) : (taskAccess s va n a).Post firstInv := by
  unfold taskAccess
  split
  · exact trivial
  · exact raise_inv
  · rename_i e
    exact DevAcc.ok_inv e (deviceAccess_inv h)

theorem suspend_inv {place : Option Word} {link : Word} (h : s.Inv) : (suspend s place link).Post firstInv := by
  refine .bind (taskAccess_inv h) fun ⟨t, cs⟩ h1 => ?_
  have h2 : (readPlaces t cs).1.Inv := readPlaces_inv h1
  dsimp only
  generalize readPlaces t cs = r at h2
  refine .bind (taskAccess_inv (ite_inv (endDrain_inv h2) h2)) fun ⟨_, _⟩ h3 => ?_
  exact writePlaces_inv (writePlaces_inv h3)

theorem twaitBody_inv {a : BitVec 5} (h : s.Inv) : (twaitBody a s).Post State.Inv :=
  .bind needTaskSlot_inv fun _ _ => .bind (readX_inv h) fun ⟨_, _⟩ h1 => .bind (needCounter_inv h1) fun _ h2 =>
    .bind waitDrain_inv fun _ _ => .ite (drainLeases_inv h2) (.bind (atomicAt_inv h2) fun ⟨_, _⟩ h3 =>
    .ite (.bind waitAcquire_inv fun _ _ => h3) (.bind (suspend_inv h3) fun ⟨_, _⟩ h4 => .bind (atomicAt_inv h4) fun ⟨_, _⟩ h5 =>
    freeSlot_inv (State.stowHeld_inv h5)))

theorem execTwait_inv {a : BitVec 5} (h : s.Inv) : nextInv (execTwait a s) := issue_inv h fun _ h1 => twaitBody_inv h1

theorem tsuspBody_inv {a : BitVec 5} (h : s.Inv) : (tsuspBody a s).Post State.Inv :=
  .bind needTaskSlot_inv fun _ _ => .bind (readX_inv h) fun ⟨_, _⟩ h1 => .bind needValue_inv fun _ _ =>
    .bind waitDrain_inv fun _ _ => .ite (drainLeases_inv h1) (.bind (suspend_inv h1) fun ⟨_, _⟩ h2 =>
    .bind (need_inv trivial) fun _ _ => release_inv (freeSlot_inv (State.stowHeld_inv h2)))

theorem execTsusp_inv {a : BitVec 5} (h : s.Inv) : nextInv (execTsusp a s) := issue_inv h fun _ h1 => tsuspBody_inv h1

theorem texitBody_inv (h : s.Inv) : (texitBody s).Post State.Inv :=
  .bind needTaskSlot_inv fun _ _ => .bind waitDrain_inv fun _ _ => .ite (.bind (P := State.Inv) h fun _ h1 =>
    freeSlot_inv h1) (.bind (decrement_inv h) fun _ h1 => freeSlot_inv h1)

theorem execTexit_inv (h : s.Inv) : nextInv (execTexit s) := issue_inv h fun _ h1 => texitBody_inv h1

theorem execPhase_inv {a : BitVec 5} (h : s.Inv) : nextInv (execPhase a s) :=
  issue_inv h (fun _ h1 => .bind (readX_inv h1) fun ⟨_, _⟩ h2 => .bind needValue_inv fun _ _ => phaseRequest_inv h2)

end Sys2Proof.Machine

end

section

/-! SUPPORT. Memory keeps its canonical form: publication, writes of GSTEPd and the wrap sweep (17 R389, R390, R404). -/

namespace Sys2Proof.Machine

open Sys2Proof

variable {s t : State}

theorem modSweep_inv {d : Nat} {f : Sweep → Sweep} (h : s.Inv) : (modSweep s d f).Inv := h

theorem endSweep_inv {d : Nat} (h : s.Inv) : (endSweep s d).Inv :=
  ite_inv (foldl_inv (P := State.Inv) (fun _ _ h1 => wakePark_inv h1) h) h

theorem startSweep_inv {d : Nat} {old new : BitVec 48} (h : s.Inv) : (startSweep s d old new).Inv := endSweep_inv (ite_inv h h)

theorem sweepCancel_inv {d pa : Nat} (h : s.Inv) : (sweepCancel s d pa).Inv := by
  unfold sweepCancel
  split
  · exact cancelOrder_inv h
  · exact h

theorem execWrapSweepWord_inv {d m pa : Nat} (h : s.Inv) : nextInv (execWrapSweepWord d m pa s) := by
  unfold execWrapSweepWord
  dsimp only
  exact nextInv_ite (endSweep_inv (unless_inv (State.homeLoad_inv h) (fun h1 =>
    State.homeStore_inv (sweepCancel_inv h1)))) (endSweep_inv h)

theorem publishDomain_inv {d : Nat} (h : s.Inv) : (publishDomain s d).Inv :=
  startSweep_inv (foldl_inv (P := State.Inv) (fun _ _ h1 => ite_inv h1 (wakePark_inv h1)) h)

theorem publishCut_inv (h : s.Inv) : (publishCut s).Inv := by
  unfold publishCut
  split
  · exact ite_inv h h
  · exact h

theorem execGstepPublish_inv (h : s.Inv) : nextInv (execGstepPublish s) :=
  publishCut_inv (foldl_inv (P := State.Inv) (fun _ _ h1 => publishDomain_inv h1) h)

theorem gstepWrite_inv {d : Nat} {v : Word} (h : s.Inv) : (gstepWrite s d v).Inv :=
  ite_inv (ite_inv h h) (ite_inv (ite_inv h h) (ite_inv h h))

end Sys2Proof.Machine

end

section

/-! SUPPORT. Memory keeps its canonical form: fatal removal, its dump and the seal (20 R443 to R457). -/

namespace Sys2Proof.Machine

open Sys2Proof

variable {s t : State}

theorem dumpWrite_inv {u : Nat} {j : BitVec 16} {off n v : Nat} {bad : List Nat} (h : s.Inv) :
    ∀ r ∈ dumpWrite s u j off n v bad, firstInv r := by
  unfold dumpWrite
  split
  · rename_i e
    exact some_inv (writePlaces_inv (DevAcc.ok_inv e (deviceAccess_inv h)))
  · exact none_inv
  · rename_i e
    exact some_inv (DevAcc.refused_inv e (deviceAccess_inv h))

theorem modRemoval_inv {j : BitVec 16} {f : Removal → Removal} (h : s.Inv) : (modRemoval s j f).Inv := h

theorem dumpTry_inv {u : Nat} {j : BitVec 16} {off n v : Nat} (h : s.Inv) : (dumpTry s u j off n v).Inv := by
  unfold dumpTry
  dsimp only
  split
  · exact h
  · split
    · rename_i e
      exact (some_fst_inv e (dumpWrite_inv h) :)
    · exact h

theorem refusedWrite_inv {u : Nat} {j : BitVec 16} {cause va : Nat} (h : s.Inv) : (refusedWrite s u j cause va).Inv := by
  unfold refusedWrite
  split
  · exact h
  · exact foldl_inv (P := State.Inv) (fun _ ⟨_, _, _⟩ h1 => dumpTry_inv h1) (ite_inv (dumpTry_inv h) h)

theorem dumpPut_inv {u : Nat} {j : BitVec 16} {off n v : Nat} (h : s.Inv) : (dumpPut s u j off n v).Inv := by
  unfold dumpPut
  dsimp only
  split
  · exact h
  · split
    · rename_i e
      exact (some_fst_inv e (dumpWrite_inv h) :)
    · rename_i e
      exact refusedWrite_inv (some_fst_inv e (dumpWrite_inv h) :)
    · exact h

theorem writeHeader_inv {j : BitVec 16} (h : s.Inv) : (writeHeader s j).Inv := by
  unfold writeHeader
  split
  · exact h
  · exact foldl_inv (P := State.Inv) (fun _ ⟨_, _, _⟩ h1 => dumpPut_inv h1) h

theorem flushDump_inv {j : BitVec 16} (h : s.Inv) : (flushDump s j).Inv := by
  unfold flushDump
  split
  · exact h
  · exact ite_inv h (writeHeader_inv (foldl_inv (P := State.Inv) (fun _ _ h1 => ite_inv (dumpTry_inv h1) (dumpPut_inv h1)) h))

theorem appendCause_inv {u : Nat} {j : BitVec 16} {c : Cause} {parent : Nat} (h : s.Inv) : (appendCause s u j c parent).Inv := by
  unfold appendCause
  split
  · exact h
  · exact writeHeader_inv (ite_inv (dumpPut_inv h) h)

theorem abandonSlot_inv {u k : Nat} (h : s.Inv) : (abandonSlot s u k).Inv :=
  foldl_inv (P := State.Inv) (fun _ _ h1 => h1) (ite_inv (ite_inv (pairRelease_inv h) h) (ite_inv (pairRelease_inv h) h))

theorem leaveConvoys_inv {u : Nat} (h : s.Inv) : (leaveConvoys s u).Inv := foldl_inv (P := State.Inv) (fun _ _ h1 => h1) h

theorem stopUnit_inv {j : BitVec 16} {u : Nat} (h : s.Inv) : (stopUnit s j u).Inv := by
  unfold stopUnit
  extract_lets abandoned left discarded unheld h7
  have h1 : abandoned.Inv := foldl_inv (P := State.Inv) (fun _ _ ht => abandonSlot_inv ht) h
  have h2 : discarded.Inv := discardOps_inv (when_inv h1 fun h1 => leaveConvoys_inv (discardFrom_inv h1))
  have h3 : unheld.Inv := foldl_inv (P := State.Inv) (fun _ _ ht => State.modHart_inv ht) h2
  clear_value unheld
  exact State.modUnit_inv (when_inv h3 fun h3 => State.modHart_inv (when_inv h3 appendCause_inv))

theorem cutGoesOn_inv {j : BitVec 16} {waits : List Nat} {dir : Word} (h : s.Inv) : (cutGoesOn s j waits dir).Inv :=
  foldl_inv (P := State.Inv) (fun _ _ h1 => ite_inv h1 h1) h

theorem cutAbandoned_inv {j : BitVec 16} (h : s.Inv) : (cutAbandoned s j).Inv := by
  unfold cutAbandoned
  generalize List.map _ _ = us
  refine foldl_inv (P := State.Inv) (fun t u ht => ?_) ?_
  · split
    · exact ite_inv (State.modHart_inv ht) ht
    · exact ht
  · have h1 : (cutGoesOn s j [] 0).Inv := cutGoesOn_inv h
    generalize cutGoesOn s j [] 0 = t at h1 ⊢
    split
    · exact ite_inv h1 h
    · exact h

theorem startRemoval_inv {j : BitVec 16} {c : Cause} {writer reg : Bool} (h : s.Inv) : (startRemoval s j c writer reg).Inv :=
  ite_inv h (ite_inv (appendCause_inv h) (cutAbandoned_inv (stopOrders_inv (foldl_inv (P := State.Inv) (fun _ _ h1 =>
    stopUnit_inv h1) (dumpPut_inv (dumpPut_inv (appendCause_inv h)))))))

theorem writePieces_inv {u : Nat} {j : BitVec 16} {base : Nat} {l : List (Nat × Nat × Nat × List Nat)} (h : s.Inv) :
    ∀ r ∈ writePieces s u j base l, firstInv r := by
  induction l generalizing s with
  | nil => exact some_inv h
  | cons q l ih =>
    obtain ⟨off, n, v, bad⟩ := q
    simp only [writePieces]
    split
    · rename_i written
      exact ih (some_fst_inv written (dumpWrite_inv h))
    · exact dumpWrite_inv h

theorem leaveJob_inv {u : Nat} {j : BitVec 16} (h : s.Inv) : (leaveJob s u j).Inv := by
  unfold leaveJob
  extract_lets n kept freed unheld left
  have h1 : freed.Inv := foldl_inv (P := State.Inv) (fun _ _ ht => freeSlot_inv ht) (endLeases_inv h)
  have h2 : unheld.Inv := foldl_inv (P := State.Inv) (fun _ _ ht => State.modHart_inv ht) h1
  have h3 : left.Inv := State.modUnit_inv (foldCounts_inv h2)
  exact modRemoval_inv (replayCheck_inv (unless_inv h3 sendqFreed_inv))

theorem recordWritten_inv {u : Nat} {j : BitVec 16} {bad : Option (Nat × Nat)} (h : s.Inv) : (recordWritten s u j bad).Inv := by
  unfold recordWritten
  split
  · exact h
  · exact appendCause_inv h

theorem execDumpRecordWritten_inv {u : Nat} (h : s.Inv) : nextInv (execDumpRecordWritten u s) := by
  unfold execDumpRecordWritten
  dsimp only
  split
  · exact h
  · split
    · exact h
    · split
      · exact flushDump_inv h
      · rename_i e
        exact writeHeader_inv (leaveJob_inv (recordWritten_inv (some_fst_inv e (writePieces_inv (flushDump_inv h)) :)))

theorem execDumpWriteTimeout_inv {u : Nat} (h : s.Inv) : nextInv (execDumpWriteTimeout u s) := by
  unfold execDumpWriteTimeout
  dsimp only
  split
  · exact h
  · exact nextInv_ite h (writeHeader_inv (foldl_inv (P := State.Inv) (fun _ _ h1 => h1) (foldl_inv (P := State.Inv) (fun _ _ h1 =>
      abandonSlot_inv h1) (leaveJob_inv (appendCause_inv h)))))

theorem sealDump_inv {j : BitVec 16} (h : s.Inv) : ∀ t ∈ sealDump s j, t.Inv := by
  unfold sealDump
  split
  · exact some_inv h
  · exact ite_option none_inv (some_inv (ite_inv (writeHeader_inv (dumpPut_inv (flushDump_inv h))) (writeHeader_inv (dumpPut_inv
      (flushDump_inv h)))))

theorem releaseJob_inv {j : BitVec 16} (h : s.Inv) : (releaseJob s j).Inv := by
  unfold releaseJob
  extract_lets other clusters stations t1 t2 forget t3
  have h1 : clusters.Inv := foldl_inv (P := State.Inv) (fun _ _ ht => State.modCluster_inv ht) h
  have h2 : stations.Inv := foldl_inv (P := State.Inv) (fun _ _ ht => State.modStation_inv ht) h1
  clear_value stations
  exact h2

theorem resetCmc_inv {c : Nat} (h : s.Inv) : (resetCmc s c).Inv := ite_inv (State.emptySpan_wf h) h

theorem needDump_inv {t : Option State} (h : ∀ r ∈ t, r.Inv) : (needDump t).Post State.Inv := by
  cases t with
  | none => exact trivial
  | some t => exact h t rfl

theorem dumpsealBody_inv {a : BitVec 5} (h : s.Inv) : (dumpsealBody a s).Post State.Inv := by
  unfold dumpsealBody
  refine .bind (readX_inv h) fun ⟨_, _⟩ h1 => ?_
  dsimp only
  split
  · exact .bind (need_inv trivial) fun _ _ => State.modMe_inv h1
  · exact .bind needValue_inv fun _ _ => .bind (need_inv trivial) fun _ _ => .bind waitRelease_inv fun _ _ =>
      .bind (needDump_inv (sealDump_inv h1)) fun _ h2 => State.again_inv (State.modMe_inv
      (foldl_inv (P := State.Inv) (fun _ _ h3 => resetCmc_inv h3) (releaseJob_inv h2)))

theorem execDumpseal_inv {a : BitVec 5} (h : s.Inv) : nextInv (execDumpseal a s) := issue_inv h fun _ h1 => dumpsealBody_inv h1

theorem removeByStation_inv {c : Nat} {k : Cause} {j : BitVec 16} (h : s.Inv) : (removeByStation s c k j).Inv := by
  unfold removeByStation
  split
  · exact startRemoval_inv h
  · split
    · exact appendCause_inv (startRemoval_inv h)
    · exact startRemoval_inv h

theorem removeForCmc_inv {c : Nat} {k : Cause} (h : s.Inv) : (removeForCmc s c k).Inv :=
  resetCmc_inv (foldl_inv (P := State.Inv) (fun _ _ h1 => removeByStation_inv h1) h)

theorem execDumpSealByStation_inv {j : Nat} (h : s.Inv) : nextInv (execDumpSealByStation j s) := by
  unfold execDumpSealByStation
  dsimp only
  split
  · exact h
  · split
    · exact h
    · split
      · rename_i e
        exact foldl_inv (P := State.Inv) (fun _ _ h1 => resetCmc_inv h1) (releaseJob_inv (someState_inv e (sealDump_inv h) :))
      · exact h

theorem jobremoveWrite_inv {v : Word} (h : s.Inv) : (jobremoveWrite s v).Inv :=
  ite_inv h (ite_inv (ite_inv h (ite_inv (startRemoval_inv h) (startRemoval_inv h))) h)

end Sys2Proof.Machine

end

section

/-! SUPPORT. Memory keeps its canonical form: the mailbox, pre-emption, save, restore and cuts (18 R414 to R434). -/

namespace Sys2Proof.Machine

open Sys2Proof

variable {s t : State}

theorem setMbox_inv {c i : Nat} {m : MboxSlot} (h : s.Inv) : (setMbox s c i m).Inv := h
theorem landRecord_inv {c i src : Nat} {r : List Word} (h : s.Inv) : (landRecord s c i src r).Inv := wakeWfi_inv h

theorem execMailboxRecordArrival_inv {c src : Nat} (h : s.Inv) : nextInv (execMailboxRecordArrival c src s) := by
  unfold execMailboxRecordArrival
  split
  · exact h
  · split
    · dsimp only
      split
      · exact landRecord_inv h
      · exact h
    · split
      · split
        · exact landRecord_inv h
        · exact h
      · exact h

theorem privatePlace_inv {va n : Nat} : (privatePlace s va n).Post fun _ => True :=
  .bind needAligned_inv fun _ _ => .bind (need_inv trivial) fun _ _ => trivial

theorem mboxNumber_inv {a : BitVec 5} (h : s.Inv) : (mboxNumber s a).Post firstInv :=
  .bind (readX_inv h) fun ⟨_, _⟩ h1 => .bind needValue_inv fun _ _ => h1

theorem mbxrdBody_inv {d a : BitVec 5} (h : s.Inv) : (mbxrdBody d a s).Post State.Inv := by
  unfold mbxrdBody
  refine .bind (readX_inv h) fun ⟨_, _⟩ h1 => ?_
  refine .bind privatePlace_inv fun _ _ => ?_
  dsimp only
  split
  · exact writeX_inv h1
  · exact writeX_inv (setMbox_inv (State.wrote_inv (State.clearPoison_inv (State.put_wf h1))))

theorem execMbxrd_inv {d a : BitVec 5} (h : s.Inv) : nextInv (execMbxrd d a s) := issue_inv h fun _ h1 => mbxrdBody_inv h1

theorem execMbxack_inv {a : BitVec 5} (h : s.Inv) : nextInv (execMbxack a s) :=
  issue_inv h (fun _ h1 => .bind (mboxNumber_inv h1) fun ⟨_, _⟩ h2 => .bind needValue_inv fun _ _ => h2)

theorem mbxpostBody_inv {a b : BitVec 5} (h : s.Inv) : (mbxpostBody a b s).Post State.Inv := by
  unfold mbxpostBody
  refine .bind (mboxNumber_inv h) fun ⟨_, _⟩ h1 => ?_
  refine .bind needValue_inv fun _ _ => ?_
  refine .bind (readX_inv h1) fun ⟨_, _⟩ h2 => ?_
  refine .bind privatePlace_inv fun _ _ => ?_
  refine .bind (P := fun _ => True) ?_ fun _ _ => ?_
  · split
    · exact raise_inv
    · exact trivial
  · exact .bind needHeldZero_inv fun _ _ => .bind (need_inv trivial) fun _ _ => ite_inv h2 h2

theorem execMbxpost_inv {a b : BitVec 5} (h : s.Inv) : nextInv (execMbxpost a b s) := issue_inv h fun _ h1 => mbxpostBody_inv h1

theorem resumeBody_inv {a : BitVec 5} (h : s.Inv) : (resumeBody a s).Post State.Inv := by
  unfold resumeBody
  dsimp only
  split
  · exact .bind (mboxNumber_inv h) fun ⟨_, _⟩ h1 => .bind (need_inv trivial) fun _ _ => ite_inv h1 h1
  · exact .bind (mboxNumber_inv h) fun ⟨_, _⟩ h1 => .bind needValue_inv fun _ _ => .bind (need_inv trivial) fun _ _ => h1

theorem execResume_inv {a : BitVec 5} (h : s.Inv) : nextInv (execResume a s) := issue_inv h fun _ h1 => resumeBody_inv h1

theorem applyReply_inv {u k : Nat} {r ws : List Word} (h : s.Inv) : (applyReply s u k r ws).Inv :=
  ite_inv (startRemoval_inv h) (ite_inv h h)

theorem execResumeReplyApply_inv {c i : Nat} (h : s.Inv) : nextInv (execResumeReplyApply c i s) := by
  unfold execResumeReplyApply
  dsimp only
  split
  · split
    · exact applyReply_inv h
    · exact h
  · exact h

theorem execPreemptStop_inv {u : Nat} (h : s.Inv) : nextInv (execPreemptStop u s) := by
  unfold execPreemptStop
  dsimp only
  split
  · exact h
  · exact nextInv_ite h (nextInv_ite (foldl_inv (P := State.Inv) (fun _ _ h1 =>
      State.modHart_inv h1) (State.modUnit_inv h)) (nextInv_ite (enterHandler_inv (State.modUnit_inv (State.modUnit_inv
      (endLeases_inv (endDrain_inv h))))) h))

theorem sendPreempt_inv {u : Nat} {dir : Word} (h : s.Inv) : ∀ t ∈ sendPreempt s u dir, t.Inv :=
  ite_option none_inv (some_inv (wakeWfi_inv h))

theorem sendPreempts_inv {dir : Word} {l : List Nat} (h : s.Inv) : (sendPreempts s dir l).1.Inv := by
  induction l generalizing s with
  | nil => exact h
  | cons u rest ih =>
    simp only [sendPreempts]
    split
    · rename_i sent
      exact ih (sendPreempt_inv h _ sent)
    · exact ih h

theorem cutStop_inv {u : Nat} (h : s.Inv) : (cutStop s u).Inv := by
  unfold cutStop
  split
  · exact ite_inv (ite_inv (wakePark_inv h) h) h
  · exact h

theorem releaseRestored_inv {u k : Nat} (h : s.Inv) : (releaseRestored s u k).Inv := ite_inv h (ite_inv h h)

theorem endRun_inv {u : Nat} (h : s.Inv) : (endRun s u).Inv :=
  foldl_inv (P := State.Inv) (fun _ _ h1 => releaseRestored_inv h1) (ite_inv (cutStop_inv h) h)

theorem mretCore_inv {u : Nat} (h : s.Inv) : (mretCore s u).Inv :=
  ite_inv (enterPending_inv (ite_inv h h)) (endRun_inv (ite_inv h h))

theorem execMret_inv (h : s.Inv) : nextInv (execMret s) :=
  issue_inv h (fun _ h1 => .ite (.bind (need_inv trivial) fun _ _ => mretCore_inv h1) (.bind (need_inv trivial) fun _ _ => h1))

theorem withdraw_inv {u k : Nat} (h : s.Inv) : (withdraw s u k).Inv := by
  unfold withdraw
  dsimp only
  repeat' split
  all_goals exact h

theorem saveBytes_inv {va n v : Nat} {bad : List Nat} (h : s.Inv) : (saveBytes s va n v bad).Post State.Inv :=
  .bind (blockPlaces_inv h) fun ⟨_, _⟩ h1 => writePlaces_inv h1

theorem handCounts_inv {u : Nat} (h : s.Inv) : (handCounts s u).Inv := by
  unfold handCounts
  dsimp only
  split
  · exact ite_inv h h
  · exact h

theorem vacate_inv {u : Nat} (h : s.Inv) : (vacate s u).Inv :=
  lateFull_inv (foldl_inv (P := State.Inv) (fun _ _ h1 => freeSlot_inv h1) (endLeases_inv (stowAll_inv (handCounts_inv
    (cutStop_inv h)))))

theorem saveSlot_inv {u k va : Nat} (h : s.Inv) : (saveSlot s u k va).Post State.Inv :=
  .bind (need_inv trivial) fun _ _ => .ite (.bind (saveBytes_inv h) fun _ h1 =>
    withdraw_inv h1) (.bind (saveBytes_inv h) fun _ h1 => withdraw_inv h1)

theorem slotsaveBody_inv {a b : BitVec 5} (h : s.Inv) : (slotsaveBody a b s).Post State.Inv :=
  .bind (read2_inv h) fun ⟨_, _, _⟩ h1 => .bind needValue_inv fun _ _ => .bind needAligned_inv fun _ _ =>
    .ite (.bind (saveBytes_inv h1) fun _ h2 => h2) (.ite (saveSlot_inv h1) (.bind needValue_inv fun _ _ =>
    .bind (saveBytes_inv h1) fun _ h2 => ite_inv (vacate_inv h2) h2))

theorem execSlotsave_inv {a b : BitVec 5} (h : s.Inv) :
    nextInv (execSlotsave a b s) := issue_inv h fun _ h1 => slotsaveBody_inv h1

theorem needWord_inv {va : Nat} {bad : Option Nat} : (needWord va bad).Post fun _ => True := by
  unfold needWord
  split
  · exact raise_inv
  · exact trivial

theorem contWords_inv {u va : Nat} (h : s.Inv) : (contWords s u va).Post firstInv := by
  unfold contWords
  split
  · exact h
  · split
    · exact trivial
    · exact raise_inv
    · dsimp only
      rename_i e
      exact readPlaces_inv (DevAcc.ok_inv e (deviceAccess_inv h))

theorem restBlock_inv {a : BitVec 5} {u va : Nat} (h : s.Inv) : (restBlock a s u va).Post State.Inv := by
  unfold restBlock
  refine .bind (loadSpan_inv h) ?_
  rintro ⟨t, v⟩ h1
  dsimp only
  generalize coreBlockBad v = bad
  refine .bind needWord_inv fun _ _ => .bind needValue_inv fun _ _ => ?_
  split
  · exact raise_inv
  · exact trivial
  · exact raise_inv
  · rename_i found
    exact .bind (need_inv trivial) fun _ _ => cutJoins_inv (restoreBlock_inv (loadHxjob_inv (JobRead.ok_inv found
      (readJob_inv h1))))

theorem restSlot_inv {a : BitVec 5} {u k va : Nat} (h : s.Inv) : (restSlot a s u k va).Post State.Inv :=
  .bind (loadSpan_inv h) fun ⟨_, _⟩ h1 => .bind needWord_inv fun _ _ => .bind needValue_inv fun _ _ =>
    .ite h1 (.bind (contWords_inv h1) fun ⟨_, _⟩ h2 => State.takeHeld_inv h2)

theorem restTile_inv {a : BitVec 5} {u va : Nat} (h : s.Inv) : (restTile a s u va).Post State.Inv :=
  .bind (loadSpan_inv h) fun ⟨_, _⟩ h1 => .bind needWord_inv fun _ _ => .bind needValue_inv fun _ _ => h1

theorem slotrestBody_inv {a b : BitVec 5} (h : s.Inv) : (slotrestBody a b s).Post State.Inv :=
  .bind (read2_inv h) fun ⟨_, _, _⟩ h1 => .bind needValue_inv fun _ _ => .bind needAligned_inv fun _ _ =>
    .ite (restTile_inv h1) (.ite (restSlot_inv h1) (restBlock_inv h1))

theorem execSlotrest_inv {a b : BitVec 5} (h : s.Inv) :
    nextInv (execSlotrest a b s) := issue_inv h fun _ h1 => slotrestBody_inv h1

theorem armLate_inv {u : Nat} {desc buf : Word} {used cap : Nat} (h : s.Inv) : (armLate s u desc buf used cap).Inv := h

theorem sendqSpilled_inv {before : State} {u : Nat} (h : s.Inv) : (nispillBody.sendqSpilled before s u).Inv :=
  ite_inv (sendqFreed_inv h) h

theorem nispillBody_inv {d a : BitVec 5} (h : s.Inv) : (nispillBody d a s).Post State.Inv := by
  refine .bind (need_inv trivial) fun _ _ => .bind (readX_inv h) fun ⟨_, _⟩ h1 => .bind (loadBlock_inv h1) fun ⟨_, _⟩ h2 => ?_
  refine .bind needHeldZero_inv fun _ _ => .bind (need_inv trivial) fun _ _ => .bind needAligned_inv fun _ _ => ?_
  have late {t : State} {u a b : Nat} {c : Prop} [Decidable c] {v w : Word} {f : Ni → Ni} (h : t.Inv) :
      (lateFull (if c then armLate ((endLate t u).modNi u f) u v w a b else (endLate t u).modNi u f) u).Inv :=
    lateFull_inv (when_inv (State.modNi_inv (endLate_inv h)) armLate_inv)
  refine .ite (.bind (P := firstInv) h2 fun _ h3 => ?_) (.bind (blockPlaces_inv h2) fun _ h3 => ?_) <;>
    exact .bind (storeAt_inv (writePlaces_inv h3)) fun _ h4 =>
      writeX_inv (replayCheck_inv (ite_inv (late h4) (sendqSpilled_inv (late h4))))

theorem execNispill_inv {d a : BitVec 5} (h : s.Inv) : nextInv (execNispill d a s) := issue_inv h fun _ h1 => nispillBody_inv h1
theorem cutDone_inv {d : BitVec 5} (h : s.Inv) : (cutDone s d).Post State.Inv := writeX_inv h

theorem cutStart_inv {d a : BitVec 5} (h : s.Inv) : (cutStart d a s).Post State.Inv :=
  .bind (readX_inv h) fun ⟨_, _⟩ h1 => .bind (loadBlock_inv h1) fun ⟨_, _⟩ h2 => .bind needHeldZero_inv fun _ _ =>
    .bind (need_inv trivial) fun _ _ => .bind waitRelease_inv fun _ _ => .bind waitAcquire_inv fun _ _ =>
    .ite (writeX_inv h2) (.ite (.ite (cutDone_inv (sendPreempts_inv h2)) (sendPreempts_inv h2)) (.ite (writeX_inv h2) (.ite
    (cutDone_inv h2) h2)))

theorem cutSending_inv {d : BitVec 5} {pending : List Nat} {dir : Word} {goesOn : List Nat → Pipe} (h : s.Inv) :
    (cutSending d s pending dir goesOn).Post State.Inv :=
  .ite (cutDone_inv (sendPreempts_inv h)) (.ite trivial (sendPreempts_inv h))

theorem cutreqBody_inv {d a : BitVec 5} (h : s.Inv) : (cutreqBody d a s).Post State.Inv := by
  unfold cutreqBody
  split
  · exact cutSending_inv h
  · exact cutSending_inv h
  · exact trivial
  · exact cutStart_inv h

theorem execCutreq_inv {d a : BitVec 5} (h : s.Inv) : nextInv (execCutreq d a s) := issue_inv h fun _ h1 => cutreqBody_inv h1

theorem execCutAnnounce_inv (h : s.Inv) : nextInv (execCutAnnounce s) := by
  unfold execCutAnnounce
  split
  · exact h
  · exact nextInv_ite h (cutGoesOn_inv (sendPreempts_inv h))

theorem execCutstat_inv {d a : BitVec 5} (h : s.Inv) : nextInv (execCutstat d a s) :=
  issue_inv h (fun _ h1 => .bind (readX_inv h1) fun ⟨_, _⟩ h2 => .bind needValue_inv fun _ _ => writeX_inv h2)

end Sys2Proof.Machine

end

section

/-! SUPPORT. Memory keeps its canonical form: errors, the power tree, die parking, reset and the device registers (21 R459 to R474). -/

namespace Sys2Proof.Machine

open Sys2Proof

variable {s t : State}

theorem execUncorrectableError_inv {e : ErrSite} (h : s.Inv) : nextInv (execUncorrectableError e s) := by
  unfold execUncorrectableError
  split
  · exact State.addPoison_inv h
  · split
    · exact onlyIf_inv h (ite_inv h (State.addPoison_inv h))
    · exact onlyIf_inv h h
  · exact onlyIf_inv h h
  · exact h
  · exact onlyIf_inv h h
  · exact onlyIf_inv h h
  · exact onlyIf_inv h h
  · exact onlyIf_inv h h

theorem setDuties_inv {q : Nat} (h : s.Inv) : (setDuties s q).Inv := foldl_inv (P := State.Inv) (fun _ _ h1 => h1) h

theorem execBudgetPeriod_inv {q : Nat} {thermal current : BitVec 3} {d0 d1 d2 d3 : BitVec 5} (h : s.Inv) :
    nextInv (execBudgetPeriod q thermal current d0 d1 d2 d3 s) :=
  onlyIf_inv h (retarget_inv (setDuties_inv (State.took_inv (State.modPkg_inv (State.modQuad_inv
    (foldl_inv (P := State.Inv) (fun _ _ h1 => State.modUnit_inv h1) h))))))

theorem execCurrentComparator_inv (h : s.Inv) : nextInv (execCurrentComparator s) :=
  State.modPkg_inv (foldl_inv (P := State.Inv) (fun _ _ h1 => retarget_inv (setDuties_inv (State.modQuad_inv h1))) h)

theorem execFirmwareHold_inv {q : Nat} (h : s.Inv) : nextInv (execFirmwareHold q s) :=
  onlyIf_inv h (retarget_inv (setDuties_inv (State.modPkg_inv (State.modQuad_inv (foldl_inv (P := State.Inv) (fun _ _ h1 =>
    State.modUnit_inv h1) h)))))

theorem parkDie_inv {d : Nat} (h : s.Inv) : (parkDie s d).Inv := ite_inv h (ite_inv h (ite_inv h (ite_inv h h)))
theorem unparkDie_inv (h : s.Inv) : (unparkDie s).Inv := ite_inv h (ite_inv h (ite_inv h h))
theorem parkRetry_inv (h : s.Inv) : (parkRetry s).Inv := ite_inv h (ite_inv (unparkDie_inv h) (parkDie_inv h))

theorem execParkComplete_inv (h : s.Inv) : nextInv (execParkComplete s) :=
  nextInv_ite (foldl_inv (P := State.Inv) (fun _ _ h1 => h1) (foldl_inv (P := State.Inv) (fun _ _ h1 => h1) h)) (parkRetry_inv h)

theorem coreUp_inv {u : Nat} (h : s.Inv) :
    (coreUp s u).Inv := State.emptySpan_wf (foldl_inv (P := State.Inv) (fun _ _ h1 => h1) h)

theorem retireQuads_inv (h : s.Inv) : (retireQuads s).Inv :=
  foldl_inv (P := State.Inv) (fun _ _ h1 => ite_inv (foldl_inv (P := State.Inv) (fun _ _ h2 => h2) h1) h1) h

theorem execUnparkComplete_inv (h : s.Inv) : nextInv (execUnparkComplete s) :=
  nextInv_ite (retireQuads_inv (foldl_inv (P := State.Inv) (fun _ _ h1 =>
    State.emptySpan_wf h1) (foldl_inv (P := State.Inv) (fun _ _ h1 => coreUp_inv h1) h))) (parkRetry_inv h)

theorem resetSequence_inv (h : s.Inv) : (resetSequence s).Inv := foldl_inv (P := State.Inv) (fun _ _ h1 => h1) (retireQuads_inv h)
theorem attestRequest_inv (h : s.Inv) : (attestRequest s).Inv := ite_inv h h

theorem portWrite_inv {p : Nat} {w : RegWrite} (h : s.Inv) : (portWrite s p w).Inv := by
  unfold portWrite
  dsimp only
  exact ite_inv h (when_inv (setPortMode_inv h) startTraining_inv)

theorem parkWrite_inv {w : RegWrite} (h : s.Inv) : (parkWrite s w).Inv := by
  unfold parkWrite
  dsimp only
  split
  · exact ite_inv h h
  · split
    · exact unparkDie_inv (ite_inv h h)
    · exact parkDie_inv (ite_inv h h)
    · exact parkDie_inv (ite_inv h h)
    · exact ite_inv h h

theorem pkgWrite_inv {o : Nat} {w : RegWrite} (h : s.Inv) : (pkgWrite s o w).Inv :=
  ite_inv (State.modPkg_inv h) <| ite_inv (State.modPkg_inv h) <| ite_inv (jobremoveWrite_inv h) <|
  ite_inv (ite_inv (resetSequence_inv h) h) <| ite_inv (State.modPkg_inv h) <| ite_inv (State.modPkg_inv h) <|
  ite_inv (parkWrite_inv h) <| ite_inv (State.modPkg_inv h) <| ite_inv (State.modPkg_inv h) <| ite_inv (modSweep_inv h) <|
  ite_inv (gstepWrite_inv h) <| ite_inv (State.modPkg_inv h) <| ite_inv (ite_inv (attestRequest_inv h) h) <|
  ite_inv (State.modPkg_inv h) <| ite_inv (portWrite_inv h) h

theorem clusterWrite_inv {c o : Nat} {w : RegWrite} (h : s.Inv) : (clusterWrite s c o w).Inv :=
  ite_inv (ite_inv h h) (ite_inv (ite_inv h h) (ite_inv h h))

theorem execRegisterWrite_inv {pa n : Nat} {v : Word} (h : s.Inv) : nextInv (execRegisterWrite pa n v s) := by
  unfold execRegisterWrite
  dsimp only
  split
  · exact h
  · split
    · exact pkgWrite_inv h
    · exact clusterWrite_inv h
    · exact ite_inv (ifilePut_inv h) h
    · exact ite_inv (aplicWrite_inv (aplicWrite_inv h)) (aplicWrite_inv h)
    · exact h

end Sys2Proof.Machine

end

section

/-! SUPPORT. Memory keeps its canonical form: the steps of the quad's vector unit (01 R49, 05 R163). -/

namespace Sys2Proof.Machine

open Sys2Proof

variable {s t : State}

theorem discardedTrap_inv {cause : Nat} {addr : Word} (h : s.Inv) : (discardedTrap s cause addr).Inv := appendCause_inv h

theorem execVectorUnitEnter_inv {q : Nat} (h : s.Inv) : nextInv (execVectorUnitEnter q s) := by
  unfold execVectorUnitEnter
  split
  · exact h
  · split
    · exact h
    · split
      · exact h
      · split
        · exact h
        · exact nextInv_ite (State.back_inv (discardedTrap_inv h)) (State.back_inv (takeTrap_inv h))

theorem backOutcome_inv {r : Host.Outcome State Fault Refusal} (h : nextInv r) : nextInv (backOutcome s r) := by
  cases r with
  | next t => exact State.back_inv h
  | fault => exact trivial
  | refused => exact trivial

theorem execVectorComplete_inv {q i : Nat} (h : s.Inv) : nextInv (execVectorComplete q i s) := by
  unfold execVectorComplete
  split
  · exact h
  · split
    · exact h
    · split
      · exact h
      · dsimp only
        split
        · exact h
        · exact State.waitTurn_inv h
        · exact nextInv_ite (State.back_inv (discardedTrap_inv h)) (backOutcome_inv (finish_inv h trivial))
        · rename_i e
          exact nextInv_ite (State.back_inv h) (backOutcome_inv (finish_inv h (Res.Post.of_error e (vRun_inv h))))
        · exact backOutcome_inv (finish_inv h (vRun_inv h))

end Sys2Proof.Machine

end

section

/-! SUPPORT. Memory keeps its canonical form: every instruction and every event of the machine. -/

namespace Sys2Proof.Machine

open Sys2Proof

variable {s t : State}

theorem exec_inv {i : Instr} (h : s.Inv) : nextInv (exec i s) :=
  match i with
  | .vacantEncoding .. => execVacantEncoding_inv h
  | .rvAluOrBranch .. => execRvAluOrBranch_inv h
  | .rvLoad .. => execRvLoad_inv h
  | .rvStore .. => execRvStore_inv h
  | .rvAmo .. => execRvAmo_inv h
  | .lr .. => execLr_inv h
  | .sc .. => execSc_inv h
  | .csrAccess .. => execCsrAccess_inv h
  | .fence .. => execFence_inv h
  | .fenceI .. => execFenceI_inv h
  | .ecall => execEcall_inv h
  | .ebreak => execEbreak_inv h
  | .wfi => execWfi_inv h
  | .mret => execMret_inv h
  | .fmt .. => execFmt_inv h
  | .sbind .. => execSbind_inv h
  | .sunbind .. => execSunbind_inv h
  | .sgstat .. => execSgstat_inv h
  | .streamFetch .. => execStreamFetch_inv h
  | .streamStoreAccept .. => nextInv_ite h h
  | .qbind .. => execQbind_inv h
  | .qpush .. => execQpush_inv h
  | .qpop .. => execQpop_inv h
  | .qpoll .. => execQpoll_inv h
  | .qcnt .. => execQcnt_inv h
  | .queueHeldDelivery .. => queueHeld_inv h
  | .bmove .. => execBmove_inv h
  | .bfillw .. => execBfillw_inv h
  | .repb .. => execRepb_inv h
  | .iclock .. => execIclock_inv h
  | .icunlk .. => execIcunlk_inv h
  | .ldna .. => execLdna_inv h
  | .stby .. => execStby_inv h
  | .pref .. => execPref_inv h
  | .ldaq .. => execLdaq_inv h
  | .strl .. => execStrl_inv h
  | .fenceRg .. => execFenceRg_inv h
  | .fenceS .. => execFenceS_inv h
  | .fenceE => execFenceE_inv h
  | .amosc .. => execAmosc_inv h
  | .bcopy .. => execBcopy_inv h
  | .bcopyc .. => execBcopyc_inv h
  | .bgath .. => execBgath_inv h
  | .bscat .. => execBscat_inv h
  | .bcancel .. => execBcancel_inv h
  | .ctest .. => execCtest_inv h
  | .cwaitm .. => execCwaitm_inv h
  | .waybillArrival .. => execWaybillArrival_inv h
  | .engineStart .. => execEngineStart_inv h
  | .engineChunkLanded .. => execEngineChunkLanded_inv h
  | .engineComplete .. => execEngineComplete_inv h
  | .gatherRowDelivery .. => execGatherRowDelivery_inv h
  | .cancelRequest .. => execCancelRequest_inv h
  | .send .. => execSend_inv h
  | .sendr .. => execSendr_inv h
  | .amsg .. => execAmsg_inv h
  | .recv .. => execRecv_inv h
  | .recvp .. => execRecvp_inv h
  | .loopbk .. => execLoopbk_inv h
  | .hret => execHret_inv h
  | .rankget .. => execRankget_inv h
  | .rankset .. => execRankset_inv h
  | .barr .. => execBarr_inv h
  | .bwait .. => execBwait_inv h
  | .barw .. => execBarw_inv h
  | .bcfg .. => execBcfg_inv h
  | .bstat .. => execBstat_inv h
  | .waita .. => execWaita_inv h
  | .barrierRelease .. => execBarrierRelease_inv h
  | .messageInject .. => execMessageInject_inv h
  | .messageArrival .. => execMessageArrival_inv h
  | .inboxHeldEntry .. => execInboxHeldEntry_inv h
  | .handlerStart .. => execHandlerStart_inv h
  | .mailboxRecordArrival .. => execMailboxRecordArrival_inv h
  | .mbxrd .. => execMbxrd_inv h
  | .mbxack .. => execMbxack_inv h
  | .mbxpost .. => execMbxpost_inv h
  | .resume .. => execResume_inv h
  | .resumeReplyApply .. => execResumeReplyApply_inv h
  | .slotsave .. => execSlotsave_inv h
  | .slotrest .. => execSlotrest_inv h
  | .nispill .. => execNispill_inv h
  | .cutreq .. => execCutreq_inv h
  | .cutstat .. => execCutstat_inv h
  | .cutAnnounce => execCutAnnounce_inv h
  | .preemptStop .. => execPreemptStop_inv h
  | .dumpseal .. => execDumpseal_inv h
  | .tspawn .. => execTspawn_inv h
  | .tdep .. => execTdep_inv h
  | .twait .. => execTwait_inv h
  | .tsusp .. => execTsusp_inv h
  | .texit => execTexit_inv h
  | .phase .. => execPhase_inv h
  | .taskWalkOffer .. => execTaskWalkOffer_inv h
  | .queueTake .. => nextInv_ite (serveQueue_inv h) h
  | .stepinc .. => execStepinc_inv h
  | .gswait .. => execGswait_inv h
  | .sld .. => execSld_inv h
  | .sst .. => execSst_inv h
  | .sadd .. => execSadd_inv h
  | .smerge .. => execSmerge_inv h
  | .vsld .. | .vsst .. | .vsadd .. => vIssue_inv h
  | .vstpair .. => execVstpair_inv h
  | .pairReserveGrant .. => execPairReserveGrant_inv h
  | .pairLineLock .. => execPairLineLock_inv h
  | .pairCommit .. => execPairCommit_inv h
  | .winset .. => execWinset_inv h
  | .gstepPublish => execGstepPublish_inv h
  | .rins .. => execRins_inv h
  | .rsplit .. => execRsplit_inv h
  | .rmerge .. => execRmerge_inv h
  | .rinval .. => execRinval_inv h
  | .rprobe .. => execRprobe_inv h
  | .rmove .. => execRmove_inv h
  | .rres .. => execRres_inv h
  | .boffl .. => execBoffl_inv h
  | .bret .. => execBret_inv h
  | .rangeBroadcastArrival .. => onlyIf_inv h (when_inv (State.bcastArrive_inv h) drainPorts_inv)
  | .orderDrainEnd .. => execOrderDrainEnd_inv h
  | .orderCopyLine .. => execOrderCopyLine_inv h
  | .orderSwitch .. => execOrderSwitch_inv h
  | .orderCompletion .. => execOrderCompletion_inv h
  | .vlgr .. => execVlgr_inv h
  | .vectorUnitEnter .. => execVectorUnitEnter_inv h
  | .vectorComplete .. => execVectorComplete_inv h
  | .vadd .. | .vaddX .. | .vsub .. | .vsubX .. | .vmul .. | .vmulX .. | .vfma .. | .vfmaX .. | .vfnma .. | .vfnmaX ..
  | .vdiv .. | .vdivX .. | .vsqrt .. | .vrsq .. | .vexp2 .. | .vlog2 .. | .vmax .. | .vmaxX .. | .vmin .. | .vminX ..
  | .vabs .. | .vneg .. | .vcmp .. | .vcmpX .. | .vsel .. | .vselX .. | .vand .. | .vandX .. | .vor .. | .vorX .. | .vxor ..
  | .vxorX .. | .vshl .. | .vshlX .. | .vshr .. | .vshrX .. | .vsra .. | .vsraX .. | .vcvt .. | .vqnt .. | .vrsum ..
  | .vrmax .. | .vrmin .. | .vslide .. | .vslideX .. | .vperm .. | .vbcst .. | .vmvxv .. | .vmvvx .. | .vld .. | .vst ..
  | .vlds .. | .vsts .. | .vldx .. | .vstx .. | .vlut .. | .mand .. | .mor .. | .mnot .. | .mpop .. => vIssue_inv h
  | .tld .. | .tst .. | .tldh .. | .tldm .. | .tgath .. | .tsave .. | .trest .. | .tmov .. | .tzero .. | .tfill .. | .tadd ..
  | .tsub .. | .tmul .. | .tmax .. | .tmin .. | .tscl .. | .ttrn .. | .tred .. | .tredQueue .. | .tcvt .. | .tqnt ..
  | .tdeq .. | .tfence .. | .tmma .. | .tmmas .. | .tmmaw .. | .tmmad .. | .eset .. | .esetImm .. | .skset .. | .skget .. =>
    tcwIssue_inv h
  | .tileRename .. => execTileRename_inv h
  | .tileIssue .. => execTileIssue_inv h
  | .tileComplete .. => execTileComplete_inv h
  | .tileRetire .. => execTileRetire_inv h
  | .tileStoreWritten .. => execTileStoreWritten_inv h
  | .tileFault .. => execTileFault_inv h
  | .matrixStart .. => execMatrixStart_inv h
  | .leaseGrant .. => execLeaseGrant_inv h
  | .leaseEnd .. => execLeaseEnd_inv h
  | .slewStep .. => execSlewStep_inv h
  | .dutyFrame .. => execDutyFrame_inv h
  | .convoyRequest .. => execConvoyRequest_inv h
  | .convoyWindowClose .. => execConvoyWindowClose_inv h
  | .convoyLineSend .. => execConvoyLineSend_inv h
  | .convoyUnicast .. => execConvoyUnicast_inv h
  | .convoyLineArrival .. => execConvoyLineArrival_inv h
  | .convoyEnd .. => execConvoyEnd_inv h
  | .rdcInvalidateApply .. => onlyIf_inv h (State.applyInval_inv h)
  | .writeThroughReply .. => execWriteThroughReply_inv h
  | .dumpRecordWritten .. => execDumpRecordWritten_inv h
  | .doubleFault .. => nextInv_ite (removeForCmc_inv h) h
  | .pointChangeDone .. => onlyIf_inv h h
  | .parkComplete => execParkComplete_inv h
  | .unparkComplete => execUnparkComplete_inv h
  | .registerWrite .. => execRegisterWrite_inv h
  | .rangeWalk .. => onlyIf_inv h (findRange_inv h)
  | .redirect .. => execRedirect_inv h
  | .orderCancel .. => execOrderCancel_inv h
  | .homeRead .. => onlyIf_inv h (State.homeRead_inv h)
  | .homeOwnership .. => onlyIf_inv h (State.l1Insert_inv (State.homeOwn_inv h))
  | .homeRdcRead .. => onlyIf_inv h (State.rdcLoad_inv h)
  | .homeWrite .. => onlyIf_inv h (State.homeWrite_inv h)
  | .l1Fill .. => onlyIf_inv h (State.l1Fill_inv h)
  | .rdcFill .. => onlyIf_inv h (State.rdcFill_inv h)
  | .icacheFill .. => execIcacheFill_inv h
  | .l2Fill .. => onlyIf_inv h (State.l2Fill_inv h)
  | .loadReplyNoAllocate .. => onlyIf_inv h (State.readSector_inv h)
  | .hbmClockChange .. => onlyIf_inv h h
  | .portSetMode .. => onlyIf_inv h (setPortMode_inv h)
  | .portTrain .. => onlyIf_inv h h
  | .portTrainingEnd .. => execPortTrainingEnd_inv h
  | .portLinkDown .. => nextInv_ite (portSignal_inv (portError_inv h)) h
  | .portRequestTimeout .. => portAnswer_inv h
  | .inboundRead .. => onlyIf_inv h (receive_inv h)
  | .inboundWrite .. => execInboundWrite_inv h
  | .msiDelivery .. => onlyIf_inv h (receive_inv h)
  | .portEventInterrupt .. => onlyIf_inv h (ite_inv (portError_inv h) (portSignal_inv h))
  | .portRequestCompletion .. => portAnswer_inv h
  | .chunkConditionTimeout .. => execChunkConditionTimeout_inv h
  | .tmmadBoxTimeout .. => execTmmadBoxTimeout_inv h
  | .jobremoveGo .. => jobremoveWrite_inv h
  | .dumpWriteTimeout .. => execDumpWriteTimeout_inv h
  | .hrunWatchdog .. | .mboxWatchdog .. => nextInv_ite (startRemoval_inv h) h
  | .heartbeatWatchdog .. => nextInv_ite h (nextInv_ite h (removeForCmc_inv h))
  | .cmcbeatWrite .. => onlyIf_inv h h
  | .correctedError => h
  | .uncorrectableError .. => execUncorrectableError_inv h
  | .budgetPeriod .. => execBudgetPeriod_inv h
  | .sagSlowing .. | .sagRecover .. => onlyIf_inv h h
  | .currentComparator => execCurrentComparator_inv h
  | .thermalTrip .. => onlyIf_inv h (retarget_inv (setDuties_inv (State.modPkg_inv (State.modQuad_inv h))))
  | .thermalTripEnd .. => onlyIf_inv h (retarget_inv (setDuties_inv (State.modQuad_inv h)))
  | .firmwareHold .. => execFirmwareHold_inv h
  | .parkDieW | .parkDieE => parkDie_inv h
  | .unpark => unparkDie_inv h
  | .powerOn => resetSequence_inv rfl
  | .resetctlReset => resetSequence_inv h
  | .attestationRequest => attestRequest_inv h
  | .attestationDone | .agePredictionUpdate .. => onlyIf_inv h h
  | .gatherAbandon .. => execGatherAbandon_inv h
  | .slewctlWrite .. => h
  | .gstepWrite .. => onlyIf_inv h (gstepWrite_inv h)
  | .bazaarAgeing .. => execBazaarAgeing_inv h
  | .bazaarSteal .. => execBazaarSteal_inv h
  | .dumpSealByStation .. => execDumpSealByStation_inv h
  | .wrapSweepWord .. => execWrapSweepWord_inv h

end Sys2Proof.Machine

end

section

/-! SUPPORT. Memory keeps its canonical form: a step of the machine. -/

namespace Sys2Proof.Machine

open Sys2Proof

variable {s t : State}

theorem runHart_inv (h : s.Inv) : nextInv (runHart s) := by
  unfold runHart
  split
  · rename_i stop
    exact fetchStop_inv h (Res.Post.of_error stop (fetchInstr_inv h))
  · rename_i found
    exact exec_inv (ok_inv found (fetchInstr_inv h))

theorem step_inv (h : s.Inv) : nextInv (step s) := by
  have due (rest) : State.Inv { s with agenda := rest } := h
  have issuing {t : State} {a : Agent} (h : t.Inv) : (t.issuing a).Inv := h
  unfold step
  split
  · exact exec_inv (due _)
  · dsimp only
    exact nextInv_ite (runHart_inv (issuing (due _))) (due _)
  · split
    · exact exec_inv h
    · split
      · exact runHart_inv (issuing h)
      · exact h

end Sys2Proof.Machine

end

section

/-! Every step keeps memory canonical: O58. -/

namespace Sys2Proof.Machine

open Sys2Proof

/-- Settles O58: memory is written through `put` and its like only, which keep the form, and every step is built from results that keep it. -/
theorem memoryStaysCanonical : Obligations.MemoryStaysCanonical := by
  unfold Obligations.MemoryStaysCanonical
  intro s t h stepped
  have next := step_inv h
  rw [stepped] at next
  exact next

end Sys2Proof.Machine

end

section
/-! SUPPORT. The waits of fences, acquires and releases: when they are over, and what one that is not over makes of its instruction
(10 R257, R260, R261, R264, R273). -/

namespace Sys2Proof.Machine

open Sys2Proof

variable {s t : State} {n k : Nat} {i : Instr} {aq rl : Bool} {body : State → Res State}

/-! ### Waits that are over -/

theorem waitTfence_ok (covered : tfencePending s s.cur.unit s.cur.slot = false) : waitTfence s = .ok () := need_of (by rw [covered]; rfl) _

theorem waitTfence_begun (covered : tfencePending s s.cur.unit s.cur.slot = false) : waitTfence (s.begun n) = .ok () := waitTfence_ok covered

theorem waitRelease_begun (order : orderOk s k aq true) : waitRelease (s.begun n) = .ok () := waitRelease_ok (order.1 rfl)

theorem waitAcquire_begun (order : orderOk s k true rl) : waitAcquire (s.begun n) k = .ok () := waitAcquire_ok (order.2 rfl)

/-- A fence whose waits are over acquires. -/
theorem fenceBody_begun (covered : tfencePending s s.cur.unit s.cur.slot = false) (order : orderOk s k true true) :
    fenceBody k (s.begun n) = .ok (s.begun n).acquired := by
  simp only [fenceBody, waitTfence_begun covered, waitRelease_begun order, waitAcquire_begun order, res_bind_ok]

/-! ### Waits that are not over -/

/-- An instruction whose body waits is as before but for its slot's park. -/
theorem issue_waits {unit : Bool} (runs : unit = true) (ready : s.ready) (waits : body (s.begun 4) = .error (.hold none)) :
    issue i unit s body = .next (s.modMe Slot.unpark) := by
  rw [issue_eq runs ready, waits, finish_wait]

theorem waitRelease_waits (early : performed s s.cur.unit s.cur.slot = false) : waitRelease s = .error (.hold none) := by
  rw [waitRelease, early, need_false]

theorem waitRelease_begun_waits (early : performed s s.cur.unit s.cur.slot = false) : waitRelease (s.begun n) = .error (.hold none) :=
  waitRelease_waits early

/-- A fence waits for the slot's write-through accesses, if not for a TFENCE before them. -/
theorem fenceBody_waits (early : performed s s.cur.unit s.cur.slot = false) : fenceBody k s = .error (.hold none) := by
  cases pending : tfencePending s s.cur.unit s.cur.slot with
  | true => rw [fenceBody, waitTfence, pending, Bool.not_true, need_false, res_bind_error]
  | false => rw [fenceBody, waitTfence_ok pending, res_bind_ok, waitRelease_waits early, res_bind_error]

theorem fenceBody_begun_waits (early : performed s s.cur.unit s.cur.slot = false) : fenceBody k (s.begun n) = .error (.hold none) :=
  fenceBody_waits early

end Sys2Proof.Machine
end

section
/-! SUPPORT. Each ordering instruction once its waits are over (10 R270 to R275). -/

namespace Sys2Proof.Machine

open Sys2Proof

variable {s t : State} {d a b : BitVec 5} {sc : Scope} {v : Nat}

theorem free_acquired (h : t.me.free d) : t.acquired.me.free d := free_acquiredIf (b := true) h

/-! ### Accesses that order -/

theorem exec_ldaq (ready : s.ready) (ha : s.me.plain a) (aligned : (s.me.reg a.toNat).toNat % 8 = 0) (order : orderOk s sc.code.toNat true false)
    (load : loadAt (s.begun 4) (s.me.reg a.toNat).toNat 8 = .ok (t, v)) (hd : t.me.free d) :
    exec (.ldaq d a sc) s = .next (t.acquired.setX d (w64 v)) := by
  refine issue_ok rfl ready ?_
  simp only [ldaqBody, readX_begun ha, needAligned_of aligned, waitAcquire_begun order, load, res_bind_ok]
  exact writeX_setX (free_acquired hd)

theorem exec_strl (ready : s.ready) (ha : s.me.plain a) (hb : s.me.plain b) (aligned : (s.me.reg a.toNat).toNat % 8 = 0)
    (order : orderOk s 0 false true) (store : storeAt (s.begun 4) (s.me.reg a.toNat).toNat 8 (s.me.reg b.toNat).toNat = .ok t) :
    exec (.strl a b sc) s = .next (replied t t.cur.unit t.cur.slot) := by
  refine issue_ok rfl ready ?_
  simp only [strlBody, read2_begun ha hb, needAligned_of aligned, waitRelease_begun order, store, res_bind_ok]

/-- AMOSC takes its place in the order S; only cas reads the value that it expects. -/
theorem exec_amosc (ready : s.ready) (ha : s.me.plain a) (hb : s.me.plain b) (plain : s.me.plain d) {op : ScOp} {expected : Word}
    (expects : expected = if op = .cas then s.me.reg d.toNat else 0) (aligned : (s.me.reg a.toNat).toNat % 8 = 0) (order : orderOk s 5 true true)
    (old : atomicAt (s.begun 4) (s.me.reg a.toNat).toNat 8 .both false
      (fun o => (scVal op (w64 o) (s.me.reg b.toNat) expected).map BitVec.toNat) = .ok (t, v)) (hd : t.me.free d) :
    exec (.amosc op d a b) s = .next (({ t with scOrder := t.cur :: t.scOrder } : State).acquired.setX d (w64 v)) := by
  refine issue_ok rfl ready ?_
  subst expects
  simp only [amoscBody, read2_begun ha hb, readX_begun plain, needAligned_of aligned, waitRelease_begun order, waitAcquire_begun order, res_bind_ok]
  split
  all_goals
    rename_i which
    simp only [which, ↓reduceIte] at old ⊢
    simp only [old, res_bind_ok]
    exact writeX_setX (free_acquired hd)

/-! ### Fences -/

theorem exec_fence_empty (ready : s.ready) {fm pred succ : BitVec 4} (empty : pred = 0 ∨ succ = 0) :
    exec (.fence fm pred succ d a) s = .next (s.begun 4) :=
  issue_ok (body := fun t => if pred = 0 ∨ succ = 0 then .ok t else fenceBody 6 t) rfl ready (if_pos empty)

/-- A FENCE of two sets that are not empty runs as FENCE.S at system scope (Table 3.2). -/
theorem exec_fence_of_sets {fm pred succ : BitVec 4} (before : pred ≠ 0) (after : succ ≠ 0) :
    exec (.fence fm pred succ d a) s = issue (.fence fm pred succ d a) s.onAny s (fenceBody 6) := by
  have sets : ¬(pred = 0 ∨ succ = 0) := not_or.mpr ⟨before, after⟩
  change execFence fm pred succ d a s = _
  simp only [execFence, if_neg sets]

theorem exec_fence_full (ready : s.ready) {fm pred succ : BitVec 4} (before : pred ≠ 0) (after : succ ≠ 0)
    (covered : tfencePending s s.cur.unit s.cur.slot = false) (order : orderOk s 6 true true) :
    exec (.fence fm pred succ d a) s = .next (s.begun 4).acquired := by
  rw [exec_fence_of_sets before after]
  exact issue_ok rfl ready (fenceBody_begun covered order)

theorem exec_fenceS (ready : s.ready) (covered : tfencePending s s.cur.unit s.cur.slot = false) (order : orderOk s sc.code.toNat true true) :
    exec (.fenceS sc) s = .next (s.begun 4).acquired :=
  issue_ok rfl ready (fenceBody_begun covered order)

theorem exec_fenceI (ready : s.ready) {i : BitVec 12} {locked : List ICLine} (performed : s.mine.wt = [])
    (lines : locked = s.mine.icache.filter fun l => l.locked) (fetched : ∀ l ∈ locked, icWaits (s.begun 4) s.cur.unit l = false) :
    exec (.fenceI d a i) s = .next (locked.reverse.foldl (fun t l => icRefetch t t.cur.unit l)
      ((s.begun 4).modMine fun x => { x with icache := locked })) := by
  have noWrites : (s.mine.wt == []) = true := beq_iff_eq.mpr performed
  have noWaits : (locked.all fun l => !icWaits (s.begun 4) s.cur.unit l) = true :=
    List.all_eq_true.mpr fun l held => by rw [fetched l held]; rfl
  change execFenceI d a i s = _
  rw [execFenceI]
  refine issue_ok rfl ready ?_
  simp only [State.begun_mine, State.begun_cur, need_of noWrites, ← lines, need_of noWaits, res_bind_ok]

theorem exec_fenceRg (ready : s.ready) (ha : s.me.plain a) {e : Option RangeEntry}
    (range : rangeOfAddress (s.begun 4) (s.me.reg a.toNat).toNat = .ok (t, e)) (covered : tfencePending t t.cur.unit t.cur.slot = false)
    (performed : performedIn t e = true) (order : orderOk t sc.code.toNat true false) :
    exec (.fenceRg a sc) s = .next t.acquired := by
  refine issue_ok rfl ready ?_
  simp only [fenceRgBody, readX_begun ha, range, waitTfence_ok covered, need_of performed, waitAcquire_ok (order.2 rfl), res_bind_ok]

/-- With no engine operation outstanding, none of those that FENCE.E waits for is. -/
theorem exec_fenceE (ready : s.ready) (done : s.mine.ops = []) (order : orderOk s 6 true false) :
    exec .fenceE s = .next ((s.begun 4).acquired.modMe fun h => { h with pipe := .idle }) := by
  refine issue_ok rfl ready ?_
  rw [fenceEBody, State.begun_mine, done, waitAcquire_begun order]
  cases (s.begun 4).me.pipe <;> simp

end Sys2Proof.Machine
end

section
/-! The ordering instructions: O5 and O6. -/

namespace Sys2Proof.Machine

open Sys2Proof

/-- Settles O5: each instruction by its own lemma, AMOSC by one lemma for cas and for the other operations. -/
theorem orderingInstructionsComplete : Obligations.OrderingInstructionsComplete := by
  unfold Obligations.OrderingInstructionsComplete
  intro s t d a b sc v ready ha hb plain
  refine ⟨exec_ldaq ready ha, exec_strl ready ha hb, fun _ _ _ => exec_fence_empty ready, fun _ _ _ => exec_fence_full ready,
    fun _ performed => exec_fenceI ready performed rfl, exec_fenceS ready, fun _ => exec_fenceRg ready ha, exec_fenceE ready, ?cas, ?other⟩
  case cas =>
    intro op aligned order old cas
    exact exec_amosc ready ha hb plain (if_pos cas).symm aligned order old
  case other =>
    intro op aligned order old other
    exact exec_amosc ready ha hb plain (if_neg other).symm aligned order old

/-- Settles O6: each body comes to its wait for the slot's write-through accesses (`waitRelease_waits`) before it changes anything. -/
theorem releasesWait : Obligations.ReleasesWait := by
  unfold Obligations.ReleasesWait
  intro s a b sc ready ha hb early
  refine ⟨issue_waits rfl ready (fenceBody_begun_waits early), ?strl, ?fence⟩
  case strl =>
    intro aligned
    refine issue_waits rfl ready ?_
    simp only [strlBody, read2_begun ha hb, needAligned_of aligned, waitRelease_begun_waits early, res_bind_ok, res_bind_error]
  case fence =>
    intro fm pred succ d e before after
    rw [exec_fence_of_sets before after]
    exact issue_waits rfl ready (fenceBody_begun_waits early)

end Sys2Proof.Machine
end

section
/-! SUPPORT. The issue of BCOPY, BCOPYC, BGATH and BSCAT, check by check (11 R278 to R282, R291 to R293). -/

namespace Sys2Proof.Machine

open Sys2Proof

variable {s s1 s2 s3 : State} {d a : BitVec 5} {form : OpForm} {ws : List Word} {sp : List (ESpan × Option (Word × Nat))}

theorem findPos_none {β : Type} {p : β → Bool} {l : List β} (h : ∀ x ∈ l, p x = false) : findPos p l = none := by
  induction l with
  | nil => rfl
  | cons x l ih =>
    rw [findPos, h x List.mem_cons_self, ih fun y hy => h y (List.mem_cons_of_mem x hy)]
    rfl

/-- The four forms run one body. -/
theorem exec_engineForm {i : Instr}
    (h : (form, i) ∈ [(OpForm.copy, Instr.bcopy d a), (.clipped, .bcopyc d a), (.gather, .bgath d a), (.scatter, .bscat d a)]) :
    exec i s = issue i s.onCoreU s (engineBody form d a) := by
  simp only [List.mem_cons, Prod.mk.injEq, List.not_mem_nil, or_false] at h
  rcases h with ⟨rfl, rfl⟩ | ⟨rfl, rfl⟩ | ⟨rfl, rfl⟩ | ⟨rfl, rfl⟩ <;> rfl

/-! ### What an issue sends -/

/-- The chunks of a clipped copy of which nothing lies in the box: done when it issues (R291). -/
def emptyChunks (form : OpForm) (o : EngineOp) : List Nat :=
  if form = .clipped then (upTo o.chunkCount).filter fun c => chunkRuns o c == [] else []

/-- The bits of the chunks that are done at the issue, and the box message of a clipped copy (R292). -/
def State.opAnnounced (s : State) (u : Nat) (form : OpForm) (ws : List Word) (o : EngineOp) : State :=
  let t := (emptyChunks form o).foldl (fun t c => setChunkBit t u o c) s
  if form = .clipped then boxMessage t (clipBox form ws) o.cval o.serial else t

/-- The operation under way with its locks; of an empty box, its completion written, or owed by the core itself where it waits (R291, 10 R268). -/
def State.opSent (s : State) (u : Nat) (form : OpForm) (spans : List ESpan) (o : EngineOp) (locks : List RangeLock) (later : Bool) : State :=
  if form = .clipped ∧ spans = [] then
    if later then s.modMine fun m => { m with ops := m.ops ++ [{ o with done := emptyChunks form o, phase := .own }] } else reportOp s u o o.cval
  else s.modMine fun m => { m with ops := m.ops ++ [{ o with done := emptyChunks form o }], locks := m.locks ++ locks, serial := m.serial + 1 }

/-- What the issue of an operation makes of the state in which its bitmap is cleared. -/
def State.opIssued (s : State) (u : Nat) (form : OpForm) (ws : List Word) (spans : List ESpan) (o : EngineOp) (locks : List RangeLock) : State :=
  (s.opAnnounced u form ws o).opSent u form spans o locks (completionWaits s u s.cur.slot (opsOf s u s.cur.slot))

/-! ### The checks -/

/-- A descriptor in its slot's registers and memory that breaks no rule of its form (R278, R291, R293). -/
structure DescriptorRead (s : State) (a : BitVec 5) (form : OpForm) (s1 : State) (ws : List Word) : Prop where
  plain : s.me.plain a
  aligned : (s.me.reg a.toNat).toNat % 64 = 0
  words : loadWords (s.begun 4) (s.me.reg a.toNat).toNat (if form = .clipped then 16 else 8) = .ok (s1, ws)
  good : (descBad s.cur.unit form ws).all (fun b => !b) = true
  list : form = .gather ∨ form = .scatter → (idxVa form ws).toNat % idxSize ws = 0

/-- No source span meets a destination span, and each passes its check (R279). -/
structure SpansPass (s1 : State) (spans : List ESpan) (s2 : State) (sp : List (ESpan × Option (Word × Nat))) : Prop where
  apart : ∀ p ∈ spans, ∀ q ∈ spans, p.dest = false → q.dest = true → p.meets q = false
  checked : checkSpans s1 spans = .ok (s2, sp)

/-- The ports that the descriptor names are bound, and the core has room for the operation and its locks (R282). -/
structure RoomFor (s2 : State) (ws : List Word) (locks : List RangeLock) : Prop where
  event : wbit (dCtl ws) 60 = true → (s2.me.portQueue portCompl).isSome = true
  rows : dGq ws = true → (s2.me.portQueue (8 + wfld (dCtl ws) 58 56)).isSome = true
  ops : (s2.mine.ops.filter fun p => p.phase != .own).length < 32
  locks : s2.mine.locks.length + locks.length ≤ 16

theorem DescriptorRead.noBadWord (h : DescriptorRead s a form s1 ws) : findPos id (descBad s.cur.unit form ws) = none :=
  findPos_none fun b hb => by simpa using List.all_eq_true.mp h.good b hb

theorem DescriptorRead.listAligned (h : DescriptorRead s a form s1 ws) :
    (if (form = .gather || form = .scatter) = true then needAligned (idxVa form ws).toNat (idxSize ws) else .ok ()) = .ok () := by
  split
  · next indexed => exact needAligned_of (h.list (by simpa using indexed))
  · rfl

theorem SpansPass.noOverlap {spans : List ESpan} (h : SpansPass s1 spans s2 sp) :
    (spans.all fun p => p.dest || spans.all fun q => !q.dest || !p.meets q) = true := by
  simp only [List.all_eq_true, Bool.or_eq_true, Bool.not_eq_true']
  intro p hp
  cases source : p.dest
  · refine .inr fun q hq => ?_
    cases dest : q.dest
    · exact .inl rfl
    · exact .inr (h.apart p hp q hq source dest)
  · exact .inl rfl

/-- A queue that is bound wherever it is asked for. -/
theorem needBound_ok {asked bound : Bool} (h : asked = true → bound = true) (e : Stop) : need (!asked || bound) e = .ok () := by
  cases asked
  · rfl
  · exact need_of (h rfl) e

theorem RoomFor.room {locks : List RangeLock} (h : RoomFor s2 ws locks) :
    (decide ((s2.mine.ops.filter fun p => p.phase != .own).length < Config.maxEngineOps)
      && decide (s2.mine.locks.length + locks.length ≤ Config.lockEntries)) = true := by
  rw [decide_eq_true (show _ < Config.maxEngineOps from h.ops), decide_eq_true (show _ ≤ Config.lockEntries from h.locks)]; rfl

/-! ### The issue -/

theorem engineBody_begun (desc : DescriptorRead s a form s1 ws) (pass : SpansPass s1 (opSpans s1 form ws) s2 sp)
    (room : RoomFor s2 ws (opLocks s2.mine.serial sp)) (kept : dBmen ws = false → s3 = s2)
    (cleared : dBmen ws = true → storeWords s2 (coreWindow + dBmoff ws) (List.replicate (dBmBytes ws / 8) 0) = .ok s3) :
    engineBody form d a (s.begun 4)
      = writeX (s3.opIssued s.cur.unit form ws (opSpans s1 form ws) (captureOp s2 form ws sp) (opLocks s2.mine.serial sp)) d
          (s2.mine.serial.setWidth 64) := by
  have serial : (captureOp s2 form ws sp).serial = s2.mine.serial := rfl
  simp only [engineBody, readX_begun desc.plain, needAligned_of desc.aligned, desc.words, State.begun_cur, desc.noBadWord, desc.listAligned,
    need_of pass.noOverlap, pass.checked, needBound_ok room.event, needBound_ok room.rows, serial, need_of room.room, res_bind_ok,
    State.opIssued, State.opSent, State.opAnnounced, emptyChunks, Bool.and_eq_true, decide_eq_true_eq, beq_iff_eq]
  by_cases bitmap : dBmen ws = true
  · rw [if_pos (show (captureOp s2 form ws sp).bmen = true from bitmap)]
    simp only [show storeWords s2 (coreWindow + (captureOp s2 form ws sp).bmoff) _ = _ from cleared bitmap, res_bind_ok]
  · rw [if_neg (show ¬(captureOp s2 form ws sp).bmen = true from bitmap), kept (Bool.eq_false_iff.mpr bitmap)]

end Sys2Proof.Machine
end

section
/-! The issue of an engine operation: O19. -/

namespace Sys2Proof.Machine

open Sys2Proof

/-- Settles O19: the four forms run one body, which passes each of its checks. -/
theorem engineIssueCompletes : Obligations.EngineIssueCompletes := by
  unfold Obligations.EngineIssueCompletes
  intro s s1 s2 s3 d a form i ws sp ready unit ha mem xa u spans o later gone s4 s5 t aligned words _ good list apart checked event rows ops locks
    kept cleared hd
  rw [exec_engineForm mem]
  refine issue_ok unit ready ?_
  rw [engineBody_begun ⟨ha, aligned, words, good, list⟩ ⟨apart, checked⟩ ⟨event, rows, ops, locks⟩ kept cleared]
  exact writeX_setX hd

end Sys2Proof.Machine
end

section
/-! SUPPORT. BCANCEL's request and its answer, and the word of the core store that CTEST and CWAITM test (11 R288 to R290). -/

namespace Sys2Proof.Machine

open Sys2Proof

variable {s t : State} {d a b : BitVec 5} {x y v : Word}

/-! ### BCANCEL -/

@[simp] theorem findOp_begun (n u : Nat) (m : BitVec 16) : findOp (s.begun n) u m = findOp s u m := rfl

theorem needHandle_ok (handle : x.toNat < 2 ^ 16) (r : BitVec 5) : needValue (wfld x 63 16 == 0) r = .ok () :=
  needValue_of (by rw [wfld_top x (by decide), Nat.div_eq_of_lt handle]; rfl) r

section
variable (ready : s.ready) (unit : s.onCoreU = true) (ha : s.me.Holds a x) (handle : x.toNat < 2 ^ 16)
include ready unit ha handle

/-- The handle of no outstanding operation. -/
theorem exec_bcancel_gone (idle : s.me.pipe = .idle) (gone : findOp s s.cur.unit (x.setWidth 16) = none) (hd : s.me.free d) :
    exec (.bcancel d a) s = .next ((s.begun 4).setX d 2) := by
  refine issue_ok unit ready ?_
  simp only [bcancelBody, readX_holds ha, needHandle_ok handle, State.begun_pipe, State.begun_cur, idle, findOp_begun, gone,
    Option.isSome_none, Bool.false_eq_true, ↓reduceIte, res_bind_ok]
  exact writeX_begun hd

theorem exec_bcancel_asks {p : EngineOp} (idle : s.me.pipe = .idle) (found : findOp s s.cur.unit (x.setWidth 16) = some p) :
    exec (.bcancel d a) s = .next ((s.modMe Slot.unpark).modMe fun h => { h with pipe := .cancel x.toNat none }) := by
  have asks : bcancelBody d a (s.begun 4) = .error (.hold (some (.cancel x.toNat none))) := by
    simp only [bcancelBody, readX_holds ha, needHandle_ok handle, State.begun_pipe, State.begun_cur, idle, findOp_begun, found,
      Option.isSome_some, ↓reduceIte, res_bind_ok]
  exact (issue_eq unit ready).trans (by rw [asks, finish_hold])

theorem exec_bcancel_answered {n r : Nat} (answer : s.me.pipe = .cancel n (some r)) (hd : s.me.free d) :
    exec (.bcancel d a) s = .next (((s.begun 4).modMe fun h => { h with pipe := .idle }).setX d (w64 r)) := by
  refine issue_ok unit ready ?_
  simp only [bcancelBody, readX_holds ha, needHandle_ok handle, State.begun_pipe, answer, res_bind_ok]
  exact writeX_setX (by simpa [Slot.free, Slot.isBound, Slot.gen] using free_begun (n := 4) hd)

end

/-! ### CTEST and CWAITM -/

theorem storeSize_le (u : Nat) : storeSize u ≤ 0x80000 := by
  unfold storeSize
  split
  · exact le_rfl
  · split <;> decide

theorem testWord_begun (ha : s.me.Holds a x) (hb : s.me.Holds b y) {u : Nat} (low : coreWindow ≤ x.toNat)
    (high : x.toNat - coreWindow < storeSize u) (aligned : x.toNat % 8 = 0) (word : loadWord (s.begun 4) x.toNat = .ok (t, v)) :
    testWord a b (s.begun 4) = .ok (t, x.toNat, v, y) := by
  have top : x.toNat < coreWindow + 0x80000 := by have := storeSize_le u; omega
  have inside : (decide (coreWindow ≤ x.toNat) && decide (x.toNat < coreWindow + 0x80000) && x.toNat % 8 == 0) = true := by
    simp [low, top, aligned]
  simp only [testWord, read2_holds ha hb, needValue_of inside, word, res_bind_ok]

/-- The wait of a test that succeeds is over: an acquire's, when the mask is not 0. -/
theorem testWait_ok (acquires : y ≠ 0 → rdcClean t t.cur.unit = true) : (if y != 0 then waitAcquire t 6 else .ok ()) = .ok () := by
  split
  · next nonzero => exact waitAcquire_ok (.inr (acquires (bne_iff_ne.mp nonzero)))
  · rfl

section
variable {va : Nat} (ready : s.ready) (unit : s.onCoreU = true) (word : testWord a b (s.begun 4) = .ok (t, va, v, y))
include ready unit word

/-- A test that succeeds is an acquire when its mask is not 0. -/
theorem exec_ctest_passes (passes : v &&& y = y) (acquires : y ≠ 0 → rdcClean t t.cur.unit = true) (hd : t.me.free d) :
    exec (.ctest d a b) s = .next ((t.acquiredIf (y != 0)).setX d 1) := by
  change execCtest d a b s = _
  rw [execCtest]
  refine issue_ok unit ready ?_
  simp only [word, passes, beq_self_eq_true, Bool.true_and, testWait_ok acquires, res_bind_ok, ↓reduceIte]
  exact writeX_setX (free_acquiredIf hd)

theorem exec_cwaitm_passes (passes : v &&& y = y) (acquires : y ≠ 0 → rdcClean t t.cur.unit = true) :
    exec (.cwaitm a b) s = .next (t.acquiredIf (y != 0)) := by
  change execCwaitm a b s = _
  rw [execCwaitm]
  refine issue_ok unit ready ?_
  simp only [word, passes, beq_self_eq_true, testWait_ok acquires, res_bind_ok, ↓reduceIte]
  rfl

theorem exec_ctest_fails (fails : v &&& y ≠ y) (hd : t.me.free d) : exec (.ctest d a b) s = .next (t.setX d 0) := by
  change execCtest d a b s = _
  rw [execCtest]
  refine issue_ok unit ready ?_
  simp only [word, beq_false_of_ne fails, Bool.false_and, Bool.false_eq_true, res_bind_ok, ↓reduceIte]
  exact writeX_setX hd

theorem exec_cwaitm_fails (fails : v &&& y ≠ y) (slot : s.cur.slot ≠ 6) :
    exec (.cwaitm a b) s = .next (s.modMe fun h => { h with park := 5, await := 0, waitOn := some (lineOf (storeBase t.cur.unit + (va - coreWindow))),
                                                            woken := false, resv := none }) := by
  change execCwaitm a b s = _
  rw [execCwaitm]
  refine issue_park (c := 5) (a := 0) unit ready ?_ slot
  simp only [word, beq_false_of_ne fails, Bool.false_eq_true, res_bind_ok, ↓reduceIte]

end

end Sys2Proof.Machine
end

section
/-! BCANCEL, CTEST and CWAITM: O21. -/

namespace Sys2Proof.Machine

open Sys2Proof

/-- Settles O21: BCANCEL by what the slot has in the pipe, CTEST and CWAITM by the test of the word. -/
theorem handleInstructionsComplete : Obligations.HandleInstructionsComplete := by
  unfold Obligations.HandleInstructionsComplete
  intro s t d a b v ready unit ha hb x y o inStore
  have hx : s.me.Holds a x := ⟨ha, rfl⟩
  have word (there : inStore) (load : loadWord (s.begun 4) x.toNat = .ok (t, v)) : testWord a b (s.begun 4) = .ok (t, x.toNat, v, y) :=
    testWord_begun hx ⟨hb, rfl⟩ there.1 there.2.1 there.2.2 load
  refine ⟨fun handle => exec_bcancel_gone ready unit hx handle, fun _ handle => exec_bcancel_asks ready unit hx handle,
    fun _ _ handle => exec_bcancel_answered ready unit hx handle, ?acquires, ?zero, ?fails⟩
  case acquires =>
    intro there load passes nonzero clean hd
    have go := word there load
    have acquired : t.acquiredIf (y != 0) = t.acquired := by rw [bne_iff_ne.mpr nonzero]; rfl
    exact acquired ▸ ⟨exec_ctest_passes ready unit go passes (fun _ => clean) hd, exec_cwaitm_passes ready unit go passes fun _ => clean⟩
  case zero =>
    intro there load zero hd
    have go := word there load
    have plain : t.acquiredIf (y != 0) = t := by rw [zero]; rfl
    have passes : v &&& y = y := by rw [zero]; exact BitVec.and_zero
    have idle (nonzero : y ≠ 0) : rdcClean t t.cur.unit = true := absurd zero nonzero
    have both := And.intro (exec_ctest_passes ready unit go passes idle hd) (exec_cwaitm_passes ready unit go passes idle)
    rwa [plain] at both
  case fails =>
    intro there load fails hd cur slot
    have go := word there load
    exact ⟨exec_ctest_fails ready unit go fails hd, by rw [exec_cwaitm_fails ready unit go fails slot, cur]⟩

end Sys2Proof.Machine
end

section
/-! SUPPORT. The steps of an outstanding engine operation, and what its end leaves of it (11 R283 to R290, R295, 18 R427). -/

namespace Sys2Proof.Machine

open Sys2Proof

variable {s t : State} {u n : Nat} {o : EngineOp}

/-- The core's own completion is looked for first. -/
theorem exec_engineComplete_own (owed : ownReport s u (BitVec.ofNat 16 n) = some o) :
    exec (.engineComplete u n) s = .next (dropOwn (reportOp s u o o.cval) u o) := by
  change execEngineComplete u n s = _
  simp only [execEngineComplete, owed]

/-! ### An operation that has left -/

/-- No operation under the serial number that is released, but for a completion that the core itself owes. -/
theorem releaseOp_ops {m : BitVec 16} {p : EngineOp} (h : p ∈ ((releaseOp s u m).unit u).ops) : p.isOp m = false := by
  rw [releaseOp, wakePark_unit, State.unit_modUnit_same, List.mem_filter] at h
  obtain ⟨_, other⟩ := h
  simp only [Bool.or_eq_true, bne_iff_ne, beq_iff_eq] at other
  rcases other with serial | own
  · rw [EngineOp.isOp, beq_false_of_ne serial, Bool.false_and]
  · rw [EngineOp.isOp, own, Bool.and_comm]; rfl

theorem releaseOp_locks {m : BitVec 16} {l : RangeLock} (h : l ∈ ((releaseOp s u m).unit u).locks) : l.serial ≠ m := by
  rw [releaseOp, wakePark_unit, State.unit_modUnit_same, List.mem_filter] at h
  exact bne_iff_ne.mp h.2

/-- Only MMREV 2 of a core makes a completion wait (10 R268). -/
theorem completionWaits_off {k : Nat} {earlier : List EngineOp} (h : (s.unit u).mmrev ≠ 2 ∨ isCore u = false) :
    completionWaits s u k earlier = false := by
  rcases h with mmrev | unit
  · rw [completionWaits, beq_false_of_ne mmrev, Bool.and_false, Bool.false_and]
  · rw [completionWaits, unit, Bool.false_and, Bool.false_and]

section
variable (found : findOp s u (BitVec.ofNat 16 n) = some o)
include found

/-! ### Its waybill and its start -/

theorem exec_waybillArrival (sent : o.phase = .sent) : exec (.waybillArrival u n) s =
    .next (if engineOf s u o < 18 then (modOp s u o.serial fun o => { o with phase := .queued }).modStation (engineOf s u o / 3) fun m =>
        { m with waybills := m.waybills ++ [(u, o.serial)] }
      else modOp s u o.serial fun o => { o with phase := .queued }) := by
  change execWaybillArrival u n s = _
  simp only [execWaybillArrival, found, if_pos sent]

theorem exec_engineStart (queued : o.phase = .queued) (turn : engineNext s (engineOf s u o) = some (u, o.serial))
    (place : engineLoad s (engineOf s u o) < if engineOf s u o < 18 then 8 else 1) : exec (.engineStart u n) s =
    .next (if engineOf s u o < 18 then (modOp s u o.serial fun o => { o with phase := .started }).modStation (engineOf s u o / 3) fun m =>
        { m with waybills := m.waybills.filter fun p => p != (u, o.serial) }
      else modOp s u o.serial fun o => { o with phase := .started }) := by
  change execEngineStart u n s = _
  simp only [execEngineStart, found]
  exact if_pos ⟨queued, turn, place⟩

/-! ### Its payload -/

theorem exec_engineChunkLanded {c : Nat} (started : o.phase = .started) (memory : o.gq = false) (inside : c < o.chunkCount) (new : c ∉ o.done)
    (order : o.form = .scatter → o.done.length = c) (shown : o.bmen = true → completionWaits s u o.slot (earlierOps s u o) = false)
    (moved : moveChunk s u o c = some (t, none)) : exec (.engineChunkLanded u n c) s =
      .next (setChunkBit (modOp t u o.serial fun x => { x with done := x.done ++ [c], outside := lowest x.outside none }) u o c) := by
  have scatter : (o.form != .scatter || o.done.length == c) = true := by
    by_cases h : o.form = .scatter
    · simp [order h]
    · simp [h]
  have bitmap : (o.bmen && completionWaits s u o.slot (earlierOps s u o)) = false := by
    cases h : o.bmen
    · rfl
    · exact shown h
  change execEngineChunkLanded u n c s = _
  simp only [execEngineChunkLanded, found, moved]
  rw [if_pos (by simp [started, memory, inside, new, scatter, bitmap])]
  rfl

/-- A row of a queue-mode gather, when no value of an earlier one is held for its port (R295). -/
theorem exec_gatherRowDelivery {t1 t2 : State} {sa da : Word} {v : Nat} {bad : List (Nat × Nat)} (started : o.phase = .started) (queue : o.gq = true)
    (left : o.done.length < o.rows) (unheld : ((s.hart u o.slot).held.any fun p => p.1 == 8 + o.gtag) = false)
    (places : rowPlaces s u o o.done.length = some (t1, some (sa, da)))
    (read : engineRead t1 u sa.toNat o.rowBytes o.srcOff = some (t2, v, bad)) : exec (.gatherRowDelivery u n) s =
      .next ((wordsOf (o.rowBytes / 8) v).foldl (fun t w => deliverPort t u o.slot (8 + o.gtag) w)
        (poisonQueue (modOp t2 u o.serial fun x => { x with done := x.done ++ [o.done.length] }) u o.slot (8 + o.gtag) (bad != []))) := by
  change execGatherRowDelivery u n s = _
  simp only [execGatherRowDelivery, found, places, read, started, queue, left, unheld, decide_true, beq_self_eq_true, Bool.not_false, Bool.and_true,
    ↓reduceIte]

/-! ### Its end -/

theorem exec_engineComplete (started : o.phase = .started) (turn : completionWaits s u o.slot (earlierOps s u o) = false)
    (noOwn : ownReport s u (BitVec.ofNat 16 n) = none)
    (all : (if o.gq then o.done.length == o.rows && !(s.hart u o.slot).held.any fun p => p.1 == 8 + o.gtag
      else o.done.length == o.chunkCount) = true) :
    exec (.engineComplete u n) s = .next (releaseOp (reportOp s u o ((o.outside.map outsideWord).getD o.cval)) u o.serial) := by
  change execEngineComplete u n s = _
  simp only [execEngineComplete, noOwn, found, all, started, turn, beq_self_eq_true, Bool.not_false, Bool.and_true, ↓reduceIte]

theorem exec_cancelRequest_queued {k : Nat} (asked : (s.hart u k).pipe = .cancel n none) (queued : o.phase = .queued) :
    exec (.cancelRequest u k) s = .next ((withdrawOp s u o).modHart u k fun h => { h with pipe := .cancel n (some 0) }) := by
  change execCancelRequest u k s = _
  simp only [execCancelRequest, asked, found, queued, reduceCtorEq, ↓reduceIte]

theorem exec_cancelRequest_started {k : Nat} (asked : (s.hart u k).pipe = .cancel n none) (started : o.phase = .started) :
    exec (.cancelRequest u k) s = .next (s.modHart u k fun h => { h with pipe := .cancel n (some 1) }) := by
  change execCancelRequest u k s = _
  simp only [execCancelRequest, asked, found, started, reduceCtorEq, ↓reduceIte]

theorem exec_gatherAbandon (queue : o.gq = true) (started : o.phase = .started) (stopped : (s.unit u).stopped = true)
    (blocked : ((s.hart u o.slot).held.any fun p => p.1 == 8 + o.gtag) = true) : exec (.gatherAbandon u n) s =
      .next (((releaseOp s u o.serial).modUnit u fun x => { x with abandoned := x.abandoned ++ [o.serial] }).modHart u o.slot fun h =>
        { h with held := h.held.filter fun p => p.1 != 8 + o.gtag }) := by
  change execGatherAbandon u n s = _
  simp only [execGatherAbandon, found, queue, started, stopped, blocked, beq_self_eq_true, Bool.and_true, ↓reduceIte]

end

end Sys2Proof.Machine
end

section
/-! The steps of an engine operation: O20. -/

namespace Sys2Proof.Machine

open Sys2Proof

/-- Settles O20: each step by its own lemma; a started operation ends when all its chunks, or all its rows, are done. -/
theorem engineSteps : Obligations.EngineSteps := by
  unfold Obligations.EngineSteps
  refine ⟨fun s u n o => exec_engineComplete_own, ?_⟩
  intro s t u n o found g blocked
  have unheld (h : ¬blocked) : ((s.hart u o.slot).held.any fun p => p.1 == 8 + o.gtag) = false := Bool.eq_false_iff.mpr h
  refine ⟨?stationQueued, ?ownQueued, ?stationStart, ?ownStart, ?chunk, ?row, completionWaits_off, ?complete,
    fun _ asked queued => exec_cancelRequest_queued found asked queued, fun _ asked started => exec_cancelRequest_started found asked started,
    exec_gatherAbandon found⟩
  case stationQueued =>
    intro sent station
    rw [exec_waybillArrival found sent, if_pos station]
  case ownQueued =>
    intro sent own
    rw [exec_waybillArrival found sent, if_neg (Nat.not_lt.mpr own)]
  case stationStart =>
    intro queued turn station place
    rw [exec_engineStart found queued turn (by rwa [if_pos station]), if_pos station]
  case ownStart =>
    intro queued turn own place
    have other : ¬engineOf s u o < 18 := Nat.not_lt.mpr own
    rw [exec_engineStart found queued turn (by rw [if_neg other]; exact lt_of_eq_of_lt place Nat.one_pos), if_neg other]
  case chunk =>
    intro c started memory inside new order shown moved
    exact exec_engineChunkLanded found started memory inside new order shown moved
  case row =>
    intro t1 sa da v bad t2 started queue left free places read
    exact exec_gatherRowDelivery found started queue left (unheld free) places read
  case complete =>
    intro started turn noOwn all
    refine ⟨_, exec_engineComplete found started turn noOwn ?_, rfl, fun p => releaseOp_ops, fun l => releaseOp_locks⟩
    rcases all with ⟨memory, done⟩ | ⟨queue, done, free⟩
    · simp [memory, done]
    · simp [queue, done, unheld free]

end Sys2Proof.Machine
end

section
/-! SUPPORT. The arrival of a convoy's line at a member (11 R297, 10 R259). -/

namespace Sys2Proof.Machine

open Sys2Proof

variable {s : State} {i u j m l : Nat} {c : Convoy} {x : RobEntry} {d : BitVec 2048} {p : BitVec 4}

/-- The state without the line that has arrived. -/
def State.landed (s : State) (i j : Nat) (c : Convoy) : State :=
  { s with convoys := if c.ended && dropAt c.inFlight j == [] then dropAt s.convoys i
    else setAt s.convoys i { c with inFlight := dropAt c.inFlight j } }

/-- The entry with the line's bytes in its image, which it awaits no more. -/
def RobEntry.took (x : RobEntry) (line : Nat) (d : BitVec 2048) : RobEntry :=
  { x with await := x.await.filter fun k => k != line,
           result := x.result.map fun r => { r with img := r.img ||| BitVec.ofNat 196608 (takeLine x line d) } }

/-- A clean line goes into the image of the entry that awaits it; it overtakes what slot 0's streams have fetched ahead of it, as every access of
the slot does (04 R117, 10 R252). -/
theorem exec_convoyLineArrival_clean (convoy : s.convoys[i]? = some c)
    (oldest : findPos (fun f : Nat × Nat × BitVec 2048 × BitVec 4 => f.1 / 32 == u) c.inFlight = some j)
    (onWay : c.inFlight[j]? = some (m, l, d, p)) (entry : (s.fe u).entry (m % 32) = some x) (joined : x.joined = true)
    (awaits : x.await.contains l = true) (issued : x.phase = .issued) (same : Convoy.sameKey c (convoyOf u x) = true)
    (clean : linePoison x l p = none) : exec (.convoyLineArrival i u) s =
      .next ((((s.landed i j c).applyInvals (unitDie u)).modHart u 0 fun h => h.hasRead (linePa l) 256).modRob u x.id fun y =>
        y.took l d) := by
  have found : ((s.landed i j c).fe u).entry (m % 32) = some x := entry
  change execConvoyLineArrival i u s = _
  rw [State.landed] at found
  simp only [execConvoyLineArrival, convoy, oldest, onWay, found, joined, awaits, issued, same, clean, Bool.not_true,
    bne_self_eq_false, Bool.or_false, Bool.false_eq_true, ↓reduceIte]
  rfl

theorem State.hart_applyInvals (s : State) (e u k : Nat) : (s.applyInvals e).hart u k = s.hart u k := by
  rw [State.hart, State.harts_of_agents (State.applyInvals_agents s e), State.hart]

theorem Convoy.sameKey_self (c : Convoy) : c.sameKey c = true := by
  simp only [Convoy.sameKey, beq_self_eq_true, Bool.and_self]

end Sys2Proof.Machine
end

section
/-! The steps of a convoy: O47. -/

namespace Sys2Proof.Machine

open Sys2Proof

/-- Slot 0's stream with one element of 8 bytes fetched ahead, from the first bytes of line 512. -/
def streamOfLine : StreamGen :=
  { StreamGen.reset with count := 1, ew := 3, bound := true, next := 0x20000,
                         ahead := [{ value := 0, fault := none, line := some 512, pa := 0x20000, stale := false }] }

/-- A TLDM of core 0 that awaits line 512, of which its box takes 64 bytes. -/
def awaitingLine : RobEntry :=
  { id := 0, e := { tcw := 0, addr := 0, base := 0x20000, stride := 0, aux := 1, aux2 := 0, cbr := 0, cvr := 0, step := 0 },
    i := .tldm ⟨0⟩, a := .none, b := .none, c := .none, acc := .none, dest := some 0, slots := 1, frees := 0, sigma := 0, skip := 0,
    eAfter := [], skAfter := [], lfsr := 0,
    env := [(0x20000, 0x2003F)], reads := true, writes := false, phase := .issued, fault := none, result := some (narrowTile 0), qval := none,
    flags := 0, box := none, boxPart := 0, arrived := [], joined := true, await := [512], places := [(0, 0x20000, 64)],
    spans := [(0x20000, 0x20000, 64, false)], bypass := false, request := true, array := none }

/-- Its convoy, over but for line 512, which is on its way. -/
def lineOnWay : Convoy := { convoyOf 0 awaitingLine with open_ := false, ended := true, sent := 1, inFlight := [(0, 512, 0, 0)] }

/-- Core 0 with that TLDM alone in its reorder buffer. -/
def tldmWaiting : State := State.reset.modFe 0 fun fe => { fe with rob := [awaitingLine] }

/-- The line is about to arrive, and slot 0 has fetched ahead from it. -/
def lineArriving : State := { tldmWaiting.modHart 0 0 fun h => { h with sg := [(0, streamOfLine)] } with convoys := [lineOnWay] }

theorem lineArriving_entry : (lineArriving.fe 0).entry (0 % 32) = some awaitingLine := by
  have fe : lineArriving.fe 0 = { State.reset.fe 0 with rob := [awaitingLine] } :=
    State.fe_modFe_same (s := State.reset) 0 fun fe => { fe with rob := [awaitingLine] }
  rw [fe]
  rfl

theorem lineArriving_streams : (lineArriving.hart 0 0).sg = [(0, streamOfLine)] :=
  congrArg Slot.sg (State.hart_modHart_same (s := tldmWaiting) 0 0 fun h => { h with sg := [(0, streamOfLine)] })

/-- Refutes O47: the arrival of a line of a TLDM marks those elements stale that slot 0's streams have fetched ahead from the line, so that their
pops load anew (04 R117, 10 R252); the statement leaves the slot as it was. -/
theorem not_convoySteps : ¬Obligations.ConvoySteps := by
  unfold Obligations.ConvoySteps
  intro steps
  have clean : linePoison awaitingLine 512 0 = none := by decide
  have same : Convoy.sameKey lineOnWay (convoyOf 0 awaitingLine) = true := Convoy.sameKey_self (convoyOf 0 awaitingLine)
  obtain ⟨_, steps⟩ := steps lineArriving 0 0 0 lineOnWay
  obtain ⟨_, _, _, arrival, _⟩ := steps rfl
  have stated := (arrival 0 0 512 0 0 awaitingLine rfl rfl lineArriving_entry rfl rfl rfl same).1 clean
  rw [exec_convoyLineArrival_clean rfl rfl rfl lineArriving_entry rfl rfl rfl same clean, Host.Outcome.next.injEq] at stated
  have streams : ((lineArriving.hart 0 0).hasRead (linePa 512) 256).sg = (lineArriving.hart 0 0).sg := by
    have harts := congrArg (fun t : State => (t.hart 0 0).sg) stated
    simp only [State.modRob, State.hart_modFe, State.hart_modHart_same, State.hart_applyInvals] at harts
    exact harts
  rw [Slot.hasRead, lineArriving_streams] at streams
  exact absurd streams (by decide)

end Sys2Proof.Machine
end

section
/-! SUPPORT. SEND, SENDR and AMSG up to the message that they put into a send queue (12 R307 to R310). -/

namespace Sys2Proof.Machine

open Sys2Proof

variable {s t : State} {a b : BitVec 5} {kind : Nat} {h : Word} {ps : List Word}

@[simp] theorem ni_begun (n u : Nat) : (s.begun n).ni u = s.ni u := rfl

/-- The three forms run one body, on the units of Table 3.11. -/
theorem exec_sendForm {i : Instr} (form : (kind, i) ∈ [(0, Instr.send a b), (1, .sendr a b), (2, .amsg a b)]) :
    exec i s = issue i (if kind = 0 then s.onCoreUC else s.onCore) s (sendBody kind a b (s.modMe Slot.unpark)) := by
  simp only [List.mem_cons, Prod.mk.injEq, List.not_mem_nil, or_false] at form
  rcases form with ⟨rfl, rfl⟩ | ⟨rfl, rfl⟩ | ⟨rfl, rfl⟩ <;> rfl

/-- The rank-table entry that a header's rank has at the sender (R310). -/
def State.lookup (s : State) (h : Word) : Word := fget (s.ni s.cur.unit).rank (wfld h 9 0) 0

/-- The queue of the network on which a form sends. -/
def State.sendQueue (t : State) (kind : Nat) : List Msg := if kind = 1 then (t.ni t.cur.unit).rplQ else (t.ni t.cur.unit).reqQ

/-- The message of a header, the entry found for its rank, and a payload. -/
def State.message (t : State) (kind : Nat) (h e : Word) (ps : List Word) : Msg :=
  { hdr := recordHeader h kind (t.ni t.cur.unit).myrank, stamp := t.mine.step, payload := ps, rank := wfld h 9 0, reply := kind == 1,
    colour := (t.ni t.cur.unit).colour, job := t.mine.job, src := t.cur.unit, slot := t.cur.slot, entry := e }

/-- A message at the end of its network's queue. -/
def State.queuedSend (t : State) (kind : Nat) (m : Msg) : State :=
  t.modNi t.cur.unit fun r => if kind = 1 then { r with rplQ := r.rplQ ++ [m] } else { r with reqQ := r.reqQ ++ [m] }

/-- A header that breaks no rule of its form, for a rank that is mapped (R307, R310). -/
structure HeaderSends (s : State) (kind : Nat) (h : Word) : Prop where
  zero : wfld h 19 10 = 0
  len : wfld h 23 20 ≤ 8
  offset : if kind = 2 then wfld h 33 32 = 0 else wfld h 63 32 = 0
  mapped : rankValid (s.lookup h) = true
  toCore : kind = 2 → rankKind (s.lookup h) = 0

/-- A payload of n words read at an address; with no words nothing is read. -/
structure PayloadRead (s : State) (x n : Nat) (t : State) (ps : List Word) : Prop where
  empty : n = 0 → t = s.begun 4 ∧ ps = []
  words : n ≠ 0 → x % 8 = 0 ∧ loadWords (s.begun 4) x n = .ok (t, ps)

theorem HeaderSends.layout (header : HeaderSends s kind h) : (wfld h 19 10 == 0 && decide (wfld h 23 20 ≤ 8)) = true := by
  rw [header.zero, decide_eq_true header.len]
  rfl

theorem HeaderSends.offsetZero (header : HeaderSends s kind h) : (if kind = 2 then wfld h 33 32 == 0 else wfld h 63 32 == 0) = true := by
  have offset := header.offset
  split
  next active => simpa [active] using offset
  next plain => simpa [plain] using offset

theorem HeaderSends.rank (header : HeaderSends s kind h) :
    (rankValid (s.lookup h) && (kind != 2 || rankKind (s.lookup h) == 0)) = true := by
  rw [header.mapped, Bool.true_and]
  by_cases active : kind = 2
  · simp [header.toCore active]
  · simp [active]

theorem notFull_of_room (room : (t.sendQueue kind).length < if kind = 1 then 4 else 8) :
    (if kind = 1 then decide (4 ≤ (t.ni t.cur.unit).rplQ.length) else decide (8 ≤ (t.ni t.cur.unit).reqQ.length)) = false := by
  rw [State.sendQueue] at room
  split
  next reply => simpa [reply] using room
  next request => simpa [request] using room

theorem PayloadRead.reads {x n : Nat} (payload : PayloadRead s x n t ps) :
    (if n = 0 then .ok (s.begun 4, []) else needAligned x 8 >>= fun _ => loadWords (s.begun 4) x n : Res (State × List Word)) = .ok (t, ps) := by
  split
  next none =>
    obtain ⟨rfl, rfl⟩ := payload.empty none
    rfl
  next some =>
    obtain ⟨aligned, words⟩ := payload.words some
    rw [needAligned_of aligned, res_bind_ok, words]

theorem sendBody_begun {pre : State} (ha : s.me.Holds a h) (hb : s.me.plain b) (header : HeaderSends s kind h)
    (payload : PayloadRead s (s.me.reg b.toNat).toNat (wfld h 23 20) t ps) (cur : t.cur = s.cur)
    (room : (t.sendQueue kind).length < if kind = 1 then 4 else 8) (covered : tfencePending t t.cur.unit t.cur.slot = false) :
    sendBody kind a b pre (s.begun 4) = .ok (t.queuedSend kind (t.message kind h (s.lookup h) ps)) := by
  have lookup : fget (s.ni s.cur.unit).rank (wfld h 9 0) 0 = s.lookup h := rfl
  have notFull := notFull_of_room room
  rw [cur] at notFull
  simp only [sendBody, readX_holds ha, readX_begun hb, State.begun_cur, ni_begun, lookup, needValue_of header.layout, needValue_of header.offsetZero,
    needValue_of header.rank, payload.reads, res_bind_ok, waitTfence_ok covered]
  refine (if_neg (Bool.eq_false_iff.mp notFull)).trans ?_
  rw [State.queuedSend, State.message, cur]

end Sys2Proof.Machine
end

section
/-! The sends: O22. -/

namespace Sys2Proof.Machine

open Sys2Proof

/-- Settles O22: the three forms run one body, which passes its checks (`HeaderSends`, `PayloadRead`) and finds room. -/
theorem sendsComplete : Obligations.SendsComplete := by
  unfold Obligations.SendsComplete
  intro s t a b ps kind i ready ha hb form any core h x n e q zero len offset mapped toCore none some cur room covered m
  rw [exec_sendForm form]
  refine issue_ok ?unit ready ?_
  case unit =>
    split
    next plain => exact any plain
    next other => exact core other
  exact sendBody_begun ⟨ha, rfl⟩ hb ⟨zero, len, offset, mapped, toCore⟩ ⟨none, some⟩ cur room covered

end Sys2Proof.Machine
end

section
/-! SUPPORT. The instructions that take messages, replay them and end a handler, and those of the rank table (12 R303 to R305, R315 to R320). -/

namespace Sys2Proof.Machine

open Sys2Proof

variable {s t : State} {d a b : BitVec 5} {x y : Word} {j : Nat} {m : Msg}

/-! ### RECV and RECVP -/

/-- The first message that the slot may take, with its waits over and its record stored at x (R309, R313, R315). -/
structure Takes (s : State) (x : Word) (j : Nat) (m : Msg) (t : State) : Prop where
  aligned : x.toNat % 16 = 0
  first : findPos (takeable (s.begun 4) s.cur.unit s.cur.slot) (s.ni s.cur.unit).inbox = some j
  message : (s.ni s.cur.unit).inbox[j]? = some m
  clean : m.kind ≠ 3 → rdcClean s s.cur.unit = true
  order : mmrevOk s
  stored : storeWords (if m.kind = 3 then s.begun 4 else (s.begun 4).acquired) x.toNat m.words = .ok t

/-- The inbox without its message j; a replay wake that this lets go is made (R318). -/
def State.taken (t : State) (u j : Nat) : State := replayCheck (t.modNi u fun n => { n with inbox := dropAt n.inbox j }) u

theorem Takes.waits (takes : Takes s x j m t) : (if m.kind = 3 then .ok () else waitAcquire (s.begun 4) 5) = .ok () := by
  split
  · rfl
  next acquires => exact waitAcquire_ok (.inr (takes.clean acquires))

theorem recvBody_takes {poll : Bool} (ha : s.me.Holds a x) (takes : Takes s x j m t) (hd : (t.taken s.cur.unit j).me.free d) :
    recvBody poll d a (s.begun 4) = .ok ((t.taken s.cur.unit j).setX d m.hdr) := by
  have mmrev : waitMmrev (s.begun 4) = .ok () := waitMmrev_ok takes.order
  simp only [recvBody, readX_holds ha, needAligned_of takes.aligned, State.begun_cur, ni_begun, takes.first, takes.message, takes.waits, mmrev,
    takes.stored, res_bind_ok]
  exact writeX_setX hd

theorem recvBody_none {poll : Bool} (ha : s.me.Holds a x) (aligned : x.toNat % 16 = 0)
    (none : findPos (takeable (s.begun 4) s.cur.unit s.cur.slot) (s.ni s.cur.unit).inbox = none) :
    recvBody poll d a (s.begun 4) = if poll then writeX (s.begun 4) d ones64 else .error (.park 8 0 (some 0)) := by
  simp only [recvBody, readX_holds ha, needAligned_of aligned, State.begun_cur, ni_begun, none, res_bind_ok]

/-! ### LOOPBK and HRET -/

/-- The number of records that LOOPBK may replay (R317). -/
theorem replayable {n o : Nat} (most : n ≤ 8) (room : n + o ≤ 64) (r : BitVec 5) :
    needValue (decide (n ≤ 8) && decide (n + o ≤ 64)) r = .ok () :=
  needValue_of (by rw [decide_eq_true most, decide_eq_true room]; rfl) r

section
variable (slot : s.cur.slot = 7) (ha : s.me.Holds a x) (hb : s.me.Holds b y) (aligned : x.toNat % 16 = 0)
include slot ha hb aligned

theorem loopbkBody_arms (zero : y = 0) (room : (s.ni s.cur.unit).inbox.length ≤ 64) : loopbkBody a b (s.begun 4) =
    .ok (replayCheck ((s.begun 4).modNi s.cur.unit fun q => { q with replayarm := true }) s.cur.unit) := by
  have service : ((s.begun 4).cur.slot == 7) = true := beq_iff_eq.mpr slot
  have none : y.toNat = 0 := by rw [zero]; rfl
  have fits : needValue (decide (0 ≤ 8) && decide (0 + ((s.begun 4).ni (s.begun 4).cur.unit).inbox.length ≤ 64)) b = .ok () :=
    replayable (Nat.zero_le 8) (by rw [Nat.zero_add]; exact room) b
  simp only [loopbkBody, need_of service, read2_holds ha hb, needAligned_of aligned, fits, none, ↓reduceIte, res_bind_ok]
  rfl

theorem loopbkBody_replays {ws : List Word} (most : y.toNat ≤ 8) (some : y ≠ 0) (room : y.toNat + (s.ni s.cur.unit).inbox.length ≤ 64)
    (words : loadWords (s.begun 4) x.toNat (10 * y.toNat) = .ok (t, ws))
    (records : ((upTo y.toNat).map fun i => (ws.drop (10 * i)).take 10).all recordOk = true) : loopbkBody a b (s.begun 4) =
    .ok (((upTo y.toNat).map fun i => (ws.drop (10 * i)).take 10).foldl
      (fun t r => enterInbox t s.cur.unit (replayMsg t s.cur.unit r)) t) := by
  have service : ((s.begun 4).cur.slot == 7) = true := beq_iff_eq.mpr slot
  have nonzero : y.toNat ≠ 0 := fun zero => some (BitVec.eq_of_toNat_eq zero)
  have fits : needValue (decide (y.toNat ≤ 8) && decide (y.toNat + ((s.begun 4).ni (s.begun 4).cur.unit).inbox.length ≤ 64)) b = .ok () :=
    replayable most room b
  simp only [loopbkBody, need_of service, read2_holds ha hb, needAligned_of aligned, fits, nonzero, ↓reduceIte, words, need_of records, res_bind_ok]
  rfl

end

theorem exec_hret (ready : s.ready) (core : s.onCore = true) (slot : s.cur.slot = 6) : exec .hret s =
    .next ((s.begun 4).modMe fun h => { Slot.reset with instret := h.instret, held := h.held }) := by
  change execHret s = _
  rw [execHret]
  refine issue_ok core ready ?_
  rw [State.begun_cur, slot]
  rfl

/-! ### RANKGET -/

theorem exec_rankget (ready : s.ready) (core : s.onCore = true) (ha : s.me.Holds a x) (selects : x.toNat ≤ 0x400) (hd : s.me.free d) :
    exec (.rankget d a) s = .next ((s.begun 4).setX d
      (if x.toNat = 0x400 then niStatus (s.ni s.cur.unit) else fget (s.ni s.cur.unit).rank x.toNat 0)) := by
  change execRankget d a s = _
  rw [execRankget]
  refine issue_ok core ready ?_
  simp only [readX_holds ha, needValue_of (decide_eq_true selects), res_bind_ok]
  exact writeX_begun hd

/-! ### RANKSET's operands (R304) -/

/-- What an operand of RANKSET names, with the held-zero bits zero: MYRANK or a rank's entry, of the unit's own interface or of a core's. -/
structure Selects (x : Word) (myrank own : Bool) (core rank : Nat) : Prop where
  zero : x &&& 0xFFFFFFFFFE00F800#64 = 0
  myrank : wbit x 10 = myrank
  own : wbit x 24 = own
  core : wfld x 23 16 = core
  rank : wfld x 9 0 = rank

/-- A bit of a field that is zero. -/
theorem getLsbD_of_wfld_zero {hi lo i : Nat} (zero : wfld x hi lo = 0) (low : lo ≤ i) (high : i ≤ hi) : x.getLsbD i = false := by
  have bit : (wfld x hi lo).testBit (i - lo) = false := by rw [zero, Nat.zero_testBit]
  rw [wfld, fld, Nat.testBit_mod_two_pow, Nat.testBit_div_two_pow, decide_eq_true (show i - lo < hi + 1 - lo by omega), Bool.true_and,
    Nat.sub_add_cancel low] at bit
  exact bit

/-- The held-zero bits of the operand are 15:11 and 63:25. -/
theorem selector_zero (low : wfld x 15 11 = 0) (high : wfld x 63 25 = 0) : x &&& 0xFFFFFFFFFE00F800#64 = 0 := by
  have mask : ∀ i : Fin 64, (0xFFFFFFFFFE00F800#64).getLsbD i = true → 11 ≤ i.val ∧ i.val ≤ 15 ∨ 25 ≤ i.val := by decide
  change _ = 0#64
  refine BitVec.eq_of_getLsbD_eq fun i hi => ?_
  rw [BitVec.getLsbD_and, BitVec.getLsbD_zero, Bool.and_eq_false_iff]
  by_cases held : (0xFFFFFFFFFE00F800#64).getLsbD i = true
  · refine .inl ?_
    rcases mask ⟨i, hi⟩ held with ⟨above, below⟩ | above
    · exact getLsbD_of_wfld_zero low above below
    · exact getLsbD_of_wfld_zero high above (by omega)
  · exact .inr (Bool.eq_false_iff.mpr held)

theorem selects_of_toNat {own core myrank rank : Nat} (fields : x.toNat = own * 2 ^ 24 + core * 2 ^ 16 + myrank * 2 ^ 10 + rank)
    (ho : own < 2) (hc : core < 2 ^ 8) (hm : myrank < 2) (hr : rank < 2 ^ 10) : Selects x (myrank == 1) (own == 1) core rank := by
  refine ⟨selector_zero ?_ ?_, ?_, ?_, ?_, ?_⟩
  · rw [wfld, fld]; omega
  · rw [wfld_top x (by decide)]; omega
  · rw [wbit_eq_div, show x.toNat / 2 ^ 10 % 2 = myrank by omega]
  · rw [wbit_eq_div, show x.toNat / 2 ^ 24 % 2 = own by omega]
  · rw [wfld, fld]; omega
  · rw [wfld, fld]; omega

/-- The interfaces that a unit may name with OWN and CORE. -/
def maySet (u : Nat) (own : Bool) (core : Nat) : Bool := if isCore u then own else if isCmc u then own || core / 16 == u - 192 else !own

/-- A core number that RANKSET allows: 0 with OWN. -/
theorem coreNumber_ok {own : Bool} {core : Nat} (known : core ≤ 191) (ownZero : own = true → core = 0) :
    (decide (core ≤ 191) && (!own || core == 0)) = true := by
  rw [decide_eq_true known]
  cases own
  · rfl
  · rw [ownZero rfl]; rfl

section
variable {own : Bool} {core rank : Nat} (ha : s.me.Holds a x) (hb : s.me.Holds b y) (may : maySet s.cur.unit own core = true)
  (known : core ≤ 191) (ownZero : own = true → core = 0) {u : Nat} (target : (if own then s.cur.unit else core) = u)
include ha hb may known ownZero target

theorem ranksetBody_rank (selects : Selects x false own core rank) (entry : rankOk y = true) :
    ranksetBody a b (s.begun 4) = .ok (writeRank (s.begun 4) u rank y) := by
  rw [maySet] at may
  subst target
  simp only [ranksetBody, read2_holds ha hb, selects.zero, selects.myrank, selects.own, selects.core, selects.rank, State.begun_cur,
    coreNumber_ok known ownZero, needValue_of may, needValue_of entry, beq_self_eq_true, Bool.true_and, Bool.not_false,
    Bool.true_or, needValue_of, Bool.false_eq_true, ↓reduceIte, res_bind_ok]

theorem ranksetBody_myrank (selects : Selects x true own core 0) (short : y.toNat < 2 ^ 10) :
    ranksetBody a b (s.begun 4) = .ok ((s.begun 4).modNi u fun n => { n with myrank := y.setWidth 10 }) := by
  have top : (wfld y 63 10 == 0) = true := by rw [wfld_top y (by decide), Nat.div_eq_of_lt short]; rfl
  have value : BitVec.ofNat 10 (wfld y 9 0) = y.setWidth 10 := by
    rw [ofNat_wfld_div y 0 10 rfl, pow_zero, Nat.div_one]; rfl
  rw [maySet] at may
  subst target
  simp only [ranksetBody, read2_holds ha hb, selects.zero, selects.myrank, selects.own, selects.core, selects.rank, State.begun_cur,
    coreNumber_ok known ownZero, needValue_of may, needValue_of top, beq_self_eq_true, Bool.true_and, Bool.or_true, needValue_of,
    value, ↓reduceIte, res_bind_ok]

end

end Sys2Proof.Machine
end

section
/-! Messages taken and replayed, and the rank table: O23. -/

namespace Sys2Proof.Machine

open Sys2Proof

/-- Settles O23: RECV and RECVP by one body, LOOPBK by its number of records, RANKSET by what its operand selects. -/
theorem receivesAndRanksComplete : Obligations.ReceivesAndRanksComplete := by
  unfold Obligations.ReceivesAndRanksComplete
  intro s t d a b ready ha hb hd x y u inbox
  have hx : s.me.Holds a x := ⟨ha, rfl⟩
  have hy : s.me.Holds b y := ⟨hb, rfl⟩
  refine ⟨?takes, ?none, ?arms, ?replays, exec_hret ready, ?entry, ?status, ?myrank, ?own, ?core⟩
  case takes =>
    intro j m unit aligned first message clean order stored r free
    have takes : Takes s x j m t := ⟨aligned, first, message, clean, order, stored⟩
    exact ⟨issue_ok unit ready (recvBody_takes hx takes free), issue_ok unit ready (recvBody_takes hx takes free)⟩
  case none =>
    intro unit aligned none
    exact ⟨issue_ok unit ready ((recvBody_none (poll := true) hx aligned none).trans (writeX_begun hd)),
      issue_park unit ready (recvBody_none (poll := false) hx aligned none)⟩
  case arms => exact fun unit slot aligned zero room => issue_ok unit ready (loopbkBody_arms slot hx hy aligned zero room)
  case replays =>
    intro ws unit slot aligned most some room words recs records
    exact issue_ok unit ready (loopbkBody_replays slot hx hy aligned most some room words records)
  case entry =>
    intro unit entry
    rw [exec_rankget ready unit hx entry.le hd, if_neg entry.ne]
  case status =>
    intro unit status
    have number : x.toNat = 0x400 := by rw [status]; rfl
    rw [exec_rankget ready unit hx number.le hd, if_pos number]
  case myrank =>
    intro service selects short
    have own : maySet u true 0 = true := if_pos (Bool.and_eq_true_iff.mp service).1
    have fields : Selects x true true 0 0 :=
      selects_of_toNat (own := 1) (myrank := 1) (by rw [selects]; rfl) (by decide) (by decide) (by decide) (by decide)
    exact issue_ok (ok := s.onRankset) (by rw [State.onRankset, service]; rfl) ready
      (ranksetBody_myrank hx hy own (Nat.zero_le _) (fun _ => rfl) rfl fields short)
  case own =>
    intro service selects entry
    have own : maySet u true 0 = true := if_pos (Bool.and_eq_true_iff.mp service).1
    have fields : Selects x false true 0 (x.toNat % 2 ^ 10) :=
      selects_of_toNat (own := 1) (myrank := 0) (by omega) (by decide) (by decide) (by decide) (Nat.mod_lt _ (by decide))
    exact issue_ok (ok := s.onRankset) (by rw [State.onRankset, service]; rfl) ready
      (ranksetBody_rank hx hy own (Nat.zero_le _) (fun _ => rfl) rfl fields entry)
  case core =>
    intro cmc mode known cluster short entry
    have other : ¬isCore u = true := by
      simp only [isCore, isCmc, Bool.and_eq_true, decide_eq_true_eq] at cmc ⊢
      omega
    have ofCluster : maySet u false (x.toNat / 2 ^ 16) = true := by
      rw [maySet, if_neg other, if_pos cmc, cluster, beq_self_eq_true]
      rfl
    have system : s.onRankset = true := by
      rw [State.onRankset, State.onSys, show isCmc s.cur.unit = true from cmc, decide_eq_true mode, Bool.true_or, Bool.and_true, Bool.or_true]
    have fields : Selects x false false (x.toNat / 2 ^ 16) (x.toNat % 2 ^ 10) :=
      selects_of_toNat (own := 0) (myrank := 0) (by omega) (by decide) (by omega) (by decide) (Nat.mod_lt _ (by decide))
    exact issue_ok system ready (ranksetBody_rank hx hy ofCluster (by omega) nofun rfl fields entry)

end Sys2Proof.Machine
end

section
/-! SUPPORT. What the wake of slot 7 leaves alone: memory, and the network interfaces (01 R52, 12 R318). -/

namespace Sys2Proof.Machine

open Sys2Proof

variable {s : State}

theorem ni_modUnit {f : UnitSt → UnitSt} (keeps : ∀ x, (f x).ni = x.ni) (u i : Nat) : (s.modUnit u f).ni i = s.ni i := by
  rcases eq_or_ne i u with rfl | other
  · rw [State.ni, State.unit_modUnit_same, keeps, State.ni]
  · rw [State.ni, State.unit_modUnit_ne _ other, State.ni]

@[simp] theorem ni_modNi_same (u : Nat) (f : Ni → Ni) : (s.modNi u f).ni u = f (s.ni u) := by
  rw [State.ni, State.modNi, State.unit_modUnit_same, State.ni]

section
variable {α : Type} {g : State → α} (hart : ∀ t u k f, g (t.modHart u k f) = g t)
include hart

theorem wakeWfi_keeps (u : Nat) : g (wakeWfi s u) = g s :=
  foldl_keeps g _ (fun t k => by split; exacts [hart .., rfl]) _ _

variable (unit : ∀ (t : State) u (f : UnitSt → UnitSt), (∀ x, (f x).ni = x.ni) → g (t.modUnit u f) = g t)
include unit

theorem enterHandler_keeps (u k cause : Nat) (detail pc : Word) : g (enterHandler s u k cause detail pc) = g s :=
  (hart ..).trans (unit _ _ _ fun _ => rfl)

theorem enterPending_keeps (u : Nat) : g (enterPending s u) = g s := by
  have enters {f : UnitSt → UnitSt} (keeps : ∀ x, (f x).ni = x.ni) (k cause : Nat) (detail pc : Word) :
      g (enterHandler (s.modUnit u f) u k cause detail pc) = g s := (enterHandler_keeps hart unit ..).trans (unit _ _ _ keeps)
  unfold enterPending
  dsimp only
  split
  · rfl
  · split
    · exact enters (by exact fun _ => rfl) ..
    · split
      · exact enters (by exact fun _ => rfl) ..
      · split
        · exact enters (by exact fun _ => rfl) ..
        · rfl

theorem serviceWake_keeps (u : Nat) : g (serviceWake s u) = g s :=
  (enterPending_keeps hart unit u).trans ((wakeWfi_keeps hart u).trans (unit _ _ _ fun _ => rfl))

end

@[simp] theorem serviceWake_ni (u i : Nat) : (serviceWake s u).ni i = s.ni i :=
  serviceWake_keeps (g := fun t => t.ni i) (fun _ _ _ _ => rfl) (fun _ u _ keeps => ni_modUnit keeps u i) u

@[simp] theorem serviceWake_mem (u : Nat) : (serviceWake s u).mem = s.mem :=
  serviceWake_keeps (g := State.mem) (fun _ _ _ _ => rfl) (fun _ _ _ _ => rfl) u

@[simp] theorem replayCheck_inbox (u : Nat) : ((replayCheck s u).ni u).inbox = (s.ni u).inbox := by
  unfold replayCheck
  split
  · dsimp only
    split
    · rw [serviceWake_ni, ni_modNi_same]
    · rw [ni_modNi_same]
  · rfl

@[simp] theorem replayCheck_mem (u : Nat) : (replayCheck s u).mem = s.mem := by
  unfold replayCheck
  split
  · dsimp only
    split
    · exact serviceWake_mem u
    · rfl
  · rfl

end Sys2Proof.Machine
end

section
/-! SUPPORT. The steps of the message system: a message leaves, arrives or enters an inbox, and a handler starts (12 R306, R312 to R319, 20 R446). -/

namespace Sys2Proof.Machine

open Sys2Proof

variable {s t : State} {u j : Nat} {m : Msg} {rest : List Msg} {reply : Bool} {base : Word}

/-! ### A message leaves its send queue -/

/-- A send queue without its head; the wake that a freed entry makes (R321). -/
def State.popped (t : State) (u : Nat) (reply : Bool) (rest : List Msg) : State :=
  sendqFreed (t.modNi u fun q => if reply then { q with rplQ := rest } else { q with reqQ := rest }) u

/-- Only a unit of a job that is being removed owes its record (20 R446). -/
theorem recordOwed_of_not_removing {k : BitVec 16} (stays : removing s k = false) : recordOwed s u k = false := by
  rw [removing, List.any_eq_false] at stays
  rw [recordOwed, List.any_eq_false]
  intro p hp owes
  rw [Bool.and_eq_true] at owes
  exact stays p hp owes.1

section
variable (head : (if reply then (s.ni u).rplQ else (s.ni u).reqQ) = m :: rest) (early : performed s u m.slot = true)
include head early

/-- What the head of a send queue does, once its sender's earlier accesses have performed. -/
theorem exec_messageInject : exec (.messageInject u reply) s = .next
    (if recordOwed s u m.job then s
     else if removing s m.job then (dropForJob s m.job).popped u reply rest
     else if rankTransit m.entry then
       if rankTransit (fget (s.ni u).rank m.rank 0) then
         if (s.ni u).heldBuf.length < 16 then (s.modNi u fun q => { q with heldBuf := q.heldBuf ++ [m] }).popped u reply rest else s
       else (injectTo s u m (fget (s.ni u).rank m.rank 0)).popped u reply rest
     else (injectTo s u m m.entry).popped u reply rest) := by
  change execMessageInject u reply s = _
  simp only [execMessageInject, head, early, Bool.not_true, Bool.false_or, State.popped, apply_ite Host.Outcome.next]

theorem exec_messageInject_removed (removed : removing s m.job = true) : exec (.messageInject u reply) s =
    .next (if recordOwed s u m.job then s else (dropForJob s m.job).popped u reply rest) := by
  rw [exec_messageInject head early, removed, if_pos rfl]

variable (stays : removing s m.job = false)
include stays

theorem exec_messageInject_leaves (placed : rankTransit m.entry = false) :
    exec (.messageInject u reply) s = .next ((injectTo s u m m.entry).popped u reply rest) := by
  rw [exec_messageInject head early, recordOwed_of_not_removing stays, stays, placed]
  rfl

theorem exec_messageInject_held (transit : rankTransit m.entry = true) (still : rankTransit (fget (s.ni u).rank m.rank 0) = true)
    (room : (s.ni u).heldBuf.length < 16) : exec (.messageInject u reply) s =
    .next ((s.modNi u fun q => { q with heldBuf := q.heldBuf ++ [m] }).popped u reply rest) := by
  rw [exec_messageInject head early, recordOwed_of_not_removing stays, stays, transit, still, if_pos room]
  rfl

end

/-! ### It arrives -/

theorem exec_messageArrival {src dst vn : Nat} (net : vn ≤ 1)
    (oldest : findPos (fun f : Flight => f.msg.src == src && f.dst == dst && f.msg.reply == (vn == 1)) s.mesh = some j)
    (flight : s.mesh[j]? = some { msg := m, dst := dst }) : exec (.messageArrival src dst vn) s =
    .next (if removing s m.job then dropForJob { s with mesh := dropAt s.mesh j } m.job else arriveMsg { s with mesh := dropAt s.mesh j } dst m) := by
  change execMessageArrival src dst vn s = _
  simp only [execMessageArrival, oldest, flight, gt_iff_lt, if_neg (Nat.not_lt.mpr net), apply_ite Host.Outcome.next]

theorem exec_inboxHeldEntry_reply (taken : heldTaken s u true = some t) : exec (.inboxHeldEntry u) s = .next t := by
  change execInboxHeldEntry u s = _
  simp only [execInboxHeldEntry, taken]

theorem exec_inboxHeldEntry_request (none : heldTaken s u true = none) (taken : heldTaken s u false = some t) :
    exec (.inboxHeldEntry u) s = .next t := by
  change execInboxHeldEntry u s = _
  simp only [execInboxHeldEntry, none, taken]

/-! ### A handler starts (R319) -/

/-- The handler's record, out of the inbox and in its place in the core store. -/
def State.recordGiven (s : State) (u j : Nat) (m : Msg) : State :=
  let a := storeBase u + 0x6FF80
  replayCheck (((s.modNi u fun n => { n with inbox := dropAt n.inbox j }).put a 80 m.bits).wrote noHart (lineOf a)) u

/-- Slot 6 as a handler finds it. -/
def Slot.handling (h : Slot) (m : Msg) (base : Word) : Slot :=
  { Slot.reset with
    x := [(10, m.hdr), (11, w64 (coreWindow + 0x6FF80))], active := true, pc := base + w64 (wfld m.hdr 63 32),
    instret := h.instret, held := h.held }

theorem ni_wrote_put (a n v who line i : Nat) : ((s.put a n v).wrote who line).ni i = s.ni i := rfl
theorem mem_wrote_put (a n v who line : Nat) : ((s.put a n v).wrote who line).mem = memPut s.mem (s.cell a) n v := rfl
theorem mem_modNi (f : Ni → Ni) : (s.modNi u f).mem = s.mem := rfl

theorem State.recordGiven_inbox : ((s.recordGiven u j m).ni u).inbox = dropAt (s.ni u).inbox j := by
  rw [State.recordGiven, replayCheck_inbox, ni_wrote_put, ni_modNi_same]

theorem State.recordGiven_mem : (s.recordGiven u j m).mem = memPut s.mem (storeBase u + 0x6FF80) 80 m.bits := by
  have place (t : State) : t.cell (storeBase u + 0x6FF80) = storeBase u + 0x6FF80 := State.cell_of_store t (by rw [storeBase]; omega)
  rw [State.recordGiven, replayCheck_mem, mem_wrote_put, place, mem_modNi]

/-- The record's header in x10 and its address in x11, and 0 in the other registers. -/
theorem Slot.handling_regs (h : Slot) : (h.handling m base).reg 10 = m.hdr ∧ (h.handling m base).reg 11 = 0x00FFFF000006FF80#64
    ∧ ∀ i, i ≠ 10 → i ≠ 11 → (h.handling m base).reg i = 0 := by
  refine ⟨rfl, rfl, fun i other next => ?_⟩
  rw [Slot.reg]
  split
  · rfl
  · simp only [Slot.handling, fget, other.symm, next.symm, ↓reduceIte]

theorem Slot.handling_stat (h : Slot) : statWord (h.handling m base) = 1 := by
  simp [statWord, Slot.handling, Slot.reset, put, bitAt, b2n]

theorem exec_handlerStart (core : isCore u = true) (idle : (s.hart u 6).active = false) (runs : (s.unit u).stopped = false)
    (stays : removing s (s.unit u).job = false) (clean : rdcClean s u = true)
    (first : findPos (fun m : Msg => m.kind == 2 && !guarded s u m) (s.ni u).inbox = some j) (message : (s.ni u).inbox[j]? = some m)
    (code : codeBase? s (s.unit u).job = some base) :
    exec (.handlerStart u) s = .next ((s.recordGiven u j m).modHart u 6 fun h => h.handling m base) := by
  change execHandlerStart u s = _
  rw [State.ni] at first message
  simp only [execHandlerStart, first, message, code, core, idle, runs, stays, clean, Bool.not_true, Bool.or_false, Bool.false_eq_true, ↓reduceIte]
  rfl

end Sys2Proof.Machine
end

section
/-! The steps of the message system: O24. -/

namespace Sys2Proof.Machine

open Sys2Proof

/-- Settles O24: each step by its own lemma; a handler finds slot 6 as `Slot.handling` says and its record as `State.recordGiven` does. -/
theorem messageSteps : Obligations.MessageSteps := by
  unfold Obligations.MessageSteps
  intro s t u m rest base pop
  refine ⟨fun removed => ⟨?dropped, ?lost⟩,
    fun stays => ⟨?leaves, ?held, ?arrives, exec_inboxHeldEntry_reply, exec_inboxHeldEntry_request, ?handler⟩⟩
  case dropped => exact fun reply head early => exec_messageInject_removed head early removed
  case lost =>
    intro src dst vn j net oldest flight
    rw [exec_messageArrival net oldest flight, if_pos removed]
  case leaves => exact fun reply head early placed => exec_messageInject_leaves head early stays placed
  case held => exact fun reply head early transit still room => exec_messageInject_held head early stays transit still room
  case arrives =>
    intro src dst vn j net oldest flight
    rw [exec_messageArrival net oldest flight, stays]
    rfl
  case handler =>
    intro j core idle runs kept clean first message code
    have slot : (((s.recordGiven u j m).modHart u 6 fun h => h.handling m base).hart u 6) = ((s.recordGiven u j m).hart u 6).handling m base :=
      State.hart_modHart_same ..
    refine ⟨_, exec_handlerStart core idle runs kept clean first message code, ?_⟩
    rw [slot]
    obtain ⟨header, place, others⟩ := Slot.handling_regs (m := m) (base := base) ((s.recordGiven u j m).hart u 6)
    exact ⟨rfl, rfl, header, place, others, Slot.handling_stat _, rfl, rfl, rfl, fun _ => rfl, State.recordGiven_inbox, State.recordGiven_mem⟩

end Sys2Proof.Machine
end

section
/-! SUPPORT. The barrier records of a unit, the instructions on them, and WAITA (12 R323 to R329). -/

namespace Sys2Proof.Machine

open Sys2Proof

variable {s t : State} {d a b : BitVec 5} {x y : Word}

@[simp] theorem barrier_begun (k u n : Nat) : (s.begun k).barrier u n = s.barrier u n := rfl

theorem barrier_setBarrier_same (u n : Nat) (r : Barrier) : (s.setBarrier u n r).barrier u n = r := by
  rw [State.barrier, State.setBarrier, State.unit_modUnit_same]
  exact fget_fset_same ..

theorem barrier_setBarrier_ne {u i n : Nat} (r : Barrier) (other : i ≠ u) : (s.setBarrier u n r).barrier i n = s.barrier i n := by
  rw [State.barrier, State.setBarrier, State.unit_modUnit_ne _ other, State.barrier]

/-- Record n of the executing core. -/
abbrev State.record (s : State) (n : Nat) : Barrier := s.barrier s.cur.unit n

/-! ### Operands -/

theorem barrierOf_begun (ha : s.me.Holds a x) (number : x.toNat < 2 ^ 8) : barrierOf (s.begun 4) a = .ok (s.begun 4, x.toNat) := by
  have top : (wfld x 63 8 == 0) = true := by rw [wfld_top x (by decide), Nat.div_eq_of_lt number]; rfl
  simp only [barrierOf, readX_holds ha, needValue_of top, res_bind_ok]

theorem barrierOf_off (ha : s.me.Holds a x) (large : 2 ^ 8 ≤ x.toNat) : barrierOf (s.begun 4) a = .error (.trap cIllegal a.toNat) := by
  have top : (wfld x 63 8 == 0) = false := by
    rw [wfld_top x (by decide)]
    exact beq_false_of_ne (Nat.ne_of_gt (Nat.div_pos large (by decide)))
  simp only [barrierOf, readX_holds ha, needValue_off top, res_bind_ok, res_bind_error]

/-- A phase as an operand. -/
theorem phase_operand (phase : y.toNat < 2) : wfld y 63 1 = 0 ∧ wbit y 0 = (y == 1) ∧ BitVec.ofNat 6 (wfld y 0 0) = y.setWidth 6 := by
  obtain rfl | rfl : y = 0#64 ∨ y = 1#64 := by bv_omega
  · decide
  · decide

/-! ### BCFG and BSTAT -/

section
variable (ready : s.ready) (core : s.onCore = true) (ha : s.me.Holds a x)
include ready core ha

section
variable (number : x.toNat < 2 ^ 8)
include number

theorem exec_bcfg (hb : s.me.Holds b y) (short : y.toNat < 2 ^ 16) (member : y = 0 ∨ y.setWidth 16 &&& coreBit s.cur.unit ≠ 0) :
    exec (.bcfg a b) s = if (s.record x.toNat).arr = 0 ∧ (s.record x.toNat).narr = 0 then
      .next ((s.begun 4).setBarrier s.cur.unit x.toNat { Barrier.reset with mask := y.setWidth 16 })
    else .next (s.trapped cBarrierMisuse x.toNat (.bcfg a b)) := by
  have top : (wfld y 63 16 == 0) = true := by rw [wfld_top y (by decide), Nat.div_eq_of_lt short]; rfl
  have mask : (y.setWidth 16 == 0 || y.setWidth 16 &&& coreBit s.cur.unit != 0) = true := by
    rcases member with rfl | own
    · rfl
    · rw [bne_iff_ne.mpr own, Bool.or_true]
  change execBcfg a b s = _
  rw [execBcfg]
  split
  next idle =>
    obtain ⟨arr, narr⟩ := idle
    refine issue_ok core ready ?_
    simp only [barrierOf_begun ha number, readX_holds hb, State.begun_cur, barrier_begun, top, mask, needValue_of, arr, narr, beq_self_eq_true,
      Bool.and_self, need_true, res_bind_ok]
  next busy =>
    have misuse : ((s.record x.toNat).arr == 0 && (s.record x.toNat).narr == 0) = false := by
      simpa using busy
    refine issue_trap core ready ?_
    simp only [barrierOf_begun ha number, readX_holds hb, State.begun_cur, barrier_begun, top, mask, needValue_of, misuse,
      Bool.and_self, need_false, res_bind_ok, res_bind_error]

theorem exec_bstat (hd : s.me.free d) :
    exec (.bstat d a) s = .next ((s.begun 4).setX d (s.record x.toNat).word) := by
  change execBstat d a s = _
  rw [execBstat]
  refine issue_ok core ready ?_
  simp only [barrierOf_begun ha number, res_bind_ok, State.begun_cur, barrier_begun]
  exact writeX_begun hd

end

theorem exec_bstat_off (large : 2 ^ 8 ≤ x.toNat) : exec (.bstat d a) s = .next (s.trapped cIllegal a.toNat (.bstat d a)) := by
  change execBstat d a s = _
  rw [execBstat]
  refine issue_trap core ready ?_
  simp only [barrierOf_off ha large, res_bind_error]

end

/-! ### BARR and BARW (R326) -/

/-- The executing core may arrive: it is a member, with no arrival of its own counted for its phase. -/
def State.mayArrive (s : State) (n : Nat) : Prop :=
  let r := s.record n
  r.mask &&& coreBit s.cur.unit ≠ 0 ∧ (if r.myph = r.phase then r.arr else r.narr) &&& coreBit s.cur.unit = 0

/-- The executing core's arrival at barrier n, told to every member. -/
def State.arrived (s : State) (n : Nat) : State :=
  let u := s.cur.unit
  let r := s.barrier u n
  ((upTo 16).filter fun i => r.mask.getLsbD i).foldl (fun t i => barrierReach t s.mine.job (u / 16 * 16 + i) n (coreBit u) r.myph)
    (s.setBarrier u n { r with myph := !r.myph })

theorem arriveAt_ok {n : Nat} (may : s.mayArrive n) : arriveAt s n = .ok (s.arrived n, (s.record n).myph) := by
  obtain ⟨member, fresh⟩ := may
  simp only [arriveAt, need_of (bne_iff_ne.mpr member), need_of (beq_iff_eq.mpr fresh), res_bind_ok, State.arrived]

theorem arriveAt_misuse {n : Nat} (mayNot : ¬s.mayArrive n) : arriveAt s n = .error (.trap cBarrierMisuse n) := by
  simp only [arriveAt]
  by_cases member : (s.record n).mask &&& coreBit s.cur.unit = 0
  · simp only [member, bne_self_eq_false, need_false, res_bind_error]
  · have counted : ¬(if (s.record n).myph = (s.record n).phase then (s.record n).arr
        else (s.record n).narr) &&& coreBit s.cur.unit = 0 := fun fresh => mayNot ⟨member, fresh⟩
    simp only [need_of (bne_iff_ne.mpr member), beq_false_of_ne counted, need_false, res_bind_ok, res_bind_error]

theorem arriveAt_begun {n : Nat} (may : s.mayArrive n) :
    arriveAt (s.begun 4) n = .ok ((s.begun 4).arrived n, (s.record n).myph) := arriveAt_ok may

theorem arriveAt_begun_misuse {n : Nat} (mayNot : ¬s.mayArrive n) :
    arriveAt (s.begun 4) n = .error (.trap cBarrierMisuse n) := arriveAt_misuse mayNot

/-- The executing core has arrived at barrier n, and xd holds the phase for which it did. -/
def State.arrivedInto (s : State) (d : BitVec 5) (n : Nat) : State :=
  ((s.begun 4).arrived n).setX d (if (s.record n).myph then 1 else 0)

theorem writeX_phase {n : Nat} (hd : ((s.begun 4).arrived n).me.free d) :
    writeX ((s.begun 4).arrived n) d (w64 (b2n (s.record n).myph)) = .ok (s.arrivedInto d n) := by
  rw [writeX_setX hd, State.arrivedInto]
  cases (s.record n).myph <;> rfl

theorem parked_ok {code await : Nat} {on : Option Nat} (slot : s.cur.slot ≠ 6) : parked s code await on = .ok ((s.again 4).modMe fun h =>
    { h with park := BitVec.ofNat 4 code, await := BitVec.ofNat 6 await, waitOn := on, woken := false, resv := none }) := by
  rw [parked, beq_false_of_ne slot, Bool.and_false]
  rfl

section
variable (ready : s.ready) (core : s.onCore = true) (ha : s.me.Holds a x)
include ready core ha

section
variable (number : x.toNat < 2 ^ 8)
include number

theorem exec_barr (may : s.mayArrive x.toNat) (hd : ((s.begun 4).arrived x.toNat).me.free d) :
    exec (.barr d a) s = .next (s.arrivedInto d x.toNat) := by
  change execBarr d a s = _
  rw [execBarr]
  refine issue_ok core ready ?_
  simp only [barrierOf_begun ha number, arriveAt_begun may, res_bind_ok]
  exact writeX_phase hd

theorem exec_barr_misuse (mayNot : ¬s.mayArrive x.toNat) :
    exec (.barr d a) s = .next (s.trapped cBarrierMisuse x.toNat (.barr d a)) := by
  change execBarr d a s = _
  rw [execBarr]
  refine issue_trap core ready ?_
  simp only [barrierOf_begun ha number, arriveAt_begun_misuse mayNot, res_bind_ok, res_bind_error]

/-- BARW arrives, and waits if the phase has not ended by then. -/
theorem exec_barw (may : s.mayArrive x.toNat) (hd : ((s.begun 4).arrived x.toNat).me.free d)
    (cur : ((s.begun 4).arrived x.toNat).cur = s.cur) (fresh : s.me.park ≠ 3) (slot : s.cur.slot ≠ 6) :
    exec (.barw d a) s = .next (if ((s.arrivedInto d x.toNat).barrier s.cur.unit x.toNat).phase ≠ (s.record x.toNat).myph then
        s.arrivedInto d x.toNat
      else ((s.arrivedInto d x.toNat).again 4).modMe fun h =>
        { h with park := 3, await := BitVec.ofNat 6 (32 + b2n (s.record x.toNat).myph), waitOn := some x.toNat, woken := false,
                 resv := none }) := by
  have here : (s.arrivedInto d x.toNat).cur = s.cur := cur
  change execBarw d a s = _
  rw [execBarw]
  refine issue_ok core ready ?_
  rw [if_neg fun back => fresh back.1]
  simp only [barwBody, State.begun_cur, need_of (bne_iff_ne.mpr slot), barrierOf_begun ha number, arriveAt_begun may, res_bind_ok, writeX_phase hd,
    here]
  split
  next ended => rw [if_pos (bne_iff_ne.mp ended)]
  next lasts => rw [if_neg fun ended => lasts (bne_iff_ne.mpr ended), parked_ok (here ▸ slot)]; rfl

end

/-- BARW that comes back from its park. -/
theorem exec_barw_back (park : s.me.park = 3) (waits : s.me.await.getLsbD 5 = true)
    (ended : s.me.waitOn ≠ none ∨ (s.record x.toNat).phase ≠ s.me.await.getLsbD 0) : exec (.barw d a) s = .next (s.begun 4) := by
  change execBarw d a s = _
  rw [execBarw]
  refine issue_ok core ready ?_
  rw [if_pos ⟨park, waits⟩, barwBack, State.begun_reg, ha.value, State.begun_cur, barrier_begun]
  exact if_neg (not_and_or.mpr ended)

theorem exec_barw_waits_on (park : s.me.park = 3) (waits : s.me.await.getLsbD 5 = true) (lost : s.me.waitOn = none)
    (lasts : (s.record x.toNat).phase = s.me.await.getLsbD 0) (slot : s.cur.slot ≠ 6) :
    exec (.barw d a) s = .next (s.modMe fun h => { h with waitOn := some x.toNat, woken := false, resv := none }) := by
  change execBarw d a s = _
  rw [execBarw]
  refine (issue_park (c := 3) (a := s.me.await.toNat) (on := some x.toNat) core ready ?_ slot).trans (congrArg _ (State.modMe_congr ?_))
  · rw [if_pos ⟨park, waits⟩, barwBack, State.begun_reg, ha.value, State.begun_cur, barrier_begun]
    exact if_pos ⟨lost, lasts⟩
  · rw [BitVec.ofNat_toNat, BitVec.setWidth_eq, park]; rfl

/-! ### BWAIT (R328) -/

section
variable (number : x.toNat < 2 ^ 8) (hb : s.me.Holds b y) (phase : y.toNat < 2)
include number hb phase

theorem exec_bwait_ended (ended : (s.record x.toNat).phase ≠ (y == 1)) : exec (.bwait a b) s = .next (s.begun 4) := by
  obtain ⟨top, bit, _⟩ := phase_operand phase
  change execBwait a b s = _
  rw [execBwait]
  refine issue_ok core ready ?_
  simp only [barrierOf_begun ha number, readX_holds hb, top, needValue_of, beq_self_eq_true, res_bind_ok, bit, State.begun_cur, barrier_begun,
    bne_iff_ne.mpr ended, ↓reduceIte]

theorem exec_bwait_parks (lasts : (s.record x.toNat).phase = (y == 1)) (slot : s.cur.slot ≠ 6) :
    exec (.bwait a b) s = .next (s.modMe fun h =>
      { h with park := 3, await := y.setWidth 6, waitOn := some x.toNat, woken := false, resv := none }) := by
  obtain ⟨top, bit, await⟩ := phase_operand phase
  rw [← await]
  change execBwait a b s = _
  rw [execBwait]
  refine issue_park (c := 3) (a := wfld y 0 0) (on := some x.toNat) core ready ?_ slot
  simp only [barrierOf_begun ha number, readX_holds hb, top, needValue_of, beq_self_eq_true, res_bind_ok, bit, State.begun_cur, barrier_begun,
    lasts, bne_self_eq_false, Bool.false_eq_true, ↓reduceIte]

end

end

/-! ### WAITA (R323) -/

theorem exec_waita_hit {l : Nat} (ready : s.ready) (unit : s.onCoreUC = true) (ha : s.me.Holds a x)
    (line : watchedLine (s.begun 4) x.toNat = .ok (t, l)) (watched : t.me.wline = some l) (hit : t.me.whit = true)
    (clean : rdcClean t t.cur.unit = true) : exec (.waita a) s = .next t.acquired := by
  change execWaita a s = _
  refine issue_ok unit ready ?_
  simp only [waitaBody, readX_holds ha, line, watched, hit, waitAcquire_ok (.inr clean), and_self, ↓reduceIte, res_bind_ok]

/-! ### Releases (R327) -/

/-- A record after its release. -/
def Barrier.released (r : Barrier) : Barrier := { r with phase := !r.phase, arr := r.narr, narr := 0 }

def State.releaseBarrier (t : State) (u n : Nat) : State := t.setBarrier u n (t.barrier u n).released

theorem releaseBarriers_other {us : List Nat} {u n : Nat} (out : u ∉ us) :
    (us.foldl (fun (t : State) u => t.releaseBarrier u n) s).barrier u n = s.barrier u n :=
  List.foldlRecOn (motive := fun t : State => t.barrier u n = s.barrier u n) us _ rfl
    fun _ ih k hk => (barrier_setBarrier_ne _ fun (e : u = k) => out (e ▸ hk)).trans ih

/-- Every record of a list of units is released once. -/
theorem releaseBarriers_mem {us : List Nat} {u n : Nat} (once : us.Nodup) (hu : u ∈ us) :
    (us.foldl (fun (t : State) u => t.releaseBarrier u n) s).barrier u n = (s.barrier u n).released := by
  induction us generalizing s with
  | nil => cases hu
  | cons k us ih =>
    obtain ⟨fresh, once⟩ := List.nodup_cons.mp once
    rcases List.mem_cons.mp hu with rfl | later
    · exact (releaseBarriers_other fresh).trans (barrier_setBarrier_same ..)
    · have apart : u ≠ k := fun e => fresh (e ▸ later)
      rw [List.foldl_cons, ih once later, State.releaseBarrier, barrier_setBarrier_ne _ apart]

/-- The member records of a cluster that are due. -/
def dueUnits (s : State) (c n : Nat) : List Nat := ((upTo 16).map (· + 16 * c)).filter fun u => (s.barrier u n).due

theorem dueUnits_nodup (c n : Nat) : (dueUnits s c n).Nodup :=
  (List.nodup_range.map fun _ _ e => Nat.add_right_cancel e).filter _

theorem mem_dueUnits {c n k : Nat} (member : k < 16) (due : (s.barrier (16 * c + k) n).due = true) : 16 * c + k ∈ dueUnits s c n :=
  List.mem_filter.mpr ⟨List.mem_map.mpr ⟨k, List.mem_range.mpr member, Nat.add_comm ..⟩, due⟩

theorem exec_barrierRelease {c n : Nat} (cluster : c < 12) :
    exec (.barrierRelease c n) s = .next ((dueUnits s c n).foldl (fun (t : State) u => t.releaseBarrier u n) s) := by
  change execBarrierRelease c n s = _
  simp only [execBarrierRelease, if_pos cluster]
  rfl

end Sys2Proof.Machine
end

section
/-! The barrier instructions and WAITA: O25. -/

namespace Sys2Proof.Machine

open Sys2Proof

/-- Settles O25: the instructions by the record that their operand names, an arrival as `State.arrived`, a release by each record's own. -/
theorem barrierInstructionsComplete : Obligations.BarrierInstructionsComplete := by
  unfold Obligations.BarrierInstructionsComplete
  intro s t d a b ready core ha hb hd n y u r mine arrived mayArrive
  have hx : s.me.Holds a (s.me.reg a.toNat) := ⟨ha, rfl⟩
  have hy : s.me.Holds b y := ⟨hb, rfl⟩
  refine ⟨?bcfg, ?busy, ?barr, exec_barr_misuse ready core hx, ?barw, ?back, fun number => exec_bwait_ended ready core hx number hy,
    fun number => exec_bwait_parks ready core hx number hy, fun number => exec_bstat ready core hx number hd, exec_bstat_off ready core hx,
    ?waita, ?release⟩
  case bcfg =>
    intro number short member arr narr
    rw [exec_bcfg ready core hx number hy short member, if_pos ⟨arr, narr⟩]
  case busy =>
    intro number zero busy
    have short : y.toNat < 2 ^ 16 := by rw [zero]; decide
    rw [exec_bcfg ready core hx number hy short (.inl zero), if_neg (not_and_or.mpr busy)]
  case barr => exact fun number may free => exec_barr ready core hx number may free
  case barw =>
    intro number may free cur fresh slot v
    have arrives := exec_barw ready core hx number may free cur (by rw [fresh]; decide) slot
    exact ⟨fun ended => arrives.trans (congrArg _ (if_pos ended)), fun lasts => arrives.trans (congrArg _ (if_neg (not_not_intro lasts)))⟩
  case back =>
    intro park waits
    exact ⟨exec_barw_back ready core hx park waits, exec_barw_waits_on ready core hx park waits⟩
  case waita =>
    intro l line watched hit clean
    have unit : s.onCoreUC = true := by rw [State.onCoreUC, State.onCoreU, show isCore s.cur.unit = true from core]; rfl
    exact exec_waita_hit ready unit hx line watched hit clean
  case release =>
    intro c m cluster
    exact ⟨_, exec_barrierRelease cluster, fun k member due => releaseBarriers_mem (dueUnits_nodup c m) (mem_dueUnits member due)⟩

end Sys2Proof.Machine
end

section
/-! SUPPORT. The parts of a range instruction: its checks at the home slice, its fence, its broadcast, and the drain that ends it (15 R353, R354). -/

namespace Sys2Proof.Machine

open Sys2Proof

variable {s t : State} {i : Instr} {first : State → Res State} {n : Nat} {job : BitVec 16} {vbase : Option Nat} {off : Option Word}
  {spans : List (Nat × Nat)}

/-! ### Checks and fence -/

/-- An aligned block of n bytes lies where R354 allows it, and has been read with t after it. -/
structure BlockRead (s : State) (pa n : Nat) (t : State) (ws : List Word) : Prop where
  place : homePaOk s pa n = true
  last : backed s (pa + n - 1) = true
  words : homeBlock s pa n = .ok (t, ws)

theorem BlockRead.placed {pa : Nat} {ws : List Word} (h : BlockRead s pa n t ws) : needHomePa s pa n = .ok () :=
  need_of (by rw [h.place, h.last]; rfl) _

theorem fenceSystem_ok (order : orderOk s 6 true true) : fenceSystem s = .ok s.acquired := by
  simp only [fenceSystem, waitRelease_ok (order.1 rfl), waitAcquire_ok (order.2 rfl), res_bind_ok]

/-! ### The broadcast -/

/-- An instruction that has sent its broadcast is back at its PC, and waits in the pipe for all that has been sent. -/
theorem sendAndWait_sent (t : State) (b : Bcast) (job : BitVec 16) (vbase : Option Nat) (off : Option Word) (spans : List (Nat × Nat)) :
    let f := sendAndWait t b job vbase off spans
    f.bcasts = t.bcasts ++ [b] ∧ f.mem = t.mem ∧ f.me.pc = t.me.pc - 4 ∧ f.me.pipe = .broadcast (t.bcasts.length + 1) job vbase off spans
      ∧ f.units = t.units := by
  refine ⟨rfl, rfl, ?_, ?_, rfl⟩
  · rw [sendAndWait, State.me_modMe, State.again, State.me_modMe]
    rfl
  · rw [sendAndWait, State.me_modMe, State.broadcast, List.length_append, List.length_singleton]

/-! ### The drain -/

@[simp] theorem State.begun_hart_pipe (n u k : Nat) : ((s.begun n).hart u k).pipe = (s.hart u k).pipe := by
  by_cases own : hartKey u k = hartKey s.cur.unit s.cur.slot
  · rw [State.hart, State.hart, own]
    exact State.begun_pipe n
  · rw [State.hart_begun_ne own]

/-- What an instruction changes as it begins is none of the drain rule's. -/
theorem drained_begun (k lo hi : Nat) (destOnly : Bool) : drained (s.begun k) job vbase off lo hi n destOnly = drained s job vbase off lo hi n destOnly := by
  have lines : pairLines (s.begun k) = pairLines s := by
    funext u
    simp only [pairLines, State.begun_hart_pipe]
  simp only [drained, inFlight, lines]
  rfl

theorem drainDone_begun (sent : s.me.pipe = .broadcast n job vbase off spans) (seen : allSeen s n = true)
    (clear : ∀ p ∈ spans, drained s job vbase off p.1 p.2 n false = true) :
    drainDone (s.begun 4) = .ok ((s.begun 4).modMe fun h => { h with pipe := .idle }) := by
  have all : (spans.all fun p => drained (s.begun 4) job vbase off p.1 p.2 n false) = true :=
    List.all_eq_true.mpr fun p listed => (drained_begun ..).trans (clear p listed)
  simp only [drainDone, State.begun_pipe, sent]
  exact if_pos (Bool.and_eq_true_iff.mpr ⟨seen, all⟩)

section
variable (ready : s.ready) (sys : s.onSys = true)
include ready sys

theorem rangeInstr_first (idle : s.me.pipe = .idle) (sends : first (s.begun 4) = .ok t) : rangeInstr i s first = .next t := by
  refine issue_ok sys ready ?_
  simp only [State.begun_pipe, idle, sends]

theorem rangeInstr_end (sent : s.me.pipe = .broadcast n job vbase off spans) (seen : allSeen s n = true)
    (clear : ∀ p ∈ spans, drained s job vbase off p.1 p.2 n false = true) :
    rangeInstr i s first = .next ((s.begun 4).modMe fun h => { h with pipe := .idle }) := by
  refine issue_ok sys ready ?_
  simp only [State.begun_pipe, sent, drainDone_begun sent seen clear]

end

/-- The five instructions that send a broadcast and wait for it. -/
theorem exec_rangeForm {a c : BitVec 5} (form : i ∈ ([.rins a, .rsplit a c, .rmerge a c, .rinval a, .rres a c] : List Instr)) :
    ∃ first, exec i s = rangeInstr i s first := by
  simp only [List.mem_cons, List.not_mem_nil, or_false] at form
  rcases form with rfl | rfl | rfl | rfl | rfl
  all_goals exact ⟨_, rfl⟩

end Sys2Proof.Machine
end

section
/-! SUPPORT. RINS, RSPLIT, RMERGE, RRES and RINVAL up to their broadcast, and RPROBE (15 R355 to R359). -/

namespace Sys2Proof.Machine

open Sys2Proof

variable {s t q : State} {d a c : BitVec 5} {e u n : RangeEntry} {ws : List Word}

/-- The descriptor u of the upper part, invalid and else as that of the merged range e says (R357). -/
structure MergesInto (e u : RangeEntry) : Prop where
  above : e.vbase < u.vbase
  vlimit : u.vlimit = e.vlimit
  offset : u.offset = e.offset
  window : u.nowin = true ∧ e.nowin = true ∨ u.wholeWindow = true ∧ e.wholeWindow = true
  state : u.state = stInvalid
  job : u.job = e.job
  r : u.r = e.r
  w : u.w = e.w
  x : u.x = e.x
  s : u.s = e.s
  n : u.n = e.n

theorem MergesInto.windows (h : MergesInto e u) : (u.nowin && e.nowin || u.wholeWindow && e.wholeWindow) = true := by
  simpa using h.window

section
variable (ready : s.ready) (sys : s.onSys = true) (ha : s.me.plain a)
include ready sys ha

section
variable (idle : s.me.pipe = .idle)
include idle

section
variable (desc : normalDesc (s.begun 4) (s.me.reg a.toNat).toNat = .ok (t, e))
include desc

theorem exec_rins (order : orderOk t 6 true true) :
    exec (.rins a) s = .next (sendAndWait t.acquired (.drop e.job e.vbase e.last) e.job none none
      ((e.vbase, e.last) :: staleSpans t.acquired e)) := by
  refine rangeInstr_first ready sys idle ?_
  simp only [rinsBody, readX_begun ha, desc, fenceSystem_ok order, res_bind_ok]

theorem exec_rsplit (hc : s.me.plain c) (order : orderOk t 6 true true) (aligned : (s.me.reg c.toNat).toNat % 256 = 0)
    (next : e.vlimit + 256 = (s.me.reg c.toNat).toNat) :
    exec (.rsplit a c) s = .next (sendAndWait t.acquired (.split e (s.me.reg c.toNat).toNat
      (((walk? t.acquired (s.me.reg c.toNat).toNat e.job).map (·.desc)).getD e.desc)) e.job none none []) := by
  refine rangeInstr_first ready sys idle ?_
  simp only [rsplitBody, read2_begun ha hc, desc, aligned, next, beq_self_eq_true, Bool.and_self, need_true, fenceSystem_ok order, res_bind_ok]

theorem exec_rmerge (hc : s.me.plain c) (upper : rawDesc t (s.me.reg c.toNat).toNat = .ok (q, u)) (order : orderOk q 6 true true)
    (merges : MergesInto e u) :
    exec (.rmerge a c) s = .next (sendAndWait q.acquired (.merge u.vbase e) e.job none none []) := by
  refine rangeInstr_first ready sys idle ?_
  simp only [rmergeBody, read2_begun ha hc, desc, upper, decide_eq_true merges.above, merges.vlimit, merges.offset, need_of merges.windows,
    merges.state, merges.job, merges.r, merges.w, merges.x, merges.s, merges.n, beq_self_eq_true, Bool.and_self, need_true, fenceSystem_ok order,
    res_bind_ok]

/-- The descriptor is written with its new window before the broadcast (R359). -/
theorem exec_rres (hc : s.me.plain c) (block : BlockRead t (s.me.reg c.toNat).toNat 16 q ws) (order : orderOk q 6 true true)
    (zero0 : nthWord ws 0 &&& 0x7F000000000000FF#64 = 0) (zero1 : nthWord ws 1 &&& 0xFF000000000000FF#64 = 0)
    (new : n = { e with nowin := wbit (nthWord ws 0) 63, rlo := wfld (nthWord ws 0) 55 8 * 256, rhi := wfld (nthWord ws 1) 55 8 * 256 })
    (inside : n.nowin = true ∨ e.vbase ≤ n.rlo ∧ n.rlo ≤ n.rhi ∧ n.rhi ≤ e.vlimit) :
    exec (.rres a c) s = .next (sendAndWait (writeDesc q.acquired n) (.update n) e.job (some e.vbase) (some e.offset)
      (if e.nowin then [] else lostBytes e.rlo (e.rhi + 255) n)) := by
  subst new
  have low : (wbit (nthWord ws 0) 63 || decide (e.vbase ≤ wfld (nthWord ws 0) 55 8 * 256)) = true := by
    simpa using inside.imp_right And.left
  have high : (wbit (nthWord ws 0) 63 || (decide (wfld (nthWord ws 0) 55 8 * 256 ≤ wfld (nthWord ws 1) 55 8 * 256)
      && decide (wfld (nthWord ws 1) 55 8 * 256 ≤ e.vlimit))) = true := by
    simpa using inside.imp_right And.right
  refine rangeInstr_first ready sys idle ?_
  simp only [rresBody, read2_begun ha hc, desc, block.placed, block.words, zero0, zero1, low, high, beq_self_eq_true,
    Bool.and_self, need_true, fenceSystem_ok order, res_bind_ok]

end

theorem exec_rinval (desc : rawDesc (s.begun 4) (s.me.reg a.toNat).toNat = .ok (t, e)) (order : orderOk t 6 true true)
    (invalid : e.state = stInvalid) (free : findOrder t e.job e.vbase (fun _ => true) = none) :
    exec (.rinval a) s
      = .next (sendAndWait t.acquired (.dropBase e.job e.vbase) e.job (some e.vbase) (some e.offset) [(e.vbase, e.last)]) := by
  refine rangeInstr_first ready sys idle ?_
  simp only [rinvalBody, readX_begun ha, desc, invalid, beq_self_eq_true, free, Option.isNone_none, need_true, fenceSystem_ok order, res_bind_ok]

end

/-- What RPROBE returns of a walk's answer: bit 63 for no range, else the descriptor's place and the state (R358). -/
def probeWord : Option RangeEntry → Word
  | none => 0x8000000000000000
  | some e => w64 (e.desc % 2 ^ 52 / 64 * 64 + e.state.toNat)

theorem exec_rprobe (hd : t.me.free d) (block : BlockRead (s.begun 4) (s.me.reg a.toNat).toNat 16 t ws)
    (high : wfld (nthWord ws 1) 63 16 = 0) :
    exec (.rprobe d a) s = .next (t.setX d (probeWord (walk? t (nthWord ws 0).toNat ((nthWord ws 1).setWidth 16)))) := by
  refine issue_ok sys ready ?_
  simp only [rprobeBody, readX_begun ha, block.placed, block.words, high, beq_self_eq_true, need_true, res_bind_ok]
  cases walk? t (nthWord ws 0).toNat ((nthWord ws 1).setWidth 16) with
  | none => exact writeX_setX hd
  | some e => exact writeX_setX hd

end

end Sys2Proof.Machine
end

section
/-! SUPPORT. RMOVE, BOFFL and BRET: the order block read, and its three answers (15 R360, R361). -/

namespace Sys2Proof.Machine

open Sys2Proof

variable {s t : State} {d a c : BitVec 5} {e : RangeEntry} {ws : List Word} {form : OrderForm} {i : Instr} {x y : Nat}

theorem exec_orderForm (member : (form, i) ∈ ([(.move, .rmove d a c), (.offload, .boffl d a c), (.back, .bret d a c)] : List (OrderForm × Instr))) :
    exec i s = issue i s.onSys s (orderBody form d a c) := by
  simp only [List.mem_cons, List.not_mem_nil, or_false, Prod.mk.injEq] at member
  rcases member with ⟨rfl, rfl⟩ | ⟨rfl, rfl⟩ | ⟨rfl, rfl⟩
  all_goals rfl

/-- The descriptor at x and the order block at y have been read, from s on with t after them, and the block's words pass their checks. -/
structure OrderRead (s : State) (x y : Nat) (e : RangeEntry) (ws : List Word) (t : State) : Prop where
  blocks : ∃ q, orderDesc s x = .ok (q, e) ∧ BlockRead q y 32 t ws
  noff : wfld (nthWord ws 0) 7 0 = 0
  cword : homePaOk t (nthWord ws 1).toNat 8 = true
  cval : wbit (nthWord ws 2) 63 = false
  last : nthWord ws 3 = 0

/-- The range is in another state, or a BRET's is home already. -/
abbrev orderRefused (t : State) (form : OrderForm) (e : RangeEntry) : Prop :=
  e.state ≠ stNormal ∨ form = .back ∧ mapsInto t e e.offset (fun r => decide (r < 2)) = true

/-- The station whose engine takes an order: that of the first line's new home, but for an offload of its old one. -/
abbrev orderStation (t : State) (form : OrderForm) (e : RangeEntry) (ws : List Word) : Nat :=
  (homeOf t (addOff e.vbase (if form = .offload then e.offset else nthWord ws 0))).station

/-- The range's descriptor as an order changes it. -/
abbrev orderedEntry (form : OrderForm) (e : RangeEntry) (ws : List Word) : RangeEntry :=
  { e with state := orderState form, noff := nthWord ws 0, cursor := e.vbase }

/-- An order's state of the range is written and broadcast. -/
abbrev orderSent (t : State) (form : OrderForm) (e : RangeEntry) (ws : List Word) : State :=
  (writeDesc t (orderedEntry form e ws)).broadcast (.update (orderedEntry form e ws))

/-- The order that an engine takes, once its range's state has been sent. -/
abbrev orderTaken (form : OrderForm) (e : RangeEntry) (ws : List Word) (r : State) : Order :=
  { form := form, entry := orderedEntry form e ws, noff := nthWord ws 0, cword := (nthWord ws 1).toNat, cval := nthWord ws 2, phase := .drain,
    pos := e.vbase, seen := r.bcasts.length }

/-- The answer to an order whose blocks have been read. -/
def orderAnswer (form : OrderForm) (d : BitVec 5) (x y : Nat) (e : RangeEntry) (ws : List Word) (t : State) : Res State :=
  if orderRefused t form e then writeX t d 1
  else do
    need (regionRule t form e (nthWord ws 0)) (.trap cIllegal (regionWord t form e x y))
    if 4 ≤ (t.station (orderStation t form e ws)).orders.length then writeX t d 2
    else do
      let f ← fenceSystem t
      let r := orderSent f form e ws
      writeX (r.modStation (orderStation t form e ws) fun z => { z with orders := z.orders ++ [orderTaken form e ws r] }) d 0

theorem orderBody_read (ha : s.me.plain a) (hc : s.me.plain c)
    (read : OrderRead (s.begun 4) (s.me.reg a.toNat).toNat (s.me.reg c.toNat).toNat e ws t) :
    orderBody form d a c (s.begun 4) = orderAnswer form d (s.me.reg a.toNat).toNat (s.me.reg c.toNat).toNat e ws t := by
  obtain ⟨⟨q, desc, block⟩, noff, cword, cval, zero⟩ := read
  simp only [orderBody, read2_begun ha hc, desc, block.placed, block.words, noff, cword, cval, zero, beq_self_eq_true, Bool.not_false,
    need_true, res_bind_ok, orderAnswer, orderRefused, Bool.or_eq_true, Bool.and_eq_true, bne_iff_ne, beq_iff_eq]

section
variable (hd : t.me.free d)
include hd

theorem orderAnswer_refused (refused : orderRefused t form e) : orderAnswer form d x y e ws t = .ok (t.setX d 1) :=
  (if_pos refused).trans (writeX_setX hd)

theorem orderAnswer_full (accepted : ¬orderRefused t form e) (regions : regionRule t form e (nthWord ws 0) = true)
    (full : 4 ≤ (t.station (orderStation t form e ws)).orders.length) : orderAnswer form d x y e ws t = .ok (t.setX d 2) := by
  rw [orderAnswer, if_neg accepted, need_of regions, res_bind_ok, if_pos full, writeX_setX hd]

end

theorem orderAnswer_taken (accepted : ¬orderRefused t form e) (regions : regionRule t form e (nthWord ws 0) = true)
    (room : (t.station (orderStation t form e ws)).orders.length < 4) (order : orderOk t 6 true true) (hd : (orderSent t.acquired form e ws).me.free d) :
    orderAnswer form d x y e ws t = .ok (((orderSent t.acquired form e ws).modStation (orderStation t form e ws) fun z =>
      { z with orders := z.orders ++ [orderTaken form e ws (orderSent t.acquired form e ws)] }).setX d 0) := by
  rw [orderAnswer, if_neg accepted, need_of regions, res_bind_ok, if_neg (Nat.not_le.mpr room), fenceSystem_ok order, res_bind_ok]
  exact writeX_setX hd

end Sys2Proof.Machine
end

section
/-! The range instructions: O36. -/

namespace Sys2Proof.Machine

open Sys2Proof

/-- Settles O36: each instruction by its own lemma; the end of a wait for the broadcast is the same for all five that wait (`rangeInstr_end`). -/
theorem rangeInstructionsComplete : Obligations.RangeInstructionsComplete := by
  unfold Obligations.RangeInstructionsComplete
  intro s t d a c e ready sys ha hc hd b x y
  refine ⟨?ends, ?sends, exec_rinval ready sys ha, ?rprobe, ?orders, sendAndWait_sent t⟩
  case ends =>
    intro i n job vbase off spans form sent seen clear
    obtain ⟨first, exec_eq⟩ := exec_rangeForm (s := s) form
    exact exec_eq.trans (rangeInstr_end ready sys sent seen clear)
  case sends =>
    intro idle desc order
    refine ⟨exec_rins ready sys ha idle desc order, exec_rsplit ready sys ha idle desc hc order, ?_, ?_⟩
    · intro q u upper order above vlimit offset window state job r w x s n
      exact exec_rmerge ready sys ha idle desc hc upper order ⟨above, vlimit, offset, window, state, job, r, w, x, s, n⟩
    · intro q ws n place last block order
      exact exec_rres ready sys ha idle desc hc ⟨place, last, block⟩ order
  case rprobe =>
    intro ws place last block high
    have probed := exec_rprobe ready sys ha hd ⟨place, last, block⟩ high
    exact ⟨fun miss => by rw [probed, miss]; rfl, fun found => by rw [probed, found]; rfl⟩
  case orders =>
    intro form i q ws member desc place last block noff cword cval zero refused m n r
    have read : OrderRead b x y e ws t := ⟨⟨q, desc, place, last, block⟩, noff, cword, cval, zero⟩
    have answers {f : State} (answer : orderAnswer form d x y e ws t = .ok f) : exec i s = .next f :=
      (exec_orderForm member).trans (issue_ok sys ready ((orderBody_read ha hc read).trans answer))
    exact ⟨fun no => answers (orderAnswer_refused hd no), fun accepted regions full => answers (orderAnswer_full hd accepted regions full),
      fun accepted regions room order free => answers (orderAnswer_taken accepted regions room order free)⟩

end Sys2Proof.Machine
end

section
/-! SUPPORT. The orders at the stations and the broadcasts sent stay as they are through all that caches, memory and ports do; what a store leaves in
memory depends on memory alone (09 R231 to R245). -/

namespace Sys2Proof.Machine

open Sys2Proof

variable {s t : State}

/-- The stations, with their orders, and the broadcasts sent. -/
def State.orderly (s : State) : FMap Station × List Bcast := (s.stations, s.bcasts)

theorem State.station_of_orderly (h : t.orderly = s.orderly) (m : Nat) : t.station m = s.station m :=
  congrArg (fun p : FMap Station × List Bcast => fget p.1 m Station.reset) h
theorem State.bcasts_of_orderly (h : t.orderly = s.orderly) : t.bcasts = s.bcasts := congrArg Prod.snd h

theorem State.orderly_of_offCore (h : t.offCore = s.offCore) : t.orderly = s.orderly := show t.offCore.orderly = s.offCore.orderly by rw [h]
theorem State.orderly_of_unpoisoned (h : t.unpoisoned = s.unpoisoned) : t.orderly = s.orderly := show t.unpoisoned.orderly = s.unpoisoned.orderly by rw [h]
theorem State.orderly_of_unsignalled (h : t.unsignalled = s.unsignalled) : t.orderly = s.orderly :=
  show t.unsignalled.orderly = s.unsignalled.orderly by rw [h]

variable (s)

@[simp] theorem State.l2Set_orderly (x : L2Line) : (s.l2Set x).orderly = s.orderly := rfl
@[simp] theorem State.modPort_orderly (p : Nat) (f : Port → Port) : (s.modPort p f).orderly = s.orderly := rfl
@[simp] theorem State.modUnit_orderly (u : Nat) (f : UnitSt → UnitSt) : (s.modUnit u f).orderly = s.orderly := rfl
@[simp] theorem State.putHome_orderly (who pa n v : Nat) : (s.putHome who pa n v false).orderly = s.orderly := rfl

@[simp] theorem portError_orderly (p : Nat) : (portError s p).orderly = s.orderly :=
  (State.orderly_of_unsignalled (portSignal_unsignalled ..)).trans (s.modPort_orderly ..)

@[simp] theorem State.addPoison_orderly (f : Nat) : (s.addPoison f).orderly = s.orderly := orderly_of_unpoisoned (s.addPoison_unpoisoned f)
@[simp] theorem State.addLinePoison_orderly (line : Nat) (b : BitVec 4) : (s.addLinePoison line b).orderly = s.orderly :=
  orderly_of_unpoisoned (s.addLinePoison_unpoisoned line b)

@[simp] theorem State.dropQuads_orderly (d : Nat) (v : BitVec 24) (line : Nat) (b : Option Nat) : (s.dropQuads d v line b).orderly = s.orderly :=
  orderly_of_offCore (s.dropQuads_offCore ..)
@[simp] theorem State.rdcDrop_orderly (d line : Nat) : (s.rdcDrop d line).orderly = s.orderly := orderly_of_offCore (s.rdcDrop_offCore ..)

@[simp] theorem State.l2Gone_orderly (x : L2Line) : (s.l2Gone x).orderly = s.orderly :=
  show (s.l2Gone x).offCore.orderly = s.orderly by rw [State.l2Gone_offCore]; rfl

@[simp] theorem State.l2Evict_orderly (x : L2Line) : (s.l2Evict x).orderly = s.orderly := by
  cases dirty : dirtyLine s x with
  | false => rw [l2Evict_clean dirty, l2Gone_orderly]
  | true =>
    rw [l2Evict_dirty dirty]
    split <;> simp

@[simp] theorem State.l2Room_orderly (line : Nat) : (s.l2Room line).orderly = s.orderly := by
  unfold State.l2Room
  repeat' split
  all_goals simp

@[simp] theorem State.l2Fill_orderly (line : Nat) (bad : Bool) : (s.l2Fill line bad).orderly = s.orderly := by
  unfold State.l2Fill
  split
  · rfl
  · dsimp only
    split <;> simp

@[simp] theorem State.recall_orderly (line : Nat) : (s.recall line).orderly = s.orderly := by
  unfold State.recall
  dsimp only
  split <;> simp

@[simp] theorem State.homePeek_orderly (line : Nat) : (s.homePeek line).orderly = s.orderly := by simp [State.homePeek]

theorem State.revoke_orderly (line : Nat) (but : Option Nat) : (s.revoke line but).orderly = s.orderly := by
  have left : (s.revoke line but).offCore = (s.l2Fill line false).offCore := by simp [State.revoke]
  rw [orderly_of_offCore left, l2Fill_orderly]

@[simp] theorem State.homeWrite_orderly (line : Nat) : (s.homeWrite line).orderly = s.orderly := by
  rw [State.homeWrite_eq, State.l2Set_orderly, State.revoke_orderly]

@[simp] theorem State.homeLoad_orderly (pa n : Nat) : (s.homeLoad pa n).1.orderly = s.orderly := by
  unfold State.homeLoad
  split
  · rfl
  · exact foldl_keeps State.orderly _ (fun t p => t.homePeek_orderly _) _ s

@[simp] theorem State.homeStore_orderly (pa n v : Nat) : (s.homeStore pa n v).orderly = s.orderly := by
  refine foldl_keeps State.orderly _ (fun t q => ?_) _ _
  dsimp only
  rw [State.putHome_orderly]
  split <;> simp

@[simp] theorem writeDesc_orderly (e : RangeEntry) : (writeDesc s e).orderly = s.orderly := s.homeStore_orderly ..

variable {s}

@[simp] theorem State.broadcast_bytes (s : State) (b : Bcast) : (s.broadcast b).bytes = s.bytes := rfl

/-- Stores at the home slice do the same to equal bytes. -/
theorem State.homeStore_bytes_congr (h : t.bytes = s.bytes) (pa n v : Nat) : (t.homeStore pa n v).bytes = (s.homeStore pa n v).bytes := by
  refine List.foldl_rel (r := fun p q : State => p.bytes = q.bytes) h fun x _ p q same => ?_
  have map : p.pkg.capwin = q.pkg.capwin := congrArg Prod.snd same
  dsimp only
  rw [homeStore_step_bytes, homeStore_step_bytes, State.mem_of_bytes same, State.cell_of_bytes same, map]

end Sys2Proof.Machine
end

section
/-! SUPPORT. The arrival of a range broadcast at a unit's table and, with that of unit 0, at the ports' (15 R353). -/

namespace Sys2Proof.Machine

open Sys2Proof

variable {s : State} {u p : Nat} {b : Bcast}

/-- A fold that touches each of a list of different parts once. -/
theorem foldl_each_once {σ α : Type} (part : σ → Nat → α) {f : σ → Nat → σ} {new : α → α} (same : ∀ t k, part (f t k) k = new (part t k))
    (other : ∀ t k i, i ≠ k → part (f t k) i = part t i) {ks : List Nat} (once : ks.Nodup) {k : Nat} (listed : k ∈ ks) (t : σ) :
    part (ks.foldl f t) k = new (part t k) := by
  induction ks generalizing t with
  | nil => cases listed
  | cons j ks ih =>
    obtain ⟨fresh, once⟩ := List.nodup_cons.mp once
    rw [List.foldl_cons]
    rcases List.mem_cons.mp listed with rfl | later
    · refine Eq.trans ?_ (same t k)
      exact List.foldlRecOn (motive := fun r => part r k = part (f t k) k) ks f rfl
        fun r kept i among => (other r i k fun e => fresh (e ▸ among)).trans kept
    · rw [ih once later, other t j k fun e => fresh (e ▸ later)]

theorem State.tableOf_unit (unit : u < 244) : s.tableOf u = (s.unit u).ranges := if_pos unit
theorem State.tableOf_port (s : State) (p : Nat) : s.tableOf (244 + p) = (s.port p).ranges := by simp [State.tableOf]

theorem State.setTable_unit (unit : u < 244) (r : List RangeEntry) : s.setTable u r = s.modUnit u fun x => { x with ranges := r } := if_pos unit
theorem State.setTable_port (s : State) (p : Nat) (r : List RangeEntry) : s.setTable (244 + p) r = s.modPort p fun x => { x with ranges := r } := by
  simp [State.setTable]

/-- A port's table takes a broadcast. -/
def State.portArrive (s : State) (b : Bcast) (p : Nat) : State := s.setTable (244 + p) (applyBcast 64 (s.tableOf (244 + p)) b)

/-- A unit's table takes its next broadcast, and counts it. -/
def State.unitArrive (s : State) (u : Nat) (b : Bcast) : State :=
  (s.setTable u (applyBcast (tableSize u) (s.tableOf u) b)).modUnit u fun x => { x with bseen := x.bseen + 1 }

theorem State.bcastArrive_eq (next : s.bcasts[(s.unit u).bseen]? = some b) :
    s.bcastArrive u = if u = 0 then (upTo 8).foldl (fun t p => t.portArrive b p) (s.unitArrive u b) else s.unitArrive u b := by
  rw [State.bcastArrive, next]
  rfl

theorem State.portArrive_units (s : State) (b : Bcast) (p : Nat) : (s.portArrive b p).units = s.units := by
  rw [State.portArrive, State.setTable_port, State.modPort_units]

theorem State.portArrive_same (s : State) (b : Bcast) (p : Nat) : (s.portArrive b p).tableOf (244 + p) = applyBcast 64 (s.tableOf (244 + p)) b := by
  rw [State.portArrive, State.setTable_port, State.tableOf_port, State.port_modPort_same]

theorem State.portArrive_ne (s : State) (b : Bcast) {p i : Nat} (other : i ≠ p) : (s.portArrive b p).tableOf (244 + i) = s.tableOf (244 + i) := by
  rw [State.portArrive, State.setTable_port, State.tableOf_port, State.port_modPort_ne _ other, State.tableOf_port]

theorem State.unitArrive_unit (unit : u < 244) (b : Bcast) : (s.unitArrive u b).unit u
    = { s.unit u with ranges := applyBcast (tableSize u) (s.unit u).ranges b, bseen := (s.unit u).bseen + 1 } := by
  rw [State.unitArrive, State.setTable_unit unit, State.unit_modUnit_same, State.unit_modUnit_same, State.tableOf_unit unit]

theorem State.unitArrive_tableOf_port (unit : u < 244) (b : Bcast) (p : Nat) : (s.unitArrive u b).tableOf (244 + p) = s.tableOf (244 + p) := by
  rw [State.unitArrive, State.setTable_unit unit, State.tableOf_port, State.tableOf_port]
  rfl

section
variable (next : s.bcasts[(s.unit u).bseen]? = some b)
include next

theorem State.bcastArrive_unit (unit : u < 244) : (s.bcastArrive u).unit u
    = { s.unit u with ranges := applyBcast (tableSize u) (s.unit u).ranges b, bseen := (s.unit u).bseen + 1 } := by
  rw [State.bcastArrive_eq next, ← State.unitArrive_unit unit b]
  split
  · rw [State.unit, foldl_keeps State.units _ (fun t p => t.portArrive_units b p), ← State.unit]
  · rfl

theorem State.bcastArrive_mem : (s.bcastArrive u).mem = s.mem := by
  have table (t : State) (k : Nat) (r : List RangeEntry) : (t.setTable k r).mem = t.mem := State.mem_of_bytes (t.setTable_bytes k r)
  rw [State.bcastArrive_eq next]
  split
  · exact (foldl_keeps State.mem _ (fun t p => table ..) _ _).trans (table ..)
  · exact table ..

theorem State.bcastArrive_port (first : u = 0) (port : p < 8) : (s.bcastArrive u).tableOf (244 + p) = applyBcast 64 (s.tableOf (244 + p)) b := by
  have once : (upTo 8).Nodup := List.nodup_range
  have listed : p ∈ upTo 8 := List.mem_range.mpr port
  have unit : u < 244 := by omega
  have each := foldl_each_once (fun t k => State.tableOf t (244 + k)) (new := (applyBcast 64 · b)) (fun t k => t.portArrive_same b k)
    (fun t k i other => t.portArrive_ne b other) once listed (s.unitArrive u b)
  rw [State.bcastArrive_eq next, if_pos first, each, State.unitArrive_tableOf_port unit]

end

theorem exec_rangeBroadcastArrival (unit : u < 244) :
    exec (.rangeBroadcastArrival u) s = .next (if u = 0 then drainPorts (s.bcastArrive u) else s.bcastArrive u) :=
  onlyIf_of (decide_eq_true unit) ..

end Sys2Proof.Machine
end

section
/-! SUPPORT. An order at its station, and the steps of its engine: its drain's end, a line's copy, the switch and the completion (15 R361, R363). -/

namespace Sys2Proof.Machine

open Sys2Proof

variable {s t : State} {m i : Nat} {o : Order}

/-! ### What an order's step leaves of the orders and broadcasts -/

/-- A descriptor written and its change broadcast: every station keeps its orders. -/
theorem describe_station (s : State) (e : RangeEntry) (b : Bcast) (m : Nat) : ((writeDesc s e).broadcast b).station m = s.station m :=
  State.station_of_orderly (writeDesc_orderly s e) m
theorem describe_bcasts (s : State) (e : RangeEntry) (b : Bcast) : ((writeDesc s e).broadcast b).bcasts = s.bcasts ++ [b] := by
  rw [State.broadcast, State.bcasts_of_orderly (writeDesc_orderly ..)]

@[simp] theorem setOrder_mem (s : State) (m i : Nat) (o : Order) : (setOrder s m i o).mem = s.mem := rfl
@[simp] theorem setOrder_bcasts (s : State) (m i : Nat) (o : Order) : (setOrder s m i o).bcasts = s.bcasts := rfl

theorem getElem?_setAt_same {β : Type} {l : List β} {i : Nat} (held : (l[i]?).isSome = true) (v : β) : (setAt l i v)[i]? = some v := by
  induction l generalizing i with
  | nil => cases held
  | cons x l ih =>
    cases i with
    | zero => rfl
    | succ i => exact ih held

/-- An order set anew where the station holds one, in a state whose orders at the station are those of s. -/
theorem orderAt_setOrder (held : orderAt s m i = some o) (kept : t.station m = s.station m) (o' : Order) : orderAt (setOrder t m i o') m i = some o' := by
  rw [orderAt, setOrder, State.station_modStation_same, kept]
  exact getElem?_setAt_same (by rw [← orderAt, held]; rfl) o'

/-! ### The end of the drain -/

theorem exec_orderDrainEnd (held : orderAt s m i = some o) (phase : o.phase = .drain) (drained : orderDrained s o (o.form == .offload) = true) :
    exec (.orderDrainEnd m i) s = .next (setOrder s m i { o with phase := .copy }) := by
  change execOrderDrainEnd m i s = _
  simp only [execOrderDrainEnd, held, phase, drained, beq_self_eq_true, Bool.and_self, ↓reduceIte]

/-! ### The copy of a line -/

/-- The old and the new place of the next line of an order. -/
abbrev Order.src (o : Order) : Nat := addOff o.pos o.entry.offset
abbrev Order.dst (o : Order) : Nat := addOff o.pos o.noff

/-- An order whose next line has been copied. -/
abbrev Order.advanced (o : Order) : Order := { o with pos := o.pos + 256 }

/-- The cursor is to be published: after 16 lines, or the last. -/
abbrev Order.publishes (o : Order) : Prop := (o.pos - o.entry.vbase) / 256 % 16 = 0 ∨ o.entry.last < o.pos

/-- The next line at its old place as its home reads it, once the line of a move is locked there. -/
def sourceLine (s : State) (o : Order) : State × BitVec 2048 × BitVec 4 :=
  homeLine (if o.form = .move then lockOld s (lineOf o.src) else s) (lineOf o.src)

/-- The next line is written at its new place, with its poison and its mark in a running sweep. -/
def lineCopied (s : State) (o : Order) : State :=
  sweepMove ((upTo 4).foldl (fun t f => if (sourceLine s o).2.2.getLsbD f then t.addPoison (o.dst / 64 + f) else t)
    ((sourceLine s o).1.homeStore o.dst 256 (sourceLine s o).2.1.toNat)) o o.src o.dst

/-- The next line is copied, and its cursor published where that is due. -/
def linePublished (s : State) (o : Order) : State :=
  if o.advanced.publishes then publishCursor (lineCopied s o) o.advanced else lineCopied s o

theorem exec_orderCopyLine (held : orderAt s m i = some o) (phase : o.phase = .copy) (more : o.pos ≤ o.entry.last)
    (src : pairLocked s (lineOf o.src) = false) (dst : pairLocked s (lineOf o.dst) = false) (desc : pairLocked s (lineOf o.entry.desc) = false) :
    exec (.orderCopyLine m i) s = .next (setOrder (linePublished s o) m i o.advanced) := by
  have goes : (o.phase != .copy || decide (o.entry.last < o.pos) || pairLocked s (lineOf o.src) || pairLocked s (lineOf o.dst)
      || pairLocked s (lineOf o.entry.desc)) = false := by
    simp only [phase, bne_self_eq_false, decide_eq_false (Nat.not_lt.mpr more), src, dst, desc, Bool.or_self]
  change execOrderCopyLine m i s = _
  simp only [execOrderCopyLine, held, goes, Bool.false_eq_true, ↓reduceIte, Bool.or_eq_true, decide_eq_true_eq]
  rfl

@[simp] theorem lockOld_bytes (s : State) (line : Nat) : (lockOld s line).bytes = s.bytes := by
  unfold lockOld
  dsimp only
  split <;> simp

@[simp] theorem lockOld_orderly (s : State) (line : Nat) : (lockOld s line).orderly = s.orderly := by
  unfold lockOld
  dsimp only
  split <;> simp

theorem homeLine_value (s : State) (line : Nat) : (homeLine s line).2.1 = BitVec.ofNat 2048 (s.get (linePa line) 256) :=
  congrArg (BitVec.ofNat 2048) (s.homeLoad_value ..)
theorem homeLine_orderly (s : State) (line : Nat) : (homeLine s line).1.orderly = s.orderly := s.homeLoad_orderly ..

/-- A line is read as memory holds it. -/
theorem sourceLine_value (s : State) (o : Order) : (sourceLine s o).2.1 = BitVec.ofNat 2048 (s.get (linePa (lineOf o.src)) 256) := by
  rw [sourceLine, homeLine_value]
  split
  · rw [State.get_of_bytes (lockOld_bytes ..)]
  · rfl

theorem sourceLine_orderly (s : State) (o : Order) : (sourceLine s o).1.orderly = s.orderly := by
  rw [sourceLine, homeLine_orderly]
  split
  · exact lockOld_orderly ..
  · rfl

theorem sweepMove_orderly (s : State) (o : Order) (src dst : Nat) : (sweepMove s o src dst).orderly = s.orderly := by
  unfold sweepMove
  split
  · dsimp only
    split <;> rfl
  · rfl

theorem lineCopied_orderly (s : State) (o : Order) : (lineCopied s o).orderly = s.orderly := by
  rw [lineCopied, sweepMove_orderly, foldl_keeps State.orderly, State.homeStore_orderly, sourceLine_orderly]
  intro t f
  split <;> simp

theorem linePublished_station (s : State) (o : Order) : (linePublished s o).station m = s.station m := by
  have copied := State.station_of_orderly (lineCopied_orderly s o) m
  rw [linePublished]
  split
  · rw [publishCursor, describe_station, copied]
  · exact copied

theorem linePublished_bcasts (s : State) (o : Order) : (linePublished s o).bcasts
    = if o.advanced.publishes then s.bcasts ++ [.cursor o.entry.job o.entry.vbase o.advanced.pos] else s.bcasts := by
  have copied := State.bcasts_of_orderly (lineCopied_orderly s o)
  rw [linePublished]
  split
  · rw [publishCursor, describe_bcasts, copied]
  · exact copied

theorem linePublished_mem (s : State) (o : Order) : (linePublished s o).mem
    = if o.advanced.publishes then (writeDesc (lineCopied s o) { o.entry with cursor := o.advanced.pos }).mem else (lineCopied s o).mem := by
  rw [linePublished, apply_ite State.mem, publishCursor, State.broadcast_mem]

/-! ### The switch and the completion -/

theorem exec_orderSwitch (held : orderAt s m i = some o) (phase : o.phase = .copy) (last : o.entry.last < o.pos)
    (desc : pairLocked s (lineOf o.entry.desc) = false) :
    exec (.orderSwitch m i) s = .next (setOrder ((writeDesc s (finalEntry o)).broadcast (.update (finalEntry o))) m i
      { o with phase := .switched, seen := s.bcasts.length + 1 }) := by
  have sent : ((writeDesc s (finalEntry o)).broadcast (.update (finalEntry o))).bcasts.length = s.bcasts.length + 1 := by
    rw [describe_bcasts, List.length_append, List.length_singleton]
  change execOrderSwitch m i s = _
  simp only [execOrderSwitch, held, phase, decide_eq_true last, desc, beq_self_eq_true, Bool.not_false, Bool.and_self, ↓reduceIte, sent]

theorem exec_orderCompletion (held : orderAt s m i = some o) (phase : o.phase = .switched) (drained : orderDrained s o false = true)
    (cword : pairLocked s (lineOf o.cword) = false) :
    exec (.orderCompletion m i) s
      = .next ((s.homeStore o.cword 8 o.cval.toNat).modStation m fun x => { x with orders := dropAt x.orders i }) := by
  change execOrderCompletion m i s = _
  simp only [execOrderCompletion, held, phase, drained, cword, beq_self_eq_true, Bool.not_false, Bool.and_self, ↓reduceIte]

/-! ### Accesses that an order meets: the redirect of a move, the cancel of an offload (R363, R364) -/

section
variable {u c : Nat} {va : Word} {e : RangeEntry} (found : lookup? s u (s.unit u).job va.toNat = some e)
include found

theorem exec_redirect (state : e.state = stMoving) (old : e.cursor ≤ va.toNat) (cursor : redirectCursor s e va.toNat = some c) :
    exec (.redirect u va) s = .next (s.setTable u ((s.tableOf u).map fun f => if f = e then { e with cursor := c } else f)) := by
  change execRedirect u va s = _
  simp only [execRedirect, found, state, decide_eq_true old, decide_true, Bool.and_self, ↓reduceIte, cursor]

theorem exec_orderCancel (state : e.state = stOutbound) (write : e.w = true) (order : orderOf s .offload e = some (m, i, o)) :
    exec (.orderCancel u va) s = .next (if o.phase = .switched || cancelWaits s o then s else cancelOrder s m i o va.toNat) := by
  change execOrderCancel u va s = _
  simp only [execOrderCancel, found, state, write, and_self, ↓reduceIte, order]

end

theorem abortedWord_toNat (va : Nat) : (abortedWord va).toNat = 0x8002000000000000 + va % 2 ^ 56 := by
  have := Nat.mod_lt va (show 0 < 2 ^ 56 by decide)
  rw [abortedWord, w64, BitVec.toNat_ofNat]
  omega

theorem cancelOrder_orders (s : State) (m i : Nat) (o : Order) (va : Nat) :
    ((cancelOrder s m i o va).station m).orders = dropAt (s.station m).orders i := by
  rw [cancelOrder, State.station_modStation_same, State.station_of_orderly (State.homeStore_orderly ..), describe_station]

theorem cancelOrder_bcasts (s : State) (m i : Nat) (o : Order) (va : Nat) :
    (cancelOrder s m i o va).bcasts = s.bcasts ++ [.update { o.entry with state := stNormal, cursor := o.pos }] := by
  rw [cancelOrder, State.modStation_bcasts, State.bcasts_of_orderly (State.homeStore_orderly ..), describe_bcasts]

theorem cancelOrder_mem (s : State) (m i : Nat) (o : Order) (va : Nat) : (cancelOrder s m i o va).mem
    = ((writeDesc s { o.entry with state := stNormal, cursor := o.pos }).homeStore o.cword 8 (0x8002000000000000 + va % 2 ^ 56)).mem := by
  rw [← abortedWord_toNat, cancelOrder, State.modStation_mem]
  exact State.mem_of_bytes (State.homeStore_bytes_congr (State.broadcast_bytes ..) ..)

end Sys2Proof.Machine
end

section
/-! The steps behind ranges and orders: O37. -/

namespace Sys2Proof.Machine

open Sys2Proof

/-- Settles O37: each step by its own lemma; the orders and broadcasts are those of before through every access (`State.orderly`). -/
theorem rangeSteps : Obligations.RangeSteps := by
  unfold Obligations.RangeSteps
  intro s u m i o
  refine ⟨?arrival, ?order, fun va e c found => exec_redirect found, ?cancel⟩
  case arrival =>
    intro b unit next
    have table := State.bcastArrive_unit next unit
    exact ⟨exec_rangeBroadcastArrival unit, by rw [table], by rw [table], State.bcastArrive_mem next,
      fun first p port => State.bcastArrive_port next first port⟩
  case order =>
    intro held src dst
    refine ⟨exec_orderDrainEnd held, ?copy, ?switch, ?completion⟩
    case copy =>
      intro phase more srcFree dstFree descFree h c o2 publishes t
      have copied : c = lineCopied s o := rfl
      have published : t = setOrder (linePublished s o) m i o.advanced := rfl
      rw [published, copied]
      exact ⟨exec_orderCopyLine held phase more srcFree dstFree descFree, sourceLine_value s o,
        orderAt_setOrder held (linePublished_station s o) _, linePublished_bcasts s o, linePublished_mem s o⟩
    case switch =>
      intro phase last descFree
      refine ⟨_, exec_orderSwitch held phase last descFree, orderAt_setOrder held (describe_station ..) _, ?_, ?_⟩
      · rw [setOrder_bcasts, describe_bcasts]
      · rw [setOrder_mem, State.broadcast_mem]
    case completion =>
      intro phase drained cword
      refine ⟨_, exec_orderCompletion held phase drained cword, State.modStation_mem .., ?_⟩
      rw [State.station_modStation_same, State.station_of_orderly (State.homeStore_orderly ..)]
  case cancel =>
    intro va e found state write order
    have step := exec_orderCancel found state write order
    refine ⟨fun late => step.trans ?_, fun early free => ⟨_, step.trans ?_, cancelOrder_orders .., cancelOrder_bcasts .., cancelOrder_mem ..⟩⟩
    · rw [late]
      rfl
    · rw [if_neg (by simp [early, free])]

end Sys2Proof.Machine
end

section
/-! SUPPORT. Bytes and words: the six fields of a 32-bit word, little-endian bytes, and the first word of a tile command word (03 R87). -/

namespace Sys2Proof.Laws.Encoding

open Sys2Proof

/-! ### The round trip of one instruction's fields -/

/-- Each constructor has its lemma; a device step has no encoding. -/
theorem statement (i : Instr) : Statement i := by
  cases i with
  | rvAluOrBranch => exact rvAluOrBranch .. | rvLoad => exact rvLoad .. | rvStore => exact rvStore .. | rvAmo => exact rvAmo ..
  | lr => exact lr .. | sc => exact sc .. | csrAccess => exact csrAccess .. | fence => exact fence .. | fenceI => exact fenceI ..
  | ecall => exact ecall | ebreak => exact ebreak | wfi => exact wfi | mret => exact mret | fmt => exact fmt .. | sbind => exact sbind ..
  | sunbind => exact sunbind .. | sgstat => exact sgstat .. | qbind => exact qbind .. | qpush => exact qpush .. | qpop => exact qpop ..
  | qpoll => exact qpoll .. | qcnt => exact qcnt .. | bmove => exact bmove .. | bfillw => exact bfillw .. | repb => exact repb ..
  | iclock => exact iclock .. | icunlk => exact icunlk .. | ldna => exact ldna .. | stby => exact stby .. | pref => exact pref ..
  | ldaq => exact ldaq .. | strl => exact strl .. | fenceRg => exact fenceRg .. | fenceS => exact fenceS .. | fenceE => exact fenceE
  | amosc => exact amosc .. | bcopy => exact bcopy .. | bcopyc => exact bcopyc .. | bgath => exact bgath .. | bscat => exact bscat ..
  | bcancel => exact bcancel .. | ctest => exact ctest .. | cwaitm => exact cwaitm .. | send => exact send .. | sendr => exact sendr ..
  | amsg => exact amsg .. | recv => exact recv .. | recvp => exact recvp .. | loopbk => exact loopbk .. | hret => exact hret
  | rankget => exact rankget .. | rankset => exact rankset .. | barr => exact barr .. | bwait => exact bwait .. | barw => exact barw ..
  | bcfg => exact bcfg .. | bstat => exact bstat .. | waita => exact waita .. | mbxrd => exact mbxrd .. | mbxack => exact mbxack ..
  | mbxpost => exact mbxpost .. | resume => exact resume .. | slotsave => exact slotsave .. | slotrest => exact slotrest ..
  | nispill => exact nispill .. | cutreq => exact cutreq .. | cutstat => exact cutstat .. | dumpseal => exact dumpseal ..
  | tspawn => exact tspawn .. | tdep => exact tdep .. | twait => exact twait .. | tsusp => exact tsusp .. | texit => exact texit
  | phase => exact phase .. | stepinc => exact stepinc .. | gswait => exact gswait .. | sld => exact sld .. | sst => exact sst ..
  | sadd => exact sadd .. | smerge => exact smerge .. | vsld => exact vsld .. | vsst => exact vsst .. | vsadd => exact vsadd ..
  | vstpair => exact vstpair .. | winset => exact winset .. | rins => exact rins .. | rsplit => exact rsplit .. | rmerge => exact rmerge ..
  | rinval => exact rinval .. | rprobe => exact rprobe .. | rmove => exact rmove .. | rres => exact rres .. | boffl => exact boffl ..
  | bret => exact bret .. | vlgr => exact vlgr .. | vadd => exact vadd .. | vaddX => exact vaddX .. | vsub => exact vsub ..
  | vsubX => exact vsubX .. | vmul => exact vmul .. | vmulX => exact vmulX .. | vfma => exact vfma .. | vfmaX => exact vfmaX ..
  | vfnma => exact vfnma .. | vfnmaX => exact vfnmaX .. | vdiv => exact vdiv .. | vdivX => exact vdivX .. | vsqrt => exact vsqrt ..
  | vrsq => exact vrsq .. | vexp2 => exact vexp2 .. | vlog2 => exact vlog2 .. | vmax => exact vmax .. | vmaxX => exact vmaxX ..
  | vmin => exact vmin .. | vminX => exact vminX .. | vabs => exact vabs .. | vneg => exact vneg .. | vcmp => exact vcmp ..
  | vcmpX => exact vcmpX .. | vsel => exact vsel .. | vselX => exact vselX .. | vand => exact vand .. | vandX => exact vandX ..
  | vor => exact vor .. | vorX => exact vorX .. | vxor => exact vxor .. | vxorX => exact vxorX .. | vshl => exact vshl ..
  | vshlX => exact vshlX .. | vshr => exact vshr .. | vshrX => exact vshrX .. | vsra => exact vsra .. | vsraX => exact vsraX ..
  | vcvt => exact vcvt .. | vqnt => exact vqnt .. | vrsum => exact vrsum .. | vrmax => exact vrmax .. | vrmin => exact vrmin ..
  | vslide => exact vslide .. | vslideX => exact vslideX .. | vperm => exact vperm .. | vbcst => exact vbcst .. | vmvxv => exact vmvxv ..
  | vmvvx => exact vmvvx .. | vld => exact vld .. | vst => exact vst .. | vlds => exact vlds .. | vsts => exact vsts ..
  | vldx => exact vldx .. | vstx => exact vstx .. | vlut => exact vlut .. | mand => exact mand .. | mor => exact mor ..
  | mnot => exact mnot .. | mpop => exact mpop .. | tld => exact tld .. | tst => exact tst .. | tldh => exact tldh ..
  | tldm => exact tldm .. | tgath => exact tgath .. | tsave => exact tsave .. | trest => exact trest .. | tmov => exact tmov ..
  | tzero => exact tzero .. | tfill => exact tfill .. | tadd => exact tadd .. | tsub => exact tsub .. | tmul => exact tmul ..
  | tmax => exact tmax .. | tmin => exact tmin .. | tscl => exact tscl .. | ttrn => exact ttrn .. | tred => exact tred ..
  | tredQueue => exact tredQueue .. | tcvt => exact tcvt .. | tqnt => exact tqnt .. | tdeq => exact tdeq .. | tfence => exact tfence ..
  | tmma => exact tmma .. | tmmas => exact tmmas .. | tmmaw => exact tmmaw .. | tmmad => exact tmmad .. | eset => exact eset ..
  | esetImm => exact esetImm .. | skset => exact skset .. | skget => exact skget ..
  | _ => exact statement_step rfl rfl

/-! ### Words -/

theorem ofWord_word (q : Parts) : Parts.ofWord q.word = q := by
  obtain ⟨f7, rs2, rs1, f3, rd, maj⟩ := q
  simp only [Parts.ofWord, Parts.word, Parts.mk.injEq]
  refine ⟨?_, ?_, ?_, ?_, ?_, ?_⟩ <;> (apply BitVec.eq_of_toNat_eq; simp only [BitVec.toNat_ofNat]; omega)

theorem word_lt (q : Parts) : q.word < 2 ^ 32 := by
  simp only [Parts.word]
  omega

/-- No 32-bit instruction has the major opcode that starts a tile command word (R87). -/
theorem maj_of_decodeParts {q : Parts} {i : Instr} (h : decodeParts q = some i) : q.maj ≠ 0x7f := by
  intro e
  simp [decodeParts, e] at h

theorem startsTcw_word {q : Parts} (h : q.maj ≠ 0x7f) : startsTcw q.word = false := by
  have hm : q.maj.toNat ≠ 127 := fun e => h (BitVec.eq_of_toNat_eq e)
  have low : q.word % 128 = q.maj.toNat := by simp only [Parts.word]; omega
  simp [startsTcw, low, hm]

/-- Bits 6:0 and 14:12 of a tile command word are those of its first 32 bits. -/
theorem startsTcw_raw {i : Instr} {t : Tcw} (h : tcwOk i t = true) : startsTcw (t.raw.toNat % 2 ^ 32) = true := by
  simp only [tcwOk, Bool.and_eq_true, decide_eq_true_eq] at h
  obtain ⟨⟨⟨⟨low, length⟩, -⟩, -⟩, -⟩ := h
  have hl := congrArg BitVec.toNat low
  have hn := congrArg BitVec.toNat length
  simp only [BitVec.extractLsb'_toNat, Nat.shiftRight_eq_div_pow, BitVec.toNat_ofNat] at hl hn
  simp only [startsTcw, Bool.and_eq_true, decide_eq_true_eq]
  omega

theorem tcwOk_of_wellFormed {i : Instr} {t : Tcw} (k : tcwOf? i = some t) (w : i.wellFormed = true) : tcwOk i t = true := by
  cases i <;> simp only [tcwOf?, Option.some.injEq, reduceCtorEq] at k <;> exact k ▸ w

/-! ### Bytes -/

@[simp] theorem length_toBytesLE (n v : Nat) : (toBytesLE n v).length = n := by
  induction n generalizing v with
  | zero => rfl
  | succ n ih => simp [toBytesLE, ih]

theorem ofBytesLE_toBytesLE (n v : Nat) : ofBytesLE (toBytesLE n v) = v % 256 ^ n := by
  induction n generalizing v with
  | zero => simp [toBytesLE, ofBytesLE, Nat.mod_one]
  | succ n ih =>
    rw [toBytesLE, ofBytesLE, ih, BitVec.toNat_ofNat, pow_succ' 256 n, Nat.mod_mul (a := 256)]

theorem take_toBytesLE {k n : Nat} (h : k ≤ n) (v : Nat) : (toBytesLE n v).take k = toBytesLE k v := by
  induction k generalizing n v with
  | zero => rfl
  | succ k ih =>
    obtain ⟨m, rfl⟩ : ∃ m, n = m + 1 := ⟨n - 1, by omega⟩
    simp [toBytesLE, ih (Nat.le_of_succ_le_succ h)]

/-- The number that the first k of n little-endian bytes make, whatever follows them. -/
theorem ofBytesLE_take {k n : Nat} (h : k ≤ n) (v : Nat) (rest : List Byte) :
    ofBytesLE ((toBytesLE n v ++ rest).take k) = v % 256 ^ k := by
  rw [List.take_append_of_le_length (by simpa using h), take_toBytesLE h, ofBytesLE_toBytesLE]

theorem drop_toBytesLE (n v : Nat) (rest : List Byte) : (toBytesLE n v ++ rest).drop n = rest := List.drop_left' (length_toBytesLE n v)

/-! ### Decoding at the head of some bytes -/

theorem decodeBytes_word {w : Nat} (h : w < 2 ^ 32) (k : startsTcw w = false) (rest : List Byte) :
    decodeBytes (toBytesLE 4 w ++ rest) = some (decodeWord32 w, rest) := by
  have head : ofBytesLE ((toBytesLE 4 w ++ rest).take 4) = w := (ofBytesLE_take le_rfl w rest).trans (Nat.mod_eq_of_lt h)
  simp only [decodeBytes, head, k, drop_toBytesLE]
  simp

theorem decodeBytes_tcw {raw : BitVec 256} (k : startsTcw (raw.toNat % 2 ^ 32) = true) (rest : List Byte) :
    decodeBytes (toBytesLE 32 raw.toNat ++ rest) = some (decodeTcw raw, rest) := by
  have head : ofBytesLE ((toBytesLE 32 raw.toNat ++ rest).take 4) = raw.toNat % 2 ^ 32 := ofBytesLE_take (by decide) raw.toNat rest
  have all : BitVec.ofNat 256 (ofBytesLE ((toBytesLE 32 raw.toNat ++ rest).take 32)) = raw := by
    rw [ofBytesLE_take le_rfl]
    exact BitVec.eq_of_toNat_eq (by simp [Nat.mod_eq_of_lt raw.isLt])
  have long : ¬(toBytesLE 32 raw.toNat ++ rest).length < 32 := by simp
  have long4 : ¬(toBytesLE 32 raw.toNat ++ rest).length < 4 := fun h => long (h.trans (by decide))
  simp only [decodeBytes, head, k, all, drop_toBytesLE, if_neg long, if_neg long4, if_true]

end Sys2Proof.Laws.Encoding
end

section
/-! Decoding what was encoded: O56. -/

namespace Sys2Proof.Laws.Encoding

open Sys2Proof

/-- Settles O56: an encoding is a 32-bit word's four bytes or a tile command word's 32, and each constructor's fields decode to it. -/
theorem decodeOfEncode : Obligations.DecodeOfEncode := by
  intro i bs rest h
  obtain ⟨word, tcw⟩ := statement i
  simp only [encode, encode32?] at h
  split at h
  next wf =>
    cases hp : encodeParts i with
    | some q =>
      simp only [hp, Option.map_some, Option.some.injEq] at h
      have decoded : decodeParts q = some i := word q hp wf
      rw [← h, decodeBytes_word (word_lt q) (startsTcw_word (maj_of_decodeParts decoded)), decodeWord32, decode32?, ofWord_word, decoded]
      rfl
    | none =>
      simp only [hp, Option.map_none, Option.map_eq_some_iff] at h
      obtain ⟨t, ht, rfl⟩ := h
      rw [decodeBytes_tcw (startsTcw_raw (tcwOk_of_wellFormed ht wf)), tcw t ht wf]
  next => cases h

end Sys2Proof.Laws.Encoding
end

section
/-! Stamped reads: O33. -/

namespace Sys2Proof.Machine

open Sys2Proof

/-! ### The fields of a stamped word (17 Table 17.1) -/

/-- The age of a stamp as the statement writes it: the stamp is below 2^24 already. -/
theorem ageOf_swStamp (r w : Nat) : ageOf r (swStamp w) = (r % 2 ^ 24 + 2 ^ 24 - w / 2 ^ 32 % 2 ^ 24) % 2 ^ 24 := by
  rw [ageOf, swStamp, fld, Nat.mod_mod]

/-- A word whose bits 63:61 are zero is made of its four fields. -/
theorem swWord_fields {w : Nat} (h : w / 2 ^ 61 = 0) : swWord (swValue w) (swStamp w) (swClass w) (swSettled w) = w := by
  have settled : bitAt (w.testBit 60) 60 = w / 2 ^ 60 * 2 ^ 60 := by
    rw [bitAt, Nat.testBit_eq_decide_div_mod_eq]
    split
    next one => have := of_decide_eq_true one; omega
    next zero => have := of_decide_eq_false (Bool.eq_false_of_not_eq_true zero); omega
  simp only [swWord, swValue, swStamp, swClass, swSettled, settled, put, fld]
  omega

/-- Settles O33: a settled word is read as it is; another by the class of its age, past, future or neither. -/
theorem stampedReads : Obligations.StampedReads := by
  unfold Obligations.StampedReads
  intro x w r d lambda
  have age : ageOf r (swStamp w) = d := ageOf_swStamp r w
  refine ⟨fun settled => ?_, fun open_ past => ?_, fun open_ future => ?_, fun open_ old young => ?_, fun _ h => swWord_fields h⟩
  · rw [stampedRead, swSettled, settled]; rfl
  · have isPast : agePast d = true := decide_eq_true past
    simp only [stampedRead, swSettled, open_, age, isPast]
    rfl
  · have notPast : agePast d = false := decide_eq_false (by omega)
    have isFuture : ageFuture d = true := decide_eq_true future
    simp only [stampedRead, swSettled, open_, age, notPast, isFuture]
    rfl
  · have notPast : agePast d = false := decide_eq_false (by omega)
    have notFuture : ageFuture d = false := decide_eq_false (by omega)
    simp only [stampedRead, swSettled, open_, age, notPast, notFuture]
    rfl

end Sys2Proof.Machine
end

section
/-! The count of corrected errors: O60. -/

namespace Sys2Proof.Machine

open Sys2Proof

/-- One more, or the largest value. -/
theorem saturating_succ (w : Word) : (if w = ones64 then w else w + 1) = BitVec.ofNat 64 (min (w.toNat + 1) (2 ^ 64 - 1)) := by
  have full : w = ones64 ↔ w.toNat = 2 ^ 64 - 1 := by rw [← BitVec.toNat_inj, ones64, BitVec.toNat_allOnes]
  have lt := w.isLt
  apply BitVec.eq_of_toNat_eq
  rw [BitVec.toNat_ofNat]
  split
  next h => rw [full] at h; omega
  next h => rw [full] at h; rw [BitVec.toNat_add, show (1 : Word).toNat = 1 from rfl]; omega

theorem regRead_cecnt (s : State) : regRead s 0x318 8 = s.pkg.cecnt.toNat := by
  have lt := s.pkg.cecnt.isLt
  simp (disch := omega) only [regRead, regPlace_pkg, pkgRead, if_neg, ↓reduceIte]
  rw [show 792 % 8 = 0 by rfl, Nat.mul_zero, pow_zero, Nat.div_one, Nat.mod_eq_of_lt lt]

/-- Settles O60: the count saturates at its 64 ones, and the register is read and written whole. -/
theorem correctedErrorsCount : Obligations.CorrectedErrorsCount := by
  unfold Obligations.CorrectedErrorsCount
  refine ⟨rfl, fun s => ⟨?count, regRead_cecnt s, fun v => ?write⟩⟩
  case count =>
    change execCorrectedError s = _
    simp only [execCorrectedError, saturating_succ]
  case write => exact (exec_registerWrite_pkg s v rfl (by decide) rfl).trans (congrArg _ (pkgWrite_cecnt s v))

end Sys2Proof.Machine
end

section
/-! The state right after reset: O53. -/

namespace Sys2Proof.Machine

open Sys2Proof

/-- A table that lists one value for some numbers gives that value for them. -/
theorem fget_map_mem {β : Type} {l : List Nat} {key : Nat → Nat} {k : Nat} (v d : β) (h : k ∈ l.map key) :
    fget (l.map fun i => (key i, v)) k d = v := by
  induction l with
  | nil => simp at h
  | cons i l ih =>
    simp only [List.map_cons, fget]
    split
    · rfl
    next ne => exact ih ((List.mem_cons.mp h).resolve_left fun e => ne e.symm)

/-- It gives its default for the others. -/
theorem fget_map_not_mem {β : Type} {l : List Nat} {key : Nat → Nat} {k : Nat} (v d : β) (h : k ∉ l.map key) :
    fget (l.map fun i => (key i, v)) k d = d := by
  induction l with
  | nil => rfl
  | cons i l ih =>
    rw [List.map_cons, List.mem_cons, not_or] at h
    rw [List.map_cons, fget, if_neg (Ne.symm h.1), ih h.2]

/-- The numbers of the harts that start in M-mode: slot 0 of the CMCs and of the application cores (log entry 9). -/
def machineModeKeys : List Nat := ((List.range 12).map (192 + ·) ++ (List.range 16).map (228 + ·)).map (8 * ·)

theorem reset_harts : State.reset.harts
    = (((List.range 12).map (192 + ·) ++ (List.range 16).map (228 + ·)).map fun u => (8 * u, { Slot.reset with priv := 3 })) := by
  simp [State.reset, List.map_map, Function.comp_def]

theorem reset_hart_machine {u k : Nat} (h : hartKey u k ∈ machineModeKeys) : State.reset.hart u k = { Slot.reset with priv := 3 } := by
  rw [State.hart, reset_harts]
  exact fget_map_mem _ _ h

theorem reset_hart_other {u k : Nat} (h : hartKey u k ∉ machineModeKeys) : State.reset.hart u k = Slot.reset := by
  rw [State.hart, reset_harts]
  exact fget_map_not_mem _ _ h

theorem reset_hart_core {u k : Nat} (hu : u < 192) (hk : k < 8) : State.reset.hart u k = Slot.reset := by
  refine reset_hart_other fun h => ?_
  simp only [machineModeKeys, hartKey, List.mem_map, List.mem_append, List.mem_range] at h
  obtain ⟨_, ⟨_, -, rfl⟩ | ⟨_, -, rfl⟩, e⟩ := h <;> omega

theorem reset_hart_idle (u k : Nat) : (State.reset.hart u k).active = false := by
  by_cases h : hartKey u k ∈ machineModeKeys
  · rw [reset_hart_machine h]; rfl
  · rw [reset_hart_other h]; rfl

/-- Settles O53: every table is empty, so each unit, quad, cluster and hart has its reset value. -/
theorem resetState : Obligations.ResetState := by
  unfold Obligations.ResetState
  refine ⟨rfl, rfl, fun u k hu hk => ?slot, fun u _ => ?unit, fun _ _ _ _ => rfl, fun _ _ => ⟨rfl, rfl⟩, reset_hart_idle, fun c hc => ?cmc,
    fun i hi => ?app, ⟨rfl, rfl, rfl, rfl, rfl, rfl⟩⟩
  case slot =>
    rw [reset_hart_core hu hk]
    exact ⟨rfl, rfl, rfl, rfl, rfl, rfl, rfl, rfl, rfl, rfl, rfl, rfl, rfl, fun _ _ => ⟨rfl, rfl, rfl, rfl, rfl⟩⟩
  case unit => exact ⟨rfl, rfl, rfl, rfl, rfl, rfl, rfl, rfl, rfl, rfl, fun _ _ => rfl⟩
  case cmc =>
    rw [reset_hart_machine]
    simp [machineModeKeys, hartKey, hc]
  case app =>
    rw [reset_hart_machine]
    simp [machineModeKeys, hartKey, hi]

end Sys2Proof.Machine
end

section
/-! Traps: O7 and O8. -/

namespace Sys2Proof.Machine

open Sys2Proof

/-! ### A management trap (18 R413) -/

theorem trapWord_slot (k c : Nat) : trapWord k c .slot = 256 * k + c := by
  simp [trapWord, TrapSource.slot, put, bitAt]
  omega

theorem takeTrap_mgmt {s : State} (h : isCore s.cur.unit = true ∨ isUcore s.cur.unit = true) (c v w : Nat) :
    takeTrap s c v w = mgmtTrap s s.cur.unit s.cur.slot c (w64 v) s.me.pc w .slot := by
  have own : (isCmc s.cur.unit || isApp s.cur.unit) = false := by
    simp only [isCore, isUcore, isCmc, isApp, Bool.and_eq_true, decide_eq_true_eq, Bool.or_eq_false_iff, Bool.and_eq_false_iff,
      decide_eq_false_iff_not] at h ⊢
    omega
  simp only [takeTrap, own, Bool.false_eq_true, ↓reduceIte]

theorem hart_mgmtTrap_same (s : State) (u k c : Nat) (v pc : Word) (w : Nat) (o : TrapSource) : (mgmtTrap s u k c v pc w o).hart u k =
    { s.hart u k with hxtrap := w64 (trapWord k c o), hxtval := v, hxepc := pc &&& 0xFFFFFFFFFFFFFFFC#64, pc := pc, park := 9, await := 0,
                      waitOn := none, resv := none, trapRec := trapRecord s u k c v pc w o, pipe := .idle } := by
  simp [mgmtTrap]

theorem unit_mgmtTrap_same (s : State) (u k c : Nat) (v pc : Word) (w : Nat) (o : TrapSource) : (mgmtTrap s u k c v pc w o).unit u =
    { s.unit u with trapSeq := (s.unit u).trapSeq + 1, records := (s.unit u).records ++ [trapRecord s u k c v pc w o] } := by
  simp [mgmtTrap]

/-- The first word of a trap record (Table 18.2): the serial number, the job, the unit's number and kind, and the trap word. -/
def recordHead (seq job : BitVec 16) (n : Nat) (upd : Bool) (trap : Nat) : Word :=
  w64 (put seq.toNat 48 + put job.toNat 32 + put n 24 + 2 ^ 20 + put (if upd then 1 else 0) 17 + trap)

/-- Its fields do not overlap. -/
theorem recordHead_fields (seq job : BitVec 16) {n trap : Nat} (upd : Bool) (hn : n < 2 ^ 8) (ht : trap < 2 ^ 17) :
    let w := recordHead seq job n upd trap
    w.toNat / 2 ^ 48 = seq.toNat ∧ w.toNat / 2 ^ 32 % 2 ^ 16 = job.toNat ∧ w.toNat / 2 ^ 24 % 2 ^ 8 = n
      ∧ w.toNat / 2 ^ 17 % 2 ^ 7 = 8 + (if upd then 1 else 0) ∧ w.toNat % 2 ^ 17 = trap := by
  simp only [recordHead, w64, put, BitVec.toNat_ofNat]
  cases upd <;> simp only [Bool.false_eq_true, ↓reduceIte] <;> omega

/-- Settles O7: a core's or an update core's trap is `mgmtTrap`, which writes its slot, the unit's records and nothing else. -/
theorem managementTrapEntry : Obligations.ManagementTrapEntry := by
  unfold Obligations.ManagementTrapEntry
  intro s c v w unit slot cause t u
  have taken : t = mgmtTrap s u s.cur.slot c (w64 v) s.me.pc w .slot := takeTrap_mgmt unit c v w
  have number : (if isUcore u then u - 204 else u) < 2 ^ 8 := by
    simp only [isCore, isUcore, Bool.and_eq_true, decide_eq_true_eq, u] at unit ⊢
    split <;> omega
  have fields := recordHead_fields s.mine.trapSeq s.mine.job (trap := 256 * s.cur.slot + c) (isUcore u) number (by omega)
  have me : t.me = (mgmtTrap s u s.cur.slot c (w64 v) s.me.pc w .slot).hart u s.cur.slot := by rw [taken]; rfl
  rw [hart_mgmtTrap_same] at me
  have record : t.me.trapRec = trapRecord s u s.cur.slot c (w64 v) s.me.pc w .slot := by rw [me]
  refine ⟨?me, ⟨recordHead s.mine.trapSeq s.mine.job _ (isUcore u) _, ?record, fields⟩, ?mine, ?frame, fun i hi => ?unit, fun i k h => ?hart⟩
  case me => rw [record, me, trapWord_slot]; rfl
  case record =>
    rw [record, trapRecord, trapWord_slot, recordHead]
    simp only [Bool.and_eq_true, decide_eq_true_eq]
    rfl
  case mine => rw [record, taken]; exact unit_mgmtTrap_same ..
  case frame => rw [taken]; rfl
  case unit => rw [taken]; exact (State.unit_modHart ..).trans (State.unit_modUnit_ne _ hi)
  case hart => rw [taken]; exact State.hart_modHart_ne _ h

/-! ### A trap of a unit with its own RISC-V trap vector (18 R413, log entry 9) -/

theorem takeTrap_vector {s : State} (h : isCmc s.cur.unit = true ∨ isApp s.cur.unit = true) (c v w : Nat) :
    takeTrap s c v w = vectorTrap s s.cur.unit s.cur.slot c (w64 v) s.me.pc w := by
  have own : (isCmc s.cur.unit || isApp s.cur.unit) = true := by simpa using h
  simp only [takeTrap, own, ↓reduceIte]

/-- M-mode delegates nothing of its own. -/
theorem trapLevel_machine {app : Bool} {h : Slot} {intr : Bool} {code : Option Nat} (priv : h.priv = 3) : trapLevel app h intr code = 3 := by
  cases code with
  | none => rfl
  | some c => simp [trapLevel, priv]

/-- The trap of an exception (a cause below the interrupts') that the base does not have: an open cause value, in M-mode. -/
theorem vectorTrap_open {s : State} {u k c w : Nat} (exception : c < 512) (h : rvCode (s.hart u k) c w = none) (v pc : Word) :
    vectorTrap s u k c v pc w = (s.modHart u k fun h => h.trapTo 3 s.freeWord v pc (s.hart u k).pv.virt).took := by
  have noIntr : decide (512 ≤ c) = false := decide_eq_false (by omega)
  simp [vectorTrap, h, noIntr, trapLevel]

/-- The trap of an exception of the base. -/
theorem vectorTrap_known {s : State} {u k c w e : Nat} (exception : c < 512) (h : rvCode (s.hart u k) c w = some e) (v pc : Word) :
    vectorTrap s u k c v pc w = s.modHart u k fun h => h.trapTo (trapLevel (isApp u) (s.hart u k) false (some e)) (w64 e) v pc
      ((s.hart u k).pv.virt && (some e == some 0 || some e == some 4 || some e == some 6)) := by
  have noIntr : decide (512 ≤ c) = false := decide_eq_false (by omega)
  simp [vectorTrap, h, noIntr, bitAt]

/-- Settles O8: a cause below 512 is no interrupt, and the level that takes it is the one that the delegation registers name. -/
theorem vectorTrapEntry : Obligations.VectorTrapEntry := by
  unfold Obligations.VectorTrapEntry
  refine ⟨?entry, fun _ _ _ _ priv => trapLevel_machine priv,
    fun _ _ _ _ _ => ⟨⟨rfl, rfl, rfl, rfl, rfl, rfl, rfl⟩, ⟨rfl, rfl, rfl, rfl, rfl, rfl, rfl⟩⟩⟩
  intro s c v w own exception code gva
  refine ⟨fun open_ => ?opened, fun e known => ?base⟩
  case opened =>
    have isVirt : gva = s.me.pv.virt := by simp [gva, open_]
    rw [takeTrap_vector own, vectorTrap_open exception open_, isVirt]
    rfl
  case base =>
    have isGva : gva = (s.me.pv.virt && (some e == some 0 || some e == some 4 || some e == some 6)) := by simp [gva, known]
    rw [takeTrap_vector own, vectorTrap_known exception known, isGva]
    rfl

end Sys2Proof.Machine
end

section
/-! SUPPORT. The mailbox of a cluster: a slot of it read and written, the arrival of a record, and the instructions on it (18 R414 to R419). -/

namespace Sys2Proof.Machine

open Sys2Proof

variable {s t : State} {a b d : BitVec 5} {c i k n u : Nat}

/-! ### Slots -/

@[simp] theorem mbox_begun : mbox (s.begun n) c i = mbox s c i := rfl
@[simp] theorem mbox_modHart (f : Slot → Slot) : mbox (s.modHart u k f) c i = mbox s c i := rfl

theorem mbox_setMbox_same (m : MboxSlot) : mbox (setMbox s c i m) c i = m := by
  rw [mbox, setMbox, State.cluster_modCluster_same]
  exact fget_fset_same ..

theorem Slot.reg_setReg_same (h : Slot) (r : Nat) (v : Word) : (h.setReg r v).reg r = if r = 0 then 0 else v := by
  rw [Slot.reg, Slot.setReg]
  split
  · rfl
  · exact fget_fset_same ..

theorem mbox_wakeWfi : mbox (wakeWfi s u) c i = mbox s c i := wakeWfi_keeps (g := fun t => mbox t c i) (fun _ _ _ _ => rfl) u

/-! ### What the slots of the harts see of a write to memory -/

@[simp] theorem Slot.sees_isBound (h : Slot) (own : Bool) (line r : Nat) : (h.sees own line).isBound r = h.isBound r := by
  have bound (j : Nat) : ((h.sees own line).gen j).bound = (h.gen j).bound := by
    cases own with
    | false => rfl
    | true =>
      exact (congrArg StreamGen.bound (fget_map h.sg j StreamGen.reset fun g => g.upTo line)).trans rfl
  simp only [Slot.isBound, bound]

theorem State.hart_wrote (who line u k : Nat) : (s.wrote who line).hart u k = (s.hart u k).sees (hartKey u k == who) line := by
  rw [State.hart, State.wrote, State.hart]
  generalize s.harts = m
  induction m with
  | nil => simp [fget, Slot.sees, Slot.reset]
  | cons q m ih =>
    simp only [List.map_cons, fget]
    split
    next same => rw [same]
    next => exact ih

@[simp] theorem mem_wrote (who line : Nat) : (s.wrote who line).mem = s.mem := rfl

theorem State.me_wrote (who line : Nat) : (s.wrote who line).me = s.me.sees (hartKey s.cur.unit s.cur.slot == who) line := State.hart_wrote ..

/-! ### Arrivals -/

theorem mbox_landRecord (r : List Word) :
    mbox (landRecord s k n u r) k n = { state := .full, record := r, order := s.clock, src := u, reply := [] } := by
  rw [landRecord, mbox_wakeWfi, mbox_setMbox_same]

theorem exec_mailboxRecordArrival_core {r : List Word} {rest : List (List Word)} (core : isCore u = true)
    (runs : (s.unit (cmcOf (u / 16))).halted = false) (free : (mbox s (u / 16) (u % 16)).state = .empty)
    (first : (s.unit u).records = r :: rest) :
    exec (.mailboxRecordArrival (u / 16) u) s = .next (landRecord (popRecord s u) (u / 16) (u % 16) u r) := by
  have lt : u < 192 := of_decide_eq_true core
  have cluster : ¬12 ≤ u / 16 := by omega
  have own : (decide (u < 228) && !isCmc u) = true := by simp [isCmc]; omega
  change execMailboxRecordArrival (u / 16) u s = _
  simp [execMailboxRecordArrival, cluster, runs, own, core, free, first]

theorem exec_mailboxRecordArrival_notice {j : Nat} {r : PendRecord} (cluster : k < 12) (runs : (s.unit (cmcOf k)).halted = false)
    (notice : 228 ≤ u) (first : findPos (fun p : PendRecord => p.cluster == k && p.src == u) s.pendRecords = some j)
    (record : s.pendRecords[j]? = some r) (free : freeShared s k = some n) :
    exec (.mailboxRecordArrival k u) s = .next (landRecord { s with pendRecords := dropAt s.pendRecords j } k n u r.record) := by
  have here : ¬12 ≤ k := by omega
  have away : ¬u < 228 := by omega
  change execMailboxRecordArrival k u s = _
  simp [execMailboxRecordArrival, here, runs, away, first, record, free]

/-! ### Operands -/

/-- A CMC's instruction names a place of its private memory. -/
theorem privatePlace_of {va : Nat} (aligned : va % n = 0) (low : coreWindow ≤ va) (high : va + n ≤ coreWindow + 0x40000) :
    privatePlace s va n = .ok (storeBase s.cur.unit + (va - coreWindow)) := by
  simp only [privatePlace, needAligned_of aligned, low, high, decide_true, Bool.and_self, need_true, res_bind_ok]

theorem wfld_slot {x : Word} : (wfld x 63 5 == 0) = decide (x.toNat < 32) := by
  rw [wfld_top x (by decide), Bool.eq_iff_iff, beq_iff_eq, decide_eq_true_eq]
  omega

section
variable {x y : Word} (ha : s.me.Holds a x)
include ha

theorem mboxNumber_begun (slot : x.toNat < 32) : mboxNumber (s.begun 4) a = .ok (s.begun 4, x.toNat) := by
  simp only [mboxNumber, readX_holds ha, wfld_slot, needValue_of (decide_eq_true slot), res_bind_ok]

theorem mboxNumber_begun_off (off : ¬x.toNat < 32) : mboxNumber (s.begun 4) a = .error (.trap cIllegal a.toNat) := by
  simp only [mboxNumber, readX_holds ha, wfld_slot, needValue_off (decide_eq_false off), res_bind_ok, res_bind_error]

/-! ### MBXRD -/

omit ha in
theorem oldestFull_begun : oldestFull (s.begun n) c = oldestFull s c := rfl

omit ha in
theorem myCluster_begun : (s.begun n).myCluster = s.cur.unit - 192 := rfl

/-- The state in which the oldest record stands in private memory, and its slot is READ. -/
def State.recordRead (s : State) (pa c i : Nat) : State :=
  setMbox (((s.put pa 64 (ofWords (mbox s c i).record)).clearPoison pa 64).wrote (hartKey s.cur.unit s.cur.slot) (lineOf pa)) c i
    { mbox s c i with state := .read }

omit ha in
theorem State.recordRead_isBound (pa r : Nat) : (s.recordRead pa c i).me.isBound r = s.me.isBound r := by
  simp only [State.recordRead, setMbox, State.me_modCluster, State.me_wrote, Slot.sees_isBound, State.me_clearPoison, State.me_put]

omit ha in
theorem State.recordRead_mem {pa : Nat} (store : 2 ^ 52 ≤ pa) :
    (s.recordRead pa c i).mem = memPut s.mem pa 64 (ofWords (mbox s c i).record) := by
  have cell : s.cell pa = pa := s.cell_of_store store
  rw [State.recordRead, setMbox, State.modCluster_mem, mem_wrote, State.clearPoison_mem, State.put, cell]

omit ha in
theorem mbox_recordRead (pa : Nat) : mbox (s.recordRead pa c i) c i = { mbox s c i with state := .read } := mbox_setMbox_same _

theorem mbxrdBody_none (hd : s.me.free d) (place : privatePlace (s.begun 4) x.toNat 64 = .ok n)
    (none : oldestFull s (s.cur.unit - 192) = none) : mbxrdBody d a (s.begun 4) = .ok ((s.begun 4).setX d (BitVec.allOnes 64)) := by
  simp only [mbxrdBody, readX_holds ha, place, myCluster_begun, oldestFull_begun, none, res_bind_ok]
  exact writeX_setX (free_begun hd)

theorem mbxrdBody_some {pa : Nat} (hd : s.me.free d) (place : privatePlace (s.begun 4) x.toNat 64 = .ok pa)
    (oldest : oldestFull s (s.cur.unit - 192) = some n) :
    mbxrdBody d a (s.begun 4) = .ok (((s.begun 4).recordRead pa (s.cur.unit - 192) n).setX d (BitVec.ofNat 64 n)) := by
  simp only [mbxrdBody, readX_holds ha, place, myCluster_begun, oldestFull_begun, oldest, res_bind_ok]
  exact writeX_setX (s := (s.begun 4).recordRead pa (s.cur.unit - 192) n)
    ((State.recordRead_isBound pa d.toNat).trans (free_begun (n := 4) hd))

/-! ### MBXACK -/

/-- The slots that MBXACK empties (18 R417). -/
def mayAck (s : State) (m : MboxSlot) : Prop :=
  m.state = .withdrawn ∨ m.state = .read ∧ (needReply m.record = false ∨ removing s (recordJob m.record) = true)

omit ha in
theorem mayAck_iff (m : MboxSlot) :
    (m.state == .withdrawn || (m.state == .read && (!needReply m.record || removing (s.begun 4) (recordJob m.record)))) = true ↔ mayAck s m := by
  simp only [mayAck, Bool.or_eq_true, Bool.and_eq_true, beq_iff_eq, Bool.not_eq_true']
  rfl

theorem exec_mbxack_frees (ready : s.ready) (cmc : s.onCmcS = true) (slot : x.toNat < 32)
    (may : mayAck s (mbox s (s.cur.unit - 192) x.toNat)) :
    exec (.mbxack a) s = .next (setMbox (s.begun 4) (s.cur.unit - 192) x.toNat MboxSlot.reset) := by
  change execMbxack a s = _
  rw [execMbxack]
  refine issue_ok cmc ready ?_
  simp only [mboxNumber_begun ha slot, myCluster_begun, mbox_begun, needValue_of ((mayAck_iff _).mpr may), res_bind_ok]

theorem exec_mbxack_off (ready : s.ready) (cmc : s.onCmcS = true)
    (off : ¬(x.toNat < 32 ∧ mayAck s (mbox s (s.cur.unit - 192) x.toNat))) :
    exec (.mbxack a) s = .next (s.trapped cIllegal a.toNat (.mbxack a)) := by
  change execMbxack a s = _
  rw [execMbxack]
  refine issue_trap cmc ready ?_
  by_cases slot : x.toNat < 32
  · have no := Bool.eq_false_of_not_eq_true (mt (mayAck_iff (mbox s (s.cur.unit - 192) x.toNat)).mp fun may => off ⟨slot, may⟩)
    simp only [mboxNumber_begun ha slot, myCluster_begun, mbox_begun, needValue_off no, res_bind_ok, res_bind_error]
  · simp only [mboxNumber_begun_off ha slot, res_bind_error]

/-! ### MBXPOST -/

omit ha in
theorem poisonIn_begun (pa m : Nat) : (s.begun n).poisonIn pa m = s.poisonIn pa m := rfl
omit ha in
theorem get_begun (pa m : Nat) : (s.begun n).get pa m = s.get pa m := rfl

/-- A reply block without poison that breaks no rule for the record m (R418). -/
structure ReplyBlock (s : State) (va pa : Nat) (m : MboxSlot) (ws : List Word) : Prop where
  place : privatePlace (s.begun 4) va 32 = .ok pa
  words : wordsOf 4 (s.get pa 32) = ws
  clean : s.poisonIn pa 32 = none
  zero : needHeldZero va ws [0xFFFFFFFFFFFFE0FC, 3, 0, 0xFFFFFFFFFFFFFFFF] = .ok ()
  redirect : ¬(wfld (nthWord ws 0) 1 0 = 2 ∧ wbit (nthWord m.record 0) 11 = true)

omit ha in
theorem ReplyBlock.allowed {va pa : Nat} {m : MboxSlot} {ws : List Word} (h : ReplyBlock s va pa m ws) :
    (!(wfld (nthWord ws 0) 1 0 == 2 && wbit (nthWord m.record 0) 11)) = true := by
  simpa [imp_iff_not_or] using h.redirect

theorem mbxpostBody_read {pa : Nat} {ws : List Word} (hb : s.me.Holds b y) (slot : x.toNat < 32)
    (read : (mbox s (s.cur.unit - 192) x.toNat).state = .read) (reply : needReply (mbox s (s.cur.unit - 192) x.toNat).record = true)
    (block : ReplyBlock s y.toNat pa (mbox s (s.cur.unit - 192) x.toNat) ws) : mbxpostBody a b (s.begun 4) =
      .ok (setMbox (s.begun 4) (s.cur.unit - 192) x.toNat { mbox s (s.cur.unit - 192) x.toNat with state := .replied, reply := ws }) := by
  simp only [mbxpostBody, mboxNumber_begun ha slot, readX_holds hb, myCluster_begun, mbox_begun, read, reply, beq_self_eq_true, Bool.true_or,
    Bool.and_self, needValue_of, block.place, get_begun, poisonIn_begun, block.words, block.clean, block.zero, need_of block.allowed,
    ↓reduceIte, res_bind_ok]

/-! ### RESUME -/

omit ha in
/-- The slot is empty, and RESUME leaves the pipe. -/
def State.resumed (s : State) (c i : Nat) : State := (setMbox s c i MboxSlot.reset).modMe fun h => { h with pipe := .idle }

section
variable (slot : x.toNat < 32)
include slot

theorem resumeBody_withdrawn (idle : s.me.pipe = .idle) (withdrawn : (mbox s (s.cur.unit - 192) x.toNat).state = .withdrawn) :
    resumeBody a (s.begun 4) = .ok ((s.begun 4).resumed (s.cur.unit - 192) x.toNat) := by
  simp only [resumeBody, State.begun_pipe, idle, mboxNumber_begun ha slot, myCluster_begun, mbox_begun, withdrawn, res_bind_ok]
  rfl

theorem resumeBody_replied (idle : s.me.pipe = .idle) (replied : (mbox s (s.cur.unit - 192) x.toNat).state = .replied) :
    resumeBody a (s.begun 4) = .error (.hold (some (.resume x.toNat false))) := by
  simp only [resumeBody, State.begun_pipe, idle, mboxNumber_begun ha slot, myCluster_begun, mbox_begun, replied, res_bind_ok]
  rfl

theorem resumeBody_acknowledged (done : s.me.pipe = .resume x.toNat true)
    (replied : (mbox s (s.cur.unit - 192) x.toNat).state = .replied) :
    resumeBody a (s.begun 4) = .ok ((s.begun 4).resumed (s.cur.unit - 192) x.toNat) := by
  simp only [resumeBody, State.begun_pipe, done, mboxNumber_begun ha slot, res_bind_ok]
  rw [myCluster_begun, mbox_begun, replied]
  rfl

end

end

theorem exec_resumeReplyApply {j : Nat} (cluster : k < 12) (sent : (s.hart (cmcOf k) 0).pipe = .resume n false)
    (replied : (mbox s k n).state = .replied) (parked : parkedOn s (mbox s k n).src (mbox s k n).record = some j) :
    exec (.resumeReplyApply k n) s = .next (applyReply (s.modHart (cmcOf k) 0 fun h => { h with pipe := .resume n true }) (mbox s k n).src j
      (mbox s k n).record (mbox s k n).reply) := by
  change execResumeReplyApply k n s = _
  have go : ((s.hart (cmcOf k) 0).pipe == .resume n false && (mbox s k n).state == .replied && decide (k < 12)) = true := by
    rw [sent, replied, decide_eq_true cluster]; simp
  simp only [execResumeReplyApply, go, ↓reduceIte, parked]

end Sys2Proof.Machine
end

section
/-! The mailbox: O26. -/

namespace Sys2Proof.Machine

open Sys2Proof

/-- Settles O26: each part of the mailbox by its own lemma; the private memory of a CMC is a store, so a record's place is its own cell. -/
theorem mailboxInstructionsComplete : Obligations.MailboxInstructionsComplete := by
  unfold Obligations.MailboxInstructionsComplete
  intro s d a b ready plainA plainB hd c x y pa pb
  have ha : s.me.Holds a (s.me.reg a.toNat) := ⟨plainA, rfl⟩
  have hb : s.me.Holds b (s.me.reg b.toNat) := ⟨plainB, rfl⟩
  refine ⟨fun _ _ _ core runs free first => exec_mailboxRecordArrival_core core runs free first,
    fun _ _ _ _ cluster runs notice first record _ free => exec_mailboxRecordArrival_notice cluster runs notice first record free,
    fun _ _ _ r => mbox_landRecord r, ?readNone, ?readSome, ?ack, ?post, ?withdrawn, ?replied, ?acknowledged, ?apply⟩
  case readNone =>
    exact fun cmc aligned low high none => issue_ok cmc ready (mbxrdBody_none ha hd (privatePlace_of aligned low high) none)
  case readSome =>
    intro n cmc aligned low high oldest
    refine ⟨_, issue_ok cmc ready (mbxrdBody_some ha hd (privatePlace_of aligned low high) oldest), ?_, ?_, ?_⟩
    · have zero : d.toNat = 0 ↔ d = 0 := BitVec.toNat_inj (y := 0#5)
      rw [State.setX, State.me_modMe, Slot.reg_setReg_same]
      simp only [zero]
    · exact (mbox_modHart _).trans (mbox_recordRead _)
    · exact (State.modMe_mem ..).trans (State.recordRead_mem (by simp only [storeBase]; omega))
  case ack =>
    intro cmc frees
    exact ⟨fun ⟨slot, may⟩ => exec_mbxack_frees ha ready cmc slot may, fun off => exec_mbxack_off ha ready cmc off⟩
  case post =>
    intro cmc slot read reply aligned low high clean ws zero redirect
    have block : ReplyBlock s y pb (mbox s c x) ws := ⟨privatePlace_of aligned low high, rfl, clean, zero, redirect⟩
    exact issue_ok cmc ready (mbxpostBody_read ha hb slot read reply block)
  case withdrawn => exact fun cmc slot idle withdrawn => issue_ok cmc ready (resumeBody_withdrawn ha slot idle withdrawn)
  case replied =>
    intro cmc slot idle replied
    exact (issue_eq cmc ready).trans (by rw [resumeBody_replied ha slot idle replied, finish_hold])
  case acknowledged => exact fun cmc slot done replied => issue_ok cmc ready (resumeBody_acknowledged ha slot done replied)
  case apply =>
    rintro k n u j cluster sent replied rfl parked
    exact exec_resumeReplyApply cluster sent replied parked

end Sys2Proof.Machine
end

section
/-! What a reply does to the slot parked on its record: O27. -/

namespace Sys2Proof.Machine

open Sys2Proof

/-- The slot that a reply restarts (18 R419). -/
def Slot.answered (h : Slot) (r ws : List Word) : Slot :=
  let act := wfld (nthWord ws 0) 1 0
  { (h.setReg (wfld (nthWord ws 0) 12 8) (nthWord ws 2)).unpark with
    pc := if wbit (nthWord r 0) 11 then h.pc else if act = 0 then nthWord r 1 else if act = 1 then nthWord r 1 + 4 else nthWord ws 1
    trapRec := [] }

theorem applyReply_eq (s : State) (u k : Nat) {r ws : List Word} (h : wfld (nthWord ws 0) 1 0 < 3) : applyReply s u k r ws =
    if wbit (nthWord r 0) 11 && wfld (nthWord ws 0) 1 0 == 1 then
      (s.modHart u k fun h => h.answered r ws).modFe u fun fe => { fe with replay := fe.replay.drop 1 }
    else s.modHart u k fun h => h.answered r ws := by
  rw [applyReply]
  exact if_neg (by omega)

/-- Settles O27: the slot is `Slot.answered`; a SKIP of a tile fault changes the front end of its unit too, and no slot. -/
theorem repliesApplied : Obligations.RepliesApplied := by
  unfold Obligations.RepliesApplied
  intro s u k r ws act3 t act tile
  have applied : t = _ := applyReply_eq s u k act3
  have slot : t.hart u k = (s.hart u k).answered r ws := by
    rw [applied]
    split
    · exact (State.hart_modFe ..).trans (State.hart_modHart_same ..)
    · exact State.hart_modHart_same ..
  have value : (t.hart u k).reg (wfld (nthWord ws 0) 12 8) = 
      ((s.hart u k).setReg (wfld (nthWord ws 0) 12 8) (nthWord ws 2)).reg (wfld (nthWord ws 0) 12 8) := by
    rw [slot]; rfl
  refine ⟨by rw [slot]; rfl, by rw [slot]; rfl, value.trans (Slot.reg_setReg_same ..), ?mem, fun i j other => ?frame, fun h => ?units,
    fun isTile skip => ⟨?replay, fun i other => ?others⟩⟩
  case mem => rw [applied]; split <;> rfl
  case frame =>
    rw [applied]
    split
    · exact (State.hart_modFe ..).trans (State.hart_modHart_ne _ other)
    · exact State.hart_modHart_ne _ other
  case units =>
    have plain : ¬(tile && act == 1) = true := by simpa [imp_iff_not_or] using h
    rw [applied, if_neg plain]
    rfl
  case replay =>
    rw [applied, if_pos (by simpa [tile, act] using ⟨isTile, skip⟩)]
    simp [State.fe, State.modFe]
  case others =>
    rw [applied, if_pos (by simpa [tile, act] using ⟨isTile, skip⟩)]
    exact (State.unit_modUnit_ne _ other).trans rfl

end Sys2Proof.Machine
end

section
/-! SUPPORT. PREEMPTs sent to cores, and the announcement of a cut at the units (18 R420, R431 to R433). -/

namespace Sys2Proof.Machine

open Sys2Proof

variable {s t r : State} {d a : BitVec 5} {dir : Word} {ks : List Nat} {u k : Nat}

/-! ### PREEMPTs -/

theorem wakeWfi_units : (wakeWfi s u).units = s.units := wakeWfi_keeps (g := State.units) (fun _ _ _ _ => rfl) u

/-- A PREEMPT arrives at a core (18 R420). -/
def State.preempted (s : State) (dir : Word) (u : Nat) : State := wakeWfi (s.modUnit u fun x => { x with preempt := some dir }) u

theorem unit_preempted (i : Nat) : (s.preempted dir u).unit i = (s.modUnit u fun x => { x with preempt := some dir }).unit i :=
  congrArg (fget · i UnitSt.reset) wakeWfi_units

theorem sendPreempts_sent (h : (s.unit u).preempt = none) : sendPreempts s dir (u :: ks) = sendPreempts (s.preempted dir u) dir ks := by
  simp only [sendPreempts, sendPreempt, h, Option.isSome_none, Bool.false_eq_true, ↓reduceIte, State.preempted]

theorem sendPreempts_waits {old : Word} (h : (s.unit u).preempt = some old) :
    sendPreempts s dir (u :: ks) = ((sendPreempts s dir ks).1, u :: (sendPreempts s dir ks).2) := by
  simp only [sendPreempts, sendPreempt, h, Option.isSome_some, ↓reduceIte]

/-- What the arrival of a PREEMPT keeps, PREEMPTs sent keep. -/
theorem sendPreempts_keeps {α : Type} {g : State → α} (keeps : ∀ t u, g (State.preempted t dir u) = g t) :
    g (sendPreempts s dir ks).1 = g s := by
  induction ks generalizing s with
  | nil => rfl
  | cons u ks ih =>
    cases h : (s.unit u).preempt with
    | none => rw [sendPreempts_sent h, ih, keeps]
    | some old => rw [sendPreempts_waits h, ih]

/-- The cores whose PREEMPT waits at the sender are those that have one pending. -/
theorem sendPreempts_pending (once : ks.Nodup) : (sendPreempts s dir ks).2 = ks.filter fun u => (s.unit u).preempt.isSome := by
  induction ks generalizing s with
  | nil => rfl
  | cons u ks ih =>
    obtain ⟨new, once⟩ := List.nodup_cons.mp once
    cases h : (s.unit u).preempt with
    | none =>
      have others : ∀ v ∈ ks, ((s.preempted dir u).unit v).preempt.isSome = (s.unit v).preempt.isSome := by
        intro v hv
        rw [unit_preempted, State.unit_modUnit_ne _ (ne_of_mem_of_not_mem hv new)]
      rw [sendPreempts_sent h, ih once, List.filter_congr others, List.filter_cons_of_neg (by simp [h])]
    | some old => rw [sendPreempts_waits h, ih once, List.filter_cons_of_pos (by simp [h])]

/-- A core has the PREEMPT that was pending there, or the one sent. -/
theorem sendPreempts_preempt (u : Nat) : ((sendPreempts s dir ks).1.unit u).preempt =
    if u ∈ ks then some ((s.unit u).preempt.getD dir) else (s.unit u).preempt := by
  induction ks generalizing s with
  | nil => rfl
  | cons v ks ih =>
    cases h : (s.unit v).preempt with
    | none =>
      rw [sendPreempts_sent h, ih, unit_preempted]
      rcases eq_or_ne u v with rfl | other
      · simp [h]
      · simp [State.unit_modUnit_ne _ other, other]
    | some old =>
      rw [sendPreempts_waits h, ih]
      rcases eq_or_ne u v with rfl | other
      · simp [h]
      · simp [other]

theorem preempted_ni (i : Nat) : ((s.preempted dir u).unit i).ni = (s.unit i).ni := by
  rw [unit_preempted]
  exact ni_modUnit (s := s) (f := fun x => { x with preempt := some dir }) (fun _ => rfl) u i

/-- What a change of harts keeps of each hart. -/
theorem hart_modHart_keeps {α : Type} {p : Slot → α} {f : Slot → Slot} (keeps : ∀ h, p (f h) = p h) (u k i j : Nat) :
    p ((s.modHart u k f).hart i j) = p (s.hart i j) := by
  rw [State.hart, State.modHart, State.setHart, State.hart, State.hart]
  rcases eq_or_ne (hartKey i j) (hartKey u k) with same | other
  · rw [same, fget_fset_same, keeps]
  · rw [fget_fset_ne _ _ _ other]

theorem wakeWfi_pipe (i j : Nat) : ((wakeWfi s u).hart i j).pipe = (s.hart i j).pipe := by
  refine foldl_keeps (fun t : State => (t.hart i j).pipe) _ (fun t k => ?_) _ _
  split
  · exact hart_modHart_keeps (p := Slot.pipe) (f := fun h => { h with woken := true }) (fun _ => rfl) u k i j
  · rfl

theorem preempted_pipe (i j : Nat) : ((s.preempted dir u).hart i j).pipe = (s.hart i j).pipe := (wakeWfi_pipe i j).trans rfl

/-! ### The announcement -/

theorem zeroColour_counts (n : Ni) (old : Bool) :
    (old = false → (n.zeroColour !old).sent1 = 0 ∧ (n.zeroColour !old).rcvd1 = 0)
      ∧ (old = true → (n.zeroColour !old).sent0 = 0 ∧ (n.zeroColour !old).rcvd0 = 0) := by
  cases old with
  | false => exact ⟨fun _ => ⟨rfl, rfl⟩, nofun⟩
  | true => exact ⟨nofun, fun _ => ⟨rfl, rfl⟩⟩

/-- A relation that holds between every value and the one it is mapped to, and of the default with itself. -/
theorem fget_map_rel {β : Type} {R : β → β → Prop} {f : Nat → β → β} {e : β} (refl : R e e) (rel : ∀ k x, R x (f k x)) (m : FMap β) (k : Nat) :
    R (fget m k e) (fget (m.map fun q => (q.1, f q.1 q.2)) k e) := by
  induction m with
  | nil => exact refl
  | cons q m ih =>
    simp only [List.map_cons, fget]
    split
    · exact rel ..
    · exact ih

/-- The announcement zeroes the counts of the new colour at an interface of the job. -/
def announced (j : BitVec 16) (old : Bool) (x y : UnitSt) : Prop :=
  y.preempt = x.preempt ∧ (x.ni.cjob = j →
    (old = false → y.ni.sent1 = 0 ∧ y.ni.rcvd1 = 0) ∧ (old = true → y.ni.sent0 = 0 ∧ y.ni.rcvd0 = 0))

theorem announced_announceAt (j : BitVec 16) (old : Bool) (k : Nat) (x : UnitSt) : announced j old x (announceAt j old k x) := by
  refine ⟨rfl, fun own => ?_⟩
  have counts := zeroColour_counts x.ni old
  simp only [announceAt, own, ↓reduceIte]
  split <;> exact counts

theorem announced_reset (j : BitVec 16) (old : Bool) : announced j old UnitSt.reset UnitSt.reset :=
  ⟨rfl, fun _ => ⟨fun _ => ⟨rfl, rfl⟩, fun _ => ⟨rfl, rfl⟩⟩⟩

/-- The units after the announcement of a cut, and its colours and residual counts. -/
def State.coloured (s : State) (c : Cut) : State :=
  let p := fget s.residual c.job.toNat (0, 0)
  { s with units := s.units.map fun q => (q.1, announceAt c.job c.old q.1 q.2)
           residual := fset s.residual c.job.toNat (if c.old then (0, p.2) else (p.1, 0))
           colours := fset s.colours c.job.toNat (!c.old) }

theorem unit_coloured (c : Cut) (u : Nat) : announced c.job c.old (s.unit u) ((s.coloured c).unit u) :=
  fget_map_rel (announced_reset ..) (announced_announceAt c.job c.old) s.units u

/-- The state that an announcement leaves. -/
def State.cutAnnounced (s : State) (c : Cut) : State :=
  let cores := coresOf s c.job
  let sent := sendPreempts (s.coloured c) c.dir cores
  cutGoesOn { sent.1 with cut := some { c with announced := true, notStopped := cores } } c.job sent.2 c.dir

theorem exec_cutAnnounce {c : Cut} (cut : s.cut = some c) (first : c.announced = false) : exec .cutAnnounce s = .next (s.cutAnnounced c) := by
  change execCutAnnounce s = _
  simp only [execCutAnnounce, cut, first, Bool.false_eq_true, ↓reduceIte, State.cutAnnounced, State.coloured]

section
variable {j : BitVec 16}

theorem cutGoesOn_keeps {α : Type} {g : State → α} (hart : ∀ t u k f, g (State.modHart t u k f) = g t) : g (cutGoesOn s j ks dir) = g s := by
  unfold cutGoesOn
  generalize (upTo 52).map (· + 192) = us
  refine foldl_keeps g _ (fun t u => ?_) us s
  split
  · exact hart ..
  · rfl

/-- The CUTREQ of a CMC or an application core that waits for the announcement goes on. -/
theorem cutGoesOn_pipe (cmc : 192 ≤ u) (app : u < 244) (waiting : (s.hart u 0).pipe = .cutRun) :
    ((cutGoesOn s j ks dir).hart u 0).pipe = .cutSend j ks dir := by
  have listed : u ∈ (upTo 52).map (· + 192) := by
    simp only [upTo, List.mem_map, List.mem_range]
    exact ⟨u - 192, by omega, by omega⟩
  unfold cutGoesOn
  generalize (upTo 52).map (· + 192) = us at listed
  have sent {t : State} (us : List Nat) (h : (t.hart u 0).pipe = .cutSend j ks dir) :
      ((us.foldl (fun t u => if (t.hart u 0).pipe = .cutRun then t.modHart u 0 fun h => { h with pipe := .cutSend j ks dir } else t) t).hart u 0).pipe
        = .cutSend j ks dir := by
    refine List.foldlRecOn (motive := fun t : State => (t.hart u 0).pipe = .cutSend j ks dir) us _ h fun t h v _ => ?_
    split
    next run =>
      have other : v ≠ u := by rintro rfl; rw [h] at run; cases run
      rwa [State.hart_modHart_ne _ (by simp only [hartKey]; omega)]
    next => exact h
  induction us generalizing s with
  | nil => cases listed
  | cons v us ih =>
    rw [List.foldl_cons]
    rcases eq_or_ne v u with rfl | other
    · rw [if_pos waiting]
      exact sent us (by rw [State.hart_modHart_same])
    · refine ih ?_ ((List.mem_cons.mp listed).resolve_left other.symm)
      split
      · rwa [State.hart_modHart_ne _ (by simp only [hartKey]; omega)]
      · exact waiting

end

theorem coresOf_nodup (s : State) (j : BitVec 16) : (coresOf s j).Nodup := by
  rw [coresOf]
  split
  · exact List.nodup_nil
  · exact List.Nodup.filter _ List.nodup_range

theorem coresOf_of_units (h : t.units = s.units) (j : BitVec 16) : coresOf t j = coresOf s j := by
  simp only [coresOf, State.unit, h]

section
variable {c : Cut}

theorem cutAnnounced_cut : (s.cutAnnounced c).cut = some { c with announced := true, notStopped := coresOf s c.job } :=
  cutGoesOn_keeps (g := State.cut) fun _ _ _ _ => rfl

theorem preempted_colours : (s.preempted dir u).colours = s.colours := wakeWfi_keeps (g := State.colours) (fun _ _ _ _ => rfl) u

theorem cutAnnounced_colours : fget (s.cutAnnounced c).colours c.job.toNat false = !c.old := by
  have kept : (s.cutAnnounced c).colours = (s.coloured c).colours :=
    (cutGoesOn_keeps (g := State.colours) fun _ _ _ _ => rfl).trans (sendPreempts_keeps (g := State.colours) fun _ _ => preempted_colours)
  rw [kept]
  exact fget_fset_same ..

theorem cutAnnounced_unit (u : Nat) : (s.cutAnnounced c).unit u = (sendPreempts (s.coloured c) c.dir (coresOf s c.job)).1.unit u :=
  cutGoesOn_keeps (g := fun t => t.unit u) fun _ _ _ _ => rfl

theorem cutAnnounced_preempt (core : u ∈ coresOf s c.job) :
    ((s.cutAnnounced c).unit u).preempt = some ((s.unit u).preempt.getD c.dir) := by
  rw [cutAnnounced_unit, sendPreempts_preempt, if_pos core, (unit_coloured c u).1]

theorem cutAnnounced_ni (u : Nat) : ((s.cutAnnounced c).unit u).ni = ((s.coloured c).unit u).ni := by
  rw [cutAnnounced_unit]
  exact sendPreempts_keeps (g := fun t => (t.unit u).ni) fun _ _ => preempted_ni u

theorem cutAnnounced_pipe (cmc : 192 ≤ u) (app : u < 244) (waiting : (s.hart u 0).pipe = .cutRun) :
    ((s.cutAnnounced c).hart u 0).pipe = .cutSend c.job ((coresOf s c.job).filter fun k => (s.unit k).preempt.isSome) c.dir := by
  have pending : (sendPreempts (s.coloured c) c.dir (coresOf s c.job)).2 = (coresOf s c.job).filter fun k => (s.unit k).preempt.isSome := by
    rw [sendPreempts_pending (coresOf_nodup s c.job)]
    exact List.filter_congr fun k _ => by rw [(unit_coloured c k).1]
  rw [← pending]
  refine cutGoesOn_pipe cmc app ?_
  exact (sendPreempts_keeps (g := fun t => (t.hart u 0).pipe) fun _ _ => preempted_pipe u 0).trans waiting

end

/-! ### CUTREQ -/

/-- CUTREQ ends with 0. -/
def State.cutEnded (s : State) (d : BitVec 5) : State := (s.modMe fun h => { h with pipe := .idle }).setX d 0
/-- CUTREQ issues again with its progress. -/
def State.cutProgress (s : State) (p : Pipe) : State := (s.modMe fun h => { h with pipe := p }).again 4

theorem cutDone_ended (hd : s.me.free d) : cutDone s d = .ok (s.cutEnded d) := by
  rw [cutDone]
  refine writeX_setX ?_
  rw [Slot.free, State.me_modMe]
  exact hd

section
variable {goesOn : List Nat → Pipe}

theorem cutSending_done (sent : sendPreempts s dir ks = (r, [])) (hd : r.me.free d) : cutSending d s ks dir goesOn = .ok (r.cutEnded d) := by
  simp only [cutSending, sent, beq_self_eq_true, ↓reduceIte, cutDone_ended hd]

theorem cutSending_more {ws : List Nat} (sent : sendPreempts s dir ks = (r, k :: ws)) (fewer : k :: ws ≠ ks) :
    cutSending d s ks dir goesOn = .ok (r.cutProgress (goesOn (k :: ws))) := by
  have some_ : ((k :: ws) == ([] : List Nat)) = false := rfl
  simp only [cutSending, sent, some_, beq_false_of_ne fewer, Bool.false_eq_true, ↓reduceIte]
  rfl

end

theorem cutreqBody_cut (pipe : s.me.pipe = .cut ks dir) :
    cutreqBody d a (s.begun 4) = cutSending d (s.begun 4) ks dir fun waits => .cut waits dir := by
  simp only [cutreqBody, State.begun_pipe, pipe]

theorem cutreqBody_cutSend {j : BitVec 16} (pipe : s.me.pipe = .cutSend j ks dir) :
    cutreqBody d a (s.begun 4) = cutSending d (s.begun 4) ks dir fun waits => .cutSend j waits dir := by
  simp only [cutreqBody, State.begun_pipe, pipe]

theorem cutreqBody_idle (pipe : s.me.pipe = .idle) : cutreqBody d a (s.begun 4) = cutStart d a (s.begun 4) := by
  simp only [cutreqBody, State.begun_pipe, pipe]

/-- A cut is open. -/
def State.cutOpen (s : State) : Prop := ∃ c, s.cut = some c ∧ c.closed = false

theorem cutOpen_iff : (s.cut.map fun c => !c.closed).getD false = true ↔ s.cutOpen := by
  cases h : s.cut with
  | none => simp [State.cutOpen, h]
  | some c => simp [State.cutOpen, h]

/-- CUTREQ reads its request, and need not wait. -/
structure CutRead (s : State) (x : Word) (t : State) (ws : List Word) : Prop where
  block : loadBlock (s.begun 4) x.toNat 32 32 = .ok (t, ws)
  zero : needHeldZero x.toNat ws [0xFFFFFFFFFFFE0000, 0, 0x7FFFFFFFFFFFFF00, 0xFFFFFFFFFFFFFFFF] = .ok ()
  core : wfld (nthWord ws 2) 7 0 ≤ 191
  order : orderOk t 6 true true
  cut : t.cut = s.cut
  units : t.units = s.units

section
variable {x : Word} {ws : List Word} (ha : s.me.Holds a x) (h : CutRead s x t ws)
include ha h

theorem cutStart_open (hd : t.me.free d) (isOpen : s.cutOpen) : cutStart d a (s.begun 4) = .ok (t.acquired.setX d 1) := by
  have going := cutOpen_iff.mpr isOpen
  simp only [cutStart, readX_holds ha, h.block, h.zero, need_of (decide_eq_true h.core), waitRelease_ok (h.order.1 rfl),
    waitAcquire_ok (h.order.2 rfl), res_bind_ok, State.acquired_cut, h.cut, going, ↓reduceIte]
  exact writeX_setX (free_acquired hd)

variable (none : ¬s.cutOpen)
include none

theorem cutStart_signal (signal : wbit (nthWord ws 0) 16 = true) : cutStart d a (s.begun 4) =
    let sent := sendPreempts t.acquired (nthWord ws 1)
      (if wbit (nthWord ws 2) 63 then coresOf t.acquired ((nthWord ws 0).setWidth 16) else [wfld (nthWord ws 2) 7 0])
    if sent.2 == [] then cutDone sent.1 d else cutAgain sent.1 (.cut sent.2 (nthWord ws 1)) := by
  have closed := Bool.eq_false_of_not_eq_true (mt cutOpen_iff.mp none)
  simp only [cutStart, readX_holds ha, h.block, h.zero, need_of (decide_eq_true h.core), waitRelease_ok (h.order.1 rfl),
    waitAcquire_ok (h.order.2 rfl), res_bind_ok, State.acquired_cut, h.cut, closed, signal, Bool.false_eq_true, ↓reduceIte]

theorem cutStart_cut (cut : wbit (nthWord ws 0) 16 = false) : cutStart d a (s.begun 4) =
    let j : BitVec 16 := (nthWord ws 0).setWidth 16
    if coresOf s j == [] then writeX t.acquired d 2
    else if removing t.acquired j then cutDone t.acquired d
    else cutAgain { t.acquired with cut := some { job := j, old := fget t.colours j.toNat false, dir := nthWord ws 1, announced := false,
                                                  notStopped := coresOf s j, d := 0, closed := false } } .cutRun := by
  have closed := Bool.eq_false_of_not_eq_true (mt cutOpen_iff.mp none)
  have cores (j : BitVec 16) : coresOf t.acquired j = coresOf s j := coresOf_of_units h.units j
  simp only [cutStart, readX_holds ha, h.block, h.zero, need_of (decide_eq_true h.core), waitRelease_ok (h.order.1 rfl),
    waitAcquire_ok (h.order.2 rfl), res_bind_ok, State.acquired_cut, h.cut, closed, cut, cores, Bool.false_eq_true, ↓reduceIte]
  rfl

end

/-! ### CUTSTAT -/

theorem cutWord_other {j : BitVec 16} (other : s.cut = none ∨ ∃ c, s.cut = some c ∧ c.job ≠ j) :
    cutWord s j = BitVec.ofNat 64 (if fget s.colours j.toNat false then 2 ^ 48 else 0) := by
  obtain none | ⟨c, cut, other⟩ := other
  · simp only [cutWord, none]; rfl
  · simp only [cutWord, cut, if_neg other]; rfl

theorem cutWord_own {c : Cut} (cut : s.cut = some c) : cutWord s c.job = BitVec.ofNat 64
    ((if fget s.colours c.job.toNat false then 2 ^ 48 else 0) + (BitVec.ofInt 32 c.d).toNat * 2 ^ 16 + c.notStopped.length * 2 ^ 8
      + (if c.closed then 2 else 1)) := by
  simp only [cutWord, cut, ↓reduceIte]
  rfl

theorem exec_cutstat {x : Word} (ready : s.ready) (sys : s.onSys = true) (ha : s.me.Holds a x) (hd : s.me.free d) (job : x.toNat < 2 ^ 16) :
    exec (.cutstat d a) s = .next ((s.begun 4).setX d (cutWord s (x.setWidth 16))) := by
  have high : (wfld x 63 16 == 0) = true := by
    rw [wfld_top x (by decide), beq_iff_eq]
    omega
  change execCutstat d a s = _
  rw [execCutstat]
  refine issue_ok sys ready ?_
  simp only [readX_holds ha, needValue_of high, res_bind_ok]
  exact writeX_setX (free_begun hd)

end Sys2Proof.Machine
end

section
/-! Consistent cuts: O29. -/

namespace Sys2Proof.Machine

open Sys2Proof

/-- Settles O29: CUTREQ by the progress in its pipe, the announcement part by part, and CUTSTAT by its word. -/
theorem cutInstructionsComplete : Obligations.CutInstructionsComplete := by
  unfold Obligations.CutInstructionsComplete
  intro s t r d a ws ready sys plain hd ht hr x w0 w2 j dir open_ reads ends goesOn
  have ha : s.me.Holds a x := ⟨plain, rfl⟩
  have start (h : reads) {q : State} (body : cutStart d a (s.begun 4) = .ok q) : exec (.cutreq d a) s = .next q :=
    issue_ok sys ready ((cutreqBody_idle h.1).trans body)
  have read (h : reads) : CutRead s x t ws := by
    obtain ⟨-, block, zero, core, order, cut, units⟩ := h
    exact ⟨block, zero, core, order, cut, units⟩
  refine ⟨fun h isOpen => start h (cutStart_open ha (read h) ht isOpen), ?noCore, ?removed, ?opens, ?signal, ?again, ?sending, ?waits, ?announce, ?stat⟩
  case noCore =>
    intro h cut none empty
    refine start h ((cutStart_cut ha (read h) none cut).trans ?_)
    dsimp only
    rw [if_pos (by simpa using empty)]
    exact writeX_setX (free_acquired ht)
  case removed =>
    intro h cut none cores removed
    refine start h ((cutStart_cut ha (read h) none cut).trans ?_)
    dsimp only
    rw [if_neg (by simpa using cores), if_pos removed]
    exact cutDone_ended (free_acquired ht)
  case opens =>
    intro h cut none cores alive
    refine start h ((cutStart_cut ha (read h) none cut).trans ?_)
    dsimp only
    rw [if_neg (by simpa using cores), alive]
    rfl
  case signal =>
    intro h signal none
    have sends := cutStart_signal (d := d) ha (read h) none signal
    refine ⟨fun all => start h (sends.trans ?_), fun k ks some_ => start h (sends.trans ?_)⟩
    · have sent : sendPreempts t.acquired (nthWord ws 1) _ = (r, []) := all
      rw [sent]
      exact cutDone_ended hr
    · have sent : sendPreempts t.acquired (nthWord ws 1) _ = (r, k :: ks) := some_
      rw [sent]
      rfl
  case again => exact fun ks dir pipe sent => issue_ok sys ready ((cutreqBody_cut pipe).trans (cutSending_done sent hr))
  case sending =>
    intro i ks dir pipe
    exact ⟨fun sent => issue_ok sys ready ((cutreqBody_cutSend pipe).trans (cutSending_done sent hr)),
      fun k ws sent fewer => issue_ok sys ready ((cutreqBody_cutSend pipe).trans (cutSending_more sent fewer))⟩
  case waits =>
    intro pipe
    refine (issue_eq sys ready).trans ?_
    rw [cutreqBody, State.begun_pipe, pipe]
    rfl
  case announce =>
    intro c cut first
    exact ⟨_, _, exec_cutAnnounce cut first, cutAnnounced_cut, rfl, rfl, rfl, cutAnnounced_colours, fun u core => cutAnnounced_preempt core,
      fun u cmc app waiting => cutAnnounced_pipe cmc app waiting, fun u own => by rw [cutAnnounced_ni]; exact (unit_coloured c u).2 own⟩
  case stat =>
    intro job colour
    have number : (x.setWidth 16).toNat = x.toNat := by rw [BitVec.toNat_setWidth, Nat.mod_eq_of_lt job]
    have stat := exec_cutstat ready sys ha hd job
    refine ⟨fun other => ?_, fun c cut own => ?_⟩
    · rw [stat, cutWord_other other, number]
    · rw [stat, ← own, cutWord_own cut, own, number]

end Sys2Proof.Machine
end

section
/-! SUPPORT. The range tree and the job descriptors lie in memory: what leaves memory, the package and the orders of the stations alone leaves them alone
(15 R351, R352, 16 R366). -/

namespace Sys2Proof.Machine

open Sys2Proof

variable {s t : State}

/-- The package without the global steps, their writes and the sweeps. -/
def Pkg.stepless (p : Pkg) : Pkg := { p with g := [], gbadw := [], gwrite := [], sweep := [] }

/-- What the range tree is read from. -/
def State.land (s : State) : List Host.Cell × Pkg × FMap Station := (s.mem, s.pkg.stepless, s.stations)

theorem Pkg.eq_of_stepless {p q : Pkg} (h : p.stepless = q.stepless) :
    p = { q with g := p.g, gbadw := p.gbadw, gwrite := p.gwrite, sweep := p.sweep } :=
  show { p.stepless with g := p.g, gbadw := p.gbadw, gwrite := p.gwrite, sweep := p.sweep } = _ by rw [h]; rfl

/-- A state with the land of another differs from it in what is not land. -/
theorem eq_of_land (h : t.land = s.land) : t =
    { t with mem := s.mem, stations := s.stations
             pkg := { s.pkg with g := t.pkg.g, gbadw := t.pkg.gbadw, gwrite := t.pkg.gwrite, sweep := t.pkg.sweep } } := by
  obtain ⟨mem, pkg, stations⟩ : t.mem = s.mem ∧ t.pkg.stepless = s.pkg.stepless ∧ t.stations = s.stations := by
    simpa only [State.land, Prod.mk.injEq] using h
  rw [← mem, ← stations, ← Pkg.eq_of_stepless pkg]

theorem readDesc_of_land (h : t.land = s.land) (pa : Nat) : readDesc t pa = readDesc s pa := by
  rw [eq_of_land h]
  unfold readDesc RangeEntry.wellFormed
  rfl

theorem walkFrom_of_land (h : t.land = s.land) (va : Nat) (j : BitVec 16) (fuel n : Nat) : walkFrom t va j fuel n = walkFrom s va j fuel n := by
  induction fuel generalizing n with
  | zero => rfl
  | succ fuel ih =>
    simp only [walkFrom, ih, readDesc_of_land h]
    rw [eq_of_land h]
    rfl

theorem jobWord_of_land (h : t.land = s.land) (j : BitVec 16) (i : Nat) : jobWord? t j i = jobWord? s j i := by
  simp only [jobWord?, jobDescPa?, jobDescEntry?, walkFrom_of_land h]
  rw [eq_of_land h]
  rfl

end Sys2Proof.Machine
end

section
/-! The local step and the scalar stamped accesses: O32. -/

namespace Sys2Proof.Machine

open Sys2Proof

variable {s t : State} {d a c : BitVec 5} {x y : Word} {v w va : Nat} {g : Bool}

/-! ### Bounds of the step (17 R393) -/

theorem stepAllowed_iff (s : State) (u m : Nat) : stepAllowed s u m = true ↔ m ≤ (s.unit u).gstep.toNat + (2 ^ 21 - 1) ∧
    ∀ z, stepDomain s u = some z → (fget s.pkg.sweep z Sweep.reset).run = true → m ≤ (fget s.pkg.sweep z Sweep.reset).point.toNat + (2 ^ 21 - 1) := by
  rw [stepAllowed, Bool.and_eq_true, decide_eq_true_eq]
  refine and_congr_right fun _ => ?_
  cases stepDomain s u with
  | none => exact ⟨fun _ => nofun, fun _ => rfl⟩
  | some z =>
    simp only [Option.some.injEq, forall_eq', Bool.or_eq_true, Bool.not_eq_true', decide_eq_true_eq]
    cases (fget s.pkg.sweep z Sweep.reset).run <;> simp

/-- A step's wait, on a slot that may park. -/
theorem issue_stepWait {i : Instr} {body : State → Res State} (ready : s.ready) (unit : s.onCoreU = true)
    (may : ¬(s.onCore = true ∧ s.cur.slot = 6)) (hb : body (s.begun 4) = .error (.park 13 0 (some 0))) :
    issue i s.onCoreU s body = .next ((s.modMe Slot.unpark).modMe fun h =>
      { h with park := 13, await := 0, waitOn := some 0, woken := false, resv := none }) := by
  rw [issue_eq unit ready, hb, finish_park (s := s.modMe Slot.unpark) (c := 13) (a := 0) (on := some 0) fun core slot => (may ⟨core, slot⟩).elim]
  rfl

section
variable (ha : s.me.Holds a x)
include ha

omit ha in
theorem stepAllowed_begun (u n : Nat) : stepAllowed (s.begun 4) u n = stepAllowed s u n := by
  have domain : stepDomain (s.begun 4) u = stepDomain s u := by rw [stepDomain, jobWord_of_land (t := s.begun 4) (s := s) rfl]; rfl
  rw [stepAllowed, domain]
  rfl

omit ha in
theorem toNat_eq_zero : x = 0 ↔ x.toNat = 0 := BitVec.toNat_inj.symm

/-- STEPINC's operand may be added. -/
abbrev stepRange (s : State) (x : Word) : Bool := decide (x.toNat < 2 ^ 21) && decide (s.mine.step.toNat + x.toNat < 2 ^ 48)

omit ha in
theorem stepRange_iff : stepRange (s.begun 4) x = true ↔ x.toNat < 2 ^ 21 ∧ s.mine.step.toNat + x.toNat < 2 ^ 48 := by
  rw [stepRange, Bool.and_eq_true, decide_eq_true_eq, decide_eq_true_eq]
  rfl

theorem stepincBody_zero (zero : x.toNat = 0) : stepincBody a (s.begun 4) = .ok (s.begun 4) := by
  have range : stepRange (s.begun 4) x = true := stepRange_iff.mpr (by have := s.mine.step.isLt; omega)
  simp only [stepincBody, readX_holds ha, needValue_of range, if_pos (toNat_eq_zero.mpr zero), res_bind_ok]

variable (some_ : x.toNat ≠ 0) (small : x.toNat < 2 ^ 21) (fits : s.mine.step.toNat + x.toNat < 2 ^ 48)
include some_ small fits

theorem stepincBody_adds (allowed : stepAllowed s s.cur.unit (s.mine.step.toNat + x.toNat) = true) : stepincBody a (s.begun 4) =
    .ok ((s.begun 4).modMine fun u => { u with step := BitVec.ofNat 48 (s.mine.step.toNat + x.toNat) }) := by
  have range : stepRange (s.begun 4) x = true := stepRange_iff.mpr ⟨small, fits⟩
  have may : stepAllowed (s.begun 4) (s.begun 4).cur.unit ((s.begun 4).mine.step.toNat + x.toNat) = true := (stepAllowed_begun ..).trans allowed
  simp only [stepincBody, readX_holds ha, needValue_of range, if_neg (mt toNat_eq_zero.mp some_), need_of may, res_bind_ok]
  rfl

theorem stepincBody_waits (ahead : stepAllowed s s.cur.unit (s.mine.step.toNat + x.toNat) = false) :
    stepincBody a (s.begun 4) = .error (.park 13 0 (some 0)) := by
  have range : stepRange (s.begun 4) x = true := stepRange_iff.mpr ⟨small, fits⟩
  have waits : stepAllowed (s.begun 4) (s.begun 4).cur.unit ((s.begun 4).mine.step.toNat + x.toNat) = false := (stepAllowed_begun ..).trans ahead
  simp only [stepincBody, readX_holds ha, needValue_of range, if_neg (mt toNat_eq_zero.mp some_), waits, need_false, res_bind_ok, res_bind_error]

end

section
variable (ha : s.me.Holds a x)
include ha

theorem gswaitBody_passed (passed : x.toNat < s.mine.gstep.toNat) (clean : rdcClean s s.cur.unit = true) :
    gswaitBody a (s.begun 4) = .ok (s.begun 4).acquired := by
  have behind : decide (x.toNat < (s.begun 4).mine.gstep.toNat) = true := decide_eq_true passed
  simp only [gswaitBody, readX_holds ha, need_of behind, res_bind_ok]
  rw [waitAcquire_ok (s := s.begun 4) (.inr clean), res_bind_ok]

theorem gswaitBody_waits (ahead : s.mine.gstep.toNat ≤ x.toNat) : gswaitBody a (s.begun 4) = .error (.park 13 0 (some 0)) := by
  have early : decide (x.toNat < (s.begun 4).mine.gstep.toNat) = false := decide_eq_false (Nat.not_lt.mpr ahead)
  simp only [gswaitBody, readX_holds ha, early, need_false, res_bind_ok, res_bind_error]

/-! ### Stamped accesses (17 R401, R402) -/

variable (aligned : x.toNat % 8 = 0)
include aligned

theorem sldBody_reads (load : loadAcc (s.begun 4) x.toNat 8 .sread true false = .ok (t, w))
    (read : stampedRead t.mine w (stepOf t) = some (v, g)) (hd : t.me.free d) :
    sldBody d a (s.begun 4) = .ok ((t.flagMe (flagIf g fFUTURE)).setX d (w64 v)) := by
  simp only [sldBody, readX_holds ha, needAligned_of aligned, load, read, res_bind_ok]
  refine writeX_setX ?_
  rw [Slot.free, State.flagMe, State.me_modMe]
  exact hd

theorem sldBody_window (load : loadAcc (s.begun 4) x.toNat 8 .sread true false = .ok (t, w))
    (read : stampedRead t.mine w (stepOf t) = none) : sldBody d a (s.begun 4) = .error (.trap cStampWindow x.toNat) := by
  simp only [sldBody, readX_holds ha, needAligned_of aligned, load, read, res_bind_ok]
  rfl

end

/-- A stamped read-modify-write is one atomic at its home slice. -/
theorem stampedWrite_ok {f : Nat → Option (Nat × Bool)} (atomic : atomicAt s va 8 .swrite false (fun w => (f w).map (·.1)) = .ok (t, w))
    (new : f w = some (v, g)) : stampedWrite s va f = .ok (t.flagMe (flagIf g fFUTURE)) := by
  obtain ⟨r, part, rest⟩ := res_bind_eq_ok atomic
  obtain ⟨⟨⟩, mmrev, same⟩ := res_bind_eq_ok rest
  cases same
  simp only [stampedWrite, stampedPart, part, new, mmrev, res_bind_ok]

section
variable (ha : s.me.Holds a x) (hc : s.me.Holds c y) (aligned : x.toNat % 8 = 0)
include ha hc aligned

theorem sstBody_writes (low : wfld y 55 32 = 0) (high : wfld y 63 61 = 0)
    (atomic : atomicAt (s.begun 4) x.toNat 8 .swrite false (fun _ => some (swWord y.toNat (stepOf s) (wfld y 59 56) (wbit y 60))) = .ok (t, w)) :
    sstBody a c (s.begun 4) = .ok (t.flagMe 0) := by
  have form : (wfld y 55 32 == 0 && wfld y 63 61 == 0) = true := by simp [low, high]
  simp only [sstBody, read2_holds ha hc, needValue_of form, needAligned_of aligned, res_bind_ok]
  exact stampedWrite_ok (f := fun _ => some (swWord y.toNat (stepOf s) (wfld y 59 56) (wbit y 60), false)) atomic rfl

theorem saddBody_adds (high : wfld y 63 32 = 0)
    (atomic : atomicAt (s.begun 4) x.toNat 8 .swrite false (fun w => (addAt s.mine w y.toNat (stepOf s)).map (·.1)) = .ok (t, w))
    (new : addAt s.mine w y.toNat (stepOf s) = some (v, g)) : saddBody a c (s.begun 4) = .ok (t.flagMe (flagIf g fFUTURE)) := by
  simp only [saddBody, read2_holds ha hc, needValue_of (beq_iff_eq.mpr high), needAligned_of aligned, res_bind_ok]
  exact stampedWrite_ok (f := fun w => addAt s.mine w y.toNat (stepOf s)) atomic new

theorem smergeBody_merges (high : wfld y 63 61 = 0)
    (atomic : atomicAt (s.begun 4) x.toNat 8 .swrite false (fun w => mergeAt s.mine w y.toNat) = .ok (t, w))
    (new : mergeAt s.mine w y.toNat = some v) : smergeBody a c (s.begun 4) = .ok (t.flagMe 0) := by
  have first : (fun w => ((mergeAt s.mine w y.toNat).map fun v => (v, false)).map (·.1)) = fun w => mergeAt s.mine w y.toNat := by
    funext w
    rw [Option.map_map]
    exact Option.map_id'
  simp only [smergeBody, read2_holds ha hc, needValue_of (beq_iff_eq.mpr high), needAligned_of aligned, res_bind_ok]
  refine stampedWrite_ok (f := fun w => (mergeAt s.mine w y.toNat).map fun v => (v, false)) (v := v) (g := false) (w := w) ?_ ?_
  · rwa [first]
  · rw [new]; rfl

end

/-- Settles O32: each form by what its body does; a stamped store is one atomic at the home slice. -/
theorem stampedInstructionsComplete : Obligations.StampedInstructionsComplete := by
  unfold Obligations.StampedInstructionsComplete
  intro s t d a c w v g ready unit plainA plainC hd b x y n may parked
  have ha : s.me.Holds a (s.me.reg a.toNat) := ⟨plainA, rfl⟩
  have hc : s.me.Holds c y := ⟨plainC, rfl⟩
  exact ⟨fun zero => issue_ok unit ready (stepincBody_zero ha zero),
    fun u m => ⟨stepAllowed_iff s u m, rfl⟩,
    fun some_ small fits allowed => issue_ok unit ready (stepincBody_adds ha some_ small fits allowed),
    fun some_ small fits ahead may => issue_stepWait ready unit may (stepincBody_waits ha some_ small fits ahead),
    fun passed clean => issue_ok unit ready (gswaitBody_passed ha passed clean),
    fun ahead may => issue_stepWait ready unit may (gswaitBody_waits ha ahead),
    fun aligned load read ht => issue_ok unit ready (sldBody_reads ha aligned load read ht),
    fun aligned load read => issue_trap unit ready (sldBody_window ha aligned load read),
    fun aligned low high atomic => issue_ok unit ready (sstBody_writes ha hc aligned low high atomic),
    fun aligned high atomic new => issue_ok unit ready (saddBody_adds ha hc aligned high atomic new),
    fun aligned high atomic new => issue_ok unit ready (smergeBody_merges ha hc aligned high atomic new)⟩

end Sys2Proof.Machine
end

section
/-! SUPPORT. The publication of the global steps: what it leaves of the state is what the reports are made of, so that the domains publish one after another
what each would have published first (17 R389, R390). -/

namespace Sys2Proof.Machine

open Sys2Proof

variable {s t r : State} {d e u : Nat}

/-! ### Least elements -/

theorem le_foldl_min {n a : Nat} {l : List Nat} : n ≤ l.foldl min a ↔ n ≤ a ∧ ∀ x ∈ l, n ≤ x := by
  induction l generalizing a with
  | nil => simp
  | cons x l ih => simp [ih, and_assoc]

theorem foldl_min_mem (a : Nat) (l : List Nat) : l.foldl min a ∈ a :: l := by
  induction l generalizing a with
  | nil => simp
  | cons x l ih =>
    have found := ih (min a x)
    rw [List.foldl_cons]
    rcases min_choice a x with h | h <;> rw [h] at found ⊢ <;> simp only [List.mem_cons] at found ⊢ <;> tauto

theorem foldl_min_congr {a : Nat} {l m : List Nat} (h : ∀ n, n ∈ l ↔ n ∈ m) : l.foldl min a = m.foldl min a := by
  have same (n : Nat) : n ≤ l.foldl min a ↔ n ≤ m.foldl min a := by simp only [le_foldl_min, h]
  exact Nat.le_antisymm ((same _).mp le_rfl) ((same _).mpr le_rfl)

/-! ### Lists drawn from a table -/

theorem mem_flatMap_of_fget {β γ : Type} {F : β → List γ} {m : FMap β} {k : Nat} {e : β} {x : γ} (empty : F e = []) (h : x ∈ F (fget m k e)) :
    x ∈ m.flatMap fun p => F p.2 := by
  induction m with
  | nil => simp [fget, empty] at h
  | cons q m ih =>
    rw [List.flatMap_cons, List.mem_append]
    simp only [fget] at h
    split at h
    · exact .inl h
    · exact .inr (ih h)

/-- An entry written whose list is the one before it adds nothing and takes nothing away. -/
theorem mem_flatMap_fset {β γ : Type} {F : β → List γ} {m : FMap β} {k : Nat} {e v : β} (empty : F e = []) (same : F v = F (fget m k e)) (x : γ) :
    (x ∈ (fset m k v).flatMap fun p => F p.2) ↔ x ∈ m.flatMap fun p => F p.2 := by
  induction m with
  | nil => simp [fset, same, fget, empty]
  | cons q m ih =>
    obtain ⟨j, w⟩ := q
    simp only [fset]
    split
    next here => simp [same, fget, here]
    next other =>
      rw [fget, if_neg (Ne.symm other)] at same
      split
      · have inside : x ∈ F v → x ∈ m.flatMap fun p => F p.2 := fun h => mem_flatMap_of_fget empty (same ▸ h)
        simp only [List.flatMap_cons, List.mem_append] at inside ⊢
        tauto
      · simp only [List.flatMap_cons, List.mem_append, ih same]

/-! ### What the reports are made of -/

/-- Two states that differ at most in the global steps that the package and the units have, its sweeps, and what slots wait on. -/
structure StepsOnly (s t : State) : Prop where
  land : t.land = s.land
  quads : t.quads = s.quads
  mesh : t.mesh = s.mesh
  active : ∀ u k, (t.hart u k).active = (s.hart u k).active
  unit : ∀ u, t.unit u = { s.unit u with gstep := (t.unit u).gstep }
  inbufs : ∀ m, (m ∈ t.units.flatMap fun p => p.2.ni.inbuf) ↔ m ∈ s.units.flatMap fun p => p.2.ni.inbuf

namespace StepsOnly

theorem refl (s : State) : StepsOnly s s := ⟨rfl, rfl, rfl, fun _ _ => rfl, fun _ => rfl, fun _ => Iff.rfl⟩

theorem trans (h : StepsOnly s t) (g : StepsOnly t r) : StepsOnly s r where
  land := g.land.trans h.land
  quads := g.quads.trans h.quads
  mesh := g.mesh.trans h.mesh
  active u k := (g.active u k).trans (h.active u k)
  unit u := (g.unit u).trans (by rw [h.unit u])
  inbufs m := (g.inbufs m).trans (h.inbufs m)

theorem modPkg {f : Pkg → Pkg} (keeps : ∀ p, (f p).stepless = p.stepless) (s : State) : StepsOnly s (s.modPkg f) where
  land := by rw [State.land, State.land, State.modPkg, keeps]
  quads := rfl
  mesh := rfl
  active _ _ := rfl
  unit _ := rfl
  inbufs _ := Iff.rfl

/-- A unit sees a global step. -/
theorem gstep (s : State) (u : Nat) (g : BitVec 48) : StepsOnly s (s.modUnit u fun x => { x with gstep := g }) where
  land := rfl
  quads := rfl
  mesh := rfl
  active _ _ := rfl
  unit v := by
    rcases eq_or_ne v u with rfl | other
    · rw [State.unit_modUnit_same]
    · rw [State.unit_modUnit_ne _ other]
  inbufs m := mem_flatMap_fset (F := fun x : UnitSt => x.ni.inbuf) (m := s.units) (k := u) (v := { s.unit u with gstep := g }) (e := UnitSt.reset) rfl rfl m

theorem wake (s : State) (u : Nat) (code : BitVec 4) : StepsOnly s (wakePark s u code) where
  land := wakePark_keeps State.land (fun _ _ _ => rfl) u code
  quads := wakePark_keeps State.quads (fun _ _ _ => rfl) u code
  mesh := wakePark_keeps State.mesh (fun _ _ _ => rfl) u code
  active i j := wakePark_hart Slot.active (fun _ => rfl) u i j code
  unit v := by rw [wakePark_unit]
  inbufs m := by rw [wakePark_keeps State.units (fun _ _ _ => rfl) u code]

theorem foldl {f : State → Nat → State} (step : ∀ t v, StepsOnly t (f t v)) (l : List Nat) (s : State) : StepsOnly s (l.foldl f s) :=
  List.foldlRecOn (motive := StepsOnly s) l f (refl s) fun t h v _ => h.trans (step t v)

variable (h : StepsOnly s t)
include h

theorem stepDomain (u : Nat) : stepDomain t u = stepDomain s u := by
  have job : (t.unit u).job = (s.unit u).job := by rw [h.unit u]
  rw [Machine.stepDomain, jobWord_of_land h.land, job, Machine.stepDomain]

theorem liveIn (d u : Nat) : liveIn t d u = liveIn s d u := by
  simp only [Machine.liveIn, h.stepDomain, h.active]

theorem mem_openSteps (u n : Nat) : n ∈ openSteps t u ↔ n ∈ openSteps s u := by
  have waiting (m : Msg) : (m ∈ t.units.flatMap fun p => p.2.ni.inbuf.filter fun m => m.src == u)
      ↔ m ∈ s.units.flatMap fun p => p.2.ni.inbuf.filter fun m => m.src == u := by
    rw [← List.filter_flatMap, ← List.filter_flatMap, List.mem_filter, List.mem_filter, h.inbufs]
  simp only [openSteps, State.quad, h.quads, h.mesh, List.mem_append, List.mem_map, waiting]
  rw [h.unit u]

theorem report (u : Nat) : report t u = report s u := by
  have step : (t.unit u).step = (s.unit u).step := by rw [h.unit u]
  rw [Machine.report, step, foldl_min_congr (h.mem_openSteps u), Machine.report]

/-- A domain whose step and waiting write are the same is given the same by the next publication. -/
theorem nextG (g : fget t.pkg.g d 0 = fget s.pkg.g d 0)
    (write : (t.pkg.gwrite.find? fun p => p.1 == d) = s.pkg.gwrite.find? fun p => p.1 == d) : nextG t d = nextG s d := by
  have reports : Machine.report t = Machine.report s := funext h.report
  simp only [Machine.nextG, g, write, h.liveIn, reports]

end StepsOnly

/-! ### One domain's publication -/

/-- The global steps that the package and the units have. -/
def State.steps (s : State) : FMap (BitVec 48) × FMap (BitVec 48) × (Nat → BitVec 48) := (s.pkg.g, s.pkg.gwrite, fun u => (s.unit u).gstep)

theorem modSweep_steps (f : Sweep → Sweep) : (modSweep s d f).steps = s.steps := rfl
theorem modSweep_only (f : Sweep → Sweep) : StepsOnly s (modSweep s d f) :=
  .modPkg (f := fun p => { p with sweep := fset p.sweep d (f (fget p.sweep d Sweep.reset)) }) (fun _ => rfl) s

theorem endSweep_still : StepsOnly s (endSweep s d) ∧ (endSweep s d).steps = s.steps := by
  unfold endSweep
  dsimp only
  split
  · generalize (fun w : Sweep => if w.point.toNat < w.last.toNat then w.start (w.point + 2 ^ 22) else { w with run := false }) = f
    refine ⟨(modSweep_only f).trans (.foldl (fun t v => .wake t v 13) ..), ?_⟩
    exact (foldl_keeps State.steps _ (fun t v => wakePark_keeps State.steps (fun _ _ _ => rfl) v 13) _ _).trans (modSweep_steps f)
  · exact ⟨.refl s, rfl⟩

theorem startSweep_still (old new : BitVec 48) : StepsOnly s (startSweep s d old new) ∧ (startSweep s d old new).steps = s.steps := by
  unfold startSweep
  dsimp only
  split
  · obtain ⟨only, steps⟩ := endSweep_still (s := modSweep s d _) (d := d)
    exact ⟨(modSweep_only _).trans only, steps⟩
  · exact endSweep_still

/-- A unit of a domain that sees its new step. -/
def State.seesStep (g : BitVec 48) (s : State) (u : Nat) : State :=
  if (s.unit u).gstep = g then s else wakePark (s.modUnit u fun x => { x with gstep := g }) u 13

theorem seesStep_only (g : BitVec 48) (s : State) (u : Nat) : StepsOnly s (s.seesStep g u) := by
  unfold State.seesStep
  split
  · exact .refl s
  · exact (StepsOnly.gstep s u g).trans (.wake _ u 13)

theorem seesStep_pkg (g : BitVec 48) (s : State) (u : Nat) : (s.seesStep g u).pkg = s.pkg := by
  unfold State.seesStep
  split
  · rfl
  · exact wakePark_keeps State.pkg (fun _ _ _ => rfl) u 13

theorem seesStep_gstep (g : BitVec 48) (s : State) (u v : Nat) : ((s.seesStep g u).unit v).gstep = if v = u then g else (s.unit v).gstep := by
  unfold State.seesStep
  rcases eq_or_ne v u with rfl | other
  · rw [if_pos rfl]
    split
    next same => exact same
    next => rw [wakePark_unit, State.unit_modUnit_same]
  · rw [if_neg other]
    split
    · rfl
    · rw [wakePark_unit, State.unit_modUnit_ne _ other]

theorem foldl_seesStep_gstep (g : BitVec 48) (us : List Nat) (s : State) (v : Nat) :
    ((us.foldl (State.seesStep g) s).unit v).gstep = if v ∈ us then g else (s.unit v).gstep := by
  induction us generalizing s with
  | nil => rfl
  | cons u us ih =>
    rw [List.foldl_cons, ih, seesStep_gstep]
    by_cases here : v = u <;> simp [here]

/-- The package with a domain's new step. -/
def State.pkgPublished (s : State) (d : Nat) : State :=
  s.modPkg fun p => { p with g := fset p.g d (nextG s d), gwrite := p.gwrite.filter fun q => q.1 != d }

theorem pkgPublished_only : StepsOnly s (s.pkgPublished d) :=
  .modPkg (f := fun p => { p with g := fset p.g d (nextG s d), gwrite := p.gwrite.filter fun q => q.1 != d }) (fun _ => rfl) s

theorem publishDomain_eq : publishDomain s d =
    startSweep ((domainUnits s d).foldl (State.seesStep (nextG s d)) (s.pkgPublished d)) d (fget s.pkg.g d 0) (nextG s d) := by
  unfold publishDomain State.pkgPublished State.seesStep
  rfl

theorem publishDomain_steps : (publishDomain s d).steps = ((domainUnits s d).foldl (State.seesStep (nextG s d)) (s.pkgPublished d)).steps := by
  rw [publishDomain_eq]
  exact (startSweep_still ..).2

theorem foldl_seesStep_pkg (g : BitVec 48) (us : List Nat) (s : State) : (us.foldl (State.seesStep g) s).pkg = s.pkg :=
  foldl_keeps State.pkg _ (seesStep_pkg g) us s

theorem publishDomain_only : StepsOnly s (publishDomain s d) := by
  rw [publishDomain_eq]
  exact (pkgPublished_only.trans (.foldl (seesStep_only _) ..)).trans (startSweep_still ..).1

theorem publishDomain_g (e : Nat) : fget (publishDomain s d).pkg.g e 0 = if e = d then nextG s d else fget s.pkg.g e 0 := by
  have g : (publishDomain s d).pkg.g = fset s.pkg.g d (nextG s d) := by
    refine (congrArg Prod.fst publishDomain_steps).trans ?_
    rw [State.steps, foldl_seesStep_pkg]
    rfl
  rw [g]
  split
  next same => rw [same, fget_fset_same]
  next other => exact fget_fset_ne _ _ _ other

theorem publishDomain_write (other : e ≠ d) :
    ((publishDomain s d).pkg.gwrite.find? fun p => p.1 == e) = s.pkg.gwrite.find? fun p => p.1 == e := by
  have write : (publishDomain s d).pkg.gwrite = s.pkg.gwrite.filter fun q => q.1 != d := by
    refine (congrArg (fun p => p.2.1) publishDomain_steps).trans ?_
    rw [State.steps, foldl_seesStep_pkg]
    rfl
  rw [write, List.find?_filter]
  congr 1
  funext p
  rcases eq_or_ne p.1 e with h | h <;> simp [h, other]

theorem publishDomain_gstep (u : Nat) :
    ((publishDomain s d).unit u).gstep = if u < 228 ∧ stepDomain s u = some d then nextG s d else (s.unit u).gstep := by
  refine (congrFun (congrArg (fun p => p.2.2) publishDomain_steps) u).trans ?_
  change ((_ : State).unit u).gstep = _
  simp only [foldl_seesStep_gstep, domainUnits, upTo, List.mem_filter, List.mem_range, beq_iff_eq]
  rfl

/-! ### The publication of all domains -/

/-- The domains that have published, and what each has published. -/
structure Published (s t : State) (ds : List Nat) : Prop where
  only : StepsOnly s t
  g : ∀ d, fget t.pkg.g d 0 = if d ∈ ds then nextG s d else fget s.pkg.g d 0
  write : ∀ d, d ∉ ds → (t.pkg.gwrite.find? fun p => p.1 == d) = s.pkg.gwrite.find? fun p => p.1 == d
  gstep : ∀ d u, d ∈ ds → u < 228 → stepDomain s u = some d → (t.unit u).gstep = nextG s d

theorem Published.next {ds : List Nat} (h : Published s t ds) (new : d ∉ ds) : Published s (publishDomain t d) (ds ++ [d]) := by
  have value : nextG t d = nextG s d := h.only.nextG (by rw [h.g, if_neg new]) (h.write d new)
  refine ⟨h.only.trans publishDomain_only, fun e => ?_, fun e out => ?_, fun e u listed low own => ?_⟩
  · rw [publishDomain_g, value, h.g]
    by_cases same : e = d <;> simp [same]
  · obtain ⟨out, other⟩ : e ∉ ds ∧ e ≠ d := by simpa using out
    exact (publishDomain_write other).trans (h.write e out)
  · rw [publishDomain_gstep, value, h.only.stepDomain, own]
    rcases eq_or_ne e d with rfl | other
    · rw [if_pos ⟨low, rfl⟩]
    · rw [if_neg (by simpa using fun _ => other)]
      exact h.gstep e u (by simpa [other] using listed) low own

theorem Published.all {ds es : List Nat} (once : (ds ++ es).Nodup) (h : Published s t ds) : Published s (es.foldl publishDomain t) (ds ++ es) := by
  induction es generalizing t ds with
  | nil => simpa using h
  | cons e es ih =>
    have new : e ∉ ds := fun listed => (List.nodup_append.mp once).2.2 e listed e (List.mem_cons_self ..) rfl
    have rest := ih (ds := ds ++ [e]) (by simpa using once) (h.next new)
    simpa using rest

theorem published_upTo (s : State) : Published s ((upTo 8).foldl publishDomain s) (upTo 8) :=
  Published.all (ds := []) List.nodup_range ⟨.refl s, fun _ => rfl, fun _ _ => rfl, fun _ _ listed => by cases listed⟩

/-- The counts of a cut that are published are in `cut` alone. -/
theorem publishCut_keeps {α : Type} {g : State → α} (cut : ∀ t c, g { t with cut := c } = g t) : g (publishCut s) = g s := by
  unfold publishCut
  split
  · split
    · exact cut ..
    · rfl
  · rfl

/-! ### The value published -/

theorem nextG_write {p : Nat × BitVec 48} (write : (s.pkg.gwrite.find? fun p => p.1 == d) = some p) : nextG s d = p.2 := by
  rw [nextG, write]

theorem report_le_step (s : State) (u : Nat) : report s u ≤ (s.unit u).step.toNat := (le_foldl_min.mp le_rfl).1

section
variable (none : (s.pkg.gwrite.find? fun p => p.1 == d) = none)
include none

theorem nextG_idle (idle : ∀ u, u < 192 → liveIn s d u = false) : nextG s d = fget s.pkg.g d 0 := by
  have empty : (upTo 192).filter (fun u => liveIn s d u) = [] := by
    rw [List.filter_eq_nil_iff]
    intro u listed
    simp [idle u (List.mem_range.mp listed)]
  simp only [nextG, none, empty, List.map_nil]

/-- With a live core, the least report of one, where it is more than what G was. -/
theorem nextG_live (low : u < 192) (live : liveIn s d u = true) :
    ∃ w, w < 192 ∧ liveIn s d w = true ∧ (∀ v, v < 192 → liveIn s d v = true → report s w ≤ report s v)
      ∧ (nextG s d).toNat = max (fget s.pkg.g d 0).toNat (report s w) := by
  have mem (n : Nat) : n ∈ ((upTo 192).filter fun u => liveIn s d u).map (report s) ↔ ∃ v, (v < 192 ∧ liveIn s d v = true) ∧ report s v = n := by
    simp [upTo]
  cases list : ((upTo 192).filter fun u => liveIn s d u).map (report s) with
  | nil => exact absurd ((mem _).mpr ⟨u, ⟨low, live⟩, rfl⟩) (by simp [list])
  | cons n ns =>
    rw [list] at mem
    obtain ⟨w, ⟨lowW, liveW⟩, least⟩ := (mem _).mp (foldl_min_mem n ns)
    refine ⟨w, lowW, liveW, fun v lowV liveV => ?_, ?_⟩
    · obtain ⟨first, rest⟩ := le_foldl_min.mp (le_refl (ns.foldl min n))
      rw [least]
      exact List.forall_mem_cons.mpr ⟨first, rest⟩ _ ((mem _).mpr ⟨v, ⟨lowV, liveV⟩, rfl⟩)
    · have fits : max (fget s.pkg.g d 0).toNat (report s w) < 2 ^ 48 :=
        max_lt (fget s.pkg.g d 0).isLt ((report_le_step s w).trans_lt (s.unit w).step.isLt)
      simp only [nextG, none, list, ← least, BitVec.toNat_ofNat, Nat.mod_eq_of_lt fits]

end

/-! ### Writes of GSTEPd, and the sweep -/

theorem gstepWrite_same {v : Word} (same : v.setWidth 48 = fget s.pkg.g d 0) :
    gstepWrite s d v = if wbit v 63 then s.modPkg fun p => { p with gbadw := fset p.gbadw d false } else s := by
  simp only [gstepWrite, same, ↓reduceIte]

section
variable {v : Word} (keeps : wbit v 63 = false) (new : v.setWidth 48 ≠ fget s.pkg.g d 0)
include keeps new

theorem gstepWrite_waits (cores : ∀ u, u < 192 → liveIn s d u = false)
    (ucores : ∀ i, i < 24 → stepDomain s (204 + i) = some d → (s.hart (204 + i) 0).active = false) :
    gstepWrite s d v = s.modPkg fun p => { p with gwrite := fset p.gwrite d (v.setWidth 48) } := by
  have idle : ((upTo 192).all (fun u => !liveIn s d u)
      && (upTo 24).all fun i => !(stepDomain s (204 + i) == some d && (s.hart (204 + i) 0).active)) = true := by
    simpa [upTo] using ⟨cores, fun i low => imp_iff_not_or.mp (ucores i low)⟩
  simp only [gstepWrite, keeps, if_neg new, idle, Bool.false_eq_true, ↓reduceIte]

theorem gstepWrite_bad (low : u < 192) (live : liveIn s d u = true) :
    gstepWrite s d v = s.modPkg fun p => { p with gbadw := fset p.gbadw d true } := by
  have busy : (upTo 192).all (fun u => !liveIn s d u) = false := by
    rw [List.all_eq_false]
    exact ⟨u, List.mem_range.mpr low, by simp [live]⟩
  simp only [gstepWrite, keeps, if_neg new, busy, Bool.false_and, Bool.false_eq_true, ↓reduceIte]

end

theorem endSweep_mem : (endSweep s d).mem = s.mem := congrArg Prod.fst endSweep_still.1.land

theorem exec_wrapSweepWord {m pa : Nat} (low : d < 8) (run : (fget s.pkg.sweep d Sweep.reset).run = true) (next : nextStamped s d m = some pa)
    (free : sweepHeld s d pa = false) :
    ∃ t, exec (.wrapSweepWord d m pa) s = .next t ∧
      let w := (sweepWord (sweepLambda s d) (fget s.pkg.sweep d Sweep.reset).point.toNat (s.homeLoad pa 8).2).1
      t.mem = (if w = (s.homeLoad pa 8).2 then (s.homeLoad pa 8).1 else (sweepCancel (s.homeLoad pa 8).1 d pa).homeStore pa 8 w).mem := by
  have go : ((fget s.pkg.sweep d Sweep.reset).run && decide (d < 8) && nextStamped s d m == some pa && !sweepHeld s d pa) = true := by
    simp [low, run, next, free]
  change ∃ t, execWrapSweepWord d m pa s = .next t ∧ _
  rw [execWrapSweepWord]
  simp only [go, ↓reduceIte]
  exact ⟨_, rfl, endSweep_mem⟩

/-- Settles O35: the domains publish one after another what each would have published first; the writes and the sweep by their branches. -/
theorem globalStepSteps : Obligations.GlobalStepSteps := by
  unfold Obligations.GlobalStepSteps
  intro s
  refine ⟨?publish, fun d p write => nextG_write write, ?value, ?waits, ?bad, ?same, ?sweep⟩
  case publish =>
    have all := published_upTo s
    have listed {d : Nat} (low : d < 8) : d ∈ upTo 8 := List.mem_range.mpr low
    refine ⟨publishCut ((upTo 8).foldl publishDomain s), rfl, ?_, fun d low => ?_, fun d u low unit own => ?_⟩
    · exact (publishCut_keeps (g := State.mem) fun _ _ => rfl).trans (congrArg Prod.fst all.only.land)
    · rw [publishCut_keeps (g := State.pkg) fun _ _ => rfl, all.g, if_pos (listed low)]
    · rw [publishCut_keeps (g := fun t => t.unit u) fun _ _ => rfl, all.gstep d u (listed low) unit own]
  case value =>
    intro d none g
    refine ⟨nextG_idle none, fun u low live => ?_⟩
    obtain ⟨w, lowW, liveW, least, value⟩ := nextG_live none low live
    exact ⟨value ▸ max_le_max le_rfl (least u low live), w, lowW, liveW, value⟩
  case waits => exact fun d v low keeps new cores ucores => (exec_gstepWrite s v low).trans (congrArg _ (gstepWrite_waits keeps new cores ucores))
  case bad => exact fun d v u low keeps new lowU live => (exec_gstepWrite s v low).trans (congrArg _ (gstepWrite_bad keeps new lowU live))
  case same => exact fun d v low same => (exec_gstepWrite s v low).trans (congrArg _ (gstepWrite_same same))
  case sweep => exact fun d m pa low run next free => exec_wrapSweepWord low run next free

end Sys2Proof.Machine
end

section
/-! The task instructions: O30. -/

namespace Sys2Proof.Machine

open Sys2Proof

/-- Core 0 after reset, but that its slot 0 is parked on a tile fault with one word still to be renamed (01 R46, R47). -/
def onTileFault : State :=
  { ((State.reset.modHart 0 0 fun h => { h with active := true, park := 9, hxtrap := 0x800 }).modFe 0 fun fe =>
      { fe with inq := [{ tcw := 0, addr := 0, base := 0, stride := 0, aux := 0, aux2 := 0, cbr := 0, cvr := 0, step := 0 }] }) with
    cur := { unit := 0, slot := 0 } }

/-- The slot's task is drained: the front end takes no word while the fault is unanswered. -/
theorem onTileFault_drained : taskDrained onTileFault := by decide +kernel

/-- An instruction that is issued all the same unparks the slot, and the word is taken. -/
theorem onTileFault_begun : streamStill (onTileFault.begun 4) 0 = false := by decide +kernel

theorem exec_texit_onTileFault : exec .texit onTileFault = .next (onTileFault.modMe Slot.unpark) := by
  have held : texitBody (onTileFault.begun 4) = .error (.hold none) := by
    have slot : needTaskSlot (onTileFault.begun 4) = .ok () := rfl
    have still : (!(isCore (onTileFault.begun 4).cur.unit && (onTileFault.begun 4).cur.slot == 0)
        || streamStill (onTileFault.begun 4) (onTileFault.begun 4).cur.unit) = false := onTileFault_begun
    simp only [texitBody, slot, waitDrain, still, need_false, res_bind_ok, res_bind_error]
  change execTexit onTileFault = _
  rw [execTexit, issue_eq (by decide) (by decide), held, finish_wait]

/-- Refutes O30: TEXIT on a slot 0 that is parked on an unanswered tile fault, with a word in the input queue. Its task is drained before the
instruction (the front end takes nothing while the fault is unanswered); the instruction begins by unparking the slot, which ends that, and waits in
its drain, where the statement has it end the task. -/
theorem not_taskInstructionsComplete : ¬ Obligations.TaskInstructionsComplete := by
  unfold Obligations.TaskInstructionsComplete
  intro h
  obtain ⟨-, -, -, -, -, texit, -⟩ := h onTileFault onTileFault 0 0 [] 0 (by decide) (by decide) (by decide) (by decide)
  have ends := (texit (by decide) (by decide) onTileFault_drained).1 (by decide)
  rw [exec_texit_onTileFault] at ends
  have trap := congrArg (fun t : State => (t.hart 0 0).hxtrap) (Host.Outcome.next.inj ends)
  exact absurd trap (by decide +kernel)

end Sys2Proof.Machine
end

section
/-! The queues of the mesh and the walk of tasks: O31. -/

namespace Sys2Proof.Machine

open Sys2Proof

variable {s t r : State} {e : BEntry} {rest : List BEntry} {ok : BEntry → Bool} {u k key i c : Nat} {w : Walk}

/-! ### Queues (16 R371, R373) -/

/-- Serving a queue orders it. -/
theorem mem_serveInsert {f : BEntry} {q : List BEntry} : f ∈ serveInsert e q ↔ f = e ∨ f ∈ q := by
  induction q with
  | nil => simp [serveInsert]
  | cons g q ih =>
    rw [serveInsert]
    split
    · simp
    · simp only [List.mem_cons, ih]; tauto

theorem mem_serveOrder {f : BEntry} {q : List BEntry} (h : f ∈ serveOrder q) : f ∈ q := by
  have sorted (q t : List BEntry) : f ∈ q.foldl (fun t e => serveInsert e t) t → f ∈ t ∨ f ∈ q := by
    induction q generalizing t with
    | nil => exact .inl
    | cons g q ih =>
      intro listed
      rcases ih _ listed with h | h
      · rcases mem_serveInsert.mp h with rfl | h
        · exact .inr (List.mem_cons_self ..)
        · exact .inl h
      · exact .inr (List.mem_cons_of_mem _ h)
  simpa using sorted q [] h

/-- A fold that does nothing once something is taken. -/
theorem foldl_taken {α : Type} {f : State × Bool → α → State × Bool} (done : ∀ st a, st.2 = true → f st a = st) (l : List α) (r : State) :
    l.foldl f (r, true) = (r, true) := by
  induction l with
  | nil => rfl
  | cons a l ih => rw [List.foldl_cons, done _ a rfl, ih]

theorem serveQueue_none (h : ∀ f ∈ s.queueOf key, mayTake s u k f = false) : serveQueue s u k key ok = (s, false) := by
  have others : ∀ f ∈ serveOrder (s.queueOf key), mayTake s u k f = false := fun f listed => h f (mem_serveOrder listed)
  unfold serveQueue
  generalize serveOrder (s.queueOf key) = q at others
  induction q with
  | nil => rfl
  | cons f q ih =>
    rw [List.foldl_cons]
    simp only [others f (List.mem_cons_self ..), Bool.and_false, Bool.not_false, Bool.or_true, Bool.true_or, ↓reduceIte]
    exact ih fun g listed => others g (List.mem_cons_of_mem _ listed)

theorem serveQueue_first (order : serveOrder (s.queueOf key) = e :: rest) (allowed : ok e = true) (may : mayTake s u k e = true)
    (goes : leaveWaits s u key e = false) (claims : claimJob s u e.job = (t, true))
    (takes : takeEntry (leaveQueue s u key e) (leaveQueue t u key e) u k e = some (r, true)) : serveQueue s u k key ok = (r, true) := by
  rw [serveQueue, order, List.foldl_cons]
  simp only [allowed, may, goes, claims, takes, Bool.and_self, Bool.not_true, Bool.or_self, Bool.false_eq_true, ↓reduceIte]
  exact foldl_taken (fun st f done => by simp only [done, Bool.true_or, ↓reduceIte]) rest r

section
variable (slot : k < 6)
include slot

section
variable (unit : isCore u = true ∨ isUcore u = true)
include unit

theorem exec_queueTake : exec (.queueTake u k) s = .next (serveQueue s u k (queueKey u) fun _ => true).1 := by
  have may : ((isCore u || isUcore u) && decide (k < 6)) = true := by simpa [slot] using unit
  change execQueueTake u k s = _
  rw [execQueueTake, if_pos may]

theorem exec_queueTake_none (h : ∀ f ∈ s.queueOf (queueKey u), mayTake s u k f = false) : exec (.queueTake u k) s = .next s := by
  rw [exec_queueTake slot unit, serveQueue_none h]

theorem exec_queueTake_first (order : serveOrder (s.queueOf (queueKey u)) = e :: rest) (may : mayTake s u k e = true)
    (goes : leaveWaits s u (queueKey u) e = false) (claims : claimJob s u e.job = (t, true))
    (takes : takeEntry (leaveQueue s u (queueKey u) e) (leaveQueue t u (queueKey u) e) u k e = some (r, true)) :
    exec (.queueTake u k) s = .next r := by
  rw [exec_queueTake slot unit, serveQueue_first order rfl may goes claims takes]

end

theorem exec_bazaarSteal_first {cs : List Nat} (core : isCore u = true) (own : ∀ f ∈ s.queueOf (u / 16), mayTake s u k f = false)
    (nearest : stealOrder u = c :: cs) (order : serveOrder (s.queueOf c) = e :: rest) (goes : leaveWaits s u c e = false) (free : e.hmode ≠ 2)
    (may : mayTake s u k e = true) (claims : claimJob s u e.job = (t, true))
    (takes : takeEntry (leaveQueue s u c e) (leaveQueue t u c e) u k e = some (r, true)) : exec (.bazaarSteal u k) s = .next r := by
  have here : (!isCore u || decide (6 ≤ k)) = false := by simp [core, slot]
  have taken : serveQueue s u k c (fun e => e.hmode != 2) = (r, true) := serveQueue_first order (by simpa using free) may goes claims takes
  have all : (stealOrder u).foldl (fun st c => if st.2 then st else serveQueue st.1 u k c fun e => e.hmode != 2) (s, false) = (r, true) := by
    rw [nearest, List.foldl_cons]
    simp only [Bool.false_eq_true, ↓reduceIte, taken]
    exact foldl_taken (fun st c done => by simp only [done, ↓reduceIte]) cs r
  change execBazaarSteal u k s = _
  simp only [execBazaarSteal, here, Bool.false_eq_true, ↓reduceIte, serveQueue_none own, all]

end

theorem queueOf_setQueueOf (q : List BEntry) : (s.setQueueOf key q).queueOf key = q := by
  unfold State.queueOf State.setQueueOf
  split
  · rw [State.cluster_modCluster_same]
  · rw [State.station_modStation_same]

theorem exec_bazaarAgeing (place : key < 18) (entry : (s.queueOf key)[i]? = some e) : exec (.bazaarAgeing key i) s =
    .next (s.setQueueOf key (setAt (s.queueOf key) i { e with boost := min 3 (e.boost + 1) })) := by
  change execBazaarAgeing key i s = _
  simp only [execBazaarAgeing, entry, if_pos place]

/-! ### The walk (16 R372) -/

/-- Where a walking task is, and where it goes. -/
def Walk.here (w : Walk) : Nat := 12 * w.y + w.x
def Walk.hint (w : Walk) : Nat := 12 * w.hy + w.hx
/-- The quad that serves a walking task's station. -/
def Walk.quad (w : Walk) : Nat := coreAt w.x w.y 0 / 4

/-- The core that a station asks first. -/
def firstAsked (s : State) (q : Nat) : Nat := 4 * q + ((s.quad q).lastTaker + 1) % 4

theorem offer_none (none : ∀ j, j < 4 → slotFor s (4 * w.quad + j) w.e = none) : offer s w = some (s, false) := by
  unfold offer
  dsimp only
  rw [List.foldl_map]
  refine List.foldlRecOn (motive := fun st => st = some (s, false)) (upTo 4) _ rfl fun st same j _ => ?_
  subst same
  have out := none (((s.quad w.quad).lastTaker + 1 + j) % 4) (Nat.mod_lt _ (by decide))
  simp only [Walk.quad] at out
  simp only [out]

theorem offer_first (found : slotFor s (firstAsked s w.quad) w.e = some k) (claims : claimJob s (firstAsked s w.quad) w.e.job = (t, true))
    (takes : takeEntry (unreserve s (clusterOf w.hint) w.e) (unreserve t (clusterOf w.hint) w.e) (firstAsked s w.quad) k w.e = some (r, true)) :
    offer s w = some (r.modQuad w.quad fun x => { x with lastTaker := ((s.quad w.quad).lastTaker + 1) % 4 }, true) := by
  simp only [firstAsked, Walk.quad, Walk.hint] at found claims takes
  have four : upTo 4 = [0, 1, 2, 3] := rfl
  simp only [offer, four, List.map_cons, List.map_nil, List.foldl_cons, List.foldl_nil, Nat.add_zero, found, claims, takes, ↓reduceIte, Walk.quad]

section
variable (walk : s.walks[i]? = some w) (alive : removing s w.e.job = false)
include walk alive

theorem exec_taskWalkOffer_taken {b : State} (near : hops w.here w.hint ≤ w.radius) (taken : offer s w = some (b, true)) :
    exec (.taskWalkOffer i) s = .next { b with walks := dropAt b.walks i } := by
  simp only [Walk.here, Walk.hint] at near
  change execTaskWalkOffer i s = _
  simp only [execTaskWalkOffer, walk, alive, decide_eq_true near, taken, Bool.false_eq_true, ↓reduceIte]

theorem exec_taskWalkOffer_left (left : w.radius < hops w.here w.hint ∨ offer s w = some (s, false)) :
    exec (.taskWalkOffer i) s =
      if w.here = w.hint then
        if joinWaits s (16 * clusterOf w.hint) (clusterOf w.hint) w.e then .next s
        else .next (joinQueue { s with walks := dropAt s.walks i } (16 * clusterOf w.hint) (clusterOf w.hint) w.e)
      else .next { s with walks := setAt s.walks i { w with x := hopToward w.here w.hint % 12, y := hopToward w.here w.hint / 12 } } := by
  simp only [Walk.here, Walk.hint] at left ⊢
  change execTaskWalkOffer i s = _
  rcases left with far | none
  · simp only [execTaskWalkOffer, walk, alive, decide_eq_false (Nat.not_le.mpr far), Bool.false_eq_true, ↓reduceIte]
    rfl
  · simp only [execTaskWalkOffer, walk, alive, none, ite_self, Bool.false_eq_true, ↓reduceIte]
    rfl

end

/-- Settles O31: a walk by what its station's offer is, a queue by the first entry that may leave it. -/
theorem taskSteps : Obligations.TaskSteps := by
  unfold Obligations.TaskSteps
  intro s t i u k w e rest
  refine ⟨?walk, fun unit slot => ⟨fun none => exec_queueTake_none slot unit none,
      fun r goes order may claims takes => exec_queueTake_first slot unit order may goes claims takes⟩,
    fun c cs r core slot own nearest order goes free may claims takes =>
      exec_bazaarSteal_first slot core own nearest order goes free may claims takes, ?ageing⟩
  case walk =>
    intro walk alive here hint q
    refine ⟨fun r k near found claims takes => ?_, fun left away => ?_, fun none home goes => ?_⟩
    · exact ⟨_, exec_taskWalkOffer_taken walk alive near (offer_first found claims takes), rfl, rfl, rfl, rfl⟩
    · exact (exec_taskWalkOffer_left walk alive (left.imp_right fun none => offer_none none)).trans (if_neg away)
    · have free : ¬joinWaits s (16 * clusterOf hint) (clusterOf hint) w.e = true := by simp [goes]
      exact (exec_taskWalkOffer_left walk alive (.inr (offer_none none))).trans ((if_pos home).trans (if_neg free))
  case ageing =>
    intro p place entry
    refine ⟨_, exec_bazaarAgeing place entry, queueOf_setQueueOf _, ?_, ?_⟩
    all_goals unfold State.setQueueOf; split <;> rfl

end Sys2Proof.Machine
end

section
/-! Pre-emption and the saving and restoring of slots: O28. -/

namespace Sys2Proof.Machine

open Sys2Proof

variable {s t r : State} {a b d : BitVec 5} {u w k v : Nat} {x y dir : Word} {ws : List Word}

/-! ### PREEMPT (18 R420) -/

/-- A PREEMPT that its core may begin. -/
structure PreemptRuns (s : State) (w : Nat) (dir : Word) : Prop where
  core : isCore w = true
  pending : (s.unit w).preempt = some dir
  idle : (s.hart w 7).active = false
  duty : (s.unit w).duty ≠ 0
  alive : removing s (s.unit w).job = false
  up : (s.unit w).up = true

namespace PreemptRuns

variable (h : PreemptRuns s w dir)
include h

theorem goes : (!isCore w || (s.hart w 7).active || (s.unit w).duty == 0 || removing s (s.unit w).job || !(s.unit w).up) = false := by
  simpa [h.core, h.idle, h.alive, h.up] using h.duty

omit h in
/-- What changes of slots keep, their marks taken off keep. -/
theorem unmarked_keeps {α : Type} (g : State → α) (keeps : ∀ t k f, g (State.modHart t w k f) = g t) (t : State) :
    g ((upTo 7).foldl (fun t k => t.modHart w k fun h => { h with saved := false, tileSaved := false }) t) = g t :=
  foldl_keeps g _ (fun t k => keeps t k _) _ t

/-- First slots 0 to 6 stop. -/
theorem exec_stops (running : (s.unit w).stopped = false) : ∃ r, exec (.preemptStop w) s = .next r ∧ (r.unit w).stopped = true ∧ r.mem = s.mem := by
  have stops : exec (.preemptStop w) s = .next ((upTo 7).foldl (fun t k => t.modHart w k fun h => { h with saved := false, tileSaved := false })
      (s.modUnit w fun y => { y with stopped := true })) := by
    change execPreemptStop w s = _
    simp only [execPreemptStop, h.pending, h.goes, running, Bool.false_eq_true, ↓reduceIte, Bool.not_false]
  refine ⟨_, stops, ?_, ?_⟩
  · rw [unmarked_keeps (fun t => (t.unit w).stopped) (fun _ _ _ => rfl), State.unit_modUnit_same]
  · exact unmarked_keeps State.mem (fun _ _ _ => rfl) _

theorem exec_enters (stopped : (s.unit w).stopped = true) (pipes : pipesIdle s w = true) (still : streamStill s w = true) :
    exec (.preemptStop w) s = .next (enterHandler
      (((endLeases (endDrain s w) w).modUnit w fun z => { z with preempt := none }).modUnit w fun z => { z with drained := true }) w 7 cPreempt dir 0) := by
  change execPreemptStop w s = _
  simp only [execPreemptStop, h.pending, h.goes, stopped, pipes, still, Bool.false_eq_true, ↓reduceIte, Bool.not_true, Bool.and_self]

end PreemptRuns

/-! ### SLOTSAVE (18 R421 to R425) -/

/-- An operand that names a slot, without further bits. -/
theorem slotForm (lt : k < 8) (vacate : Bool) : wfld (BitVec.ofNat 64 k) 2 0 = k ∧ wbit (BitVec.ofNat 64 k) 3 = false
    ∧ wbit (BitVec.ofNat 64 k) 4 = false ∧ saveForm (BitVec.ofNat 64 k) vacate = true := by
  interval_cases k <;> cases vacate <;> decide

theorem tileForm (vacate : Bool) : wbit (8 : Word) 3 = true ∧ wfld (8 : Word) 2 0 = 0 ∧ saveForm 8 vacate = true := by cases vacate <;> decide

section
variable (ha : s.me.Holds a x) (hb : s.me.Holds b y) (aligned : y.toNat % 256 = 0)
include ha hb aligned

theorem slotsaveBody_slot (slot : s.cur.slot = 7) (name : x = BitVec.ofNat 64 k) (lt : k < 7) (stopped : s.mine.stopped = true)
    (active : (s.hart s.cur.unit k).active = true) (appended : (s.hart s.cur.unit k).sg.all (fun p => p.2.unaccepted == 0) = true)
    (saved : saveBytes (s.begun 4) y.toNat 0x2000 (slotImage (s.hart s.cur.unit k)) (imageFlits (s.hart s.cur.unit k)) = .ok t) :
    slotsaveBody a b (s.begun 4) = .ok ((withdraw t s.cur.unit k).modHart s.cur.unit k fun h => { h with saved := true }) := by
  subst name
  obtain ⟨number, noTile, -, form⟩ := slotForm (k := k) (by omega) true
  have may : (saveForm (BitVec.ofNat 64 k) true && (k == 7 || (s.begun 4).mine.stopped)) = true := by
    rw [form, State.begun_mine, stopped, Bool.or_true, Bool.and_self]
  have own : (s.begun 4).hart s.cur.unit k = s.hart s.cur.unit k := State.hart_begun_ne (by simp only [hartKey]; omega)
  simp only [slotsaveBody, read2_holds ha hb, res_bind_ok, number, needValue_of may, needAligned_of aligned, noTile, Bool.false_eq_true, ↓reduceIte,
    if_pos lt, saveSlot, State.begun_cur, own, need_of appended, active, imageSize, saved]

theorem slotsaveBody_tile (name : x = 8) (stopped : s.mine.stopped = true)
    (saved : saveBytes (s.begun 4) y.toNat (tilePartSize (maxTiles (s.begun 4) s.cur.unit))
      (tilePart (s.fe s.cur.unit) (maxTiles (s.begun 4) s.cur.unit) (tileFaulted (s.begun 4) s.cur.unit))
      (tileFlits (s.fe s.cur.unit) (maxTiles (s.begun 4) s.cur.unit)) = .ok t) :
    slotsaveBody a b (s.begun 4) = .ok (t.modHart s.cur.unit 0 fun h => { h with tileSaved := true }) := by
  subst name
  obtain ⟨tile, number, form⟩ := tileForm true
  have may : (saveForm 8 true && (0 == 7 || (s.begun 4).mine.stopped)) = true := by rw [form, State.begun_mine, stopped]; rfl
  have fe : (s.begun 4).fe s.cur.unit = s.fe s.cur.unit := rfl
  simp only [slotsaveBody, read2_holds ha hb, res_bind_ok, number, needValue_of may, needAligned_of aligned, tile, ↓reduceIte, State.begun_cur, fe, saved]

section
variable (saved : saveBytes (s.begun 4) y.toNat 0x4000 (coreBlock s.mine (savedMask (s.begun 4) s.cur.unit)) [] = .ok t)
include saved

theorem slotsaveBody_block (name : x = 7) : slotsaveBody a b (s.begun 4) = .ok t := by
  subst name
  obtain ⟨number, noTile, keeps, form⟩ := slotForm (k := 7) (by decide) true
  change wfld (7 : Word) 2 0 = 7 at number
  change wbit (7 : Word) 3 = false at noTile
  change wbit (7 : Word) 4 = false at keeps
  have written : saveBytes (s.begun 4) y.toNat 0x4000 (coreBlock (s.begun 4).mine (savedMask (s.begun 4) s.cur.unit)) [] = .ok t := saved
  have may : (saveForm 7 true && (7 == 7 || (s.begun 4).mine.stopped)) = true := by simpa using form
  simp only [slotsaveBody, read2_holds ha hb, res_bind_ok, number, needValue_of may, needAligned_of aligned, noTile, keeps, Bool.false_eq_true,
    ↓reduceIte, Nat.lt_irrefl, Bool.not_false, Bool.true_or, needValue_of (b := true) rfl, State.begun_cur, coreBlockSize, written]

theorem slotsaveBody_vacate (name : x = 0x17) (may : mayVacate (s.begun 4) s.cur.unit = true) :
    slotsaveBody a b (s.begun 4) = .ok (vacate t s.cur.unit) := by
  subst name
  have number : wfld (0x17 : Word) 2 0 = 7 := by decide
  have noTile : wbit (0x17 : Word) 3 = false := by decide
  have leaves : wbit (0x17 : Word) 4 = true := by decide
  have written : saveBytes (s.begun 4) y.toNat 0x4000 (coreBlock (s.begun 4).mine (savedMask (s.begun 4) s.cur.unit)) [] = .ok t := saved
  have form : (saveForm 0x17 true && (7 == 7 || (s.begun 4).mine.stopped)) = true := by
    have form : saveForm 0x17 true = true := by decide
    simpa using form
  simp only [slotsaveBody, read2_holds ha hb, res_bind_ok, number, needValue_of form, needAligned_of aligned, noTile, leaves, Bool.false_eq_true,
    ↓reduceIte, Nat.lt_irrefl, Bool.not_true, Bool.false_or, State.begun_cur, may, needValue_of (b := true) rfl, coreBlockSize, written]

end

/-! ### SLOTREST (18 R426) -/

theorem slotrestBody_slot (name : x = BitVec.ofNat 64 k) (lt : k < 7) (rest : restSlot a (s.begun 4) s.cur.unit k y.toNat = .ok r) :
    slotrestBody a b (s.begun 4) = .ok r := by
  subst name
  obtain ⟨number, noTile, -, form⟩ := slotForm (k := k) (by omega) false
  simp only [slotrestBody, read2_holds ha hb, res_bind_ok, number, needValue_of form, needAligned_of aligned, noTile, Bool.false_eq_true, ↓reduceIte,
    if_pos lt, State.begun_cur, rest]

theorem slotrestBody_block (name : x = 7) (rest : restBlock a (s.begun 4) s.cur.unit y.toNat = .ok r) : slotrestBody a b (s.begun 4) = .ok r := by
  subst name
  obtain ⟨number, noTile, -, form⟩ := slotForm (k := 7) (by decide) false
  change wfld (7 : Word) 2 0 = 7 at number
  change wbit (7 : Word) 3 = false at noTile
  change saveForm (7 : Word) false = true at form
  simp only [slotrestBody, read2_holds ha hb, res_bind_ok, number, needValue_of form, needAligned_of aligned, noTile, Bool.false_eq_true, ↓reduceIte,
    Nat.lt_irrefl, State.begun_cur, rest]

theorem slotrestBody_tile (name : x = 8) (rest : restTile a (s.begun 4) s.cur.unit y.toNat = .ok r) : slotrestBody a b (s.begun 4) = .ok r := by
  subst name
  obtain ⟨tile, -, form⟩ := tileForm false
  simp only [slotrestBody, read2_holds ha hb, res_bind_ok, needValue_of form, needAligned_of aligned, tile, ↓reduceIte, State.begun_cur, rest]

end

/-! ### An image restored -/

/-- A table of the values that a list of keys has under a function. -/
theorem fget_map_fun {β : Type} {l : List Nat} {key : Nat → Nat} {n : Nat} (f : Nat → β) (e : β) (h : n ∈ l.map key) :
    fget (l.map fun i => (key i, f (key i))) n e = f n := by
  induction l with
  | nil => simp at h
  | cons i l ih =>
    simp only [List.map_cons, fget]
    split
    next same => rw [same]
    next other => exact ih ((List.mem_cons.mp h).resolve_left fun same => other same.symm)

theorem slotOfImage_reg (h : Slot) (lanes : Nat) {i : Nat} (pos : 0 < i) (lt : i < 32) : (slotOfImage h v lanes).reg i = imgWord v i := by
  have listed : i ∈ (upTo 31).map (· + 1) := List.mem_map.mpr ⟨i - 1, List.mem_range.mpr (by omega), by omega⟩
  rw [Slot.reg, if_neg (by omega), slotOfImage]
  exact fget_map_fun (imgWord v) 0 listed

/-- The values held for a context that come back change nothing else of its slot. -/
theorem takeHeld_hart (s : State) (u k : Nat) : ∃ held, (s.takeHeld u k).hart u k = { s.hart u k with held := held } := by
  unfold State.takeHeld
  dsimp only
  split
  · exact ⟨_, rfl⟩
  · exact ⟨_, fget_fset_same ..⟩

theorem takeHeld_mem (s : State) (u k : Nat) : (s.takeHeld u k).mem = s.mem := by
  unfold State.takeHeld
  dsimp only
  split <;> rfl

/-- A slot restored from an image whose continuation has no words to read. -/
def State.slotRestored (s : State) (u k v : Nat) : State :=
  ((s.modHart u k fun h => { slotOfImage h v (lanesOf u) with fp := 0, ctr := 0, place := 0, jobword := 0, restored := true }).modUnit u fun x =>
    if k < 6 then { x with step := BitVec.ofNat 48 (max x.step.toNat x.gstep.toNat) } else x).takeHeld u k

section
variable {va : Nat} (load : loadSpan s va 0x2000 true = .ok (t, v)) (live : imgWord v 33 ≠ 0) (form : imageBad v = none)
  (idle : (t.hart u k).active = false) (block : (t.unit u).blockIn = true) (none : imgWord v 51 = 0 ∨ k = 6)
include load live form idle block none

theorem restSlot_ok : restSlot a s u k va = .ok (t.slotRestored u k v) := by
  have words : (if k < 6 then (imgWord v 51).toNat else 0) = 0 := by
    rcases none with zero | rfl
    · simp [zero]
    · rfl
  have alive : (imgWord v 33 == 0) = false := by simpa using live
  have may : (!(t.hart u k).active && (t.unit u).blockIn) = true := by rw [idle, block]; rfl
  simp only [restSlot, imageSize, load, res_bind_ok, alive, Bool.false_eq_true, ↓reduceIte, form, needWord, needValue_of may, words, contWords]
  rfl

end

theorem slotRestored_hart {α : Type} (g : Slot → α) (keeps : ∀ h held, g { h with held := held } = g h) : g ((s.slotRestored u k v).hart u k) =
    g { slotOfImage (s.hart u k) v (lanesOf u) with fp := 0, ctr := 0, place := 0, jobword := 0, restored := true } := by
  rw [State.slotRestored]
  obtain ⟨held, same⟩ := takeHeld_hart (_ : State) u k
  rw [same, keeps, State.hart_modUnit, State.hart_modHart_same]

/-! ### NISPILL (18 R428) -/

/-- NISPILL's block, with room in its buffer and records to write. -/
structure Spills (s : State) (x : Word) (t : State) (ws : List Word) : Prop where
  stopped : s.mine.stopped = true
  block : loadBlock (s.begun 4) x.toNat 16 16 = .ok (t, ws)
  zero : needHeldZero x.toNat ws [0xFF00000000000000, 0x7FFF0000FFFF0000] = .ok ()
  room : wfld (nthWord ws 1) 15 0 ≠ 0
  aligned : (nthWord ws 0).toNat % 16 = 0
  stays : wbit (nthWord ws 1) 63 = false

section
variable (ha : s.me.Holds a x) (h : Spills s x t ws)
include ha h

/-- The records that the buffer has room for are written, and its count. -/
theorem nispillBody_spills {t2 t3 : State} {ps : List (Nat × Nat × Nat)} :
    let u := s.cur.unit
    let used := wfld (nthWord ws 1) 47 32
    let recs := spillList (t.ni u)
    let n := min recs.length (wfld (nthWord ws 1) 15 0 - used)
    n ≠ 0 → blockPlaces t ((nthWord ws 0).toNat + 80 * used) (80 * n) .both = .ok (t2, ps) →
    storeAt (writePlaces t2 ps (recordsBits (recs.take n)) []) (x.toNat + 12) 2 (used + n) = .ok t3 →
    nispillBody d a (s.begun 4) = writeX (replayCheck (nispillBody.sendqSpilled t2 (lateFull ((endLate t3 u).modNi u fun q => spilled q n) u) u) u) d
      (w64 (bitAt (decide (n < recs.length)) 63 + n)) := by
  intro u used recs n some_ places stored
  have stopped : (s.begun 4).mine.stopped = true := h.stopped
  have room : (wfld (nthWord ws 1) 15 0 != 0) = true := bne_iff_ne.mpr h.room
  simp only [n, recs, used, u] at some_ places stored
  simp only [nispillBody, need_of stopped, readX_holds ha, h.block, h.zero, need_of room, needAligned_of h.aligned, res_bind_ok, State.begun_cur,
    if_neg some_, places, stored, h.stays, Bool.false_eq_true, ↓reduceIte, n, recs, used, u]
  rfl

end

/-- Settles O28: PREEMPT by its two steps, SLOTSAVE and SLOTREST by the form of their operand, NISPILL by what its block leaves to write. -/
theorem switchInstructionsComplete : Obligations.SwitchInstructionsComplete := by
  unfold Obligations.SwitchInstructionsComplete
  intro s t d a b v ready service plainA plainB u x y begun
  have ha : s.me.Holds a x := ⟨plainA, rfl⟩
  have hb : s.me.Holds b (s.me.reg b.toNat) := ⟨plainB, rfl⟩
  have slot : s.cur.slot = 7 := by
    simp only [State.onService, Bool.and_eq_true, beq_iff_eq] at service
    exact service.2
  refine ⟨fun w dir core pending idle duty alive up => ?preempt,
    fun k name lt stopped aligned active appended saved =>
      issue_ok service ready (slotsaveBody_slot ha hb aligned slot name lt stopped active appended saved),
    fun name stopped aligned saved => issue_ok service ready (slotsaveBody_tile ha hb aligned name stopped saved),
    fun name aligned saved => issue_ok service ready (slotsaveBody_block ha hb aligned saved name),
    fun name aligned may saved => issue_ok service ready (slotsaveBody_vacate ha hb aligned saved name may),
    fun k r name lt aligned rest => issue_ok service ready (slotrestBody_slot ha hb aligned name lt rest),
    fun r name aligned rest => issue_ok service ready (slotrestBody_block ha hb aligned name rest),
    fun r name aligned rest => issue_ok service ready (slotrestBody_tile ha hb aligned name rest),
    fun k lt load live form idle block none => ?image, ?nispill⟩
  case preempt =>
    have runs : PreemptRuns s w dir := ⟨core, pending, idle, duty, alive, up⟩
    exact ⟨runs.exec_stops, runs.exec_enters⟩
  case image =>
    refine ⟨_, restSlot_ok load live form idle block none, ?_, ?_, fun i pos small => ?_, takeHeld_mem ..⟩
    · rw [slotRestored_hart Slot.pc fun _ _ => rfl]; rfl
    · rw [slotRestored_hart Slot.restored fun _ _ => rfl]
    · rw [slotRestored_hart (fun h => h.reg i) fun _ _ => rfl]
      exact slotOfImage_reg (t.hart u k) (lanesOf u) pos small
  case nispill =>
    intro ws t2 t3 ps stopped read zero used cap recs n room aligned some_ stays places stored r free
    have spills : Spills s x t ws := ⟨stopped, read, zero, room, aligned, stays⟩
    refine issue_ok service ready ((nispillBody_spills ha spills some_ places stored).trans ?_)
    rw [writeX_setX free]
    simp only [w64, bitAt, decide_eq_true_eq]
    rfl

end Sys2Proof.Machine
end

section
/-! SUPPORT. Update windows and paired weights: the lines locked, and the rules of the slices' steps (17 R407 to R411). -/

namespace Sys2Proof.Machine

open Sys2Proof

variable {s t q : State} {a c : BitVec 5} {k : VMask} {r : BitVec 4} {u line : Nat} {x y : Word}

/-! ### Locked lines (17 R410) -/

/-- The lines that a slot's VSTPAIR has locked. -/
def Slot.pairLocks (h : Slot) : List Nat :=
  match h.pipe with
  | .pair _ _ locked _ => locked
  | _ => []

theorem pairLocked_iff : pairLocked s line = true ↔ line ∈ s.harts.flatMap fun p => p.2.pairLocks := by
  rw [pairLocked, List.any_eq_true, List.mem_flatMap]
  refine exists_congr fun p => and_congr_right fun _ => ?_
  unfold Slot.pairLocks
  generalize p.2.pipe = pipe
  cases pipe with
  | pair phase lines locked bytes => exact List.contains_iff_mem
  | _ => exact iff_of_false Bool.false_ne_true List.not_mem_nil

theorem pairLocked_begun (n : Nat) : pairLocked (s.begun n) line = pairLocked s line := by
  rw [Bool.eq_iff_iff, pairLocked_iff, pairLocked_iff, State.begun_eq]
  refine mem_flatMap_fset (F := Slot.pairLocks) (e := Slot.reset) rfl ?_ line
  rfl

/-! ### WINSET (17 R407) -/

section
variable {w : UWindow}

theorem exec_winset (ready : s.ready) (sys : s.onSys = true) (ha : s.me.Holds a x) (hc : s.me.Holds c y) (station : wfld x 6 4 ≤ 5)
    (high : wfld x 63 7 = 0) (home : homePaOk s y.toNat 32 = true) (free : pairLocked s (lineOf y.toNat) = false)
    (form : windowOf ((s.begun 4).homeLoad y.toNat 32).2 = some w)
    (may : (fget (((s.begun 4).homeLoad y.toNat 32).1.unit (ucoreOf (wfld x 6 4) (wfld x 3 2))).windows (wfld x 1 0) UWindow.reset).grows w = true
      ∨ ucoreQuiet ((s.begun 4).homeLoad y.toNat 32).1 (ucoreOf (wfld x 6 4) (wfld x 3 2)) = true) :
    exec (.winset a c) s = .next (((s.begun 4).homeLoad y.toNat 32).1.modUnit (ucoreOf (wfld x 6 4) (wfld x 3 2)) fun z =>
      { z with windows := fset z.windows (wfld x 1 0) w }) := by
  have operand : (decide (wfld x 6 4 ≤ 5) && wfld x 63 7 == 0) = true := by simp [station, high]
  have place : homePaOk (s.begun 4) y.toNat 32 = true := home
  have unlocked : (!pairLocked (s.begun 4) (lineOf y.toNat)) = true := by rw [pairLocked_begun, free]; rfl
  have goes := Bool.or_eq_true_iff.mpr may
  change execWinset a c s = _
  rw [execWinset]
  refine issue_ok sys ready ?_
  simp only [winsetBody, read2_holds ha hc, res_bind_ok, needValue_of operand, need_of place, need_of unlocked, form, need_of goes]

end

/-! ### VSTPAIR (17 R409) -/

/-- The elements of a VSTPAIR: their numbers and values. -/
def pairValues (h : Slot) (r : BitVec 4) (k : VMask) : List (Nat × Nat) :=
  (activeElems (ewBits h.ew) h.vl.toNat k h).map fun i => (i, getElem h r.toNat (ewBits h.ew) i)

theorem pairValues_begun (n : Nat) : pairValues (s.begun n).me r k = pairValues s.me r k := by rw [State.begun_me]; rfl

/-- The lines that bytes lie in. -/
def pairLinesOf (bs : List (Nat × Byte)) : List Nat := sortNat ((bs.filter fun p => decide (p.1 < 2 ^ 52)).map fun p => lineOf p.1)

/-- The first slice is asked for its entries. -/
def State.pairAsks (s : State) (lines : List Nat) : State :=
  match pairNeeds s lines with
  | [] => s
  | p :: _ => pairAsk s s.cur.unit p

/-- A VSTPAIR that has passed its checks waits for its slices. -/
def State.pairWaits (s : State) (bs : List (Nat × Byte)) : State :=
  ((s.pairAsks (pairLinesOf bs)).modMe fun h => { h with pipe := .pair (if pairLinesOf bs = [] then 2 else 0) (pairLinesOf bs) [] bs }).again 4

theorem pairAsks_me (lines : List Nat) : (s.pairAsks lines).me = s.me := by
  unfold State.pairAsks
  split <;> rfl

theorem pairAsks_mem (lines : List Nat) : (s.pairAsks lines).mem = s.mem := by
  unfold State.pairAsks
  split <;> rfl

section
variable {ds : List Word} {es : List (Nat × Nat)} {bs : List (Nat × Byte)} (ha : s.me.Holds a x) (hc : s.me.Holds c y)
  (legal : s.me.vill = false) (clean : s.me.poison.contains (32 + r.toNat) = false)
  (mask : k.en = true → s.me.poison.contains (48 + k.sel.toNat) = false) (block : loadBlock (s.begun 4) y.toNat 32 32 = .ok (t, ds))
  (form : pairElems ds x (ewBits s.me.ew / 8) s.me.vl.toNat (pairValues s.me r k) = some es)
  (places : elemPlaces t (ewBits s.me.ew / 8) es = .ok (q, bs))
include ha hc legal clean mask block form places

theorem pairStart_waits : pairStart r a c k (s.begun 4) = .ok (q.pairWaits bs) := by
  have same : (s.begun 4).me.vill = s.me.vill ∧ (s.begun 4).me.ew = s.me.ew ∧ (s.begun 4).me.vl = s.me.vl := by
    rw [State.begun_me]; exact ⟨rfl, rfl, rfl⟩
  obtain ⟨vill, ew, vl⟩ := same
  have masked : (!(k.en && s.me.poison.contains (48 + k.sel.toNat))) = true := by
    cases en : k.en with
    | false => rfl
    | true => rw [mask en]; rfl
  have values : (activeElems (ewBits s.me.ew) s.me.vl.toNat k (s.begun 4).me).map
      (fun i => (i, getElem (s.begun 4).me r.toNat (ewBits s.me.ew) i)) = pairValues s.me r k := by
    have begun := pairValues_begun (s := s) (r := r) (k := k) 4
    rwa [pairValues, ew, vl] at begun
  simp only [pairStart, vill, legal, Bool.not_false, need_true, readX_holds ha, readX_holds hc, ew, vl, State.begun_poison, clean, need_of masked, block,
    values, form, places, res_bind_ok]
  simp only [beq_iff_eq]
  rfl

theorem exec_vstpair_waits (ready : s.ready) (ucore : s.onUcore = true) (idle : s.me.pipe = .idle) : exec (.vstpair r a c k) s =
    .next ((q.pairWaits bs).modMe fun h => { h with sg := (s.begun 4).me.sg, x := (s.begun 4).me.x }) := by
  have started := pairStart_waits ha hc legal clean mask block form places
  change execVstpair r a c k s = _
  rw [execVstpair]
  refine issue_ok ucore ready ?_
  simp only [vstpairBody, State.begun_pipe, idle, started]

end

theorem pairWaits_me (bs : List (Nat × Byte)) : (s.pairWaits bs).me.pc = s.me.pc - 4 ∧
    (s.pairWaits bs).me.pipe = .pair (if pairLinesOf bs = [] then 2 else 0) (pairLinesOf bs) [] bs := by
  rw [State.pairWaits, State.again, State.me_modMe, State.me_modMe, pairAsks_me]
  exact ⟨rfl, rfl⟩

theorem exec_vstpair_ends {ls lk : List Nat} {bs : List (Nat × Byte)} (ready : s.ready) (ucore : s.onUcore = true) (ha : s.me.Holds a x)
    (hc : s.me.Holds c y) (done : s.me.pipe = .pair 3 ls lk bs) :
    exec (.vstpair r a c k) s = .next ((s.begun 4).modMe fun h => { h with pipe := .idle }) := by
  change execVstpair r a c k s = _
  rw [execVstpair]
  refine issue_ok ucore ready ?_
  simp only [vstpairBody, State.begun_pipe, done, readX_holds ha, readX_holds hc, res_bind_ok]

/-! ### The slices (17 R410, R411) -/

section
variable {ls lk : List Nat} {bs : List (Nat × Byte)}

/-- A reservation is granted. -/
def State.pairGranted (s : State) (p : PairRes) : State :=
  s.modStation (p.slice / 8) fun m => { m with pairs := m.pairs.map fun q => if q = p then { q with granted := true } else q }

section
variable {p : PairRes} (waits : (s.hart u 0).pipe = .pair 0 ls lk bs) (asked : (pairAsked s u).find? (fun p => !p.granted) = some p)
  (first : ((s.station (p.slice / 8)).pairs.filter fun q => q.slice == p.slice).find? (fun q => !q.granted) = some p)
  (room : ((((s.station (p.slice / 8)).pairs.filter fun q => q.slice == p.slice).filter fun q => q.granted).map fun q => q.n).sum + p.n ≤ 136)
include waits asked first room

theorem exec_pairReserveGrant : exec (.pairReserveGrant u) s =
    match (pairNeeds s ls).find? (fun q => decide (p.slice < q.1)) with
    | some q => .next (pairAsk (s.pairGranted p) u q)
    | none => .next ((s.pairGranted p).modHart u 0 fun h => { h with pipe := .pair 1 ls lk bs }) := by
  change execPairReserveGrant u s = _
  simp only [execPairReserveGrant, waits, asked, first, decide_eq_true room, beq_self_eq_true, Bool.and_self, ↓reduceIte]
  rfl

end

/-- A line goes into its pair buffer: no cache keeps a copy. -/
def State.lineBuffered (s : State) (line : Nat) : State :=
  let t := ((s.homeWrite line).applyInvals (otherDie (homeDie s (linePa line)))).dropCopies line
  { t with l2 := t.l2.filter fun x => x.line != line || x.pins != [] }

theorem lineBuffered_mem : (s.lineBuffered line).mem = s.mem := (State.applyInvals_mem ..).trans (State.homeWrite_mem ..)

theorem lineBuffered_l2 : ∀ z ∈ (s.lineBuffered line).l2, z.line = line → z.pins ≠ [] := by
  intro z listed same
  obtain ⟨-, kept⟩ := List.mem_filter.mp listed
  simpa [same] using kept

theorem find?_filter_ne {β : Type} {key : β → Nat} (l : List β) : (l.filter fun y => key y != line).find? (fun y => key y == line) = none := by
  rw [List.find?_eq_none]
  intro y listed
  simpa using (List.mem_filter.mp listed).2

theorem fget_map_prop {β : Type} {P : β → Prop} {f : Nat × β → Nat × β} {e : β} (reset : P e) (each : ∀ q, P (f q).2) (m : FMap β) (n : Nat) :
    P (fget (m.map f) n e) := by
  induction m with
  | nil => exact reset
  | cons q m ih =>
    rw [List.map_cons, fget]
    split
    · exact each q
    · exact ih

theorem lineBuffered_l1 (v : Nat) : (s.lineBuffered line).l1Find v line = none := by
  refine fget_map_prop (P := fun x : UnitSt => (x.l1.find? fun y => y.line == line) = none) rfl (fun p => ?_) _ v
  split
  · exact find?_filter_ne (key := L1Line.line) _
  next absent =>
    rw [List.find?_eq_none]
    exact fun y listed same => absent (List.any_eq_true.mpr ⟨y, listed, same⟩)

theorem lineBuffered_rdc (d : Nat) : (s.lineBuffered line).rdcFind d line = none :=
  fget_map_prop (P := fun x : Die => (x.rdc.find? fun y => y.line == line) = none) rfl (fun _ => find?_filter_ne (key := RdcLine.line) _) _ d

/-- The next line is locked where it lies now. -/
theorem exec_pairLineLock {l : Nat} (locking : (s.hart u 0).pipe = .pair 1 ls lk bs) (next : ls.find? (fun l => !lk.contains l) = some l)
    (free : pairLocked s (lineOf (redirectPa s (linePa l))) = false) :
    let l' := lineOf (redirectPa s (linePa l))
    exec (.pairLineLock u) s = .next ((s.lineBuffered l').modHart u 0 fun h =>
      { h with pipe := .pair (if lk.length + 1 = ls.length then 2 else 1) (ls.map fun k => if k = l then l' else k) (lk ++ [l'])
                 (if l' = l then bs else bs.map fun p => if lineOf p.1 = l then (redirectPa s p.1, p.2) else p) }) := by
  intro l'
  change execPairLineLock u s = _
  simp only [execPairLineLock, locking, next, free, Bool.false_eq_true, ↓reduceIte, List.length_append, List.length_cons, List.length_nil,
    List.length_map, Nat.zero_add]
  rfl

/-! ### The commit (17 R410) -/

/-- The bytes of both copies written. -/
def State.pairWritten (s : State) (bs : List (Nat × Byte)) : State := bs.foldl (fun t p => t.homeStore p.1 1 p.2.toNat) s

theorem exec_pairCommit (commits : (s.hart u 0).pipe = .pair 2 ls lk bs) :
    exec (.pairCommit u) s = .next (drainPorts (pairRelease (s.pairWritten bs) u (.pair 3 ls [] []))) := by
  change execPairCommit u s = _
  simp only [execPairCommit, commits, State.pairWritten]

theorem drainPorts_none (none : ∀ p, p < 8 → (s.port p).inq = []) : drainPorts s = s := by
  refine List.foldlRecOn (motive := fun t => t = s) (upTo 8) _ rfl fun t same p listed => ?_
  rw [same, portDrain, none p (List.mem_range.mp listed)]

theorem l2Return_agents : (s.l2Return line).agents = s.agents := by
  unfold State.l2Return
  split <;> simp

theorem l2Return_orderly : (s.l2Return line).orderly = s.orderly := by
  unfold State.l2Return
  split
  · rw [State.l2Set_orderly, State.l2Room_orderly]; rfl
  · rfl

/-- The reservations of an update core go. -/
def State.unreserved (s : State) (u : Nat) : State :=
  (upTo 6).foldl (fun t m => t.modStation m fun x => { x with pairs := x.pairs.filter fun p => p.unit != u }) s

theorem unreserved_keeps {α : Type} (g : State → α) (keeps : ∀ t m f, g (State.modStation t m f) = g t) : g (s.unreserved u) = g s :=
  foldl_keeps g _ (fun t m => keeps t m _) _ s

theorem pairRelease_eq (p : Pipe) : pairRelease s u p =
    (pairHeld s u).foldl State.l2Return ((s.unreserved u).modHart u 0 fun h => { h with pipe := p }) := by
  unfold pairRelease State.unreserved
  generalize upTo 6 = ms
  rfl

theorem pairRelease_keeps {α : Type} (g : State → α) (p : Pipe) (returns : ∀ t line, g (State.l2Return t line) = g t) :
    g (pairRelease s u p) = g ((s.unreserved u).modHart u 0 fun h => { h with pipe := p }) := by
  rw [pairRelease_eq]
  exact foldl_keeps g State.l2Return returns _ _

theorem pairRelease_pipe (p : Pipe) : ((pairRelease s u p).hart u 0).pipe = p := by
  have harts := pairRelease_keeps (s := s) (u := u) State.agents p fun _ _ => l2Return_agents
  rw [State.hart, State.harts_of_agents harts, ← State.hart, State.hart_modHart_same]

theorem pairRelease_bytes (p : Pipe) : (pairRelease s u p).bytes = s.bytes :=
  have unit : ((s.unreserved u).modHart u 0 fun h => { h with pipe := p }).bytes = (s.unreserved u).bytes := rfl
  (pairRelease_keeps State.bytes p fun t line => t.l2Return_bytes line).trans (unit.trans (unreserved_keeps State.bytes fun _ _ _ => rfl))

theorem unreserved_pairs {m : Nat} (low : m < 6) : ∀ p ∈ ((s.unreserved u).station m).pairs, p.unit ≠ u := by
  have listed : m ∈ upTo 6 := List.mem_range.mpr low
  unfold State.unreserved
  generalize upTo 6 = ms at listed
  induction ms generalizing s with
  | nil => cases listed
  | cons n ms ih =>
    rw [List.foldl_cons]
    rcases eq_or_ne n m with rfl | other
    · have gone : ∀ p ∈ ((s.modStation n fun x => { x with pairs := x.pairs.filter fun p => p.unit != u }).station n).pairs, p.unit ≠ u := by
        rw [State.station_modStation_same]
        exact fun p listed => by simpa using (List.mem_filter.mp listed).2
      refine List.foldlRecOn (motive := fun t : State => ∀ p ∈ (t.station n).pairs, p.unit ≠ u) ms _ gone fun t gone i _ => ?_
      rcases eq_or_ne n i with rfl | other
      · rw [State.station_modStation_same]
        exact fun p listed => gone p (List.mem_of_mem_filter listed)
      · rwa [State.station_modStation_ne _ other]
    · exact ih ((List.mem_cons.mp listed).resolve_left (Ne.symm other))

theorem pairRelease_pairs (p : Pipe) {m : Nat} (low : m < 6) : ∀ q ∈ ((pairRelease s u p).station m).pairs, q.unit ≠ u := by
  have stations := pairRelease_keeps (s := s) (u := u) State.orderly p fun _ _ => l2Return_orderly
  have unit : ((s.unreserved u).modHart u 0 fun h => { h with pipe := p }).station m = (s.unreserved u).station m := rfl
  rw [State.station_of_orderly stations, unit]
  exact unreserved_pairs low

/-- The cells of the bytes that a commit writes. -/
def State.pairCells (s : State) (bs : List (Nat × Byte)) (c : Nat) : Prop := ∃ p ∈ bs, c = s.cell p.1

theorem pairWritten_only (wf : memWf s.mem = true) : WritesOnly s (s.pairWritten bs) (s.pairCells bs) := by
  refine WritesOnly.foldl wf fun t p listed wf' map => (homeStore_writesOnly wf').mono ?_
  rintro c ⟨i, one, rfl⟩
  obtain rfl : i = 0 := by omega
  exact ⟨p, listed, by rw [map, Nat.add_zero]⟩

theorem get_one_eq (pa : Nat) : s.get pa 1 = (s.byteAt (s.cell pa)).toNat := by simp [State.get, memGet, State.byteAt]

theorem pairWritten_get (wf : memWf s.mem = true) (once : (bs.map fun p => s.cell p.1).Nodup) :
    ∀ p ∈ bs, (s.pairWritten bs).get p.1 1 = p.2.toNat := by
  intro p listed
  obtain ⟨before, after, rfl⟩ := List.append_of_mem listed
  have first := pairWritten_only (bs := before) wf
  have stored : ((s.pairWritten before).homeStore p.1 1 p.2.toNat).get p.1 1 = p.2.toNat :=
    homeStore_get first.wf (by decide) (by omega) p.2.isLt
  have step : WritesOnly (s.pairWritten before) ((s.pairWritten before).homeStore p.1 1 p.2.toNat) _ := homeStore_writesOnly first.wf
  have last := pairWritten_only (bs := after) step.wf
  have split : s.pairWritten (before ++ p :: after) = ((s.pairWritten before).homeStore p.1 1 p.2.toNat).pairWritten after := by
    simp only [State.pairWritten, List.foldl_append, List.foldl_cons]
  have map := step.map.trans first.map
  rw [split, get_one_eq, last.map, last.out, ← get_one_eq, stored]
  rintro ⟨q, later, same⟩
  rw [map] at same
  rw [List.map_append, List.map_cons, List.nodup_append] at once
  exact (List.nodup_cons.mp once.2.1).1 (List.mem_map.mpr ⟨q, later, same.symm⟩)

end

end Sys2Proof.Machine
end

section
/-! Update windows and paired weights: O34. -/

namespace Sys2Proof.Machine

open Sys2Proof

/-- Settles O34: WINSET and VSTPAIR by their bodies, each step of the slices by its own lemma; the commit writes cells that are apart. -/
theorem pairInstructionsComplete : Obligations.PairInstructionsComplete := by
  unfold Obligations.PairInstructionsComplete
  intro s t a c k r u ready plainA plainC b x y uc
  have ha : s.me.Holds a x := ⟨plainA, rfl⟩
  have hc : s.me.Holds c (s.me.reg c.toNat) := ⟨plainC, rfl⟩
  refine ⟨fun w sys station high home free form may => exec_winset ready sys ha hc station high home free form may, ?starts,
    fun ucore ls lk bs done => exec_vstpair_ends ready ucore ha hc done, ?grant, ?lock, ?commit⟩
  case starts =>
    intro ucore idle legal clean mask ds es bs q block n el form places
    refine ⟨_, exec_vstpair_waits ha hc legal clean mask block form places ready ucore idle, ?_, ?_, pairLinesOf bs, ?_, rfl⟩
    · exact pairAsks_mem _
    · rw [State.me_modMe]
      exact (pairWaits_me bs).1
    · rw [State.me_modMe]
      exact (pairWaits_me bs).2
  case grant =>
    intro ls lk bs p waits asked first room g
    have granted := exec_pairReserveGrant waits asked first room
    exact ⟨fun last => by rw [granted, last]; rfl, fun q more => by rw [granted, more]; rfl⟩
  case lock =>
    intro ls lk bs l locking next l' free
    have locked := exec_pairLineLock locking next free
    have mem : (s.lineBuffered l').mem = s.mem := lineBuffered_mem
    have l2 : ∀ z ∈ (s.lineBuffered l').l2, z.line = l' → z.pins ≠ [] := lineBuffered_l2
    have l1 : ∀ v, (s.lineBuffered l').l1Find v l' = none := lineBuffered_l1
    have rdc : ∀ d, (s.lineBuffered l').rdcFind d l' = none := lineBuffered_rdc
    refine ⟨_, locked, ?_⟩
    generalize s.lineBuffered l' = b at mem l2 l1 rdc ⊢
    rw [State.hart_modHart_same]
    exact ⟨mem, l2, l1, rdc, rfl⟩
  case commit =>
    intro ls lk bs commits q f
    have commit : exec (.pairCommit u) s = .next (drainPorts f) := exec_pairCommit commits
    have pipe : (f.hart u 0).pipe = .pair 3 ls [] [] := pairRelease_pipe (s := q) _
    have bytes : f.bytes = q.bytes := pairRelease_bytes (s := q) _
    have gone : ∀ m < 6, ∀ p ∈ (f.station m).pairs, p.unit ≠ u := fun m low => pairRelease_pairs (s := q) (u := u) (.pair 3 ls [] []) low
    have only (inv : s.Inv) : WritesOnly s q (s.pairCells bs) := pairWritten_only inv
    have written (inv : s.Inv) (once : (bs.map fun p => s.cell p.1).Nodup) : ∀ p ∈ bs, q.get p.1 1 = p.2.toNat := pairWritten_get inv once
    clear_value f q
    refine ⟨commit, pipe, State.mem_of_bytes bytes, gone, drainPorts_none, fun inv => ⟨fun c out => ?_, fun once p listed => ?_⟩⟩
    · rw [State.byteAt, State.mem_of_bytes bytes]
      exact (only inv).out c fun ⟨p, listed, same⟩ => out p listed same
    · rw [State.get, State.mem_of_bytes bytes, State.cell_of_bytes bytes]
      exact written inv once p listed

end Sys2Proof.Machine
end

section
/-! SUPPORT. Uncorrectable errors, duties and points, parking, reset and attestation: what the steps of 20 R455 and 21 R459 to R474 set and keep. -/

namespace Sys2Proof.Machine

open Sys2Proof

variable {s t : State} {q u k d n row pa : Nat}

/-! ### Folds -/

/-- What the step for one element of a list establishes, and the steps for the others keep, holds in the end. -/
theorem foldl_meets {α β : Type} {P R : β → Prop} {f : β → α → β} {i : α} {l : List α} {b : β} (listed : i ∈ l) (start : R b)
    (keeps : ∀ b j, R b → R (f b j)) (made : ∀ b, R b → P (f b i)) (kept : ∀ b j, j ≠ i → P b → P (f b j)) : P (l.foldl f b) := by
  have both : ∀ b j, R b ∧ P b → R (f b j) ∧ P (f b j) := by
    rintro b j ⟨r, p⟩
    refine ⟨keeps b j r, ?_⟩
    rcases eq_or_ne j i with rfl | other
    · exact made b r
    · exact kept b j other p
  obtain ⟨before, after, rfl⟩ := List.append_of_mem listed
  rw [List.foldl_append, List.foldl_cons]
  have r : R (before.foldl f b) := foldl_inv keeps start
  exact (foldl_inv (P := fun b => R b ∧ P b) (l := after) both ⟨keeps _ i r, made _ r⟩).2

theorem find?_map_keeps {β : Type} {p : β → Bool} {f : β → β} (same : ∀ y, p (f y) = p y) (l : List β) :
    (l.map f).find? p = (l.find? p).map f := by
  rw [List.find?_map, show p ∘ f = p from funext same]

/-! ### Uncorrectable errors (20 R455) -/

/-- A line of an L1 with the flit of an address poisoned, the others as they are. -/
def L1Line.hurt (y : L1Line) (pa : Nat) (z : L1Line) : L1Line := if z = y then { z with bad := struck z.bad pa } else z

theorem L1Line.hurt_line (y z : L1Line) : (y.hurt pa z).line = z.line := by
  unfold L1Line.hurt
  split <;> rfl

theorem l1Hit_hurt {y : L1Line} (hit : s.l1Hit u pa = some y) :
    (s.modUnit u fun x => { x with l1 := x.l1.map (y.hurt pa) }).l1Hit u pa = some { y with bad := struck y.bad pa } := by
  obtain ⟨found, valid⟩ := Option.filter_eq_some_iff.mp hit
  have hurt : y.hurt pa y = { y with bad := struck y.bad pa } := if_pos rfl
  rw [State.l1Find] at found
  rw [State.l1Hit, State.l1Find, State.unit_modUnit_same]
  dsimp only
  rw [find?_map_keeps (f := y.hurt pa) (fun z => by rw [y.hurt_line z]), found, Option.map_some, hurt, Option.filter_some, if_pos valid]

theorem exec_uncorrectable_l1 (core : isCore u = true) : exec (.uncorrectableError (.l1 u pa)) s = .next
    (match s.l1Hit u pa with
     | some y => if y.copy.isSome then s.modUnit u fun x => { x with l1 := x.l1.map (y.hurt pa) } else s.addPoison (pa / 64)
     | none => s) :=
  onlyIf_of core ..

/-- A line of a remote-data cache with the flit of an address poisoned. -/
def RdcLine.hurt (pa : Nat) (r : RdcLine) : RdcLine := if r.line = lineOf pa then { r with bad := struck r.bad pa } else r

theorem RdcLine.hurt_line (r : RdcLine) : (r.hurt pa).line = r.line := by
  unfold RdcLine.hurt
  split <;> rfl

theorem rdcFind_hurt : (s.modDie d fun x => { x with rdc := x.rdc.map (RdcLine.hurt pa) }).rdcFind d (lineOf pa) =
    (s.rdcFind d (lineOf pa)).map fun y => { y with bad := struck y.bad pa } := by
  rw [State.rdcFind, State.die_modDie_same, State.rdcFind]
  dsimp only
  rw [find?_map_keeps (f := RdcLine.hurt pa) fun z => by rw [z.hurt_line]]
  refine Option.map_congr fun y found => if_pos ?_
  exact beq_iff_eq.mp (List.find?_some (p := fun x : RdcLine => x.line == lineOf pa) found)

theorem exec_uncorrectable_rdc (low : d < 2) : exec (.uncorrectableError (.rdc d pa)) s =
    .next (s.modDie d fun x => { x with rdc := x.rdc.map (RdcLine.hurt pa) }) :=
  onlyIf_of (decide_eq_true low) ..

theorem exec_uncorrectable_reg (unit : u < 244) (slot : k < 8) (named : 1 ≤ n) (high : n < 60) : exec (.uncorrectableError (.reg u k n)) s =
    .next (s.modHart u k fun h => { h with poison := if h.poison.contains n then h.poison else n :: h.poison }) :=
  onlyIf_of (by simp [unit, slot, named, high]) ..

theorem exec_uncorrectable_tile (core : isCore u = true) (low : n < 16) : exec (.uncorrectableError (.tile u n row)) s =
    .next (s.modFe u fun fe => fe.badTile n row) :=
  onlyIf_of (by simp [core, low]) ..

theorem badTile_tiles (fe : TileFE) : fget (fe.badTile n row).tiles n Tile.reset = (fget fe.tiles n Tile.reset).bad row :=
  fget_fset_same ..

/-! ### Duties and points (21 R459 to R465) -/

theorem minPoint_le_right (a b : BitVec 3) : (minPoint a b).toNat ≤ b.toNat := by
  unfold minPoint
  split <;> omega

theorem minPoint_le_of_right {a b : BitVec 3} {n : Nat} (h : b.toNat ≤ n) : (minPoint a b).toNat ≤ n := (minPoint_le_right a b).trans h

theorem grantedPoint_of_trip (trip : (s.quad q).trip = true) : grantedPoint s q = 0 := if_pos trip

theorem grantedPoint_le_five (headroom : s.pkg.headroom = false) : (grantedPoint s q).toNat ≤ 5 := by
  unfold grantedPoint
  split
  · decide
  · rw [headroom]
    exact minPoint_le_right ..

/-- The duties of a quad change nothing but the duties of its cores. -/
theorem setDuties_keeps {α : Type} {g : State → α} (keeps : ∀ t u f, g (State.modUnit t u f) = g t) : g (setDuties s q) = g s :=
  foldl_keeps g (fun t k => setDuty t (4 * q + k)) (fun t k => keeps t (4 * q + k) fun x =>
    { x with dutyNext := if dutyInForce t (4 * q + k) = x.duty then none else some (dutyInForce t (4 * q + k)) }) _ s

theorem setDuties_dutySet : ((setDuties s q).unit u).dutySet = (s.unit u).dutySet := by
  refine foldl_keeps (fun t : State => (t.unit u).dutySet) _ (fun t k => ?_) _ s
  show ((setDuty t (4 * q + k)).unit u).dutySet = _
  rw [setDuty]
  rcases eq_or_ne u (4 * q + k) with rfl | other
  · rw [State.unit_modUnit_same]
  · rw [State.unit_modUnit_ne _ other]

/-- A quad whose caps have changed: its cores' duties and its target follow. -/
def State.capped (s : State) (q : Nat) : State := retarget (setDuties s q) q

theorem capped_quad : (s.capped q).quad q =
    { s.quad q with changingTo := ((s.capped q).quad q).changingTo } := by
  have quads : (setDuties s q).quad q = s.quad q := setDuties_keeps (g := fun t => t.quad q) fun _ _ _ => rfl
  rw [State.capped, retarget, State.quad_modQuad_same, quads]

theorem capped_quad_ne {i : Nat} (other : i ≠ q) : (s.capped q).quad i = s.quad i :=
  (State.quad_modQuad_ne _ other).trans (setDuties_keeps (g := fun t => t.quad i) fun _ _ _ => rfl)

theorem capped_pkg : (s.capped q).pkg = s.pkg := setDuties_keeps (s := s) (q := q) (g := State.pkg) fun _ _ _ => rfl

theorem capped_mem : (s.capped q).mem = s.mem := setDuties_keeps (s := s) (q := q) (g := State.mem) fun _ _ _ => rfl

theorem capped_dutySet : ((s.capped q).unit u).dutySet = (s.unit u).dutySet := setDuties_dutySet

theorem first_of_four (f : State → Nat → State) (s : State) : (upTo 4).foldl f s = f (f (f (f s 0) 1) 2) 3 := rfl

/-- The duty that a budget period writes for core k of a quad. -/
def budgetDuty (s : State) (q : Nat) (ds : List (BitVec 5)) (k : Nat) : BitVec 5 :=
  if ds.getD k 0 = 0 && !mayRest s (4 * q + k) then 1 else if 16 < (ds.getD k 0).toNat then 16 else ds.getD k 0

/-- The duties of a budget period written. -/
def State.budgetDuties (s : State) (q : Nat) (ds : List (BitVec 5)) : State :=
  (upTo 4).foldl (fun t k => t.modUnit (4 * q + k) fun x => { x with dutySet := budgetDuty s q ds k }) s

theorem budgetDuties_keeps {α : Type} {g : State → α} {ds : List (BitVec 5)} (keeps : ∀ t u f, g (State.modUnit t u f) = g t) :
    g (s.budgetDuties q ds) = g s :=
  foldl_keeps g _ (fun t _ => keeps t _ _) _ s

theorem budgetDuties_first {d0 : BitVec 5} {ds : List (BitVec 5)} (given : d0 ≠ 0) (legal : d0.toNat ≤ 16) :
    ((s.budgetDuties q (d0 :: ds)).unit (4 * q)).dutySet = d0 := by
  have duty : budgetDuty s q (d0 :: ds) 0 = d0 := by
    rw [budgetDuty, List.getD_cons_zero, decide_eq_false given, Bool.false_and, if_neg Bool.false_ne_true, if_neg (by omega)]
  rw [State.budgetDuties, first_of_four, State.unit_modUnit_ne _ (by omega), State.unit_modUnit_ne _ (by omega), State.unit_modUnit_ne _ (by omega),
    Nat.add_zero, State.unit_modUnit_same, duty]

/-- The state of a quad after its budget period, before its duties follow. -/
def State.budgeted (s : State) (q : Nat) (th cu : BitVec 3) (ds : List (BitVec 5)) : State :=
  (((s.budgetDuties q ds).modQuad q fun x => { x with thermalCap := th, currentCap := cu, dutyCap := 16 }).modPkg fun p =>
    { p with fwhold := false, pkgw := s.freeWord.setWidth 8, headroom := s.freeWord.getLsbD 8 }).took

theorem exec_budgetPeriod {th cu : BitVec 3} {d0 d1 d2 d3 : BitVec 5} (low : q < 48) :
    exec (.budgetPeriod q th cu d0 d1 d2 d3) s = .next ((s.budgeted q th cu [d0, d1, d2, d3]).capped q) := by
  change execBudgetPeriod q th cu d0 d1 d2 d3 s = _
  rw [execBudgetPeriod, onlyIf_of (decide_eq_true low)]
  rfl

theorem budgeted_quad {th cu : BitVec 3} {ds : List (BitVec 5)} : (s.budgeted q th cu ds).quad q =
    { (s.budgetDuties q ds).quad q with thermalCap := th, currentCap := cu, dutyCap := 16 } :=
  State.quad_modQuad_same (s := s.budgetDuties q ds) q fun x => { x with thermalCap := th, currentCap := cu, dutyCap := 16 }

theorem budgeted_unit {th cu : BitVec 3} {ds : List (BitVec 5)} : (s.budgeted q th cu ds).unit u = (s.budgetDuties q ds).unit u := by
  unfold State.budgeted
  generalize s.budgetDuties q ds = t
  rfl

theorem budgeted_mem {th cu : BitVec 3} {ds : List (BitVec 5)} : (s.budgeted q th cu ds).mem = s.mem := by
  rw [← budgetDuties_keeps (s := s) (q := q) (ds := ds) (g := State.mem) fun _ _ _ => rfl]
  unfold State.budgeted
  generalize s.budgetDuties q ds = t
  rfl

theorem budgeted_fwhold {th cu : BitVec 3} {ds : List (BitVec 5)} : (s.budgeted q th cu ds).pkg.fwhold = false := by
  unfold State.budgeted
  generalize s.budgetDuties q ds = t
  rfl

/-- A quad falls one point under the current comparator (21 R463). -/
def State.quadFalls (s : State) (q : Nat) : State :=
  (s.modQuad q fun x => { x with currentCap := minPoint x.currentCap (if x.point = 0 then 0 else x.point - 1), dutyCap := 8 }).capped q

theorem exec_currentComparator : exec .currentComparator s = .next (((upTo 48).foldl State.quadFalls s).modPkg fun p => { p with icomp := true }) := by
  change execCurrentComparator s = _
  unfold execCurrentComparator
  generalize upTo 48 = qs
  rfl

theorem quadFalls_point (i : Nat) : ((s.quadFalls q).quad i).point = (s.quad i).point := by
  rcases eq_or_ne i q with rfl | other
  · rw [State.quadFalls, capped_quad, State.quad_modQuad_same]
  · rw [State.quadFalls, capped_quad_ne other, State.quad_modQuad_ne _ other]

theorem quadFalls_caps : ((s.quadFalls q).quad q).dutyCap = 8 ∧ ((s.quadFalls q).quad q).currentCap.toNat ≤ (s.quad q).point.toNat - 1 := by
  rw [State.quadFalls, capped_quad, State.quad_modQuad_same]
  refine ⟨rfl, minPoint_le_of_right ?_⟩
  generalize (s.quad q).point = p
  revert p
  decide

theorem comparator_quad (low : q < 48) : (((upTo 48).foldl State.quadFalls s).quad q).dutyCap = 8 ∧
    (((upTo 48).foldl State.quadFalls s).quad q).currentCap.toNat ≤ (s.quad q).point.toNat - 1 := by
  refine foldl_meets (R := fun t : State => (t.quad q).point = (s.quad q).point)
    (P := fun t : State => (t.quad q).dutyCap = 8 ∧ (t.quad q).currentCap.toNat ≤ (s.quad q).point.toNat - 1)
    (List.mem_range.mpr low) rfl (fun t i same => (quadFalls_point q).trans same) (fun t same => same ▸ quadFalls_caps) fun t i other caps => ?_
  rwa [State.quadFalls, capped_quad_ne other.symm, State.quad_modQuad_ne _ other.symm]

theorem comparator_mem : ((upTo 48).foldl State.quadFalls s).mem = s.mem :=
  foldl_keeps State.mem State.quadFalls (fun _ _ => capped_mem) _ s

/-- The duties of a firmware hold written. -/
def State.holdDuties (s : State) (q : Nat) : State := (upTo 4).foldl (fun t k => t.modUnit (4 * q + k) fun x => { x with dutySet := 8 }) s

theorem holdDuties_first : ((s.holdDuties q).unit (4 * q)).dutySet = 8 := by
  rw [State.holdDuties, first_of_four, State.unit_modUnit_ne _ (by omega), State.unit_modUnit_ne _ (by omega), State.unit_modUnit_ne _ (by omega),
    Nat.add_zero, State.unit_modUnit_same]

/-- The state of a quad under a firmware hold, before its duties follow. -/
def State.holding (s : State) (q : Nat) : State :=
  ((s.holdDuties q).modQuad q fun x => { x with thermalCap := minPoint x.thermalCap 2 }).modPkg fun p => { p with fwhold := true }

theorem exec_firmwareHold (low : q < 48) : exec (.firmwareHold q) s = .next ((s.holding q).capped q) := onlyIf_of (decide_eq_true low) ..

theorem holding_quad : (s.holding q).quad q = { (s.holdDuties q).quad q with thermalCap := minPoint ((s.holdDuties q).quad q).thermalCap 2 } :=
  State.quad_modQuad_same (s := s.holdDuties q) q fun x => { x with thermalCap := minPoint x.thermalCap 2 }

theorem holding_unit : (s.holding q).unit u = (s.holdDuties q).unit u := by
  unfold State.holding
  generalize s.holdDuties q = t
  rfl

theorem holding_fwhold : (s.holding q).pkg.fwhold = true := by
  unfold State.holding
  generalize s.holdDuties q = t
  rfl

/-- A quad under the thermal trip. -/
def State.tripped (s : State) (q : Nat) : State := (s.modQuad q fun x => { x with trip := true }).modPkg fun p => { p with trip := true }

theorem exec_thermalTrip (low : q < 48) : exec (.thermalTrip q) s = .next ((s.tripped q).capped q) := onlyIf_of (decide_eq_true low) ..

theorem tripped_quad : (s.tripped q).quad q = { s.quad q with trip := true } :=
  State.quad_modQuad_same (s := s) q fun x => { x with trip := true }

theorem exec_thermalTripEnd (low : q < 48) : exec (.thermalTripEnd q) s = .next ((s.modQuad q fun x => { x with trip := false }).capped q) :=
  onlyIf_of (decide_eq_true low) ..

/-! ### Parking (21 R469 to R471) -/

theorem parkDie_ready (low : d < 2) (state : s.pkg.parkState = 0) (idle : s.pkg.parkBusy = false) (sealed : dieRemoving s d = false) :
    parkDie s d = if dieBusy s d then s.modPkg fun p => { p with parkRefused := true }
      else s.modPkg fun p => { p with parkReq := BitVec.ofNat 2 (d + 1), parkWait := false, parkBusy := true } := by
  have other : (0 : BitVec 2) ≠ BitVec.ofNat 2 (d + 1) := by
    obtain rfl | rfl : d = 0 ∨ d = 1 := by omega
    all_goals decide
  simp only [parkDie, state, idle, sealed, other, decide_false, Bool.false_and, Bool.false_eq_true, ↓reduceIte, bne_self_eq_false, Bool.or_self]
  rfl

theorem mem_dieCores (core : isCore u = true) (die : unitDie u = d) : u ∈ dieCores d :=
  List.mem_filter.mpr ⟨List.mem_range.mpr (of_decide_eq_true core), beq_iff_eq.mpr die⟩

/-- A core of a parked die is down. -/
def State.coreDown (s : State) (u : Nat) : State := s.modUnit u fun x => { x with up := false, l1 := [], icache := [] }

/-- A quad of a parked die is down. -/
def State.quadDown (s : State) (q : Nat) : State := s.modQuad q fun x => { x with up := false, arrays := [], vwait := [], vunit := [] }

/-- The cores and quads of a die are down. -/
def State.dieDown (s : State) (d : Nat) : State := (quadsOfDie d).foldl State.quadDown ((dieCores d).foldl State.coreDown s)

theorem parkReq_die (low : d < 2) : (BitVec.ofNat 2 (d + 1)).toNat - 1 = d := by
  obtain rfl | rfl : d = 0 ∨ d = 1 := by omega
  all_goals rfl

theorem exec_parkComplete (busy : s.pkg.parkBusy = true) (req : s.pkg.parkReq = BitVec.ofNat 2 (d + 1)) (low : d < 2) (state : s.pkg.parkState = 0) :
    exec .parkComplete s = .next ((s.dieDown d).modPkg fun p => { p with parkBusy := false, parkState := p.parkReq }) := by
  have asked : (BitVec.ofNat 2 (d + 1) != 0) = true := by
    obtain rfl | rfl : d = 0 ∨ d = 1 := by omega
    all_goals rfl
  change execParkComplete s = _
  simp only [execParkComplete, busy, req, state, asked, beq_self_eq_true, Bool.and_self, ↓reduceIte, parkReq_die low]
  rfl

theorem dieDown_keeps {α : Type} {g : State → α} (unit : ∀ t u f, g (State.modUnit t u f) = g t) (quad : ∀ t q f, g (State.modQuad t q f) = g t) :
    g (s.dieDown d) = g s :=
  (foldl_keeps g _ (fun t _ => quad t _ _) _ _).trans (foldl_keeps g _ (fun t _ => unit t _ _) _ _)

theorem dieDown_up (core : isCore u = true) (die : unitDie u = d) : ((s.dieDown d).unit u).up = false := by
  have units : (s.dieDown d).unit u = ((dieCores d).foldl State.coreDown s).unit u :=
    foldl_keeps (fun t : State => t.unit u) State.quadDown (fun _ _ => rfl) _ _
  rw [units]
  refine foldl_meets (R := fun _ => True) (P := fun t : State => (t.unit u).up = false) (mem_dieCores core die) trivial (fun _ _ _ => trivial)
    (fun t _ => ?_) fun t v other down => ?_
  · rw [State.coreDown, State.unit_modUnit_same]
  · rwa [State.coreDown, State.unit_modUnit_ne _ other.symm]

/-- A core is as after reset. -/
structure State.CoreReset (s : State) (u : Nat) : Prop where
  up : (s.unit u).up = true
  job : (s.unit u).job = 0
  slots : ∀ k, k < 8 → s.hart u k = Slot.reset

theorem hartKey_apart {v j : Nat} (low : k < 8) (low' : j < 8) (other : v ≠ u) : hartKey u k ≠ hartKey v j := by
  unfold hartKey
  omega

/-- The slots of a core at their reset values. -/
def State.slotsReset (s : State) (u : Nat) : State := (upTo 8).foldl (fun t k => t.setHart u k Slot.reset) s

theorem slotsReset_units : (s.slotsReset u).units = s.units :=
  foldl_keeps State.units (fun t k => t.setHart u k Slot.reset) (fun _ _ => rfl) _ s

theorem slotsReset_hart (low : k < 8) : (s.slotsReset u).hart u k = Slot.reset :=
  foldl_meets (R := fun _ => True) (P := fun t : State => t.hart u k = Slot.reset) (List.mem_range.mpr low) trivial (fun _ _ _ => trivial)
    (fun _ _ => State.hart_setHart_same ..) fun _ _ other same => (fget_fset_ne _ _ _ (hartKey_ne other.symm)).trans same

theorem slotsReset_hart_ne {v : Nat} (low : k < 8) (other : v ≠ u) : (s.slotsReset v).hart u k = s.hart u k := by
  refine List.foldlRecOn (motive := fun t : State => t.hart u k = s.hart u k) (upTo 8) _ rfl fun t same j listed => ?_
  exact (fget_fset_ne _ _ _ (hartKey_apart low (List.mem_range.mp listed) other)).trans same

theorem coreUp_unit (v : Nat) : (coreUp s v).unit u =
    ((s.slotsReset v).setUnit v { UnitSt.reset with bseen := (s.unit v).bseen, known := (s.unit v).known }).unit u := rfl

theorem coreUp_hart (v : Nat) : (coreUp s v).hart u k = (s.slotsReset v).hart u k := rfl

theorem coreUp_same : (coreUp s u).CoreReset u where
  up := by rw [coreUp_unit, State.unit, State.setUnit, fget_fset_same]; rfl
  job := by rw [coreUp_unit, State.unit, State.setUnit, fget_fset_same]; rfl
  slots k low := (coreUp_hart u).trans (slotsReset_hart low)

theorem State.CoreReset.coreUp {v : Nat} (core : s.CoreReset u) (other : v ≠ u) : (coreUp s v).CoreReset u := by
  have unit : (Machine.coreUp s v).unit u = s.unit u := by
    rw [coreUp_unit]
    exact (fget_fset_ne _ _ _ other.symm).trans (congrArg (fget · u UnitSt.reset) slotsReset_units)
  exact ⟨by rw [unit]; exact core.up, by rw [unit]; exact core.job, fun k low => ((coreUp_hart v).trans (slotsReset_hart_ne low other)).trans (core.slots k low)⟩

/-! ### Retired quads (21 R467) -/

/-- A retired quad stays down, with its cores. -/
def State.retireQuad (s : State) (q : Nat) : State :=
  if quadRetired s q then
    (upTo 4).foldl (fun t k => t.modUnit (4 * q + k) fun x => { x with up := false }) (s.modQuad q fun x => { x with up := false })
  else s

theorem retireQuads_eq : retireQuads s = (upTo 48).foldl State.retireQuad s := rfl

theorem retireQuad_keeps {α : Type} {g : State → α} (unit : ∀ t u f, g (State.modUnit t u f) = g t) (quad : ∀ t q f, g (State.modQuad t q f) = g t) :
    g (s.retireQuad q) = g s := by
  unfold State.retireQuad
  split
  · exact (foldl_keeps g _ (fun t _ => unit t _ _) _ _).trans (quad ..)
  · rfl

theorem retireQuads_keeps {α : Type} {g : State → α} (unit : ∀ t u f, g (State.modUnit t u f) = g t) (quad : ∀ t q f, g (State.modQuad t q f) = g t) :
    g (retireQuads s) = g s :=
  foldl_keeps g State.retireQuad (fun _ _ => retireQuad_keeps unit quad) _ _

theorem quadRetired_of_pkg (pkg : t.pkg = s.pkg) : quadRetired t q = quadRetired s q := by rw [quadRetired, pkg, quadRetired]

theorem retireQuad_pkg : (s.retireQuad q).pkg = s.pkg := retireQuad_keeps (g := State.pkg) (fun _ _ _ => rfl) fun _ _ _ => rfl

/-- A unit that is down when its quad is retired. -/
def UnitSt.retiredIf (x : UnitSt) (b : Bool) : UnitSt := if b then { x with up := false } else x

theorem retireQuad_unit (u : Nat) : (s.retireQuad q).unit u = (s.unit u).retiredIf (quadOf u == q && quadRetired s q) := by
  unfold State.retireQuad
  cases retired : quadRetired s q with
  | false => rw [Bool.and_false]; rfl
  | true =>
    rw [if_pos rfl, first_of_four, Bool.and_true]
    rcases eq_or_ne (quadOf u) q with same | other
    · rw [same, beq_self_eq_true, UnitSt.retiredIf, if_pos rfl]
      obtain h | h | h | h : u = 4 * q + 0 ∨ u = 4 * q + 1 ∨ u = 4 * q + 2 ∨ u = 4 * q + 3 := by
        unfold quadOf at same
        omega
      all_goals
        subst h
        simp (disch := omega) only [State.unit_modUnit_same, State.unit_modUnit_ne, State.unit_modQuad]
    · have apart : ∀ k, k < 4 → u ≠ 4 * q + k := by
        unfold quadOf at other
        omega
      rw [beq_false_of_ne other, State.unit_modUnit_ne _ (apart 3 (by decide)), State.unit_modUnit_ne _ (apart 2 (by decide)),
        State.unit_modUnit_ne _ (apart 1 (by decide)), State.unit_modUnit_ne _ (apart 0 (by decide))]
      rfl

theorem retireQuads_unit (u : Nat) :
    (retireQuads s).unit u = (s.unit u).retiredIf (decide (quadOf u < 48) && quadRetired s (quadOf u)) := by
  have all : ∀ (qs : List Nat) (s : State), (qs.foldl State.retireQuad s).unit u = (s.unit u).retiredIf (qs.contains (quadOf u) && quadRetired s (quadOf u)) := by
    intro qs
    induction qs with
    | nil => exact fun _ => rfl
    | cons q qs ih =>
      intro s
      rw [List.foldl_cons, ih, retireQuad_unit, quadRetired_of_pkg retireQuad_pkg, List.contains_cons]
      cases same : quadOf u == q with
      | false => rfl
      | true =>
        rw [beq_iff_eq.mp same]
        cases quadRetired s q <;> cases qs.contains q <;> rfl
  rw [retireQuads_eq, all, upTo, List.contains_eq_mem]
  simp only [List.mem_range]

theorem retireQuad_up (i : Nat) : ((s.retireQuad q).quad i).up = ((s.quad i).up && !(i == q && quadRetired s q)) := by
  unfold State.retireQuad
  cases retired : quadRetired s q with
  | false => simp
  | true =>
    rw [if_pos rfl, first_of_four]
    simp only [State.quad_modUnit]
    rcases eq_or_ne i q with rfl | other
    · rw [State.quad_modQuad_same]; simp
    · rw [State.quad_modQuad_ne _ other, beq_false_of_ne other]; simp

theorem retireQuads_up (low : q < 48) (up : (s.quad q).up = true) : ((retireQuads s).quad q).up = !quadRetired s q := by
  have all : ∀ (qs : List Nat) (s : State), ((qs.foldl State.retireQuad s).quad q).up = ((s.quad q).up && !(qs.contains q && quadRetired s q)) := by
    intro qs
    induction qs with
    | nil => simp
    | cons i qs ih =>
      intro s
      rw [List.foldl_cons, ih, retireQuad_up, quadRetired_of_pkg retireQuad_pkg, List.contains_cons]
      cases same : q == i with
      | false => simp
      | true =>
        rw [beq_iff_eq.mp same]
        cases quadRetired s i <;> cases qs.contains i <;> simp
  rw [retireQuads_eq, all, up, upTo, List.contains_eq_mem, decide_eq_true (List.mem_range.mpr low), Bool.true_and, Bool.true_and]

/-- A quad comes up, its store empty. -/
def State.quadUp (s : State) (q : Nat) : State := (s.modQuad q fun _ => Quad.reset).emptySpan (quadBase q) 0x200000

/-- The cores and quads of a die come up. -/
def State.dieUp (s : State) (d : Nat) : State :=
  (quadsOfDie d).foldl State.quadUp ((dieCores d).foldl coreUp s)

theorem exec_unparkComplete (busy : s.pkg.parkBusy = true) (req : s.pkg.parkReq = 0) (state : s.pkg.parkState = BitVec.ofNat 2 (d + 1)) (low : d < 2) :
    exec .unparkComplete s = .next (retireQuads ((s.dieUp d).modPkg fun p => { p with parkBusy := false, parkState := 0 })) := by
  have parked : (BitVec.ofNat 2 (d + 1) != 0) = true := by
    obtain rfl | rfl : d = 0 ∨ d = 1 := by omega
    all_goals rfl
  change execUnparkComplete s = _
  simp only [execUnparkComplete, busy, req, state, parked, beq_self_eq_true, Bool.and_self, ↓reduceIte, parkReq_die low]
  rfl

theorem dieUp_core (core : isCore u = true) (die : unitDie u = d) : (s.dieUp d).CoreReset u := by
  have cores : ((dieCores d).foldl coreUp s).CoreReset u :=
    foldl_meets (R := fun _ => True) (P := fun t : State => t.CoreReset u) (mem_dieCores core die) trivial (fun _ _ _ => trivial)
      (fun _ _ => coreUp_same) fun _ _ other core => core.coreUp other
  exact foldl_inv (P := fun t : State => t.CoreReset u) (fun _ _ core => ⟨core.up, core.job, core.slots⟩) cores

theorem coreUp_pkg (v : Nat) : (coreUp s v).pkg = s.pkg :=
  foldl_keeps (f := fun (t : State) k => t.setHart v k Slot.reset) State.pkg (fun _ _ => rfl) (upTo 8) s

theorem dieUp_pkg : (s.dieUp d).pkg = s.pkg :=
  (foldl_keeps State.pkg State.quadUp (fun _ _ => rfl) (quadsOfDie d) _).trans (foldl_keeps State.pkg coreUp (fun _ v => coreUp_pkg v) (dieCores d) s)

/-! ### Reset (21 R473) -/

/-- The package, the units and the quads at their reset values; memory and the boot configuration stay. -/
def State.emptied (s : State) : State :=
  { State.reset with mem := s.mem, poison := s.poison, free := s.free + 1 }.modPkg fun p =>
    { p with meas := (upTo 8).map fun i => (i, Config.measure 0 (8 * s.free + i)),
             quadsRetired := s.pkg.bootQuads, slicesRetired := s.pkg.bootSlices, channels := s.pkg.bootChannels,
             bootQuads := s.pkg.bootQuads, bootSlices := s.pkg.bootSlices, bootChannels := s.pkg.bootChannels }

/-- The units that boot: the CMCs and application core 0. -/
def bootUnits : List Nat := (List.range 12).map (· + 192) ++ [228]

theorem resetSequence_eq : resetSequence s = bootUnits.foldl bootHart (retireQuads s.emptied) := by
  have units : (upTo 12).map cmcOf ++ [228] = bootUnits := rfl
  rw [← units]
  rfl

theorem booted_keeps {α : Type} {g : State → α} (keeps : ∀ t u, g (bootHart t u) = g t) (us : List Nat) : g (us.foldl bootHart s) = g s :=
  foldl_keeps g bootHart keeps us s

theorem bootHart_active (listed : u ∈ bootUnits) (t : State) : ((bootUnits.foldl bootHart t).hart u 0).active = true ∧
    ((bootUnits.foldl bootHart t).hart u 0).priv = 3 ∧ ((bootUnits.foldl bootHart t).hart u 0).x = [] := by
  refine foldl_meets (R := fun _ => True) (P := fun t : State => (t.hart u 0).active = true ∧ (t.hart u 0).priv = 3 ∧ (t.hart u 0).x = []) listed
    trivial (fun _ _ _ => trivial) (fun t _ => ?_) fun t v other boots => ?_
  · have booted : (bootHart t u).hart u 0 = { Slot.reset with active := true, priv := 3, pc := t.freeWord &&& 0xFFFFFFFFFFFFFFFC#64 } :=
      State.hart_setHart_same ..
    rw [booted]
    exact ⟨rfl, rfl, rfl⟩
  · have same : (bootHart t v).hart u 0 = t.hart u 0 := fget_fset_ne _ _ _ (hartKey_apart (by decide) (by decide) other)
    rwa [same]

/-- The state right after a reset: the units, the quads and the package. -/
structure State.Restarted (s : State) (mem : List Host.Cell) (p : Pkg) : Prop where
  mem : s.mem = mem
  units : ∀ w, s.unit w = if w < 192 ∧ quadRetired s (quadOf w) = true then { UnitSt.reset with up := false } else UnitSt.reset
  quads : ∀ q, q < 48 → (s.quad q).up = !quadRetired s q
  agenda : s.agenda = []
  tables : s.pkg.jobtab = 0 ∧ s.pkg.sysroot = 0
  retired : s.pkg.quadsRetired = p.bootQuads ∧ s.pkg.slicesRetired = p.bootSlices ∧ s.pkg.channels = p.bootChannels
  boots : ∀ u ∈ bootUnits, (s.hart u 0).active = true ∧ (s.hart u 0).priv = 3 ∧ (s.hart u 0).x = []

theorem resetSequence_restarted : (resetSequence s).Restarted s.mem s.pkg := by
  rw [resetSequence_eq]
  have keeps {α : Type} (g : State → α) (boot : ∀ t u, g (bootHart t u) = g t) (unit : ∀ t u f, g (State.modUnit t u f) = g t)
      (quad : ∀ t q f, g (State.modQuad t q f) = g t) : g (bootUnits.foldl bootHart (retireQuads s.emptied)) = g s.emptied :=
    (booted_keeps boot bootUnits).trans (retireQuads_keeps unit quad)
  have pkg := keeps State.pkg (fun _ _ => rfl) (fun _ _ _ => rfl) fun _ _ _ => rfl
  refine ⟨keeps State.mem (fun _ _ => rfl) (fun _ _ _ => rfl) fun _ _ _ => rfl, fun w => ?units, fun q low => ?quads,
    keeps State.agenda (fun _ _ => rfl) (fun _ _ _ => rfl) fun _ _ _ => rfl, ?tables, ?retired, fun u listed => bootHart_active listed _⟩
  case units =>
    rw [quadRetired_of_pkg pkg, booted_keeps (g := fun t : State => t.unit w) fun _ _ => rfl, retireQuads_unit, UnitSt.retiredIf]
    have core : quadOf w < 48 ↔ w < 192 := by unfold quadOf; omega
    simp only [Bool.and_eq_true, decide_eq_true_eq, core]
    rfl
  case quads =>
    rw [quadRetired_of_pkg pkg, booted_keeps (g := fun t : State => t.quad q) fun _ _ => rfl]
    exact retireQuads_up low rfl
  case tables => rw [pkg]; exact ⟨rfl, rfl⟩
  case retired => rw [pkg]; exact ⟨rfl, rfl, rfl⟩

theorem exec_powerOn : exec .powerOn s = .next (resetSequence { s with mem := [], poison := [] }) := rfl

/-! ### Attestation (21 R474) -/

/-- The bytes below a part of a number that is shifted past them are those of the rest. -/
theorem byteOf_add_put {x v o m : Nat} (low : o < m) : byteOf (x + put v (8 * m)) o = byteOf x o := by
  obtain ⟨e, rfl⟩ := Nat.exists_eq_add_of_lt low
  have split : 2 ^ (8 * (o + e + 1)) = 256 ^ o * (256 * 256 ^ e) := by
    rw [← Nat.pow_succ', ← pow_add, pow_mul, Nat.add_assoc]
    rfl
  refine BitVec.eq_of_toNat_eq ?_
  rw [byteOf, byteOf, BitVec.toNat_ofNat, BitVec.toNat_ofNat, put, split, show v * (256 ^ o * (256 * 256 ^ e)) = 256 ^ o * (256 * (256 ^ e * v)) by ring,
    Nat.add_mul_div_left _ _ (by positivity), Nat.add_mul_mod_self_left]

/-- A table that lists a value for each number below a bound gives it. -/
theorem fget_listed {β : Type} {f : Nat → β} {e : β} {a o m : Nat} (low : o < m) : fget ((upTo m).map fun i => (a + i, f i)) (a + o) e = f o := by
  have listed : o ∈ upTo m := List.mem_range.mpr low
  generalize upTo m = is at listed
  induction is with
  | nil => cases listed
  | cons i is ih =>
    rw [List.map_cons, fget]
    split
    next same => rw [Nat.add_left_cancel same]
    next other => exact ih ((List.mem_cons.mp listed).resolve_left fun h => other (by rw [h]))

/-- The report as a number: its body, and a signature whose value is open (log entry 2). -/
def State.reportValue (s : State) : Nat := attestBody s.pkg + Machine.put ((Config.freeBits s.free).toNat % 2 ^ 768) (8 * 512)

/-- A report made. -/
def State.attested (s : State) : State :=
  (s.modPkg fun p => { p with attgo := 2, report := (upTo 608).map fun i => (0xA00 + i, byteOf s.reportValue i) }).took

theorem exec_attestationDone (asked : s.pkg.attgo = 1) : exec .attestationDone s = .next s.attested := onlyIf_of (beq_iff_eq.mpr asked) ..

theorem attested_report {o : Nat} (low : o < 512) : fget s.attested.pkg.report (0xA00 + o) 0 = byteOf (attestBody s.pkg) o := by
  have body : byteOf s.reportValue o = byteOf (attestBody s.pkg) o := by
    rw [State.reportValue, byteOf_add_put (m := 512) low]
  have report : s.attested.pkg.report = (upTo 608).map fun i => (0xA00 + i, byteOf s.reportValue i) := by
    unfold State.attested
    generalize upTo 608 = is
    rfl
  rw [← body, report]
  generalize s.reportValue = v
  exact fget_listed (f := byteOf v) (a := 0xA00) (by omega)

end Sys2Proof.Machine
end

section
/-! Errors, operating points, parking, reset and attestation: O51. -/

namespace Sys2Proof.Machine

open Sys2Proof

/-- Settles O51: each step by its equation; the folds over cores and quads by what they set for one of them and keep for the others. -/
theorem powerSteps : Obligations.PowerSteps := by
  unfold Obligations.PowerSteps
  intro s q u k low
  refine ⟨fun _ => rfl, rfl, fun pa core => ?l1, fun pa d low => ⟨_, exec_uncorrectable_rdc low, rfl, rfl, rdcFind_hurt⟩,
    fun n unit slot named high => ⟨_, exec_uncorrectable_reg unit slot named high, ?reg, rfl⟩,
    fun n row core low => ⟨_, exec_uncorrectable_tile core low, ?tile⟩, fun _ _ => ⟨rfl, rfl⟩, fun n row core => ⟨onlyIf_of core .., ?transit⟩,
    fun th cu d0 d1 d2 d3 => ⟨_, exec_budgetPeriod low, ?budget⟩, grantedPoint_le_five, fun other => onlyIf_of (by simp [low, other]) ..,
    onlyIf_of (decide_eq_true low) .., onlyIf_of (decide_eq_true low) .., ⟨_, exec_currentComparator, ?comparator⟩, ⟨_, exec_thermalTrip low, ?trip⟩,
    ⟨_, exec_thermalTripEnd low, ?tripEnd⟩, ⟨_, exec_firmwareHold low, ?hold⟩, fun n => onlyIf_of (decide_eq_true low) .., ?park, ?unparkBusy, ?unparkUp,
    ?unpark, ?parkComplete, ?unparkComplete, ?reset, ?request, ?again, fun asked => ⟨_, exec_attestationDone asked, rfl, rfl, fun o low => attested_report low⟩⟩
  case l1 =>
    have error := exec_uncorrectable_l1 (s := s) (pa := pa) core
    refine ⟨fun miss => ?_, fun y hit own => ?_, fun y hit copied => ⟨s.modUnit u fun x => { x with l1 := x.l1.map (y.hurt pa) }, ?_, l1Hit_hurt hit, rfl, rfl⟩⟩
    · rw [error, miss]
    · rw [error, hit]
      simp only [own, Option.isSome_none, Bool.false_eq_true, ↓reduceIte]
    · rw [error, hit]
      simp only [copied, ↓reduceIte]
  case reg =>
    rw [State.hart_modHart_same]
    split
    next listed => simpa using listed
    next => exact List.mem_cons_self
  case tile =>
    rw [State.fe_modFe_same]
    exact badTile_tiles _
  case transit => exact ⟨_, onlyIf_of core .., rfl, rfl⟩
  case budget =>
    rw [capped_quad, budgeted_quad, capped_pkg, budgeted_fwhold, capped_dutySet, budgeted_unit, capped_mem, budgeted_mem]
    exact ⟨rfl, rfl, rfl, rfl, fun given legal => budgetDuties_first given legal, rfl⟩
  case comparator =>
    obtain ⟨duty, cap⟩ := comparator_quad (s := s) low
    have mem := comparator_mem (s := s)
    generalize (upTo 48).foldl State.quadFalls s = t at duty cap mem ⊢
    exact ⟨rfl, duty, cap, mem⟩
  case trip =>
    have trip : (((s.tripped q).capped q).quad q).trip = true := by rw [capped_quad, tripped_quad]
    exact ⟨trip, by rw [capped_pkg]; rfl, grantedPoint_of_trip trip⟩
  case tripEnd =>
    rw [capped_quad, capped_pkg, State.quad_modQuad_same]
    exact ⟨rfl, rfl⟩
  case hold =>
    rw [capped_quad, holding_quad, capped_pkg, holding_fwhold, capped_dutySet, holding_unit]
    exact ⟨rfl, minPoint_le_right .., holdDuties_first⟩
  case park =>
    intro d i low named state idle sealed
    have exec_park : exec i s = .next (parkDie s d) := by
      rcases List.mem_cons.mp named with same | named
      · cases same; rfl
      · cases List.mem_singleton.mp named; rfl
    rw [exec_park, parkDie_ready low state idle sealed]
    exact ⟨fun busy => by rw [busy]; rfl, fun free => by rw [free]; rfl⟩
  case unparkBusy =>
    intro busy
    rw [exec_unpark, unparkDie, busy]
    rfl
  case unparkUp =>
    intro idle up
    rw [exec_unpark, unparkDie, idle, up]
    rfl
  case unpark =>
    intro idle down
    rw [exec_unpark, unparkDie, idle, if_neg Bool.false_ne_true]
    dsimp only
    rw [if_neg down]
    exact ⟨fun busy => by rw [busy]; rfl, fun sealed => by rw [sealed]; rfl⟩
  case parkComplete =>
    intro d busy req low state
    have pkg : (s.dieDown d).pkg = s.pkg := dieDown_keeps (g := State.pkg) (fun _ _ _ => rfl) fun _ _ _ => rfl
    exact ⟨_, exec_parkComplete busy req low state, congrArg Pkg.parkReq pkg, rfl, dieDown_keeps (g := State.mem) (fun _ _ _ => rfl) fun _ _ _ => rfl, dieDown_up⟩
  case unparkComplete =>
    intro d busy req state low
    refine ⟨_, exec_unparkComplete busy req state low, ?_, ?_, fun core die => ?_⟩
    · rw [retireQuads_keeps (g := State.pkg) (fun _ _ _ => rfl) fun _ _ _ => rfl]; rfl
    · rw [retireQuads_keeps (g := State.pkg) (fun _ _ _ => rfl) fun _ _ _ => rfl]; rfl
    · have reset := dieUp_core (s := s) core die
      have quad : quadOf u < 48 := by
        have unit : u < 192 := of_decide_eq_true core
        unfold quadOf
        omega
      have retired : quadRetired ((s.dieUp d).modPkg fun p => { p with parkBusy := false, parkState := 0 }) (quadOf u) = quadRetired s (quadOf u) :=
        quadRetired_of_pkg (t := s.dieUp d) dieUp_pkg
      rw [retireQuads_unit, retired, decide_eq_true quad, Bool.true_and]
      refine ⟨?_, ?_, fun slot => ?_⟩
      · cases quadRetired s (quadOf u)
        · exact reset.up
        · rfl
      · cases quadRetired s (quadOf u) <;> exact reset.job
      · rw [retireQuads_keeps (g := fun t : State => t.hart u k) (fun _ _ _ => rfl) fun _ _ _ => rfl]
        exact reset.slots k slot
  case reset =>
    intro i m listed
    have start : ∃ b : State, exec i s = .next (resetSequence b) ∧ b.mem = m ∧ b.pkg = s.pkg := by
      rcases List.mem_cons.mp listed with same | listed
      · cases same; exact ⟨_, exec_powerOn, rfl, rfl⟩
      · cases List.mem_singleton.mp listed; exact ⟨s, exec_resetctlReset s, rfl, rfl⟩
    obtain ⟨b, start, rfl, pkg⟩ := start
    have restarted := resetSequence_restarted (s := b)
    rw [pkg] at restarted
    exact ⟨_, start, restarted.mem, restarted.units, restarted.quads q low, restarted.agenda, restarted.tables, restarted.retired, restarted.boots u⟩
  case request =>
    intro other
    rw [exec_attestationRequest, attestRequest, if_neg other]
  case again =>
    intro asked
    rw [exec_attestationRequest, attestRequest, if_pos asked]

end Sys2Proof.Machine
end

section
/-! Fatal removal: O50. -/

namespace Sys2Proof.Machine

open Sys2Proof

/-- A removal that the management station writes, with no unit left to stop. -/
def stationRemoval (sealed : Bool) : Removal :=
  { ncause := 0, writer := true, incomplete := false, held := [], todo := [], cores := 0, ucores := 0, dropped := 0, sealed := sealed, reg := false,
    pend := [] }

/-- The state after reset, but that the table of removals lists job 1 twice, sealed and then unsealed, and that mailbox slot 0 of cluster 0 holds a
record of the job under a time limit. -/
def removedTwice : State :=
  { State.reset.modCluster 0 fun c =>
      { c with wdctl := 0x10000, mailbox := [(0, { MboxSlot.reset with state := .full, record := [0x100000000] })] } with
    removals := [(1, stationRemoval true), (1, stationRemoval false)] }

theorem removedTwice_removing : removing removedTwice 1 = true := by decide

/-- The watchdog of the slot appends its cause; no range of job 0 maps the dump area, and the refused write gives every entry of the job the fields
of the one found first. -/
theorem exec_mboxWatchdog_removedTwice : ∃ t, exec (.mboxWatchdog 0 0) removedTwice = .next t ∧ removing t 1 = false :=
  ⟨startRemoval removedTwice 1 (stationCause (clusterDie 0) cWatchdog 0 (w64 0)) true false, rfl, by decide +kernel⟩

/-- Refutes O50: the statement asks of every state that MBOX_WATCHDOG leaves the removal of the record's job under way. In a state whose table of
removals lists a job twice, sealed and then unsealed, the refused write of the cause seals both. -/
theorem not_removalSteps : ¬ Obligations.RemovalSteps := by
  unfold Obligations.RemovalSteps
  intro h
  obtain ⟨-, -, -, -, -, -, mbox, -⟩ := h removedTwice 0 0 0 0 0
  obtain ⟨t, ran, stays⟩ := mbox (by decide) (by decide) (by decide)
  obtain ⟨t', ran', gone⟩ := exec_mboxWatchdog_removedTwice
  obtain rfl : t = t' := Host.Outcome.next.inj (ran.symm.trans ran')
  have job : recordJob (fget (removedTwice.cluster 0).mailbox 0 MboxSlot.reset).record = 1 := by decide
  rw [job, gone] at stays
  exact Bool.false_ne_true stays

end Sys2Proof.Machine
end
